-- ==== Sys2Proof/Word.lean ====
section
/-! DEFINITION. The word types of the TZ-940: bytes and the power-of-two word sizes its structures use. -/

namespace Sys2Proof

/-- One byte of memory or of a tile (R8). -/
abbrev Byte := BitVec 8
/-- A half word of 16 bits. -/
abbrev Word16 := BitVec 16
/-- A 32-bit word: destination words (R36), immediates (R30), load-stream words (R67). -/
abbrev Word32 := BitVec 32
/-- A 64-bit word: tags (R43), payloads, tile handles (R46). -/
abbrev Word64 := BitVec 64
/-- A 128-bit operator word or FANOUT record (R30, R40). -/
abbrev Word128 := BitVec 128
/-- A tag: GEN, FRAME, DEPTH, FILL and COLOUR packed by R43. -/
abbrev Tag := BitVec 64
/-- A SHA-384 digest (R70, R371). -/
abbrev Digest := BitVec 384

end Sys2Proof
end

