-- ==== Sys2Proof/Config.lean ====
section
/-! DEFINITION. What the device fixes outside the manual, and the free values: constants with no body, so that no
proof can see what they are and a statement holds whatever they are. -/

namespace Sys2Proof.Config

/-- The choice among the things that may happen next when the schedule of the state names none (R93: the order of
independent firings and events is free). A free value of the step counter. Log entry 4. -/
opaque pick : Nat → Nat
/-- Arithmetic-clock cycles that pass before a step the schedule does not time. A free value. Log entry 5. -/
opaque elapse : Nat → Nat
/-- How often a thing that may happen can be passed over before it must happen (R3). A free value. Log entry 4. -/
opaque patience : Nat
/-- A result that no rule states, by the operator word, the tag and the operands' payloads (R4: a result depends on
nothing else). A free value. Log entry 8. -/
opaque freeWord : BitVec 128 → BitVec 64 → List (BitVec 64) → BitVec 64
/-- The byte that another device answers to a dispatcher's read, by the step counter and the physical address. A free
value. Log entry 42. -/
opaque farByte : Nat → Nat → Byte
/-- How far the release of the firmware of a measurement lies above 2.4, modulo 252 (R1). Log entry 7. -/
opaque firmwareMinor : BitVec 384 → Nat
/-- Measurement of the firmware with which the device of State.reset has booted (R372, R469). Log entry 7. -/
opaque bootMeasure : BitVec 384
/-- Security version the device's fuses hold against roll-back (R469 step 2). Log entry 7. -/
opaque fusedVersion : Nat
/-- The AES-256-XTS key drawn from the device's internal random source when a virtual device is created (R349), by
the count of keys drawn. No rule lets a program or the host see it. Log entry 7. -/
opaque xtsKey : Nat → BitVec 512
/-- Does an Ed25519 signature over these bytes verify under this public key (R73)? The algorithm lies outside the
manual. Log entry 7. -/
opaque edVerify : BitVec 256 → List Byte → BitVec 512 → Bool
/-- Does an ML-DSA-65 signature over these bytes verify under this public key (R73)? Log entry 7. -/
opaque mlVerify : List Byte → List Byte → List Byte → Bool
/-- The Ed25519 signature over a quote body by the identity key that the device derives from a firmware measurement
(R372). Log entry 7. -/
opaque edSign : BitVec 384 → List Byte → BitVec 512
/-- The ML-DSA-65 signature over a quote body by the identity key of a firmware measurement (R372): its bytes by index.
Log entry 7. -/
opaque mlSign : BitVec 384 → List Byte → Nat → Byte
/-- A quote as it is written: of the fields of the body (R372), packed in the order of the manual, and the two
signatures. No rule gives the layout. A free value. Log entry 7. -/
opaque quoteLayout : List Byte → BitVec 512 → List Byte → List Byte
/-- Units of 1/42 ns by which device time is slewed in one advance, by the step counter; R464 bounds it at 200 ppm. A
free value. Log entry 5. -/
opaque slew : Nat → Nat
/-- Does a device reset's training of memory and links succeed (R469 step 4)? By the step counter. A free value. Log
entry 7. -/
opaque trains : Nat → Bool

end Sys2Proof.Config
end

