-- ==== Sys2Proof/Syntax.lean ====
section
/-! DEFINITION. The instructions: the fields of an operator word and of its destination words, micro-operations,
load-stream commands, host commands, and Instr, one constructor per row of the table of operations and events. -/

namespace Sys2Proof

/-- Element formats, in the order of their FMT codes (R50). -/
inductive Fmt where
  | s8 | z8 | s16 | z16 | s32 | z32 | s64 | z64 | f32 | f16 | bf16 | e4m3 | e5m2 | e2m1 | mx8e4 | mx8e5 | mx4
  | a36 | s4 | bit | handle
  deriving DecidableEq, Repr, Inhabited

/-- Tag actions, in the order of their TA codes (R33). -/
inductive TagAct where
  | keep | push | pop | next | setin | ret
  deriving DecidableEq, Repr, Inhabited

/-- The three ports of an operator (R31). -/
inductive Port where
  | a | b | c
  deriving DecidableEq, Repr, Inhabited

/-- Number of token ports (R30: ARITY 0b00 is reserved). -/
inductive Arity where
  | one | two | three
  deriving DecidableEq, Repr, Inhabited

/-- What PORT names: a port of the target, or a FANOUT record (R36). -/
inductive DestPort where
  | to (p : Port)
  | link
  deriving DecidableEq, Repr, Inhabited

/-- Destination modes (R36, R37). -/
inductive DestMode where
  | fixed | spread | producer | remote
  deriving DecidableEq, Repr, Inhabited

/-- A destination word with V = 1 (R36). A word with V = 0 is none. -/
structure Dest where
  port : DestPort
  mode : DestMode
  cell : BitVec 11
  sprA : BitVec 2
  sprB : BitVec 2
  slot : BitVec 11
  deriving DecidableEq, Repr, Inhabited

/-- The fields of an operator word other than OPC (R30). -/
structure OpFields where
  var : BitVec 4
  arity : Arity
  lit : Option Port
  ta : TagAct
  tw : BitVec 4
  fmt : Fmt
  mod : BitVec 4
  imm : BitVec 32
  d0 : Option Dest
  d1 : Option Dest
  deriving DecidableEq, Repr, Inhabited

/-- Registers of an attar firing (R256). -/
inductive Reg where
  | m (i : BitVec 4)
  | q (i : BitVec 3)
  | ac (i : BitVec 2)
  | lc (i : BitVec 1)
  | mk
  | z
  deriving DecidableEq, Repr, Inhabited

/-- Micro-operations, in the order of their MOP codes 0x00 to 0x23 (R258). -/
inductive Mop where
  | mnop | mimm | mmov | mldr | mstr | mstep | madd | msub | mmul | mfma | mmin | mmax | mabs | mneg | mrcp | mrsq
  | mexp2 | mlog2 | mcvt | mcmp | msel | mand | mor | mxor | mshl | mshr | mlut | mred | mbcst | mqop | mloop
  | mbrnz | mtrap | mend | macc | maccw
  deriving DecidableEq, Repr, Inhabited

/-- A micro-operation word (R257). -/
structure MicroWord where
  mop : Mop
  dst : Reg
  sa : Reg
  sb : Reg
  sc : Reg
  mf : BitVec 4
  rnd : BitVec 3
  imm : BitVec 31
  deriving DecidableEq, Repr, Inhabited

/-- Load-stream commands (R68). -/
inductive StreamOp where
  | nop | wops | wrec | clr | fin
  deriving DecidableEq, Repr, Inhabited

/-- Who acts on the host side: the physical function or a virtual device (R348, R456). -/
inductive Fn where
  | pf
  | vdev (n : Nat)
  deriving DecidableEq, Repr, Inhabited

/-- A command read from a submission slot, less its code (R456). cdest is none when CDEST has V = 0. -/
structure Cmd where
  fn : Fn
  id : BitVec 32
  arg0 : Word64
  arg1 : Word64
  arg2 : Word64
  arg3 : BitVec 256
  cdest : Option Dest
  casid : BitVec 10
  ctag : Tag
  deriving DecidableEq, Repr, Inhabited

/-- The response of another device to a request of this one, or of this one to a request of another (R298, R304,
R328, R462). -/
structure RemoteReply where
  /-- the class and code of the trap with which the far home refused the request (R304, R462) -/
  refused : Option (Nat × Nat)
  /-- the far home has listed an ITAKE or registered a WAITV: the answer follows later -/
  listed : Bool
  /-- a line was poisoned at the far home (R302) -/
  poison : Bool
  /-- the bytes read, or the value an atomic answers -/
  data : List Byte
  /-- flags of a float atomic applied at the far home (R321) -/
  flags : BitVec 6
  /-- which access of the operation it answers: each response is delivered once (R298) -/
  acc : Nat := 0
  deriving DecidableEq, Repr, Inhabited

/-- A token from another device as the fabric delivers it (R462). -/
structure FabToken where
  dev : Nat
  asid : Nat
  key : BitVec 32
  target : Nat
  dest : BitVec 32
  tag : Tag
  payload : Word64
  poison : Bool
  eos : Bool
  fcell : Nat
  fslot : Nat
  port : Nat
  /-- the tile's bytes when the payload is a handle -/
  tile : Option (List Byte)
  deriving DecidableEq, Repr, Inhabited

/-- What a memory request to another device asks of one line (R298, R462). Places of bytes count from the request's
address. -/
inductive FabOp where
  | load (parts : List (Nat × Nat))
  | store (parts : List (Nat × List Byte))
  | atom (var : Nat) (fmt : Fmt) (b : Word64)
  | cas (fmt : Fmt) (b c : Word64)
  /-- the reservation of a line's key, with what is to be reduced into the line after the commit (R304) -/
  | ared (var : Nat) (fmt : Fmt) (parts : List (Nat × List Byte))
  /-- the requester has committed: the line of its request n is applied (R304, R324) -/
  | commit (n : Nat)
  /-- the requester has not committed: the key that its request n took is released (R304) -/
  | release (n : Nat)
  | iput (v : Word64)
  | itake
  | iclr
  | join (n : BitVec 32)
  /-- a line of a page frame that is filled with zeros: its words become empty and its poison goes (R295) -/
  | zeroLine
  | waitv (cond : Nat) (fmt : Fmt) (b : Word64)
  deriving DecidableEq, Repr, Inhabited

/-- A memory request from another device (R298, R462): who asks, its number for the answer, the address here, and the
cell, slot and tag that an arena entry names (R322). -/
structure FabRequest where
  dev : Nat
  id : Nat
  asid : Nat
  pa : Nat
  /-- the requester's virtual address, by which an arena entry names the word or the line (R322) -/
  va : Nat
  op : FabOp
  poison : Bool
  cell : Nat
  slot : Nat
  tag : Tag
  /-- the port at which it came in (R460) -/
  port : Nat := 0
  deriving DecidableEq, Repr, Inhabited

/-- An answer to a request of another device (R298). -/
structure FabAnswer where
  dev : Nat
  id : Nat
  reply : RemoteReply
  deriving DecidableEq, Repr, Inhabited

/-- What a flit completes (R460). -/
inductive FlitBody where
  | idle
  | token (t : FabToken)
  | request (r : FabRequest)
  deriving DecidableEq, Repr, Inhabited

/-- A host access that is not a register write (R455, R466): a load or store through the memory aperture, at an offset,
or a load of a register at an offset of the register aperture. -/
inductive HostAccess where
  | load (off len : Nat)
  | store (off : Nat) (data : List Byte)
  | readReg (off : Nat)
  deriving DecidableEq, Repr, Inhabited

/-- A firmware image as the boot ROM meets it (R469). -/
structure Firmware where
  /-- its bytes -/
  image : List Byte
  /-- both signatures verify under the fused keys -/
  edOk : Bool
  mlOk : Bool
  /-- its security version -/
  version : Nat
  /-- its training of memory and links succeeds -/
  trained : Bool
  deriving DecidableEq, Repr, Inhabited

/-- Where an uncorrectable error lies (R472). -/
inductive ErrSite where
  | hbmLine (pa : Nat)
  | tileLine (cell line : Nat)
  | ringLine (cell line : Nat)
  | accRow (cell acc row : Nat)
  | tlb (cell n : Nat)
  /-- entry n of the shared TLB of a die (R365) -/
  | sharedTlb (die n : Nat)
  | cellState (cell asid : Nat)
  | controlCore
  deriving DecidableEq, Repr, Inhabited

/-- One step of the device: the firing of an operator, or one of the events of the table. Where an event names a
number n, it is the place of the thing acted on in the list of the state that holds such things. -/
inductive Instr where
  /-- PASS (R122): emits port a under the tag TA gives; under SETIN port b supplies the new innermost field. -/
  | pass (w : OpFields)
  /-- SYNC (R123): emits port a; ports b and c contribute only their EOS. -/
  | sync (w : OpFields)
  /-- SWITCH (R124): port a to the D0 side when predicate b is true, to the D1 side otherwise. -/
  | switch (w : OpFields)
  /-- SEL (R125): emits b when selector a is true and c otherwise. -/
  | sel (w : OpFields)
  /-- CONST (R126): emits the literal on any trigger. -/
  | const (w : OpFields)
  /-- SINK (R127): consumes one set and emits nothing. -/
  | sink (w : OpFields)
  /-- ENDS (R128): emits port a with its EOS set or, under CLR, cleared. -/
  | ends (w : OpFields)
  /-- ISEOS (R129): port a to the D0 side when its EOS is 1, to the D1 side otherwise. -/
  | iseos (w : OpFields)
  /-- COUNT (R130): consumes the first n tokens of a key and emits n. -/
  | count (w : OpFields)
  /-- LENTER (R131): pushes a colour field and opens a loop record. -/
  | lenter (w : OpFields)
  /-- LNEXT (R132): claims the next colour of a loop. -/
  | lnext (w : OpFields)
  /-- LEXIT (R132): closes a loop record. -/
  | lexit (w : OpFields)
  /-- LDONE (R132): retires a colour. -/
  | ldone (w : OpFields)
  /-- GETCOL (R134): emits the low bits of COLOUR. -/
  | getcol (w : OpFields)
  /-- SETTAG (R135): replaces the low 48 bits of the tag. -/
  | settag (w : OpFields)
  /-- SPAWN (R137): requests a frame for a child. -/
  | spawn (w : OpFields)
  /-- CALL (R138): requests a frame and sends two arguments to it. -/
  | call (w : OpFields)
  /-- RET (R140): emits under the return-link tag and ends the frame. -/
  | ret (w : OpFields)
  /-- FEND (R141): ends the frame. -/
  | fend (w : OpFields)
  /-- GANG (R139): requests n frames at once. -/
  | gang (w : OpFields)
  /-- FRAMEID (R142): emits the frame word. -/
  | frameid (w : OpFields)
  /-- KILLF (R143): ends a named frame. -/
  | killf (w : OpFields)
  /-- ADD (R184): a + b. -/
  | add (w : OpFields)
  /-- SUB (R184): a - b. -/
  | sub (w : OpFields)
  /-- MUL (R184): a * b. -/
  | mul (w : OpFields)
  /-- MULH (R184): the upper half of the product. -/
  | mulh (w : OpFields)
  /-- DIV (R185): quotient toward zero. -/
  | div (w : OpFields)
  /-- REM (R185): remainder. -/
  | rem (w : OpFields)
  /-- AND (R186): bitwise and. -/
  | and (w : OpFields)
  /-- OR (R186): bitwise or. -/
  | or (w : OpFields)
  /-- XOR (R186): bitwise exclusive or. -/
  | xor (w : OpFields)
  /-- ANDN (R186): a and not b. -/
  | andn (w : OpFields)
  /-- SHL (R186): shift left. -/
  | shl (w : OpFields)
  /-- SHR (R186): logical shift right. -/
  | shr (w : OpFields)
  /-- SRA (R186): arithmetic shift right. -/
  | sra (w : OpFields)
  /-- ROTL (R186): rotate left. -/
  | rotl (w : OpFields)
  /-- MIN (R186): lesser. -/
  | min (w : OpFields)
  /-- MAX (R186): greater. -/
  | max (w : OpFields)
  /-- CMP (R187): comparison by VAR. -/
  | cmp (w : OpFields)
  /-- CLZ (R186): leading zeros. -/
  | clz (w : OpFields)
  /-- POPC (R186): set bits. -/
  | popc (w : OpFields)
  /-- BEXT (R188): extracts a bit field. -/
  | bext (w : OpFields)
  /-- BINS (R188): inserts a bit field. -/
  | bins (w : OpFields)
  /-- MAD (R184): a * b + c. -/
  | mad (w : OpFields)
  /-- ADDRC (R189): forms a virtual address. -/
  | addrc (w : OpFields)
  /-- ABS (R184): absolute value. -/
  | abs (w : OpFields)
  /-- NEG (R184): negation. -/
  | neg (w : OpFields)
  /-- ICVT (R190): integer conversion. -/
  | icvt (w : OpFields)
  /-- MIX (R191): mixes two words by mix64. -/
  | mix (w : OpFields)
  /-- PACK (R192): packs two halves. -/
  | pack (w : OpFields)
  /-- UNPK (R192): emits the two halves. -/
  | unpk (w : OpFields)
  /-- FADD (R194): a + b. -/
  | fadd (w : OpFields)
  /-- FSUB (R194): a - b. -/
  | fsub (w : OpFields)
  /-- FMUL (R194): a * b. -/
  | fmul (w : OpFields)
  /-- FFMA (R194): a * b + c rounded once. -/
  | ffma (w : OpFields)
  /-- FDIV (R194): a / b. -/
  | fdiv (w : OpFields)
  /-- FSQRT (R194): square root. -/
  | fsqrt (w : OpFields)
  /-- FMIN (R195): lesser. -/
  | fmin (w : OpFields)
  /-- FMAX (R195): greater. -/
  | fmax (w : OpFields)
  /-- FCMP (R196): comparison by VAR. -/
  | fcmp (w : OpFields)
  /-- FCVT (R197): float to float. -/
  | fcvt (w : OpFields)
  /-- FCLASS (R198): class mask. -/
  | fclass (w : OpFields)
  /-- FTOI (R197): float to integer. -/
  | ftoi (w : OpFields)
  /-- ITOF (R197): integer to float. -/
  | itof (w : OpFields)
  /-- VADD (R205): a + b by element. -/
  | vadd (w : OpFields)
  /-- VSUB (R205): a - b by element. -/
  | vsub (w : OpFields)
  /-- VMUL (R205): a * b by element. -/
  | vmul (w : OpFields)
  /-- VFMA (R205): a * b + c by element. -/
  | vfma (w : OpFields)
  /-- VDIV (R205): a / b by element. -/
  | vdiv (w : OpFields)
  /-- VMIN (R205): lesser by element. -/
  | vmin (w : OpFields)
  /-- VMAX (R205): greater by element. -/
  | vmax (w : OpFields)
  /-- VABS (R205): absolute value by element. -/
  | vabs (w : OpFields)
  /-- VNEG (R205): negation by element. -/
  | vneg (w : OpFields)
  /-- VSQRT (R205): square root by element. -/
  | vsqrt (w : OpFields)
  /-- VRSQ (R205): reciprocal square root by element. -/
  | vrsq (w : OpFields)
  /-- VRCP (R205): reciprocal by element. -/
  | vrcp (w : OpFields)
  /-- VEXP2 (R208): 2^x by element. -/
  | vexp2 (w : OpFields)
  /-- VLOG2 (R209): log2 x by element. -/
  | vlog2 (w : OpFields)
  /-- VTANH (R210): tanh x by element. -/
  | vtanh (w : OpFields)
  /-- VCVT (R211): format conversion by element. -/
  | vcvt (w : OpFields)
  /-- VSCAL (R206): tile with scalar. -/
  | vscal (w : OpFields)
  /-- VFILL (R215): tile of one value. -/
  | vfill (w : OpFields)
  /-- VCMP (R212): comparison into a bit tile. -/
  | vcmp (w : OpFields)
  /-- VMSEL (R213): selection by a bit tile. -/
  | vmsel (w : OpFields)
  /-- VAND (R214): bitwise and. -/
  | vand (w : OpFields)
  /-- VOR (R214): bitwise or. -/
  | vor (w : OpFields)
  /-- VXOR (R214): bitwise exclusive or. -/
  | vxor (w : OpFields)
  /-- VSHF (R214): shift by VAR. -/
  | vshf (w : OpFields)
  /-- VTRAN (R216): transpose. -/
  | vtran (w : OpFields)
  /-- VSLIC (R217): window of a tile. -/
  | vslic (w : OpFields)
  /-- VROWOP (R206): tile with a column of row values. -/
  | vrowop (w : OpFields)
  /-- VCOLOP (R206): tile with a row of column values. -/
  | vcolop (w : OpFields)
  /-- MMA (R241): matrix multiply-accumulate. -/
  | mma (w : OpFields)
  /-- MMAS (R244): the same with 2:4 sparse A. -/
  | mmas (w : OpFields)
  /-- MMAG (R242): the same with a ragged row count. -/
  | mmag (w : OpFields)
  /-- MCOMP (R243): makes the 2:4 form. -/
  | mcomp (w : OpFields)
  /-- AZERO (R245): claims and zeroes an accumulator. -/
  | azero (w : OpFields)
  /-- ADRAIN (R247): converts the accumulator into tiles. -/
  | adrain (w : OpFields)
  /-- ALOAD (R246): claims an accumulator and loads it. -/
  | aload (w : OpFields)
  /-- AREAD (R248): reads a window of an accumulator. -/
  | aread (w : OpFields)
  /-- APATCH (R249): writes a window of an accumulator. -/
  | apatch (w : OpFields)
  /-- RSUM (R223): row or column sums. -/
  | rsum (w : OpFields)
  /-- RMAX (R224): row or column maxima. -/
  | rmax (w : OpFields)
  /-- RMIN (R224): row or column minima. -/
  | rmin (w : OpFields)
  /-- RARGX (R224): index of the extreme element. -/
  | rargx (w : OpFields)
  /-- TOPK (R226): the k highest elements of each row. -/
  | topk (w : OpFields)
  /-- NORMK (R227): scales each row to sum 1. -/
  | normk (w : OpFields)
  /-- STEER (R230): distributes rows among buckets. -/
  | steer (w : OpFields)
  /-- ORDMRG (R231): joins two tiles in SEQ order. -/
  | ordmrg (w : OpFields)
  /-- SORT (R228): sorts each row. -/
  | sort (w : OpFields)
  /-- PARTN (R229): splits elements by a pivot. -/
  | partn (w : OpFields)
  /-- SCAN (R223): prefix sums. -/
  | scan (w : OpFields)
  /-- LDT (R309): reads a tile. -/
  | ldt (w : OpFields)
  /-- STT (R310): writes a tile. -/
  | stt (w : OpFields)
  /-- LDS (R313): reads a scalar. -/
  | lds (w : OpFields)
  /-- STS (R313): writes a scalar. -/
  | sts (w : OpFields)
  /-- GATH (R311): reads rows by index. -/
  | gath (w : OpFields)
  /-- SCAT (R311): writes rows by index. -/
  | scat (w : OpFields)
  /-- PREF (R312): prefetch. -/
  | pref (w : OpFields)
  /-- FENCE (R314): waits for the frame's earlier operations on the cell. -/
  | fence (w : OpFields)
  /-- BPUT (R317): puts a tile into a ring. -/
  | bput (w : OpFields)
  /-- BGET (R317): takes a tile from a ring. -/
  | bget (w : OpFields)
  /-- BINIT (R316): makes a ring ready. -/
  | binit (w : OpFields)
  /-- ATOM (R319): atomic operation by VAR. -/
  | atom (w : OpFields)
  /-- CAS (R319): compare and swap. -/
  | cas (w : OpFields)
  /-- ARED (R323): reducing copy. -/
  | ared (w : OpFields)
  /-- IPUT (R325): fills a write-once word. -/
  | iput (w : OpFields)
  /-- ITAKE (R325): takes a write-once word. -/
  | itake (w : OpFields)
  /-- ICLR (R325): empties a write-once word. -/
  | iclr (w : OpFields)
  /-- JOIN (R326): counts arrivals. -/
  | join (w : OpFields)
  /-- WAITV (R327): waits for a value. -/
  | waitv (w : OpFields)
  /-- TRAP (R397): raises SOFT. -/
  | trap (w : OpFields)
  /-- PARK (R398): places a frame break. -/
  | park (w : OpFields)
  /-- RESUME (R399): resolves a trap record. -/
  | resume (w : OpFields)
  /-- TRACE (R402): appends a trace record. -/
  | trace (w : OpFields)
  /-- WATCH (R403): arms a watch slot. -/
  | watch (w : OpFields)
  /-- UNWATCH (R406): clears watch slots. -/
  | unwatch (w : OpFields)
  /-- FLAGS (R407): reads a flag word. -/
  | flags (w : OpFields)
  /-- TIME (R408): reads the clock. -/
  | time (w : OpFields)
  /-- LOADG (R154): writes a segment into the shadow plane. -/
  | loadg (w : OpFields)
  /-- SWAPG (R157): exchanges the planes. -/
  | swapg (w : OpFields)
  /-- DRAIN (R156): waits for quiescence. -/
  | drain (w : OpFields)
  /-- QUERY (R159): reads a counter. -/
  | query (w : OpFields)
  /-- XOP 0 to 63 (R52, R269): a bound attar routine. -/
  | xop (n : BitVec 6) (w : OpFields)
  /-- ATTAR_BANK_LOAD (R273): the n-th bank load of the cell completes. -/
  | attarBankLoad (cell n : Nat)
  /-- TOKEN_ARRIVAL (R79): the n-th token in flight reaches its cell. -/
  | tokenArrival (n : Nat)
  /-- HELD_TOKEN_ACCEPT (R79): the n-th packet held at the cell's input is tried again. -/
  | heldTokenAccept (cell n : Nat)
  /-- CGEN_HOLD_RELEASE (R158): the n-th packet held for a flip is accepted. -/
  | cgenHoldRelease (cell n : Nat)
  /-- PACKET_ARRIVAL (R83): one packet of the n-th tile in flight arrives. -/
  | packetArrival (n : Nat)
  /-- SPILL_LOOKUP (R80): the lookup for the n-th held packet completes. -/
  | spillLookup (cell n : Nat)
  /-- REFILL (R80): one spilled entry returns to the cell. -/
  | refill (cell : Nat)
  /-- SPACE_CLAIM_SPILL (R87): the cell spills tiles for its space claim. -/
  | spaceClaimSpill (cell : Nat)
  /-- SPILLED_SET_RETURN (R87): the tiles of the oldest spilled set return. -/
  | spilledSetReturn (cell : Nat)
  /-- WATCHDOG_FIRST_EXPIRY (R95): the watchdog's stage one. -/
  | watchdogFirstExpiry (asid : Nat)
  /-- WATCHDOG_SECOND_EXPIRY (R97): the watchdog's stage two. -/
  | watchdogSecondExpiry (asid : Nat)
  /-- HELD_LNEXT_RELEASE (R112): the LNEXT waiting in the cell's n-th loop record claims its colour. -/
  | heldLnextRelease (cell n : Nat)
  /-- HELD_LENTER_GRANT (R111): the oldest waiting LENTER that can be served opens its record. -/
  | heldLenterGrant (cell : Nat)
  /-- HELD_FRAME_GRANT (R108): the oldest waiting SPAWN or CALL that can be served commits. -/
  | heldFrameGrant (asid : Nat)
  /-- GANG_GRANT (R109): the oldest waiting GANG commits. -/
  | gangGrant (asid : Nat)
  /-- RESIDENCY_APPLY_DONE (R151): the context's residency application completes. -/
  | residencyApplyDone (asid : Nat)
  /-- SWEEP_COMPLETE (R103): the sweep of a frame is complete. -/
  | sweepComplete (asid frame : Nat)
  /-- LAUNCH_APPLY (R150): the oldest queued launch is applied. -/
  | launchApply (asid : Nat)
  /-- LOADG_APPLY (R154): the LOADG at the head of the plane operations is applied. -/
  | loadgApply (asid : Nat)
  /-- DRAIN_QUIESCENT (R156): the DRAIN at the head of the plane operations is answered. -/
  | drainQuiescent (asid : Nat)
  /-- SWAPG_FLIP (R157): the SWAPG at the head of the plane operations acts. -/
  | swapgFlip (asid : Nat)
  /-- FENCE_RELEASE (R314): a waiting FENCE emits. -/
  | fenceRelease (cell sid : Nat)
  /-- BPUT_RELEASE (R318): the oldest BPUT held on a ring is served. -/
  | bputRelease (cell ring : Nat)
  /-- BGET_RELEASE (R318): the oldest BGET held on a ring is served. -/
  | bgetRelease (cell ring : Nat)
  /-- HOME_ACCESS (R281): a home applies one access of an operation. -/
  | homeAccess (op acc : Nat)
  /-- ACCEPTANCE_REPLY (R304): the homes' replies decide an operation. -/
  | acceptanceReply (op : Nat)
  /-- MEMORY_OP_PERFORMED (R292): an operation is performed, or its response arrives. -/
  | memoryOpPerformed (op : Nat) (reply : Option RemoteReply)
  /-- REMOTE_TIMEOUT (R328): a remote request gets no response in 2 ms. -/
  | remoteTimeout (op : Nat)
  /-- PAGE_WALK_DONE (R361): the n-th walk in progress completes. -/
  | pageWalkDone (n : Nat)
  /-- ZERO_CLAIM (R295): the n-th zero claim reaches its home. -/
  | zeroClaim (n : Nat)
  /-- ZERO_FILL_DONE (R295): the n-th zero fill is performed. -/
  | zeroFillDone (n : Nat)
  /-- TLB_INVAL_COMPLETE (R297): the n-th invalidation in progress completes. -/
  | tlbInvalComplete (n : Nat)
  /-- PARKING_BROADCAST_ARRIVAL (R380): a parking broadcast reaches a cell. -/
  | parkingBroadcastArrival (n cell : Nat)
  /-- TRAP_RECORD_WRITE (R378): the oldest trap without a record takes an index. -/
  | trapRecordWrite (asid : Nat)
  /-- TRAP_DELIVERY (R383): the oldest undelivered record is delivered. -/
  | trapDelivery (asid : Nat)
  /-- HANDLER_FAULT (R384): the oldest escalation is reported to the host. -/
  | handlerFault (asid : Nat)
  /-- PARK_DECIDED (R398): the dispatcher decides the n-th request, a PARK. -/
  | parkDecided (n : Nat)
  /-- RESUME_DECIDED (R400): the dispatcher decides the n-th request, a RESUME. -/
  | resumeDecided (n : Nat)
  /-- WATCH_ARM_APPLIED (R405): every cell has applied the n-th request's arm. -/
  | watchArmApplied (n : Nat)
  /-- UNWATCH_APPLIED (R406): every cell has applied the n-th request's clear. -/
  | unwatchApplied (n : Nat)
  /-- FLAGS_DECIDED (R407): the holder answers the n-th request, a FLAGS. -/
  | flagsDecided (n : Nat)
  /-- SILLAGE_WALK_STEP (R429): one step of the n-th walk in flight. -/
  | sillageWalkStep (n : Nat)
  /-- BREAK_BIT_APPLIED (R430): a break-bit change reaches its cell. -/
  | breakBitApplied (n cell : Nat)
  /-- SLICE_BOUNDARY (R420): device time reaches a slice boundary. -/
  | sliceBoundary (asid : Nat)
  /-- DRYDOWN_STOP_ACKNOWLEDGED (R411): every cell has acknowledged the stop. -/
  | drydownStopAcknowledged (asid : Nat)
  /-- DRYDOWN_FINISHED (R411): no firing of the context is running. -/
  | drydownFinished (asid : Nat)
  /-- DRYDOWN_PERFORMED (R411): no request of the context is outstanding. -/
  | drydownPerformed (asid : Nat)
  /-- DRYDOWN_MARKERS_ARRIVED (R414): the inbox opens and the save runs. -/
  | drydownMarkersArrived (asid : Nat)
  /-- DRYDOWN_SAVED (R411): the cells are released. -/
  | drydownSaved (asid : Nat)
  /-- INBOX_WRITE (R413): the n-th token in flight is written to its context's inbox. -/
  | inboxWrite (n : Nat)
  /-- CONTEXT_RESTORE (R419): a saved context is restored. -/
  | contextRestore (asid : Nat)
  /-- SQTAIL (R456): the doorbell of a submission ring. -/
  | sqtail (fn : Fn) (value : Word64)
  /-- CQHEAD (R466): the host frees completion entries. -/
  | cqhead (fn : Fn) (value : Word64)
  /-- RING_ENABLE (R466): ENABLE is set. -/
  | ringEnable (fn : Fn)
  /-- RING_DISABLE (R466): ENABLE is cleared. -/
  | ringDisable (fn : Fn)
  /-- DEVNUM (R463): the device's own number is written. -/
  | devnum (value : Word64)
  /-- REGISTER_WRITE (R466): a write at an offset of the register aperture. -/
  | registerWrite (caller : Fn) (off : Nat) (value : Word64)
  /-- VDEV_CREATE (R465): command 0x01. -/
  | vdevCreate (c : Cmd)
  /-- VDEV_DESTROY (R470): command 0x02. -/
  | vdevDestroy (c : Cmd)
  /-- THAW (R370): command 0x03. -/
  | thaw (c : Cmd)
  /-- GRANULE (R349): command 0x04. -/
  | granule (c : Cmd)
  /-- CTX_CREATE (R350): command 0x10. -/
  | ctxCreate (c : Cmd)
  /-- CTX_DESTROY (R355): command 0x11. -/
  | ctxDestroy (c : Cmd)
  /-- LAUNCH (R150): command 0x12. -/
  | launch (c : Cmd)
  /-- PREEMPT (R411): command 0x13. -/
  | preempt (c : Cmd)
  /-- TLB_INVAL (R297): command 0x14. -/
  | tlbInval (c : Cmd)
  /-- RESOLVE (R467): command 0x15. -/
  | resolve (c : Cmd)
  /-- KILLFR (R458): command 0x16. -/
  | killfr (c : Cmd)
  /-- BRKSET (R430): command 0x17. -/
  | brkset (c : Cmd)
  /-- SILLAGE (R428): command 0x18. -/
  | sillage (c : Cmd)
  /-- QUOTE (R372): command 0x19. -/
  | quote (c : Cmd)
  /-- PAIR (R461): command 0x1A. -/
  | pair (c : Cmd)
  /-- EXPORT (R462): command 0x1B. -/
  | exportGranules (c : Cmd)
  /-- FREEZE_NOTIFICATION (R474): the n-th freeze record waiting is written. -/
  | freezeNotification (n : Nat)
  /-- HOST_APERTURE_ACCESS (R455): a host load or store through the aperture. -/
  | hostApertureAccess (fn : Fn) (what : HostAccess)
  /-- FLIT_RECEIVE (R460): a flit arrives at a fabric port. -/
  | flitReceive (port seq : Nat) (crcOk : Bool) (body : FlitBody)
  /-- FABRIC_TOKEN_ARRIVAL (R462): the n-th token received from the fabric is checked. -/
  | fabricTokenArrival (n : Nat)
  /-- REMOTE_REQUEST_ARRIVAL (R462): the n-th request received from the fabric is served. -/
  | remoteRequestArrival (n : Nat)
  /-- PTP_MESSAGE (R464): a master gives device time's offset in ns. -/
  | ptpMessage (offset : Int)
  /-- POWER_ON (R469): power is applied. -/
  | powerOn (fw : Firmware)
  /-- DEVICE_RESET (R470): the physical function resets the module. -/
  | deviceReset
  /-- FIRMWARE_UPDATE (R469): an update in the recovery state. -/
  | firmwareUpdate (fw : Firmware)
  /-- THERMAL_STEP_CHANGE (R471): the hottest die and stack, in degrees. -/
  | thermalStepChange (die stack : Nat)
  /-- CORRECTED_ERROR (R472): ECC repairs an error. -/
  | correctedError
  /-- UNCORRECTABLE_ERROR (R472): ECC finds an error it cannot repair. -/
  | uncorrectableError (at_ : ErrSite)
  /-- SWEEP_BROADCAST_ARRIVAL (R103): a sweep reaches a cell and the homes on it. -/
  | sweepBroadcastArrival (n cell : Nat)
  /-- PLANE_FLIP_ARRIVAL (R157): a flip reaches a cell. -/
  | planeFlipArrival (n cell : Nat)
  /-- FRAME_BREAK_ARRIVAL (R398): a frame break reaches a cell. -/
  | frameBreakArrival (n cell : Nat)
  /-- WATCH_ARM_ARRIVAL (R405): a watch arm or clear reaches a cell. -/
  | watchArmArrival (n cell : Nat)
  /-- STOP_BROADCAST_ARRIVAL (R411): a stop reaches a cell. -/
  | stopBroadcastArrival (n cell : Nat)
  /-- OUTGOING_TRANSFER_DONE (R85): the last packet of an outgoing transfer leaves. -/
  | outgoingTransferDone (n : Nat)
  /-- GRANULE_SCRUB_COMPLETE (R349): a granule's scrub is performed. -/
  | granuleScrubComplete (g : Nat)
  /-- PTPFREE (R464): no master is present. -/
  | ptpfree
  /-- POWER_OFF (R18): the module loses power. -/
  | powerOff
  deriving DecidableEq, Repr, Inhabited

end Sys2Proof
end

