-- ==== Sys2Proof/Machine/Encodings.lean ====
section
/-! DEFINITION. Which values of the fields each operator accepts (R31 to R42, R53 and the encoding tables R120, R152,
R182, R193, R204, R220, R240, R252, R305, R396): one predicate per operator, over shared ones. -/

namespace Sys2Proof.Enc

/-! ### Sets of formats -/

def Fmt.isInt : Fmt → Bool
  | .s8 | .z8 | .s16 | .z16 | .s32 | .z32 | .s64 | .z64 => true
  | _ => false
/-- The carry formats C of R115, which are also those a literal is built for (R32). -/
def Fmt.isCarry (f : Fmt) : Bool :=
  Fmt.isInt f || f == .f32 || f == .f16 || f == .bf16 || f == .bit
/-- C or handle. -/
def Fmt.isCarryH (f : Fmt) : Bool := Fmt.isCarry f || f == .handle
/-- F of R193 and VF of R204. -/
def Fmt.isF (f : Fmt) : Bool := f == .f32 || f == .f16 || f == .bf16
/-- G of R193. -/
def Fmt.isG (f : Fmt) : Bool := Fmt.isF f || f == .e5m2 || f == .e4m3 || f == .e2m1 || f == .a36
/-- VI of R204. -/
def Fmt.isVI (f : Fmt) : Bool := Fmt.isInt f && f != .s64 && f != .z64
/-- VI and VF. -/
def Fmt.isVIF (f : Fmt) : Bool := Fmt.isVI f || Fmt.isF f
/-- VT of R204. -/
def Fmt.isVT (f : Fmt) : Bool := Fmt.isVIF f || f == .e4m3 || f == .e5m2
/-- MX block formats (R165). -/
def Fmt.isMX (f : Fmt) : Bool := f == .mx8e4 || f == .mx8e5 || f == .mx4
/-- VX of R204. -/
def Fmt.isVX (f : Fmt) : Bool := Fmt.isVT f || f == .e2m1 || Fmt.isMX f || f == .a36 || f == .s4
/-- VS of R204: every code 0x00 to 0x13. -/
def Fmt.isVS (f : Fmt) : Bool := f != .handle
/-- IF of R305. -/
def Fmt.isIF (f : Fmt) : Bool := Fmt.isInt f || Fmt.isF f
/-- Signed integer formats (s4 and the integer reading of a36 are signed too). -/
def Fmt.signed (f : Fmt) : Bool := f == .s8 || f == .s16 || f == .s32 || f == .s64 || f == .s4 || f == .a36

/-- Width of FMT code (R50): the code itself. -/
def Fmt.code : Fmt → BitVec 5
  | .s8 => 0x00 | .z8 => 0x01 | .s16 => 0x02 | .z16 => 0x03 | .s32 => 0x04 | .z32 => 0x05 | .s64 => 0x06
  | .z64 => 0x07 | .f32 => 0x08 | .f16 => 0x09 | .bf16 => 0x0A | .e4m3 => 0x0B | .e5m2 => 0x0C | .e2m1 => 0x0D
  | .mx8e4 => 0x0E | .mx8e5 => 0x0F | .mx4 => 0x10 | .a36 => 0x11 | .s4 => 0x12 | .bit => 0x13 | .handle => 0x14

/-- The format of a code; 0x15 to 0x1F are reserved (R50). -/
def Fmt.ofNat : Nat → Option Fmt
  | 0x00 => some .s8 | 0x01 => some .z8 | 0x02 => some .s16 | 0x03 => some .z16 | 0x04 => some .s32
  | 0x05 => some .z32 | 0x06 => some .s64 | 0x07 => some .z64 | 0x08 => some .f32 | 0x09 => some .f16
  | 0x0A => some .bf16 | 0x0B => some .e4m3 | 0x0C => some .e5m2 | 0x0D => some .e2m1 | 0x0E => some .mx8e4
  | 0x0F => some .mx8e5 | 0x10 => some .mx4 | 0x11 => some .a36 | 0x12 => some .s4 | 0x13 => some .bit
  | 0x14 => some .handle | _ => none

/-! ### Destination words -/

/-- R37: the combinations of MODE, CELL, SPREAD, PORT and SLOT that are legal. -/
def destOk (d : Dest) : Bool :=
  match d.mode with
  | .fixed => d.sprA == 0 && d.sprB == 0 && d.port != .link
  | .spread => d.port != .link
  | .producer => d.cell == 0 && d.sprA == 0 && d.sprB == 0
  | .remote => decide (d.cell.toNat < 256) && d.sprA == 0 && d.sprB == 0 && d.port == .to .a && d.slot == 0

/-- An absent word, or one that R37 allows. -/
def destOptOk : Option Dest → Bool
  | none => true
  | some d => destOk d

/-- An absent word, or one that does not link. -/
def notLink : Option Dest → Bool
  | none => true
  | some d => d.port != .link

/-- The two destination words of a single-output operator whose entry lets both stay unused: LDONE and RET (R120), and
the memory operators, whose unsent result R303 names. -/
def singleOrNone (w : OpFields) : Bool := destOptOk w.d0 && destOptOk w.d1 && notLink w.d0
/-- Those of every other single-output operator: D0 names exactly one destination (R39, R41; DEDUCED, log entry 68). -/
def single (w : OpFields) : Bool := w.d0.isSome && singleOrNone w
/-- Those of a two-output operator whose sides may link (R41). An operator of two outputs: either side, or both, may
be V = 0 (R39, R63, log entry 68). -/
def twoSided (w : OpFields) : Bool := destOptOk w.d0 && destOptOk w.d1
/-- Those of an operator that carries different outputs and links on neither side (R41). -/
def twoPlain (w : OpFields) : Bool := destOptOk w.d0 && destOptOk w.d1 && notLink w.d0 && notLink w.d1
/-- Both unused. -/
def noDest (w : OpFields) : Bool := w.d0 == none && w.d1 == none

/-! ### Ports, tags, modifiers, immediates -/

def litNone (w : OpFields) : Bool := w.lit == none
/-- ARITY and LIT as named. -/
def pair (w : OpFields) (a : Arity) (l : Option Port) : Bool := w.arity == a && w.lit == l
/-- R31: the pairs that are legal at all. -/
def anyPair (w : OpFields) : Bool :=
  match w.arity, w.lit with
  | .one, none | .one, some .a | .one, some .b => true
  | .two, _ => true
  | .three, none => true
  | _, _ => false
def un (w : OpFields) : Bool := pair w .one none
def two (w : OpFields) : Bool := pair w .two none
def three (w : OpFields) : Bool := pair w .three none
def bin (w : OpFields) : Bool := two w || pair w .one (some .a) || pair w .one (some .b)
def tern (w : OpFields) : Bool := three w || (w.arity == .two && w.lit != none)
/-- 0b10 none; 0b01 b. -/
def binB (w : OpFields) : Bool := two w || pair w .one (some .b)

/-- R33: TW under each TA. -/
def twOk (w : OpFields) : Bool :=
  match w.ta with
  | .keep | .ret => w.tw == 0
  | _ => decide (w.tw.toNat < 8)
/-- K of R120: KEEP, PUSH, POP, NEXT, RETURN. -/
def taK (w : OpFields) : Bool := w.ta != .setin && twOk w
def taIs (w : OpFields) (t : TagAct) : Bool := w.ta == t && twOk w

def modZero (w : OpFields) : Bool := w.mod == 0
/-- A rounding code and FTZ (R34). -/
def modRm (w : OpFields) : Bool := decide ((w.mod.extractLsb' 0 3).toNat < 6)
/-- SAT or FTZ alone. -/
def modTop (w : OpFields) : Bool := w.mod.extractLsb' 0 3 == 0
/-- "arith" of R204. -/
def modArith (w : OpFields) : Bool := if Fmt.isF w.fmt then modRm w else modTop w
/-- FTZ for a float format, nothing for an integer one. -/
def modCompare (w : OpFields) : Bool := if Fmt.isF w.fmt then modTop w else modZero w
/-- "mem" of R305: a hint and a scope (R34). -/
def modMem (w : OpFields) : Bool := w.mod.extractLsb' 2 2 != 3 && w.mod.extractLsb' 0 2 != 3

/-- The immediate has no bit at or above n. -/
def immBelow (w : OpFields) (n : Nat) : Bool := decide (w.imm.toNat < 2 ^ n)
def immZero (w : OpFields) : Bool := w.imm == 0
/-- R32: the literal can be built in FMT. -/
def litOk (w : OpFields) : Bool :=
  Fmt.isCarry w.fmt && (!(w.fmt == .f16 || w.fmt == .bf16) || immBelow w 16)
/-- IMM holds the literal, or meets the given condition. -/
def immLit (w : OpFields) (z : Bool) : Bool := if w.lit == none then z else litOk w
def varBelow (w : OpFields) (n : Nat) : Bool := decide (w.var.toNat < n)
def var0 (w : OpFields) : Bool := w.var == 0

/-- The source code an immediate names, when no other bit is set. -/
def srcFmt (w : OpFields) : Option Fmt := if immBelow w 5 then Fmt.ofNat w.imm.toNat else none
/-- IMM[n-1:0] as a number. -/
def immField (w : OpFields) (lo n : Nat) : Nat := (w.imm.toNat / 2 ^ lo) % 2 ^ n

/-! ### Bytes of a tile's row (R48) -/

/-- Bytes per row and whether the column count is allowed (R48). -/
def rowBytes (f : Fmt) (cols : Nat) : Option Nat :=
  match f with
  | .s8 | .z8 | .e4m3 | .e5m2 => some cols
  | .s16 | .z16 | .f16 | .bf16 => some (2 * cols)
  | .s32 | .z32 | .f32 => some (4 * cols)
  | .s64 | .z64 | .a36 => some (8 * cols)
  | .s4 | .e2m1 => if cols % 2 = 0 then some (cols / 2) else none
  | .bit => if cols % 8 = 0 then some (cols / 8) else none
  | .mx8e4 | .mx8e5 => if cols % 32 = 0 then some (cols + cols / 32) else none
  | .mx4 => if cols % 32 = 0 then some (cols / 2 + cols / 32) else none
  | .handle => none

/-- R48: the shape is one a tile may have. -/
def shapeOk (f : Fmt) (rows cols : Nat) : Bool :=
  decide (1 ≤ rows ∧ rows ≤ 64 ∧ 1 ≤ cols ∧ cols ≤ 512) &&
    match rowBytes f cols with
    | some n => decide ((rows * n + 63) / 64 ≤ 512)
    | none => false

/-! ### The groups -/

/-- Plumbing with data ports (R120): VAR 0, TA K, C or handle, MOD 0. -/
def plumb (w : OpFields) : Bool := var0 w && Fmt.isCarryH w.fmt && modZero w

def pass (w : OpFields) : Bool :=
  plumb w && single w && immLit w (immZero w) &&
    (if w.ta == .setin then twOk w && (un w || binB w) && !un w else taK w && un w)
def sync (w : OpFields) : Bool := plumb w && taK w && (two w || three w) && immZero w && single w
def switch (w : OpFields) : Bool :=
  plumb w && taK w && (two w || pair w .one (some .a)) && immLit w (immZero w) && twoSided w
def sel (w : OpFields) : Bool :=
  plumb w && taK w && (three w || pair w .two (some .b) || pair w .two (some .c)) && immLit w (immZero w) && single w
def const (w : OpFields) : Bool :=
  var0 w && Fmt.isCarry w.fmt && modZero w && taK w && pair w .one (some .b) && litOk w && single w
def sinkLike (w : OpFields) : Bool := plumb w && taIs w .keep && litNone w && immZero w && noDest w
def ends (w : OpFields) : Bool :=
  var0 w && Fmt.isCarryH w.fmt && taK w && un w && decide (w.mod.toNat < 2) && immZero w && single w
def iseos (w : OpFields) : Bool := plumb w && taK w && un w && immZero w && twoSided w
def count (w : OpFields) : Bool := plumb w && taK w && un w && w.imm != 0 && immBelow w 16 && single w
def lenter (w : OpFields) : Bool := plumb w && taIs w .push && un w && immZero w && single w
def lnext (w : OpFields) : Bool := plumb w && taIs w .next && un w && immBelow w 11 && single w
def lexit (w : OpFields) : Bool := plumb w && taIs w .pop && un w && immBelow w 11 && single w
def ldone (w : OpFields) : Bool := plumb w && taIs w .pop && un w && immBelow w 11 && singleOrNone w
def z32or64 (w : OpFields) : Bool := w.fmt == .z32 || w.fmt == .z64
def getcol (w : OpFields) : Bool :=
  var0 w && taK w && un w && z32or64 w && single w && decide (w.mod.toNat < 2) &&
    (if w.mod == 1 then immZero w else decide (1 ≤ w.imm.toNat ∧ w.imm.toNat ≤ 8))
def settag (w : OpFields) : Bool := plumb w && taIs w .keep && binB w && immLit w (immZero w) && single w
/-- SPAWN: D0 is unused exactly under a nonzero ENTRY in the plain form; under TRY its child side may be empty too. -/
def spawn (w : OpFields) : Bool :=
  varBelow w 2 && taIs w .keep && un w && Fmt.isCarryH w.fmt && modZero w && immBelow w 12 &&
    (if w.imm != 0 then w.d0 == none && destOptOk w.d1 else if w.var == 0 then single w else twoSided w)
def call (w : OpFields) : Bool := plumb w && taIs w .keep && binB w && immLit w (immZero w) && twoPlain w
def ret (w : OpFields) : Bool := plumb w && taIs w .ret && un w && immZero w && singleOrNone w
def gang (w : OpFields) : Bool :=
  varBelow w 2 && taIs w .keep && binB w && Fmt.isCarryH w.fmt && modZero w && immLit w (immZero w) && twoSided w &&
    (match w.d0 with | none => false | some d => d.port == .to .a) && (w.var == 1 || w.d1 == none)
def frameid (w : OpFields) : Bool := var0 w && taK w && un w && z32or64 w && modZero w && immZero w && single w
def killf (w : OpFields) : Bool :=
  var0 w && taIs w .keep && un w && z32or64 w && modZero w && immZero w && single w

/-- VAR 0 or 1 with TRAPV, and SAT excluding TRAPV (R181). -/
def trapv (w : OpFields) : Bool := varBelow w 2 && (w.var == 0 || w.mod == 0)
def intBase (w : OpFields) : Bool := taK w && Fmt.isInt w.fmt && single w
def addLike (w : OpFields) : Bool := intBase w && trapv w && bin w && modTop w && immLit w (immZero w)
def logicLike (w : OpFields) : Bool := intBase w && var0 w && bin w && modZero w && immLit w (immZero w)
def cmp (w : OpFields) : Bool := intBase w && varBelow w 8 && bin w && modZero w && immLit w (immZero w)
def unaryInt (w : OpFields) : Bool := intBase w && var0 w && un w && modZero w && immZero w
/-- The descriptor literal of BEXT, on port b, is built as z32 (R188). -/
def bext (w : OpFields) : Bool := intBase w && var0 w && binB w && modZero w && (w.lit != none || immZero w)
def bins (w : OpFields) : Bool :=
  intBase w && var0 w && tern w && modZero w && (w.lit == some .c || immLit w (immZero w))
def mad (w : OpFields) : Bool := intBase w && trapv w && tern w && modTop w && immLit w (immZero w)
def addrc (w : OpFields) : Bool := intBase w && varBelow w 2 && two w && modZero w && immBelow w 3
def absNeg (w : OpFields) : Bool :=
  taK w && single w && un w && immZero w &&
    (if Fmt.isInt w.fmt then trapv w && modTop w else Fmt.isF w.fmt && var0 w && modZero w)
def icvt (w : OpFields) : Bool := intBase w && trapv w && un w && modTop w && immBelow w 3
def mix (w : OpFields) : Bool :=
  taK w && z32or64 w && single w && var0 w && binB w && modZero w && immLit w (immZero w)
def halfFmt (w : OpFields) : Bool := Fmt.isInt w.fmt && w.fmt != .s8 && w.fmt != .z8
def pack (w : OpFields) : Bool :=
  taK w && halfFmt w && single w && var0 w && bin w && modTop w && immLit w (immZero w)
def unpk (w : OpFields) : Bool := taK w && halfFmt w && twoPlain w && var0 w && un w && modZero w && immZero w

def floatBase (w : OpFields) : Bool := taK w && var0 w && single w
def fbin (w : OpFields) : Bool := floatBase w && Fmt.isF w.fmt && bin w && modRm w && immLit w (immZero w)
def ffma (w : OpFields) : Bool := floatBase w && Fmt.isF w.fmt && tern w && modRm w && immLit w (immZero w)
def fsqrt (w : OpFields) : Bool := floatBase w && Fmt.isF w.fmt && un w && modRm w && immZero w
def fminmax (w : OpFields) : Bool := floatBase w && Fmt.isF w.fmt && bin w && modTop w && immLit w (immZero w)
def fcmp (w : OpFields) : Bool :=
  taK w && varBelow w 8 && single w && Fmt.isF w.fmt && bin w && modTop w && immLit w (immZero w)
def fcvt (w : OpFields) : Bool :=
  floatBase w && Fmt.isG w.fmt && un w && modRm w &&
    (match srcFmt w with | some f => Fmt.isG f | none => false)
def fclass (w : OpFields) : Bool := floatBase w && Fmt.isG w.fmt && un w && modZero w && immZero w
def ftoi (w : OpFields) : Bool :=
  floatBase w && Fmt.isInt w.fmt && un w && modRm w &&
    (match srcFmt w with | some f => Fmt.isF f | none => false)
def itof (w : OpFields) : Bool :=
  floatBase w && (Fmt.isG w.fmt && w.fmt != .a36) && un w && modRm w && !w.mod.getLsbD 3 && immBelow w 3

def tileBase (w : OpFields) : Bool := taK w && single w
def vArith2 (w : OpFields) : Bool := tileBase w && var0 w && two w && Fmt.isVIF w.fmt && modArith w && immZero w
def vfma (w : OpFields) : Bool := tileBase w && var0 w && three w && Fmt.isF w.fmt && modRm w && immZero w
def vdiv (w : OpFields) : Bool := tileBase w && var0 w && two w && Fmt.isF w.fmt && modRm w && immZero w
def vminmax (w : OpFields) : Bool := tileBase w && var0 w && two w && Fmt.isVIF w.fmt && modCompare w && immZero w
def vabsneg (w : OpFields) : Bool :=
  tileBase w && var0 w && un w && Fmt.isVIF w.fmt && immZero w && (if Fmt.isF w.fmt then modZero w else modTop w)
def vfun1 (w : OpFields) : Bool := tileBase w && var0 w && un w && Fmt.isF w.fmt && modRm w && immZero w
def vcvt (w : OpFields) : Bool :=
  tileBase w && un w && Fmt.isVX w.fmt && modRm w &&
    (match srcFmt w with
     | some f => Fmt.isVX f && (w.var == 0 || (w.var == 1 && f == .a36))
     | none => false)
/-- VSCAL, VROWOP and VCOLOP: VAR 0 to 7, 4 and 5 only for VF (R204, R206). -/
def varScal (w : OpFields) : Bool :=
  varBelow w 8 && (Fmt.isF w.fmt || (w.var != 4 && w.var != 5))
def vscal (w : OpFields) : Bool :=
  tileBase w && varScal w && binB w && Fmt.isVIF w.fmt && modArith w && immLit w (immZero w)
def vrowcol (w : OpFields) : Bool := tileBase w && varScal w && two w && Fmt.isVIF w.fmt && modArith w && immZero w
def vfill (w : OpFields) : Bool :=
  tileBase w && var0 w && un w && (Fmt.isVIF w.fmt || w.fmt == .bit) && modZero w && immBelow w 15 &&
    shapeOk w.fmt (immField w 0 6 + 1) (immField w 6 9 + 1)
def vcmp (w : OpFields) : Bool := tileBase w && varBelow w 8 && two w && Fmt.isVIF w.fmt && modCompare w && immZero w
def vmsel (w : OpFields) : Bool :=
  tileBase w && var0 w && three w && (Fmt.isVIF w.fmt || w.fmt == .bit) && modZero w && immZero w
def vlogic (w : OpFields) : Bool :=
  tileBase w && var0 w && two w && (Fmt.isVI w.fmt || w.fmt == .bit) && modZero w && immZero w
def vshf (w : OpFields) : Bool :=
  tileBase w && varBelow w 4 && binB w && Fmt.isVI w.fmt && modZero w && immLit w (immZero w)
def vtran (w : OpFields) : Bool := tileBase w && var0 w && un w && Fmt.isVT w.fmt && modZero w && immZero w
/-- The VSLIC descriptor literal is built as z32 (R204). -/
def vslic (w : OpFields) : Bool :=
  tileBase w && var0 w && binB w && Fmt.isVS w.fmt && modZero w && (w.lit != none || immZero w)

def mmaFmt (f : Fmt) : Bool := Fmt.isMX f || f == .bf16 || f == .f16 || f == .s8 || f == .s4
def mma (w : OpFields) : Bool :=
  tileBase w && var0 w && three w && mmaFmt w.fmt && immZero w &&
    (if w.fmt == .s8 || w.fmt == .s4 then modTop w else modZero w)
def mx8 (w : OpFields) : Bool := w.fmt == .mx8e4 || w.fmt == .mx8e5
def mmas (w : OpFields) : Bool := tileBase w && var0 w && three w && mx8 w && modZero w && immZero w
def mcomp (w : OpFields) : Bool := tileBase w && var0 w && un w && mx8 w && modZero w && immZero w
def azero (w : OpFields) : Bool := tileBase w && var0 w && un w && w.fmt == .z64 && modZero w && immBelow w 14
def drainFmt (f : Fmt) : Bool :=
  f == .a36 || Fmt.isF f || f == .e5m2 || f == .e4m3 || Fmt.isMX f || f == .s32 || f == .s16 || f == .s8
def adrain (w : OpFields) : Bool :=
  taK w && twoPlain w && varBelow w 3 && un w && drainFmt w.fmt && decide (w.imm.toNat ≤ 6) &&
    (if w.fmt == .a36 then modZero w else if Fmt.isInt w.fmt then modTop w else modRm w) &&
    (w.var != 1 || w.d1 == none)
def aload (w : OpFields) : Bool :=
  tileBase w && var0 w && un w && (w.fmt == .a36 || Fmt.isF w.fmt || w.fmt == .s32) && modZero w && immBelow w 2
def aread (w : OpFields) : Bool :=
  taK w && twoPlain w && var0 w && un w && w.fmt == .a36 && modZero w && immBelow w 24
def apatch (w : OpFields) : Bool := tileBase w && var0 w && two w && w.fmt == .a36 && modZero w && immBelow w 24

/-- VAR 2 and 3, the wide forms, only for f16 and bf16 (R220). -/
def wideVar (w : OpFields) : Bool := varBelow w 2 || (varBelow w 4 && (w.fmt == .f16 || w.fmt == .bf16))
def rsum (w : OpFields) : Bool := tileBase w && wideVar w && un w && Fmt.isVIF w.fmt && modArith w && immZero w
def rminmax (w : OpFields) : Bool :=
  tileBase w && varBelow w 2 && un w && Fmt.isVIF w.fmt && modCompare w && immZero w
def rargx (w : OpFields) : Bool := tileBase w && varBelow w 4 && un w && Fmt.isVIF w.fmt && modZero w && immZero w
def topk (w : OpFields) : Bool :=
  taK w && twoPlain w && var0 w && un w && Fmt.isVIF w.fmt && modZero w && immBelow w 10
def normk (w : OpFields) : Bool := tileBase w && var0 w && un w && Fmt.isF w.fmt && modRm w && immZero w
def steer (w : OpFields) : Bool :=
  taIs w .keep && twoPlain w && var0 w && two w && Fmt.isVS w.fmt && modZero w &&
    decide (1 ≤ w.imm.toNat ∧ w.imm.toNat ≤ 8)
def ordmrg (w : OpFields) : Bool := tileBase w && var0 w && two w && Fmt.isVS w.fmt && modZero w && immZero w
def sort (w : OpFields) : Bool := taK w && twoPlain w && var0 w && un w && Fmt.isVIF w.fmt && modZero w && immZero w
def partn (w : OpFields) : Bool :=
  taK w && twoPlain w && varBelow w 2 && binB w && Fmt.isVIF w.fmt && modZero w && immLit w (immZero w)

/-- What the single-output memory operators share (R303). -/
def memBase (w : OpFields) : Bool := taK w && singleOrNone w
def memTile (w : OpFields) : Bool := memBase w && var0 w && w.fmt == .handle && modMem w && immBelow w 16
def lds (w : OpFields) : Bool := memBase w && var0 w && un w && Fmt.isIF w.fmt && modMem w
def sts (w : OpFields) : Bool := memBase w && var0 w && binB w && Fmt.isIF w.fmt && modMem w && immLit w true
def fence (w : OpFields) : Bool :=
  memBase w && var0 w && un w && Fmt.isCarryH w.fmt && decide (w.mod.toNat < 3) && immZero w
def ringOp (w : OpFields) : Bool := memBase w && var0 w && un w && w.fmt == .handle && modZero w && immBelow w 4
def binit (w : OpFields) : Bool := memBase w && var0 w && un w && w.fmt == .z64 && modZero w && immBelow w 4
/-- ATOM: which format each variant takes (R305). -/
def atomFmt (w : OpFields) : Bool :=
  match w.var.toNat with
  | 0 | 2 | 3 | 6 | 7 | 8 => Fmt.isInt w.fmt
  | 1 | 4 | 5 => Fmt.isF w.fmt
  | 9 => Fmt.isIF w.fmt
  | _ => false
def atom (w : OpFields) : Bool := memBase w && atomFmt w && binB w && modMem w && immLit w (immZero w)
def cas (w : OpFields) : Bool :=
  memBase w && var0 w && Fmt.isIF w.fmt && modMem w && immLit w (immZero w) &&
    (three w || pair w .two (some .b) || pair w .two (some .c))
def ared (w : OpFields) : Bool :=
  memBase w && varBelow w 3 && two w && w.fmt == .handle && modMem w && immBelow w 16
def sz64 (w : OpFields) : Bool := w.fmt == .s64 || w.fmt == .z64
def iput (w : OpFields) : Bool := memBase w && var0 w && binB w && sz64 w && modMem w && immLit w (immZero w)
def itake (w : OpFields) : Bool := memBase w && var0 w && un w && sz64 w && modMem w && immZero w
def iclr (w : OpFields) : Bool := memBase w && var0 w && un w && w.fmt == .z64 && modMem w && immZero w
def join (w : OpFields) : Bool :=
  taK w && twoPlain w && var0 w && binB w && w.fmt == .z32 && modMem w && immLit w (immZero w)
def waitv (w : OpFields) : Bool :=
  memBase w && varBelow w 8 && binB w && Fmt.isInt w.fmt && modMem w && immLit w (immZero w)

def trap (w : OpFields) : Bool :=
  tileBase w && var0 w && un w && Fmt.isCarryH w.fmt && modZero w && immBelow w 8
def park (w : OpFields) : Bool := taIs w .keep && var0 w && un w && z32or64 w && modZero w && immZero w && single w
def resume (w : OpFields) : Bool :=
  taK w && single w && varBelow w 3 &&
    (if w.var == 1 then
       (two w || three w) && Fmt.isCarryH w.fmt && immBelow w 6 && (w.mod == 0 || (w.mod == 2 && three w))
     else un w && w.fmt == .z64 && immZero w && (w.mod == 0 || (w.mod == 1 && w.var == 0)))
def trace (w : OpFields) : Bool :=
  tileBase w && var0 w && un w && Fmt.isCarryH w.fmt && modZero w && immBelow w 16
/-- WATCH: the slot word's own zero bits and kinds (R403). -/
def watch (w : OpFields) : Bool :=
  tileBase w && var0 w && two w && w.fmt == .z64 && modZero w && immField w 6 10 == 0 && immField w 3 1 == 0 &&
    immField w 4 2 != 3 && (immField w 4 2 != 2 || immField w 30 2 == 0)
def unwatch (w : OpFields) : Bool :=
  tileBase w && var0 w && un w && Fmt.isCarry w.fmt && modZero w && decide (w.imm.toNat ≤ 8)
def flags (w : OpFields) : Bool :=
  tileBase w && varBelow w 2 && un w && z32or64 w && decide (w.mod.toNat < 2) && immZero w
def time (w : OpFields) : Bool := tileBase w && varBelow w 2 && un w && w.fmt == .z64 && modZero w && immZero w
def loadg (w : OpFields) : Bool := tileBase w && var0 w && un w && z32or64 w && modZero w && immBelow w 8
def swapg (w : OpFields) : Bool :=
  tileBase w && var0 w && un w && Fmt.isCarryH w.fmt && decide (w.mod.toNat < 2) && immZero w
def drain (w : OpFields) : Bool := tileBase w && var0 w && un w && w.fmt == .z64 && modZero w && immZero w
/-- QUERY: IMM[31:16] zero; an index that is not listed traps at the firing instead (R159). -/
def query (w : OpFields) : Bool := tileBase w && var0 w && un w && z32or64 w && modZero w && immBelow w 16

/-- What is legal of an XOP's word whatever the context's binding holds (R252, R31, R32). -/
def xop (w : OpFields) : Bool := taK w && single w && anyPair w && (w.lit == none || litOk w)

end Sys2Proof.Enc
end

