-- ==== Sys2Proof/WellFormed.lean ====
section
/-! DEFINITION. Well-formedness of instructions as syntax: an operator's fields are those its encoding table accepts
(R53); an event's numbers are in range. -/

namespace Sys2Proof

/-- The instruction is one the device accepts: for an operator, the encoding is legal (R53). The conditions an XOP's
binding adds are the context's and are checked when its set is selected (R252). -/
def Instr.wf : Instr → Bool
  | .pass w => Enc.pass w
  | .sync w => Enc.sync w
  | .switch w => Enc.switch w
  | .sel w => Enc.sel w
  | .const w => Enc.const w
  | .sink w => Enc.sinkLike w
  | .ends w => Enc.ends w
  | .iseos w => Enc.iseos w
  | .count w => Enc.count w
  | .lenter w => Enc.lenter w
  | .lnext w => Enc.lnext w
  | .lexit w => Enc.lexit w
  | .ldone w => Enc.ldone w
  | .getcol w => Enc.getcol w
  | .settag w => Enc.settag w
  | .spawn w => Enc.spawn w
  | .call w => Enc.call w
  | .ret w => Enc.ret w
  | .fend w => Enc.sinkLike w
  | .gang w => Enc.gang w
  | .frameid w => Enc.frameid w
  | .killf w => Enc.killf w
  | .add w => Enc.addLike w
  | .sub w => Enc.addLike w
  | .mul w => Enc.addLike w
  | .mulh w => Enc.logicLike w
  | .div w => Enc.addLike w
  | .rem w => Enc.logicLike w
  | .and w => Enc.logicLike w
  | .or w => Enc.logicLike w
  | .xor w => Enc.logicLike w
  | .andn w => Enc.logicLike w
  | .shl w => Enc.logicLike w
  | .shr w => Enc.logicLike w
  | .sra w => Enc.logicLike w
  | .rotl w => Enc.logicLike w
  | .min w => Enc.logicLike w
  | .max w => Enc.logicLike w
  | .cmp w => Enc.cmp w
  | .clz w => Enc.unaryInt w
  | .popc w => Enc.unaryInt w
  | .bext w => Enc.bext w
  | .bins w => Enc.bins w
  | .mad w => Enc.mad w
  | .addrc w => Enc.addrc w
  | .abs w => Enc.absNeg w
  | .neg w => Enc.absNeg w
  | .icvt w => Enc.icvt w
  | .mix w => Enc.mix w
  | .pack w => Enc.pack w
  | .unpk w => Enc.unpk w
  | .fadd w => Enc.fbin w
  | .fsub w => Enc.fbin w
  | .fmul w => Enc.fbin w
  | .ffma w => Enc.ffma w
  | .fdiv w => Enc.fbin w
  | .fsqrt w => Enc.fsqrt w
  | .fmin w => Enc.fminmax w
  | .fmax w => Enc.fminmax w
  | .fcmp w => Enc.fcmp w
  | .fcvt w => Enc.fcvt w
  | .fclass w => Enc.fclass w
  | .ftoi w => Enc.ftoi w
  | .itof w => Enc.itof w
  | .vadd w => Enc.vArith2 w
  | .vsub w => Enc.vArith2 w
  | .vmul w => Enc.vArith2 w
  | .vfma w => Enc.vfma w
  | .vdiv w => Enc.vdiv w
  | .vmin w => Enc.vminmax w
  | .vmax w => Enc.vminmax w
  | .vabs w => Enc.vabsneg w
  | .vneg w => Enc.vabsneg w
  | .vsqrt w => Enc.vfun1 w
  | .vrsq w => Enc.vfun1 w
  | .vrcp w => Enc.vfun1 w
  | .vexp2 w => Enc.vfun1 w
  | .vlog2 w => Enc.vfun1 w
  | .vtanh w => Enc.vfun1 w
  | .vcvt w => Enc.vcvt w
  | .vscal w => Enc.vscal w
  | .vfill w => Enc.vfill w
  | .vcmp w => Enc.vcmp w
  | .vmsel w => Enc.vmsel w
  | .vand w => Enc.vlogic w
  | .vor w => Enc.vlogic w
  | .vxor w => Enc.vlogic w
  | .vshf w => Enc.vshf w
  | .vtran w => Enc.vtran w
  | .vslic w => Enc.vslic w
  | .vrowop w => Enc.vrowcol w
  | .vcolop w => Enc.vrowcol w
  | .mma w => Enc.mma w
  | .mmas w => Enc.mmas w
  | .mmag w => Enc.mma w
  | .mcomp w => Enc.mcomp w
  | .azero w => Enc.azero w
  | .adrain w => Enc.adrain w
  | .aload w => Enc.aload w
  | .aread w => Enc.aread w
  | .apatch w => Enc.apatch w
  | .rsum w => Enc.rsum w
  | .rmax w => Enc.rminmax w
  | .rmin w => Enc.rminmax w
  | .rargx w => Enc.rargx w
  | .topk w => Enc.topk w
  | .normk w => Enc.normk w
  | .steer w => Enc.steer w
  | .ordmrg w => Enc.ordmrg w
  | .sort w => Enc.sort w
  | .partn w => Enc.partn w
  | .scan w => Enc.rsum w
  | .ldt w => Enc.memTile w && Enc.un w
  | .stt w => Enc.memTile w && Enc.two w
  | .lds w => Enc.lds w
  | .sts w => Enc.sts w
  | .gath w => Enc.memTile w && Enc.two w
  | .scat w => Enc.memTile w && Enc.three w
  | .pref w => Enc.memTile w && Enc.un w
  | .fence w => Enc.fence w
  | .bput w => Enc.ringOp w
  | .bget w => Enc.ringOp w
  | .binit w => Enc.binit w
  | .atom w => Enc.atom w
  | .cas w => Enc.cas w
  | .ared w => Enc.ared w
  | .iput w => Enc.iput w
  | .itake w => Enc.itake w
  | .iclr w => Enc.iclr w
  | .join w => Enc.join w
  | .waitv w => Enc.waitv w
  | .trap w => Enc.trap w
  | .park w => Enc.park w
  | .resume w => Enc.resume w
  | .trace w => Enc.trace w
  | .watch w => Enc.watch w
  | .unwatch w => Enc.unwatch w
  | .flags w => Enc.flags w
  | .time w => Enc.time w
  | .loadg w => Enc.loadg w
  | .swapg w => Enc.swapg w
  | .drain w => Enc.drain w
  | .query w => Enc.query w
  | .xop _ w => Enc.xop w
  | .attarBankLoad _ _ => true
  | .tokenArrival _ => true
  | .heldTokenAccept _ _ => true
  | .cgenHoldRelease _ _ => true
  | .packetArrival _ => true
  | .spillLookup _ _ => true
  | .refill _ => true
  | .spaceClaimSpill _ => true
  | .spilledSetReturn _ => true
  | .watchdogFirstExpiry _ => true
  | .watchdogSecondExpiry _ => true
  | .heldLnextRelease _ _ => true
  | .heldLenterGrant _ => true
  | .heldFrameGrant _ => true
  | .gangGrant _ => true
  | .residencyApplyDone _ => true
  | .sweepComplete _ _ => true
  | .launchApply _ => true
  | .loadgApply _ => true
  | .drainQuiescent _ => true
  | .swapgFlip _ => true
  | .fenceRelease _ _ => true
  | .bputRelease _ _ => true
  | .bgetRelease _ _ => true
  | .homeAccess _ _ => true
  | .acceptanceReply _ => true
  | .memoryOpPerformed _ _ => true
  | .remoteTimeout _ => true
  | .pageWalkDone _ => true
  | .zeroClaim _ => true
  | .zeroFillDone _ => true
  | .tlbInvalComplete _ => true
  | .parkingBroadcastArrival _ _ => true
  | .trapRecordWrite _ => true
  | .trapDelivery _ => true
  | .handlerFault _ => true
  | .parkDecided _ => true
  | .resumeDecided _ => true
  | .watchArmApplied _ => true
  | .unwatchApplied _ => true
  | .flagsDecided _ => true
  | .sillageWalkStep _ => true
  | .breakBitApplied _ _ => true
  | .sliceBoundary _ => true
  | .drydownStopAcknowledged _ => true
  | .drydownFinished _ => true
  | .drydownPerformed _ => true
  | .drydownMarkersArrived _ => true
  | .drydownSaved _ => true
  | .inboxWrite _ => true
  | .contextRestore _ => true
  | .sqtail _ _ => true
  | .cqhead _ _ => true
  | .ringEnable _ => true
  | .ringDisable _ => true
  | .devnum _ => true
  | .registerWrite _ _ _ => true
  | .vdevCreate _ => true
  | .vdevDestroy _ => true
  | .thaw _ => true
  | .granule _ => true
  | .ctxCreate _ => true
  | .ctxDestroy _ => true
  | .launch _ => true
  | .preempt _ => true
  | .tlbInval _ => true
  | .resolve _ => true
  | .killfr _ => true
  | .brkset _ => true
  | .sillage _ => true
  | .quote _ => true
  | .pair _ => true
  | .exportGranules _ => true
  | .freezeNotification _ => true
  | .hostApertureAccess _ _ => true
  | .flitReceive _ _ _ _ => true
  | .fabricTokenArrival _ => true
  | .remoteRequestArrival _ => true
  | .ptpMessage _ => true
  | .powerOn _ => true
  | .deviceReset => true
  | .firmwareUpdate _ => true
  | .thermalStepChange _ _ => true
  | .correctedError => true
  | .uncorrectableError _ => true
  | .sweepBroadcastArrival _ _ => true
  | .planeFlipArrival _ _ => true
  | .frameBreakArrival _ _ => true
  | .watchArmArrival _ _ => true
  | .stopBroadcastArrival _ _ => true
  | .outgoingTransferDone _ => true
  | .granuleScrubComplete _ => true
  | .ptpfree => true
  | .powerOff => true

end Sys2Proof
end

