-- ==== Sys2Proof/Decode.lean ====
section
/-! DEFINITION. The decoder of operator words, destination words and FANOUT records (R30 to R53), total on any bits
and rejecting by name; and the encoder, written from the same tables. -/

namespace Sys2Proof

/-- Why a word is no instruction (R53). -/
inductive Reject where
  /-- an unassigned major opcode, or 0x07 in an operator slot -/
  | opcode
  /-- a reserved value of ARITY, TA or FMT -/
  | reserved
  /-- a destination word that breaks R36 -/
  | destination
  /-- a value that the instruction's entry does not list, or a destination combination that breaks R37 or R41 -/
  | notListed
  deriving DecidableEq, Repr

/-! ### Fields -/

def decodeArity (x : BitVec 2) : Option Arity :=
  if x = 0b01#2 then some .one else if x = 0b10#2 then some .two else if x = 0b11#2 then some .three else none
def encodeArity : Arity → BitVec 2
  | .one => 0b01 | .two => 0b10 | .three => 0b11

/-- LIT (R30). -/
def decodeLit (x : BitVec 2) : Option Port :=
  if x = 0b01#2 then some .a else if x = 0b10#2 then some .b else if x = 0b11#2 then some .c else none
def encodeLit : Option Port → BitVec 2
  | none => 0b00 | some .a => 0b01 | some .b => 0b10 | some .c => 0b11

/-- TA (R33). -/
def decodeTa (x : BitVec 3) : Option TagAct :=
  match x.toNat with
  | 0 => some .keep | 1 => some .push | 2 => some .pop | 3 => some .next | 4 => some .setin | 5 => some .ret
  | _ => none
def encodeTa : TagAct → BitVec 3
  | .keep => 0 | .push => 1 | .pop => 2 | .next => 3 | .setin => 4 | .ret => 5

def decodeDestPort (x : BitVec 2) : DestPort :=
  if x = 0b00#2 then .to .a else if x = 0b01#2 then .to .b else if x = 0b10#2 then .to .c else .link
def encodeDestPort : DestPort → BitVec 2
  | .to .a => 0b00 | .to .b => 0b01 | .to .c => 0b10 | .link => 0b11

def decodeDestMode (x : BitVec 2) : DestMode :=
  if x = 0b00#2 then .fixed else if x = 0b01#2 then .spread else if x = 0b10#2 then .producer else .remote
def encodeDestMode : DestMode → BitVec 2
  | .fixed => 0b00 | .spread => 0b01 | .producer => 0b10 | .remote => 0b11

/-- A destination word (R36). The outer none rejects: V = 0 with another bit set, or bit 11 set. -/
def decodeDest (x : BitVec 32) : Option (Option Dest) :=
  if x.extractLsb' 31 1 = 0#1 then
    if x = 0#32 then some none else none
  else if x.extractLsb' 11 1 = 1#1 then none
  else some (some
    { port := decodeDestPort (x.extractLsb' 29 2), mode := decodeDestMode (x.extractLsb' 27 2),
      cell := x.extractLsb' 16 11, sprA := x.extractLsb' 14 2, sprB := x.extractLsb' 12 2,
      slot := x.extractLsb' 0 11 })

/-- The 32 bits of a destination word (R36). -/
def encodeDest : Option Dest → BitVec 32
  | none => 0
  | some d =>
    1#1 ++ encodeDestPort d.port ++ encodeDestMode d.mode ++ d.cell ++ d.sprA ++ d.sprB ++ 0#1 ++ d.slot

/-! ### Operator words -/

/-- W[119:0] (R30). -/
def decodeFields (x : BitVec 128) : Except Reject OpFields :=
  match decodeArity (x.extractLsb' 114 2), decodeTa (x.extractLsb' 109 3),
      Enc.Fmt.ofNat (x.extractLsb' 100 5).toNat, decodeDest (x.extractLsb' 32 32), decodeDest (x.extractLsb' 0 32) with
  | some ar, some ta, some f, some d0, some d1 =>
    .ok { var := x.extractLsb' 116 4, arity := ar, lit := decodeLit (x.extractLsb' 112 2), ta := ta,
          tw := x.extractLsb' 105 4, fmt := f, mod := x.extractLsb' 96 4, imm := x.extractLsb' 64 32, d0 := d0, d1 := d1 }
  | _, _, _, none, _ => .error .destination
  | _, _, _, _, none => .error .destination
  | _, _, _, _, _ => .error .reserved

/-- The 120 bits of an operator word below OPC (R30). -/
def encodeFields (w : OpFields) : BitVec 120 :=
  w.var ++ encodeArity w.arity ++ encodeLit w.lit ++ encodeTa w.ta ++ w.tw ++ Enc.Fmt.code w.fmt ++ w.mod ++ w.imm ++
    encodeDest w.d0 ++ encodeDest w.d1

/-- The operator an instruction is, its opcode (R51, R52) and its other fields; none for an event. -/
def opcodeOf : Instr → Option (BitVec 8 × OpFields)
  | .pass w => some (0x01, w)
  | .sync w => some (0x02, w)
  | .switch w => some (0x03, w)
  | .sel w => some (0x04, w)
  | .const w => some (0x05, w)
  | .sink w => some (0x06, w)
  | .ends w => some (0x08, w)
  | .iseos w => some (0x09, w)
  | .count w => some (0x0A, w)
  | .lenter w => some (0x10, w)
  | .lnext w => some (0x11, w)
  | .lexit w => some (0x12, w)
  | .ldone w => some (0x13, w)
  | .getcol w => some (0x14, w)
  | .settag w => some (0x15, w)
  | .spawn w => some (0x16, w)
  | .call w => some (0x17, w)
  | .ret w => some (0x18, w)
  | .fend w => some (0x19, w)
  | .gang w => some (0x1A, w)
  | .frameid w => some (0x1B, w)
  | .killf w => some (0x1C, w)
  | .add w => some (0x20, w)
  | .sub w => some (0x21, w)
  | .mul w => some (0x22, w)
  | .mulh w => some (0x23, w)
  | .div w => some (0x24, w)
  | .rem w => some (0x25, w)
  | .and w => some (0x26, w)
  | .or w => some (0x27, w)
  | .xor w => some (0x28, w)
  | .andn w => some (0x29, w)
  | .shl w => some (0x2A, w)
  | .shr w => some (0x2B, w)
  | .sra w => some (0x2C, w)
  | .rotl w => some (0x2D, w)
  | .min w => some (0x2E, w)
  | .max w => some (0x2F, w)
  | .cmp w => some (0x30, w)
  | .clz w => some (0x31, w)
  | .popc w => some (0x32, w)
  | .bext w => some (0x33, w)
  | .bins w => some (0x34, w)
  | .mad w => some (0x35, w)
  | .addrc w => some (0x36, w)
  | .abs w => some (0x37, w)
  | .neg w => some (0x38, w)
  | .icvt w => some (0x39, w)
  | .mix w => some (0x3A, w)
  | .pack w => some (0x3B, w)
  | .unpk w => some (0x3C, w)
  | .fadd w => some (0x40, w)
  | .fsub w => some (0x41, w)
  | .fmul w => some (0x42, w)
  | .ffma w => some (0x43, w)
  | .fdiv w => some (0x44, w)
  | .fsqrt w => some (0x45, w)
  | .fmin w => some (0x46, w)
  | .fmax w => some (0x47, w)
  | .fcmp w => some (0x48, w)
  | .fcvt w => some (0x49, w)
  | .fclass w => some (0x4A, w)
  | .ftoi w => some (0x4B, w)
  | .itof w => some (0x4C, w)
  | .vadd w => some (0x50, w)
  | .vsub w => some (0x51, w)
  | .vmul w => some (0x52, w)
  | .vfma w => some (0x53, w)
  | .vdiv w => some (0x54, w)
  | .vmin w => some (0x55, w)
  | .vmax w => some (0x56, w)
  | .vabs w => some (0x57, w)
  | .vneg w => some (0x58, w)
  | .vsqrt w => some (0x59, w)
  | .vrsq w => some (0x5A, w)
  | .vrcp w => some (0x5B, w)
  | .vexp2 w => some (0x5C, w)
  | .vlog2 w => some (0x5D, w)
  | .vtanh w => some (0x5E, w)
  | .vcvt w => some (0x5F, w)
  | .vscal w => some (0x60, w)
  | .vfill w => some (0x61, w)
  | .vcmp w => some (0x62, w)
  | .vmsel w => some (0x63, w)
  | .vand w => some (0x64, w)
  | .vor w => some (0x65, w)
  | .vxor w => some (0x66, w)
  | .vshf w => some (0x67, w)
  | .vtran w => some (0x68, w)
  | .vslic w => some (0x69, w)
  | .vrowop w => some (0x6A, w)
  | .vcolop w => some (0x6B, w)
  | .mma w => some (0x70, w)
  | .mmas w => some (0x71, w)
  | .mmag w => some (0x72, w)
  | .mcomp w => some (0x73, w)
  | .azero w => some (0x74, w)
  | .adrain w => some (0x75, w)
  | .aload w => some (0x76, w)
  | .aread w => some (0x77, w)
  | .apatch w => some (0x78, w)
  | .rsum w => some (0x80, w)
  | .rmax w => some (0x81, w)
  | .rmin w => some (0x82, w)
  | .rargx w => some (0x83, w)
  | .topk w => some (0x84, w)
  | .normk w => some (0x85, w)
  | .steer w => some (0x86, w)
  | .ordmrg w => some (0x87, w)
  | .sort w => some (0x88, w)
  | .partn w => some (0x89, w)
  | .scan w => some (0x8A, w)
  | .ldt w => some (0x90, w)
  | .stt w => some (0x91, w)
  | .lds w => some (0x92, w)
  | .sts w => some (0x93, w)
  | .gath w => some (0x94, w)
  | .scat w => some (0x95, w)
  | .pref w => some (0x96, w)
  | .fence w => some (0x97, w)
  | .bput w => some (0x98, w)
  | .bget w => some (0x99, w)
  | .binit w => some (0x9A, w)
  | .atom w => some (0xA0, w)
  | .cas w => some (0xA1, w)
  | .ared w => some (0xA2, w)
  | .iput w => some (0xA3, w)
  | .itake w => some (0xA4, w)
  | .iclr w => some (0xA5, w)
  | .join w => some (0xA6, w)
  | .waitv w => some (0xA7, w)
  | .trap w => some (0xB0, w)
  | .park w => some (0xB1, w)
  | .resume w => some (0xB2, w)
  | .trace w => some (0xB3, w)
  | .watch w => some (0xB4, w)
  | .unwatch w => some (0xB5, w)
  | .flags w => some (0xB6, w)
  | .time w => some (0xB7, w)
  | .loadg w => some (0xB8, w)
  | .swapg w => some (0xB9, w)
  | .drain w => some (0xBA, w)
  | .query w => some (0xBB, w)
  | .xop n w => some (0b11#2 ++ n, w)
  | .attarBankLoad _ _ => none
  | .tokenArrival _ => none
  | .heldTokenAccept _ _ => none
  | .cgenHoldRelease _ _ => none
  | .packetArrival _ => none
  | .spillLookup _ _ => none
  | .refill _ => none
  | .spaceClaimSpill _ => none
  | .spilledSetReturn _ => none
  | .watchdogFirstExpiry _ => none
  | .watchdogSecondExpiry _ => none
  | .heldLnextRelease _ _ => none
  | .heldLenterGrant _ => none
  | .heldFrameGrant _ => none
  | .gangGrant _ => none
  | .residencyApplyDone _ => none
  | .sweepComplete _ _ => none
  | .launchApply _ => none
  | .loadgApply _ => none
  | .drainQuiescent _ => none
  | .swapgFlip _ => none
  | .fenceRelease _ _ => none
  | .bputRelease _ _ => none
  | .bgetRelease _ _ => none
  | .homeAccess _ _ => none
  | .acceptanceReply _ => none
  | .memoryOpPerformed _ _ => none
  | .remoteTimeout _ => none
  | .pageWalkDone _ => none
  | .zeroClaim _ => none
  | .zeroFillDone _ => none
  | .tlbInvalComplete _ => none
  | .parkingBroadcastArrival _ _ => none
  | .trapRecordWrite _ => none
  | .trapDelivery _ => none
  | .handlerFault _ => none
  | .parkDecided _ => none
  | .resumeDecided _ => none
  | .watchArmApplied _ => none
  | .unwatchApplied _ => none
  | .flagsDecided _ => none
  | .sillageWalkStep _ => none
  | .breakBitApplied _ _ => none
  | .sliceBoundary _ => none
  | .drydownStopAcknowledged _ => none
  | .drydownFinished _ => none
  | .drydownPerformed _ => none
  | .drydownMarkersArrived _ => none
  | .drydownSaved _ => none
  | .inboxWrite _ => none
  | .contextRestore _ => none
  | .sqtail _ _ => none
  | .cqhead _ _ => none
  | .ringEnable _ => none
  | .ringDisable _ => none
  | .devnum _ => none
  | .registerWrite _ _ _ => none
  | .vdevCreate _ => none
  | .vdevDestroy _ => none
  | .thaw _ => none
  | .granule _ => none
  | .ctxCreate _ => none
  | .ctxDestroy _ => none
  | .launch _ => none
  | .preempt _ => none
  | .tlbInval _ => none
  | .resolve _ => none
  | .killfr _ => none
  | .brkset _ => none
  | .sillage _ => none
  | .quote _ => none
  | .pair _ => none
  | .exportGranules _ => none
  | .freezeNotification _ => none
  | .hostApertureAccess _ _ => none
  | .flitReceive _ _ _ _ => none
  | .fabricTokenArrival _ => none
  | .remoteRequestArrival _ => none
  | .ptpMessage _ => none
  | .powerOn _ => none
  | .deviceReset => none
  | .firmwareUpdate _ => none
  | .thermalStepChange _ _ => none
  | .correctedError => none
  | .uncorrectableError _ => none
  | .sweepBroadcastArrival _ _ => none
  | .planeFlipArrival _ _ => none
  | .frameBreakArrival _ _ => none
  | .watchArmArrival _ _ => none
  | .stopBroadcastArrival _ _ => none
  | .outgoingTransferDone _ => none
  | .granuleScrubComplete _ => none
  | .ptpfree => none
  | .powerOff => none

/-- The operator of an opcode (R51, R52); none for an unassigned code and for FANOUT, which is no operator. -/
def ofOpcode (c : BitVec 8) (w : OpFields) : Option Instr :=
  if c.extractLsb' 6 2 = 0b11#2 then some (.xop (c.extractLsb' 0 6) w)
  else match c.toNat with
    | 0x01 => some (.pass w)
    | 0x02 => some (.sync w)
    | 0x03 => some (.switch w)
    | 0x04 => some (.sel w)
    | 0x05 => some (.const w)
    | 0x06 => some (.sink w)
    | 0x08 => some (.ends w)
    | 0x09 => some (.iseos w)
    | 0x0A => some (.count w)
    | 0x10 => some (.lenter w)
    | 0x11 => some (.lnext w)
    | 0x12 => some (.lexit w)
    | 0x13 => some (.ldone w)
    | 0x14 => some (.getcol w)
    | 0x15 => some (.settag w)
    | 0x16 => some (.spawn w)
    | 0x17 => some (.call w)
    | 0x18 => some (.ret w)
    | 0x19 => some (.fend w)
    | 0x1A => some (.gang w)
    | 0x1B => some (.frameid w)
    | 0x1C => some (.killf w)
    | 0x20 => some (.add w)
    | 0x21 => some (.sub w)
    | 0x22 => some (.mul w)
    | 0x23 => some (.mulh w)
    | 0x24 => some (.div w)
    | 0x25 => some (.rem w)
    | 0x26 => some (.and w)
    | 0x27 => some (.or w)
    | 0x28 => some (.xor w)
    | 0x29 => some (.andn w)
    | 0x2A => some (.shl w)
    | 0x2B => some (.shr w)
    | 0x2C => some (.sra w)
    | 0x2D => some (.rotl w)
    | 0x2E => some (.min w)
    | 0x2F => some (.max w)
    | 0x30 => some (.cmp w)
    | 0x31 => some (.clz w)
    | 0x32 => some (.popc w)
    | 0x33 => some (.bext w)
    | 0x34 => some (.bins w)
    | 0x35 => some (.mad w)
    | 0x36 => some (.addrc w)
    | 0x37 => some (.abs w)
    | 0x38 => some (.neg w)
    | 0x39 => some (.icvt w)
    | 0x3A => some (.mix w)
    | 0x3B => some (.pack w)
    | 0x3C => some (.unpk w)
    | 0x40 => some (.fadd w)
    | 0x41 => some (.fsub w)
    | 0x42 => some (.fmul w)
    | 0x43 => some (.ffma w)
    | 0x44 => some (.fdiv w)
    | 0x45 => some (.fsqrt w)
    | 0x46 => some (.fmin w)
    | 0x47 => some (.fmax w)
    | 0x48 => some (.fcmp w)
    | 0x49 => some (.fcvt w)
    | 0x4A => some (.fclass w)
    | 0x4B => some (.ftoi w)
    | 0x4C => some (.itof w)
    | 0x50 => some (.vadd w)
    | 0x51 => some (.vsub w)
    | 0x52 => some (.vmul w)
    | 0x53 => some (.vfma w)
    | 0x54 => some (.vdiv w)
    | 0x55 => some (.vmin w)
    | 0x56 => some (.vmax w)
    | 0x57 => some (.vabs w)
    | 0x58 => some (.vneg w)
    | 0x59 => some (.vsqrt w)
    | 0x5A => some (.vrsq w)
    | 0x5B => some (.vrcp w)
    | 0x5C => some (.vexp2 w)
    | 0x5D => some (.vlog2 w)
    | 0x5E => some (.vtanh w)
    | 0x5F => some (.vcvt w)
    | 0x60 => some (.vscal w)
    | 0x61 => some (.vfill w)
    | 0x62 => some (.vcmp w)
    | 0x63 => some (.vmsel w)
    | 0x64 => some (.vand w)
    | 0x65 => some (.vor w)
    | 0x66 => some (.vxor w)
    | 0x67 => some (.vshf w)
    | 0x68 => some (.vtran w)
    | 0x69 => some (.vslic w)
    | 0x6A => some (.vrowop w)
    | 0x6B => some (.vcolop w)
    | 0x70 => some (.mma w)
    | 0x71 => some (.mmas w)
    | 0x72 => some (.mmag w)
    | 0x73 => some (.mcomp w)
    | 0x74 => some (.azero w)
    | 0x75 => some (.adrain w)
    | 0x76 => some (.aload w)
    | 0x77 => some (.aread w)
    | 0x78 => some (.apatch w)
    | 0x80 => some (.rsum w)
    | 0x81 => some (.rmax w)
    | 0x82 => some (.rmin w)
    | 0x83 => some (.rargx w)
    | 0x84 => some (.topk w)
    | 0x85 => some (.normk w)
    | 0x86 => some (.steer w)
    | 0x87 => some (.ordmrg w)
    | 0x88 => some (.sort w)
    | 0x89 => some (.partn w)
    | 0x8A => some (.scan w)
    | 0x90 => some (.ldt w)
    | 0x91 => some (.stt w)
    | 0x92 => some (.lds w)
    | 0x93 => some (.sts w)
    | 0x94 => some (.gath w)
    | 0x95 => some (.scat w)
    | 0x96 => some (.pref w)
    | 0x97 => some (.fence w)
    | 0x98 => some (.bput w)
    | 0x99 => some (.bget w)
    | 0x9A => some (.binit w)
    | 0xA0 => some (.atom w)
    | 0xA1 => some (.cas w)
    | 0xA2 => some (.ared w)
    | 0xA3 => some (.iput w)
    | 0xA4 => some (.itake w)
    | 0xA5 => some (.iclr w)
    | 0xA6 => some (.join w)
    | 0xA7 => some (.waitv w)
    | 0xB0 => some (.trap w)
    | 0xB1 => some (.park w)
    | 0xB2 => some (.resume w)
    | 0xB3 => some (.trace w)
    | 0xB4 => some (.watch w)
    | 0xB5 => some (.unwatch w)
    | 0xB6 => some (.flags w)
    | 0xB7 => some (.time w)
    | 0xB8 => some (.loadg w)
    | 0xB9 => some (.swapg w)
    | 0xBA => some (.drain w)
    | 0xBB => some (.query w)
    | _ => none

/-- The operator a 128-bit word stands for (R53): total, and an illegal word is rejected by name. What a binding adds
for an XOP is the context's (R252). -/
def decode (x : BitVec 128) : Except Reject Instr :=
  match ofOpcode (x.extractLsb' 120 8) default with
  | none => .error .opcode
  | some _ =>
    match decodeFields x with
    | .error r => .error r
    | .ok w =>
      match ofOpcode (x.extractLsb' 120 8) w with
      | some i => if i.wf then .ok i else .error .notListed
      | none => .error .opcode

/-- The word of an operator; none for an event, which has no word. -/
def encode (i : Instr) : Option (BitVec 128) :=
  (opcodeOf i).map fun (c, w) => c ++ encodeFields w

/-- The instruction an operator slot holds, read with the same rule. -/
def decodeSlot (x : BitVec 128) : Option Instr :=
  match decode x with
  | .ok i => some i
  | .error _ => none

/-- The numbering of the opcode table is the word's own: bit 0 is W[0] (R30). -/
def decodeTableWord (_nbits w : Nat) : Option Instr := decodeSlot (BitVec.ofNat 128 w)

/-! ### FANOUT records (R40) -/

/-- The four words of a record, E0 first. -/
def recordWords (x : BitVec 128) : List (BitVec 32) :=
  [x.extractLsb' 96 32, x.extractLsb' 64 32, x.extractLsb' 32 32, x.extractLsb' 0 32]

/-- A destination word that meets R36 and R37. -/
def decodeDestOk (x : BitVec 32) : Option (Option Dest) :=
  match decodeDest x with
  | some d => if Enc.destOptOk d then some d else none
  | none => none

/-- The record's destinations, when every word meets R36 and R37 and only E3 may link (R41). -/
def decodeRecord (x : BitVec 128) : Option (List (Option Dest)) :=
  match (recordWords x).mapM decodeDestOk with
  | some [e0, e1, e2, e3] => if [e0, e1, e2].all Enc.notLink then some [e0, e1, e2, e3] else none
  | _ => none

end Sys2Proof
end

