-- ==== Sys2Proof/Machine/Memory.lean ====
section
/-! DEFINITION. Sparse maps and byte memory as sorted lists in one canonical form. Memory lists no zero byte: an
address not listed reads as zero, which is what R349 and R469 leave in local memory (host memory: log entry 2). -/

namespace Sys2Proof.Machine

/-! ### Maps by ascending key -/

/-- The value at a key. -/
def look {α : Type} (k : Nat) : List (Nat × α) → Option α
  | [] => none
  | (a, v) :: t => if a = k then some v else look k t

/-- The map with the key set. -/
def put {α : Type} (k : Nat) (v : α) : List (Nat × α) → List (Nat × α)
  | [] => [(k, v)]
  | (a, u) :: t => if k < a then (k, v) :: (a, u) :: t else if k = a then (k, v) :: t else (a, u) :: put k v t

/-- The map without the key. -/
def del {α : Type} (k : Nat) (m : List (Nat × α)) : List (Nat × α) := m.filter fun p => p.1 != k

/-! ### Bytes -/

namespace Memory

/-- One byte. -/
def get (m : List Host.Cell) (a : Nat) : Byte := (look a m).getD 0

/-- The canonical form: addresses strictly rising, no zero byte. -/
def wf : List Host.Cell → Bool
  | [] => true
  | [(_, v)] => v != 0
  | (a, v) :: (b, u) :: t => decide (a < b) && v != 0 && wf ((b, u) :: t)

/-- The entries of bytes that stand from a; a zero is not listed. -/
def cells (a : Nat) : List Byte → List Host.Cell
  | [] => []
  | v :: vs => if v = 0 then cells (a + 1) vs else (a, v) :: cells (a + 1) vs

/-- n bytes from a, of entries that begin at a or above. -/
def bytes (a : Nat) : Nat → List Host.Cell → List Byte
  | 0, _ => []
  | n + 1, [] => 0 :: bytes (a + 1) n []
  | n + 1, (b, v) :: t => if b = a then v :: bytes (a + 1) n t else 0 :: bytes (a + 1) n ((b, v) :: t)

/-- n bytes from a. -/
def read (m : List Host.Cell) (a n : Nat) : List Byte := bytes a n (m.dropWhile fun p => p.1 < a)

/-- Bytes written from a. -/
def write (m : List Host.Cell) (a : Nat) (vs : List Byte) : List Host.Cell :=
  (m.filter fun p => p.1 < a) ++ (cells a vs ++ m.filter fun p => a + vs.length ≤ p.1)

/-- The bytes of [a, a + n) set to zero. -/
def clear (m : List Host.Cell) (a n : Nat) : List Host.Cell := m.filter fun p => p.1 < a || a + n ≤ p.1

end Memory

end Sys2Proof.Machine
end

