-- ==== Sys2Proof/Machine/State.lean ====
section
/-! DEFINITION. The state of the TZ-940: plain data, holding every piece of state the manual names, and the state
after reset. Sparse collections are lists of key and value in ascending order of key; an absent key stands for the
empty (scrubbed, free) thing. -/

namespace Sys2Proof.Machine

/-! ### Values -/

/-- A tile handle (R46). -/
structure Handle where
  fmt : Fmt
  rows : Nat
  cols : Nat
  valid : Nat
  line : Nat
  poison : BitVec 8
  eos : Bool
  disc : Bool
  seq : BitVec 16
  deriving DecidableEq, Repr, Inhabited

/-- A token (R54): its tag, payload, flags, resolved destination and producer. -/
structure Token where
  asid : Nat
  tag : Tag
  payload : Word64
  isTile : Bool
  poison : Bool
  eos : Bool
  cgen : BitVec 4
  cell : Nat
  slot : Nat
  port : Port
  pcell : Nat
  pslot : Nat
  ptime : BitVec 16
  /-- it came from another device: stamped at its entry cell (R158), held by drydown in the inbox (R413) -/
  remote : Bool
  /-- a dispatcher or the control core injected it (R426) -/
  inj : Bool
  deriving DecidableEq, Repr, Inhabited

/-- A value an operator reads or emits: a scalar, or a tile with its bytes row after row (R48). -/
inductive Val where
  | scalar (v : Word64) (poison eos : Bool)
  | tile (h : Handle) (data : List Byte)
  deriving DecidableEq, Repr, Inhabited

/-- An entry of a matching store (R78): an accepted token with its arrival number. -/
structure Entry where
  tok : Token
  arrive : Nat
  /-- its frame is PARKED and neither park area nor tile region had room (R381) -/
  parked : Bool
  /-- it occupies an entry held for handler frames (R78) -/
  res : Bool
  /-- block of the tile region its tile was spilled to while the set stays formed (R87 step 4) -/
  block : Option Nat
  /-- when it was accepted or returned: the cycle, and its place within that cycle (R427) -/
  rank : Nat × Nat := (0, 0)
  /-- RESUME.REDO has re-formed its set under NOWATCH, and it has not fired since (R385) -/
  nowatch : Bool := false
  deriving DecidableEq, Repr, Inhabited

/-- An operand of a firing: a token's value or a literal's. -/
structure Opnd where
  port : Port
  lit : Bool
  tok : Token
  val : Val
  deriving DecidableEq, Repr, Inhabited

/-- A watch slot (R403). -/
structure Watch where
  slot : Nat
  kind : Nat
  target : Nat
  lo : Word64
  hi : Word64
  deriving DecidableEq, Repr, Inhabited

/-- A selected set, with the word and destinations read at selection (R35). -/
structure Firing where
  cell : Nat
  sid : Nat
  asid : Nat
  slot : Nat
  tag : Tag
  word : BitVec 128
  ops : List Opnd
  /-- destinations of the D0 side and the D1 side, links expanded (R41) -/
  outs0 : List Dest
  outs1 : List Dest
  nowatch : Bool
  /-- the grant that lets a held firing commit: nothing, or frames or a record that have just been given -/
  granted : Bool
  /-- the 64 bytes of the tensor descriptor, read once at selection (R306); empty before -/
  desc : List Byte := []
  /-- first of the lines reserved for the tile that a load makes (R84) -/
  room : Option Nat := none
  /-- the context's armed watch slots as its cell had applied them at selection (R405) -/
  watch : List Watch := []
  deriving DecidableEq, Repr, Inhabited

/-! ### Cells -/

/-- Why a formed set waits outside its unit (R118, R156, R304, R314, R317, R395). -/
inductive Hold where
  /-- LNEXT for a busy colour -/
  | lnext
  /-- LENTER for a record -/
  | lenter
  /-- SPAWN or CALL for a frame -/
  | frame
  | gang
  | bput (ring : Nat)
  | bget (ring : Nat)
  /-- FENCE, for the operations named and for those that sets of its cell, started before it, are still to issue, at its scope
  (R290) -/
  | fence (ids sids : List Nat) (scope : BitVec 2)
  /-- the replies of homes to operation id (R304) -/
  | accept (id : Nat)
  /-- walks for pages it needs (R361) -/
  | walk
  /-- its frame is still PARKED: re-formed by RESUME.REDO (R400) -/
  | parked
  /-- a request at the dispatcher of die 0 (R153, R395) -/
  | request
  /-- a residency application (R151); the frame has been allocated -/
  | residency (child : Nat)
  /-- SWAPG, decided, while its flip reaches the cells (R157) -/
  | flipping
  deriving DecidableEq, Repr, Inhabited

/-- What a walk told a waiting set about one page (R361, R362): the fault class and code, the cause of the freeze that it
makes, and the trap's AUX. -/
structure XFault where
  va : Nat
  cls : Nat
  code : Nat
  freeze : Option Nat := none
  aux : Nat := 0
  deriving DecidableEq, Repr, Inhabited

/-- A formed set (R76). -/
structure FSet where
  sid : Nat
  asid : Nat
  slot : Nat
  tag : Tag
  args : List Entry
  formedAt : Nat
  bypass : Nat
  nowatch : Bool
  hold : Option Hold
  /-- the firing as selected, for a held set -/
  snap : Option Firing
  faults : List XFault
  /-- when it began to wait: its place in the queues of waiters -/
  since : Nat
  deriving DecidableEq, Repr, Inhabited

/-- A partition table entry (R147). -/
structure Part where
  asid : Nat
  base : Nat
  count : Nat
  active : Bool
  cgen : BitVec 4
  deriving DecidableEq, Repr, Inhabited

/-- A slot of an operator plane: 128 bits and the record mark (R40). -/
structure OpSlot where
  word : BitVec 128
  record : Bool
  deriving DecidableEq, Repr, Inhabited

/-- A loop record (R110). -/
structure LoopRec where
  asid : Nat
  slot : Nat
  base : Tag
  w : Nat
  closing : Bool
  nextc : Nat
  /-- colour and set of the waiting LNEXT -/
  waiter : Option (Nat × Nat)
  infl : Nat
  src : Nat
  claims : BitVec 32
  busy : BitVec 256
  deriving DecidableEq, Repr, Inhabited

/-- An accumulator (R233): owner frame, GEN and ASID when OWNED. -/
structure Acc where
  owner : Option (Nat × Nat × Nat)
  step : BitVec 16
  rows : Nat
  cols : Nat
  poison : BitVec 8
  data : List (BitVec 36)
  deriving DecidableEq, Repr, Inhabited

/-- A tile on a cell: its first line, its lines and its bytes (R84). -/
structure TileBuf where
  line : Nat
  lines : Nat
  data : List Byte
  deriving DecidableEq, Repr, Inhabited

/-- A ring (R315): filled slots hold the handle and the bytes, the head first. -/
structure Ring where
  base : Nat
  slotl : Nat
  nslot : Nat
  head : Nat
  asid : Nat
  tiles : List (Handle × List Byte)
  deriving DecidableEq, Repr, Inhabited

/-- A bank's load: in progress, done, or failed (R273). -/
inductive BankSt where
  | loading | resident | failed
  deriving DecidableEq, Repr, Inhabited

/-- An attar bank that is not free (R273). A cell lists its banks least recently started first. -/
structure Bank where
  asid : Nat
  xop : Nat
  words : List (BitVec 64)
  /-- the waiting set it is loaded for (R274), and its slot -/
  pin : Option Nat
  st : BankSt
  slot : Nat := 0
  deriving DecidableEq, Repr, Inhabited

/-- A TLB entry (R365): size is the number of offset bits, 16, 21 or 34. -/
structure TlbEntry where
  asid : Nat
  page : Nat
  size : Nat
  pa : Nat
  attr : BitVec 9
  deriving DecidableEq, Repr, Inhabited

/-- A firing record (R426). -/
structure FireRec where
  tag : Tag
  slot : Nat
  asid : Nat
  ctime : BitVec 16
  lport : Port
  remote : Bool
  inj : Bool
  pcell : Nat
  pslot : Nat
  ptime : BitVec 16
  deriving DecidableEq, Repr, Inhabited

/-- Why a packet waits at a cell's input. -/
inductive InputWhy where
  /-- every entry is in a formed set (R79) -/
  | entries
  /-- its slot has spilled entries and the lookup runs (R80) -/
  | lookup
  /-- the cell has not flipped yet (R158) -/
  | flip
  /-- no run of lines, or sixteen tiles in assembly (R83) -/
  | space
  deriving DecidableEq, Repr, Inhabited

/-- A token or tile on its way: tokens that share one tile cross once (R84). -/
structure Flight where
  toks : List Token
  /-- the tile's bytes, when the tile is not already on the receiving cell -/
  tile : Option (List Byte)
  /-- packets not yet arrived -/
  left : Nat
  /-- first line reserved on the receiving cell -/
  line : Option Nat
  /-- the outgoing transfer it belongs to -/
  xfer : Option Nat
  /-- device, cell and slot that sent a token from another device (R413) -/
  far : Option (Nat × Nat × Nat) := none
  deriving DecidableEq, Repr, Inhabited

structure Held where
  flight : Flight
  why : InputWhy
  deriving DecidableEq, Repr, Inhabited

/-- The units of a cell (R22). -/
inductive UnitKind where
  | scalar | vector | matrix | memory | ring
  deriving DecidableEq, Repr, Inhabited

/-- One cell (R19, R20). -/
structure Cell where
  vdev : Option Nat
  parts : List Part
  /-- by plane * 2048 + slot -/
  ops : List (Nat × OpSlot)
  /-- slots whose break bit is set (R430) -/
  breaks : List Nat
  arrivals : BitVec 48
  entries : List Entry
  sets : List FSet
  nextSid : Nat
  input : List Held
  tiles : List TileBuf
  /-- runs reserved for tiles in assembly: first line and lines -/
  reserved : List (Nat × Nat)
  /-- the set that holds the space claim, and the lines of each of its result tiles (R87) -/
  claim : Option Nat
  claimNeed : List Nat
  loops : List LoopRec
  accs : List (Nat × Acc)
  banks : List Bank
  rings : List (Nat × Ring)
  tlb : List TlbEntry
  records : List FireRec
  /-- watch slots as this cell has applied them (R405) -/
  watch : List (Nat × Watch)
  /-- frame breaks applied: ASID, frame, GEN (R398) -/
  fbreaks : List (Nat × Nat × Nat)
  /-- ASIDs whose drydown stop has reached the cell (R411) -/
  stops : List Nat
  /-- firings committed, by ASID (R159) -/
  fired : List (Nat × Nat)
  /-- cycle in which each unit last started a firing (R90) -/
  started : List (UnitKind × Nat)
  /-- cycle from which the divider of the scalar unit is free (R199) -/
  divFree : Nat
  /-- cycle from which the vector and the matrix unit are free (R203, R237) -/
  busy : List (UnitKind × Nat)
  deriving DecidableEq, Repr, Inhabited

/-- A scrubbed cell (R357). -/
def Cell.scrubbed : Cell :=
  { vdev := none, parts := [], ops := [], breaks := [], arrivals := 0, entries := [], sets := [], nextSid := 0,
    input := [], tiles := [], reserved := [], claim := none, claimNeed := [], loops := [], accs := [], banks := [], rings := [],
    tlb := [], records := [], watch := [], fbreaks := [], stops := [], fired := [], started := [], divFree := 0,
    busy := [] }

/-! ### Contexts -/

inductive FrameSt where
  | free | live | parked | ending
  deriving DecidableEq, Repr, Inhabited

/-- Where a frame came from (R99 SRC). -/
inductive Share where
  | general | depth | handler | root
  deriving DecidableEq, Repr, Inhabited

/-- A frame table entry (R99) with the frame's sticky flags (R172). -/
structure Frame where
  rettag : Tag
  parent : BitVec 12
  pgen : BitVec 4
  st : FrameSt
  gen : BitVec 4
  depth : Nat
  src : Share
  gsize : Nat
  rank : Nat
  flags : BitVec 6
  /-- the record this handler frame was delivered (R384) -/
  record : Option Nat
  deriving DecidableEq, Repr, Inhabited

/-- Counts of the frame table's header (R99). -/
structure Pool where
  nframes : Nat
  dmax : Nat
  resv : Nat
  gfree : Nat
  hfree : Nat
  dfree : List Nat
  maxd : Nat
  orphans : BitVec 64
  sweeps : BitVec 32
  peak : Nat
  deriving DecidableEq, Repr, Inhabited

/-- Attar state a trap exposes (R392). -/
structure AttarSnap where
  m : List (List Word32)
  q : List Word32
  ac : List Word32
  lc : List Word32
  mask : BitVec 64
  mpc : Nat
  micro : Nat
  n : Nat
  deriving DecidableEq, Repr, Inhabited

/-- What a trap says beyond where it was raised (R377). -/
structure Trap where
  cls : Nat
  code : Nat
  elem : Nat
  flags : BitVec 6
  addr : Nat
  coord : Word64
  aux : Word64
  snap : Option AttarSnap
  /-- lines of each result tile that the trapping firing had reserved when it started (R84) -/
  need : List Nat := []
  deriving DecidableEq, Repr, Inhabited

inductive RecSt where
  | delivered | escalated | resolved
  deriving DecidableEq, Repr, Inhabited

/-- A trap raised (R377) and, when written, its index and state. -/
structure TrapRec where
  trap : Trap
  /-- 1 firing, 2 frame, 3 context (R375) -/
  kind : Nat
  cell : Nat
  slot : Nat
  tag : Tag
  time : Nat
  word : BitVec 128
  ops : List Opnd
  /-- the set's entries, held by the record (R380) -/
  args : List Entry
  outs0 : List Dest
  outs1 : List Dest
  /-- the memory operation, for REMOTE_TIMEOUT -/
  op : Option Nat
  /-- raised while frozen (R370); the first raised it -/
  frozen : Option Bool
  index : Option Nat
  st : RecSt
  /-- delivery or escalation still to be made -/
  pending : Bool
  /-- escalation code (R384) -/
  esc : Nat
  deriving DecidableEq, Repr, Inhabited

/-- A way of the token table (R81) or an entry of the park area (R381): index, entry, cell, block. -/
structure Stored where
  idx : Nat
  entry : Entry
  cell : Nat
  block : Option Nat
  deriving DecidableEq, Repr, Inhabited

/-- A frame request waiting (R108, R109): cell and set. -/
structure FrameWait where
  cell : Nat
  sid : Nat
  /-- depth of the child -/
  depth : Nat
  /-- frames asked for -/
  n : Nat
  deriving DecidableEq, Repr, Inhabited

/-- A plane operation waiting or in progress (R153). -/
inductive PlaneOp where
  | loadg (cell sid : Nat)
  | drain (cell sid : Nat)
  | swapg (cell sid : Nat)
  | residency (cell sid : Nat)
  /-- a SWAPG that has been decided: its flip is on its way to the cells -/
  | flipping (cell sid : Nat)
  /-- the load of the launch at the head of its queue -/
  | launch
  deriving DecidableEq, Repr, Inhabited

/-- At the head of the plane operations, is it in progress? A DRAIN or a SWAPG waits for quiescence (R153, R155). -/
def PlaneOp.works : PlaneOp → Bool
  | .loadg _ _ | .residency _ _ | .flipping _ _ => true
  | .drain _ _ | .swapg _ _ | .launch => false

/-- A launch queued (R150): the command that asked for it, and its argument. -/
structure LaunchReq where
  cmd : Cmd
  arg : Word64
  /-- IMAGEID and entry ports of an image that has been applied, while its DATA on other devices' pages is still to be
  performed (R74) -/
  ports : Option (BitVec 128 × List Dest) := none
  deriving DecidableEq, Repr, Inhabited

/-- A sweep in progress (R103): frame, old GEN. -/
structure Sweep where
  frame : Nat
  gen : BitVec 4
  deriving DecidableEq, Repr, Inhabited

/-- Drydown of a context (R411). -/
inductive DrySt where
  | none | stopping | finishing | performing | markers | saving | saved | resuming | restoring
  deriving DecidableEq, Repr, Inhabited

/-- A sillage walk in flight (R429). -/
structure SillageWalk where
  id : Nat
  step : Nat
  depth : Nat
  cell : Nat
  fr : FireRec
  ambig : Bool
  deriving DecidableEq, Repr, Inhabited

/-- What a drydown saves of one cell (R414): all of the context's own entries and things on it. -/
structure CellImage where
  cell : Nat
  image : Cell
  /-- blocks of the spill area that hold it -/
  blocks : List Nat
  deriving DecidableEq, Repr, Inhabited

/-- A remote token in the inbox (R413). -/
structure InboxEntry where
  tok : Token
  /-- the block of its tile -/
  block : Option Nat
  fdev : Nat
  fcell : Nat
  fslot : Nat
  tarrive : Nat
  deriving DecidableEq, Repr, Inhabited

/-- The context record's fields (R351) and what the device keeps per context. -/
structure CtxRec where
  base : Nat
  vdev : Nat
  frozen : Bool
  ptroot : Nat
  spillbase : Nat
  spillmax : Nat
  spill : Nat
  frtbase : Nat
  frtmax : Nat
  dumpbase : Nat
  dumpsize : Nat
  descbase : Nat
  descn : Nat
  arenabase : Nat
  arenasize : Nat
  attarbase : Nat
  attarsize : Nat
  trapbase : Nat
  trapn : Nat
  plogbase : Nat
  plogsize : Nat
  parkbase : Nat
  parksize : Nat
  rptbase : Nat
  tracebase : Nat
  tracesize : Nat
  imageva : Nat
  imagesize : Nat
  sliceper : Nat
  sliceoff : Nat
  capmax : BitVec 8
  orphanEn : Bool
  region : List Nat
  pbase : Nat
  pcount : Nat
  deriving DecidableEq, Repr, Inhabited

/-- Fields a launch's PARAMS or the device writes (R351, D). -/
structure CtxParams where
  seed : Word64
  watchdog : Nat
  caps : BitVec 8
  fpen : BitVec 8
  homeflags : BitVec 6
  purged : BitVec 64
  imageid : BitVec 128
  attest : Digest
  nmeas : BitVec 32
  unsigned : Bool
  trapvec : List (Nat × BitVec 32)
  deriving DecidableEq, Repr, Inhabited

structure Ctx where
  cr : CtxRec
  par : CtxParams
  pool : Pool
  frames : List (Nat × Frame)
  /-- active-plane bit and cgen as the dispatcher has them (R157) -/
  active : Bool
  cgen : BitVec 4
  /-- residency masks of plane 0 and plane 1 (R148) -/
  mask0 : BitVec 256
  mask1 : BitVec 256
  /-- plane, graph, and the cells and slots its segment wrote, for every bit set in the masks (R148) -/
  wrote : List (Bool × Nat × List (Nat × Nat))
  purgeWindow : Bool
  planeOps : List PlaneOp
  frameWaits : List FrameWait
  gangWaits : List FrameWait
  /-- general frames set aside for the oldest GANG (R109) -/
  aside : Nat
  sweeps : List Sweep
  launches : List LaunchReq
  /-- the launch running: step 5 of R150 done, frame 0 not yet FREE again -/
  running : Option LaunchReq
  traps : List TrapRec
  ways : List Stored
  parked : List Stored
  blocks : List Nat
  watch : List Watch
  /-- frame breaks: frame, GEN (R398) -/
  fbreaks : List (Nat × Nat)
  /-- watchdog count in 1/42 ns, stage one taken, stage one spilled a token -/
  wdog : Nat
  wdogStage : Bool
  wdogSpilled : Bool
  dry : DrySt
  dryReason : Nat
  dryCmds : List Cmd
  image : List CellImage
  /-- blocks of the drydown's directory and of the inbox, oldest first -/
  dirBlocks : List Nat
  inBlocks : List Nat
  inbox : List InboxEntry
  /-- device time of the stop broadcast -/
  tstop : Nat
  /-- how many slice boundaries had passed at the last one acted on (R420) -/
  sliceNo : Nat
  seqno : Nat
  scheduled : Bool
  /-- sillage control word and walks taken (R428) -/
  sillage : BitVec 64
  /-- the anchor's firings since the word was set, and walks in flight -/
  anchored : Nat
  walks : List SillageWalk
  /-- firings committed on all cells (R159) -/
  fired : Nat
  /-- lost cell state (R472): stopped and left unsaved -/
  lost : Bool
  deriving DecidableEq, Repr, Inhabited

/-! ### Memory operations -/

/-- A part of a line that an access touches: address, place in the operation's buffer, bytes (for a write),
element size. -/
structure Seg where
  pa : Nat
  off : Nat
  len : Nat
  deriving DecidableEq, Repr, Inhabited

/-- One access of an operation: one line (R281). -/
structure Access where
  va : Nat
  pa : Nat
  parts : List Seg
  /-- rows of the operation's tile that take bytes from it or give bytes to it -/
  rows : List Nat
  /-- data it stores is poisoned -/
  bad : Bool
  done : Bool
  /-- the line's key was already there (R324) -/
  dup : Bool
  deriving DecidableEq, Repr, Inhabited

/-- What an operation does at its homes. -/
inductive OpKind where
  | load (h : Handle)
  | loadScalar (fmt : Fmt)
  | store
  | pref
  | atom (var : Nat) (fmt : Fmt) (b : Word64)
  | cas (fmt : Fmt) (b c : Word64)
  | ared (var : Nat) (fmt : Fmt)
  | iput (v : Word64)
  | itake
  | iclr
  | join (n : Word32)
  | waitv (cond : Nat) (fmt : Fmt) (b : Word64)
  /-- a line of a zero fill that another device asks for (R295) -/
  | zeroLine
  deriving DecidableEq, Repr, Inhabited

inductive OpPhase where
  /-- replies awaited (R304) -/
  | accepting
  /-- committed; accesses to be applied -/
  | issued
  /-- listed or registered at its home -/
  | waiting
  /-- every access applied; token to be emitted -/
  | applied
  /-- timed out; its record still open (R328, R385) -/
  | abandoned
  deriving DecidableEq, Repr, Inhabited

/-- An outstanding operation of a memory port (R292). -/
structure MemOp where
  id : Nat
  firing : Firing
  otag : Tag
  eos : Bool
  kind : OpKind
  scope : BitVec 2
  accs : List Access
  /-- bytes read, or bytes to store -/
  buf : List Byte
  /-- completion payload -/
  count : Nat
  /-- poison groups of the result, or bit 0 for a scalar -/
  poison : BitVec 8
  flags : BitVec 6
  phase : OpPhase
  /-- refused at a home: class and code -/
  refusal : Option (Nat × Nat)
  /-- other device that serves it -/
  dev : Option Nat
  deadline : Nat
  /-- pages it translated through, with their offset bits -/
  pages : List (Nat × Nat)
  /-- the order it was listed in at its homes -/
  order : Nat
  /-- side its answer goes to (JOIN) -/
  side : Bool
  /-- address of its arena entry -/
  arena : Option Nat
  /-- its home has listed or registered it (R293, R294) -/
  listed : Bool
  /-- another device that asked for it, and the number of its request (R462) -/
  origin : Option (Nat × Nat)
  /-- accesses whose answers came too late, or refused it after its commit: they are asked for again (R328, R385) -/
  late : List Nat := []
  /-- an entry that it translated through has been invalidated: issued again, it translates anew (R297) -/
  stale : Bool := false
  deriving DecidableEq, Repr, Inhabited

/-- A write-once word that is not empty (R293). -/
inductive W1 where
  | deferred
  | full
  deriving DecidableEq, Repr, Inhabited

/-- A walk in progress (R361). -/
structure Walk where
  asid : Nat
  va : Nat
  die : Nat
  /-- the cells and sets that wait for it -/
  waiters : List (Nat × Nat)
  /-- it waits for a zero claim of this leaf entry -/
  claim : Option Nat
  deriving DecidableEq, Repr, Inhabited

/-- A zero claim on its way, or a fill in progress (R295): address of the leaf entry. -/
structure ZeroFill where
  leaf : Nat
  frame : Nat
  asid : Nat
  w1 : Bool
  filling : Bool
  deriving DecidableEq, Repr, Inhabited

/-- Lines of one page of another device that the device itself writes, for a load (R74) or for the zero fill of a leaf entry
(R295): those not yet answered, whether one was refused or came too late, when their time is over (R328), and whether
nothing waits for them any more. -/
structure FarPage where
  id : Nat
  asid : Nat
  left : List Nat
  refused : Bool
  leaf : Option Nat
  deadline : Nat := 0
  late : Bool := false
  gone : Bool := false
  deriving DecidableEq, Repr, Inhabited

/-- An invalidation in progress (R297). -/
structure Inval where
  cmd : Cmd
  asid : Nat
  lo : Nat
  len : Nat
  /-- operations that translated through a dropped entry -/
  ops : List Nat
  deriving DecidableEq, Repr, Inhabited

/-! ### Broadcasts and requests -/

inductive BcastKind where
  /-- clear: it ends a frame break (R398) -/
  | park (frame gen : Nat) (clear : Bool)
  | sweep (frame gen : Nat)
  /-- purge: the cell drops its unformed tokens of the context first (R157) -/
  | flip (purge : Bool)
  | frameBreak (frame gen : Nat)
  | watch (slot : Nat) (w : Option Watch)
  | stop
  | breakBit (cell slot : Nat) (set : Bool) (cmd : Cmd)
  deriving DecidableEq, Repr, Inhabited

/-- A broadcast and the cells it has not reached (R473). -/
structure Bcast where
  asid : Nat
  kind : BcastKind
  left : List Nat
  deriving DecidableEq, Repr, Inhabited

/-- A request at the dispatcher of die 0 (R395). -/
inductive ReqKind where
  | park | resume | watch | unwatch | flags
  deriving DecidableEq, Repr, Inhabited

structure Req where
  kind : ReqKind
  asid : Nat
  cell : Nat
  sid : Nat
  /-- an arm or clear has been broadcast -/
  sent : Bool
  deriving DecidableEq, Repr, Inhabited

/-- An outgoing tile transfer (R85). -/
structure Xfer where
  id : Nat
  cell : Nat
  line : Nat
  deriving DecidableEq, Repr, Inhabited

/-! ### What happens next -/

/-- An action the schedule names. -/
inductive Act where
  /-- a unit of a cell selects a set and fires it -/
  | fire (cell : Nat) (unit : UnitKind)
  /-- the device takes the next command of a queue -/
  | command (fn : Fn)
  | event (i : Instr)
  deriving DecidableEq, Repr, Inhabited

/-- An action and the arithmetic-clock cycles that pass before it. -/
structure Cue where
  dt : Nat
  what : Act
  deriving DecidableEq, Repr, Inhabited

/-! ### The host side -/

/-- A register window (R466). -/
structure Window where
  sqbase : Word64
  sqsize : Word64
  cqbase : Word64
  cqsize : Word64
  enable : Bool
  ringerr : Bool
  sqtail : Nat
  sqhead : Nat
  /-- completion entries the host has freed since ENABLE was set -/
  cqhead : Nat
  /-- completion entries written since ENABLE was set -/
  cqtail : Nat
  /-- ENABLE has been set since CQBASE and CQSIZE were last written -/
  started : Bool
  deriving DecidableEq, Repr, Inhabited

/-- A virtual device (R348, R465). -/
structure Vdev where
  unsignedOk : Bool
  capceil : BitVec 8
  qctx : Nat
  qcell : Nat
  qgran : Nat
  gclbase : Nat
  gclsize : Nat
  edpub : BitVec 256
  mlpub : List Byte
  /-- number of its key among the keys drawn (R349) -/
  key : Nat
  frozen : Bool
  deriving DecidableEq, Repr, Inhabited

/-- The owner of a granule, and whether its scrub still runs (R349). -/
structure Granule where
  owner : Nat
  scrubbing : Bool
  deriving DecidableEq, Repr, Inhabited

/-- A GRANULE command waiting for its scrubs (R349). -/
structure ScrubCmd where
  cmd : Cmd
  first : Nat
  count : Nat
  deriving DecidableEq, Repr, Inhabited

/-- An export of a granule (R458, R462). -/
structure Exported where
  granule : Nat
  asid : Nat
  dev : Nat
  far : Nat
  r : Bool
  w : Bool
  deriving DecidableEq, Repr, Inhabited

/-- A completion entry, or a group of entries written together (R474), waiting for its ring; and the token that
follows it (R457). -/
structure Post where
  fn : Fn
  id : BitVec 32
  status : BitVec 8
  cmd : BitVec 8
  values : List Word64
  token : Option (Nat × Dest × Tag)
  /-- the context the command names: its completions are written in order (R459) -/
  asid : Option Nat
  /-- the command has taken effect -/
  done : Bool
  /-- memory operations that must be performed first (R462) -/
  waits : List Nat
  deriving DecidableEq, Repr, Inhabited

/-- A freeze record waiting to be written (R370, R474). -/
structure Freeze where
  cause : Nat
  vdev : Nat
  asid : Option Nat
  cell : Nat
  slot : Nat
  tag : Tag
  addr : Nat
  deriving DecidableEq, Repr, Inhabited

/-- Power and boot (R469). -/
inductive Boot where
  | off
  | recovery (step : Nat)
  | ready
  deriving DecidableEq, Repr, Inhabited

/-- Device-wide registers. -/
structure Dev where
  boot : Boot
  /-- device time in 1/42 ns, so that every clock step is exact (R10, R471) -/
  time : Nat
  /-- arithmetic-clock cycles since reset (R408) -/
  cycles : Nat
  /-- thermal clock step, 0 to 3 (R471) -/
  therm : Nat
  ptpFree : Bool
  /-- offset still to be absorbed, in 1/42 ns (R464) -/
  ptpOffset : Int
  /-- device time runs at half rate until the offset is absorbed -/
  ptpHalf : Bool
  devnum : BitVec 13
  devnumFixed : Bool
  errcnt : BitVec 64
  keysDrawn : Nat
  /-- next flit sequence number expected at each port (R460) -/
  seqs : List (Nat × Nat)
  /-- SHA-384 of the firmware that booted (R469), from which the identity keys derive (R372) -/
  measure : Digest
  deriving DecidableEq, Repr, Inhabited

/-! ### The whole state -/

structure State where
  dev : Dev
  /-- bytes of physical memory other than zero, by 52-bit address (R25) -/
  mem : List Host.Cell
  /-- addresses of poisoned lines (R302) -/
  poison : List Nat
  /-- write-once words not empty, by address (R293) -/
  w1 : List (Nat × W1)
  /-- the context that last gave each of them its state -/
  w1by : List (Nat × Nat)
  cells : List (Nat × Cell)
  ctxs : List (Nat × Ctx)
  vdevs : List (Nat × Vdev)
  granules : List (Nat × Granule)
  scrubCmds : List ScrubCmd
  exported : List Exported
  /-- page 0 is the physical function's, page 1 + v virtual device v's -/
  windows : List (Nat × Window)
  posts : List Post
  freezes : List Freeze
  /-- tokens and tiles on the mesh -/
  net : List Flight
  xfers : List Xfer
  nextXfer : Nat
  memops : List MemOp
  nextOp : Nat
  walks : List Walk
  fills : List ZeroFill
  farPages : List FarPage
  invals : List Inval
  /-- shared TLBs by die (R365) -/
  stlb : List (Nat × List TlbEntry)
  bcasts : List Bcast
  reqs : List Req
  fabTokens : List FabToken
  fabReqs : List FabRequest
  /-- tokens handed to the fabric, oldest first (R25, R462) -/
  fabOut : List FabToken
  /-- requests to other devices, handed to the fabric, oldest first, each with the device it goes to (R298) -/
  fabAsks : List (Nat × FabRequest)
  /-- answers to other devices' requests, handed to the fabric -/
  fabAnswers : List FabAnswer
  /-- order in which firings were held and operations listed -/
  orders : Nat
  /-- arrival numbers of arena entries, by context and home (R322): 1,024 × ASID + the home's index -/
  homeSeq : List (Nat × Nat)
  /-- consequences that take place in the same cycle, before anything else -/
  due : List Act
  /-- which agent moves next, and when -/
  schedule : List Cue
  /-- how often each thing that may happen has been passed over since it last happened (R3) -/
  passed : List (Act × Nat)
  /-- counter the free values are applied to -/
  tick : Nat
  /-- the set a unit has just selected -/
  sel : Option Firing
  deriving DecidableEq, Repr, Inhabited

/-- Why the machine stops with a fault. None is raised: every event that the manual describes leaves a next state. -/
inductive Fault where
  /-- raised by nothing, and it would be safe: it keeps the type from being empty -/
  | stuck
  deriving DecidableEq, Repr

/-- Why an instruction is refused. -/
inductive Refusal where
  /-- the instruction has no meaning yet: raised by exec for an arm not written; safe -/
  | notModelled (mnemonic : String)
  deriving DecidableEq, Repr

/-- The device right after a completed power-on boot (R469 step 5): ready; every granule zero and unowned, every
cell scrubbed, no virtual device, no context; device time 0, running free (R470). Registers without a reset value
in the manual are 0 (log entry 3). -/
def State.reset : State :=
  { dev := { boot := .ready, time := 0, cycles := 0, therm := 0, ptpFree := true, ptpOffset := 0, ptpHalf := false, devnum := 0,
             devnumFixed := false, errcnt := 0, keysDrawn := 0, seqs := [], measure := Config.bootMeasure }
    mem := [], poison := [], w1 := [], w1by := [], cells := [], ctxs := [], vdevs := [], granules := [], scrubCmds := [],
    exported := [], windows := [], posts := [], freezes := [], net := [], xfers := [], nextXfer := 0, memops := [], nextOp := 0,
    walks := [], fills := [], farPages := [], invals := [], stlb := [], bcasts := [], reqs := [],
    fabTokens := [], fabReqs := [], fabOut := [], fabAsks := [],
    fabAnswers := [], orders := 0, homeSeq := [], due := [], schedule := [], passed := [], tick := 0, sel := none }

end Sys2Proof.Machine
end

