-- ==== Sys2Proof/Machine/Numbers.lean ====
section
/-! DEFINITION. Number formats, exact values and rounding (R161 to R174, R178, R183): every arithmetic result is
computed exactly, as a ratio of naturals with a sign, and rounded once. -/

namespace Sys2Proof.Machine

/-- The SplitMix64 finaliser (R82). -/
def mix64 (z : Word64) : Word64 :=
  let z1 := (z ^^^ (z >>> 30)) * 0xBF58476D1CE4E5B9#64
  let z2 := (z1 ^^^ (z1 >>> 27)) * 0x94D049BB133111EB#64
  z2 ^^^ (z2 >>> 31)

/-! ### Flags (R172) -/

abbrev Flags := BitVec 6
def fNX : Flags := 1
def fUF : Flags := 2
def fOF : Flags := 4
def fDZ : Flags := 8
def fIV : Flags := 16
def fPZ : Flags := 32
/-- A flag when the condition holds. -/
def flagIf (c : Bool) (f : Flags) : Flags := if c then f else 0

/-! ### Integers (R161, R178) -/

/-- Width of a format's element in bits (R48, R161, R162). -/
def width : Fmt → Nat
  | .s8 | .z8 | .e4m3 | .e5m2 | .mx8e4 | .mx8e5 => 8
  | .s16 | .z16 | .f16 | .bf16 => 16
  | .s32 | .z32 | .f32 => 32
  | .s64 | .z64 | .handle => 64
  | .e2m1 | .s4 | .mx4 => 4
  | .a36 => 36
  | .bit => 1

/-- Two's complement reading of the low w bits. -/
def sint (w x : Nat) : Int :=
  let y := x % 2 ^ w
  if 2 * y < 2 ^ w then (y : Int) else (y : Int) - (2 ^ w : Nat)

/-- An integer element's value (R178): signed for s8 to s64, s4 and the integer reading of a36. -/
def readInt (f : Fmt) (x : Nat) : Int :=
  if Enc.Fmt.signed f then sint (width f) x else ((x % 2 ^ width f : Nat) : Int)

/-- The low w bits of an integer. -/
def wrapNat (w : Nat) (x : Int) : Nat := (x % (2 ^ w : Nat)).toNat

/-- A result placed in the payload (R178). -/
def payloadInt (x : Int) : Word64 := BitVec.ofInt 64 x

/-- The value of f congruent to x modulo 2^width. -/
def wrapInt (f : Fmt) (x : Int) : Int := readInt f (wrapNat (width f) x)

/-- The lowest value of an integer format. -/
def intLo (f : Fmt) : Int := if Enc.Fmt.signed f then -(2 ^ (width f - 1) : Nat) else 0
/-- The highest. -/
def intHi (f : Fmt) : Int := if Enc.Fmt.signed f then (2 ^ (width f - 1) : Nat) - 1 else (2 ^ width f : Nat) - 1
def inRange (f : Fmt) (x : Int) : Bool := decide (intLo f ≤ x) && decide (x ≤ intHi f)

/-- fit of R183; none stands for INT_EXCEPT code 0x01. -/
def fit (x : Int) (f : Fmt) (sat trapv : Bool) : Option (Int × Flags) :=
  if inRange f x then some (x, 0)
  else if trapv then none
  else if sat then some (if x < intLo f then intLo f else intHi f, fOF)
  else some (wrapInt f x, 0)

/-- fit without TRAPV. -/
def fitPlain (x : Int) (f : Fmt) (sat : Bool) : Int × Flags :=
  if inRange f x then (x, 0)
  else if sat then (if x < intLo f then intLo f else intHi f, fOF)
  else (wrapInt f x, 0)

/-! ### Floating formats (R162, R163) -/

/-- Fraction bits, exponent bits, bias, largest finite exponent field and fraction. -/
structure FloatForm where
  p : Nat
  eb : Nat
  bias : Nat
  maxE : Nat
  maxF : Nat
  deriving DecidableEq, Repr

def form : Fmt → FloatForm
  | .f16 => ⟨10, 5, 15, 30, 1023⟩
  | .bf16 => ⟨7, 8, 127, 254, 127⟩
  | .e5m2 | .mx8e5 => ⟨2, 5, 15, 30, 3⟩
  | .e4m3 | .mx8e4 => ⟨3, 4, 7, 15, 6⟩
  | .e2m1 | .mx4 => ⟨1, 2, 1, 3, 1⟩
  | .a36 => ⟨26, 9, 255, 510, 67108863⟩
  | _ => ⟨23, 8, 127, 254, 8388607⟩

/-- The format has infinities (R162). -/
def hasInf (f : Fmt) : Bool := !(f == .e4m3 || f == .e2m1 || f == .mx8e4 || f == .mx4)

/-- A floating value: NaN (signalling or not), infinity, or a sign and an exact magnitude num/den. -/
inductive FV where
  | nan (sig : Bool)
  | inf (neg : Bool)
  | fin (neg : Bool) (num den : Nat)
  deriving DecidableEq, Repr, Inhabited

def FV.isNan : FV → Bool
  | .nan _ => true
  | _ => false
def FV.isSig : FV → Bool
  | .nan s => s
  | _ => false
def FV.isZero : FV → Bool
  | .fin _ n _ => n == 0
  | _ => false
def FV.isInf : FV → Bool
  | .inf _ => true
  | _ => false
def FV.sign : FV → Bool
  | .nan _ => false
  | .inf s => s
  | .fin s _ _ => s
def FV.negate : FV → FV
  | .nan s => .nan s
  | .inf s => .inf !s
  | .fin s n d => .fin (!s) n d

/-- The ratio n * 2^e. -/
def scale2 (n : Nat) (e : Int) : Nat × Nat :=
  if 0 ≤ e then (n * 2 ^ e.toNat, 1) else (n, 2 ^ (-e).toNat)

/-- decode of R162. -/
def decodeF (f : Fmt) (bits : Nat) : FV :=
  let q := form f
  let x := bits % 2 ^ (q.p + q.eb + 1)
  let s := x / 2 ^ (q.p + q.eb) == 1
  let e := (x / 2 ^ q.p) % 2 ^ q.eb
  let m := x % 2 ^ q.p
  if hasInf f && e == q.maxE + 1 then
    if m == 0 then .inf s else .nan (m / 2 ^ (q.p - 1) == 0)
  else if (f == .e4m3 || f == .mx8e4) && e == 15 && m == 7 then .nan false
  else
    let (n, d) :=
      if e == 0 then scale2 m (1 - (q.bias : Int) - q.p) else scale2 (2 ^ q.p + m) ((e : Int) - q.bias - q.p)
    .fin s n d

/-- Is the encoded value subnormal (and not zero)? -/
def isSubnormal (f : Fmt) (bits : Nat) : Bool :=
  let q := form f
  (bits / 2 ^ q.p) % 2 ^ q.eb == 0 && bits % 2 ^ q.p != 0

/-- Formats on which FTZ acts (R168). -/
def ftzActs (f : Fmt) : Bool :=
  f == .f32 || f == .f16 || f == .bf16 || f == .e5m2 || f == .e4m3 || f == .mx8e4 || f == .mx8e5

/-- An operand, flushed under FTZ (R168). -/
def readF (f : Fmt) (ftz : Bool) (bits : Nat) : FV :=
  match decodeF f bits with
  | .fin s n d => if ftz && ftzActs f && isSubnormal f bits then .fin s 0 1 else .fin s n d
  | v => v

def signBit (f : Fmt) (neg : Bool) : Nat := if neg then 2 ^ ((form f).p + (form f).eb) else 0
def canonNaN : Fmt → Nat
  | .f16 => 0x7E00
  | .bf16 => 0x7FC0
  | .e5m2 | .mx8e5 => 0x7E
  | .e4m3 | .mx8e4 => 0x7F
  | .e2m1 | .mx4 => 0
  | .a36 => 0x7FE000000
  | _ => 0x7FC00000
def maxFinite (f : Fmt) (neg : Bool) : Nat := signBit f neg + (form f).maxE * 2 ^ (form f).p + (form f).maxF
def encInf (f : Fmt) (neg : Bool) : Nat := signBit f neg + ((form f).maxE + 1) * 2 ^ (form f).p
def encZero (f : Fmt) (neg : Bool) : Nat := signBit f neg

/-! ### Rounding (R168 to R170) -/

/-- Rounding modes of MOD[2:0] (R34). -/
inductive Rm where
  | rne | rtz | rdn | rup | rna | sr
  deriving DecidableEq, Repr, Inhabited

def Rm.ofMod (m : BitVec 4) : Rm :=
  match (m.extractLsb' 0 3).toNat with
  | 0 => .rne | 1 => .rtz | 2 => .rdn | 3 => .rup | 4 => .rna | _ => .sr

/-- How results are rounded: mode, FTZ, and the random bits of an element (R170). -/
structure Round where
  rm : Rm
  ftz : Bool
  rnd : Nat → Nat

/-- sr_rand of R170. -/
def srRand (seed : Word64) (tag : Tag) (slot i : Nat) : Nat :=
  (mix64 (mix64 (seed ^^^ tag ^^^ (BitVec.ofNat 64 slot <<< 40)) ^^^ BitVec.ofNat 64 i)).toNat % 2 ^ 32

/-- RNE without FTZ. -/
def Round.plain : Round := { rm := .rne, ftz := false, rnd := fun _ => 0 }

/-- floor(log2 (n/d)) for n, d > 0. -/
def ilog (n d : Nat) : Int :=
  let l : Int := (n.log2 : Int) - d.log2
  let le : Bool := if 0 ≤ l then decide (d * 2 ^ l.toNat ≤ n) else decide (d ≤ n * 2 ^ (-l).toNat)
  if le then l else l - 1

/-- Does rounding go to b, away from zero? r/d is the fraction between a and b, r ≠ 0; odd: a's lowest bit is 1. -/
def roundUp (rm : Rm) (neg odd : Bool) (r d rnd : Nat) : Bool :=
  match rm with
  | .rne => decide (d < 2 * r) || (2 * r == d && odd)
  | .rtz => false
  | .rdn => neg
  | .rup => !neg
  | .rna => decide (d ≤ 2 * r)
  | .sr => decide (rnd * d < r * 2 ^ 32)

/-- Overflow (R169). -/
def overflow (f : Fmt) (rm : Rm) (neg : Bool) : Nat × Flags :=
  let toMax := !hasInf f || (match rm with | .rtz => true | .rdn => !neg | .rup => neg | _ => false)
  (if toMax then maxFinite f neg else encInf f neg, fOF ||| fNX)

/-- round_to of R168 for the magnitude num/den; zero keeps the sign given. rnd: the element's random bits. -/
def roundTo (f : Fmt) (rm : Rm) (ftz : Bool) (rnd : Nat) (neg : Bool) (num den : Nat) : Nat × Flags :=
  if num = 0 then (encZero f neg, 0)
  else
    let q := form f
    let e := ilog num den
    let emin : Int := 1 - q.bias
    let tiny := decide (e < emin)
    if ftz && tiny && ftzActs f then (encZero f neg, fUF ||| fNX)
    else
      let qe : Int := (if tiny then emin else e) - q.p
      let (n, d) := if 0 ≤ qe then (num, den * 2 ^ qe.toNat) else (num * 2 ^ (-qe).toNat, den)
      let k := n / d
      let r := n % d
      let k1 := if r != 0 && roundUp rm neg (k % 2 == 1) r d rnd then k + 1 else k
      let (k2, q2) := if k1 == 2 ^ (q.p + 1) then (2 ^ q.p, qe + 1) else (k1, qe)
      let ef : Nat := if k2 < 2 ^ q.p then 0 else (q2 + q.p + q.bias).toNat
      let m := k2 % 2 ^ q.p
      if ef > q.maxE || (ef == q.maxE && m > q.maxF) then overflow f rm neg
      else (signBit f neg + ef * 2 ^ q.p + m, flagIf (r != 0) fNX ||| flagIf (r != 0 && tiny) fUF)

/-- A value delivered in format f: NaN becomes the canonical NaN. -/
def deliver (f : Fmt) (ro : Round) (i : Nat) : FV → Nat × Flags
  | .nan _ => (canonNaN f, 0)
  | .inf s => (encInf f s, 0)
  | .fin s n d => roundTo f ro.rm ro.ftz (ro.rnd i) s n d

/-! ### Exact operations (R194) -/

/-- IV when a NaN operand is signalling. -/
def ivSig (vs : List FV) : Flags := flagIf (vs.any FV.isSig) fIV

/-- Signed sum of two magnitudes as a sign and a magnitude; the exact zero's sign follows R168. -/
def sumFin (rm : Rm) (sa : Bool) (na da : Nat) (sb : Bool) (nb db : Nat) : FV :=
  let x := na * db
  let y := nb * da
  if sa == sb then
    if x + y == 0 then .fin sa 0 1 else .fin sa (x + y) (da * db)
  else if x == y then .fin (rm == .rdn) 0 1
  else if x > y then .fin sa (x - y) (da * db)
  else .fin sb (y - x) (da * db)

/-- a + b. -/
def fvAdd (rm : Rm) (a b : FV) : FV × Flags :=
  match a, b with
  | .nan _, _ | _, .nan _ => (.nan false, ivSig [a, b])
  | .inf s, .inf t => if s == t then (.inf s, 0) else (.nan false, fIV)
  | .inf s, _ => (.inf s, 0)
  | _, .inf t => (.inf t, 0)
  | .fin sa na da, .fin sb nb db => (sumFin rm sa na da sb nb db, 0)

/-- a * b. -/
def fvMul (a b : FV) : FV × Flags :=
  match a, b with
  | .nan _, _ | _, .nan _ => (.nan false, ivSig [a, b])
  | .inf s, b => if b.isZero then (.nan false, fIV) else (.inf (s != b.sign), 0)
  | a, .inf t => if a.isZero then (.nan false, fIV) else (.inf (t != a.sign), 0)
  | .fin sa na da, .fin sb nb db => (.fin (sa != sb) (na * nb) (da * db), 0)

/-- a * b + c; 0 times an infinity is invalid whatever c is (R194). -/
def fvFma (rm : Rm) (a b c : FV) : FV × Flags :=
  if (a.isInf && b.isZero) || (a.isZero && b.isInf) then (.nan false, fIV)
  else if a.isNan || b.isNan || c.isNan then (.nan false, ivSig [a, b, c])
  else
    let (p, f1) := fvMul a b
    let (r, f2) := fvAdd rm p c
    (r, f1 ||| f2)

/-- a / b. -/
def fvDiv (a b : FV) : FV × Flags :=
  match a, b with
  | .nan _, _ | _, .nan _ => (.nan false, ivSig [a, b])
  | .inf _, .inf _ => (.nan false, fIV)
  | .inf s, b => (.inf (s != b.sign), 0)
  | a, .inf t => (.fin (a.sign != t) 0 1, 0)
  | .fin sa na da, .fin sb nb db =>
    if nb == 0 then
      if na == 0 then (.nan false, fIV) else (.inf (sa != sb), fDZ)
    else (.fin (sa != sb) (na * db) (da * nb), 0)

/-- The integer square root by bits: the greatest r with r*r ≤ n, from bit k down. -/
def isqrtFrom (n : Nat) : Nat → Nat → Nat
  | 0, r => if (r + 1) * (r + 1) ≤ n then r + 1 else r
  | k + 1, r => isqrtFrom n k (if (r + 2 ^ (k + 1)) * (r + 2 ^ (k + 1)) ≤ n then r + 2 ^ (k + 1) else r)
def isqrt (n : Nat) : Nat := isqrtFrom n (n.log2 / 2 + 1) 0

/-- The square root of num/den as a ratio that rounds in every mode as the exact root does: exact when it is
rational, else its bits to 160 places and a sticky bit. -/
def sqrtRatio (num den : Nat) : Nat × Nat :=
  let s := isqrt (num * den)
  if s * s == num * den then (s, den)
  else
    let t := isqrt (num * den * 2 ^ 640)
    (2 * t + 1, den * 2 ^ 321)

/-- √a. -/
def fvSqrt (a : FV) : FV × Flags :=
  match a with
  | .nan s => (.nan false, flagIf s fIV)
  | .inf s => if s then (.nan false, fIV) else (.inf false, 0)
  | .fin s n d =>
    if n == 0 then (.fin s 0 1, 0)
    else if s then (.nan false, fIV)
    else
      let (x, y) := sqrtRatio n d
      (.fin false x y, 0)

/-- Is a < b, for values that are no NaN? −0 equals +0. -/
def fvLt (a b : FV) : Bool :=
  match a, b with
  | .nan _, _ | _, .nan _ => false
  | .inf s, .inf t => s && !t
  | .inf s, _ => s
  | _, .inf t => !t
  | .fin sa na da, .fin sb nb db =>
    let x : Int := if sa then -((na * db : Nat) : Int) else (na * db : Nat)
    let y : Int := if sb then -((nb * da : Nat) : Int) else (nb * da : Nat)
    decide (x < y)
/-- Is a = b, for values that are no NaN? -/
def fvEq (a b : FV) : Bool := !a.isNan && !b.isNan && !fvLt a b && !fvLt b a

/-- FCMP's conditions (R196): result and flags. -/
def fvCompare (cond : Nat) (a b : FV) : Bool × Flags :=
  let un := a.isNan || b.isNan
  let sig := ivSig [a, b]
  let any := flagIf un fIV
  match cond with
  | 0 => (fvEq a b, sig)
  | 1 => (un || !fvEq a b, sig)
  | 2 => (fvLt a b, any)
  | 3 => (!un && !fvLt b a, any)
  | 4 => (fvLt b a, any)
  | 5 => (!un && !fvLt a b, any)
  | 6 => (un, sig)
  | _ => (!un, sig)

/-- FMIN or FMAX on bits (R195). -/
def fMinMax (f : Fmt) (ftz max : Bool) (a b : Nat) : Nat × Flags :=
  let va := readF f ftz a
  let vb := readF f ftz b
  let pick (v : FV) (x : Nat) : Nat :=
    if ftz && ftzActs f && isSubnormal f x then encZero f v.sign else x % 2 ^ width f
  let sig := ivSig [va, vb]
  if va.isNan && vb.isNan then (canonNaN f, sig)
  else if va.isNan then (pick vb b, sig)
  else if vb.isNan then (pick va a, sig)
  else
    -- −0 orders below +0
    let lt := fvLt va vb || (va.isZero && vb.isZero && va.sign && !vb.sign)
    let gt := fvLt vb va || (va.isZero && vb.isZero && vb.sign && !va.sign)
    if max then (if lt then pick vb b else pick va a, sig) else (if gt then pick vb b else pick va a, sig)

/-! ### Conversions (R171) -/

/-- A value rounded into a floating format, NaN and infinity by R171. -/
def toFloat (f : Fmt) (rm : Rm) (ftz : Bool) (rnd : Nat) (v : FV) : Nat × Flags :=
  let e2 := f == .e2m1 || f == .mx4
  let e4 := f == .e4m3 || f == .mx8e4
  match v with
  | .nan s => if e2 then (0, fIV) else (canonNaN f, flagIf s fIV)
  | .inf s => if e2 then (maxFinite f s, fIV) else if e4 then (canonNaN f, fIV) else (encInf f s, 0)
  | .fin s n d => roundTo f rm ftz rnd s n d

/-- A value rounded to an integer format (R171). -/
def toInteger (f : Fmt) (rm : Rm) (rnd : Nat) (v : FV) : Int × Flags :=
  match v with
  | .nan _ => (0, fIV)
  | .inf s => (if s then intLo f else intHi f, fIV)
  | .fin s n d =>
    let k := n / d
    let r := n % d
    let k1 := if r != 0 && roundUp rm s (k % 2 == 1) r d rnd then k + 1 else k
    let x : Int := if s then -(k1 : Int) else k1
    if inRange f x then (x, flagIf (r != 0) fNX) else (if s then intLo f else intHi f, fIV)

/-- An integer as an exact value; 0 is +0. -/
def fvOfInt (x : Int) : FV := .fin (decide (x < 0)) x.natAbs 1

/-- Conversion of one element's bits between formats that are not MX blocks (R171). -/
def convert (src dst : Fmt) (rm : Rm) (ftz sat : Bool) (rnd : Nat) (bits : Nat) : Nat × Flags :=
  let srcInt := Enc.Fmt.isInt src || src == .s4
  let dstInt := Enc.Fmt.isInt dst || dst == .s4
  if srcInt then
    if dstInt then
      let (x, f) := fitPlain (readInt src bits) dst sat
      (wrapNat (width dst) x, f)
    else toFloat dst rm ftz rnd (fvOfInt (readInt src bits))
  else if dstInt then
    let (x, f) := toInteger dst rm rnd (readF src ftz bits)
    (wrapNat (width dst) x, f)
  else toFloat dst rm ftz rnd (readF src ftz bits)

/-! ### MX blocks (R165, R166) -/

/-- Element format and emax of an MX format. -/
def mxElem : Fmt → Fmt
  | .mx8e5 => .e5m2
  | .mx4 => .e2m1
  | _ => .e4m3
def mxEmax : Fmt → Int
  | .mx8e5 => 15
  | .mx4 => 2
  | _ => 8

/-- An element times its scale; a NaN block is NaN whatever the element (R165). -/
def mxValue (f : Fmt) (ftz : Bool) (scale elem : Nat) : FV :=
  if scale % 256 == 255 then .nan false
  else match readF (mxElem f) ftz elem with
    | .fin s n d =>
      let (m, k) := scale2 1 ((scale % 256 : Int) - 127)
      .fin s (n * m) (d * k)
    | v => v

/-- The larger magnitude of two values. -/
def maxMag (a : Nat × Nat) (b : FV) : Nat × Nat :=
  match b with
  | .fin _ n d => if a.1 * d < n * a.2 then (n, d) else a
  | _ => a

/-- An element rounded into an MX format: one that rounding carries past the largest magnitude saturates (R166). -/
def mxRound (f : Fmt) (rm : Rm) (ftz : Bool) (rnd : Nat) (neg : Bool) (num den : Nat) : Nat × Flags :=
  let r := roundTo f rm ftz rnd neg num den
  if (decodeF f r.1).isInf then (maxFinite f neg, r.2) else r

/-- to_mx of R166: scale, elements, flags of each element. rnd gives the element's random bits by column offset. -/
def toMx (f : Fmt) (rm : Rm) (ftz : Bool) (rnd : Nat → Nat) (xs : List FV) : Nat × List (Nat × Flags) :=
  if xs.any (fun v => v.isNan || v.isInf) then
    (255, xs.map fun v => (0, if v.isNan || v.isInf then fIV else 0))
  else
    let a := xs.foldl maxMag (0, 1)
    let s : Nat :=
      if a.1 == 0 then 0
      else
        let e := ilog a.1 a.2 - mxEmax f
        (Min.min (Max.max e (-127)) 127 + 127).toNat
    let (m, k) := scale2 1 ((s : Int) - 127)
    (s, xs.mapIdx fun i v =>
      match v with
      | .fin sg n d => mxRound (mxElem f) rm ftz (rnd i) sg (n * k) (d * m)
      | _ => (0, 0))

/-- FCLASS's mask (R198). -/
def fclassBits (f : Fmt) (bits : Nat) : Nat :=
  match decodeF f bits with
  | .nan s => if s then 0x100 else 0x200
  | .inf s => if s then 0x001 else 0x080
  | .fin s n _ =>
    if n == 0 then (if s then 0x008 else 0x010)
    else if isSubnormal f bits then (if s then 0x004 else 0x020)
    else (if s then 0x002 else 0x040)

end Sys2Proof.Machine
end

