-- ==== Sys2Proof/Machine/Tags.lean ====
section
/-! DEFINITION. Tags and tag actions (R43 to R45), trap values (R375), and the spread fold (R38, R88). -/

namespace Sys2Proof.Machine

/-! ### Fields of a tag (R43) -/

def tagGen (t : Tag) : BitVec 4 := t.extractLsb' 60 4
def tagFrame (t : Tag) : Nat := (t.extractLsb' 48 12).toNat
def tagDepth (t : Tag) : Nat := (t.extractLsb' 45 3).toNat
def tagFill (t : Tag) : Nat := (t.extractLsb' 39 6).toNat
def tagColour (t : Tag) : BitVec 39 := t.extractLsb' 0 39

/-- The tag of the given fields. -/
def mkTag (gen : BitVec 4) (frame depth fill : Nat) (colour : BitVec 39) : Tag :=
  gen ++ BitVec.ofNat 12 frame ++ BitVec.ofNat 3 depth ++ BitVec.ofNat 6 fill ++ colour

/-- A frame-level tag: every field but GEN and FRAME zero (R136). -/
def frameTag (gen : BitVec 4) (frame : Nat) : Tag := mkTag gen frame 0 0 0

/-- The invariants of R44. -/
def tagOk (t : Tag) : Bool :=
  decide ((tagDepth t = 0) ↔ (tagFill t = 0)) && decide (tagDepth t ≤ tagFill t) && decide (tagFill t ≤ 39) &&
    decide ((tagColour t).toNat < 2 ^ tagFill t)

/-! ### Traps -/

/-- A trap of a class and code with nothing else to say. -/
def trapOf (cls code : Nat) : Trap :=
  { cls := cls, code := code, elem := 0, flags := 0, addr := 0, coord := 0, aux := 0, snap := none }

def tILLEGAL_OP : Trap := trapOf 0x01 0
def tBAD_OPERAND : Trap := trapOf 0x02 0
def tTAG_OVERFLOW (code : Nat) : Trap := trapOf 0x03 code
def tFRAME_DEPTH : Trap := trapOf 0x05 0
def tGANG_TOO_LARGE : Trap := trapOf 0x06 0
def tPOISON (code : Nat) : Trap := trapOf 0x0F code
def tACCESS (code addr : Nat) : Trap := { trapOf 0x0B code with addr := addr }
def tPAGE_FAULT (code addr : Nat) : Trap := { trapOf 0x0A code with addr := addr }
def tALIGN (addr : Nat) : Trap := { trapOf 0x0C 0 with addr := addr }
def tBREAK : Trap := trapOf 0x11 0
def tSOFT (code : Nat) : Trap := trapOf 0x12 code

/-- What a firing computes, or the trap it raises. -/
abbrev Ex (α : Type) := Except Trap α

/-- The trap when the condition holds. -/
def trapIf (c : Bool) (t : Trap) : Ex Unit := if c then .error t else .ok ()

/-! ### Tag actions (R45) -/

def push (t : Tag) (w : Nat) : Ex Tag :=
  if tagDepth t = 7 then .error (tTAG_OVERFLOW 1)
  else if 39 < tagFill t + w then .error (tTAG_OVERFLOW 2)
  else .ok (mkTag (tagGen t) (tagFrame t) (tagDepth t + 1) (tagFill t + w) (tagColour t <<< w))

def pop (t : Tag) (w : Nat) : Ex Tag :=
  if tagDepth t = 0 || decide (tagFill t < w) then .error (tTAG_OVERFLOW 3)
  else
    let d := tagDepth t - 1
    let f := tagFill t - w
    if (d = 0 && f != 0) || (d != 0 && decide (f < d)) then .error (tTAG_OVERFLOW 3)
    else .ok (mkTag (tagGen t) (tagFrame t) d f (tagColour t >>> w))

/-- The innermost field of width w set to the low w bits of x. -/
def setInner (t : Tag) (w x : Nat) : Tag :=
  let c := (tagColour t).toNat
  mkTag (tagGen t) (tagFrame t) (tagDepth t) (tagFill t) (BitVec.ofNat 39 (c - c % 2 ^ w + x % 2 ^ w))

/-- The innermost field of width w. -/
def inner (t : Tag) (w : Nat) : Nat := (tagColour t).toNat % 2 ^ w

def next (t : Tag) (w : Nat) : Ex Tag :=
  if tagDepth t = 0 || decide (tagFill t < w) then .error (tTAG_OVERFLOW 3)
  else .ok (setInner t w (inner t w + 1))

/-- The tag action of R45. b: port b's payload and poison, under SETIN; ret: the frame's return-link tag. -/
def tagAct (ta : TagAct) (w : Nat) (t : Tag) (b : Option Val) (ret : Tag) : Ex Tag :=
  match ta with
  | .keep => .ok t
  | .push => push t w
  | .pop => pop t w
  | .next => next t w
  | .setin =>
    if tagDepth t = 0 || decide (tagFill t < w) then .error (tTAG_OVERFLOW 3)
    else match b with
      | some (.scalar v p _) => if p then .error (tPOISON 2) else .ok (setInner t w v.toNat)
      | _ => .error tBAD_OPERAND
  | .ret => .ok ret

/-! ### Cells and spread (R13, R38, R88) -/

def cellRow (c : Nat) : Nat := c / 64 % 32
def cellCol (c : Nat) : Nat := c % 64
def cellAt (r c : Nat) : Nat := (r % 32) * 64 + c % 64
/-- A compute cell: row + column even (R13). -/
def isCompute (c : Nat) : Bool := (cellRow c + cellCol c) % 2 == 0
/-- The die of a cell (R14). -/
def dieOf (c : Nat) : Nat := 2 * (cellRow c / 16) + cellCol c / 32

/-- The fold of R88: n bits at a time, from chunk j on. -/
def foldChunks (n x : Nat) : Nat → Nat
  | 0 => 0
  | j + 1 => Nat.xor (foldChunks n x j) ((x / 2 ^ (n * j)) % 2 ^ n)

def spreadIndex (t : Tag) (a b : Nat) : Nat :=
  let n := a + b
  if n = 0 then 0
  else foldChunks n (Nat.xor (tagColour t).toNat (tagFrame t * 128)) ((39 + n - 1) / n)

/-- Member k of the rectangle (R38). -/
def spreadCell (origin a b k : Nat) : Nat :=
  let _ := a
  cellAt (cellRow origin + k / 2 ^ b) (cellCol origin + 2 * (k % 2 ^ b) + (k / 2 ^ b) % 2)

/-- Every member of a rectangle. -/
def spreadCells (origin a b : Nat) : List Nat := (List.range (2 ^ (a + b))).map (spreadCell origin a b)

end Sys2Proof.Machine
end

