-- ==== Sys2Proof/Machine/Tiles.lean ====
section
/-! DEFINITION. Tiles: handles as words (R46), rows packed into bytes (R48), padding and poison groups (R49). -/

namespace Sys2Proof.Machine

/-! ### Bytes and words -/

/-- The n low bytes of x, lowest first (R8). -/
def leBytes : Nat → Nat → List Byte
  | 0, _ => []
  | n + 1, x => BitVec.ofNat 8 x :: leBytes n (x / 256)

/-- The number a little-endian byte string is. -/
def leNat : List Byte → Nat
  | [] => 0
  | b :: bs => b.toNat + 256 * leNat bs

/-- n zero bytes. -/
def zeros (n : Nat) : List Byte := List.replicate n 0

/-- A list cut or padded with zeros to n bytes. -/
def fitBytes (n : Nat) (bs : List Byte) : List Byte := bs.take n ++ zeros (n - bs.length)

/-- Consecutive groups of n. -/
def chunks (n : Nat) : Nat → List Byte → List (List Byte)
  | 0, _ => []
  | k + 1, bs => bs.take n :: chunks n k (bs.drop n)

/-! ### Handles -/

/-- The 64 bits of a handle (R46). -/
def Handle.word (h : Handle) : Word64 :=
  Enc.Fmt.code h.fmt ++ BitVec.ofNat 6 (h.rows - 1) ++ BitVec.ofNat 9 (h.cols - 1) ++ BitVec.ofNat 7 h.valid ++
    BitVec.ofNat 11 h.line ++ h.poison ++ BitVec.ofBool h.eos ++ BitVec.ofBool h.disc ++ h.seq

/-- The handle a word is; none for a reserved format code. -/
def Handle.ofWord (w : Word64) : Option Handle :=
  (Enc.Fmt.ofNat (w.extractLsb' 59 5).toNat).map fun f =>
    { fmt := f, rows := (w.extractLsb' 53 6).toNat + 1, cols := (w.extractLsb' 44 9).toNat + 1,
      valid := (w.extractLsb' 37 7).toNat, line := (w.extractLsb' 26 11).toNat, poison := w.extractLsb' 18 8,
      eos := w.getLsbD 17, disc := w.getLsbD 16, seq := w.extractLsb' 0 16 }

/-- Bytes of one row, 0 where the column count is not allowed. -/
def rowLen (f : Fmt) (cols : Nat) : Nat := (Enc.rowBytes f cols).getD 0
def Handle.rowLen (h : Handle) : Nat := Machine.rowLen h.fmt h.cols
/-- Bytes of the tile. -/
def Handle.bytes (h : Handle) : Nat := h.rows * h.rowLen
/-- Lines of the tile (R48). -/
def Handle.lines (h : Handle) : Nat := (h.bytes + 63) / 64
/-- Lines of a tile of a format and shape. -/
def tileLines (fmt : Fmt) (rows cols : Nat) : Nat :=
  ({ (default : Handle) with fmt := fmt, rows := rows, cols := cols }).lines
/-- 2 KiB packets of the tile (R16). -/
def Handle.packets (h : Handle) : Nat := max 1 ((h.bytes + 2047) / 2048)

/-! ### Poison groups (R49) -/

/-- The poison group of row j of a tile of the given rows. -/
def group (rows j : Nat) : Nat := if rows = 0 then 0 else 8 * j / rows
def rowPoisoned (h : Handle) (j : Nat) : Bool := h.poison.getLsbD (group h.rows j)
/-- The POISON field in which exactly the groups of the given rows are set. -/
def poisonOf (rows : Nat) (js : List Nat) : BitVec 8 :=
  js.foldl (fun p j => p ||| (1#8 <<< group rows j)) 0
/-- Groups that hold at least one row. -/
def poisonAll (rows : Nat) : BitVec 8 := poisonOf rows (List.range rows)
/-- The rows of a tile that are poisoned. -/
def poisonedRows (h : Handle) : List Nat := (List.range h.rows).filter (rowPoisoned h)
/-- Poison carried from the rows of one tile to the same rows of a result. -/
def poisonRows (rows : Nat) (p : Nat → Bool) : BitVec 8 := poisonOf rows ((List.range rows).filter p)

/-! ### Elements -/

/-- Bits of one element in its row's bytes, MX elements included. -/
def elemBits (f : Fmt) (row : List Byte) (c : Nat) : Nat :=
  match f with
  | .s4 | .e2m1 | .mx4 => ((row.getD (c / 2) 0).toNat / (if c % 2 = 0 then 1 else 16)) % 16
  | .bit => ((row.getD (c / 8) 0).toNat / 2 ^ (c % 8)) % 2
  | .a36 => leNat ((row.drop (8 * c)).take 8) % 2 ^ 36
  | _ => let n := width f / 8; leNat ((row.drop (n * c)).take n)

/-- Bytes of a row's elements without its scales. -/
def elemLen (f : Fmt) (cols : Nat) : Nat :=
  match f with
  | .mx8e4 | .mx8e5 => cols
  | .mx4 => cols / 2
  | _ => rowLen f cols

/-- Scale byte of block j of a row (R165). -/
def scaleByte (f : Fmt) (cols : Nat) (row : List Byte) (j : Nat) : Nat := (row.getD (elemLen f cols + j) 0).toNat

/-- Pairs of nibbles as bytes, the first low. -/
def packNibbles : List Nat → List Byte
  | a :: b :: t => BitVec.ofNat 8 (a % 16 + 16 * (b % 16)) :: packNibbles t
  | [a] => [BitVec.ofNat 8 (a % 16)]
  | [] => []

/-- Bits as bytes, the first lowest. -/
def packBits : Nat → List Nat → List Byte
  | 0, _ => []
  | n + 1, xs => BitVec.ofNat 8 ((xs.take 8).foldr (fun b a => b % 2 + 2 * a) 0) :: packBits n (xs.drop 8)

/-- A row of elements as bytes. -/
def packElems (f : Fmt) (xs : List Nat) : List Byte :=
  match f with
  | .s4 | .e2m1 | .mx4 => packNibbles xs
  | .bit => packBits ((xs.length + 7) / 8) xs
  | .a36 => xs.flatMap fun x => leBytes 8 (x % 2 ^ 36)
  | _ => xs.flatMap (leBytes (width f / 8))

/-- A row with its MX scales. -/
def packRow (f : Fmt) (xs scales : List Nat) : List Byte := packElems f xs ++ scales.map (BitVec.ofNat 8)

/-- Row j of a tile's bytes; rows at VALID and above are zeros whatever the bytes hold (R49). -/
def rowAt (h : Handle) (data : List Byte) (j : Nat) : List Byte :=
  if j < h.valid then fitBytes h.rowLen ((data.drop (j * h.rowLen)).take h.rowLen) else zeros h.rowLen

/-- Element bits as a consumer reads them. -/
def elemAt (h : Handle) (data : List Byte) (j c : Nat) : Nat := elemBits h.fmt (rowAt h data j) c

/-- Element bits as arithmetic reads them: a poisoned row reads +0 (R174). -/
def elemIn (h : Handle) (data : List Byte) (j c : Nat) : Nat := if rowPoisoned h j then 0 else elemAt h data j c

/-- All rows as arithmetic reads them. -/
def gridIn (h : Handle) (data : List Byte) : List (List Nat) :=
  (List.range h.rows).map fun j =>
    let row := if rowPoisoned h j then zeros h.rowLen else rowAt h data j
    (List.range h.cols).map (elemBits h.fmt row)

/-- All rows as they stand. -/
def gridRaw (h : Handle) (data : List Byte) : List (List Nat) :=
  (List.range h.rows).map fun j => (List.range h.cols).map (elemBits h.fmt (rowAt h data j))

/-- MX values of a row (R165). -/
def mxRow (h : Handle) (ftz : Bool) (data : List Byte) (j : Nat) : List FV :=
  let row := if rowPoisoned h j then zeros h.rowLen else rowAt h data j
  (List.range h.cols).map fun c => mxValue h.fmt ftz (scaleByte h.fmt h.cols row (c / 32)) (elemBits h.fmt row c)

/-- Is the format an MX block format? -/
def isMX (f : Fmt) : Bool := Enc.Fmt.isMX f

/-- Element j,c as an exact value: floats by R162, MX by R165. -/
def valueIn (h : Handle) (ftz : Bool) (data : List Byte) (j c : Nat) : FV :=
  if isMX h.fmt then
    let row := if rowPoisoned h j then zeros h.rowLen else rowAt h data j
    mxValue h.fmt ftz (scaleByte h.fmt h.cols row (c / 32)) (elemBits h.fmt row c)
  else readF h.fmt ftz (elemIn h data j c)

/-- The grid's element. -/
def cellOf (g : List (List Nat)) (j c : Nat) : Nat := (g.getD j []).getD c 0

/-- A grid's bytes in a format without scales. -/
def packGrid (f : Fmt) (g : List (List Nat)) : List Byte := g.flatMap (packElems f)

/-- The handle of a result of the given shape; LINE is given when it is placed. -/
def mkHandle (f : Fmt) (rows cols valid : Nat) (poison : BitVec 8) (like : Handle) : Handle :=
  { fmt := f, rows := rows, cols := cols, valid := valid, line := 0, poison := poison, eos := like.eos,
    disc := like.disc, seq := like.seq }

/-! ### Values' flags -/

def Val.eos : Val → Bool
  | .scalar _ _ e => e
  | .tile h _ => h.eos
def Val.isTile : Val → Bool
  | .tile _ _ => true
  | .scalar _ _ _ => false
/-- A poisoned scalar, or a tile with any POISON bit. -/
def Val.poisoned : Val → Bool
  | .scalar _ p _ => p
  | .tile h _ => h.poison != 0
def Val.withEos (e : Bool) : Val → Val
  | .scalar v p _ => .scalar v p e
  | .tile h d => .tile { h with eos := e } d
/-- The 64-bit payload. -/
def Val.word : Val → Word64
  | .scalar v _ _ => v
  | .tile h _ => h.word
/-- The scalar as arithmetic reads it: +0 when poisoned (R174). -/
def Val.stand : Val → Word64
  | .scalar v p _ => if p then 0 else v
  | .tile h _ => h.word

end Sys2Proof.Machine
end

