-- ==== Sys2Proof/Machine/Store.lean ====
section
/-! DEFINITION. Access to the parts of the state: cells, contexts, frames, memory, time; and the device's own tables
in memory, kept current whenever the thing they show changes (R54, R81, R99, R377, R381). -/

namespace Sys2Proof.Machine

/-! ### Cells and contexts -/

def State.cell (s : State) (c : Nat) : Cell := (look c s.cells).getD Cell.scrubbed
def State.setCell (s : State) (c : Nat) (x : Cell) : State := { s with cells := put c x s.cells }
def State.modCell (s : State) (c : Nat) (f : Cell → Cell) : State := s.setCell c (f (s.cell c))
def State.ctx (s : State) (a : Nat) : Option Ctx := look a s.ctxs
def State.setCtx (s : State) (a : Nat) (x : Ctx) : State := { s with ctxs := put a x s.ctxs }
/-- A context changed; nothing when it does not exist. -/
def State.modCtx (s : State) (a : Nat) (f : Ctx → Ctx) : State :=
  match s.ctx a with
  | some x => s.setCtx a (f x)
  | none => s

/-- The context's region; no cell when it does not exist. -/
def State.region (s : State) (a : Nat) : List Nat :=
  match s.ctx a with
  | some x => x.cr.region
  | none => []

def Cell.part (c : Cell) (asid : Nat) : Option Part := c.parts.find? fun p => p.asid == asid
def Cell.setPart (c : Cell) (p : Part) : Cell :=
  { c with parts := c.parts.map fun q => if q.asid == p.asid then p else q }
/-- The key of a slot of a plane. -/
def planeKey (plane : Bool) (slot : Nat) : Nat := (if plane then 2048 else 0) + slot
def Cell.opSlot (c : Cell) (plane : Bool) (slot : Nat) : OpSlot :=
  (look (planeKey plane slot) c.ops).getD { word := 0, record := false }
def Cell.acc (c : Cell) (i : Nat) : Acc :=
  (look i c.accs).getD { owner := none, step := 0, rows := 1, cols := 1, poison := 0, data := [] }
def Cell.setAcc (c : Cell) (i : Nat) (a : Acc) : Cell := { c with accs := put i a c.accs }
def Cell.findSet (c : Cell) (sid : Nat) : Option FSet := c.sets.find? fun x => x.sid == sid
def Cell.modSet (c : Cell) (sid : Nat) (f : FSet → FSet) : Cell :=
  { c with sets := c.sets.map fun x => if x.sid == sid then f x else x }
def Cell.dropSet (c : Cell) (sid : Nat) : Cell := { c with sets := c.sets.filter fun x => x.sid != sid }

/-! ### Homes (R279) -/

/-- The cell of home i. -/
def homeAt (i : Nat) : Nat := i / 32 * 64 + (2 * (i % 32) + (if i / 32 % 2 = 1 then 0 else 1))
/-- The cells of the 1,024 homes. -/
def homeCells : List Nat := (List.range 1024).map homeAt

/-! ### Time -/

/-- Device time in ns (R10). -/
def State.ns (s : State) : Nat := s.dev.time / 42
/-- Units of 1/42 ns in one cycle of the arithmetic clock at a thermal step: 1.4, 1.2, 1.0 and 0.7 GHz. -/
def cycleUnits : Nat → Nat
  | 0 => 30 | 1 => 35 | 2 => 42 | _ => 60

/-- Slice boundaries of a context that device time has reached (R420); none without slices. -/
def CtxRec.boundaries (r : CtxRec) (ns : Nat) : Nat :=
  if r.sliceper = 0 || decide (ns < r.sliceoff) then 0 else (ns - r.sliceoff) / r.sliceper + 1
/-- Bits [19:4] of the cycle count (R54). -/
def State.ptime (s : State) : BitVec 16 := BitVec.ofNat 16 (s.dev.cycles / 16)

/-! ### Memory -/

/-- Where a physical address lies in the state's memory: device number 8,191 is host memory, any other local address
this device's own (R25, R463). -/
def memKey (a : Nat) : Nat := if a / 2 ^ 39 = 8191 then a else a % 2 ^ 39

def State.readMem (s : State) (a n : Nat) : List Byte := Memory.read s.mem (memKey a) n
def State.readNat (s : State) (a n : Nat) : Nat := leNat (s.readMem a n)
def State.writeMem (s : State) (a : Nat) (bs : List Byte) : State := { s with mem := Memory.write s.mem (memKey a) bs }
def State.writeNat (s : State) (a n x : Nat) : State := s.writeMem a (leBytes n x)
/-- The 256-byte line of an address, as the state's memory keeps it. -/
def lineOf (a : Nat) : Nat := memKey a / 256 * 256
def State.poisoned (s : State) (a : Nat) : Bool := s.poison.contains (lineOf a)
/-- An address not already in the list joins it in order. -/
def insertNat (a : Nat) : List Nat → List Nat
  | [] => [a]
  | b :: t => if a < b then a :: b :: t else if a = b then b :: t else b :: insertNat a t
def State.setPoison (s : State) (a : Nat) : State := { s with poison := insertNat (lineOf a) s.poison }
def State.clearPoison (s : State) (a : Nat) : State := { s with poison := s.poison.filter fun b => b != lineOf a }

/-! ### Frames (R99 to R102) -/

/-- A FREE frame with GEN 0 (R100). -/
def Frame.blank : Frame :=
  { rettag := 0, parent := 0, pgen := 0, st := .free, gen := 0, depth := 0, src := .general, gsize := 0, rank := 0,
    flags := 0, record := none }
def Ctx.frame (x : Ctx) (i : Nat) : Frame := (look i x.frames).getD Frame.blank

def FrameSt.code : FrameSt → Nat
  | .free => 0 | .live => 1 | .parked => 2 | .ending => 3
def Share.code : Share → Nat
  | .general => 0 | .depth => 1 | .handler => 2 | .root => 3

/-- The 32 bytes of a frame table entry (R99). -/
def Frame.toBytes (f : Frame) : List Byte :=
  leBytes 8 f.rettag.toNat ++ leBytes 2 (f.parent.toNat + 4096 * f.pgen.toNat) ++ leBytes 1 f.st.code ++
    leBytes 1 f.gen.toNat ++ leBytes 1 f.depth ++ leBytes 1 f.src.code ++ leBytes 2 f.gsize ++ leBytes 2 f.rank ++
    zeros 14

/-- The 64-byte header (R99). -/
def Pool.toBytes (p : Pool) : List Byte :=
  leBytes 2 p.nframes ++ leBytes 1 p.dmax ++ leBytes 1 p.resv ++ leBytes 2 p.gfree ++ leBytes 1 p.hfree ++
    leBytes 1 p.maxd ++ (List.range 16).flatMap (fun d => leBytes 2 (if d = 0 then 0 else p.dfree.getD d 0)) ++
    leBytes 8 p.orphans.toNat ++ leBytes 4 p.sweeps.toNat ++ leBytes 2 p.peak ++ zeros 10

/-- A frame table entry changed, in the state and in memory. -/
def State.setFrame (s : State) (a i : Nat) (f : Frame) : State :=
  match s.ctx a with
  | none => s
  | some x => (s.setCtx a { x with frames := put i f x.frames }).writeMem (x.cr.frtbase + 64 + 32 * i) f.toBytes

/-- The header changed. -/
def State.setPool (s : State) (a : Nat) (p : Pool) : State :=
  match s.ctx a with
  | none => s
  | some x => (s.setCtx a { x with pool := p }).writeMem x.cr.frtbase p.toBytes

def State.modPool (s : State) (a : Nat) (f : Pool → Pool) : State :=
  match s.ctx a with
  | none => s
  | some x => s.setPool a (f x.pool)

/-- The frame a tag names. -/
def State.frameOf (s : State) (a : Nat) (t : Tag) : Frame :=
  match s.ctx a with
  | some x => x.frame (tagFrame t)
  | none => Frame.blank

/-- The tag's frame is an activation still running: LIVE or PARKED, with the tag's GEN. -/
def frameCurrent (f : Frame) (t : Tag) : Bool := (f.st == .live || f.st == .parked) && f.gen == tagGen t

/-- Flags ORed into a frame's sticky word (R172); it raises nothing. -/
def State.orFlags (s : State) (a : Nat) (t : Tag) (fl : Flags) : State :=
  if fl = 0 then s
  else
    let f := s.frameOf a t
    if frameCurrent f t then s.setFrame a (tagFrame t) { f with flags := f.flags ||| fl } else s

/-- ORPHANS + 1 (R105). -/
def State.countOrphan (s : State) (a : Nat) : State := s.modPool a fun p => { p with orphans := p.orphans + 1 }

/-- An event of R94: the watchdog goes back to zero and stage one is forgotten. -/
def State.progress (s : State) (a : Nat) : State :=
  s.modCtx a fun x => { x with wdog := 0, wdogStage := false, wdogSpilled := false }

/-! ### Tokens in memory (R54) -/

def Token.dest (t : Token) : Dest :=
  { port := .to t.port, mode := .fixed, cell := BitVec.ofNat 11 t.cell, sprA := 0, sprB := 0,
    slot := BitVec.ofNat 11 t.slot }

/-- The 32 bytes of a token, with LITR as given. -/
def Token.toBytes (t : Token) (lit : Bool) : List Byte :=
  let beats : Nat :=
    if t.isTile then
      match Handle.ofWord t.payload with
      | some h => min 16 ((h.bytes + 127) / 128)
      | none => 0
    else 0
  let w2 : BitVec 64 :=
    0#14 ++ BitVec.ofBool (t.poison && !t.isTile) ++ BitVec.ofBool (t.eos && !t.isTile) ++ BitVec.ofBool t.isTile ++
      BitVec.ofBool lit ++ t.cgen ++ BitVec.ofNat 10 t.asid ++ encodeDest (some t.dest)
  let w3 : BitVec 64 :=
    0#21 ++ BitVec.ofNat 5 beats ++ t.ptime ++ BitVec.ofNat 11 t.pslot ++ BitVec.ofNat 11 t.pcell
  leBytes 8 t.tag.toNat ++ leBytes 8 t.payload.toNat ++ leBytes 8 w2.toNat ++ leBytes 8 w3.toNat

/-- A way of the token table (R81) or an entry of the park area (R381): STATE 1, or 2 with the block. -/
def Stored.toBytes (x : Stored) : List Byte :=
  x.entry.tok.toBytes false ++ leBytes 6 x.entry.arrive ++ leBytes 2 x.cell ++
    leBytes 1 (if x.block.isSome then 2 else 1) ++ zeros 3 ++ leBytes 4 (x.block.getD 0) ++ zeros 16

/-! ### The spill area (R81) -/

/-- Bytes of the token table: a quarter of the spill area. -/
def Ctx.tableBytes (x : Ctx) : Nat := x.cr.spill * 262144
def Ctx.nsets (x : Ctx) : Nat := x.tableBytes / 256
def Ctx.nblocks (x : Ctx) : Nat := x.cr.spill * 24
def Ctx.blockAddr (x : Ctx) (b : Nat) : Nat := x.cr.spillbase + x.tableBytes + 32768 * b
def Ctx.wayAddr (x : Ctx) (i : Nat) : Nat := x.cr.spillbase + 64 * i
def Ctx.parkAddr (x : Ctx) (i : Nat) : Nat := x.cr.parkbase + 64 + 64 * i
def Ctx.parkCap (x : Ctx) : Nat := (x.cr.parksize - 64) / 64

/-- spill_set of R82. -/
def spillSet (x : Ctx) (asid cell slot : Nat) (tag : Tag) : Nat :=
  (mix64 (tag ^^^ mix64 (BitVec.ofNat 64 (asid * 2 ^ 22 + cell * 2 ^ 11 + slot)))).toNat % x.nsets

/-- The first number from a on, at most n of them, not in the list. -/
def firstFree (used : List Nat) : Nat → Nat → Option Nat
  | _, 0 => none
  | a, n + 1 => if used.contains a then firstFree used (a + 1) n else some a

/-- The first free way from a set on, modulo the table. -/
def Ctx.freeWay (x : Ctx) (set : Nat) : Option Nat :=
  let used := x.ways.map Stored.idx
  let n := 4 * x.nsets
  -- no more ways than those in use, and one, need be looked at
  let k := min n (used.length + 1)
  let go := firstFree (used.map fun u => (u + n - 4 * set) % n) 0 k
  go.map fun d => (4 * set + d) % n

/-- The bit of a block in the allocation bitmap, set or cleared. -/
def State.markBlock (s : State) (x : Ctx) (b : Nat) (on : Bool) : State :=
  let a := x.blockAddr 0 + b / 8
  let v := (s.readMem a 1).getD 0 0
  s.writeMem a [if on then v ||| (1#8 <<< (b % 8)) else v &&& ~~~(1#8 <<< (b % 8))]

/-- The lowest free block taken (R81). -/
def State.takeBlock (s : State) (asid : Nat) : Option (Nat × State) :=
  match s.ctx asid with
  | none => none
  | some x =>
    match firstFree (0 :: x.blocks) 0 (min x.nblocks (x.blocks.length + 2)) with
    | none => none
    | some b => some (b, (s.setCtx asid { x with blocks := insertNat b x.blocks }).markBlock x b true)

def State.freeBlock (s : State) (asid b : Nat) : State :=
  match s.ctx asid with
  | none => s
  | some x => (s.setCtx asid { x with blocks := x.blocks.filter (· != b) }).markBlock x b false

/-- A tile's bytes in a block. -/
def State.storeBlock (s : State) (asid b : Nat) (data : List Byte) : State :=
  match s.ctx asid with
  | none => s
  | some x => s.writeMem (x.blockAddr b) data
def State.loadBlock (s : State) (asid b n : Nat) : List Byte :=
  match s.ctx asid with
  | none => []
  | some x => s.readMem (x.blockAddr b) n

/-! ### The poison log (R389) -/

/-- One meeting of a poisoned line. -/
def State.logPoison (s : State) (asid addr cell slot src : Nat) : State :=
  match s.ctx asid with
  | none => s
  | some x =>
    -- an area without room for the header holds no log
    if x.cr.plogsize < 64 then s
    else
      let n := s.readNat x.cr.plogbase 8
      let cap := (x.cr.plogsize - 64) / 16
      let entry := leBytes 8 (addr / 256 * 256) ++ leBytes 2 cell ++ leBytes 2 slot ++ leBytes 1 src ++ zeros 3
      let s1 := if cap = 0 then s else s.writeMem (x.cr.plogbase + 64 + 16 * (n % cap)) entry
      s1.writeNat x.cr.plogbase 8 (n + 1)

/-- Poisoned lines of a context area that are read by physical address (R389). -/
def State.logArea (s : State) (asid pa n cell slot : Nat) : State :=
  ((List.range ((pa % 256 + n + 255) / 256)).map fun k => pa / 256 * 256 + 256 * k).foldl
    (fun st a => if st.poisoned a then st.logPoison asid a cell slot 5 else st) s

/-- A tile read from its block for a token of a cell: poisoned lines are logged. -/
def State.noteBlock (s : State) (asid cell : Nat) (slot b n : Nat) : State :=
  match s.ctx asid with
  | none => s
  | some x => s.logArea asid (x.blockAddr b) n cell slot

/-- A way of the token table, or an entry of the park area, as it is read for its token's cell and slot (log entry 100). -/
def State.noteStored (s : State) (asid : Nat) (pa : Nat) (w : Stored) : State := s.logArea asid pa 64 w.cell w.entry.tok.slot
def State.noteWay (s : State) (asid : Nat) (w : Stored) : State :=
  match s.ctx asid with
  | none => s
  | some x => s.noteStored asid (x.wayAddr w.idx) w

/-! ### The park area's header -/

/-- NENT of the park area's header (R381). -/
def State.publishPark (s : State) (asid : Nat) : State :=
  match s.ctx asid with
  | none => s
  | some x => if x.cr.parksize < 64 then s else s.writeNat x.cr.parkbase 4 x.parked.length

/-! ### Tiles on a cell (R83 to R85) -/

/-- The line a tile token names on its cell. -/
def Token.line (t : Token) : Option Nat := if t.isTile then (Handle.ofWord t.payload).map Handle.line else none
/-- The token with its handle's LINE replaced. -/
def Token.withLine (t : Token) (l : Nat) : Token :=
  match Handle.ofWord t.payload with
  | some h => { t with payload := Handle.word { h with line := l } }
  | none => t

def Entry.refs (e : Entry) (l : Nat) : Bool := e.block.isNone && e.tok.line == some l

/-- Is the tile at line l of cell c referred to (R85)? By entries, formed sets, loads whose result it will be (R84),
tokens staying on the cell, outgoing transfers, spilled ways whose tile stays resident, and open trap records (R380). -/
def State.referenced (s : State) (c l : Nat) : Bool :=
  let x := s.cell c
  x.entries.any (·.refs l) ||
  x.sets.any (fun f => f.args.any (·.refs l) || (f.snap.bind Firing.room) == some l) ||
  s.memops.any (fun o => o.firing.cell == c && o.firing.room == some l) ||
  x.input.any (fun h => h.flight.tile.isNone && h.flight.toks.any (fun t => t.line == some l)) ||
  s.net.any (fun f => f.tile.isNone && f.toks.any (fun t => t.cell == c && t.line == some l)) ||
  s.xfers.any (fun t => t.cell == c && t.line == l) ||
  s.ctxs.any (fun p => p.2.ways.any (fun w => w.cell == c && w.block.isNone && w.entry.refs l) ||
    p.2.parked.any (fun w => w.cell == c && w.block.isNone && w.entry.refs l) ||
    p.2.traps.any (fun r => r.cell == c && r.st != .resolved && r.args.any (·.refs l)))

/-- The lines of tiles nothing refers to are freed (R85). -/
def State.gcTiles (s : State) (c : Nat) : State :=
  s.modCell c fun x => { x with tiles := x.tiles.filter fun t => s.referenced c t.line }

/-- Runs of lines in use on a cell. -/
def Cell.runs (x : Cell) : List (Nat × Nat) := x.tiles.map (fun t => (t.line, t.lines)) ++ x.reserved

/-- The end of a run that overlaps [a, a+n), if one does. -/
def blocking (runs : List (Nat × Nat)) (a n : Nat) : Option Nat :=
  (runs.find? fun r => decide (r.1 < a + n) && decide (a < r.1 + r.2)).map fun r => r.1 + r.2

/-- The lowest run of n free lines at or above a; at most k runs lie in the way. -/
def freeRunFrom (runs : List (Nat × Nat)) (n : Nat) : Nat → Nat → Option Nat
  | 0, _ => none
  | k + 1, a =>
    if 2048 < a + n then none
    else match blocking runs a n with
      | none => some a
      | some b => freeRunFrom runs n k b

/-- The lowest-addressed run of n free lines (R83). -/
def Cell.freeRun (x : Cell) (n : Nat) : Option Nat := freeRunFrom x.runs n (x.runs.length + 1) 0

/-- Free lines of the arriving-tile space. -/
def Cell.freeLines (x : Cell) : Nat := 2048 - (x.runs.map Prod.snd).sum

def Cell.tileAt (x : Cell) (l : Nat) : Option TileBuf := x.tiles.find? fun t => t.line == l

/-- The value a token carries to a firing on the cell: the tile's bytes with its handle. -/
def Cell.valueOf (x : Cell) (t : Token) : Val :=
  if t.isTile then
    match Handle.ofWord t.payload with
    | some h => .tile h (fitBytes h.bytes (((x.tileAt h.line).map TileBuf.data).getD []))
    | none => .scalar t.payload t.poison t.eos
  else .scalar t.payload t.poison t.eos

end Sys2Proof.Machine
end

