-- ==== Sys2Proof/Machine/Ops.lean ====
section
/-! DEFINITION. The named operations every meaning is built from: sending tokens, taking a trap and resolving one,
parking and returning a frame's tokens, accepting tokens, spilling, and committing or holding a firing. -/

namespace Sys2Proof.Machine

/-! ### Freezing (R369, R370) -/

/-- STATE of a context record in memory (R351). -/
def State.publishState (s : State) (a : Nat) : State :=
  match s.ctx a with
  | none => s
  | some x => s.writeMem (x.cr.base + 3) [if x.cr.frozen then 2 else 1]

/-- The virtual device freezes, its contexts with it, and a freeze record waits for the physical function. -/
def State.freeze (s : State) (r : Freeze) : State :=
  let mine := (s.ctxs.filter fun p => p.2.cr.vdev == r.vdev).map Prod.fst
  let s1 : State :=
    { s with
      vdevs := s.vdevs.map fun p => if p.1 == r.vdev then (p.1, { p.2 with frozen := true }) else p
      ctxs := s.ctxs.map fun p =>
        if p.2.cr.vdev == r.vdev then (p.1, { p.2 with cr := { p.2.cr with frozen := true } }) else p
      freezes := s.freezes ++ [r] }
  mine.foldl State.publishState s1

/-- The virtual device of a context. -/
def State.vdevOf (s : State) (a : Nat) : Nat := ((s.ctx a).map fun x => x.cr.vdev).getD 0

/-! ### Sending tokens (R17, R36 to R39, R84) -/

/-- The cell a destination word names for a token of tag t leaving a cell (R37, R38). -/
def destTarget (d : Dest) (src : Nat) (t : Tag) : Nat :=
  match d.mode with
  | .producer => src
  | .spread => spreadCell d.cell.toNat d.sprA.toNat d.sprB.toNat (spreadIndex t d.sprA.toNat d.sprB.toNat)
  | _ => d.cell.toNat

def portOf : DestPort → Port
  | .to p => p
  | .link => .a

/-- Who sends: cell, slot and cgen of the producing plane, and whether a dispatcher or the control core injects. -/
structure Sender where
  asid : Nat
  cell : Nat
  slot : Nat
  cgen : BitVec 4
  inj : Bool
  deriving DecidableEq, Repr

/-- A token on its way to a resolved destination. -/
def State.token (s : State) (f : Sender) (tag : Tag) (v : Val) (cell slot : Nat) (port : Port) : Token :=
  { asid := f.asid, tag := tag, payload := v.word, isTile := v.isTile,
    poison := !v.isTile && v.poisoned, eos := !v.isTile && v.eos, cgen := f.cgen, cell := cell, slot := slot,
    port := port, pcell := f.cell, pslot := f.slot, ptime := s.ptime, remote := false, inj := f.inj }

/-- A remote port table entry (R461): FDEST, device, ASID, KEY, STATE. -/
structure RptEntry where
  fdest : BitVec 32
  fdev : Nat
  fasid : Nat
  key : BitVec 32
  state : Nat
  deriving DecidableEq, Repr

def State.rpt (s : State) (asid i : Nat) : RptEntry :=
  match s.ctx asid with
  | none => ⟨0, 0, 0, 0, 0⟩
  | some x =>
    let a := x.cr.rptbase + 16 * i
    ⟨BitVec.ofNat 32 (s.readNat a 4), s.readNat (a + 4) 2 % 8192, s.readNat (a + 6) 2 % 1024,
     BitVec.ofNat 32 (s.readNat (a + 8) 4), s.readNat (a + 12) 1⟩

/-- A poisoned line met in reading an entry of the remote port table for a cell and slot (R389). -/
def State.noteRpt (s : State) (asid i cell slot : Nat) : State :=
  match s.ctx asid with
  | none => s
  | some x => s.logArea asid (x.cr.rptbase + 16 * i) 16 cell slot

/-- A token through an outbound entry goes to the fabric; one through any other freezes the sender (R369, R462). -/
def State.sendRemote (s : State) (f : Sender) (tag : Tag) (v : Val) (i : Nat) : State :=
  let e := s.rpt f.asid i
  let s := s.noteRpt f.asid i f.cell f.slot
  if e.state = 1 then
    { s with fabOut := s.fabOut ++
        [{ dev := e.fdev, asid := f.asid, key := e.key, target := e.fasid, dest := e.fdest, tag := tag,
           payload := v.word, poison := !v.isTile && v.poisoned, eos := v.eos, fcell := f.cell, fslot := f.slot,
           port := i, tile := match v with | .tile _ d => some d | _ => none }] }
  else
    s.freeze { cause := 2, vdev := s.vdevOf f.asid, asid := some f.asid, cell := f.cell, slot := f.slot, tag := tag,
               addr := 0 }

/-- Tokens for one cell: staying on it, or crossing with the tile's data once (R84, R85). -/
def State.launchFlight (s : State) (f : Sender) (v : Val) (cell : Nat) (toks : List Token) : State :=
  match v with
  | .scalar _ _ _ =>
    { s with net := s.net ++ toks.map fun t => { toks := [t], tile := none, left := 0, line := none, xfer := none } }
  | .tile h d =>
    if cell = f.cell then
      { s with net := s.net ++ toks.map fun t => { toks := [t], tile := none, left := 0, line := none, xfer := none } }
    else
      { s with
        net := s.net ++ [{ toks := toks, tile := some d, left := h.packets, line := none, xfer := some s.nextXfer }]
        xfers := s.xfers ++ [{ id := s.nextXfer, cell := f.cell, line := h.line }]
        nextXfer := s.nextXfer + 1 }

/-- Cells of a list of tokens, each once, in order. -/
def cellsOf : List Token → List Nat
  | [] => []
  | t :: ts => t.cell :: (cellsOf ts).filter (· != t.cell)

/-- Tokens already resolved, sent. -/
def State.sendTokens (s : State) (f : Sender) (v : Val) (toks : List Token) : State :=
  (cellsOf toks).foldl (fun st c => st.launchFlight f v c (toks.filter fun t => t.cell == c)) s

/-- A value's tokens for its destinations on the mesh, resolved under a tag (R39). -/
def State.tokensTo (s : State) (f : Sender) (tag : Tag) (v : Val) (ds : List Dest) : List Token :=
  (ds.filter fun d => d.mode != .remote).map fun d =>
    s.token f tag v (destTarget d f.cell tag) d.slot.toNat (portOf d.port)

/-- Its tokens for destinations on other devices. -/
def State.sendFar (s : State) (f : Sender) (tag : Tag) (v : Val) (ds : List Dest) : State :=
  (ds.filter fun d => d.mode == .remote).foldl (fun st d => st.sendRemote f tag v (d.cell.toNat % 256)) s

/-- One value to every destination of a side (R39). -/
def State.send (s : State) (f : Sender) (tag : Tag) (v : Val) (ds : List Dest) : State :=
  (s.sendTokens f v (s.tokensTo f tag v ds)).sendFar f tag v ds

/-- One value under several tags to the same destinations: a tile crosses once to each cell (R84). -/
def State.sendTagged (s : State) (f : Sender) (tags : List Tag) (v : Val) (ds : List Dest) : State :=
  tags.foldl (fun st t => st.sendFar f t v ds) (s.sendTokens f v (tags.flatMap fun t => s.tokensTo f t v ds))

/-! ### Trap records (R377, R378) -/

/-- The 80 bytes of MREG (R392). -/
def AttarSnap.mreg (a : AttarSnap) : List Byte :=
  (a.q.take 8).flatMap (fun w => leBytes 4 w.toNat) ++ (a.ac.take 4).flatMap (fun w => leBytes 4 w.toNat) ++
    (a.lc.take 2).flatMap (fun w => leBytes 4 w.toNat) ++ leBytes 8 a.mask.toNat ++ leBytes 1 a.mpc ++
    leBytes 3 a.micro ++ leBytes 4 a.n ++ zeros 8

def portCode : Port → Nat
  | .a => 0 | .b => 1 | .c => 2

def TrapRec.frame (r : TrapRec) : Nat := if r.kind = 3 then 0 else tagFrame r.tag
def TrapRec.gen (r : TrapRec) : BitVec 4 := if r.kind = 3 then 0 else tagGen r.tag

def RecSt.code : RecSt → Nat
  | .delivered => 1 | .escalated => 2 | .resolved => 3

/-- The 256 bytes of a record (R377). -/
def TrapRec.toBytes (r : TrapRec) (snap : Nat) : List Byte :=
  let opnd (p : Port) : List Byte :=
    match r.ops.find? (fun o => o.port == p) with
    | some o => o.tok.toBytes o.lit
    | none => zeros 32
  leBytes 1 r.trap.cls ++ leBytes 1 r.trap.code ++ leBytes 1 r.kind ++ leBytes 1 r.st.code ++ leBytes 2 r.cell ++
    leBytes 2 r.slot ++ leBytes 8 r.tag.toNat ++ leBytes 8 r.time ++ leBytes 4 r.trap.elem ++
    leBytes 1 r.trap.flags.toNat ++
    leBytes 1 ([Port.a, .b, .c].filter fun p => r.ops.any fun o => o.port == p).length ++ zeros 2 ++ leBytes 16 r.word.toNat ++
    leBytes 8 r.trap.addr ++ leBytes 8 r.trap.coord.toNat ++ leBytes 8 (if r.trap.snap.isSome then snap else 0) ++
    leBytes 8 r.trap.aux.toNat ++ opnd .a ++ opnd .b ++ opnd .c ++
    (match r.trap.snap with | some a => fitBytes 80 a.mreg | none => zeros 80)

def Ctx.recAddr (x : Ctx) (i : Nat) : Nat := x.cr.trapbase + 256 * i
def Ctx.snapAddr (x : Ctx) (i : Nat) : Nat := x.cr.trapbase + 256 * x.cr.trapn + 4096 * i

/-- A record with an index, written (R378, R392). -/
def State.publishRec (s : State) (asid : Nat) (r : TrapRec) : State :=
  match s.ctx asid, r.index with
  | some x, some i =>
    let s1 := s.writeMem (x.recAddr i) (r.toBytes (x.snapAddr i))
    match r.trap.snap with
    | some a => s1.writeMem (x.snapAddr i) (fitBytes 4096 (a.m.flatMap fun l => l.flatMap fun w => leBytes 4 w.toNat))
    | none => s1
  | _, _ => s

/-- The records a predicate picks, changed. -/
def State.modTraps (s : State) (asid : Nat) (p : TrapRec → Bool) (g : TrapRec → TrapRec) : State :=
  s.modCtx asid fun x => { x with traps := x.traps.map fun r => if p r then g r else r }

/-- Tensor operators, whose port a is a coordinate (R301). -/
def isTensor (word : BitVec 128) : Bool :=
  let c := (word.extractLsb' 120 8).toNat
  c == 0x90 || c == 0x91 || c == 0x94 || c == 0x95 || c == 0x96 || c == 0xA2

/-- COORD of a record: WATCH's own, else a tensor operator's coordinate operand (R377). -/
def Trap.withCoord (t : Trap) (f : Firing) : Trap :=
  if t.cls != 0x10 && isTensor f.word then
    { t with coord := match f.ops.find? (fun o => o.port == .a) with | some o => o.val.word | none => 0 }
  else t

/-- A trap raised by a firing, as a record without an index. -/
def State.recOf (s : State) (f : Firing) (t : Trap) (args : List Entry) : TrapRec :=
  { trap := { t.withCoord f with need := [] }, kind := 1, cell := f.cell, slot := f.slot, tag := f.tag, time := s.ns,
    word := f.word, ops := f.ops,
    args := args, outs0 := f.outs0, outs1 := f.outs1, op := none, frozen := none, index := none, st := .delivered,
    pending := true, esc := 0 }

/-! ### Waits (R118) -/

/-- Freed general frames: set aside for the oldest GANG that waits, else free (R109). -/
def Ctx.giveGeneral (x : Ctx) (k : Nat) : Ctx :=
  match x.gangWaits with
  | w :: _ =>
    let take := min k (w.n - x.aside)
    { x with aside := x.aside + take, pool := { x.pool with gfree := x.pool.gfree + (k - take) } }
  | [] => { x with aside := 0, pool := { x.pool with gfree := x.pool.gfree + k } }

/-- What has been freed goes to whoever waits for it, before anything else happens (R108, R109). -/
def State.grantDue (s : State) (asid : Nat) : State :=
  { s with due := s.due ++ [.event (.heldFrameGrant asid), .event (.gangGrant asid)] }

/-- A frame allocated and not used goes back to its share (R151). -/
def State.unallocFrame (s : State) (asid i : Nat) : State :=
  match s.ctx asid with
  | none => s
  | some x =>
    let f := x.frame i
    let s1 := s.setFrame asid i { f with st := .free }
    let s2 := s1.modCtx asid fun y => match f.src with
      | .general => y.giveGeneral 1
      | .depth =>
        { y with pool := { y.pool with dfree := y.pool.dfree.set f.depth (y.pool.dfree.getD f.depth 0 + 1) } }
      | .handler => { y with pool := { y.pool with hfree := y.pool.hfree + 1 } }
      | .root => y
    (s2.modPool asid id).grantDue asid

/-- The child frame of a SPAWN held for residency. -/
def Cell.heldChild (c : Cell) (sid : Nat) : Option Nat :=
  (c.findSet sid).bind fun x => match x.hold with
    | some (.residency i) => some i
    | _ => none

/-- The wait of a set, cancelled wherever it stands. A frame that it had been given goes back (R151), and frames set
aside for it are free again (R109). -/
def State.cancelWait (s : State) (asid cell sid : Nat) : State :=
  let s1 := s.modCell cell fun c =>
    { c with
      loops := c.loops.map fun l =>
        if l.waiter.any (fun w => w.2 == sid) then { l with waiter := none } else l
      claim := if c.claim == some sid then none else c.claim }
  let headGang := ((s.ctx asid).bind fun x => x.gangWaits.head?).any fun w => w.cell == cell && w.sid == sid
  let s2 := s1.modCtx asid fun x =>
    let y : Ctx :=
      { x with
        frameWaits := x.frameWaits.filter fun w => !(w.cell == cell && w.sid == sid)
        gangWaits := x.gangWaits.filter fun w => !(w.cell == cell && w.sid == sid)
        planeOps := x.planeOps.filter fun o => match o with
          | .loadg c i | .drain c i | .swapg c i | .residency c i => !(c == cell && i == sid)
          | .flipping _ _ | .launch => true }
    if headGang then Ctx.giveGeneral { y with aside := 0 } x.aside else y
  let s3 := s2.modPool asid id
  let s4 := if headGang then s3.grantDue asid else s3
  let s5 := match (s.cell cell).heldChild sid with
    | some i => s4.unallocFrame asid i
    | none => s4
  { s5 with reqs := s5.reqs.filter fun r => !(r.cell == cell && r.sid == sid) }

/-- A memory firing that has started and issues nothing yet: it waits, or has waited, for walks (R300, R361). -/
def FSet.walking (x : FSet) : Bool := x.snap.isSome && (x.hold == some .walk || x.hold.isNone)

/-- A set that stays when its frame parks: it has started, and walks or its homes' replies are awaited (R300, R304, R380),
its flip is on its way (R157), or RESUME.REDO has re-formed it (R400). -/
def FSet.running (f : FSet) : Bool :=
  f.walking || match f.hold with
    | some (.accept _) | some .parked | some .flipping => true
    | _ => false

/-- The tokens of a set that is formed no more: where it was to fire under NOWATCH, it does once it forms again (R385,
log entry 101). -/
def FSet.loose (x : FSet) : List Entry := x.args.map fun e => { e with nowatch := x.nowatch }

/-! ### Parking (R380, R381) -/

/-- A way's bytes and content replaced. -/
def State.setWay (s : State) (asid : Nat) (w : Stored) : State :=
  match s.ctx asid with
  | none => s
  | some x =>
    (s.setCtx asid { x with ways := x.ways.map fun v => if v.idx == w.idx then w else v }).writeMem (x.wayAddr w.idx) w.toBytes

/-- A way is freed. -/
def State.freeWayAt (s : State) (asid i : Nat) : State :=
  match s.ctx asid with
  | none => s
  | some x =>
    (s.setCtx asid { x with ways := x.ways.filter fun v => v.idx != i }).writeMem (x.wayAddr i) (zeros 64)

/-- The block of an entry's tile: the one that holds it already, the one that m names for its line, or the lowest free
one, into which it is copied. None when a tile finds no block. m lists lines of the cell and the blocks they have been
copied to in the same action, so that a tile has one copy however many tokens name it (R84). -/
def State.tileBlock (s : State) (asid cell : Nat) (m : List (Nat × Nat)) (e : Entry) :
    Option (Option Nat × List (Nat × Nat) × State) :=
  match e.block, e.tok.line with
  | some b, _ => some (some b, m, s)
  | none, none => some (none, m, s)
  | none, some l =>
    match look l m, (s.cell cell).valueOf e.tok with
    | some b, _ => some (some b, m, s)
    | none, .tile _ d => (s.takeBlock asid).map fun (b, s1) => (some b, put l b m, s1.storeBlock asid b d)
    | none, .scalar _ _ _ => some (none, m, s)

/-- A token put into the park area; none when no entry or no block is free. -/
def State.parkEntry (s : State) (asid cell : Nat) (m : List (Nat × Nat)) (e : Entry) :
    Option (State × List (Nat × Nat)) := do
  let x ← s.ctx asid
  let i ← firstFree (x.parked.map Stored.idx) 0 (min x.parkCap (x.parked.length + 1))
  let (b, m1, s1) ← s.tileBlock asid cell m e
  let r : Stored := { idx := i, entry := { e with parked := false, block := none }, cell := cell, block := b }
  pure (((s1.modCtx asid fun y => { y with parked := y.parked ++ [r] }).writeMem (x.parkAddr i) r.toBytes).publishPark asid, m1)

/-- Tokens of the frame and GEN that t names. -/
def Entry.ofFrame (asid frame : Nat) (gen : BitVec 4) (e : Entry) : Bool :=
  e.tok.asid == asid && tagFrame e.tok.tag == frame && tagGen e.tok.tag == gen
def FSet.ofFrame (asid frame : Nat) (gen : BitVec 4) (f : FSet) : Bool :=
  f.asid == asid && tagFrame f.tag == frame && tagGen f.tag == gen

/-- Has the frame something under way: a token that travels or waits at an input, an operation, or a set that has started or
may start, of those that count? -/
def State.frameActs (s : State) (asid frame : Nat) (gen : BitVec 4) (counts : Nat → FSet → Bool) : Bool :=
  let mine (t : Token) : Bool := t.asid == asid && tagFrame t.tag == frame && tagGen t.tag == gen
  s.net.any (fun f => f.toks.any mine) ||
    s.memops.any (fun o => o.origin.isNone && o.firing.asid == asid && tagFrame o.firing.tag == frame &&
      tagGen o.firing.tag == gen && o.phase != .abandoned && !o.listed) ||
    (s.region asid).any fun c =>
      (s.cell c).input.any (fun h => h.flight.toks.any mine) ||
        (s.cell c).sets.any fun f => f.ofFrame asid frame gen && counts c f &&
          (f.hold.isNone || f.running && f.hold != some .parked)

/-- A token of the cell goes to the park area, or stays in the matching store marked parked (R381). -/
def parkResident (asid cell : Nat) (p : State × List (Nat × Nat)) (e : Entry) : State × List (Nat × Nat) :=
  (p.1.parkEntry asid cell p.2 e).getD
    (p.1.modCell cell fun c => { c with entries := c.entries ++ [{ e with parked := true }] }, p.2)

/-- A spilled token goes to the park area, or stays spilled marked parked. -/
def parkWay (asid : Nat) (p : State × List (Nat × Nat)) (w : Stored) : State × List (Nat × Nat) :=
  match p.1.parkEntry asid w.cell p.2 { w.entry with block := w.block } with
  | some (s1, m) => (s1.freeWayAt asid w.idx, m)
  | none => (p.1.setWay asid { w with entry := { w.entry with parked := true } }, p.2)

/-- Entries and sets of a parked frame on one cell, resident and spilled, go to the park area. -/
def State.withdraw (s : State) (asid frame : Nat) (gen : BitVec 4) (cell : Nat) : State :=
  let c := s.cell cell
  let sets := c.sets.filter fun f => f.ofFrame asid frame gen && !f.running
  let es := c.entries.filter (fun e => e.ofFrame asid frame gen && !e.parked) ++ sets.flatMap FSet.loose
  let s1 := sets.foldl (fun st f => st.cancelWait asid cell f.sid) s
  let s2 := s1.modCell cell fun c =>
    { c with
      entries := c.entries.filter fun e => !(e.ofFrame asid frame gen && !e.parked)
      sets := c.sets.filter fun f => !(f.ofFrame asid frame gen && !f.running) }
  let ws := ((s.ctx asid).map fun x =>
    x.ways.filter fun w => w.cell == cell && w.entry.ofFrame asid frame gen && !w.entry.parked).getD []
  let p1 := es.foldl (parkResident asid cell) (s2, [])
  (ws.foldl (parkWay asid) p1).1.gcTiles cell

/-! ### Taking a trap (R374 to R382) -/

/-- Records that keep the frame parked. -/
def openFor (r : TrapRec) (frame : Nat) (gen : BitVec 4) : Bool :=
  r.kind != 3 && r.st != .resolved && tagFrame r.tag == frame && tagGen r.tag == gen

/-- A frame break ends, at the dispatcher and on one cell (R398). -/
def State.clearBreak (s : State) (asid frame : Nat) (gen : BitVec 4) (cell : Nat) : State :=
  (s.modCell cell fun c => { c with fbreaks := c.fbreaks.filter (· != (asid, frame, gen.toNat)) }).modCtx asid
    fun x => { x with fbreaks := x.fbreaks.filter (· != (frame, gen.toNat)) }

/-- A trap is taken: a firing or frame trap parks its frame at once on the trapping cell and broadcasts the parking;
the record waits for an index. A trap of a frame in ENDING is dropped and counted (R105, R382). -/
def State.takeTrap (s : State) (asid : Nat) (r : TrapRec) : State :=
  match s.ctx asid with
  | none => s
  | some x =>
    let fr := x.frame (tagFrame r.tag)
    if r.kind != 3 && !frameCurrent fr r.tag then (s.countOrphan asid).gcTiles r.cell
    else
      let r1 : TrapRec :=
        { r with
          esc := if r.kind == 1 && fr.src == .handler then 3 else r.esc
          frozen := if x.cr.frozen then some r.frozen.isSome else none }
      let s1 := s.modCtx asid fun y => { y with traps := y.traps ++ [r1] }
      if r.kind != 3 && fr.st == .live then
        let s2 := s1.setFrame asid (tagFrame r.tag) { fr with st := .parked }
        let brk := r.trap.cls == 0x11
        let s3 : State :=
          { s2 with bcasts := s2.bcasts ++
              [{ asid := asid, kind := .park (tagFrame r.tag) fr.gen.toNat brk,
                 left := x.cr.region.filter (· != r.cell) }] }
        let s3 := if brk then s3.clearBreak asid (tagFrame r.tag) fr.gen r.cell else s3
        s3.withdraw asid (tagFrame r.tag) fr.gen r.cell
      else s1

/-- A firing traps: it does not commit, and its operands are held by its record (R374, R380). -/
def State.raise (s : State) (f : Firing) (t : Trap) : State :=
  let args := (((s.cell f.cell).findSet f.sid).map FSet.args).getD []
  let s1 := (s.cancelWait f.asid f.cell f.sid).modCell f.cell fun c => c.dropSet f.sid
  { (s1.takeTrap f.asid (s1.recOf f t args)) with sel := none }

/-- A firing that causes a freeze: it does not commit, its record is written and its delivery held (R370). -/
def State.raiseFrozen (s : State) (f : Firing) (t : Trap) (r : Freeze) : State :=
  let args := (((s.cell f.cell).findSet f.sid).map FSet.args).getD []
  let s1 := s.freeze r
  let s2 := (s1.cancelWait f.asid f.cell f.sid).modCell f.cell fun c => c.dropSet f.sid
  { (s2.takeTrap f.asid { s2.recOf f t args with frozen := some true }) with sel := none }

/-- The freeze that a firing causes, with a record of the class that names memory not its own: no rule gives the class
for causes 0x02 and 0x04 (log entry 64). -/
def State.raiseCause (s : State) (f : Firing) (cause addr : Nat) : State :=
  s.raiseFrozen f (tACCESS 3 addr)
    { cause := cause, vdev := s.vdevOf f.asid, asid := some f.asid, cell := f.cell, slot := f.slot, tag := f.tag,
      addr := addr }

/-! ### Spilling (R79 to R82) -/

/-- The value of an entry of the cell, whose tile lies on its lines or in a block. -/
def State.entryVal (s : State) (cell : Nat) (e : Entry) : Val :=
  match e.block, Handle.ofWord e.tok.payload with
  | some b, some h => .tile h (s.loadBlock e.tok.asid b h.bytes)
  | _, _ => (s.cell cell).valueOf e.tok

/-- SPILL_FULL is taken against the victim's frame; the record holds the token (R82). -/
def State.spillFull (s : State) (asid cell : Nat) (e : Entry) : State :=
  s.takeTrap asid
    { trap := trapOf 0x17 0, kind := 2, cell := cell, slot := e.tok.slot, tag := e.tok.tag, time := s.ns, word := 0,
      ops := [{ port := e.tok.port, lit := false, tok := e.tok, val := s.entryVal cell e }],
      args := [e], outs0 := [], outs1 := [], op := none, frozen := none, index := none, st := .delivered,
      pending := true, esc := 0 }

/-- One entry that has left its cell's matching store is written to the spill area: STATE 2 with a block when the
tile is left without another reference, or lies in a block already. -/
def State.spill (s : State) (cell : Nat) (e : Entry) : State :=
  let asid := e.tok.asid
  match s.ctx asid with
  | none => s
  | some x =>
    match x.freeWay (spillSet x asid cell e.tok.slot e.tok.tag) with
    | none => s.spillFull asid cell e
    | some i =>
      let write (st : State) (b : Option Nat) : State :=
        let w : Stored := { idx := i, entry := { e with block := none }, cell := cell, block := b }
        ((st.modCtx asid fun y => { y with ways := y.ways ++ [w] }).writeMem (x.wayAddr i) w.toBytes).progress asid
      match e.block, e.tok.line with
      | some b, _ => write s (some b)
      | none, none => write s none
      | none, some l =>
        if s.referenced cell l then write s none
        else
          match s.tileBlock asid cell [] e with
          | none => s.spillFull asid cell e
          | some (b, _, s1) => (write s1 b).gcTiles cell

/-! ### Matching (R76 to R79) -/

/-- The token ports of a word (R31): the lowest-lettered that LIT does not take. -/
def tokenPorts (w : BitVec 128) : List Port :=
  let n := (w.extractLsb' 114 2).toNat
  (([Port.a, .b, .c].filter fun p => some p != decodeLit (w.extractLsb' 112 2))).take n

/-- The youngest and the oldest entry of a list. -/
def youngest : List Entry → Option Entry
  | [] => none
  | e :: es => match youngest es with
    | some x => if x.arrive < e.arrive then some e else some x
    | none => some e
def oldest : List Entry → Option Entry
  | [] => none
  | e :: es => match oldest es with
    | some x => if e.arrive < x.arrive then some e else some x
    | none => some e

/-- The n oldest entries of a list. -/
def oldestN : Nat → List Entry → List Entry
  | 0, _ => []
  | n + 1, es => match oldest es with
    | none => []
    | some e => e :: oldestN n (es.filter fun x => x.arrive != e.arrive)

def Entry.hasKey (asid slot : Nat) (tag : Tag) (e : Entry) : Bool :=
  e.tok.asid == asid && e.tok.slot == slot && e.tok.tag == tag && !e.parked

/-- The entries a set of the key takes now, in port order; none when it is not complete. COUNT takes the first n of
port a (R130). -/
def completeSet (w : BitVec 128) (record : Bool) (es : List Entry) : Option (List Entry) :=
  if record then none
  else if w.extractLsb' 120 8 = 0x0A#8 then
    let n := (w.extractLsb' 64 32).toNat
    let xs := es.filter fun e => e.tok.port == .a
    if n = 0 || xs.length < n then none else some (oldestN n xs)
  else
    match tokenPorts w with
    | [] => none
    | ps => ps.mapM fun p => oldest (es.filter fun e => e.tok.port == p)

/-- The operator word and mark a token for the slot meets: that of the active plane (R147). -/
def Cell.activeSlot (c : Cell) (asid slot : Nat) : OpSlot :=
  match c.part asid with
  | some p => c.opSlot p.active slot
  | none => { word := 0, record := false }

/-- Forms a set of the key if it is complete. -/
def Cell.form (c : Cell) (now asid slot : Nat) (tag : Tag) : Cell :=
  let o := c.activeSlot asid slot
  match completeSet o.word o.record (c.entries.filter (Entry.hasKey asid slot tag)) with
  | none => c
  | some es =>
    { c with
      entries := c.entries.filter fun e => !es.any fun x => x.arrive == e.arrive
      sets := c.sets ++ [{ sid := c.nextSid, asid := asid, slot := slot, tag := tag,
                           args := es.map fun e => { e with nowatch := false }, formedAt := now, bypass := 0,
                           nowatch := es.any Entry.nowatch, hold := none, snap := none, faults := [], since := 0 }]
      nextSid := c.nextSid + 1 }

/-- Capacity of the matching store, and what of it is held for handler frames (R78). -/
def capacity (cell : Nat) : Nat := if isCompute cell then 2048 else 1024
def heldEntries (cell : Nat) : Nat := if isCompute cell then 64 else 32

/-- Entries of a cell that open records of its firings hold (R78, R380): neither commit, spill nor parking frees them. -/
def State.recEntries (s : State) (cell : Nat) : List Entry :=
  s.ctxs.flatMap fun p => (p.2.traps.filter fun r => r.kind == 1 && r.cell == cell && r.st != .resolved).flatMap TrapRec.args

/-- Occupied entries: all, and those of the held share. -/
def State.occupied (s : State) (cell : Nat) : Nat :=
  let c := s.cell cell
  c.entries.length + (c.sets.map fun f => f.args.length).sum + (s.recEntries cell).length
def State.occupiedHeld (s : State) (cell : Nat) : Nat :=
  let c := s.cell cell
  (c.entries.filter Entry.res).length + (c.sets.map fun f => (f.args.filter Entry.res).length).sum +
    ((s.recEntries cell).filter Entry.res).length
def State.freeGeneral (s : State) (cell : Nat) : Nat :=
  (capacity cell - heldEntries cell) - (s.occupied cell - s.occupiedHeld cell)
def State.freeHandler (s : State) (cell : Nat) : Nat := heldEntries cell - s.occupiedHeld cell

/-- The token takes an entry with the next arrival number, and a set may form; an entry marked parked forms none. -/
def State.enter (s : State) (t : Token) (res : Bool) (parked : Bool := false) : State :=
  (s.modCell t.cell fun c =>
    Cell.form
      { c with
        entries := c.entries ++ [{ tok := t, arrive := c.arrivals.toNat, parked := parked, res := res, block := none,
                                   rank := (s.dev.cycles, portCode t.port) }]
        arrivals := c.arrivals + 1 } s.dev.cycles t.asid t.slot t.tag).progress t.asid

def State.isHandler (s : State) (asid : Nat) (t : Tag) : Bool :=
  (s.frameOf asid t).src == .handler && frameCurrent (s.frameOf asid t) t

/-- Would the token complete a set? -/
def Cell.completes (c : Cell) (t : Token) : Bool :=
  let o := c.activeSlot t.asid t.slot
  (completeSet o.word o.record
    ({ tok := t, arrive := c.arrivals.toNat, parked := false, res := false, block := none } ::
      c.entries.filter (Entry.hasKey t.asid t.slot t.tag))).isSome

/-- The share of the matching store that can take a token of the tag now (R78): false the general one. -/
def State.shareOf (s : State) (cell asid : Nat) (tag : Tag) : Option Bool :=
  if 0 < s.freeGeneral cell then some false
  else if s.isHandler asid tag && 0 < s.freeHandler cell then some true else none

/-- The token spills at once, with the next arrival number (R79). -/
def State.spillToken (s : State) (t : Token) (parked : Bool) : State :=
  let e : Entry := { tok := t, arrive := (s.cell t.cell).arrivals.toNat, parked := parked, res := false, block := none }
  (s.modCell t.cell fun c => { c with arrivals := c.arrivals + 1 }).spill t.cell e

/-- A token that arrives for a PARKED frame (R105, R381): it goes to the park area, or into the matching store marked
parked, where it completes no set, so that R79 accepts it or spills it. -/
def State.parkArrival (s : State) (t : Token) : State :=
  let e : Entry := { tok := t, arrive := (s.cell t.cell).arrivals.toNat, parked := false, res := false, block := none }
  match (s.modCell t.cell fun c => { c with arrivals := c.arrivals + 1 }).parkEntry t.asid t.cell [] e with
  | some (s1, _) => (s1.gcTiles t.cell).progress t.asid
  | none =>
    match s.shareOf t.cell t.asid t.tag with
    | some res => s.enter t res true
    | none => s.spillToken t true

/-- A packet held at the cell's input. -/
def State.holdAtInput (s : State) (t : Token) (why : InputWhy) : State :=
  s.modCell t.cell fun c =>
    { c with input := c.input ++ [{ flight := { toks := [t], tile := none, left := 0, line := none, xfer := none },
                                    why := why }] }

/-- An unformed entry is spilled. -/
def State.spillEntry (s : State) (cell : Nat) (e : Entry) : State :=
  (s.modCell cell fun c => { c with entries := c.entries.filter fun x => x.arrive != e.arrive }).spill cell e

/-- R79 for a token that finds no free entry, of at most n victims: the youngest unformed entry is spilled and the token
accepted, or it is spilled itself, or held at the input. An ordinary token takes no entry of the held share (R78): when
its victim leaves one, the rule is applied again (log entry 63). A victim's SPILL_FULL may park the token's own frame. -/
def State.acceptOver (t : Token) : Nat → State → State
  | 0, s => s.holdAtInput t .entries
  | n + 1, s =>
    if (s.cell t.cell).completes t then
      match youngest (s.cell t.cell).entries with
      | none => s.holdAtInput t .entries
      | some v =>
        let s1 := s.spillEntry t.cell v
        let fr := s1.frameOf t.asid t.tag
        if frameCurrent fr t.tag && fr.st == .parked then s1.parkArrival t
        else
          match s1.shareOf t.cell t.asid t.tag with
          | some res => s1.enter t res
          | none => s1.acceptOver t n
    else s.spillToken t false

/-- R79: the token is accepted where an entry is free for it, else at the cost of others. -/
def State.acceptToken (s : State) (t : Token) : State :=
  match s.shareOf t.cell t.asid t.tag with
  | some res => s.enter t res
  | none => s.acceptOver t ((s.cell t.cell).entries.length + 1)

/-! ### Arrival of one token whose tile, if any, is on the cell (R42, R79, R80, R105, R158) -/

/-- Is any spilled entry of the slot on the cell (R80)? -/
def State.slotSpilled (s : State) (asid cell slot : Nat) : Bool :=
  match s.ctx asid with
  | none => false
  | some x => x.ways.any fun w => w.cell == cell && w.entry.tok.slot == slot

/-- A context trap that names a token's cell, slot and tag, and exposes it (R105, R158). -/
def State.tokenTrap (s : State) (kind : Nat) (t : Token) (tr : Trap) (held : Bool) : State :=
  s.takeTrap t.asid
    { trap := tr, kind := kind, cell := t.cell, slot := t.slot, tag := t.tag, time := s.ns, word := 0,
      ops := [{ port := t.port, lit := false, tok := t, val := (s.cell t.cell).valueOf t }],
      args := if held then
          [{ tok := t, arrive := (s.cell t.cell).arrivals.toNat, parked := false, res := false, block := none }] else [],
      outs0 := [], outs1 := [], op := none, frozen := none, index := none, st := .delivered, pending := true,
      esc := 0 }

/-- An orphan is dropped and counted, and raises ORPHAN where the context enables it (R105). -/
def State.dropOrphan (s : State) (x : Ctx) (t : Token) : State :=
  let s1 := s.countOrphan t.asid
  let s2 := if x.cr.orphanEn then s1.tokenTrap 3 t (trapOf 0x09 0) false else s1
  s2.gcTiles t.cell

/-- From the orphan test on (R105, R42, R381, R80, R79). -/
def State.arriveFrame (s : State) (t : Token) : State :=
  match s.ctx t.asid with
  | none => s.gcTiles t.cell
  | some x =>
    let f := x.frame (tagFrame t.tag)
    if !frameCurrent f t.tag then s.dropOrphan x t
    else if f.st == .parked then s.parkArrival t
    else if ((s.cell t.cell).activeSlot t.asid t.slot).record then s.tokenTrap 1 t tILLEGAL_OP true
    else if s.slotSpilled t.asid t.cell t.slot then s.holdAtInput t .lookup
    else s.acceptToken t

/-- PURGED + n, in the state and in the context record (R157, R351). -/
def State.countPurged (s : State) (asid n : Nat) : State :=
  match s.ctx asid with
  | none => s
  | some x =>
    let p := x.par.purged + BitVec.ofNat 64 n
    (s.setCtx asid { x with par := { x.par with purged := p } }).writeMem (x.cr.base + 240) (leBytes 8 p.toNat)

/-- Arrival (R158 first): equal cgen goes on; the next generation waits for the flip; any other is dropped under the
purge window, or is STRAY_TOKEN code 2. -/
def State.arrive (s : State) (t : Token) : State :=
  match s.ctx t.asid, (s.cell t.cell).part t.asid with
  | some x, some p =>
    if t.cgen = p.cgen then s.arriveFrame t
    else if t.cgen = p.cgen + 1 then s.holdAtInput t .flip
    else if x.purgeWindow then
      (s.countPurged t.asid 1).gcTiles t.cell
    else (s.tokenTrap 3 t (trapOf 0x08 2) false).gcTiles t.cell
  | _, _ => s.gcTiles t.cell

/-! ### Blocks of the tile region that are named no more (R81) -/

/-- Does a stored or waiting token of the context still name the block? -/
def State.blockUsed (s : State) (asid b : Nat) : Bool :=
  let names (e : Entry) : Bool := e.tok.asid == asid && e.block == some b
  match s.ctx asid with
  | none => false
  | some x =>
    x.ways.any (·.block == some b) || x.parked.any (·.block == some b) || x.inbox.any (·.block == some b) ||
      x.traps.any (fun r => r.st != .resolved && r.args.any names) ||
      s.cells.any fun p => p.2.entries.any names || p.2.sets.any fun f => f.args.any names

/-- A block that nothing names any more is free. -/
def State.releaseBlock (s : State) (asid b : Nat) : State := if s.blockUsed asid b then s else s.freeBlock asid b

/-- Blocks that hold tiles of the operands of a record. -/
def TrapRec.blocks (r : TrapRec) : List Nat := r.args.filterMap Entry.block

/-- The park area's entries of a frame and GEN are free, in the state and in memory. -/
def State.clearPark (s : State) (asid frame : Nat) (gen : BitVec 4) : State :=
  match s.ctx asid with
  | none => s
  | some x =>
    let mine (w : Stored) : Bool := w.entry.ofFrame asid frame gen
    let s1 := s.setCtx asid { x with parked := x.parked.filter fun w => !mine w }
    ((x.parked.filter mine).foldl (fun st w => st.writeMem (x.parkAddr w.idx) (zeros 64)) s1).publishPark asid

/-! ### Ending frames (R102, R103) -/

/-- The cells that a sweep is broadcast to: the region's, and those of the homes outside it, where the context's memory may
have registrations and keys (R103, R473). -/
def CtxRec.sweepCells (r : CtxRec) : List Nat := r.region ++ homeCells.filter fun c => !r.region.contains c

/-- The frame goes to ENDING and its sweep starts; a PARKED frame's park-area entries are discarded and its open
records resolved (R102, R387); a handler frame's open record escalates (R384). -/
def State.endFrame (s : State) (asid i : Nat) : State :=
  match s.ctx asid with
  | none => s
  | some x =>
    let f := x.frame i
    let mine (e : Entry) : Bool := e.ofFrame asid i f.gen
    let dead := x.parked.filter fun w => mine w.entry
    let s2 := (dead.filterMap Stored.block).foldl (fun st b => st.releaseBlock asid b) (s.clearPark asid i f.gen)
    let closed := x.traps.filter fun r => openFor r i f.gen
    let s3 := closed.foldl (fun st r => st.publishRec asid { r with st := .resolved }) s2
    let s4 := s3.modCtx asid fun y =>
      { y with
        traps := (y.traps.filter fun r => !openFor r i f.gen).map fun r =>
          if f.record.isSome && r.index == f.record && r.st == .delivered && !r.pending then
            { r with esc := 2, pending := true } else r
        frames := y.frames.map fun p =>
          if p.1 != i && p.2.record.isSome && closed.any (fun r => r.index == p.2.record) then
            (p.1, { p.2 with record := none }) else p
        sweeps := y.sweeps ++ [{ frame := i, gen := f.gen }] }
    let s5 := s4.setFrame asid i { f with st := .ending }
    let s6 : State :=
      { s5 with bcasts := s5.bcasts ++ [{ asid := asid, kind := .sweep i f.gen.toNat, left := x.cr.sweepCells }] }
    let s7 := (closed.flatMap TrapRec.blocks).foldl (fun st b => st.releaseBlock asid b) s6
    (closed.map TrapRec.cell).foldl State.gcTiles s7

/-- KILLF names a frame (R102): it ends when LIVE or PARKED with the GEN. -/
def State.endNamed (s : State) (asid i : Nat) (gen : BitVec 4) : State :=
  match s.ctx asid with
  | none => s
  | some x =>
    let f := x.frame i
    if (f.st == .live || f.st == .parked) && f.gen == gen then s.endFrame asid i else s

/-- FEND or RET of a frame (R102): the frame ends when LIVE with the GEN. -/
def State.endOwn (s : State) (asid i : Nat) (gen : BitVec 4) : State :=
  match s.ctx asid with
  | none => s
  | some x =>
    let f := x.frame i
    if f.st == .live && f.gen == gen then s.endFrame asid i else s

/-! ### Committing and holding a firing -/

/-- One output: side, tag, value; line: the tile is already on the cell. -/
structure Out where
  side : Bool
  tag : Tag
  val : Val
  line : Option Nat
  deriving DecidableEq, Repr

/-- What a committed firing does: its outputs, its flags (R172). -/
structure Commit where
  outs : List Out
  flags : Flags
  deriving DecidableEq, Repr

/-- Lines for every new result tile, lowest run first (R83, R84); none when they do not fit now. -/
def Cell.place (c : Cell) : List Out → Option (Cell × List Out)
  | [] => some (c, [])
  | o :: os =>
    match o.val, o.line with
    | .tile h d, none =>
      match c.freeRun h.lines with
      | none => none
      | some l =>
        let c1 : Cell := { c with tiles := c.tiles ++ [{ line := l, lines := h.lines, data := d }] }
        (c1.place os).map fun (c2, r) =>
          (c2, { o with val := .tile { h with line := l } d, line := some l } :: r)
    | _, _ => (c.place os).map fun (c2, r) => (c2, o :: r)

/-- Lines of each result tile that the outputs need. -/
def newTiles (outs : List Out) : List Nat :=
  outs.filterMap fun o => match o.val, o.line with | .tile h _, none => some h.lines | _, _ => none

/-- Lines the firing's distinct input tiles and its new result tiles need together (R87). -/
def needLines (f : Firing) (need : List Nat) : Nat :=
  let ins := f.ops.foldl (fun (acc : List (Nat × Nat)) o =>
    match o.val with
    | .tile h _ => if acc.any (fun x => x.1 == h.line) then acc else (h.line, h.lines) :: acc
    | _ => acc) []
  (ins.map Prod.snd).sum + need.sum

/-- The token that was accepted or returned last (R427). -/
def lastEntry : List Entry → Option Entry
  | [] => none
  | e :: es =>
    let k (x : Entry) : List Nat := [x.rank.1, x.rank.2, x.arrive]
    match lastEntry es with
    | some x => if decide (k x < k e) then some e else some x
    | none => some e

/-- The record the commit leaves in the cell's ring (R426, R427). -/
def State.fireRec (s : State) (f : Firing) (args : List Entry) : FireRec :=
  match lastEntry args with
  | some e =>
    { tag := f.tag, slot := f.slot, asid := f.asid, ctime := s.ptime, lport := e.tok.port, remote := e.tok.remote,
      inj := e.tok.inj, pcell := e.tok.pcell, pslot := e.tok.pslot, ptime := e.tok.ptime }
  | none =>
    { tag := f.tag, slot := f.slot, asid := f.asid, ctime := s.ptime, lport := .a, remote := false, inj := false,
      pcell := f.cell, pslot := f.slot, ptime := s.ptime }

/-- Fields of the trace FIFO header (R423): WALKID at 32, SKIPS at 28. -/
def State.bumpTrace (s : State) (asid off n : Nat) : State :=
  match s.ctx asid with
  | none => s
  | some x =>
    let a := x.cr.tracebase + off
    if x.cr.tracesize < 64 then s else s.writeNat a n ((s.readNat a n + 1) % 2 ^ (8 * n))

/-- The sillage sample of a committed firing (R428, R429). -/
def State.sample (s : State) (f : Firing) (r : FireRec) : State :=
  match s.ctx f.asid with
  | none => s
  | some x =>
    let w := x.sillage
    if w.getLsbD 63 && (w.extractLsb' 16 11).toNat == f.cell && (w.extractLsb' 0 11).toNat == f.slot then
      let k := x.anchored + 1
      let s1 := s.setCtx f.asid { x with anchored := k }
      if k % max 1 (w.extractLsb' 32 16).toNat = 0 then
        if 16 ≤ x.walks.length then s1.bumpTrace f.asid 28 4
        else
          let id := s.readNat (x.cr.tracebase + 32) 2
          let s2 := s1.bumpTrace f.asid 32 2
          s2.modCtx f.asid fun y =>
            { y with walks := y.walks ++ [{ id := id, step := 0, depth := (w.extractLsb' 48 8).toNat, cell := f.cell,
                                            fr := r, ambig := false }] }
      else s1
    else s

/-- The set leaves the cell, its record is written, the counts rise (R76, R159, R426). -/
def State.retire (s : State) (f : Firing) : State :=
  let args := (((s.cell f.cell).findSet f.sid).map FSet.args).getD []
  let r := s.fireRec f args
  let s1 := s.modCell f.cell fun c =>
    { c.dropSet f.sid with
      records := (c.records ++ [r]).drop (c.records.length + 1 - 1024)
      claim := if c.claim == some f.sid then none else c.claim
      fired := put f.asid ((look f.asid c.fired).getD 0 + 1) c.fired }
  let s2 := s1.modCtx f.asid fun x => { x with fired := x.fired + 1 }
  (s2.sample f r).progress f.asid

/-- The generation of a context on a cell; the dispatcher's while its cells are released (R413). -/
def State.cgenAt (s : State) (cell asid : Nat) : BitVec 4 :=
  (((s.cell cell).part asid).map Part.cgen).getD (((s.ctx asid).map Ctx.cgen).getD 0)
def Firing.sender (f : Firing) (s : State) : Sender :=
  { asid := f.asid, cell := f.cell, slot := f.slot, cgen := s.cgenAt f.cell f.asid, inj := false }

/-- Tokens of a firing whose frame has ended: orphans, whatever frame their tags name (R103, R105, R144). -/
def State.orphanOuts (s : State) (f : Sender) (tags : List Tag) (v : Val) (ds : List Dest) : State :=
  match s.ctx f.asid with
  | none => s
  | some x =>
    tags.foldl (fun st t => ds.foldl (fun st2 d =>
      st2.dropOrphan x (st2.token f t v (destTarget d f.cell t) d.slot.toNat (portOf d.port))) st) s

/-- One value to a side under its tags; live: the firing's frame had not ended at its commit. -/
def State.sendSide (s : State) (f : Sender) (live : Bool) (tags : List Tag) (v : Val) (ds : List Dest) : State :=
  if live then s.sendTagged f tags v ds else s.orphanOuts f tags v ds

/-- The destinations of an output's side. -/
def Firing.dests (f : Firing) (o : Out) : List Dest := if o.side then f.outs1 else f.outs0

/-- The line of the cell at which a value's tile lies. -/
def Val.line : Val → Option Nat
  | .tile h _ => some h.line
  | .scalar _ _ _ => none

/-- An output joins those that name the same tile of its cell. -/
def joinOut (o : Out) (gs : List (List Out)) : List (List Out) :=
  match gs.findIdx? fun g => g.any fun p => p.val.line.isSome && p.val.line == o.val.line with
  | some i => gs.modify i (o :: ·)
  | none => [o] :: gs

/-- Outputs that name one tile leave together: its data crosses once to each cell (R84). Those of a firing whose frame had
ended are orphans. -/
def State.sendGroup (s : State) (f : Firing) (live : Bool) (g : List Out) : State :=
  let from_ := f.sender s
  if live then
    let toks := g.flatMap fun o => s.tokensTo from_ o.tag o.val (f.dests o)
    g.foldl (fun st o => st.sendFar from_ o.tag o.val (f.dests o))
      (g.head?.elim s fun o => s.sendTokens from_ o.val toks)
  else g.foldl (fun st o => st.orphanOuts from_ [o.tag] o.val (f.dests o)) s

/-- The outputs of a firing to their sides. -/
def State.sendOuts (s : State) (f : Firing) (live : Bool) (outs : List Out) : State :=
  (outs.foldr joinOut []).foldl (fun st g => st.sendGroup f live g) s

/-- The firing's frame is an activation still running. -/
def State.runsIn (s : State) (f : Firing) : Bool := frameCurrent (s.frameOf f.asid f.tag) f.tag

/-- A destination through a remote port table entry that is not outbound (R462). -/
def State.badRemote (s : State) (f : Firing) (outs : List Out) : Bool :=
  outs.any fun o => (if o.side then f.outs1 else f.outs0).any fun d =>
    d.mode == .remote && (s.rpt f.asid (d.cell.toNat % 256)).state != 1

/-- The age of a set, by the keys of R90 from the third on. -/
def FSet.age (x : FSet) : List Nat := [x.formedAt, x.slot, x.asid, x.tag.toNat]

/-- The firing does not start: its result lines cannot be reserved. The oldest such set of the cell holds the space claim
(R87), and sel stays, so that the unit looks further. -/
def State.noSpace (s : State) (f : Firing) (need : List Nat) : State :=
  s.modCell f.cell fun c =>
    let older : Bool :=
      match c.findSet f.sid, c.claim.bind c.findSet with
      | some x, some y => decide (x.age < y.age)
      | _, _ => true
    if older then { c with claim := some f.sid, claimNeed := need } else c

/-- Runs for tiles of these lines, lowest first, all reserved; none when they do not fit now. -/
def Cell.fits (c : Cell) (need : List Nat) : Bool :=
  (need.foldl (fun (r : Option Cell) n =>
    r.bind fun x => (x.freeRun n).map fun l => { x with reserved := x.reserved ++ [(l, n)] }) (some c)).isSome

/-- Lines for a firing's result tiles can be reserved now: they fit, and no other set holds the claim (R84, R87). -/
def Cell.canReserve (c : Cell) (sid : Nat) (need : List Nat) : Bool :=
  need.isEmpty || (!c.claim.any (· != sid) && c.fits need)

/-- A destination through a remote port table entry that is not outbound freezes the sender (R369, R462); a poisoned line met
in reading the entry is logged (R389). -/
def State.raiseRemote (s : State) (f : Firing) (ds : List Dest) : State :=
  State.raiseCause
    (match ds.find? fun d => d.mode == .remote && (s.rpt f.asid (d.cell.toNat % 256)).state != 1 with
     | some d => s.noteRpt f.asid (d.cell.toNat % 256) f.cell f.slot
     | none => s) f 2 0

/-- The firing commits: result tiles are placed, the set is retired, the flags are ORed and the outputs leave (R76).
more is what else the firing does in the same commit, before its outputs leave. -/
def State.commitWith (s : State) (f : Firing) (c : Commit) (more : State → State) : State :=
  let need := newTiles c.outs
  if 2048 < needLines f need then s.raise f tBAD_OPERAND
  else
    match if (s.cell f.cell).canReserve f.sid need then (s.cell f.cell).place c.outs else none with
    | none => s.noSpace f need
    | some (cell1, outs) =>
      let live := s.runsIn f
      if live && s.badRemote f c.outs then s.raiseRemote f (c.outs.flatMap f.dests)
      else
        let s1 := (s.setCell f.cell cell1).orFlags f.asid f.tag c.flags
        let s2 := more (s1.retire f)
        { ((s2.sendOuts f live outs).gcTiles f.cell) with sel := none }

def State.commit (s : State) (f : Firing) (c : Commit) : State := s.commitWith f c id

/-- A firing traps once it has been started: the lines of the results it would have made are reserved first (R84, R87,
R90), and a set that can never have them raises BAD_OPERAND, which comes before every other trap of a firing (R376). -/
def State.fail (s : State) (f : Firing) (t : Trap) : State :=
  if t.need.isEmpty then s.raise f t
  else if 2048 < needLines f t.need then s.raise f tBAD_OPERAND
  else if (s.cell f.cell).canReserve f.sid t.need then s.raise f { t with need := [] }
  else s.noSpace f t.need

/-- The firing waits outside its unit, with what it read at selection (R118). -/
def State.hold (s : State) (f : Firing) (h : Hold) : State :=
  { (s.modCell f.cell fun c => c.modSet f.sid fun x =>
      { x with hold := some h, snap := some f, since := s.orders }) with
    sel := none, orders := s.orders + 1 }

/-- A held set's firing as it stands: its tiles lie where its entries name them, and none in a block, which the cell must
bring back first (R87 step 4). -/
def FSet.firing (x : FSet) : Option Firing :=
  if x.args.any fun e => e.block.isSome then none
  else
    x.snap.map fun f =>
      { f with ops := f.ops.zipIdx.map fun p =>
          match x.args[p.2]?, p.1.val with
          | some e, .tile h d => { p.1 with tok := e.tok, val := .tile { h with line := e.tok.line.getD h.line } d }
          | _, _ => p.1 }

/-- The firing of a held set of a cell. -/
def Cell.heldFiring (c : Cell) (sid : Nat) : Option Firing := (c.findSet sid).bind FSet.firing

/-- May a held firing of the context commit on the cell: no drydown stop has reached the cell (R411, R412)? -/
def Cell.mayCommit (c : Cell) (asid : Nat) : Bool := !c.stops.contains asid

/-- The set is ready again, to be selected anew. -/
def State.unhold (s : State) (cell sid : Nat) : State :=
  s.modCell cell fun c => c.modSet sid fun x => { x with hold := none, snap := none }

/-! ### Stored tokens coming back (R80, R386) -/

/-- Stored entries in ascending arrival order. -/
def insertStored (w : Stored) : List Stored → List Stored
  | [] => [w]
  | v :: t => if w.entry.arrive ≤ v.entry.arrive then w :: v :: t else v :: insertStored w t
def sortStored (l : List Stored) : List Stored := l.foldr insertStored []

/-- A token whose tile lay in block b, once the tile is on the cell at line l again. -/
def Entry.rejoin (asid b l : Nat) (e : Entry) : Entry :=
  if e.tok.asid == asid && e.block == some b then { e with tok := e.tok.withLine l, block := none } else e

/-- The tile of block b is on the cell at line l: every token there that named the block names the line, so that the cell
keeps one copy (R84). -/
def State.rejoin (s : State) (asid cell b l : Nat) : State :=
  let s1 := s.modCell cell fun c =>
    { c with
      entries := c.entries.map (Entry.rejoin asid b l)
      sets := c.sets.map fun f => { f with args := f.args.map (Entry.rejoin asid b l) } }
  let ws := ((s.ctx asid).map fun x => x.ways.filter fun w => w.cell == cell && w.block == some b).getD []
  let s2 := ws.foldl (fun st w =>
    st.setWay asid { w with entry := { w.entry with tok := w.entry.tok.withLine l }, block := none }) s1
  s2.releaseBlock asid b

/-- The tile of an entry that lies in a block is brought back to lines of its cell; none while a space claim stands or no
run is free (R87). m lists the blocks brought back in the same action and their lines. -/
def State.seatTile (s : State) (asid cell : Nat) (m : List (Nat × Nat)) (e : Entry) :
    Option (Entry × List (Nat × Nat) × State) :=
  match e.block, Handle.ofWord e.tok.payload with
  | some b, some h =>
    match look b m with
    | some l => some ({ e with tok := e.tok.withLine l, block := none }, m, s)
    | none =>
      if (s.cell cell).claim.isSome then none
      else
        ((s.cell cell).freeRun h.lines).map fun l =>
          let s1 := s.noteBlock asid cell e.tok.slot b h.bytes
          let s2 := s1.modCell cell fun c =>
            { c with tiles := c.tiles ++ [{ line := l, lines := h.lines, data := s.loadBlock asid b h.bytes }] }
          ({ e with tok := e.tok.withLine l, block := none }, put b l m, s2.rejoin asid cell b l)
  | _, _ => some ({ e with block := none }, m, s)

/-- An entry with its arrival number joins the matching store in a share of it, and a set may form; one marked parked
forms none. -/
def State.seatEntry (s : State) (cell : Nat) (e : Entry) (res : Bool) : State :=
  s.modCell cell fun c =>
    Cell.form { c with entries := c.entries ++ [{ e with res := res }] } s.dev.cycles e.tok.asid e.tok.slot e.tok.tag

/-- A stored token comes back: none when no entry is free for it, or no lines for its tile. -/
def State.comeBack (s : State) (cell : Nat) (m : List (Nat × Nat)) (e : Entry) : Option (State × List (Nat × Nat)) := do
  let res ← s.shareOf cell e.tok.asid e.tok.tag
  let (e1, m1, s1) ← s.seatTile e.tok.asid cell m e
  pure (s1.seatEntry cell e1 res, m1)

/-- Has the cell a spilled token of the entry's key that arrived before it? -/
def State.olderSpilled (s : State) (cell : Nat) (e : Entry) : Bool :=
  match s.ctx e.tok.asid with
  | none => false
  | some x => x.ways.any fun w =>
      w.cell == cell && w.entry.hasKey e.tok.asid e.tok.slot e.tok.tag && decide (w.entry.arrive < e.arrive)

/-- A token of a frame that is LIVE again returns (R386). One that the cell cannot take now, or that would overtake a
spilled token of its key, is spilled, and comes back by R80. If a spill has parked the frame again, it parks again.
One for a slot that has become a record raises nothing (log entry 15). -/
def State.returnParked (asid : Nat) (p : State × List (Nat × Nat)) (x : Nat × Entry) : State × List (Nat × Nat) :=
  let m := p.2
  let cell := x.1
  let e0 := x.2
  let s := p.1.modCell cell fun c => { c with entries := c.entries.filter fun e => !(e.parked && e.arrive == e0.arrive) }
  -- its tile may have come back with another token
  let e : Entry := match e0.block.bind fun b => look b m with
    | some l => { e0 with tok := e0.tok.withLine l, block := none }
    | none => e0
  if (s.frameOf asid e.tok.tag).st == .parked then
    match s.parkEntry asid cell [] e, s.shareOf cell asid e.tok.tag with
    | some (s1, _), _ => (s1, m)
    | none, some res =>
      (s.modCell cell fun c => { c with entries := c.entries ++ [{ e with parked := true, res := res }] }, m)
    | none, none => (s.spill cell { e with parked := true }, m)
  else
    let e := { e with parked := false }
    let back := if s.olderSpilled cell e then none else s.comeBack cell m { e with rank := (s.dev.cycles, 0) }
    back.getD (s.spill cell e, m)

/-- Tokens of cells in ascending arrival order. -/
def insertArrival (x : Nat × Entry) : List (Nat × Entry) → List (Nat × Entry)
  | [] => [x]
  | y :: t => if x.2.arrive ≤ y.2.arrive then x :: y :: t else y :: insertArrival x t
def sortArrival (l : List (Nat × Entry)) : List (Nat × Entry) := l.foldr insertArrival []

/-- The tokens of a frame and GEN that are parked, in the park area or on their cells, with their cells. -/
def State.parkedTokens (s : State) (asid frame : Nat) (gen : BitVec 4) : List (Nat × Entry) :=
  match s.ctx asid with
  | none => []
  | some x =>
    ((x.parked.filter fun w => w.entry.ofFrame asid frame gen).map fun w => (w.cell, { w.entry with block := w.block })) ++
      x.cr.region.flatMap fun c =>
        ((s.cell c).entries.filter fun e => e.parked && e.ofFrame asid frame gen).map fun e => (c, e)

/-- Spilled tokens of a frame lose their park mark. -/
def State.unmarkWays (s : State) (asid frame : Nat) (gen : BitVec 4) : State :=
  s.modCtx asid fun x =>
    { x with ways := x.ways.map fun w =>
        if w.entry.ofFrame asid frame gen then { w with entry := { w.entry with parked := false } } else w }

/-- The park area's entries of a frame and GEN, as they are read (R389). -/
def State.notePark (s : State) (asid i : Nat) (gen : BitVec 4) : State :=
  match s.ctx asid with
  | none => s
  | some x => (x.parked.filter fun w => w.entry.ofFrame asid i gen).foldl (fun st w => st.noteStored asid (x.parkAddr w.idx) w) s

/-- The frame becomes LIVE and its parked tokens return in ascending arrival order. -/
def State.unpark (s : State) (asid i : Nat) : State :=
  match s.ctx asid with
  | none => s
  | some x =>
    let f := x.frame i
    if f.st == .parked then
      let back := sortArrival (s.parkedTokens asid i f.gen)
      let s1 := ((s.notePark asid i f.gen).setFrame asid i { f with st := .live }).clearPark asid i f.gen
      let s2 : State := s1.unmarkWays asid i f.gen
      -- sets that RESUME.REDO has re-formed may start
      let s3 : State :=
        { s2 with cells := s2.cells.map fun p =>
            if x.cr.region.contains p.1 then
              (p.1, { p.2 with
                sets := p.2.sets.map fun q =>
                  if q.ofFrame asid i f.gen && q.hold == some .parked then { q with hold := none } else q })
            else p }
      (back.foldl (State.returnParked asid) (s3, [])).1
    else s

/-- A record is resolved: STATE 3 in memory, its index free, and no handler frame holds it any more; and the frame goes
LIVE when its last open record is closed (R379, R386). -/
def State.closeRec (s : State) (asid : Nat) (r : TrapRec) : State :=
  let s1 := s.publishRec asid { r with st := .resolved }
  let s2 := s1.modCtx asid fun x =>
    { x with
      traps := x.traps.filter fun q => q.index != r.index || q.index == none
      frames := x.frames.map fun p =>
        if p.2.record.isSome && p.2.record == r.index then (p.1, { p.2 with record := none }) else p }
  let s3 := r.blocks.foldl (fun st b => st.releaseBlock asid b) s2
  if r.kind != 3 && !(((s3.ctx asid).map fun x => x.traps.any fun q => openFor q r.frame r.gen).getD false) then
    (s3.unpark asid r.frame).gcTiles r.cell
  else s3.gcTiles r.cell

end Sys2Proof.Machine
end

