-- ==== Sys2Proof/Machine/Flags.lean ====
section
/-! DEFINITION. Flags of a firing: EOS and poison of its outputs (R116, R179), the sticky flags of its elements
(R172), and FP_EXCEPT (R173). -/

namespace Sys2Proof.Machine

/-- The OR of the EOS flags of all tokens the firing consumed; a literal carries none (R116, R179). -/
def Firing.eos (f : Firing) : Bool := f.ops.any fun o => !o.lit && o.val.eos

/-- Is any operand a poisoned token? -/
def Firing.poisoned (f : Firing) : Bool := f.ops.any fun o => !o.lit && o.val.poisoned

/-- PZ when one of the named ports holds a poisoned token (R116). -/
def Firing.pz (f : Firing) (ps : List Port) : Flags :=
  flagIf (f.ops.any fun o => ps.contains o.port && !o.lit && o.val.poisoned) fPZ

/-- The flags of elements, by element index. -/
abbrev ElemFlags := List (Nat × Flags)

def orAll (l : ElemFlags) : Flags := l.foldl (fun a p => a ||| p.2) 0

/-- The flags a context's FPEN enables (R173, R351): bit 0 IV, bit 1 DZ, bit 2 OF. -/
def enabledFlags (fpen : BitVec 8) : Flags :=
  flagIf (fpen.getLsbD 0) fIV ||| flagIf (fpen.getLsbD 1) fDZ ||| flagIf (fpen.getLsbD 2) fOF

/-- The CODE of FP_EXCEPT for raised enabled flags (R173). -/
def fpCode (f : Flags) : Nat :=
  (if f &&& fIV != 0 then 1 else 0) + (if f &&& fDZ != 0 then 2 else 0) + (if f &&& fOF != 0 then 4 else 0)

/-- The lowest index at which one of the flags arose. -/
def firstElem (en : Flags) : ElemFlags → Option Nat
  | [] => none
  | (i, f) :: t =>
    if f &&& en != 0 then
      match firstElem en t with
      | some j => some (min i j)
      | none => some i
    else firstElem en t

/-- The whole firing's flags, or FP_EXCEPT with its code, element and flags (R173). -/
def fpCheck (fpen : BitVec 8) (l : ElemFlags) : Ex Flags :=
  let all := orAll l
  let en := enabledFlags fpen
  match firstElem en l with
  | none => .ok all
  | some i => .error { trapOf 0x0D (fpCode (all &&& en)) with elem := i, flags := all }

end Sys2Proof.Machine
end

