-- ==== Sys2Proof/Machine/Operands.lean ====
section
/-! DEFINITION. Operands of a firing: port kinds (R47), literals (R32), and the frame in which every operator that
computes from its operands alone runs (R376). -/

namespace Sys2Proof.Machine

/-- The literal payload made from IMM (R32); a descriptor literal of BEXT, BINS or VSLIC is built as z32 (R188,
R204). -/
def literal (opc : BitVec 8) (w : OpFields) : Word64 :=
  let zext : Word64 := w.imm.zeroExtend 64
  if opc = 0x33#8 || opc = 0x69#8 || (opc = 0x34#8 && w.lit == some .c) then zext
  else
    match w.fmt with
    | .s8 | .s16 | .s32 | .s64 => w.imm.signExtend 64
    | .f16 | .bf16 => (w.imm.extractLsb' 0 16).zeroExtend 64
    | _ => zext

def Firing.opnd (f : Firing) (p : Port) : Option Opnd := f.ops.find? fun o => o.port == p
/-- The value on a port; an absent port reads as an unpoisoned zero. -/
def Firing.val (f : Firing) (p : Port) : Val := ((f.opnd p).map Opnd.val).getD (.scalar 0 false false)
/-- The 64-bit payload on a port, as it stands. -/
def Firing.word' (f : Firing) (p : Port) : Word64 := (f.val p).word
/-- The payload as arithmetic reads it (R174). -/
def Firing.num (f : Firing) (p : Port) : Nat := (f.val p).stand.toNat
def Firing.isPoisoned (f : Firing) (p : Port) : Bool := (f.val p).poisoned
/-- The tile on a port. -/
def Firing.tile (f : Firing) (p : Port) : Handle × List Byte :=
  match f.val p with
  | .tile h d => (h, d)
  | .scalar _ _ _ => (default, [])

/-- Does a port take a tile? -/
def kindAt (tileA tileB tileC : Bool) : Port → Bool
  | .a => tileA | .b => tileB | .c => tileC

/-- R47: each port present has its kind, tile or scalar. -/
def checkKinds (f : Firing) (tileA tileB tileC : Bool) : Ex Unit :=
  trapIf (f.ops.any fun o => o.val.isTile != kindAt tileA tileB tileC o.port) tBAD_OPERAND

/-- POISON with the code when the port holds a poisoned token (R388). -/
def checkPoison (f : Firing) (p : Port) (code : Nat) : Ex Unit := trapIf (f.isPoisoned p) (tPOISON code)

/-- What a firing sees of its context. -/
structure Env where
  ret : Tag
  fpen : BitVec 8
  seed : Word64
  caps : BitVec 8
  frame : Frame
  handler : Bool
  /-- a value no rule states (log entry 8) -/
  free : Word64

def State.env (s : State) (f : Firing) : Env :=
  let fr := s.frameOf f.asid f.tag
  let free := Config.freeWord f.word f.tag (f.ops.map fun o => o.val.word)
  match s.ctx f.asid with
  | some x =>
    { ret := fr.rettag, fpen := x.par.fpen, seed := x.par.seed, caps := x.par.caps, frame := fr,
      handler := s.isHandler f.asid f.tag, free := free }
  | none => { ret := 0, fpen := 0, seed := 0, caps := 0, frame := fr, handler := false,
              free := free }

/-- The tag of every output (R45): TA applied to the input tag. -/
def outTag (w : OpFields) (f : Firing) (e : Env) : Ex Tag :=
  tagAct w.ta (w.tw.toNat + 1) f.tag ((f.opnd .b).map Opnd.val) e.ret

/-- Rounding as MOD says, with the element's random bits (R34, R170). -/
def rounding (w : OpFields) (f : Firing) (e : Env) : Round :=
  { rm := Rm.ofMod w.mod, ftz := w.mod.getLsbD 3, rnd := srRand e.seed f.tag f.slot }

/-- A result: side, value, and the line of an input tile that is passed on. -/
structure Res where
  side : Bool
  val : Val
  line : Option Nat
  deriving DecidableEq, Repr

/-- One new value on the D0 side (of a single-output operator, on every destination, R39), or on the D1 side. -/
def res0 (v : Val) : Res := { side := false, val := v, line := none }
def res1 (v : Val) : Res := { side := true, val := v, line := none }
/-- An input's value passed on: a tile keeps its lines (R116). -/
def copyOf (v : Val) (side eos : Bool) : Res :=
  { side := side, val := v.withEos eos, line := match v with | .tile h _ => some h.line | _ => none }

/-- The outputs under one tag. -/
def Commit.ofRes (tag : Tag) (rs : List Res) (fl : Flags) : Commit :=
  { outs := rs.map fun r => { side := r.side, tag := tag, val := r.val, line := r.line }, flags := fl }

/-- A trap that comes before the computation carries the flags that the computation would have left (R377). -/
def tagFlags {α : Type} (t : Ex α) (body : Ex (List Res × ElemFlags)) : Ex α :=
  match t, body with
  | .error r, .ok (_, fl) => .error { r with flags := orAll fl }
  | .error r, .error q => .error { r with flags := q.flags }
  | x, _ => x

/-- A trap of a firing that had lines reserved for its results (R84), of so many lines each. -/
def withNeed {α : Type} (need : List Nat) : Ex α → Ex α
  | .error t => .error { t with need := if t.need.isEmpty then need else t.need }
  | .ok x => .ok x

/-- Lines of each new result tile. -/
def resLines (body : Ex (List Res × ElemFlags)) : List Nat :=
  match body with
  | .ok (rs, _) => rs.filterMap fun r => match r.val, r.line with | .tile h _, none => some h.lines | _, _ => none
  | .error t => t.need

/-- The order of R376: kinds, then what pre finds (BAD_OPERAND, POISON), the tag action, the computation, and
FP_EXCEPT when fp is set. -/
def evalOp (w : OpFields) (f : Firing) (e : Env) (kinds : Bool × Bool × Bool) (pre : Ex Unit) (fp : Bool)
    (body : Ex (List Res × ElemFlags)) : Ex Commit := do
  checkKinds f kinds.1 kinds.2.1 kinds.2.2
  withNeed (resLines body) do
    pre
    let tag ← tagFlags (outTag w f e) body
    let (rs, fl) ← body
    let flags ← if fp then fpCheck e.fpen fl else pure (orAll fl)
    pure (Commit.ofRes tag rs flags)

/-- A firing that commits what it computed or traps. -/
def State.settle (s : State) (f : Firing) : Ex Commit → State
  | .ok c => s.commit f c
  | .error t => s.fail f t

/-- The selected firing evaluated and settled; with no set selected nothing fires. -/
def runOp (s : State) (g : Firing → Env → Ex Commit) : Host.Outcome State Fault Refusal :=
  match s.sel with
  | none => .next s
  | some f => .next (s.settle f (g f (s.env f)))

/-- The selected firing acts on the state itself. -/
def runFiring (s : State) (g : Firing → State) : Host.Outcome State Fault Refusal :=
  match s.sel with
  | none => .next s
  | some f => .next (g f)

end Sys2Proof.Machine
end

