-- ==== Sys2Proof/Machine/Arrivals.lean ====
section
/-! DEFINITION. Tokens and tiles arriving at cells, packets held at inputs, spilled entries coming back, the space
claim, and the stall watchdog with its dump (R76 to R98, R158). -/

namespace Sys2Proof.Machine

/-! ### Tokens -/

/-- A context whose cells have been released, or are being saved: its tokens wait for the inbox (R413). -/
def State.away (s : State) (asid : Nat) : Bool :=
  match s.ctx asid with
  | some x => x.dry == .saving || x.dry == .saved || x.dry == .resuming || x.dry == .restoring
  | none => false

/-- TOKEN_ARRIVAL: the n-th token in flight, whose tile if any is on its cell, reaches it. -/
def execTokenArrival (n : Nat) (s : State) : Host.Outcome State Fault Refusal :=
  .next (match s.net[n]? with
    | some { toks := [t], tile := none, .. } =>
      if s.away t.asid then s else (State.arrive { s with net := s.net.eraseIdx n } t).progress t.asid
    | _ => s)

/-- A packet leaves the input. -/
def State.takeInput (s : State) (cell n : Nat) : State :=
  s.modCell cell fun c => { c with input := c.input.eraseIdx n }

/-- Can the cell take the token in other than by holding it (R79)? A token whose frame has ended or is PARKED leaves the
input (R105, R381). -/
def State.canAccept (s : State) (t : Token) : Bool :=
  let c := s.cell t.cell
  (s.shareOf t.cell t.asid t.tag).isSome || !c.completes t || c.entries.any (fun e => !e.res || s.isHandler t.asid t.tag) ||
    (s.frameOf t.asid t.tag).st != .live || !frameCurrent (s.frameOf t.asid t.tag) t.tag

/-- Lines of the tile that a flight carries. -/
def Flight.lines (f : Flight) : Nat :=
  match f.toks.head?.bind fun t => Handle.ofWord t.payload with
  | some h => h.lines
  | none => 0
def Flight.cell (f : Flight) : Nat := (f.toks.head?.map Token.cell).getD 0
def Flight.asid (f : Flight) : Nat := (f.toks.head?.map Token.asid).getD 0

/-- The run a first packet reserves (R83): none while a space claim stands, 16 tiles are in assembly, or no run fits. -/
def Cell.assemble (c : Cell) (n : Nat) : Option Nat :=
  if c.claim.isSome || decide (16 ≤ c.reserved.length) then none else c.freeRun n

/-- A tile all of whose packets have arrived lies on the cell, and its tokens arrive in one cycle (R83, R84). -/
def State.assembled (s : State) (f : Flight) (l : Nat) : State :=
  let c := f.cell
  let s1 := s.modCell c fun x =>
    { x with reserved := x.reserved.filter fun r => r.1 != l
             tiles := x.tiles ++ [{ line := l, lines := f.lines, data := f.tile.getD [] }] }
  -- the tokens that share the tile keep it on the cell while each arrives in turn
  let toks := f.toks.map fun t => t.withLine l
  let s2 : State := { s1 with net := s1.net ++ toks.map fun t =>
    { toks := [t], tile := none, left := 0, line := none, xfer := none } }
  toks.foldl (fun st t =>
    match st.net.findIdx? fun g => g.toks == [t] && g.tile.isNone with
    | some i => State.arrive { st with net := st.net.eraseIdx i } t
    | none => st) s2

/-- One packet of the flight, let in at line l, arrives; with the last, the tile is assembled. -/
def State.packetAt (s : State) (n : Nat) (f : Flight) (l : Nat) : State :=
  if f.left ≤ 1 then State.assembled { s with net := s.net.eraseIdx n } f l
  else { s with net := s.net.set n { f with left := f.left - 1, line := some l } }

/-- A first packet held at its cell's input. -/
def State.holdFlight (s : State) (n : Nat) (f : Flight) (why : InputWhy) : State :=
  State.modCell { s with net := s.net.eraseIdx n } f.cell fun x => { x with input := x.input ++ [{ flight := f, why := why }] }

/-- A first packet that passed the comparison of generations reserves the run, or is held at the input (R83). -/
def State.firstPacket (s : State) (n : Nat) (f : Flight) : State :=
  match (s.cell f.cell).assemble f.lines with
  | some l => (s.modCell f.cell fun x => { x with reserved := x.reserved ++ [(l, f.lines)] }).packetAt n f l
  | none => s.holdFlight n f .space

/-- One packet of the flight arrives. The first is compared with the cell's generation before any other test: a tile of
the next one waits for the flip, and one of any other is dropped with its tokens (R158). -/
def State.packet (s : State) (n : Nat) (f : Flight) : State :=
  let s1 : State := match f.line with
    | some l => s.packetAt n f l
    | none =>
      match (s.cell f.cell).part f.asid with
      | none => { s with net := s.net.eraseIdx n }
      | some p =>
        if f.toks.any (fun t => t.cgen == p.cgen + 1) then s.holdFlight n f .flip
        else if f.toks.any (fun t => t.cgen != p.cgen) then
          f.toks.foldl State.arrive { s with net := s.net.eraseIdx n }
        else s.firstPacket n f
  s1.progress f.asid

/-- PACKET_ARRIVAL: one packet of the n-th tile in flight. -/
def execPacketArrival (n : Nat) (s : State) : Host.Outcome State Fault Refusal :=
  .next (match s.net[n]? with
    | some f => if f.tile.isNone || s.away f.asid then s else s.packet n f
    | none => s)

/-- OUTGOING_TRANSFER_DONE (R85): the sender's tile is no longer read. -/
def execOutgoingTransferDone (n : Nat) (s : State) : Host.Outcome State Fault Refusal :=
  .next (match s.xfers[n]? with
    | none => s
    | some x =>
      -- packets behind a first packet that has not been let in have not left
      let waits (f : Flight) : Bool := f.xfer == some x.id && f.line.isNone && decide (1 < f.left)
      if s.net.any waits || s.cells.any (fun p => p.2.input.any fun h => waits h.flight) then s
      else State.gcTiles { s with xfers := s.xfers.eraseIdx n } x.cell)

/-- HELD_TOKEN_ACCEPT (R79, R83): the n-th packet held at the input is taken in when that is possible now. -/
def execHeldTokenAccept (cell n : Nat) (s : State) : Host.Outcome State Fault Refusal :=
  .next (match (s.cell cell).input[n]? with
    | none => s
    | some h =>
      if s.away h.flight.asid then s
      else match h.why, h.flight.toks with
      | .entries, [t] =>
        if s.canAccept t then ((s.takeInput cell n).arriveFrame t).progress t.asid else s
      | .space, _ =>
        if ((s.cell cell).assemble h.flight.lines).isSome then
          let s1 := s.takeInput cell n
          State.packet { s1 with net := s1.net ++ [h.flight] } s1.net.length h.flight
        else s
      | _, _ => s)

/-- CGEN_HOLD_RELEASE (R158): a packet held for a flip is compared again once its cell has flipped. -/
def execCgenHoldRelease (cell n : Nat) (s : State) : Host.Outcome State Fault Refusal :=
  .next (match (s.cell cell).input[n]? with
    | none => s
    | some h =>
      if s.away h.flight.asid || h.why != .flip || h.flight.toks.any (fun t => t.cgen == s.cgenAt cell t.asid + 1) then s
      else
        let s1 := s.takeInput cell n
        match h.flight.tile, h.flight.toks with
        | none, [t] => (s1.arrive t).progress t.asid
        | _, _ => State.packet { s1 with net := s1.net ++ [h.flight] } s1.net.length h.flight)

/-! ### Spilled entries (R80) -/

/-- A way as the entry that returns from it now (R427). -/
def State.returning (s : State) (w : Stored) : Entry := { w.entry with block := w.block, rank := (s.dev.cycles, 0) }

/-- One way comes back to its cell with its arrival number; none when no entry is free for it, or no lines for its tile. -/
def State.bringBack (s : State) (asid : Nat) (w : Stored) : Option State :=
  (((s.noteWay asid w).freeWayAt asid w.idx).comeBack w.cell [] (s.returning w)).map fun p => (p.1.gcTiles w.cell).progress asid

/-- Room made for a returning entry: the youngest unformed entry of another key is spilled; none when there is none. -/
def State.makeRoom (s : State) (cell : Nat) (e : Entry) : Option State :=
  (youngest ((s.cell cell).entries.filter fun x => !x.hasKey e.tok.asid e.tok.slot e.tok.tag)).map (s.spillEntry cell)

/-- Spilled entries of a key, in ascending arrival order; those marked parked are not among them (R381). -/
def State.spilledKey (s : State) (t : Token) : List Stored :=
  match s.ctx t.asid with
  | none => []
  | some x => sortStored (x.ways.filter fun w => w.cell == t.cell && w.entry.hasKey t.asid t.slot t.tag)

/-- Room for a returning entry where its cell has no entry free for it. -/
def State.roomFor (s : State) (w : Stored) : State :=
  if (s.shareOf w.cell w.entry.tok.asid w.entry.tok.tag).isSome then s else (s.makeRoom w.cell w.entry).getD s

/-- At most n spilled entries of a token's key, in ascending arrival order, brought back as far as room allows. Making
room may park the key's own frame (R82), and then none of them is left to return. -/
def State.bringKey (t : Token) : Nat → State → State
  | 0, s => s
  | n + 1, s =>
    match (s.spilledKey t).head? with
    | none => s
    | some w =>
      let s1 := s.roomFor w
      match if (s1.spilledKey t).contains w then s1.bringBack t.asid w else none with
      | some s2 => s2.bringKey t n
      | none => s1

/-- SPILL_LOOKUP: the lookup of the n-th held packet is complete. Every spilled token of its key is back before it is
queued. -/
def execSpillLookup (cell n : Nat) (s : State) : Host.Outcome State Fault Refusal :=
  .next (match (s.cell cell).input[n]? with
    | none => s
    | some h =>
      if s.away h.flight.asid then s
      else match h.why, h.flight.toks with
      | .lookup, [t] =>
        let s1 := s.bringKey t (s.spilledKey t).length
        if (s1.spilledKey t).isEmpty then
          let s2 := s1.takeInput cell n
          let fr := s2.frameOf t.asid t.tag
          -- the frame may have ended or parked meanwhile (R105, R381)
          if frameCurrent fr t.tag && fr.st == .live then s2.acceptToken t else s2.arriveFrame t
        else s1
      | _, _ => s)

/-- The spilled entries of a cell, of every context on it: context and way. Those of PARKED frames stay (R381). -/
def State.spilledOn (s : State) (cell : Nat) : List (Nat × Stored) :=
  s.ctxs.flatMap fun p =>
    if s.away p.1 then [] else (p.2.ways.filter fun w => w.cell == cell && !w.entry.parked).map fun w => (p.1, w)

/-- The one with the lowest arrival number. -/
def firstStored : List (Nat × Stored) → Option (Nat × Stored)
  | [] => none
  | x :: t => match firstStored t with
    | some y => if y.2.entry.arrive < x.2.entry.arrive then some y else some x
    | none => some x

/-- May the cell refill: is its occupancy below three quarters? -/
def State.refills (s : State) (cell : Nat) : Bool := decide (4 * s.occupied cell < 3 * capacity cell)

/-- REFILL: the spilled entry with the lowest arrival number comes back. -/
def execRefill (cell : Nat) (s : State) : Host.Outcome State Fault Refusal :=
  .next (match firstStored (s.spilledOn cell) with
    | none => s
    | some (asid, w) => if s.refills cell then (s.bringBack asid w).getD s else s)

/-! ### Parks's rule and the space claim (R86, R87) -/

/-- A port queue: context, slot, tag, port. -/
structure QueueKey where
  asid : Nat
  slot : Nat
  tag : Tag
  port : Port
  deriving DecidableEq, Repr

def Entry.queue (e : Entry) : QueueKey := { asid := e.tok.asid, slot := e.tok.slot, tag := e.tok.tag, port := e.tok.port }

/-- The order in which queues are chosen: fewest tiles, lower slot, lower port, then the rest of the key. -/
def queueLess (x y : Nat × QueueKey) : Bool :=
  let k (q : Nat × QueueKey) : List Nat := [q.1, q.2.slot, portCode q.2.port, q.2.asid, q.2.tag.toNat]
  decide (k x < k y)

/-- The unformed tile tokens of a cell. -/
def Cell.tileEntries (c : Cell) : List Entry := c.entries.filter fun e => e.tok.isTile

/-- The smallest queue that holds unformed tile tokens. -/
def Cell.smallestQueue (c : Cell) : Option QueueKey :=
  let es := c.tileEntries
  ((es.map fun e => ((es.filter fun x => x.queue == e.queue).length, e.queue)).foldl
    (fun (b : Option (Nat × QueueKey)) x => match b with
      | some y => if queueLess x y then some x else some y
      | none => some x) none).map Prod.snd

/-- The next unformed tile token that R86 spills: the youngest of the smallest queue. -/
def Cell.nextTile (c : Cell) : Option Entry :=
  c.smallestQueue.bind fun q => youngest (c.tileEntries.filter fun e => e.queue == q)


/-- The youngest of one queue spilled until the run fits or the queue is empty. -/
def State.drainQueue (cell n : Nat) (q : QueueKey) : Nat → State → State
  | 0, s => s
  | k + 1, s =>
    if ((s.cell cell).freeRun n).isSome then s
    else
      match youngest ((s.cell cell).tileEntries.filter fun e => e.queue == q) with
      | none => s
      | some e => drainQueue cell n q k (s.spillEntry cell e)

/-- Parks's rule on a cell for a held packet that needs n lines (R86). -/
def State.parks (cell n : Nat) : Nat → State → State
  | 0, s => s
  | k + 1, s =>
    if ((s.cell cell).freeRun n).isSome then s
    else
      match (s.cell cell).smallestQueue with
      | none => s
      | some q => parks cell n k (State.drainQueue cell n q (s.cell cell).entries.length s)

/-- The first packet held at a cell's input for space: of several, the one held longest (log entry 65). -/
def Cell.heldPacket (c : Cell) : Option Flight := (c.input.find? fun h => h.why == .space).map Held.flight

/-- A firing that has started on its cell: its homes' replies or its flip are awaited, or it waits, or has waited, for
walks with the lines of its result reserved (R300). -/
def FSet.begun (x : FSet) : Bool :=
  x.walking || match x.hold with
    | some (.accept _) | some .flipping => true
    | _ => false

/-- The other formed sets of a cell with tiles on it, youngest first. -/
def Cell.victims (c : Cell) : List FSet :=
  (c.sets.filter fun x => c.claim != some x.sid && x.args.any fun e => e.tok.isTile && e.block.isNone).reverse

/-- A set that loses its place: its tokens are unformed again but for one, against whose frame SPILL_FULL is taken (R82). -/
def State.breakSet (s : State) (cell : Nat) (x : FSet) (e : Entry) : State :=
  let rest := (((s.cell cell).findSet x.sid).map FSet.loose).getD []
  ((s.cancelWait x.asid cell x.sid).modCell cell fun c =>
    Cell.dropSet { c with entries := c.entries ++ rest.filter fun a => a.arrive != e.arrive } x.sid).spillFull x.asid cell e

/-- A formed set's tiles go to the tile region, one block for each line however many of its tokens name it; it stays
formed (R87 step 4). m lists lines copied and their blocks. -/
def State.spillSet (cell : Nat) (x : FSet) : List (Nat × Nat) → List Entry → State → State
  | _, [], s => s.gcTiles cell
  | m, e :: es, s =>
    if !e.tok.isTile || e.block.isSome then spillSet cell x m es s
    else
      match s.tileBlock x.asid cell m e with
      | none => s.breakSet cell x e
      | some (b, m1, s1) =>
        spillSet cell x m1 es (s1.modCell cell fun c => c.modSet x.sid fun y =>
          { y with args := y.args.map fun a => if a.arrive == e.arrive then { a with block := b } else a })

/-- SPACE_CLAIM_SPILL (R87 step 3): with no firing of the cell running, nothing of the cell on its way out and a claim that
does not fit, one more tile token, or one more set's tiles, is spilled. -/
def execSpaceClaimSpill (cell : Nat) (s : State) : Host.Outcome State Fault Refusal :=
  let c := s.cell cell
  .next (
    if c.claim.isNone || c.fits c.claimNeed || c.sets.any FSet.begun || s.xfers.any (fun x => x.cell == cell) then s
    else
      match c.nextTile, c.victims with
      | some e, _ => s.spillEntry cell e
      | none, x :: _ => (s.spillSet cell x [] x.args).progress x.asid
      | none, [] => s)

/-- The oldest formed set of a cell whose tiles were spilled. -/
def Cell.spilledSet (c : Cell) : Option FSet :=
  (c.sets.filter fun x => x.args.any fun e => e.block.isSome).foldl
    (fun (b : Option FSet) x => match b with
      | some y => if x.formedAt < y.formedAt then some x else some y
      | none => some x) none

/-- SPILLED_SET_RETURN (R87 step 4): once no claim stands, the tiles of the oldest such set come back as lines allow. -/
def execSpilledSetReturn (cell : Nat) (s : State) : Host.Outcome State Fault Refusal :=
  .next (match (s.cell cell).claim, (s.cell cell).spilledSet with
    | none, some x =>
      (x.args.foldl (fun (p : State × List (Nat × Nat)) e =>
        match if e.block.isSome then p.1.seatTile x.asid cell p.2 e else none with
        | some (_, m, st) => (st.progress x.asid, m)
        | none => p) (s, [])).1
    | _, _ => s)

/-! ### The stall watchdog (R94 to R98) -/

/-- Cells of the region that hold a first packet at their input. -/
def State.heldCells (s : State) (asid : Nat) : List Nat :=
  (s.region asid).filter fun c => (s.cell c).heldPacket.isSome

/-- Spilled tokens of every context, by number, to see whether stage one has spilled one. -/
def State.wayCount (s : State) : Nat := (s.ctxs.map fun p => p.2.ways.length).sum

/-- Has the context's count reached its period, and has the cycle in which it did gone by (R94, R95)? -/
def State.expired (s : State) (x : Ctx) : Bool := decide (42 * x.par.watchdog + cycleUnits s.dev.therm ≤ x.wdog)

/-- Units of 1/42 ns since the expiry. -/
def Ctx.sinceExpiry (x : Ctx) : Nat := x.wdog - 42 * x.par.watchdog

/-- WATCHDOG_FIRST_EXPIRY (R95): Parks's rule on every cell that holds a first packet; the count restarts. -/
def execWatchdogFirstExpiry (asid : Nat) (s : State) : Host.Outcome State Fault Refusal :=
  .next (match s.ctx asid with
    | none => s
    | some x =>
      if x.wdogStage || !s.expired x then s
      else
        let s1 := (s.heldCells asid).foldl (fun st c =>
          match (st.cell c).heldPacket with
          | some p => State.parks c p.lines (st.cell c).entries.length st
          | none => st) s
        s1.modCtx asid fun y =>
          { y with wdog := x.sinceExpiry, wdogStage := true, wdogSpilled := decide (s.wayCount < s1.wayCount) })

/-- The unformed entries of a region with their cells, ordered by cell, slot, tag and arrival number. -/
def insertDump (x : Nat × Entry) : List (Nat × Entry) → List (Nat × Entry)
  | [] => [x]
  | y :: t =>
    let k (q : Nat × Entry) : List Nat := [q.1, q.2.tok.slot, q.2.tok.tag.toNat, q.2.arrive]
    if decide (k x < k y) then x :: y :: t else y :: insertDump x t
def sortDump (l : List (Nat × Entry)) : List (Nat × Entry) := l.foldr insertDump []

def State.residentEntries (s : State) (asid : Nat) : List (Nat × Entry) :=
  (s.region asid).flatMap fun c => ((s.cell c).entries.filter fun e => e.tok.asid == asid).map fun e => (c, e)

/-- A wait: kind, cell, slot, tag, address (R98). -/
structure Wait where
  kind : Nat
  cell : Nat
  slot : Nat
  tag : Tag
  addr : Nat
  deriving DecidableEq, Repr

def holdWait (cell : Nat) (x : FSet) : Option Wait :=
  let w (k a : Nat) : Option Wait := some { kind := k, cell := cell, slot := x.slot, tag := x.tag, addr := a }
  match x.hold with
  | some .lnext => w 1 0
  | some .lenter => w 2 0
  | some .frame => w 3 0
  | some .gang => w 4 0
  | some (.bput r) => w 7 r
  | some (.bget r) => w 8 r
  | _ => none

/-- The waits of a context: held firings by cell, then packets held at inputs, then words waited for. No rule gives an
order among them (log entry 65). -/
def State.waitsOf (s : State) (asid : Nat) : List Wait :=
  ((s.region asid).flatMap fun c =>
    ((s.cell c).sets.filter fun x => x.asid == asid).filterMap (holdWait c)) ++
  ((s.region asid).flatMap fun c => (s.cell c).input.filterMap fun h => h.flight.toks.head?.bind fun t =>
    if t.asid = asid then some { kind := 9, cell := c, slot := t.slot, tag := t.tag, addr := 0 } else none) ++
  s.memops.filterMap fun o =>
    if o.listed && o.firing.asid == asid && o.origin.isNone then
      let k := match o.kind with | .itake => 6 | _ => 5
      some { kind := k, cell := o.firing.cell, slot := o.firing.slot, tag := o.firing.tag,
             addr := (o.accs.head?.map Access.va).getD 0 }
    else none

def Wait.toBytes (w : Wait) : List Byte :=
  leBytes 8 w.tag.toNat ++ leBytes 8 w.addr ++ leBytes 2 w.cell ++ leBytes 2 w.slot ++ leBytes 1 w.kind ++ zeros 11

/-- The entry that the trap record names: the lowest arrival number, ties to the lower cell (R97). Spilled entries are not
among them (log entry 39). -/
def oldestCell (l : List (Nat × Entry)) : Option (Nat × Entry) :=
  l.foldl (fun (b : Option (Nat × Entry)) x => match b with
    | some y => if x.2.arrive < y.2.arrive || (x.2.arrive == y.2.arrive && x.1 < y.1) then some x else some y
    | none => some x) none

/-- What a dump holds: resident entries, spilled entries and waits, as many as there is room for, and whether some were
omitted (R98). -/
structure Dump where
  res : List (Nat × Entry)
  spl : List (Nat × Entry)
  waits : List Wait
  trunc : Bool
  deriving DecidableEq, Repr

/-- The dump of R98; entries that do not fit are omitted from the end. -/
def State.dump (s : State) (asid : Nat) (x : Ctx) : Dump :=
  let res := sortDump (s.residentEntries asid)
  let spl := sortDump (x.ways.map fun w => (w.cell, w.entry))
  let waits := s.waitsOf asid
  let room := (x.cr.dumpsize - 64) / 32
  { res := res.take room, spl := spl.take (room - res.length), waits := waits.take (room - res.length - spl.length),
    trunc := decide (room < res.length + spl.length + waits.length) }

/-- The dump written, with the device time of the expiry. -/
def State.writeDump (s : State) (asid : Nat) (x : Ctx) (d : Dump) : State :=
  let head := leBytes 8 ((s.dev.time - x.sinceExpiry) / 42) ++ leBytes 4 (d.res.length + d.spl.length) ++
    leBytes 4 d.spl.length ++ leBytes 4 d.waits.length ++ leBytes 2 asid ++
    leBytes 1 ((if d.trunc then 1 else 0) + (if x.wdogSpilled then 2 else 0)) ++ zeros 41
  let body := ((d.res ++ d.spl).flatMap fun p => p.2.tok.toBytes false) ++ d.waits.flatMap Wait.toBytes
  s.writeMem x.cr.dumpbase (head ++ body)

/-- A context trap (R375): it parks no frame. -/
def contextTrap (s : State) (t : Trap) (cell slot : Nat) (tag : Tag) : TrapRec :=
  { trap := t, kind := 3, cell := cell, slot := slot, tag := tag, time := s.ns, word := 0, ops := [], args := [],
    outs0 := [], outs1 := [], op := none, frozen := none, index := none, st := .delivered, pending := true, esc := 0 }

/-- WATCHDOG_SECOND_EXPIRY (R95, R97): the dump, then TAG_STARVE or DEADLOCK. -/
def execWatchdogSecondExpiry (asid : Nat) (s : State) : Host.Outcome State Fault Refusal :=
  .next (match s.ctx asid with
    | none => s
    | some x =>
      if !x.wdogStage || !s.expired x then s
      else
        let d := s.dump asid x
        let starve := d.waits.any fun w => w.kind == 1 || w.kind == 2
        let who := oldestCell (s.residentEntries asid)
        let t : Trap := { trapOf (if starve then 0x04 else 0x07) 0 with addr := x.cr.dumpbase }
        let r := contextTrap s t ((who.map Prod.fst).getD 0) ((who.map fun p => p.2.tok.slot).getD 0)
          ((who.map fun p => p.2.tok.tag).getD 0)
        ((s.writeDump asid x d).modCtx asid fun y => { y with wdog := 0, wdogStage := false }).takeTrap asid r)

end Sys2Proof.Machine
end

