-- ==== Sys2Proof/Machine/Plumbing.lean ====
section
/-! DEFINITION. Plumbing and tag instructions, codes 0x01 to 0x0A, 0x14 and 0x15 (R114 to R130, R134, R135). -/

namespace Sys2Proof.Machine

/-- Data ports carry tiles under the handle format (R115). -/
def dataTile (w : OpFields) : Bool := w.fmt == .handle

/-- A data port's value on a side, with EOS the OR of all tokens consumed (R116). -/
def passOn (f : Firing) (p : Port) (side : Bool) : Res := copyOf (f.val p) side f.eos

/-- A control value is true when its 64-bit payload is nonzero (R115). -/
def Firing.truth (f : Firing) (p : Port) : Bool := (f.val p).word != 0

/-- An unpoisoned scalar the operator makes (R116). -/
def made (f : Firing) (v : Word64) : Val := .scalar v false f.eos

/-- PASS (R122). Under SETIN, port b's EOS is not ORed in. -/
def evalPass (w : OpFields) (f : Firing) (e : Env) : Ex Commit :=
  evalOp w f e (dataTile w, false, false) (.ok ()) false
    (.ok ([if w.ta == .setin then copyOf (f.val .a) false (f.val .a).eos else passOn f .a false], []))
def execPass (w : OpFields) (s : State) : Host.Outcome State Fault Refusal := runOp s (evalPass w)

/-- SYNC (R123). -/
def evalSync (w : OpFields) (f : Firing) (e : Env) : Ex Commit :=
  evalOp w f e (dataTile w, dataTile w, dataTile w) (.ok ()) false
    (.ok ([passOn f .a false], [(0, f.pz [.b, .c])]))
def execSync (w : OpFields) (s : State) : Host.Outcome State Fault Refusal := runOp s (evalSync w)

/-- SWITCH (R124). -/
def evalSwitch (w : OpFields) (f : Firing) (e : Env) : Ex Commit :=
  evalOp w f e (dataTile w, false, false) (checkPoison f .b 2) false
    (.ok ([passOn f .a (!f.truth .b)], []))
def execSwitch (w : OpFields) (s : State) : Host.Outcome State Fault Refusal := runOp s (evalSwitch w)

/-- SEL (R125). -/
def evalSel (w : OpFields) (f : Firing) (e : Env) : Ex Commit :=
  evalOp w f e (false, dataTile w, dataTile w) (checkPoison f .a 2) false
    (.ok (if f.truth .a then ([passOn f .b false], [(0, f.pz [.c])]) else ([passOn f .c false], [(0, f.pz [.b])])))
def execSel (w : OpFields) (s : State) : Host.Outcome State Fault Refusal := runOp s (evalSel w)

/-- CONST (R126): any token triggers it, tile or scalar. -/
def evalConst (w : OpFields) (f : Firing) (e : Env) : Ex Commit :=
  evalOp w f e ((f.val .a).isTile, false, false) (.ok ()) false (.ok ([passOn f .b false], [(0, f.pz [.a])]))
def execConst (w : OpFields) (s : State) : Host.Outcome State Fault Refusal := runOp s (evalConst w)

/-- SINK (R127). -/
def evalSink (w : OpFields) (f : Firing) (e : Env) : Ex Commit :=
  evalOp w f e (dataTile w, dataTile w, dataTile w) (.ok ()) false (.ok ([], [(0, f.pz [.a, .b, .c])]))
def execSink (w : OpFields) (s : State) : Host.Outcome State Fault Refusal := runOp s (evalSink w)

/-- ENDS (R128). -/
def evalEnds (w : OpFields) (f : Firing) (e : Env) : Ex Commit :=
  evalOp w f e (dataTile w, false, false) (.ok ()) false (.ok ([copyOf (f.val .a) false (!w.mod.getLsbD 0)], []))
def execEnds (w : OpFields) (s : State) : Host.Outcome State Fault Refusal := runOp s (evalEnds w)

/-- ISEOS (R129). -/
def evalIseos (w : OpFields) (f : Firing) (e : Env) : Ex Commit :=
  evalOp w f e (dataTile w, false, false) (.ok ()) false
    (.ok ([copyOf (f.val .a) (!(f.val .a).eos) (f.val .a).eos], []))
def execIseos (w : OpFields) (s : State) : Host.Outcome State Fault Refusal := runOp s (evalIseos w)

/-- COUNT (R130): poisoned when any token consumed is; it raises no PZ (log entry 93). -/
def evalCount (w : OpFields) (f : Firing) (e : Env) : Ex Commit :=
  evalOp w f e (dataTile w, false, false) (.ok ()) false
    (.ok ([res0 (.scalar (w.imm.zeroExtend 64) f.poisoned f.eos)], []))
def execCount (w : OpFields) (s : State) : Host.Outcome State Fault Refusal := runOp s (evalCount w)

/-- Bits [31:0] under z32, the whole value under z64 (R134, R142, R159). -/
def trunc (fmt : Fmt) (v : Word64) : Word64 := if fmt == .z32 then (v.extractLsb' 0 32).zeroExtend 64 else v

/-- GETCOL (R134): the input tag's low colour field, or all of COLOUR. -/
def evalGetcol (w : OpFields) (f : Firing) (e : Env) : Ex Commit :=
  evalOp w f e (false, false, false) (.ok ()) false
    (if w.mod.getLsbD 0 then
       .ok ([res0 (made f (trunc w.fmt ((tagColour f.tag).zeroExtend 64)))], [(0, f.pz [.a])])
     else
       let n := w.imm.toNat % 16
       if tagDepth f.tag = 0 || decide (tagFill f.tag < n) then .error { tTAG_OVERFLOW 3 with flags := f.pz [.a] }
       else .ok ([res0 (made f (trunc w.fmt (BitVec.ofNat 64 (inner f.tag n))))], [(0, f.pz [.a])]))
def execGetcol (w : OpFields) (s : State) : Host.Outcome State Fault Refusal := runOp s (evalGetcol w)

/-- SETTAG (R135): GEN and FRAME kept, the low 48 bits from port b. -/
def evalSettag (w : OpFields) (f : Firing) (_e : Env) : Ex Commit := do
  checkKinds f (dataTile w) false false
  checkPoison f .b 2
  let n := (f.val .b).word
  trapIf (n.extractLsb' 48 16 != 0) tBAD_OPERAND
  let t : Tag := f.tag.extractLsb' 48 16 ++ n.extractLsb' 0 48
  trapIf (!tagOk t) (tTAG_OVERFLOW 4)
  pure (Commit.ofRes t [passOn f .a false] 0)
def execSettag (w : OpFields) (s : State) : Host.Outcome State Fault Refusal := runOp s (evalSettag w)

end Sys2Proof.Machine
end

