-- ==== Sys2Proof/Machine/ScalarInt.lean ====
section
/-! DEFINITION. Scalar integer instructions, codes 0x20 to 0x3C (R177 to R192). -/

namespace Sys2Proof.Machine

/-- A port read in FMT (R178); +0 when poisoned. -/
def Firing.int (f : Firing) (fmt : Fmt) (p : Port) : Int := readInt fmt (f.num p)
/-- The low w bits of a port. -/
def Firing.bits (f : Firing) (fmt : Fmt) (p : Port) : Nat := f.num p % 2 ^ width fmt

/-- INT_EXCEPT with the flags of the plain form (R181). -/
def tINT_EXCEPT (code : Nat) (fl : Flags) : Trap := { trapOf 0x0E code with flags := fl }

def satOf (w : OpFields) : Bool := w.mod.getLsbD 3
def trapvOf (w : OpFields) : Bool := w.var == 1

/-- fit of R183 for the firing; with a poisoned input no flag is set and nothing traps (R179). -/
def fitOf (w : OpFields) (f : Firing) (fmt : Fmt) (x : Int) : Ex (Int × Flags) :=
  if f.poisoned then .ok ((fitPlain x fmt (satOf w)).1, 0)
  else match fit x fmt (satOf w) (trapvOf w) with
    | some r => .ok r
    | none => .error (tINT_EXCEPT 1 0)

/-- A scalar result: poisoned when an input is, EOS by R179. -/
def scalarRes (f : Firing) (v : Word64) : Res := res0 (.scalar v f.poisoned f.eos)

/-- Flags of a firing with no poisoned input; none otherwise (R179). -/
def cleanFlags (f : Firing) (fl : Flags) : ElemFlags := [(0, if f.poisoned then 0 else fl)]

/-- An integer operator whose result is a value of FMT (R178). -/
def evalInt (w : OpFields) (f : Firing) (e : Env) (pre : Ex Unit) (x : Ex (Int × Flags)) : Ex Commit :=
  evalOp w f e (false, false, false) pre false
    (x.map fun r => ([scalarRes f (payloadInt r.1)], cleanFlags f r.2))

/-- An integer operator whose result is a count, predicate, mask or address, written zero-extended. -/
def evalNat (w : OpFields) (f : Firing) (e : Env) (x : Ex (Nat × Flags)) : Ex Commit :=
  evalOp w f e (false, false, false) (.ok ()) false
    (x.map fun r => ([scalarRes f (BitVec.ofNat 64 r.1)], cleanFlags f r.2))

/-! ### Arithmetic (R184, R185) -/

def evalAdd (w : OpFields) (f : Firing) (e : Env) : Ex Commit :=
  evalInt w f e (.ok ()) (fitOf w f w.fmt (f.int w.fmt .a + f.int w.fmt .b))
def evalSub (w : OpFields) (f : Firing) (e : Env) : Ex Commit :=
  evalInt w f e (.ok ()) (fitOf w f w.fmt (f.int w.fmt .a - f.int w.fmt .b))
def evalMul (w : OpFields) (f : Firing) (e : Env) : Ex Commit :=
  evalInt w f e (.ok ()) (fitOf w f w.fmt (f.int w.fmt .a * f.int w.fmt .b))
def evalMad (w : OpFields) (f : Firing) (e : Env) : Ex Commit :=
  evalInt w f e (.ok ()) (fitOf w f w.fmt (f.int w.fmt .a * f.int w.fmt .b + f.int w.fmt .c))
/-- The upper w bits of the exact product. -/
def evalMulh (w : OpFields) (f : Firing) (e : Env) : Ex Commit :=
  let p := f.int w.fmt .a * f.int w.fmt .b
  evalInt w f e (.ok ()) (.ok (wrapInt w.fmt (p / (2 ^ width w.fmt : Nat)), 0))
def execAdd (w : OpFields) (s : State) : Host.Outcome State Fault Refusal := runOp s (evalAdd w)
def execSub (w : OpFields) (s : State) : Host.Outcome State Fault Refusal := runOp s (evalSub w)
def execMul (w : OpFields) (s : State) : Host.Outcome State Fault Refusal := runOp s (evalMul w)
def execMad (w : OpFields) (s : State) : Host.Outcome State Fault Refusal := runOp s (evalMad w)
def execMulh (w : OpFields) (s : State) : Host.Outcome State Fault Refusal := runOp s (evalMulh w)

/-- DIV: toward zero; by zero −1 or the greatest value with IV, INT_EXCEPT code 2 under TRAPV; a poisoned divisor
gives +0 (R179, R185). -/
def evalDiv (w : OpFields) (f : Firing) (e : Env) : Ex Commit :=
  let a := f.int w.fmt .a
  let b := f.int w.fmt .b
  evalInt w f e (.ok ())
    (if b = 0 then
       if f.isPoisoned .b then .ok (0, 0)
       else if trapvOf w && !f.poisoned then .error (tINT_EXCEPT 2 fIV)
       else .ok (if Enc.Fmt.signed w.fmt then -1 else intHi w.fmt, fIV)
     else fitOf w f w.fmt (a.tdiv b))
def execDiv (w : OpFields) (s : State) : Host.Outcome State Fault Refusal := runOp s (evalDiv w)

/-- REM: the remainder takes the sign of a; by zero it is a, with IV. -/
def evalRem (w : OpFields) (f : Firing) (e : Env) : Ex Commit :=
  let a := f.int w.fmt .a
  let b := f.int w.fmt .b
  evalInt w f e (.ok ())
    (.ok (if b = 0 then (if f.isPoisoned .b then (0, 0) else (a, fIV)) else (a.tmod b, 0)))
def execRem (w : OpFields) (s : State) : Host.Outcome State Fault Refusal := runOp s (evalRem w)

/-! ### Bitwise, shifts, extremes (R186) -/

/-- A result given as w bits, extended by R178. -/
def evalBits (w : OpFields) (f : Firing) (e : Env) (x : Nat) : Ex Commit :=
  evalInt w f e (.ok ()) (.ok (readInt w.fmt x, 0))

/-- Shift amount: b's payload modulo w. -/
def shiftOf (w : OpFields) (f : Firing) : Nat := f.num .b % width w.fmt

/-- w bits shifted right with copies of bit w - 1 shifted in. -/
def sraBits (w x n : Nat) : Nat := wrapNat w (sint w x / (2 ^ n : Nat))
/-- w bits rotated left by n. -/
def rotlBits (w x n : Nat) : Nat := (x * 2 ^ n) % 2 ^ w + x / 2 ^ (w - n)

def evalAnd (w : OpFields) (f : Firing) (e : Env) : Ex Commit :=
  evalBits w f e (Nat.land (f.bits w.fmt .a) (f.bits w.fmt .b))
def evalOr (w : OpFields) (f : Firing) (e : Env) : Ex Commit :=
  evalBits w f e (Nat.lor (f.bits w.fmt .a) (f.bits w.fmt .b))
def evalXor (w : OpFields) (f : Firing) (e : Env) : Ex Commit :=
  evalBits w f e (Nat.xor (f.bits w.fmt .a) (f.bits w.fmt .b))
def evalAndn (w : OpFields) (f : Firing) (e : Env) : Ex Commit :=
  evalBits w f e (Nat.land (f.bits w.fmt .a) (2 ^ width w.fmt - 1 - f.bits w.fmt .b))
def evalShl (w : OpFields) (f : Firing) (e : Env) : Ex Commit :=
  evalBits w f e (f.bits w.fmt .a * 2 ^ shiftOf w f % 2 ^ width w.fmt)
def evalShr (w : OpFields) (f : Firing) (e : Env) : Ex Commit :=
  evalBits w f e (f.bits w.fmt .a / 2 ^ shiftOf w f)
def evalSra (w : OpFields) (f : Firing) (e : Env) : Ex Commit :=
  evalBits w f e (sraBits (width w.fmt) (f.bits w.fmt .a) (shiftOf w f))
def evalRotl (w : OpFields) (f : Firing) (e : Env) : Ex Commit :=
  evalBits w f e (rotlBits (width w.fmt) (f.bits w.fmt .a) (shiftOf w f))
def evalMin (w : OpFields) (f : Firing) (e : Env) : Ex Commit :=
  evalInt w f e (.ok ()) (.ok (min (f.int w.fmt .a) (f.int w.fmt .b), 0))
def evalMax (w : OpFields) (f : Firing) (e : Env) : Ex Commit :=
  evalInt w f e (.ok ()) (.ok (max (f.int w.fmt .a) (f.int w.fmt .b), 0))
def execAnd (w : OpFields) (s : State) : Host.Outcome State Fault Refusal := runOp s (evalAnd w)
def execOr (w : OpFields) (s : State) : Host.Outcome State Fault Refusal := runOp s (evalOr w)
def execXor (w : OpFields) (s : State) : Host.Outcome State Fault Refusal := runOp s (evalXor w)
def execAndn (w : OpFields) (s : State) : Host.Outcome State Fault Refusal := runOp s (evalAndn w)
def execShl (w : OpFields) (s : State) : Host.Outcome State Fault Refusal := runOp s (evalShl w)
def execShr (w : OpFields) (s : State) : Host.Outcome State Fault Refusal := runOp s (evalShr w)
def execSra (w : OpFields) (s : State) : Host.Outcome State Fault Refusal := runOp s (evalSra w)
def execRotl (w : OpFields) (s : State) : Host.Outcome State Fault Refusal := runOp s (evalRotl w)
def execMin (w : OpFields) (s : State) : Host.Outcome State Fault Refusal := runOp s (evalMin w)
def execMax (w : OpFields) (s : State) : Host.Outcome State Fault Refusal := runOp s (evalMax w)

/-- Leading zeros of w bits. -/
def clzBits (w x : Nat) : Nat := if x = 0 then w else w - 1 - x.log2
/-- Set bits among the low w. -/
def popBits (w x : Nat) : Nat := ((List.range w).filter fun i => x.testBit i).length
def evalClz (w : OpFields) (f : Firing) (e : Env) : Ex Commit :=
  evalNat w f e (.ok (clzBits (width w.fmt) (f.bits w.fmt .a), 0))
def evalPopc (w : OpFields) (f : Firing) (e : Env) : Ex Commit :=
  evalNat w f e (.ok (popBits (width w.fmt) (f.bits w.fmt .a), 0))
def execClz (w : OpFields) (s : State) : Host.Outcome State Fault Refusal := runOp s (evalClz w)
def execPopc (w : OpFields) (s : State) : Host.Outcome State Fault Refusal := runOp s (evalPopc w)

/-- The conditions of R187, which WAITV shares; bits for tst and ntst. -/
def cmpCond (var : Nat) (a b : Int) (abits bbits : Nat) : Bool :=
  match var with
  | 0 => decide (a = b) | 1 => decide (a ≠ b) | 2 => decide (a < b) | 3 => decide (a ≤ b)
  | 4 => decide (b < a) | 5 => decide (b ≤ a) | 6 => Nat.land abits bbits != 0 | _ => Nat.land abits bbits == 0

/-- CMP (R187). -/
def evalCmp (w : OpFields) (f : Firing) (e : Env) : Ex Commit :=
  evalNat w f e (.ok ((cmpCond w.var.toNat (f.int w.fmt .a) (f.int w.fmt .b) (f.bits w.fmt .a)
    (f.bits w.fmt .b)).toNat, 0))
def execCmp (w : OpFields) (s : State) : Host.Outcome State Fault Refusal := runOp s (evalCmp w)

/-! ### Bit fields (R188) -/

/-- Position and length in a descriptor. -/
def fieldOf (d : Word64) : Nat × Nat := ((d.extractLsb' 0 6).toNat, (d.extractLsb' 8 7).toNat)
/-- Is it a descriptor of a field within w bits? -/
def fieldOk (w : Nat) (d : Word64) : Bool :=
  let (p, l) := fieldOf d
  d &&& 0xFFFFFFFFFFFF80C0#64 == 0 && decide (0 < l) && decide (p + l ≤ w)

/-- BEXT: bits [p+L-1:p] of a, sign-extended under an s format. -/
def bextBits (fmt : Fmt) (a p l : Nat) : Int :=
  let x := a / 2 ^ p % 2 ^ l
  if Enc.Fmt.signed fmt then sint l x else (x : Int)
/-- BINS: a with bits [p+L-1:p] replaced by the low L bits of b. -/
def binsBits (a b p l : Nat) : Nat := a - (a / 2 ^ p % 2 ^ l) * 2 ^ p + (b % 2 ^ l) * 2 ^ p

/-- With a poisoned input an invalid descriptor raises nothing and the result comes from the stand-ins (R179): an empty
field is 0, and of a field that reaches past FMT the bits within FMT are kept (DEDUCED, log entry 69). -/
def evalBext (w : OpFields) (f : Firing) (e : Env) : Ex Commit :=
  let d := BitVec.ofNat 64 (f.num .b)
  let (p, l) := fieldOf d
  evalInt w f e (trapIf (!fieldOk (width w.fmt) d && !f.poisoned) tBAD_OPERAND)
    (.ok (bextBits w.fmt (f.bits w.fmt .a) p l, 0))
def evalBins (w : OpFields) (f : Firing) (e : Env) : Ex Commit :=
  let d := BitVec.ofNat 64 (f.num .c)
  let (p, l) := fieldOf d
  evalInt w f e (trapIf (!fieldOk (width w.fmt) d && !f.poisoned) tBAD_OPERAND)
    (.ok (readInt w.fmt (binsBits (f.bits w.fmt .a) (f.bits w.fmt .b) p l), 0))
def execBext (w : OpFields) (s : State) : Host.Outcome State Fault Refusal := runOp s (evalBext w)
def execBins (w : OpFields) (s : State) : Host.Outcome State Fault Refusal := runOp s (evalBins w)

/-! ### Addresses, signs, conversions, hashes, halves -/

/-- ADDRC (R189). -/
def evalAddrc (w : OpFields) (f : Firing) (e : Env) : Ex Commit :=
  let x : Int := (f.num .a : Int) + f.int w.fmt .b * (2 ^ (w.imm.toNat % 8) : Nat)
  let out := decide (x < 0) || decide ((2 ^ 54 : Nat) ≤ x)
  evalNat w f e
    (if out && trapvOf w && !f.poisoned then .error (tINT_EXCEPT 1 0)
     else .ok (wrapNat 54 x, flagIf out fOF))
def execAddrc (w : OpFields) (s : State) : Host.Outcome State Fault Refusal := runOp s (evalAddrc w)

/-- The sign bit of a float cleared or inverted, nothing else changed (R195). -/
def floatAbs (fmt : Fmt) (x : Nat) : Nat := x % 2 ^ (width fmt - 1)
def floatNeg (fmt : Fmt) (x : Nat) : Nat :=
  if x / 2 ^ (width fmt - 1) % 2 = 1 then x % 2 ^ (width fmt - 1) else x % 2 ^ (width fmt - 1) + 2 ^ (width fmt - 1)

/-- ABS and NEG: integers by R184, floats by R195. -/
def evalAbs (w : OpFields) (f : Firing) (e : Env) : Ex Commit :=
  if Enc.Fmt.isF w.fmt then evalNat w f e (.ok (floatAbs w.fmt (f.bits w.fmt .a), 0))
  else evalInt w f e (.ok ()) (fitOf w f w.fmt (f.int w.fmt .a).natAbs)
def evalNeg (w : OpFields) (f : Firing) (e : Env) : Ex Commit :=
  if Enc.Fmt.isF w.fmt then evalNat w f e (.ok (floatNeg w.fmt (f.bits w.fmt .a), 0))
  else evalInt w f e (.ok ()) (fitOf w f w.fmt (-(f.int w.fmt .a)))
def execAbs (w : OpFields) (s : State) : Host.Outcome State Fault Refusal := runOp s (evalAbs w)
def execNeg (w : OpFields) (s : State) : Host.Outcome State Fault Refusal := runOp s (evalNeg w)

/-- ICVT (R190). -/
def evalIcvt (w : OpFields) (f : Firing) (e : Env) : Ex Commit :=
  let src := (Enc.Fmt.ofNat (w.imm.toNat % 8)).getD .s8
  evalInt w f e (.ok ()) (fitOf w f w.fmt (f.int src .a))
def execIcvt (w : OpFields) (s : State) : Host.Outcome State Fault Refusal := runOp s (evalIcvt w)

/-- MIX (R191). -/
def evalMix (w : OpFields) (f : Firing) (e : Env) : Ex Commit :=
  let a := trunc w.fmt (BitVec.ofNat 64 (f.num .a))
  let b := trunc w.fmt (BitVec.ofNat 64 (f.num .b))
  evalNat w f e (.ok ((trunc w.fmt (mix64 (a ^^^ mix64 b))).toNat, 0))
def execMix (w : OpFields) (s : State) : Host.Outcome State Fault Refusal := runOp s (evalMix w)

/-- The half format of R192. -/
def halfOf : Fmt → Fmt
  | .s16 => .s8 | .z16 => .z8 | .s32 => .s16 | .z32 => .z16 | .s64 => .s32 | _ => .z32

/-- PACK (R192). -/
def evalPack (w : OpFields) (f : Firing) (e : Env) : Ex Commit :=
  let h := halfOf w.fmt
  let a := fitPlain (f.int w.fmt .a) h (satOf w)
  let b := fitPlain (f.int w.fmt .b) h (satOf w)
  evalInt w f e (.ok ())
    (.ok (readInt w.fmt (wrapNat (width h) a.1 * 2 ^ width h + wrapNat (width h) b.1), a.2 ||| b.2))
def execPack (w : OpFields) (s : State) : Host.Outcome State Fault Refusal := runOp s (evalPack w)

/-- UNPK (R192): the high half to D0, the low half to D1. -/
def evalUnpk (w : OpFields) (f : Firing) (e : Env) : Ex Commit :=
  let h := halfOf w.fmt
  let x := f.bits w.fmt .a
  let half (n : Nat) : Val := .scalar (payloadInt (readInt h n)) f.poisoned f.eos
  evalOp w f e (false, false, false) (.ok ()) false (.ok ([res0 (half (x / 2 ^ width h)), res1 (half x)], []))
def execUnpk (w : OpFields) (s : State) : Host.Outcome State Fault Refusal := runOp s (evalUnpk w)

end Sys2Proof.Machine
end

