-- ==== Sys2Proof/Machine/ScalarFloat.lean ====
section
/-! DEFINITION. Scalar floating instructions, codes 0x40 to 0x4C (R193 to R198). -/

namespace Sys2Proof.Machine

/-- A port as a float of FMT, flushed under FTZ. -/
def Firing.fv (f : Firing) (w : OpFields) (p : Port) : FV := readF w.fmt (w.mod.getLsbD 3) (f.num p)

/-- Are the bits a NaN or an infinity of the format? -/
def special (fmt : Fmt) (x : Nat) : Bool :=
  match decodeF fmt x with
  | .fin _ _ _ => false
  | _ => true

/-- A floating result in a format: with a poisoned input NaN and infinity become +0 (R179); FP_EXCEPT by R173. -/
def evalFloat (w : OpFields) (f : Firing) (e : Env) (fmt : Fmt) (r : Nat × Flags) : Ex Commit :=
  let x := if f.poisoned && special fmt r.1 then 0 else r.1
  evalOp w f e (false, false, false) (.ok ()) true
    (.ok ([scalarRes f (BitVec.ofNat 64 x)], cleanFlags f r.2))

/-- An exact value rounded once (R194). -/
def rounded (w : OpFields) (f : Firing) (e : Env) (v : FV × Flags) : Nat × Flags :=
  let r := deliver w.fmt (rounding w f e) 0 v.1
  (r.1, v.2 ||| r.2)

def evalFadd (w : OpFields) (f : Firing) (e : Env) : Ex Commit :=
  evalFloat w f e w.fmt (rounded w f e (fvAdd (Rm.ofMod w.mod) (f.fv w .a) (f.fv w .b)))
def evalFsub (w : OpFields) (f : Firing) (e : Env) : Ex Commit :=
  evalFloat w f e w.fmt (rounded w f e (fvAdd (Rm.ofMod w.mod) (f.fv w .a) (f.fv w .b).negate))
def evalFmul (w : OpFields) (f : Firing) (e : Env) : Ex Commit :=
  evalFloat w f e w.fmt (rounded w f e (fvMul (f.fv w .a) (f.fv w .b)))
def evalFfma (w : OpFields) (f : Firing) (e : Env) : Ex Commit :=
  evalFloat w f e w.fmt (rounded w f e (fvFma (Rm.ofMod w.mod) (f.fv w .a) (f.fv w .b) (f.fv w .c)))
def evalFdiv (w : OpFields) (f : Firing) (e : Env) : Ex Commit :=
  evalFloat w f e w.fmt (rounded w f e (fvDiv (f.fv w .a) (f.fv w .b)))
def evalFsqrt (w : OpFields) (f : Firing) (e : Env) : Ex Commit :=
  evalFloat w f e w.fmt (rounded w f e (fvSqrt (f.fv w .a)))
def execFadd (w : OpFields) (s : State) : Host.Outcome State Fault Refusal := runOp s (evalFadd w)
def execFsub (w : OpFields) (s : State) : Host.Outcome State Fault Refusal := runOp s (evalFsub w)
def execFmul (w : OpFields) (s : State) : Host.Outcome State Fault Refusal := runOp s (evalFmul w)
def execFfma (w : OpFields) (s : State) : Host.Outcome State Fault Refusal := runOp s (evalFfma w)
def execFdiv (w : OpFields) (s : State) : Host.Outcome State Fault Refusal := runOp s (evalFdiv w)
def execFsqrt (w : OpFields) (s : State) : Host.Outcome State Fault Refusal := runOp s (evalFsqrt w)

/-- FMIN and FMAX (R195). -/
def evalFmin (w : OpFields) (f : Firing) (e : Env) : Ex Commit :=
  evalFloat w f e w.fmt (fMinMax w.fmt (w.mod.getLsbD 3) false (f.bits w.fmt .a) (f.bits w.fmt .b))
def evalFmax (w : OpFields) (f : Firing) (e : Env) : Ex Commit :=
  evalFloat w f e w.fmt (fMinMax w.fmt (w.mod.getLsbD 3) true (f.bits w.fmt .a) (f.bits w.fmt .b))
def execFmin (w : OpFields) (s : State) : Host.Outcome State Fault Refusal := runOp s (evalFmin w)
def execFmax (w : OpFields) (s : State) : Host.Outcome State Fault Refusal := runOp s (evalFmax w)

/-- A floating operator whose result is a predicate or an integer. -/
def evalFloatInt (w : OpFields) (f : Firing) (e : Env) (v : Word64) (fl : Flags) : Ex Commit :=
  evalOp w f e (false, false, false) (.ok ()) true (.ok ([scalarRes f v], cleanFlags f fl))

/-- FCMP (R196). -/
def evalFcmp (w : OpFields) (f : Firing) (e : Env) : Ex Commit :=
  let r := fvCompare w.var.toNat (f.fv w .a) (f.fv w .b)
  evalFloatInt w f e (BitVec.ofNat 64 r.1.toNat) r.2
def execFcmp (w : OpFields) (s : State) : Host.Outcome State Fault Refusal := runOp s (evalFcmp w)

/-- The source format of a conversion: IMM[4:0]. -/
def srcOf (w : OpFields) : Fmt := (Enc.Fmt.ofNat (w.imm.toNat % 32)).getD .f32

/-- FCVT (R171, R197). -/
def evalFcvt (w : OpFields) (f : Firing) (e : Env) : Ex Commit :=
  let ro := rounding w f e
  evalFloat w f e w.fmt (toFloat w.fmt ro.rm ro.ftz (ro.rnd 0) (readF (srcOf w) ro.ftz (f.num .a)))
def execFcvt (w : OpFields) (s : State) : Host.Outcome State Fault Refusal := runOp s (evalFcvt w)

/-- FCLASS (R198): no flag. -/
def evalFclass (w : OpFields) (f : Firing) (e : Env) : Ex Commit :=
  evalFloatInt w f e (BitVec.ofNat 64 (fclassBits w.fmt (f.num .a))) 0
def execFclass (w : OpFields) (s : State) : Host.Outcome State Fault Refusal := runOp s (evalFclass w)

/-- FTOI (R171, R197). -/
def evalFtoi (w : OpFields) (f : Firing) (e : Env) : Ex Commit :=
  let ro := rounding w f e
  let r := toInteger w.fmt ro.rm (ro.rnd 0) (readF (srcOf w) ro.ftz (f.num .a))
  evalFloatInt w f e (payloadInt r.1) r.2
def execFtoi (w : OpFields) (s : State) : Host.Outcome State Fault Refusal := runOp s (evalFtoi w)

/-- ITOF (R171, R197). -/
def evalItof (w : OpFields) (f : Firing) (e : Env) : Ex Commit :=
  let ro := rounding w f e
  evalFloat w f e w.fmt (toFloat w.fmt ro.rm false (ro.rnd 0) (fvOfInt (f.int (srcOf w) .a)))
def execItof (w : OpFields) (s : State) : Host.Outcome State Fault Refusal := runOp s (evalItof w)

end Sys2Proof.Machine
end

