-- ==== Sys2Proof/Machine/TileOps.lean ====
section
/-! DEFINITION. Tile elementwise instructions, codes 0x50 to 0x6B (R200 to R217). -/

namespace Sys2Proof.Machine

/-! ### Results (R201, R202) -/

/-- A result tile by R201: EOS and DISC are ORs, SEQ is port a's, LINE is given when the tile is placed. -/
def tileRes (f : Firing) (fmt : Fmt) (rows cols valid : Nat) (poison : BitVec 8) (data : List Byte) : Val :=
  .tile
    { fmt := fmt, rows := rows, cols := cols, valid := valid, line := 0, poison := poison, eos := f.eos,
      disc := f.ops.any fun o => match o.val with | .tile h _ => h.disc | _ => false
      seq := match f.val .a with | .tile h _ => h.seq | _ => 0 } data

def Val.withSeq (n : BitVec 16) : Val → Val
  | .tile h d => .tile { h with seq := n } d
  | v => v

/-- Formats that hold NaN or infinity as element bits. -/
def isFloat (f : Fmt) : Bool := Enc.Fmt.isG f

/-- One element by R202: in a poisoned row NaN and infinity become +0 and no flag is raised. -/
def tileElem (fmt : Fmt) (bad : Bool) (r : Nat × Flags) : Nat × Flags :=
  if bad then (if isFloat fmt && special fmt r.1 then 0 else r.1, 0) else r

/-- The flags of a grid, by element index. -/
def gridFlags (g : List (List (Nat × Flags))) : ElemFlags :=
  g.flatten.zipIdx.filterMap fun p => if p.1.2 = 0 then none else some (p.2, p.1.2)

/-- tile_apply of R202: rows at valid and above are zeros. -/
def tileApply (fmt : Fmt) (rows cols valid : Nat) (poison : BitVec 8) (op : Nat → Nat → Nat × Flags) :
    List Byte × ElemFlags :=
  let g := (List.range rows).map fun i =>
    if i < valid then (List.range cols).map fun j => tileElem fmt (poison.getLsbD (group rows i)) (op i j)
    else List.replicate cols (0, 0)
  (g.flatMap fun r => packElems fmt (r.map Prod.fst), gridFlags g)

def Firing.handle (f : Firing) (p : Port) : Handle := (f.tile p).1
def Firing.grid (f : Firing) (p : Port) : List (List Nat) := gridIn (f.tile p).1 (f.tile p).2

/-- R200: the handle's format is the one required. -/
def needFmt (f : Firing) (p : Port) (fmt : Fmt) : Ex Unit := trapIf ((f.handle p).fmt != fmt) tBAD_OPERAND
/-- R200: the two tiles have one shape. -/
def needShape (f : Firing) (p : Port) (rows cols : Nat) : Ex Unit :=
  trapIf ((f.handle p).rows != rows || (f.handle p).cols != cols) tBAD_OPERAND
/-- R200: the result's shape meets R48. -/
def needFits (fmt : Fmt) (rows cols : Nat) : Ex Unit := trapIf (!Enc.shapeOk fmt rows cols) tBAD_OPERAND

/-- FP_EXCEPT is for floating firings: integer saturation never raises it (R161, R173). -/
def fpOf (w : OpFields) : Bool := Enc.Fmt.isF w.fmt

/-- One result tile on the D0 side. -/
def evalTile (w : OpFields) (f : Firing) (e : Env) (kinds : Bool × Bool × Bool) (pre : Ex Unit) (fp : Bool)
    (fmt : Fmt) (rows cols valid : Nat) (poison : BitVec 8) (op : Nat → Nat → Nat × Flags) : Ex Commit :=
  evalOp w f e kinds (pre *> needFits fmt rows cols) fp
    (let r := tileApply fmt rows cols valid poison op
     .ok ([res0 (tileRes f fmt rows cols valid poison r.1)], r.2))

/-! ### Elements (R205, R206) -/

/-- An integer element through fit, never TRAPV. -/
def elemInt (w : OpFields) (x : Int) : Nat × Flags :=
  let r := fitPlain x w.fmt (satOf w)
  (wrapNat (width w.fmt) r.1, r.2)

/-- A float element rounded once; i is the index of the result element. -/
def elemFloat (w : OpFields) (ro : Round) (i : Nat) (v : FV × Flags) : Nat × Flags :=
  let r := deliver w.fmt ro i v.1
  (r.1, v.2 ||| r.2)

/-- The operations of R206 between element a and a second operand s. -/
def elemOp (w : OpFields) (ro : Round) (var i a s : Nat) : Nat × Flags :=
  if Enc.Fmt.isF w.fmt then
    let x := readF w.fmt ro.ftz a
    let y := readF w.fmt ro.ftz s
    match var with
    | 0 => elemFloat w ro i (fvAdd ro.rm x y)
    | 1 => elemFloat w ro i (fvAdd ro.rm x y.negate)
    | 2 => elemFloat w ro i (fvAdd ro.rm y x.negate)
    | 3 => elemFloat w ro i (fvMul x y)
    | 4 => elemFloat w ro i (fvDiv x y)
    | 5 => elemFloat w ro i (fvDiv y x)
    | 6 => fMinMax w.fmt ro.ftz false a s
    | _ => fMinMax w.fmt ro.ftz true a s
  else
    let x := readInt w.fmt a
    let y := readInt w.fmt s
    match var with
    | 0 => elemInt w (x + y)
    | 1 => elemInt w (x - y)
    | 2 => elemInt w (y - x)
    | 3 => elemInt w (x * y)
    | 6 => (wrapNat (width w.fmt) (min x y), 0)
    | _ => (wrapNat (width w.fmt) (max x y), 0)

/-- An operator over two tiles of one shape. -/
def evalTwo (w : OpFields) (f : Firing) (e : Env) (var : Nat) : Ex Commit :=
  let a := f.handle .a
  let b := f.handle .b
  let ga := f.grid .a
  let gb := f.grid .b
  let ro := rounding w f e
  evalTile w f e (true, true, false)
    (needFmt f .a w.fmt *> needFmt f .b w.fmt *> needShape f .b a.rows a.cols) (fpOf w)
    w.fmt a.rows a.cols (min a.valid b.valid) (a.poison ||| b.poison)
    fun i j => elemOp w ro var (i * a.cols + j) (cellOf ga i j) (cellOf gb i j)

def evalVadd (w : OpFields) (f : Firing) (e : Env) : Ex Commit := evalTwo w f e 0
def evalVsub (w : OpFields) (f : Firing) (e : Env) : Ex Commit := evalTwo w f e 1
def evalVmul (w : OpFields) (f : Firing) (e : Env) : Ex Commit := evalTwo w f e 3
def evalVdiv (w : OpFields) (f : Firing) (e : Env) : Ex Commit := evalTwo w f e 4
def evalVmin (w : OpFields) (f : Firing) (e : Env) : Ex Commit := evalTwo w f e 6
def evalVmax (w : OpFields) (f : Firing) (e : Env) : Ex Commit := evalTwo w f e 7
def execVadd (w : OpFields) (s : State) : Host.Outcome State Fault Refusal := runOp s (evalVadd w)
def execVsub (w : OpFields) (s : State) : Host.Outcome State Fault Refusal := runOp s (evalVsub w)
def execVmul (w : OpFields) (s : State) : Host.Outcome State Fault Refusal := runOp s (evalVmul w)
def execVdiv (w : OpFields) (s : State) : Host.Outcome State Fault Refusal := runOp s (evalVdiv w)
def execVmin (w : OpFields) (s : State) : Host.Outcome State Fault Refusal := runOp s (evalVmin w)
def execVmax (w : OpFields) (s : State) : Host.Outcome State Fault Refusal := runOp s (evalVmax w)

/-- VFMA (R194, R205). -/
def evalVfma (w : OpFields) (f : Firing) (e : Env) : Ex Commit :=
  let a := f.handle .a
  let ga := f.grid .a
  let gb := f.grid .b
  let gc := f.grid .c
  let ro := rounding w f e
  evalTile w f e (true, true, true)
    (needFmt f .a w.fmt *> needFmt f .b w.fmt *> needFmt f .c w.fmt *> needShape f .b a.rows a.cols *>
      needShape f .c a.rows a.cols) true
    w.fmt a.rows a.cols (min a.valid (min (f.handle .b).valid (f.handle .c).valid))
    (a.poison ||| (f.handle .b).poison ||| (f.handle .c).poison)
    fun i j => elemFloat w ro (i * a.cols + j)
      (fvFma ro.rm (readF w.fmt ro.ftz (cellOf ga i j)) (readF w.fmt ro.ftz (cellOf gb i j))
        (readF w.fmt ro.ftz (cellOf gc i j)))
def execVfma (w : OpFields) (s : State) : Host.Outcome State Fault Refusal := runOp s (evalVfma w)

/-- An operator over one tile, element by element. -/
def evalOne (w : OpFields) (f : Firing) (e : Env) (op : Round → Nat → Nat → Nat × Flags) : Ex Commit :=
  let a := f.handle .a
  let ga := f.grid .a
  let ro := rounding w f e
  evalTile w f e (true, false, false) (needFmt f .a w.fmt) (fpOf w) w.fmt a.rows a.cols a.valid a.poison
    fun i j => op ro (i * a.cols + j) (cellOf ga i j)

/-- VABS and VNEG: integers by R184, floats by R195. -/
def evalVabs (w : OpFields) (f : Firing) (e : Env) : Ex Commit :=
  evalOne w f e fun _ _ x =>
    if Enc.Fmt.isF w.fmt then (floatAbs w.fmt x, 0) else elemInt w (readInt w.fmt x).natAbs
def evalVneg (w : OpFields) (f : Firing) (e : Env) : Ex Commit :=
  evalOne w f e fun _ _ x =>
    if Enc.Fmt.isF w.fmt then (floatNeg w.fmt x, 0) else elemInt w (-(readInt w.fmt x))
def execVabs (w : OpFields) (s : State) : Host.Outcome State Fault Refusal := runOp s (evalVabs w)
def execVneg (w : OpFields) (s : State) : Host.Outcome State Fault Refusal := runOp s (evalVneg w)

/-- 1 / √a (R205). -/
def fvRsqrt (a : FV) : FV × Flags :=
  match a with
  | .nan s => (.nan false, flagIf s fIV)
  | .inf s => if s then (.nan false, fIV) else (.fin false 0 1, 0)
  | .fin s n d =>
    if n == 0 then (.inf s, fDZ)
    else if s then (.nan false, fIV)
    else
      let (x, y) := sqrtRatio n d
      (.fin false y x, 0)

def evalVsqrt (w : OpFields) (f : Firing) (e : Env) : Ex Commit :=
  evalOne w f e fun ro i x => elemFloat w ro i (fvSqrt (readF w.fmt ro.ftz x))
def evalVrsq (w : OpFields) (f : Firing) (e : Env) : Ex Commit :=
  evalOne w f e fun ro i x => elemFloat w ro i (fvRsqrt (readF w.fmt ro.ftz x))
def evalVrcp (w : OpFields) (f : Firing) (e : Env) : Ex Commit :=
  evalOne w f e fun ro i x => elemFloat w ro i (fvDiv (.fin false 1 1) (readF w.fmt ro.ftz x))
def execVsqrt (w : OpFields) (s : State) : Host.Outcome State Fault Refusal := runOp s (evalVsqrt w)
def execVrsq (w : OpFields) (s : State) : Host.Outcome State Fault Refusal := runOp s (evalVrsq w)
def execVrcp (w : OpFields) (s : State) : Host.Outcome State Fault Refusal := runOp s (evalVrcp w)

/-! ### The published functions (R207 to R210) -/

/-- 2^(j/64), rounded to the nearest f32 (R207). -/
def tabTE0 : List Nat := [0x3F800000, 0x3F8164D2, 0x3F82CD87, 0x3F843A29, 0x3F85AAC3, 0x3F871F62, 0x3F88980F, 0x3F8A14D5,
  0x3F8B95C2, 0x3F8D1ADF, 0x3F8EA43A, 0x3F9031DC, 0x3F91C3D3, 0x3F935A2B, 0x3F94F4F0, 0x3F96942D]
def tabTE1 : List Nat := [0x3F9837F0, 0x3F99E046, 0x3F9B8D3A, 0x3F9D3EDA, 0x3F9EF532, 0x3FA0B051, 0x3FA27043, 0x3FA43516,
  0x3FA5FED7, 0x3FA7CD94, 0x3FA9A15B, 0x3FAB7A3A, 0x3FAD583F, 0x3FAF3B79, 0x3FB123F6, 0x3FB311C4]
def tabTE2 : List Nat := [0x3FB504F3, 0x3FB6FD92, 0x3FB8FBAF, 0x3FBAFF5B, 0x3FBD08A4, 0x3FBF179A, 0x3FC12C4D, 0x3FC346CD,
  0x3FC5672A, 0x3FC78D75, 0x3FC9B9BE, 0x3FCBEC15, 0x3FCE248C, 0x3FD06334, 0x3FD2A81E, 0x3FD4F35B]
def tabTE3 : List Nat := [0x3FD744FD, 0x3FD99D16, 0x3FDBFBB8, 0x3FDE60F5, 0x3FE0CCDF, 0x3FE33F89, 0x3FE5B907, 0x3FE8396A,
  0x3FEAC0C7, 0x3FED4F30, 0x3FEFE4BA, 0x3FF28177, 0x3FF5257D, 0x3FF7D0DF, 0x3FFA83B3, 0x3FFD3E0C]
def tabTE : List Nat := tabTE0 ++ tabTE1 ++ tabTE2 ++ tabTE3
/-- log2(1 + j/64), rounded to the nearest f32 (R207). -/
def tabTL0 : List Nat := [0x00000000, 0x3CB73CB4, 0x3D35D69C, 0x3D8759C5, 0x3DB31FB8, 0x3DDE4212, 0x3E0462C4, 0x3E19574F,
  0x3E2E00D2, 0x3E42615F, 0x3E567AF1, 0x3E6A4F72, 0x3E7DE0B6, 0x3E88983F, 0x3E92203D, 0x3E9B8926]
def tabTL1 : List Nat := [0x3EA4D3C2, 0x3EAE00D2, 0x3EB7110E, 0x3EC0052B, 0x3EC8DDD4, 0x3ED19BB0, 0x3EDA3F60, 0x3EE2C97D,
  0x3EEB3A9F, 0x3EF39355, 0x3EFBD42B, 0x3F01FED4, 0x3F060828, 0x3F0A0650, 0x3F0DF989, 0x3F11E20F]
def tabTL2 : List Nat := [0x3F15C01A, 0x3F1993E3, 0x3F1D5DA0, 0x3F211D84, 0x3F24D3C2, 0x3F28808C, 0x3F2C2411, 0x3F2FBE80,
  0x3F335004, 0x3F36D8CB, 0x3F3A58FF, 0x3F3DD0C8, 0x3F41404F, 0x3F44A7BA, 0x3F480731, 0x3F4B5ED7]
def tabTL3 : List Nat := [0x3F4EAED0, 0x3F51F740, 0x3F553848, 0x3F587209, 0x3F5BA4A4, 0x3F5ED039, 0x3F61F4E5, 0x3F6512C7,
  0x3F6829FB, 0x3F6B3A9F, 0x3F6E44CD, 0x3F7148A1, 0x3F744636, 0x3F773DA4, 0x3F7A2F04, 0x3F7D1A71]
def tabTL : List Nat := tabTL0 ++ tabTL1 ++ tabTL2 ++ tabTL3
/-- 1/(1 + j/64), rounded to the nearest f32 (R207). -/
def tabTR0 : List Nat := [0x3F800000, 0x3F7C0FC1, 0x3F783E10, 0x3F74898D, 0x3F70F0F1, 0x3F6D7304, 0x3F6A0EA1, 0x3F66C2B4,
  0x3F638E39, 0x3F607038, 0x3F5D67C9, 0x3F5A740E, 0x3F579436, 0x3F54C77B, 0x3F520D21, 0x3F4F6475]
def tabTR1 : List Nat := [0x3F4CCCCD, 0x3F4A4588, 0x3F47CE0C, 0x3F4565C8, 0x3F430C31, 0x3F40C0C1, 0x3F3E82FA, 0x3F3C5264,
  0x3F3A2E8C, 0x3F381703, 0x3F360B61, 0x3F340B41, 0x3F321643, 0x3F302C0B, 0x3F2E4C41, 0x3F2C7692]
def tabTR2 : List Nat := [0x3F2AAAAB, 0x3F28E83F, 0x3F272F05, 0x3F257EB5, 0x3F23D70A, 0x3F2237C3, 0x3F20A0A1, 0x3F1F1166,
  0x3F1D89D9, 0x3F1C09C1, 0x3F1A90E8, 0x3F191F1A, 0x3F17B426, 0x3F164FDA, 0x3F14F209, 0x3F139A86]
def tabTR3 : List Nat := [0x3F124925, 0x3F10FDBC, 0x3F0FB824, 0x3F0E7835, 0x3F0D3DCB, 0x3F0C08C1, 0x3F0AD8F3, 0x3F09AE41,
  0x3F088889, 0x3F0767AB, 0x3F064B8A, 0x3F053408, 0x3F042108, 0x3F03126F, 0x3F020821, 0x3F010204]
def tabTR : List Nat := tabTR0 ++ tabTR1 ++ tabTR2 ++ tabTR3

/-- An f32 constant's value. -/
def f32 (bits : Nat) : FV := decodeF .f32 bits
/-- A value rounded to f32 in RNE without FTZ. -/
def to32 (v : FV) : FV := f32 (deliver .f32 Round.plain 0 v).1
def mul32 (a b : FV) : FV := to32 (fvMul a b).1
def add32 (a b : FV) : FV := to32 (fvAdd .rne a b).1
def sub32 (a b : FV) : FV := to32 (fvAdd .rne a b.negate).1
def fma32 (a b c : FV) : FV := to32 (fvFma .rne a b c).1
/-- An integer over 2^k as an exact value. -/
def fvOver (m : Int) (k : Nat) : FV := .fin (decide (m < 0)) m.natAbs (2 ^ k)
/-- An exact value times 2^k. -/
def fvScale (v : FV) (k : Int) : FV :=
  match v with
  | .fin s n d => let (m, q) := scale2 1 k; .fin s (n * m) (d * q)
  | v => v
/-- floor of a finite value times 2^k. -/
def fvFloor (k : Nat) : FV → Int
  | .fin s n d => if s then -((n * 2 ^ k + d - 1) / d : Nat) else ((n * 2 ^ k / d : Nat) : Int)
  | _ => 0
/-- A finite value that is an integer. -/
def fvIsInt : FV → Bool
  | .fin _ n d => n % d == 0
  | _ => false

/-- exp2_core of R208. -/
def exp2Core (x : FV) : FV :=
  let m := fvFloor 6 x
  let k := m / 64
  let te := f32 (tabTE.getD (m % 64).toNat 0)
  let r := sub32 x (fvOver m 6)
  let h := mul32 (fma32 (fma32 (f32 0x3D635847) r (f32 0x3E75FDF0)) r (f32 0x3F317218)) r
  fvScale (fvAdd .rne te (fvMul te h).1).1 k

/-- VEXP2's element (R208). -/
def vexp2 (fmt : Fmt) (ro : Round) (i : Nat) (x : FV) : Nat × Flags :=
  match x with
  | .nan s => (canonNaN fmt, flagIf s fIV)
  | .inf s => (if s then encZero fmt false else encInf fmt false, 0)
  | x =>
    if !fvLt x (.fin false 128 1) then overflow fmt ro.rm false
    else
      let y := if fvLt x (.fin true 256 1) then .fin true 256 1 else x
      let r := deliver fmt ro i (exp2Core y)
      (r.1, r.2 ||| flagIf (!fvIsInt y) fNX)

/-- VLOG2's element (R209). -/
def vlog2 (fmt : Fmt) (ro : Round) (i : Nat) (x : FV) : Nat × Flags :=
  match x with
  | .nan s => (canonNaN fmt, flagIf s fIV)
  | .inf s => if s then (canonNaN fmt, fIV) else (encInf fmt false, 0)
  | .fin s n d =>
    if n == 0 then (encInf fmt true, fDZ)
    else if s then (canonNaN fmt, fIV)
    else
      let e := ilog n d
      let m := fvScale (.fin false n d) (-e)
      let j := (fvFloor 6 m).toNat - 64
      let t := mul32 (fvAdd .rne m (fvOver (64 + j) 6).negate).1 (f32 (tabTR.getD j 0))
      let h := mul32 (fma32 (fma32 (f32 0x3EF6384F) t (f32 0xBF38AA3B)) t (f32 0x3FB8AA3B)) t
      let r := deliver fmt ro i (fvAdd ro.rm (fvOfInt e) (add32 (f32 (tabTL.getD j 0)) h)).1
      (r.1, r.2 ||| flagIf (!fvEq m (.fin false 1 1)) fNX)

/-- VTANH's element (R210). -/
def vtanh (fmt : Fmt) (ro : Round) (i : Nat) (x : FV) : Nat × Flags :=
  match x with
  | .nan s => (canonNaN fmt, flagIf s fIV)
  | .inf s => ((roundTo fmt .rne false 0 s 1 1).1, 0)
  | .fin s n d =>
    if n == 0 then (encZero fmt s, 0)
    else
      let a : FV := .fin false n d
      let v : FV :=
        if fvLt a (.fin false 1 8) then
          let q := mul32 a a
          let h := mul32 (fma32 (fma32 (f32 0xBD5D0DD1) q (f32 0x3E088889)) q (f32 0xBEAAAAAB)) q
          (fvAdd .rne a (fvMul a h).1).1
        else if !fvLt a (.fin false 16 1) then .fin false (2 ^ 40 - 1) (2 ^ 40)
        else
          let ex := to32 (exp2Core (mul32 a (f32 0x4038AA3B)))
          (fvDiv (sub32 ex (f32 0x3F800000)) (add32 ex (f32 0x3F800000))).1
      let r := deliver fmt ro i (if s then v.negate else v)
      (r.1, r.2 ||| fNX)

def evalVexp2 (w : OpFields) (f : Firing) (e : Env) : Ex Commit :=
  evalOne w f e fun ro i x => vexp2 w.fmt ro i (readF w.fmt ro.ftz x)
def evalVlog2 (w : OpFields) (f : Firing) (e : Env) : Ex Commit :=
  evalOne w f e fun ro i x => vlog2 w.fmt ro i (readF w.fmt ro.ftz x)
def evalVtanh (w : OpFields) (f : Firing) (e : Env) : Ex Commit :=
  evalOne w f e fun ro i x => vtanh w.fmt ro i (readF w.fmt ro.ftz x)
def execVexp2 (w : OpFields) (s : State) : Host.Outcome State Fault Refusal := runOp s (evalVexp2 w)
def execVlog2 (w : OpFields) (s : State) : Host.Outcome State Fault Refusal := runOp s (evalVlog2 w)
def execVtanh (w : OpFields) (s : State) : Host.Outcome State Fault Refusal := runOp s (evalVtanh w)

/-! ### VCVT (R211) -/

/-- Is the source read as an integer? -/
def cvtInt (w : OpFields) : Bool :=
  let src := srcOf w
  Enc.Fmt.isInt src || src == .s4 || (w.var == 1 && src == .a36)

/-- The copy within one float format (R197). -/
def copyFloat (fmt : Fmt) (ftz : Bool) (x : Nat) : Nat × Flags :=
  match readF fmt ftz x with
  | .nan s => (canonNaN fmt, flagIf s fIV)
  | v => if ftz && ftzActs fmt && isSubnormal fmt x then (encZero fmt v.sign, 0) else (x, 0)

/-- One element of a result that is not MX, from a source that is not MX. Under VAR 1 the integer is converted, into a36 too
(log entry 94). -/
def cvtElem (w : OpFields) (ro : Round) (i x : Nat) : Nat × Flags :=
  let src := srcOf w
  if w.var == 1 then
    if Enc.Fmt.isInt w.fmt || w.fmt == .s4 then
      let r := fitPlain (readInt .a36 x) w.fmt (satOf w)
      (wrapNat (width w.fmt) r.1, r.2)
    else toFloat w.fmt ro.rm false (ro.rnd i) (fvOfInt (readInt .a36 x))
  else if src == w.fmt && isFloat src then copyFloat src ro.ftz x
  else convert src w.fmt ro.rm (ro.ftz && !cvtInt w) (satOf w) (ro.rnd i) x

/-- One element of a result that is not MX, from an exact value. -/
def cvtValue (w : OpFields) (ro : Round) (i : Nat) (v : FV) : Nat × Flags :=
  if Enc.Fmt.isInt w.fmt || w.fmt == .s4 then
    let r := toInteger w.fmt ro.rm (ro.rnd i) v
    (wrapNat (width w.fmt) r.1, r.2)
  else toFloat w.fmt ro.rm ro.ftz (ro.rnd i) v

/-- The source element as an exact value. -/
def cvtSource (w : OpFields) (h : Handle) (ftz : Bool) (data : List Byte) (i j : Nat) : FV :=
  if cvtInt w then fvOfInt (readInt h.fmt (elemIn h data i j)) else valueIn h ftz data i j

/-- An MX row made block by block (R166); flags by column. -/
def mxBlocks (fmt : Fmt) (ro : Round) (base : Nat) : Nat → Nat → List FV → List Nat × List (Nat × Flags)
  | 0, _, _ => ([], [])
  | n + 1, k, xs =>
    let (s, es) := toMx fmt ro.rm ro.ftz (fun c => ro.rnd (base + 32 * k + c)) (xs.take 32)
    let (ss, rest) := mxBlocks fmt ro base n (k + 1) (xs.drop 32)
    (s :: ss, es ++ rest)

/-- One block copied within an MX format. -/
def mxCopyBlock (fmt : Fmt) (ftz : Bool) (scale : Nat) (es : List Nat) : Nat × List (Nat × Flags) :=
  if scale = 255 then (255, es.map fun _ => (0, 0))
  else (scale, es.map fun x => copyFloat (mxElem fmt) ftz x)

def mxCopyRow (fmt : Fmt) (ftz : Bool) (cols : Nat) (row : List Byte) : List Nat × List (Nat × Flags) :=
  let bs := (List.range (cols / 32)).map fun k =>
    mxCopyBlock fmt ftz (scaleByte fmt cols row k) ((List.range 32).map fun c => elemBits fmt row (32 * k + c))
  (bs.map Prod.fst, bs.flatMap Prod.snd)

/-- VCVT (R211). -/
def evalVcvt (w : OpFields) (f : Firing) (e : Env) : Ex Commit :=
  let (h, data) := f.tile .a
  let src := srcOf w
  let ro := { rounding w f e with ftz := w.mod.getLsbD 3 && !cvtInt w }
  let pre := needFmt f .a src *> needFits w.fmt h.rows h.cols
  let dstInt := Enc.Fmt.isInt w.fmt || w.fmt == .s4
  evalOp w f e (true, false, false) pre (!(cvtInt w && dstInt))
    (if isMX w.fmt then
      let rows := (List.range h.rows).map fun i =>
        if i < h.valid then
          let (sc, es) :=
            if src == w.fmt then
              mxCopyRow w.fmt ro.ftz h.cols (if rowPoisoned h i then zeros h.rowLen else rowAt h data i)
            else mxBlocks w.fmt ro (i * h.cols) (h.cols / 32) 0
              ((List.range h.cols).map fun j => cvtSource w h ro.ftz data i j)
          (sc, if rowPoisoned h i then es.map fun x => (x.1, (0 : Flags)) else es)
        else (List.replicate (h.cols / 32) 0, List.replicate h.cols (0, (0 : Flags)))
      .ok ([res0 (tileRes f w.fmt h.rows h.cols h.valid h.poison
              (rows.flatMap fun r => packRow w.fmt (r.2.map Prod.fst) r.1))], gridFlags (rows.map Prod.snd))
    else
      let r := tileApply w.fmt h.rows h.cols h.valid h.poison fun i j =>
        if isMX src then cvtValue w ro (i * h.cols + j) (valueIn h ro.ftz data i j)
        else cvtElem w ro (i * h.cols + j) (elemIn h data i j)
      .ok ([res0 (tileRes f w.fmt h.rows h.cols h.valid h.poison r.1)], r.2))
def execVcvt (w : OpFields) (s : State) : Host.Outcome State Fault Refusal := runOp s (evalVcvt w)

/-! ### VSCAL, VROWOP, VCOLOP (R206) -/

def evalVscal (w : OpFields) (f : Firing) (e : Env) : Ex Commit :=
  let a := f.handle .a
  let ga := f.grid .a
  let ro := rounding w f e
  let sc := f.bits w.fmt .b
  evalTile w f e (true, false, false) (needFmt f .a w.fmt) (fpOf w) w.fmt a.rows a.cols a.valid
    (a.poison ||| (if f.isPoisoned .b then poisonAll a.rows else 0))
    fun i j => elemOp w ro w.var.toNat (i * a.cols + j) (cellOf ga i j) sc
def evalVrowop (w : OpFields) (f : Firing) (e : Env) : Ex Commit :=
  let a := f.handle .a
  let b := f.handle .b
  let ga := f.grid .a
  let gb := f.grid .b
  let ro := rounding w f e
  evalTile w f e (true, true, false) (needFmt f .a w.fmt *> needFmt f .b w.fmt *> needShape f .b a.rows 1) (fpOf w)
    w.fmt a.rows a.cols (min a.valid b.valid) (a.poison ||| b.poison)
    fun i j => elemOp w ro w.var.toNat (i * a.cols + j) (cellOf ga i j) (cellOf gb i 0)
def evalVcolop (w : OpFields) (f : Firing) (e : Env) : Ex Commit :=
  let a := f.handle .a
  let b := f.handle .b
  let ga := f.grid .a
  let gb := f.grid .b
  let ro := rounding w f e
  evalTile w f e (true, true, false) (needFmt f .a w.fmt *> needFmt f .b w.fmt *> needShape f .b 1 a.cols) (fpOf w)
    w.fmt a.rows a.cols a.valid (a.poison ||| (if b.poison.getLsbD 0 then poisonAll a.rows else 0))
    fun i j => elemOp w ro w.var.toNat (i * a.cols + j) (cellOf ga i j) (cellOf gb 0 j)
def execVscal (w : OpFields) (s : State) : Host.Outcome State Fault Refusal := runOp s (evalVscal w)
def execVrowop (w : OpFields) (s : State) : Host.Outcome State Fault Refusal := runOp s (evalVrowop w)
def execVcolop (w : OpFields) (s : State) : Host.Outcome State Fault Refusal := runOp s (evalVcolop w)

/-! ### Comparison, selection, bits (R212 to R214) -/

/-- VCMP (R212): a bit tile. -/
def evalVcmp (w : OpFields) (f : Firing) (e : Env) : Ex Commit :=
  let a := f.handle .a
  let b := f.handle .b
  let ga := f.grid .a
  let gb := f.grid .b
  let ftz := w.mod.getLsbD 3
  evalTile w f e (true, true, false) (needFmt f .a w.fmt *> needFmt f .b w.fmt *> needShape f .b a.rows a.cols) (fpOf w)
    .bit a.rows a.cols (min a.valid b.valid) (a.poison ||| b.poison)
    fun i j =>
      let x := cellOf ga i j
      let y := cellOf gb i j
      if Enc.Fmt.isF w.fmt then
        let r := fvCompare w.var.toNat (readF w.fmt ftz x) (readF w.fmt ftz y)
        (r.1.toNat, r.2)
      else ((cmpCond w.var.toNat (readInt w.fmt x) (readInt w.fmt y) x y).toNat, 0)
def execVcmp (w : OpFields) (s : State) : Host.Outcome State Fault Refusal := runOp s (evalVcmp w)

/-- VMSEL (R213). -/
def evalVmsel (w : OpFields) (f : Firing) (e : Env) : Ex Commit :=
  let a := f.handle .a
  let ga := f.grid .a
  let gb := f.grid .b
  let gc := f.grid .c
  evalTile w f e (true, true, true)
    (needFmt f .a .bit *> needFmt f .b w.fmt *> needFmt f .c w.fmt *> needShape f .b a.rows a.cols *>
      needShape f .c a.rows a.cols) false
    w.fmt a.rows a.cols (min a.valid (min (f.handle .b).valid (f.handle .c).valid))
    (a.poison ||| (f.handle .b).poison ||| (f.handle .c).poison)
    fun i j => (if cellOf ga i j != 0 then cellOf gb i j else cellOf gc i j, 0)
def execVmsel (w : OpFields) (s : State) : Host.Outcome State Fault Refusal := runOp s (evalVmsel w)

/-- Two tiles combined bit for bit (R214). -/
def evalLogic (w : OpFields) (f : Firing) (e : Env) (op : Nat → Nat → Nat) : Ex Commit :=
  let a := f.handle .a
  let b := f.handle .b
  let ga := f.grid .a
  let gb := f.grid .b
  evalTile w f e (true, true, false) (needFmt f .a w.fmt *> needFmt f .b w.fmt *> needShape f .b a.rows a.cols) false
    w.fmt a.rows a.cols (min a.valid b.valid) (a.poison ||| b.poison)
    fun i j => (op (cellOf ga i j) (cellOf gb i j), 0)
def evalVand (w : OpFields) (f : Firing) (e : Env) : Ex Commit := evalLogic w f e Nat.land
def evalVor (w : OpFields) (f : Firing) (e : Env) : Ex Commit := evalLogic w f e Nat.lor
def evalVxor (w : OpFields) (f : Firing) (e : Env) : Ex Commit := evalLogic w f e Nat.xor
def execVand (w : OpFields) (s : State) : Host.Outcome State Fault Refusal := runOp s (evalVand w)
def execVor (w : OpFields) (s : State) : Host.Outcome State Fault Refusal := runOp s (evalVor w)
def execVxor (w : OpFields) (s : State) : Host.Outcome State Fault Refusal := runOp s (evalVxor w)

/-- The shift of R186 that VAR names: shl, shr, sra, rotl. -/
def shiftBits (var w x n : Nat) : Nat :=
  match var with
  | 0 => x * 2 ^ n % 2 ^ w
  | 1 => x / 2 ^ n
  | 2 => sraBits w x n
  | _ => rotlBits w x n

/-- VSHF (R214): a poisoned count is read as 0 and poisons every row. -/
def evalVshf (w : OpFields) (f : Firing) (e : Env) : Ex Commit :=
  let a := f.handle .a
  let ga := f.grid .a
  evalTile w f e (true, false, false) (needFmt f .a w.fmt) false w.fmt a.rows a.cols a.valid
    (a.poison ||| (if f.isPoisoned .b then poisonAll a.rows else 0))
    fun i j => (shiftBits w.var.toNat (width w.fmt) (cellOf ga i j) (shiftOf w f), 0)
def execVshf (w : OpFields) (s : State) : Host.Outcome State Fault Refusal := runOp s (evalVshf w)

/-! ### Shape (R215 to R217) -/

/-- VFILL (R215): SEQ and DISC are 0. -/
def evalVfill (w : OpFields) (f : Firing) (e : Env) : Ex Commit :=
  let rows := Enc.immField w 0 6 + 1
  let cols := Enc.immField w 6 9 + 1
  let x := f.bits w.fmt .a
  evalTile w f e (false, false, false) (.ok ()) false w.fmt rows cols rows
    (if f.isPoisoned .a then poisonAll rows else 0) fun _ _ => (x, 0)
def execVfill (w : OpFields) (s : State) : Host.Outcome State Fault Refusal := runOp s (evalVfill w)

/-- VTRAN (R216), its elements read and written by R202 (log entry 20). -/
def evalVtran (w : OpFields) (f : Firing) (e : Env) : Ex Commit :=
  let a := f.handle .a
  let ga := f.grid .a
  evalTile w f e (true, false, false) (needFmt f .a w.fmt *> trapIf (decide (64 < a.cols)) tBAD_OPERAND) false
    w.fmt a.cols a.rows a.cols (if a.poison != 0 then poisonAll a.cols else 0) fun i j => (cellOf ga j i, 0)
def execVtran (w : OpFields) (s : State) : Host.Outcome State Fault Refusal := runOp s (evalVtran w)

/-- A row moved into a poisoned row of a result: NaN and infinity are +0 (R202), of an MX row a NaN block whole. -/
def quietRow (fmt : Fmt) (cols : Nat) (row : List Byte) : List Byte :=
  let es := (List.range cols).map (elemBits fmt row)
  if isMX fmt then
    let ss := (List.range (cols / 32)).map (scaleByte fmt cols row)
    packRow fmt (es.mapIdx fun c x => if ss.getD (c / 32) 0 = 255 || special (mxElem fmt) x then 0 else x)
      (ss.map fun s => if s = 255 then 0 else s)
  else packElems fmt (es.map fun x => (tileElem fmt true (x, 0)).1)

/-- A row as it is read: bits [63:36] of an a36 element are zero, whatever they are (R167). -/
def readRow (f : Fmt) (row : List Byte) : List Byte :=
  if f == .a36 then row.mapIdx fun k b => if k % 8 < 4 then b else if k % 8 = 4 then b &&& 0x0F else 0 else row

/-- Row i of a tile as a copying operator writes it into a result row, poisoned or not (R202, R219): a poisoned row of
the operand reads as +0. -/
def rowMoved (h : Handle) (data : List Byte) (i : Nat) (bad : Bool) : List Byte :=
  if rowPoisoned h i then zeros h.rowLen
  else if bad then quietRow h.fmt h.cols (rowAt h data i) else readRow h.fmt (rowAt h data i)

/-- Columns a window must keep to (R217). -/
def windowStep (f : Fmt) : Nat :=
  if isMX f then 32 else if f == .s4 || f == .e2m1 then 2 else if f == .bit then 8 else 1

/-- VSLIC (R217): the descriptor's range is checked on its bits as they stand, then its poison. -/
def evalVslic (w : OpFields) (f : Firing) (e : Env) : Ex Commit :=
  let (h, data) := f.tile .a
  let d := (f.word' .b).toNat % 2 ^ 32
  let row0 := d % 64
  let col0 := d / 2 ^ 6 % 512
  let nr := d / 2 ^ 15 % 64 + 1
  let nc := d / 2 ^ 21 % 512 + 1
  let k := windowStep w.fmt
  let pre : Ex Unit :=
    needFmt f .a w.fmt *>
    trapIf (d / 2 ^ 30 != 0 || decide (h.rows < row0 + nr) || decide (h.cols < col0 + nc) || col0 % k != 0 ||
      nc % k != 0) tBAD_OPERAND *> needFits w.fmt nr nc *> checkPoison f .b 1
  let valid := min nr (h.valid - row0)
  let bad := poisonRows nr fun i => rowPoisoned h (row0 + i)
  evalOp w f e (true, false, false) pre false
    (.ok ([res0 (tileRes f w.fmt nr nc valid bad
        ((List.range nr).flatMap fun i =>
          if i < valid then
            let row := rowMoved h data (row0 + i) (bad.getLsbD (group nr i))
            packRow w.fmt ((List.range nc).map fun j => elemBits w.fmt row (col0 + j))
              (if isMX w.fmt then (List.range (nc / 32)).map fun j => scaleByte w.fmt h.cols row (col0 / 32 + j) else [])
          else zeros (rowLen w.fmt nc)))], []))
def execVslic (w : OpFields) (s : State) : Host.Outcome State Fault Refusal := runOp s (evalVslic w)

end Sys2Proof.Machine
end

