-- ==== Sys2Proof/Machine/Watchpoints.lean ====
section
/-! DEFINITION. The test of a firing against the armed watch slots of its cell (R390, R403 to R405). -/

namespace Sys2Proof.Machine

/-- The armed slots of a kind that a target test accepts, as the cell had applied them when the firing was selected (R405).
Handler frames and a re-formed firing under NOWATCH are not tested (R395, R400). -/
def State.watches (s : State) (f : Firing) (kind : Nat) (hit : Nat → Bool) : List Watch :=
  if f.nowatch || s.isHandler f.asid f.tag then []
  else f.watch.filter fun w => w.kind == kind && hit w.target

/-- Is a coordinate in a slot's window, both corners included? -/
def Watch.covers (w : Watch) (p : Nat × Nat) : Bool :=
  let hi (v : Word64) : Nat := v.toNat / 2 ^ 32
  let lo (v : Word64) : Nat := v.toNat % 2 ^ 32
  decide (hi w.lo ≤ p.1) && decide (p.1 ≤ hi w.hi) && decide (lo w.lo ≤ p.2) && decide (p.2 ≤ lo w.hi)

/-- The lowest slot of a list. -/
def lowestWatch : List (Watch × Nat × Nat) → Option (Watch × Nat × Nat)
  | [] => none
  | x :: t => match lowestWatch t with
    | some y => if y.1.slot < x.1.slot then some y else some x
    | none => some x

/-- WATCH: the lowest matching slot, and the first coordinate in element order that lies in it (R404). -/
def watchTest (ws : List Watch) (coords : List (Nat × Nat)) : Ex Unit :=
  match lowestWatch (ws.filterMap fun w => (coords.find? w.covers).map fun p => (w, p)) with
  | none => .ok ()
  | some (w, p) =>
    .error { trapOf 0x10 w.slot with
             aux := BitVec.ofNat 64 (w.slot + 16 * w.kind), coord := BitVec.ofNat 64 (p.1 * 2 ^ 32 + p.2) }

/-- The coordinates of a rectangle, row-major. -/
def rectangle (row col rows cols : Nat) : List (Nat × Nat) :=
  (List.range rows).flatMap fun i => (List.range cols).map fun j => (row + i, col + j)

end Sys2Proof.Machine
end

