-- ==== Sys2Proof/Machine/Matrix.lean ====
section
/-! DEFINITION. The matrix unit and the accumulators, codes 0x70 to 0x78 (R233 to R250), with the block sums of
R175. -/

namespace Sys2Proof.Machine

/-! ### Accumulator words (R234 to R236) -/

def accWord (cell : Nat) (step : BitVec 16) (n : Nat) (gen : BitVec 4) (frame : Nat) : Word64 :=
  0#5 ++ BitVec.ofNat 11 cell ++ step ++ 0#14 ++ BitVec.ofNat 2 n ++ gen ++ BitVec.ofNat 12 frame

/-- The word of an accumulator as it stands; 0 for its owner when FREE. -/
def Acc.wordAt (a : Acc) (cell n : Nat) : Word64 :=
  match a.owner with
  | some (fr, g, _) => accWord cell a.step n (BitVec.ofNat 4 g) fr
  | none => accWord cell a.step n 0 0

/-- Element bits; an element nothing has written is 0 (R233). -/
def Acc.at (a : Acc) (i j : Nat) : Nat := (a.data.getD (i * a.cols + j) 0).toNat
def Acc.rowBad (a : Acc) (i : Nat) : Bool := a.poison.getLsbD (group a.rows i)

def tACC_OWNER (code : Nat) (word : Word64) : Trap := { trapOf 0x18 code with aux := word }

/-- Who may use an accumulator through its word: whether the operator is one a handler frame may run. -/
inductive AccUse where
  | owner | read | patch
  deriving DecidableEq, Repr

/-- acc_use of R235: the accumulator's number and the accumulator. -/
def accUse (s : State) (f : Firing) (e : Env) (p : Port) (op : AccUse) : Ex (Nat × Acc) := do
  trapIf ((f.val p).isTile) tBAD_OPERAND
  checkPoison f p 1
  let w := f.word' p
  trapIf (w.extractLsb' 59 5 != 0 || w.extractLsb' 18 14 != 0 || (w.extractLsb' 48 11).toNat != f.cell) tBAD_OPERAND
  let n := (w.extractLsb' 16 2).toNat
  let a := (s.cell f.cell).acc n
  match a.owner with
  | none => .error (tACC_OWNER 2 w)
  | some (fr, g, asid) =>
    trapIf (asid != f.asid) (tACC_OWNER 1 w)
    if fr = tagFrame f.tag ∧ g = (tagGen f.tag).toNat then pure ()
    else do
      trapIf (op == .owner || !e.handler) (tACC_OWNER 1 w)
      trapIf (!e.caps.getLsbD 0) (tACC_OWNER 3 w)
      trapIf (op == .patch && !e.caps.getLsbD 1) (tACC_OWNER 3 w)
      let o := s.frameOf f.asid (frameTag (BitVec.ofNat 4 g) fr)
      trapIf (op == .patch && !(o.st == .parked && o.gen.toNat == g)) (tACC_OWNER 4 w)
    trapIf (w.extractLsb' 32 16 != a.step || (w.extractLsb' 0 12).toNat != fr || (w.extractLsb' 12 4).toNat != g)
      tBAD_OPERAND
    pure (n, a)

/-- AZERO and ALOAD: the accumulator is FREE or the firing's frame owns it (R236); fl: the flags they would commit. -/
def accClaim (s : State) (f : Firing) (n : Nat) (fl : Flags) : Ex Acc :=
  let a := (s.cell f.cell).acc n
  match a.owner with
  | none => .ok a
  | some o =>
    if o = (tagFrame f.tag, (tagGen f.tag).toNat, f.asid) then .ok a else .error { tACC_OWNER 1 0 with flags := fl }

/-- An accumulator firing: its outputs and flags, and the shadow it writes when it commits (R237). -/
abbrev AccEx := Ex (Commit × Nat × Acc)

def State.settleAcc (s : State) (f : Firing) : AccEx → State
  | .ok (c, n, a) => s.commitWith f c fun st => st.modCell f.cell fun x => x.setAcc n a
  | .error t => s.fail f t

def runAcc (s : State) (g : State → Firing → Env → AccEx) : Host.Outcome State Fault Refusal :=
  runFiring s fun f => s.settleAcc f (g s f (s.env f))

/-- The word after a step, on a side, with the OR of every consumed token's EOS (log entry 95). -/
def accRes (f : Firing) (side : Bool) (n : Nat) (a : Acc) : Res :=
  { side := side, val := .scalar (a.wordAt f.cell n) false f.eos, line := none }

/-! ### Multiplication (R175, R241, R242, R244) -/

/-- Rows of an operand as exact values; padding and poisoned rows are +0. -/
def fvRows (h : Handle) (data : List Byte) : List (List FV) :=
  (List.range h.rows).map fun i =>
    if isMX h.fmt then mxRow h false data i
    else (List.range h.cols).map fun j => readF h.fmt false (elemIn h data i j)
def intRows (h : Handle) (data : List Byte) : List (List Int) :=
  (gridIn h data).map fun r => r.map (readInt h.fmt)

/-- One block added to a floating accumulator element: the exact sum of products and element, rounded once. -/
def macBlock (acc : Nat) (ps : List (FV × Flags)) : Nat × Flags :=
  let a := decodeF .a36 acc
  let vs := a :: ps.map Prod.fst
  let pinf := vs.any (· == .inf false)
  let ninf := vs.any (· == .inf true)
  let iv := ps.foldl (fun x p => x ||| p.2) (flagIf a.isSig fIV) ||| flagIf (pinf && ninf) fIV
  if vs.any FV.isNan || (pinf && ninf) then (canonNaN .a36, iv)
  else if pinf || ninf then (encInf .a36 ninf, iv)
  else
    let sum := (ps.foldl (fun x p => (fvAdd .rne x p.1).1) (.fin false 0 1))
    let blk : FV := if sum.isZero then .fin false 0 1 else sum
    let r := deliver .a36 Round.plain 0 (fvAdd .rne a blk).1
    (r.1, iv ||| r.2)

/-- mma_element over floats: n blocks of b products. -/
def macFloat (b : Nat) : Nat → Nat → List FV → List FV → Nat × Flags
  | 0, acc, _, _ => (acc, 0)
  | n + 1, acc, xs, ys =>
    let (a1, f1) := macBlock acc ((xs.take b).zipWith fvMul (ys.take b))
    let (a2, f2) := macFloat b n a1 (xs.drop b) (ys.drop b)
    (a2, f1 ||| f2)

/-- mma_element over integers: each block's sum wraps or saturates at 36 bits. -/
def macInt (sat : Bool) (b : Nat) : Nat → Nat → List Int → List Int → Nat × Flags
  | 0, acc, _, _ => (acc, 0)
  | n + 1, acc, xs, ys =>
    let s := ((xs.take b).zipWith (· * ·) (ys.take b)).foldl (· + ·) 0
    let r := fitPlain (readInt .a36 acc + s) .a36 sat
    let (a2, f2) := macInt sat b n (wrapNat 36 r.1) (xs.drop b) (ys.drop b)
    (a2, r.2 ||| f2)

def macIsInt (fmt : Fmt) : Bool := fmt == .s8 || fmt == .s4
def blockSize (fmt : Fmt) : Nat := if fmt == .bf16 || fmt == .f16 then 8 else 32

/-- Rows 0 to m - 1 of the product added to the accumulator; the rows above keep their bits. -/
def macAll (fmt : Fmt) (sat : Bool) (acc : Acc) (p : BitVec 8) (m : Nat) (ha : Handle) (da : List Byte) (hb : Handle)
    (db : List Byte) : List (List (Nat × Flags)) :=
  let k := hb.cols
  let b := blockSize fmt
  let n := (k + b - 1) / b
  let old := fun i => (List.range acc.cols).map fun j => (acc.at i j, (0 : Flags))
  let bad := fun i => p.getLsbD (group acc.rows i)
  if macIsInt fmt then
    let xa := intRows ha da
    let xb := intRows hb db
    (List.range acc.rows).map fun i =>
      if i < m then (List.range acc.cols).map fun j =>
        let r := macInt sat b n (acc.at i j) (xa.getD i []) (xb.getD j [])
        (r.1, if bad i then 0 else r.2)
      else old i
  else
    let xa := fvRows ha da
    let xb := fvRows hb db
    (List.range acc.rows).map fun i =>
      if i < m then (List.range acc.cols).map fun j =>
        let r := macFloat b n (acc.at i j) (xa.getD i []) (xb.getD j [])
        if bad i then (if (decodeF .a36 r.1).isNan then 0 else r.1, 0) else r
      else old i

/-- MMA, MMAG and MMAS, over port a's dense operand of m rows that count. -/
def evalMac (w : OpFields) (s : State) (f : Firing) (e : Env) (ragged : Bool) (afmt : Fmt) (acols : Nat → Nat)
    (dense : Handle × List Byte → Ex (Handle × List Byte)) : AccEx := do
  let (n, acc) ← accUse s f e .c .owner
  checkKinds f true true false
  let a := f.handle .a
  let b := f.handle .b
  trapIf (a.fmt != afmt || b.fmt != w.fmt) tBAD_OPERAND
  trapIf (a.rows != acc.rows || b.rows != acc.cols || a.cols != acols b.cols) tBAD_OPERAND
  let (ha, da) ← dense (f.tile .a)
  let m := if ragged then a.valid else acc.rows
  let live := poisonOf acc.rows (List.range m)
  let p := acc.poison ||| ((a.poison ||| (if b.poison != 0 then poisonAll acc.rows else 0)) &&& live)
  let g := macAll w.fmt (satOf w) acc p m ha da b (f.tile .b).2
  let fl := gridFlags g
  let tag ← tagFlags (outTag w f e) (.ok ([], fl))
  let flags ← if macIsInt w.fmt then pure (orAll fl) else fpCheck e.fpen fl
  let acc1 : Acc :=
    { acc with step := acc.step + 1, poison := p, data := g.flatten.map fun x => BitVec.ofNat 36 x.1 }
  pure (Commit.ofRes tag [accRes f false n acc1] flags, n, acc1)

/-- MMA (R241). -/
def evalMma (w : OpFields) (s : State) (f : Firing) (e : Env) : AccEx := evalMac w s f e false w.fmt id .ok
/-- MMAG (R242): only rows below a's VALID. -/
def evalMmag (w : OpFields) (s : State) (f : Firing) (e : Env) : AccEx := evalMac w s f e true w.fmt id .ok
def execMma (w : OpFields) (s : State) : Host.Outcome State Fault Refusal := runAcc s (evalMma w)
def execMmag (w : OpFields) (s : State) : Host.Outcome State Fault Refusal := runAcc s (evalMmag w)

/-! ### 2:4 compression (R243, R244) -/

/-- The order of magnitudes in a group of four: is x kept before y? NaN, then infinity, then the greater. -/
def magBefore (x y : FV) : Bool :=
  match x, y with
  | _, .nan _ => false
  | .nan _, _ => true
  | _, .inf _ => false
  | .inf _, _ => true
  | .fin _ n d, .fin _ m q => decide (m * d < n * q)

/-- The two kept indices of four values, ascending; ties go to the lower index. -/
def keepTwo (v : Nat → FV) : Nat × Nat :=
  -- i is kept when at most one other index comes before it
  let beats := fun i j => magBefore (v i) (v j) || (!magBefore (v j) (v i) && decide (i < j))
  let kept := (List.range 4).filter fun i => ((List.range 4).filter fun j => j != i && beats j i).length < 2
  (kept.getD 0 0, kept.getD 1 1)

/-- A compressed row: kept bytes, scales, nibbles. -/
def compressRow (fmt : Fmt) (k : Nat) (row : List Byte) : List Byte :=
  let keep := (List.range (k / 4)).map fun g =>
    let p := keepTwo fun i => decodeF (mxElem fmt) (row.getD (4 * g + i) 0).toNat
    (g, p)
  (keep.flatMap fun x => [row.getD (4 * x.1 + x.2.1) 0, row.getD (4 * x.1 + x.2.2) 0]) ++
    (row.drop k).take (k / 32) ++ packNibbles (keep.map fun x => x.2.1 + 4 * x.2.2)

/-- MCOMP (R243): bits are copied, those of poisoned rows too. -/
def evalMcomp (w : OpFields) (f : Firing) (e : Env) : Ex Commit :=
  let (h, data) := f.tile .a
  let cols := 21 * h.cols / 32
  evalOp w f e (true, false, false) (needFmt f .a w.fmt *> needFits .z8 h.rows cols) false
    (.ok ([res0 (tileRes f .z8 h.rows cols h.valid h.poison
      ((List.range h.rows).flatMap fun i =>
        if i < h.valid then compressRow w.fmt h.cols (rowAt h data i) else zeros cols))], []))
def execMcomp (w : OpFields) (s : State) : Host.Outcome State Fault Refusal := runOp s (evalMcomp w)

/-- The nibble of group g of a compressed row of k dense columns. -/
def nibbleAt (k : Nat) (row : List Byte) (g : Nat) : Nat :=
  (row.getD (k / 2 + k / 32 + g / 2) 0).toNat / (if g % 2 = 0 then 1 else 16) % 16

/-- A compressed row made dense again. -/
def expandRow (k : Nat) (row : List Byte) : List Byte :=
  ((List.range (k / 4)).flatMap fun g =>
    let n := nibbleAt k row g
    (List.range 4).map fun i =>
      if i = n % 4 then row.getD (2 * g) 0 else if i = n / 4 then row.getD (2 * g + 1) 0 else 0) ++
    (row.drop (k / 2)).take (k / 32)

/-- The dense tile of a compressed one of k columns; a pair of kept indices that does not ascend is BAD_OPERAND, in a
poisoned row too; padding rows are zero bytes (R243). -/
def expandTile (fmt : Fmt) (k : Nat) (t : Handle × List Byte) : Ex (Handle × List Byte) :=
  let (h, data) := t
  let ok := (List.range h.valid).all fun i =>
    let row := rowAt h data i
    (List.range (k / 4)).all fun g => let n := nibbleAt k row g; decide (n % 4 < n / 4)
  if ok then
    .ok ({ h with fmt := fmt, cols := k },
      (List.range h.rows).flatMap fun i =>
        if i < h.valid then expandRow k (rowAt h data i) else zeros (rowLen fmt k))
  else .error tBAD_OPERAND

/-- MMAS (R244). -/
def evalMmas (w : OpFields) (s : State) (f : Firing) (e : Env) : AccEx :=
  evalMac w s f e false .z8 (fun k => 21 * k / 32) (expandTile w.fmt (f.handle .b).cols)
def execMmas (w : OpFields) (s : State) : Host.Outcome State Fault Refusal := runAcc s (evalMmas w)

/-! ### Claiming (R245, R246) -/

/-- The accumulator after a claim by the firing's frame. -/
def claimed (f : Firing) (a : Acc) (rows cols : Nat) (poison : BitVec 8) (data : List (BitVec 36)) : Acc :=
  { owner := some (tagFrame f.tag, (tagGen f.tag).toNat, f.asid), step := a.step + 1, rows := rows, cols := cols,
    poison := poison, data := data }

/-- AZERO (R245). -/
def evalAzero (w : OpFields) (s : State) (f : Firing) (e : Env) : AccEx := do
  checkKinds f ((f.val .a).isTile) false false
  let n := Enc.immField w 12 2
  let rows := Enc.immField w 0 6 + 1
  let cols := Enc.immField w 6 6 + 1
  let tag ← tagFlags (outTag w f e) (.ok ([], [(0, f.pz [.a])]))
  let a ← accClaim s f n (f.pz [.a])
  let acc := claimed f a rows cols 0 (List.replicate (rows * cols) 0)
  pure (Commit.ofRes tag [accRes f false n acc] (f.pz [.a]), n, acc)
def execAzero (w : OpFields) (s : State) : Host.Outcome State Fault Refusal := runAcc s (evalAzero w)

/-- One element loaded into a36. -/
def loadElem (fmt : Fmt) (x : Nat) : Nat × Flags :=
  match fmt with
  | .a36 => (x % 2 ^ 36, 0)
  | .s32 => (wrapNat 36 (readInt .s32 x), 0)
  | _ => convert fmt .a36 .rne false false 0 x

/-- ALOAD (R246): poisoned rows are converted from their bits and raise no flag. -/
def evalAload (w : OpFields) (s : State) (f : Firing) (e : Env) : AccEx := do
  checkKinds f true false false
  let (h, data) := f.tile .a
  let n := Enc.immField w 0 2
  trapIf (h.fmt != w.fmt || decide (64 < h.cols)) tBAD_OPERAND
  let g := (gridRaw h data).mapIdx fun i r => r.map fun x =>
    let y := loadElem w.fmt x
    (y.1, if rowPoisoned h i then (0 : Flags) else y.2)
  let tag ← tagFlags (outTag w f e) (.ok ([], gridFlags g))
  let a ← accClaim s f n (orAll (gridFlags g))
  let flags ← fpCheck e.fpen (gridFlags g)
  let acc := claimed f a h.rows h.cols h.poison (g.flatten.map fun x => BitVec.ofNat 36 x.1)
  pure (Commit.ofRes tag [accRes f false n acc] flags, n, acc)
def execAload (w : OpFields) (s : State) : Host.Outcome State Fault Refusal := runAcc s (evalAload w)

/-! ### Draining (R247) -/

/-- One accumulator element converted into FMT; i is the index of its random bits. -/
def drainElem (w : OpFields) (ro : Round) (bad : Bool) (i x : Nat) : Nat × Flags :=
  match w.fmt with
  | .a36 => (x, 0)
  | .s32 | .s16 | .s8 =>
    let r := fitPlain (readInt .a36 x) w.fmt (satOf w)
    (wrapNat (width w.fmt) r.1, if bad then 0 else r.2)
  | _ => tileElem w.fmt bad (convert .a36 w.fmt ro.rm ro.ftz false (ro.rnd i) x)

/-- The blocks of a drained MX row; in a poisoned row a NaN block is zeros. -/
def drainBlocks (w : OpFields) (ro : Round) (bad : Bool) (base : Nat) (xs : List FV) :
    List Nat × List (Nat × Flags) :=
  if bad then
    let bs := (List.range (xs.length / 32)).map fun k =>
      let b := toMx w.fmt ro.rm ro.ftz (fun c => ro.rnd (base + 32 * k + c)) ((xs.drop (32 * k)).take 32)
      if b.1 = 255 then (0, b.2.map fun _ => (0, (0 : Flags))) else (b.1, b.2.map fun y => (y.1, (0 : Flags)))
    (bs.map Prod.fst, bs.flatMap Prod.snd)
  else mxBlocks w.fmt ro base (xs.length / 32) 0 xs

/-- The accumulator's rows in FMT, and their flags by accumulator element. Random bits go by the element's index in its
band of rb rows (R170). -/
def drainRows (w : OpFields) (ro : Round) (rb : Nat) (acc : Acc) : List (List Byte) × ElemFlags :=
  let rows := (List.range acc.rows).map fun i =>
    let xs := (List.range acc.cols).map fun j => acc.at i j
    if isMX w.fmt then
      let r := drainBlocks w ro (acc.rowBad i) (i % rb * acc.cols) (xs.map (decodeF .a36))
      (packRow w.fmt (r.2.map Prod.fst) r.1, r.2)
    else
      let es := xs.mapIdx fun j x => drainElem w ro (acc.rowBad i) (i % rb * acc.cols + j) x
      (packElems w.fmt (es.map Prod.fst), es)
  (rows.map Prod.fst, gridFlags (rows.map Prod.snd))

/-- Poison of a tile made of accumulator rows from row0. -/
def bandPoison (acc : Acc) (row0 rows : Nat) : BitVec 8 := poisonRows rows fun i => acc.rowBad (row0 + i)

/-- ADRAIN (R247): VAR 0 keep, 1 rel, 2 clr. -/
def evalAdrain (w : OpFields) (s : State) (f : Firing) (e : Env) : AccEx := do
  let (n, acc) ← accUse s f e .a .owner
  let k := w.imm.toNat % 8
  trapIf (acc.rows % 2 ^ k != 0 || (isMX w.fmt && acc.cols % 32 != 0)) tBAD_OPERAND
  let rb := acc.rows / 2 ^ k
  let r := drainRows w (rounding w f e) rb acc
  withNeed (if f.outs0.isEmpty then [] else List.replicate (2 ^ k) (tileLines w.fmt rb acc.cols)) do
  let t ← tagFlags (outTag w f e) (.ok ([], r.2))
  trapIf (k != 0 && (tagDepth t = 0 || decide (tagFill t < k))) { tTAG_OVERFLOW 3 with flags := orAll r.2 }
  -- no element has been computed yet: the record's FLAGS are 0 (R376, R449)
  watchTest
    (s.watches f 2 fun target =>
      target % 2 ^ 11 == f.cell && (target / 2 ^ 13 % 2 == 1 || target / 2 ^ 11 % 4 == n))
    (rectangle 0 0 acc.rows acc.cols)
  let int := w.fmt == .a36 || Enc.Fmt.isInt w.fmt
  let flags ← if int then pure (orAll r.2) else fpCheck e.fpen r.2
  let bands := if f.outs0.isEmpty then [] else
    (List.range (2 ^ k)).map fun v =>
      ({ side := false, tag := setInner t k v,
         val := .tile
          { fmt := w.fmt, rows := rb, cols := acc.cols, valid := rb, line := 0, poison := bandPoison acc (v * rb) rb,
            eos := f.eos, disc := false, seq := BitVec.ofNat 16 (v * rb) } ((r.1.drop (v * rb)).take rb).flatten,
         line := none } : Out)
  let acc1 : Acc := { acc with step := acc.step + 1 }
  let acc2 : Acc :=
    if w.var == 1 then { acc1 with owner := none }
    else if w.var == 2 then { acc1 with poison := 0, data := List.replicate (acc.rows * acc.cols) 0 } else acc1
  let word : List Out :=
    if w.var == 1 then []
    else [{ side := true, tag := t, val := .scalar (acc1.wordAt f.cell n) false f.eos, line := none }]
  pure ({ outs := bands ++ word, flags := flags }, n, acc2)
def execAdrain (w : OpFields) (s : State) : Host.Outcome State Fault Refusal := runAcc s (evalAdrain w)

/-! ### Windows (R248, R249) -/

/-- row0, NR, col0, NC of the window in IMM (R240). -/
def windowOf (w : OpFields) : Nat × Nat × Nat × Nat :=
  (Enc.immField w 0 6, Enc.immField w 6 6 + 1, Enc.immField w 12 6, Enc.immField w 18 6 + 1)
def windowOk (acc : Acc) (w : OpFields) : Bool :=
  let (r, nr, c, nc) := windowOf w
  decide (r + nr ≤ acc.rows) && decide (c + nc ≤ acc.cols)

/-- AREAD (R248): the word passes unchanged on D1. -/
def evalAread (w : OpFields) (s : State) (f : Firing) (e : Env) : AccEx := do
  let (n, acc) ← accUse s f e .a .read
  trapIf (!windowOk acc w) tBAD_OPERAND
  let (r, nr, c, nc) := windowOf w
  let t ← withNeed (if f.outs0.isEmpty then [] else [tileLines .a36 nr nc]) (outTag w f e)
  let data := (List.range nr).flatMap fun i =>
    packElems .a36 ((List.range nc).map fun j => acc.at (r + i) (c + j))
  let tile : Val := .tile
    { fmt := .a36, rows := nr, cols := nc, valid := nr, line := 0, poison := bandPoison acc r nr, eos := f.eos,
      disc := false, seq := 0 } data
  pure (Commit.ofRes t ((if f.outs0.isEmpty then [] else [res0 tile]) ++ [res1 (f.val .a)]) 0, n, acc)
def execAread (w : OpFields) (s : State) : Host.Outcome State Fault Refusal := runAcc s (evalAread w)

/-- POISON after a patch (R249). -/
def patchPoison (acc : Acc) (h : Handle) (r nr c nc : Nat) : BitVec 8 :=
  let set := poisonOf acc.rows (((List.range nr).filter (rowPoisoned h)).map (r + ·))
  -- a group stays set when one of its rows is not overwritten whole by an unpoisoned patch row
  let whole := fun j =>
    c == 0 && nc == acc.cols && decide (r ≤ j) && decide (j < r + nr) && !rowPoisoned h (j - r)
  let keep := poisonOf acc.rows ((List.range acc.rows).filter fun j => !whole j)
  (acc.poison ||| set) &&& keep

/-- APATCH (R249): STEP advances only for the owner (R236). -/
def evalApatch (w : OpFields) (s : State) (f : Firing) (e : Env) : AccEx := do
  let (n, acc) ← accUse s f e .a .patch
  checkKinds f false true false
  let (h, data) := f.tile .b
  let (r, nr, c, nc) := windowOf w
  trapIf (h.fmt != .a36 || h.rows != nr || h.cols != nc || !windowOk acc w) tBAD_OPERAND
  let t ← outTag w f e
  let g := gridRaw h data
  let own := acc.owner == some (tagFrame f.tag, (tagGen f.tag).toNat, f.asid)
  let acc1 : Acc :=
    { acc with
      step := if own then acc.step + 1 else acc.step
      poison := patchPoison acc h r nr c nc
      data := (List.range acc.rows).flatMap fun i => (List.range acc.cols).map fun j =>
        BitVec.ofNat 36
          (if r ≤ i ∧ i < r + nr ∧ c ≤ j ∧ j < c + nc then cellOf g (i - r) (j - c) else acc.at i j) }
  pure (Commit.ofRes t [accRes f false n acc1] 0, n, acc1)
def execApatch (w : OpFields) (s : State) : Host.Outcome State Fault Refusal := runAcc s (evalApatch w)

end Sys2Proof.Machine
end

