-- ==== Sys2Proof/Machine/Micro.lean ====
section
/-! DEFINITION. Micro-operation words: their decoder and encoder (R257), and the part of the attar check that looks
at one word (R258, R260, R272). -/

namespace Sys2Proof.Machine

/-- The register a 5-bit field names (R256). -/
def decodeReg (x : BitVec 5) : Reg :=
  if x.getLsbD 4 then
    match (x.extractLsb' 2 2).toNat with
    | 0 | 1 => .q (x.extractLsb' 0 3)
    | 2 => .ac (x.extractLsb' 0 2)
    | _ => if x.getLsbD 1 then (if x.getLsbD 0 then .z else .mk) else .lc (x.extractLsb' 0 1)
  else .m (x.extractLsb' 0 4)
def encodeReg : Reg → BitVec 5
  | .m i => 0#1 ++ i
  | .q i => 2#2 ++ i
  | .ac i => 6#3 ++ i
  | .lc i => 14#4 ++ i
  | .mk => 30#5
  | .z => 31#5

/-- Micro-operations in the order of their codes (R258). -/
def mops : List Mop :=
  [.mnop, .mimm, .mmov, .mldr, .mstr, .mstep, .madd, .msub, .mmul, .mfma, .mmin, .mmax, .mabs, .mneg, .mrcp, .mrsq,
   .mexp2, .mlog2] ++
  [.mcvt, .mcmp, .msel, .mand, .mor, .mxor, .mshl, .mshr, .mlut, .mred, .mbcst, .mqop, .mloop, .mbrnz, .mtrap,
   .mend, .macc, .maccw]

/-- A word as a micro-operation; none for an unassigned MOP. -/
def decodeMicro (x : BitVec 64) : Option MicroWord :=
  (mops[(x.extractLsb' 58 6).toNat]?).map fun m =>
    { mop := m, dst := decodeReg (x.extractLsb' 53 5), sa := decodeReg (x.extractLsb' 48 5),
      sb := decodeReg (x.extractLsb' 43 5), sc := decodeReg (x.extractLsb' 38 5), mf := x.extractLsb' 34 4,
      rnd := x.extractLsb' 31 3, imm := x.extractLsb' 0 31 }
def encodeMicro (u : MicroWord) : BitVec 64 :=
  BitVec.ofNat 6 (mops.idxOf u.mop) ++ encodeReg u.dst ++ encodeReg u.sa ++ encodeReg u.sb ++ encodeReg u.sc ++ u.mf ++
    u.rnd ++ u.imm

/-! ### Classes of registers and formats (R257, R258) -/

/-- The letters of R258's table: m, q, a, l, k and z say which registers a field may hold. -/
structure RegSet where
  m : Bool := false
  q : Bool := false
  a : Bool := false
  l : Bool := false
  k : Bool := false
  z : Bool := false

def RegSet.has (r : RegSet) : Reg → Bool
  | .m _ => r.m
  | .q _ => r.q
  | .ac _ => r.a
  | .lc _ => r.l
  | .mk => r.k
  | .z => r.z

def rsNone : RegSet := { z := true }
def rsM : RegSet := { m := true }
def rsQ : RegSet := { q := true }
def rsA : RegSet := { a := true }
def rsL : RegSet := { l := true }
def rsK : RegSet := { k := true }
/-- Operand class V. -/
def rsV : RegSet := { m := true, q := true, z := true }
/-- Operand class S. -/
def rsS : RegSet := { q := true, a := true, l := true }

/-- DST, SA, SB and SC of each micro-operation. -/
def mopRegs : Mop → RegSet × RegSet × RegSet × RegSet
  | .mnop | .mtrap | .mend => (rsNone, rsNone, rsNone, rsNone)
  | .mimm => ({ rsS with m := true, k := true }, rsNone, rsNone, rsNone)
  | .mmov => ({ rsS with m := true, k := true }, { rsS with m := true, k := true }, rsNone, rsNone)
  | .mldr => (rsM, rsA, rsNone, rsNone)
  | .mstr => (rsA, rsM, rsNone, rsNone)
  | .mstep => (rsA, rsNone, rsNone, rsNone)
  | .madd | .msub | .mmul | .mmin | .mmax | .msel | .mand | .mor | .mxor | .mshl | .mshr => (rsM, rsV, rsV, rsNone)
  | .mfma => (rsM, rsV, rsV, rsV)
  | .mabs | .mneg | .mrcp | .mrsq | .mexp2 | .mlog2 | .mcvt | .mlut => (rsM, rsV, rsNone, rsNone)
  | .mcmp => (rsK, rsV, rsV, rsNone)
  | .mred => (rsQ, rsM, rsNone, rsNone)
  | .mbcst => (rsM, { m := true, q := true }, rsNone, rsNone)
  | .mqop => (rsS, rsS, { rsS with z := true }, rsNone)
  | .mloop => (rsL, rsNone, rsNone, rsNone)
  | .mbrnz => (rsNone, { rsS with k := true }, rsNone, rsNone)
  | .macc => (rsM, rsQ, rsNone, rsNone)
  | .maccw => (rsNone, rsM, rsQ, rsNone)

/-- Micro-cycles (R258). -/
def mopCost : Mop → Nat
  | .mrcp | .mrsq | .mexp2 | .mlog2 => 4
  | .mlut | .macc | .maccw => 2
  | .mred => 6
  | _ => 1

/-- The format an MF code names; none for the tile's own and for reserved codes. -/
def mfFmt (x : Nat) : Option Fmt :=
  [Fmt.f32, .s32, .z32, .f16, .bf16, .e4m3, .e5m2, .s16, .z16, .s8, .z8][x]?
def mfFloat (x : Nat) : Bool := x == 0 || x == 3 || x == 4 || x == 5 || x == 6

/-- MF of each micro-operation. -/
def mfOk (u : MicroWord) : Bool :=
  let f := u.mf.toNat
  match u.mop with
  | .mimm => match u.dst with | .m _ | .q _ => decide (f ≤ 2) | _ => f == 2
  | .mldr | .mstr => f == 15
  | .madd | .msub | .mmul | .mfma | .mmin | .mmax | .mabs | .mneg | .mcmp | .mred => decide (f ≤ 2)
  | .mshl | .mshr | .mqop => f == 1 || f == 2
  | .mcvt => decide (f ≤ 10)
  | .macc | .maccw => decide (f ≤ 1)
  | _ => f == 0

/-- Does the micro-operation round to or from a float format (RND column r)? MRED under f32 does, whatever its operation (log
entry 99). -/
def usesRnd (u : MicroWord) : Bool :=
  match u.mop with
  | .mstr => true
  | .madd | .msub | .mmul | .mfma | .mrcp | .mrsq | .mexp2 | .mlog2 | .mred | .macc => mfFloat u.mf.toNat
  | .mcvt => mfFloat u.mf.toNat || mfFloat (u.imm.toNat % 16)
  | _ => false

/-- The pairs of MMOV (R260). -/
def movOk (u : MicroWord) : Bool :=
  match u.dst, u.sa with
  | .m _, .m _ | .m _, .mk | .mk, .m _ => true
  | d, a => rsS.has d && rsS.has a

/-- IMM of each micro-operation, for a routine of code words and table entries. -/
def immOk (code entries : Nat) (u : MicroWord) : Bool :=
  let i := u.imm.toNat
  match u.mop with
  | .mimm => match u.dst with | .mk => decide (i ≤ 64) | _ => true
  | .mstep => true
  | .mcvt => decide (i ≤ 10)
  | .mcmp => decide (i ≤ 7)
  | .mshl | .mshr => decide (i ≤ if u.sb = .z then 31 else 0)
  | .mlut => decide (i < 65536) && decide (i % 256 + i / 256 + 1 ≤ entries)
  | .mred => decide (i ≤ 2)
  | .mbcst => decide (i ≤ 63)
  | .mqop => decide (i % 16 ≤ 9) && (u.sb = .z || i / 16 == 0)
  | .mloop | .mbrnz => decide (i < code)
  | .mtrap => decide (i ≤ 255)
  | _ => i == 0

/-- A code word that meets R257 and R258. -/
def microOk (code entries : Nat) (u : MicroWord) : Bool :=
  let (d, a, b, c) := mopRegs u.mop
  d.has u.dst && a.has u.sa && b.has u.sb && c.has u.sc && (u.mop != .mmov || movOk u) && mfOk u &&
    (if usesRnd u then u.rnd != 6 else u.rnd == 0) && immOk code entries u

end Sys2Proof.Machine
end

