-- ==== Sys2Proof/Machine/Reduce.lean ====
section
/-! DEFINITION. Reductions, selection and routing, codes 0x80 to 0x8A (R219 to R231), with the pairwise tree of R176
and the rank orders of R225. -/

namespace Sys2Proof.Machine

/-! ### The tree (R176) -/

/-- Neighbours added, at position i of a level; an odd last element passes up. -/
def treeLevel (fmt : Fmt) (rm : Rm) (ftz : Bool) (rnd : Nat → Nat) : Nat → List Nat → List Nat × Flags
  | i, a :: b :: t =>
    let v := fvAdd rm (readF fmt ftz a) (readF fmt ftz b)
    let r := deliver fmt { rm := rm, ftz := ftz, rnd := fun _ => rnd i } 0 v.1
    let (l, fl) := treeLevel fmt rm ftz rnd (i + 1) t
    (r.1 :: l, v.2 ||| r.2 ||| fl)
  | _, l => (l, 0)

/-- Levels from the leaves up, the leaves' level 0; fuel is the number of elements. -/
def treeUp (fmt : Fmt) (rm : Rm) (ftz : Bool) (rnd : Nat → Nat → Nat) : Nat → Nat → List Nat → Nat × Flags
  | n + 1, lv, a :: b :: t =>
    let (l, fl) := treeLevel fmt rm ftz (rnd lv) 0 (a :: b :: t)
    let r := treeUp fmt rm ftz rnd n (lv + 1) l
    (r.1, fl ||| r.2)
  | _, _, l => (l.headD 0, 0)

/-- tree_sum of R176: an element that meets no addition is delivered as a float result. -/
def treeSum (fmt : Fmt) (rm : Rm) (ftz : Bool) (rnd : Nat → Nat → Nat) (v : List Nat) : Nat × Flags :=
  match v with
  | [x] => copyFloat fmt ftz x
  | v => treeUp fmt rm ftz rnd v.length 0 v

/-- The sum of a row or column for result element i (R223): the tree over floats, under a wide variant over the inputs
widened exactly to f32 (FTZ acts in the additions), and an exact sum through fit over integers. -/
def sumOf (w : OpFields) (ro : Round) (wide : Bool) (i : Nat) (v : List Nat) : Nat × Flags :=
  if Enc.Fmt.isF w.fmt then
    let fmt := if wide then Fmt.f32 else w.fmt
    let rnd (l p : Nat) : Nat := ro.rnd (i * 2 ^ 24 + l * 2 ^ 16 + p)
    let ws := v.map fun x => if wide then toFloat .f32 .rne false 0 (readF w.fmt false x) else (x, 0)
    let r := treeSum fmt ro.rm ro.ftz rnd (ws.map Prod.fst)
    (r.1, ws.foldl (fun a x => a ||| x.2) r.2)
  else elemInt w (v.foldl (fun a x => a + readInt w.fmt x) 0)

/-- Row variants are even, column variants odd; 2 and 3 are wide (R220). -/
def isCol (w : OpFields) : Bool := w.var.getLsbD 0
def isWide (w : OpFields) : Bool := w.var.getLsbD 1
def sumFmt (w : OpFields) : Fmt := if isWide w then .f32 else w.fmt
def column (g : List (List Nat)) (j : Nat) : List Nat := g.map fun r => r.getD j 0

/-- RSUM (R222, R223). -/
def evalRsum (w : OpFields) (f : Firing) (e : Env) : Ex Commit :=
  let a := f.handle .a
  let g := f.grid .a
  let ro := rounding w f e
  if isCol w then
    evalTile w f e (true, false, false) (needFmt f .a w.fmt) (fpOf w) (sumFmt w) 1 a.cols 1
      (if a.poison != 0 then 1 else 0) fun _ j => sumOf w ro (isWide w) j (column g j)
  else
    evalTile w f e (true, false, false) (needFmt f .a w.fmt) (fpOf w) (sumFmt w) a.rows 1 a.valid a.poison
      fun i _ => sumOf w ro (isWide w) i (g.getD i [])
def execRsum (w : OpFields) (s : State) : Host.Outcome State Fault Refusal := runOp s (evalRsum w)

/-- Poison of a SCAN down columns (R222). -/
def scanPoison (h : Handle) : BitVec 8 :=
  poisonRows h.rows fun j => (List.range (group h.rows j + 1)).any h.poison.getLsbD

/-- SCAN (R222, R223). -/
def evalScan (w : OpFields) (f : Firing) (e : Env) : Ex Commit :=
  let a := f.handle .a
  let g := f.grid .a
  let ro := rounding w f e
  evalTile w f e (true, false, false) (needFmt f .a w.fmt) (fpOf w) (sumFmt w) a.rows a.cols a.valid
    (if isCol w then scanPoison a else a.poison)
    fun i j => sumOf w ro (isWide w) (i * a.cols + j)
      (if isCol w then (column g j).take (i + 1) else (g.getD i []).take (j + 1))
def execScan (w : OpFields) (s : State) : Host.Outcome State Fault Refusal := runOp s (evalScan w)

/-! ### Ranks (R225) -/

/-- The place of an element in the sort order, or in the top order, where NaN ranks lowest. -/
def rankOf (top : Bool) (fmt : Fmt) (x : Nat) : Int :=
  if Enc.Fmt.isF fmt then
    let w := width fmt
    match decodeF fmt x with
    | .nan _ => if top then -(2 ^ w : Nat) else (2 ^ w : Nat)
    | _ => let m : Int := (x % 2 ^ (w - 1) : Nat); if x / 2 ^ (w - 1) % 2 = 1 then -m - 1 else m
  else readInt fmt x

/-- The index of the first element of best rank, above all before it (greatest) or below (least). -/
def bestIndex (max : Bool) : List Int → Nat → Int → Nat → Nat
  | [], _, _, best => best
  | r :: t, i, top, best =>
    if (if max then decide (top < r) else decide (r < top)) then bestIndex max t (i + 1) r i
    else bestIndex max t (i + 1) top best

def argBest (max : Bool) (fmt : Fmt) (xs : List Nat) : Nat :=
  match xs.map (rankOf max fmt) with
  | [] => 0
  | r :: t => bestIndex max t 1 r 0

/-- The greatest or least element (R224). -/
def extreme (w : OpFields) (max : Bool) (xs : List Nat) : Nat × Flags :=
  let ftz := w.mod.getLsbD 3
  match xs with
  | [] => (0, 0)
  | x :: t =>
    if Enc.Fmt.isF w.fmt then
      t.foldl (fun acc y => let r := fMinMax w.fmt ftz max acc.1 y; (r.1, acc.2 ||| r.2))
        (fMinMax w.fmt ftz max x x)
    else (xs.getD (argBest max w.fmt xs) 0, 0)

/-- Reductions that combine only rows below VALID (R222). -/
def evalPick (w : OpFields) (f : Firing) (e : Env) (fp : Bool) (fmt : Fmt) (op : List Nat → Nat × Flags) : Ex Commit :=
  let a := f.handle .a
  let g := f.grid .a
  if isCol w then
    evalTile w f e (true, false, false) (needFmt f .a w.fmt) fp fmt 1 a.cols (min 1 a.valid)
      (if (List.range a.valid).any (rowPoisoned a) then 1 else 0) fun _ j => op ((column g j).take a.valid)
  else
    evalTile w f e (true, false, false) (needFmt f .a w.fmt) fp fmt a.rows 1 a.valid a.poison
      fun i _ => op (g.getD i [])

def evalRmax (w : OpFields) (f : Firing) (e : Env) : Ex Commit := evalPick w f e (fpOf w) w.fmt (extreme w true)
def evalRmin (w : OpFields) (f : Firing) (e : Env) : Ex Commit := evalPick w f e (fpOf w) w.fmt (extreme w false)
/-- RARGX (R224): VAR 0 and 1 take the greatest, 2 and 3 the least. -/
def evalRargx (w : OpFields) (f : Firing) (e : Env) : Ex Commit :=
  evalPick w f e false .z32 fun xs => (argBest (!w.var.getLsbD 1) w.fmt xs, 0)
def execRmax (w : OpFields) (s : State) : Host.Outcome State Fault Refusal := runOp s (evalRmax w)
def execRmin (w : OpFields) (s : State) : Host.Outcome State Fault Refusal := runOp s (evalRmin w)
def execRargx (w : OpFields) (s : State) : Host.Outcome State Fault Refusal := runOp s (evalRargx w)

/-! ### Selection (R226 to R229) -/

/-- Stable insertion of a ranked element: before every element that ranks after it. -/
def insertRank (desc : Bool) (x : Int × Nat × Nat) : List (Int × Nat × Nat) → List (Int × Nat × Nat)
  | [] => [x]
  | y :: t => if (if desc then decide (y.1 ≤ x.1) else decide (x.1 ≤ y.1)) then x :: y :: t else y :: insertRank desc x t

/-- A row's elements with their columns, ranked; ties go to the lower column. -/
def rankRow (desc : Bool) (fmt : Fmt) (xs : List Nat) : List (Nat × Nat) :=
  ((xs.mapIdx fun j x => (rankOf desc fmt x, x, j)).foldr (insertRank desc) []).map Prod.snd

/-- The results an operator builds: a side without a destination is not built (R221). -/
def built (f : Firing) (rs : List Res) : List Res :=
  rs.filter fun r => if r.side then !f.outs1.isEmpty else !f.outs0.isEmpty

/-- TOPK and SORT: the first k of each ranked row, and their columns. -/
def evalRanked (w : OpFields) (f : Firing) (e : Env) (desc : Bool) (k : Nat) : Ex Commit :=
  let a := f.handle .a
  let g := f.grid .a
  let rows := (List.range a.rows).map fun i =>
    if i < a.valid then (rankRow desc w.fmt (g.getD i [])).take k else List.replicate k (0, 0)
  evalOp w f e (true, false, false)
    (needFmt f .a w.fmt *> trapIf (decide (a.cols < k)) tBAD_OPERAND *>
      trapIf (!f.outs1.isEmpty && !Enc.shapeOk .z32 a.rows k) tBAD_OPERAND) false
    (.ok (built f
      [res0 (tileRes f w.fmt a.rows k a.valid a.poison (rows.flatMap fun r => packElems w.fmt (r.map Prod.fst))),
       res1 (tileRes f .z32 a.rows k a.valid a.poison (rows.flatMap fun r => packElems .z32 (r.map Prod.snd)))], []))

/-- TOPK (R226). -/
def evalTopk (w : OpFields) (f : Firing) (e : Env) : Ex Commit := evalRanked w f e true (w.imm.toNat % 1024 + 1)
def execTopk (w : OpFields) (s : State) : Host.Outcome State Fault Refusal := runOp s (evalTopk w)
/-- SORT (R228). -/
def evalSort (w : OpFields) (f : Firing) (e : Env) : Ex Commit := evalRanked w f e false (f.handle .a).cols
def execSort (w : OpFields) (s : State) : Host.Outcome State Fault Refusal := runOp s (evalSort w)

/-- normk_row of R227; i is the index of the row's first element. -/
def normkRow (w : OpFields) (ro : Round) (i : Nat) (xs : List Nat) : List (Nat × Flags) :=
  let k := xs.length
  let s := readF .f32 false
    (treeSum .f32 .rne false (fun _ _ => 0) (xs.map fun x => (toFloat .f32 .rne false 0 (readF w.fmt false x)).1)).1
  let tiny := match s with | .fin sg n d => fvLt (.fin false n d) (.fin false 1 (2 ^ 126)) || (sg && n == 0) | _ => false
  if s.isNan || s.isInf || tiny then
    let fl := if tiny then fUF else fIV
    xs.mapIdx fun j _ =>
      let r := roundTo w.fmt ro.rm ro.ftz (ro.rnd (i + j)) false 1 k
      (r.1, fl ||| (r.2 &&& fNX))
  else xs.mapIdx fun j x => elemFloat w ro (i + j) (fvDiv (readF w.fmt ro.ftz x) s)

/-- NORMK (R227). -/
def evalNormk (w : OpFields) (f : Firing) (e : Env) : Ex Commit :=
  let a := f.handle .a
  let g := f.grid .a
  let ro := rounding w f e
  let rows := (List.range a.rows).map fun i => normkRow w ro (i * a.cols) (g.getD i [])
  evalTile w f e (true, false, false) (needFmt f .a w.fmt) true w.fmt a.rows a.cols a.valid a.poison
    fun i j => (rows.getD i []).getD j (0, 0)
def execNormk (w : OpFields) (s : State) : Host.Outcome State Fault Refusal := runOp s (evalNormk w)

/-- The fill value of PARTN (R229). -/
def partnFill (fmt : Fmt) : Nat := if Enc.Fmt.isF fmt then canonNaN fmt else wrapNat (width fmt) (intHi fmt)

/-- One output of PARTN: elements packed from element 0 (by R202 where the output is poisoned), the last valid row
filled. -/
def partnTile (w : OpFields) (f : Firing) (xs : List Nat) : Val :=
  let a := f.handle .a
  let valid := (xs.length + a.cols - 1) / a.cols
  let ys := xs.map (fun x => (tileElem w.fmt (a.poison != 0) (x, 0)).1) ++
    List.replicate (valid * a.cols - xs.length) (partnFill w.fmt)
  (tileRes f w.fmt a.rows a.cols valid (if a.poison != 0 then poisonAll a.rows else 0)
    (fitBytes a.bytes (packElems w.fmt ys))).withSeq (BitVec.ofNat 16 xs.length)

/-- PARTN (R229). -/
def evalPartn (w : OpFields) (f : Firing) (e : Env) : Ex Commit :=
  let a := f.handle .a
  let n := if w.var == 1 then a.seq.toNat else a.valid * a.cols
  let piv := rankOf false w.fmt (f.bits w.fmt .b)
  let xs := ((f.grid .a).flatten).take n
  let below := fun x => decide (rankOf false w.fmt x < piv)
  evalOp w f e (true, false, false)
    (needFmt f .a w.fmt *> trapIf (decide (a.valid * a.cols < n)) tBAD_OPERAND *> checkPoison f .b 2) false
    (.ok (built f [res0 (partnTile w f (xs.filter below)), res1 (partnTile w f (xs.filter fun x => !below x))], []))
def execPartn (w : OpFields) (s : State) : Host.Outcome State Fault Refusal := runOp s (evalPartn w)

/-! ### Routing (R230, R231) -/

/-- STEER (R230): two tokens for each bucket, under the input tag with its low w colour bits replaced. -/
def evalSteer (w : OpFields) (f : Firing) (_e : Env) : Ex Commit := do
  let (a, da) := f.tile .a
  let b := f.handle .b
  let k := w.imm.toNat % 16
  let bucket := fun i => cellOf (f.grid .b) i 0
  checkKinds f true true false
  needFmt f .a w.fmt
  needFmt f .b .z32
  needShape f .b a.rows 1
  trapIf (decide (b.valid < a.valid)) tBAD_OPERAND
  trapIf ((List.range a.valid).any fun i => decide (2 ^ k ≤ bucket i)) tBAD_OPERAND
  let outs := (List.range (2 ^ k)).flatMap fun v =>
    let rs := (List.range a.valid).filter fun i => bucket i == v
    let n := max rs.length 1
    let p := poisonOf n ((List.range rs.length).filter fun j => rowPoisoned a (rs.getD j 0))
    let rows := (rs.mapIdx fun j i => rowMoved a da i (p.getLsbD (group n j))).flatten
    let idx := rs.flatMap fun i => leBytes 4 i
    (built f
      [res0 (tileRes f w.fmt n a.cols rs.length p (fitBytes (n * a.rowLen) rows)),
       res1 (tileRes f .z32 n 1 rs.length p (fitBytes (n * 4) idx))]).map fun r =>
      ({ side := r.side, tag := setInner f.tag k v, val := r.val, line := none } : Out)
  withNeed (newTiles outs) do
    trapIf ((List.range a.valid).any (rowPoisoned b)) (tPOISON 1)
    trapIf (tagDepth f.tag = 0 || decide (tagFill f.tag < k)) (tTAG_OVERFLOW 3)
  pure { outs := outs, flags := 0 }
def execSteer (w : OpFields) (s : State) : Host.Outcome State Fault Refusal := runOp s (evalSteer w)

/-- ORDMRG (R231). -/
def evalOrdmrg (w : OpFields) (f : Firing) (e : Env) : Ex Commit :=
  let a := f.tile .a
  let b := f.tile .b
  let (x, y) := if b.1.seq.toNat < a.1.seq.toNat then (b, a) else (a, b)
  let rows := (List.range x.1.valid).map (fun i => (x.1, x.2, i)) ++ (List.range y.1.valid).map fun i => (y.1, y.2, i)
  let total := rows.length
  let n := max total 1
  let p := poisonOf n ((List.range total).filter fun j => ((rows[j]?).map fun r => rowPoisoned r.1 r.2.2).getD false)
  let data := fitBytes (n * a.1.rowLen)
    ((rows.mapIdx fun j r => rowMoved r.1 r.2.1 r.2.2 (p.getLsbD (group n j))).flatten)
  evalOp w f e (true, true, false)
    (needFmt f .a w.fmt *> needFmt f .b w.fmt *> trapIf (a.1.cols != b.1.cols || decide (64 < total)) tBAD_OPERAND *>
      needFits w.fmt n a.1.cols) false
    (.ok ([res0 ((tileRes f w.fmt n a.1.cols total p data).withSeq x.1.seq)], []))
def execOrdmrg (w : OpFields) (s : State) : Host.Outcome State Fault Refusal := runOp s (evalOrdmrg w)

end Sys2Proof.Machine
end

