-- ==== Sys2Proof/Machine/Select.lean ====
section
/-! DEFINITION. Selection: what is tested and read when a unit starts a formed set (R35, R42, R53, R376), and the firing of
the operator found. -/

namespace Sys2Proof.Machine

/-- The unit an opcode runs on, by cell kind (R22); none when the cell provides no unit. -/
def unitOf (opc : Nat) (compute : Bool) : Option UnitKind :=
  if opc ≤ 0x4F || (0xB0 ≤ opc && opc ≤ 0xBB) then some .scalar
  else if opc ≤ 0x6F || (0x80 ≤ opc && opc ≤ 0x8F) || 0xC0 ≤ opc then (if compute then some .vector else none)
  else if opc ≤ 0x7F then (if compute then some .matrix else none)
  else if compute then none
  else if opc = 0x98 || opc = 0x99 || opc = 0x9A then some .ring
  else some .memory

/-- Operators that send each of two results to its own side (R39, R41). -/
def twoOutput (x : BitVec 128) : Bool :=
  let opc := (x.extractLsb' 120 8).toNat
  opc = 0x03 || opc = 0x09 || opc = 0x17 || opc = 0x1A || opc = 0x3C || opc = 0x84 || opc = 0x86 || opc = 0x88 ||
    opc = 0x89 || opc = 0xA6 || opc = 0x75 || opc = 0x77 || (opc = 0x16 && x.extractLsb' 116 4 == 1#4)

/-- A record's valid words, when the slot holds a record that meets R40 to R42. -/
def Cell.recordAt (c : Cell) (plane : Bool) (slot : Nat) : Option (List Dest) :=
  let o := c.opSlot plane slot
  if o.record then (decodeRecord o.word).map fun l => l.filterMap id else none

/-- Words of a record whose last may link once more (R41); none where R42 finds a fault. -/
def Cell.expandRecord (c : Cell) (plane : Bool) (slot : Nat) : Option (List Dest) := do
  let ds ← c.recordAt plane slot
  let plain := ds.filter fun d => d.port != .link
  match ds.find? fun d => d.port == .link with
  | none => pure plain
  | some l =>
    let ds2 ← c.recordAt plane l.slot.toNat
    if ds2.all fun d => d.port != .link then pure (plain ++ ds2) else none

/-- The destinations a destination word reaches (R41, R42). -/
def Cell.expand (c : Cell) (plane : Bool) : Option Dest → Option (List Dest)
  | none => some []
  | some d => if d.port = .link then c.expandRecord plane d.slot.toNat else some [d]

/-- D0 and D1 of a word as two sides: a single-output operator sends its result to both (R39). -/
def Cell.sides (c : Cell) (plane : Bool) (x : BitVec 128) (w : OpFields) : Option (List Dest × List Dest) := do
  let d0 ← c.expand plane w.d0
  let d1 ← c.expand plane w.d1
  if twoOutput x then pure (d0, d1) else pure (d0 ++ d1, [])

/-- The operands of a set: a token's value per port, and the literal when there is one (R31, R32). -/
def Cell.operands (c : Cell) (id : Nat) (st : FSet) (x : BitVec 128) (i : Option (BitVec 8 × OpFields)) : List Opnd :=
  let toks := st.args.map fun e => { port := e.tok.port, lit := false, tok := e.tok, val := c.valueOf e.tok : Opnd }
  match i with
  | some (opc, w) =>
    match w.lit with
    | some p =>
      let v := literal opc w
      let t : Token :=
        { asid := st.asid, tag := st.tag, payload := v, isTile := false, poison := false, eos := false, cgen := 0,
          cell := id, slot := st.slot, port := p, pcell := id, pslot := st.slot, ptime := 0, remote := false,
          inj := false }
      let _ := x
      toks ++ [{ port := p, lit := true, tok := t, val := .scalar v false false }]
    | none => toks
  | none => toks

/-- The set as a firing, with everything a firing reads at selection. -/
def State.firingOf (s : State) (id : Nat) (st : FSet) : Firing × Option Instr :=
  let c := s.cell id
  let plane := ((c.part st.asid).map Part.active).getD false
  let x := (c.activeSlot st.asid st.slot).word
  -- a set that REDO has re-formed may stand at a FANOUT record (R42)
  let i := if (c.activeSlot st.asid st.slot).record then none else decodeSlot x
  let w := i.bind opcodeOf
  let sides := w.bind fun p => c.sides plane x p.2
  ({ cell := id, sid := st.sid, asid := st.asid, slot := st.slot, tag := st.tag, word := x,
     ops := c.operands id st x w, outs0 := (sides.map Prod.fst).getD [], outs1 := (sides.map Prod.snd).getD [],
     nowatch := st.nowatch, granted := false, watch := (c.watch.filter fun p => p.1 == st.asid).map Prod.snd },
   if sides.isSome then i else none)

/-- Is a break due for the set: its slot's break bit, or a frame break applied on the cell (R398, R430)? Firings of
handler frames are not tested against break bits. -/
def State.breakDue (s : State) (id : Nat) (st : FSet) : Bool :=
  let c := s.cell id
  (c.breaks.contains st.slot && !s.isHandler st.asid st.tag) ||
    c.fbreaks.contains (st.asid, tagFrame st.tag, (tagGen st.tag).toNat)

/-- The operator of a selected firing: ILLEGAL_OP (R42, R53, R22), else its meaning. exec is the machine's dispatch. -/
def State.operate (exec : Instr → State → Host.Outcome State Fault Refusal) (s : State) (f : Firing) (i : Option Instr) :
    Host.Outcome State Fault Refusal :=
  match if (unitOf (f.word.extractLsb' 120 8).toNat (isCompute f.cell)).isSome then i else none with
  | none => .next (s.raise f tILLEGAL_OP)
  | some i => exec i { s with sel := some f }

/-- PZ of an operator that waits outside its unit before it commits (R116). -/
def Firing.heldFlags (f : Firing) : Flags :=
  let opc := (f.word.extractLsb' 120 8).toNat
  if opc = 0x99 ∨ opc = 0xB6 ∨ opc = 0xB8 ∨ opc = 0xBA then f.pz [.a]
  else if opc = 0x17 ∧ f.outs1.isEmpty then f.pz [.b] else 0

/-- The flags of a firing as if it had committed (R377): those that its operator leaves in the frame, or in its trap
record. s1 is the state that the operator left from a state in which the frame's flags were clear. -/
def State.flagsLeft (s s1 : State) (f : Firing) : Flags :=
  let records (st : State) : List TrapRec := ((st.ctx f.asid).map Ctx.traps).getD []
  if (records s).length < (records s1).length then ((records s1).getLast?.map fun r => r.trap.flags).getD 0
  else if ((s1.cell f.cell).findSet f.sid).isSome then f.heldFlags
  else (s1.frameOf f.asid f.tag).flags

/-- BREAK comes before every other trap (R376); a set that its unit could not have started is not selected (R90). -/
def State.break_ (exec : Instr → State → Host.Outcome State Fault Refusal) (s : State) (f : Firing) (i : Option Instr) :
    Host.Outcome State Fault Refusal :=
  let clear := s.modCtx f.asid fun x =>
    { x with frames := put (tagFrame f.tag) { s.frameOf f.asid f.tag with flags := 0 } x.frames }
  match clear.operate exec f i with
  | .next s1 =>
    if s1.sel.isSome then s.operate exec f i else .next (s.raise f { tBREAK with flags := s.flagsLeft s1 f })
  | .fault r => .fault r
  | .refused r => .refused r

/-- One set started: BREAK, then its operator. A firing that has waited for walks goes on with what it read at its
selection (R35, R306). -/
def State.start (exec : Instr → State → Host.Outcome State Fault Refusal) (s : State) (id : Nat) (st : FSet) :
    Host.Outcome State Fault Refusal :=
  match st.firing.bind fun g => (decodeSlot g.word).map fun i => (g, i) with
  | some (g, i) => exec i { s with sel := some g }
  | none =>
    let (f, i) := s.firingOf id st
    if s.breakDue id st then s.break_ exec f i else s.operate exec f i

/-- The unit a set waits for; an illegal word's set goes to the scalar unit. -/
def State.setUnit (s : State) (id : Nat) (st : FSet) : UnitKind :=
  let x := (st.snap.map Firing.word).getD ((s.cell id).activeSlot st.asid st.slot).word
  match decodeSlot x with
  | none => .scalar
  | some _ => (unitOf (x.extractLsb' 120 8).toNat (isCompute id)).getD .scalar

/-- The memory operations outstanding at a port (R300): a WAITV registered at its home and an ITAKE deferred there take no
place (R94, R337). -/
def State.outstanding (s : State) (id : Nat) : Nat :=
  (s.memops.filter fun o => o.firing.cell == id && o.phase != .abandoned && o.origin.isNone && !o.listed).length

end Sys2Proof.Machine
end

