-- ==== Sys2Proof/Machine/Sha.lean ====
section
/-! DEFINITION. SHA-384, which measures routines and images (R70, R253, R371). The manual names the function; its
constants and rounds are those of the standard it names (log entry 9). -/

namespace Sys2Proof.Machine

/-- The primes from n on that no number of a list of smaller primes divides, as many as asked for, looking k numbers far. -/
def primesFrom : Nat → Nat → List Nat → List Nat
  | 0, _, found => found
  | k + 1, n, found => primesFrom k (n + 1) (if found.any fun p => n % p == 0 then found else found ++ [n])
/-- The primes below 410: eighty of them. -/
def smallPrimes : List Nat := primesFrom 408 2 []

/-- The largest number whose e-th power is at most n, above r, by its k low bits. -/
def rootBits (e n : Nat) : Nat → Nat → Nat
  | 0, r => r
  | k + 1, r => rootBits e n k (if (r + 2 ^ k) ^ e ≤ n then r + 2 ^ k else r)
/-- The first 64 bits of the fractional part of the e-th root of p. -/
def rootFraction (e p : Nat) : Nat := rootBits e (p * 2 ^ (64 * e)) 70 0 % 2 ^ 64

/-- The round constants: of the cube roots of the first eighty primes. -/
def shaK : List Nat := smallPrimes.map (rootFraction 3)
/-- The initial hash value: of the square roots of the ninth to the sixteenth prime. -/
def shaH : List (BitVec 64) := ((smallPrimes.drop 8).take 8).map fun p => BitVec.ofNat 64 (rootFraction 2 p)

/-- Bytes, highest first, as a word. -/
def beWord (bs : List Byte) : BitVec 64 := BitVec.ofNat 64 (leNat bs.reverse)

/-- The message padded to whole blocks of 128 bytes. -/
def shaPad (m : List Byte) : List Byte :=
  m ++ 0x80#8 :: zeros ((128 - (m.length + 17) % 128) % 128) ++ (leBytes 16 (8 * m.length)).reverse

/-- The XOR of a word's rotations to the right by each of some amounts. -/
def turns (ns : List Nat) (x : BitVec 64) : BitVec 64 := ns.foldl (fun y n => y ^^^ x.rotateRight n) 0

/-- The next word of the schedule, from the sixteen before it. -/
def shaNext (w : List (BitVec 64)) : BitVec 64 :=
  let at' (i : Nat) : BitVec 64 := w.getD i 0
  (at' 0 + at' 9) + (turns [1, 8] (at' 1) ^^^ at' 1 >>> 7) + (turns [19, 61] (at' 14) ^^^ at' 14 >>> 6)

/-- The working words: two sequences that grow by one word a round, each kept as its last four, newest first. -/
abbrev ShaWords := List (BitVec 64) × List (BitVec 64)

/-- One round; x is the sum of the round's constant and its word of the schedule. -/
def shaRound (v : ShaWords) (x : BitVec 64) : ShaWords :=
  let p (i : Nat) : BitVec 64 := v.1.getD i 0
  let q (i : Nat) : BitVec 64 := v.2.getD i 0
  let chosen := q 2 ^^^ (q 0 &&& (q 1 ^^^ q 2))
  let common := (p 2 &&& (p 0 ||| p 1)) ||| (p 0 &&& p 1)
  let t := x + chosen + turns [14, 18, 41] (q 0) + q 3
  ((common + turns [28, 34, 39] (p 0) + t) :: v.1.take 3, (t + p 3) :: v.2.take 3)

/-- The rounds, the schedule extended as it is used. -/
def shaRounds : List Nat → List (BitVec 64) → ShaWords → ShaWords
  | [], _, v => v
  | k :: ks, w, v => shaRounds ks (w.drop 1 ++ [shaNext w]) (shaRound v (BitVec.ofNat 64 k + w.getD 0 0))

/-- One block compressed into the hash value. -/
def shaBlock (h : List (BitVec 64)) (b : List Byte) : List (BitVec 64) :=
  let v := shaRounds shaK ((chunks 8 16 b).map beWord) (h.take 4, h.drop 4)
  (v.1 ++ v.2).zipWith (· + ·) h

/-- SHA-384: 48 bytes. -/
def sha384 (m : List Byte) : List Byte :=
  let p := shaPad m
  ((chunks 128 (p.length / 128) p).foldl shaBlock shaH).take 6 |>.flatMap fun w => (leBytes 8 w.toNat).reverse

/-- A digest as its 48 bytes, lowest first, and back (R8). -/
def digestBytes (d : Digest) : List Byte := leBytes 48 d.toNat
def digestOf (bs : List Byte) : Digest := BitVec.ofNat 384 (leNat bs)

end Sys2Proof.Machine
end

