-- ==== Sys2Proof/Machine/Translate.lean ====
section
/-! DEFINITION. Homes (R279, R280), page walks (R359 to R363), TLBs (R365, R366) and the poison log (R389). -/

namespace Sys2Proof.Machine

/-! ### Homes and owners -/

/-- The home's index among the 1,024 (R279). -/
def homeIndex (pa : Nat) : Nat :=
  let x := pa % 2 ^ 39 / 256
  Nat.xor (Nat.xor (x % 1024) (x / 2 ^ 10 % 1024)) (Nat.xor (x / 2 ^ 20 % 1024) (x / 2 ^ 30 % 2))

/-- home_cell of R279. -/
def homeCell (pa : Nat) : Nat := homeAt (homeIndex pa)

def isHost (pa : Nat) : Bool := pa / 2 ^ 39 == 8191
/-- A local physical address: its device number is the device's own (R463). -/
def State.isLocal (s : State) (pa : Nat) : Bool := pa / 2 ^ 39 == s.dev.devnum.toNat
def State.isRemote (s : State) (pa : Nat) : Bool := !isHost pa && !s.isLocal pa
/-- R280. -/
def populated (pa : Nat) : Bool := decide (pa % 2 ^ 39 < 0x6000000000)

/-- The virtual device that owns a local address's granule, once its scrub is done (R348, R349). -/
def State.ownerOf (s : State) (pa : Nat) : Option Nat :=
  match look (pa % 2 ^ 39 / 2 ^ 30) s.granules with
  | some g => if g.scrubbing then none else some g.owner
  | none => none

/-- Does the virtual device own all of [pa, pa + n)? -/
def State.owns (s : State) (v pa n : Nat) : Bool :=
  s.isLocal pa && populated pa && decide (0 < n) && decide (pa % 2 ^ 39 + n ≤ 0x6000000000) &&
    (List.range ((pa % 2 ^ 30 + n - 1) / 2 ^ 30 + 1)).all fun k => s.ownerOf (pa + k * 2 ^ 30) == some v

/-- Is any of [pa, pa + n) another virtual device's? -/
def State.othersOwn (s : State) (v pa n : Nat) : Bool :=
  s.isLocal pa && populated pa &&
    (List.range ((pa % 2 ^ 30 + n - 1) / 2 ^ 30 + 1)).any fun k =>
      match s.ownerOf (pa + k * 2 ^ 30) with
      | some w => w != v
      | none => false

/-! ### Walks (R359 to R363) -/

inductive WalkRes where
  /-- a fault's class and code, the freeze it causes, the poisoned line it met -/
  | fault (cls code : Nat) (freeze : Option Nat) (line : Option Nat)
  /-- a zero claim must be made at this leaf entry, for this page frame; W1 page or not -/
  | claim (leaf frame : Nat) (w1 : Bool)
  | install (e : TlbEntry)
  deriving DecidableEq, Repr

def pageFault (code : Nat) : WalkRes := .fault 0x0A code none none

/-- Bits [hi:lo] of an entry. -/
def bitsOf (x lo n : Nat) : Nat := x / 2 ^ lo % 2 ^ n

/-- An 8-byte entry, or the poisoned line it lies in. -/
def State.readEntry (s : State) (pa : Nat) : Except WalkRes Nat :=
  if s.poisoned pa then .error (.fault 0x0A 5 none (some (pa / 256 * 256))) else .ok (s.readNat pa 8)

def walkIf (c : Bool) (r : WalkRes) : Except WalkRes Unit := if c then .error r else .ok ()

/-- node(e) of R361. -/
def State.walkNode (s : State) (v e align size : Nat) : Except WalkRes Nat := do
  let a := bitsOf e 12 40 * 4096
  walkIf (a % align != 0) (pageFault 2)
  walkIf (!s.owns v a size) (.fault 0x0A 4 (if s.othersOwn v a size then some 5 else none) none)
  pure a

/-- Where a translation points (R362). -/
def State.checkTarget (s : State) (v pa size : Nat) : Except WalkRes Unit :=
  let acc (code : Nat) (freeze : Option Nat) : WalkRes := .fault 0x0B code freeze none
  if isHost pa then
    match look v s.vdevs with
    | some d =>
      walkIf (!(decide (d.gclbase ≤ pa % 2 ^ 39) && decide (pa % 2 ^ 39 + size ≤ d.gclbase + d.gclsize))) (acc 5 (some 6))
    | none => .error (acc 5 (some 6))
  else if s.isLocal pa then do
    walkIf (!populated pa) (acc 2 none)
    walkIf (!s.owns v pa size) (acc 3 (some 5))
  else .ok ()

/-- run_ok of R363 for the 32 entries of a line. -/
def runOk (es : List Nat) : Bool :=
  let e0 := es.headD 0
  es.all (fun e => e % 2 == 1 && bitsOf e 11 1 == 1 && bitsOf e 7 2 == 0 && bitsOf e 0 9 == bitsOf e0 0 9) &&
    bitsOf e0 16 36 % 32 == 0 && (es.zipIdx.all fun p => bitsOf p.1 16 36 == bitsOf e0 16 36 + p.2)

/-- The leaf entry at an address, and what the walk makes of it. -/
def State.walkLeaf (s : State) (asid v va leaf : Nat) : Except WalkRes WalkRes := do
  let e ← s.readEntry leaf
  walkIf (e % 2 == 0) (pageFault 1)
  walkIf (bitsOf e 52 12 != 0 || bitsOf e 12 4 != 0 || bitsOf e 9 2 != 0 || bitsOf e 1 1 != 0) (pageFault 2)
  let zf := bitsOf e 7 1 == 1
  let clm := bitsOf e 8 1 == 1
  walkIf (clm && (!zf || !s.fills.any (fun f => f.filling && f.leaf == leaf))) (pageFault 2)
  let line := (List.range 32).map fun j => s.readNat (leaf / 256 * 256 + 8 * j) 8
  if bitsOf e 11 1 == 1 && runOk line then do
    let pa := bitsOf (line.headD 0) 16 36 * 2 ^ 16
    s.checkTarget v pa (2 ^ 21)
    pure (.install { asid := asid, page := va / 2 ^ 21, size := 21, pa := pa, attr := BitVec.ofNat 9 e })
  else do
    let pa := bitsOf e 16 36 * 2 ^ 16
    s.checkTarget v pa (2 ^ 16)
    if zf || clm then pure (.claim leaf pa (bitsOf e 5 1 == 1))
    else pure (.install { asid := asid, page := va / 2 ^ 16, size := 16, pa := pa, attr := BitVec.ofNat 9 e })

def State.walkRoot (s : State) (asid v root va : Nat) : Except WalkRes WalkRes := do
  let re ← s.readEntry (root + 8 * bitsOf va 34 20)
  let kind := bitsOf re 9 2
  walkIf (kind == 0) (pageFault 1)
  walkIf (bitsOf re 52 12 != 0 || bitsOf re 11 1 != 0) (pageFault 2)
  if kind == 3 then do
    walkIf (re % 2 == 0 || bitsOf re 7 2 != 0 || bitsOf re 1 1 != 0 || bitsOf re 12 22 != 0) (pageFault 2)
    let pa := bitsOf re 34 18 * 2 ^ 34
    s.checkTarget v pa (2 ^ 34)
    pure (.install { asid := asid, page := va / 2 ^ 34, size := 34, pa := pa, attr := BitVec.ofNat 9 re })
  else do
    walkIf (bitsOf re 0 9 != 0) (pageFault 2)
    if kind == 1 then do
      let n ← s.walkNode v re (2 ^ 21) (2 ^ 21)
      s.walkLeaf asid v va (n + 8 * bitsOf va 16 18)
    else do
      let n ← s.walkNode v re 4096 4096
      let de ← s.readEntry (n + 8 * bitsOf va 25 9)
      walkIf (de % 2 == 0) (pageFault 1)
      walkIf (bitsOf de 52 12 != 0 || bitsOf de 1 11 != 0) (pageFault 2)
      let l ← s.walkNode v de 4096 4096
      s.walkLeaf asid v va (l + 8 * bitsOf va 16 9)

/-- walk of R361, with the check of R362. -/
def State.walkNow (s : State) (asid va : Nat) : WalkRes :=
  match s.ctx asid with
  | none => pageFault 1
  | some x =>
    match s.walkRoot asid x.cr.vdev x.cr.ptroot va with
    | .error r => r
    | .ok r => r

/-! ### TLBs (R365, R366): most recently used first -/

def TlbEntry.covers (e : TlbEntry) (asid va : Nat) : Bool := e.asid == asid && e.page == va / 2 ^ e.size
/-- The physical address an entry gives. -/
def TlbEntry.addr (e : TlbEntry) (va : Nat) : Nat := e.pa + va % 2 ^ e.size

/-- The matching entry of the smallest size. -/
def tlbFind (asid va : Nat) : List TlbEntry → Option TlbEntry
  | [] => none
  | e :: t =>
    let r := tlbFind asid va t
    if e.covers asid va then
      match r with
      | some y => if y.size < e.size then some y else some e
      | none => some e
    else r

def tlbAdd (cap : Nat) (e : TlbEntry) (l : List TlbEntry) : List TlbEntry :=
  (e :: l.filter fun x => !(x.asid == e.asid && x.size == e.size && x.page == e.page)).take cap

def State.sharedTlb (s : State) (die : Nat) : List TlbEntry := (look die s.stlb).getD []

/-- The translation a cell finds, its own TLB first. -/
def State.tlbLookup (s : State) (cell asid va : Nat) : Option TlbEntry :=
  match tlbFind asid va (s.cell cell).tlb with
  | some e => some e
  | none => tlbFind asid va (s.sharedTlb (dieOf cell))

/-- Where an entry lies in the shared TLB of a die, which has 512 sets (log entry 38). -/
def TlbEntry.set (e : TlbEntry) : Nat := e.page % 512

/-- An entry joins the shared TLB of a die: its set keeps the eight most recently used. -/
def tlbAddShared (e : TlbEntry) (l : List TlbEntry) : List TlbEntry :=
  let kept := l.filter fun x => !(x.asid == e.asid && x.size == e.size && x.page == e.page)
  let rec keep : Nat → List TlbEntry → List TlbEntry
    | _, [] => []
    | n, x :: t => if x.set = e.set then (match n with | 0 => keep 0 t | k + 1 => x :: keep k t) else x :: keep n t
  e :: keep 7 kept

/-- An entry used: it becomes the most recent where it stands. -/
def State.tlbTouch (s : State) (cell : Nat) (e : TlbEntry) : State :=
  if (s.cell cell).tlb.contains e then s.modCell cell fun c => { c with tlb := tlbAdd 64 e c.tlb }
  else { s with stlb := put (dieOf cell) (tlbAddShared e (s.sharedTlb (dieOf cell))) s.stlb }

/-- A completed walk fills the shared TLB of its die and the TLBs of the cells that asked. -/
def State.tlbFill (s : State) (die : Nat) (cells : List Nat) (e : TlbEntry) : State :=
  let s1 : State := { s with stlb := put die (tlbAddShared e (s.sharedTlb die)) s.stlb }
  cells.foldl (fun st c => st.modCell c fun x => { x with tlb := tlbAdd 64 e x.tlb }) s1

/-! ### Walk requests -/

/-- A set waits for a page: it joins the walk of its die for that page, or starts one while a walker is free. -/
def State.requestWalk (s : State) (f : Firing) (va : Nat) : State :=
  let die := dieOf f.cell
  let same (w : Walk) : Bool := w.die == die && w.asid == f.asid && w.va / 2 ^ 16 == va / 2 ^ 16
  if s.walks.any same then
    { s with walks := s.walks.map fun w =>
        if same w && !w.waiters.contains (f.cell, f.sid) then { w with waiters := w.waiters ++ [(f.cell, f.sid)] } else w }
  else if (s.walks.filter fun w => w.die == die).length < 64 then
    { s with walks := s.walks ++ [{ asid := f.asid, va := va, die := die, waiters := [(f.cell, f.sid)], claim := none }] }
  else s

/-- Sets of a die that wait for a walker are tried again. They go on with what they read at selection (R35, R306). -/
def State.wakeWalkers (s : State) (die : Nat) : State :=
  { s with cells := s.cells.map fun p =>
      if dieOf p.1 == die then
        (p.1, { p.2 with sets := p.2.sets.map fun x =>
          if x.hold == some .walk && !s.walks.any (fun w => w.waiters.contains (p.1, x.sid)) then
            { x with hold := none } else x })
      else p }

/-- A walk's fault told to a waiting set. -/
def FSet.fail (x : FSet) (va cls code : Nat) (freeze : Option Nat := none) (aux : Nat := 0) : FSet :=
  { x with faults := { va := va / 2 ^ 16, cls := cls, code := code, freeze := freeze, aux := aux } :: x.faults, hold := none }

/-- The walk is finished. -/
def State.endWalk (s : State) (w : Walk) : State :=
  let s1 : State := { s with walks := s.walks.filter fun v => v != w }
  s1.wakeWalkers w.die

/-- Is the set a PREF, which starts no fill and raises no fault (R312)? -/
def FSet.isPref (x : FSet) : Bool :=
  match x.snap with
  | some f => f.word.extractLsb' 120 8 == 0x96#8
  | none => false


/-- PAGE_WALK_DONE's work for a walk (R361, R362, R365). -/
def State.walkDone (s : State) (w : Walk) : State :=
  match s.walkNow w.asid w.va with
  | .install e => (s.tlbFill w.die (w.waiters.map Prod.fst) e).endWalk w
  | .claim leaf frame w1 =>
    -- PREF skips a page not yet filled; the others wait for the claim
    let prefs := w.waiters.filter fun p => (((s.cell p.1).findSet p.2).map FSet.isPref).getD false
    let rest := w.waiters.filter fun p => !prefs.contains p
    let s1 := prefs.foldl (fun st p => st.modCell p.1 fun c => c.modSet p.2 fun x => x.fail w.va 0 0) s
    if rest.isEmpty then s1.endWalk w
    else
      { s1 with
        walks := s1.walks.map fun v => if v == w then { w with waiters := rest, claim := some leaf } else v
        fills := s1.fills ++ [{ leaf := leaf, frame := frame, asid := w.asid, w1 := w1, filling := false }] }
  | .fault cls code freeze line =>
    let who := w.waiters.headD (0, 0)
    let slot := (((s.cell who.1).findSet who.2).map FSet.slot).getD 0
    let s1 := match line with
      | some a => s.logPoison w.asid a who.1 slot 3
      | none => s
    let addr := w.va
    -- a firing decides on its faults once all its pages have been walked (R300); a PREF raises none, and its freeze comes
    -- at once (R312, R362)
    (w.waiters.foldl (fun st p =>
      match (st.cell p.1).findSet p.2 with
      | none => st
      | some x =>
        let told (c : Option Nat) (t : State) : State := t.modCell p.1 fun k => k.modSet p.2 fun y => y.fail addr cls code c
        match if x.isPref then freeze else none with
        | none => told freeze st
        | some cause =>
          told none (st.freeze { cause := cause, vdev := st.vdevOf w.asid, asid := some w.asid, cell := p.1, slot := x.slot,
                                 tag := x.tag, addr := addr })) s1).endWalk w

/-- PAGE_WALK_DONE (R361): the n-th walk in progress completes, when it waits for no zero claim. -/
def execPageWalkDone (n : Nat) (s : State) : Host.Outcome State Fault Refusal :=
  .next (match s.walks[n]? with
    | some w => if w.claim.isNone then s.walkDone w else s
    | none => s)

end Sys2Proof.Machine
end

