-- ==== Sys2Proof/Machine/Attar.lean ====
section
/-! DEFINITION. Attars: bindings (R252 to R255), the attar check (R272), banks (R273, R274), the micro-operations
(R259 to R268) and the firing of an XOP (R269 to R271). -/

namespace Sys2Proof.Machine

/-! ### Bindings (R252, R253, R255) -/

/-- A binding table entry (R253). -/
structure Binding where
  off : Nat
  fmtok : Nat
  len : Nat
  tlen : Nat
  v : Bool
  dbg : Bool
  accp : Nat
  nports : Nat
  tile : Nat
  litok : Nat
  shape : Nat
  rfmt : Nat
  rrows : Nat
  rcols : Nat
  varok : Nat
  modok : Nat
  meas : List Byte
  /-- its reserved bytes and bits are zero -/
  clean : Bool
  deriving DecidableEq, Repr

def Binding.ofBytes (e : List Byte) : Binding :=
  let n (a k : Nat) : Nat := leNat ((e.drop a).take k)
  { off := n 0 4, fmtok := n 4 4, len := n 8 2 % 512, tlen := n 10 1, v := n 11 1 % 2 == 1, dbg := n 11 1 / 2 % 2 == 1,
    accp := n 11 1 / 4 % 4, nports := n 12 1 % 4, tile := n 12 1 / 4 % 8, litok := n 12 1 / 32, shape := n 13 1 % 8,
    rfmt := n 14 1 % 32, rrows := n 15 1 % 64, rcols := n 16 2 % 512, varok := n 18 2, modok := n 20 2,
    meas := (e.drop 32).take 48,
    clean := n 8 2 / 512 == 0 && n 11 1 / 16 == 0 && n 13 1 / 8 == 0 && n 14 1 / 32 == 0 && n 15 1 / 64 == 0 &&
      n 16 2 / 512 == 0 && n 22 10 == 0 }

/-- Entry n of a context's binding table; an area too small for the table binds nothing. -/
def State.binding (s : State) (asid n : Nat) : Option Binding :=
  match s.ctx asid with
  | none => none
  | some x =>
    if x.cr.attarsize < 5120 then none
    else
      let b := Binding.ofBytes (s.readMem (x.cr.attarbase + 80 * n) 80)
      if b.v then some b else none

/-- Poisoned lines met in reading entry n of the binding table for a cell and slot (R389). -/
def State.noteBinding (s : State) (asid n cell slot : Nat) : State :=
  match s.ctx asid with
  | none => s
  | some x => if x.cr.attarsize < 5120 then s else s.logArea asid (x.cr.attarbase + 80 * n) 80 cell slot

def Binding.portTile (b : Binding) (p : Port) : Bool := b.tile.testBit (portCode p)

/-- Token ports an ARITY code gives (R30). -/
def arityCount : Arity → Nat
  | .one => 1
  | .two => 2
  | .three => 3

/-- R252 against the entry. -/
def Binding.admits (b : Binding) (w : OpFields) : Bool :=
  b.fmtok.testBit (Enc.Fmt.code w.fmt).toNat && b.varok.testBit w.var.toNat && b.modok.testBit w.mod.toNat &&
    match w.lit with
    | none => arityCount w.arity == b.nports
    | some p => b.litok.testBit (portCode p) && arityCount w.arity + 1 == b.nports

/-- Formats of tiles an attar reads and writes (R269). -/
def attarFmt (f : Fmt) : Bool :=
  f == .s8 || f == .z8 || f == .s16 || f == .z16 || f == .s32 || f == .z32 || f == .f32 || f == .f16 || f == .bf16 ||
    f == .e4m3 || f == .e5m2

/-- Formats of scalars (R178). -/
def scalarFmt (f : Fmt) : Bool := Enc.Fmt.isInt f || Enc.Fmt.isG f || f == .e2m1 || f == .a36

/-- Is every format that a mask admits one of the class? A mask that admits none meets it. -/
def maskOnly (m : Nat) (ok : Fmt → Bool) : Bool :=
  (List.range 32).all fun i => !m.testBit i || (match Enc.Fmt.ofNat i with | some f => ok f | none => false)

/-- Does RFMT name a format of the class, itself or through FMTOK? -/
def Binding.rfmtOk (b : Binding) (ok : Fmt → Bool) : Bool :=
  if b.rfmt = 31 then maskOnly b.fmtok ok
  else match Enc.Fmt.ofNat b.rfmt with | some f => ok f | none => false

/-- The attar check of a routine and its entry (R272). -/
def attarCheck (b : Binding) (raw : List (BitVec 64)) (debug : Bool) : Bool :=
  let code := b.len - b.tlen
  let us := (raw.take code).map decodeMicro
  decide (1 ≤ b.len) && decide (b.len ≤ 256) && decide (b.tlen ≤ 64) && decide (b.tlen < b.len) &&
    raw.length == b.len && b.clean && b.off % 8 == 0 &&
    us.all (fun u => match u with
      | some u =>
        microOk code (2 * b.tlen) u && (!(u.mop == .macc || u.mop == .maccw) || (b.dbg && b.accp != 0)) &&
          (u.mop != .maccw || b.shape == 4) &&
          (u.rnd != 7 || (List.range 16).all fun m => !b.modok.testBit m || decide (m % 8 < 6))
      | none => false) &&
    (match us.getLast? with | some (some u) => u.mop == .mend || u.mop == .mtrap | _ => false) &&
    decide (1 ≤ b.nports) && decide (b.shape ≤ 4) && (!(b.shape == 0 || b.shape == 2) || b.portTile .a) &&
    (!decide (b.shape < 3) || b.rfmtOk attarFmt) && (b.shape != 3 || b.rfmtOk scalarFmt) &&
    Nat.land b.litok b.tile == 0 && b.litok / 2 ^ b.nports == 0 &&
    (b.accp == 0 || (decide (b.accp ≤ b.nports) && !b.tile.testBit (b.accp - 1))) &&
    (b.shape != 4 || b.accp != 0) && (!b.dbg || debug)

/-! ### Banks (R273, R274) -/

def Cell.bankOf (c : Cell) (asid n : Nat) : Option Bank := c.banks.find? fun b => b.asid == asid && b.xop == n

/-- XOP number of a set's word. -/
def Cell.xopOf (c : Cell) (f : FSet) : Option Nat :=
  let x := (c.activeSlot f.asid f.slot).word
  if x.extractLsb' 126 2 = 3#2 then some (x.extractLsb' 120 6).toNat else none

/-- A set still waits for the bank loaded for it. -/
def Cell.pinned (c : Cell) (b : Bank) : Bool :=
  match b.pin with
  | some sid => c.sets.any fun f => f.sid == sid && f.hold.isNone
  | none => false

/-- A bank taken for routine n of a set: a free one, else the least recently started that is neither pinned nor loading. -/
def Cell.takeBank (c : Cell) (f : FSet) (n : Nat) : Option Cell :=
  let b : Bank := { asid := f.asid, xop := n, words := [], pin := some f.sid, st := .loading, slot := f.slot }
  if c.banks.length < 16 then some { c with banks := c.banks ++ [b] }
  else
    match c.banks.find? fun v => v.st != .loading && !c.pinned v with
    | none => none
    | some v => some { c with banks := (c.banks.filter fun u => u != v) ++ [b] }

/-- The routine a formed set needs and no bank of its cell has: the set waits for a load, whether or not its tiles have
been spilled (R87, R274). -/
def State.wantsBank (s : State) (cell : Nat) (f : FSet) : Option Nat :=
  let c := s.cell cell
  let runs : Bool := match s.ctx f.asid with
    | some x => !x.cr.frozen && !x.lost && !c.stops.contains f.asid
    | none => false
  if f.hold.isSome || !runs then none
  else
    (c.xopOf f).filter fun n =>
      (c.bankOf f.asid n).isNone &&
        match s.binding f.asid n, (decodeSlot (c.activeSlot f.asid f.slot).word).bind opcodeOf with
        | some b, some (_, w) => b.admits w
        | _, _ => false

/-- The first of a cell's waiting sets, in the order they formed, and its routine. -/
def State.firstLoad (s : State) (cell : Nat) : Option (FSet × Nat) :=
  ((s.cell cell).sets.filterMap fun f => (s.wantsBank cell f).map fun n => (f, n)).foldl
    (fun b x => match b with
      | some y => if decide (x.1.age < y.1.age) then some x else some y
      | none => some x) none

/-- A bank replaced. -/
def Cell.setBank (c : Cell) (b : Bank) : Cell :=
  { c with banks := c.banks.map fun v => if v.asid == b.asid && v.xop == b.xop then b else v }
def Cell.dropBank (c : Cell) (asid n : Nat) : Cell :=
  { c with banks := c.banks.filter fun v => !(v.asid == asid && v.xop == n) }
/-- A bank started by a set: it becomes the most recently started, and is pinned no more when it was for that set. -/
def Cell.startBank (c : Cell) (b : Bank) (sid : Nat) : Cell :=
  let d := c.dropBank b.asid b.xop
  { d with banks := d.banks ++ [{ b with pin := if b.pin == some sid then none else b.pin }] }

/-- One measurement extends the attestation record (R371). -/
def State.measure (s : State) (asid : Nat) (meas : List Byte) : State :=
  match s.ctx asid with
  | none => s
  | some x =>
    let d := digestOf (sha384 (digestBytes x.par.attest ++ meas))
    let n := x.par.nmeas + 1
    (s.setCtx asid { x with par := { x.par with attest := d, nmeas := n } }).writeMem (x.cr.base + 264)
      (digestBytes d ++ leBytes 4 n.toNat)

/-- ATTAR_BANK_LOAD (R273, R275): the routine is read, checked, measured and made resident, or the load fails. -/
def bankLoaded (s : State) (cell n : Nat) : State :=
  match ((s.cell cell).banks.filter fun b => b.st == .loading)[n]? with
  | none => s
  | some b =>
    let fail (st : State) : State := st.modCell cell fun c => c.setBank { b with st := .failed }
    match s.ctx b.asid, s.binding b.asid b.xop with
    | some x, some e =>
      let pa := x.cr.attarbase + 5120 + e.off
      let s := s.noteBinding b.asid b.xop cell b.slot
      if x.cr.attarsize < 5120 + e.off + 8 * e.len then fail s
      else if !s.owns x.cr.vdev pa (8 * e.len) then
        -- the firing that needed the routine is the offending one (R370)
        match (b.pin.bind (s.cell cell).findSet).map fun y => (s.firingOf cell y).1 with
        | some f => (s.modCell cell fun c => c.dropBank b.asid b.xop).raiseCause f 4 0
        | none =>
          fail (s.freeze { cause := 4, vdev := x.cr.vdev, asid := some b.asid, cell := cell, slot := b.slot, tag := 0,
                           addr := 0 })
      else
        let data := s.readMem pa (8 * e.len)
        let raw := (chunks 8 e.len data).map fun w => BitVec.ofNat 64 (leNat w)
        let s1 := s.logArea b.asid pa (8 * e.len) cell b.slot
        if sha384 data == e.meas && attarCheck e raw (x.par.caps.getLsbD 0) then
          (s1.measure b.asid e.meas).modCell cell fun c => c.setBank { b with st := .resident, words := raw }
        else fail s1
    | _, _ => s.modCell cell fun c => c.dropBank b.asid b.xop

def execAttarBankLoad (cell n : Nat) (s : State) : Host.Outcome State Fault Refusal := .next (bankLoaded s cell n)

/-! ### Registers of a firing (R256) -/

/-- The registers of a running firing, what it has written of its result and of its shadow accumulator (R237). -/
structure Run where
  m : List (List Word32)
  q : List Word32
  ac : List Word32
  lc : List Word32
  mask : BitVec 64
  mpc : Nat
  used : Nat
  n : Nat
  flags : Flags
  grid : List (List Nat)
  shadow : List (BitVec 36)
  /-- poison groups MACCW has written while poisoned -/
  groups : BitVec 8

/-- A tile as MLDR reads it: format, columns, valid rows, elements. -/
structure View where
  fmt : Fmt
  cols : Nat
  valid : Nat
  grid : List (List Nat)

/-- What a running firing does not change. -/
structure RunEnv where
  raw : List (BitVec 64)
  code : Nat
  ports : List (Option View)
  result : Option View
  acc : Option Acc
  mod : BitVec 4
  rand : Nat → Nat
  fpen : BitVec 8
  poisoned : Bool

def RunEnv.ftz (e : RunEnv) : Bool := e.mod.getLsbD 3

def Run.lane (r : Run) (g : Reg) (l : Nat) : Nat :=
  match g with
  | .m i => ((r.m.getD i.toNat []).getD l 0).toNat
  | .q i => (r.q.getD i.toNat 0).toNat
  | _ => 0

/-- A scalar register; MK as a number. -/
def Run.scal (r : Run) : Reg → Nat
  | .q i => (r.q.getD i.toNat 0).toNat
  | .ac i => (r.ac.getD i.toNat 0).toNat
  | .lc i => (r.lc.getD i.toNat 0).toNat
  | .mk => r.mask.toNat
  | _ => 0

/-- The bits an address counter keeps (R256). -/
def acMask : Word32 := 0x303F01FF

/-- A scalar register or MK written. -/
def Run.put (r : Run) (g : Reg) (v : Nat) : Run :=
  match g with
  | .q i => { r with q := r.q.set i.toNat (BitVec.ofNat 32 v) }
  | .ac i => { r with ac := r.ac.set i.toNat (BitVec.ofNat 32 v &&& acMask) }
  | .lc i => { r with lc := r.lc.set i.toNat (BitVec.ofNat 32 v) }
  | .mk => { r with mask := BitVec.ofNat 64 v }
  | _ => r

def Run.putLanes (r : Run) (g : Reg) (vs : List Nat) : Run :=
  match g with
  | .m i => { r with m := r.m.set i.toNat (vs.map (BitVec.ofNat 32)) }
  | _ => r

/-- What one micro-operation does: its writes, the flags of its lanes, where it goes, whether it ends. -/
structure MicroRes where
  run : Run
  fl : ElemFlags
  jump : Option Nat
  fin : Bool

def Run.go (r : Run) : Ex MicroRes := .ok { run := r, fl := [], jump := none, fin := false }

/-- A lane operation into DST. -/
def Run.each (r : Run) (dst : Reg) (f : Nat → Nat × Flags) : Ex MicroRes :=
  let xs := (List.range 64).map f
  .ok { run := r.putLanes dst (xs.map Prod.fst), jump := none, fin := false,
        fl := xs.zipIdx.filterMap fun p => if p.1.2 = 0 then none else some (p.2, p.1.2) }

/-- A mask from a test of each lane. -/
def maskOf (f : Nat → Bool) : Nat := (List.range 64).foldl (fun a l => if f l then a + 2 ^ l else a) 0
def Run.lanesOn (r : Run) : List Nat := (List.range 64).filter r.mask.getLsbD

/-! ### The micro-operations (R259 to R268) -/

/-- Rounding of a micro-operation: RND, or the word's mode under 0b111; FTZ from MOD[3]; random bits by R259. -/
def microRound (e : RunEnv) (r : Run) (u : MicroWord) : Round :=
  { rm := if u.rnd = 7 then Rm.ofMod e.mod else Rm.ofMod (0#1 ++ u.rnd), ftz := e.ftz
    rnd := fun l => e.rand (r.n * 2 ^ 22 + l) }

def tATTAR_FAULT (code : Nat) : Trap := trapOf 0x13 code

/-- The tile a counter names; the result as written so far for 0b11. -/
def RunEnv.view (e : RunEnv) (r : Run) (c : Nat) : Option View :=
  match c / 2 ^ 28 % 4 with
  | 3 => e.result.map fun v => { v with grid := r.grid }
  | p => (e.ports[p]?).join

def counterRow (c : Nat) : Nat := c / 2 ^ 16 % 64
def counterCol (c : Nat) : Nat := c % 512

/-- An element widened into a lane (R261); a subnormal one is flushed under MOD[3] (log entry 98). -/
def widen (f : Fmt) (ftz : Bool) (x : Nat) : Nat × Flags :=
  if Enc.Fmt.isInt f then (wrapNat 32 (readInt f x), 0) else convert f .f32 .rne ftz false 0 x

/-- MLDR (R261). -/
def microLdr (e : RunEnv) (r : Run) (u : MicroWord) : Ex MicroRes :=
  let c := r.scal u.sa
  match e.view r c with
  | none => .error (tATTAR_FAULT 2)
  | some v =>
    let row := counterRow c
    r.each u.dst fun l =>
      let col := counterCol c + l
      if v.cols ≤ col ∨ v.valid ≤ row then (0, 0) else widen v.fmt e.ftz (cellOf v.grid row col)

/-- A lane stored as an element (R261). -/
def narrow (f : Fmt) (ro : Round) (l x : Nat) : Nat × Flags :=
  if Enc.Fmt.isInt f then
    let y := fitPlain (readInt (if Enc.Fmt.signed f then .s32 else .z32) x) f ro.ftz
    (wrapNat (width f) y.1, y.2)
  else convert .f32 f ro.rm ro.ftz false (ro.rnd l) x

def setAt (g : List (List Nat)) (i j x : Nat) : List (List Nat) := g.modify i fun r => r.set j x

/-- MSTR (R261). -/
def microStr (e : RunEnv) (r : Run) (u : MicroWord) : Ex MicroRes :=
  let c := r.scal u.dst
  match if c / 2 ^ 28 % 4 = 3 then e.result else none with
  | none => .error (tATTAR_FAULT 2)
  | some v =>
    let row := counterRow c
    let ls := r.lanesOn.filter fun l => decide (counterCol c + l < v.cols) && decide (row < v.valid)
    let xs := ls.map fun l => (l, narrow v.fmt (microRound e r u) l (r.lane u.sa l))
    .ok { run := { r with grid := xs.foldl (fun g p => setAt g row (counterCol c + p.1) p.2.1) r.grid },
          fl := xs.filterMap fun p => if p.2.2 = 0 then none else some (p.1, p.2.2), jump := none, fin := false }

/-- MSTEP (R261). -/
def microStep (r : Run) (u : MicroWord) : Ex MicroRes :=
  let c := r.scal u.dst
  let row := ((counterRow c : Int) + sint 15 (u.imm.toNat / 2 ^ 16)) % 64
  let col := ((counterCol c : Int) + sint 16 (u.imm.toNat % 2 ^ 16)) % 512
  (r.put u.dst (c / 2 ^ 28 % 4 * 2 ^ 28 + row.toNat * 2 ^ 16 + col.toNat)).go

/-- MIMM (R260). -/
def microImm (r : Run) (u : MicroWord) : Ex MicroRes :=
  let i := u.imm.toNat
  let v := match u.mf.toNat with
    | 0 => 2 * i % 2 ^ 32
    | 1 => wrapNat 32 (sint 31 i)
    | _ => i
  match u.dst with
  | .m _ => (r.putLanes u.dst (List.replicate 64 v)).go
  | .mk => (r.put .mk (2 ^ i - 1)).go
  | d => (r.put d v).go

/-- MMOV (R260). -/
def microMov (r : Run) (u : MicroWord) : Ex MicroRes :=
  match u.dst, u.sa with
  | .m _, .mk => (r.putLanes u.dst ((List.range 64).map fun l => if r.mask.getLsbD l then 1 else 0)).go
  | .m _, a => (r.putLanes u.dst ((List.range 64).map (r.lane a))).go
  | .mk, a => (r.put .mk (maskOf fun l => r.lane a l != 0)).go
  | d, a => (r.put d (r.scal a)).go

/-- A float result of a lane, rounded once. -/
def laneRound (ro : Round) (l : Nat) (v : FV × Flags) : Nat × Flags :=
  let x := deliver .f32 ro l v.1
  (x.1, v.2 ||| x.2)

/-- An integer result of a lane, through fit with SAT from MOD[3]. -/
def laneFit (f : Fmt) (sat : Bool) (x : Int) : Nat × Flags :=
  let y := fitPlain x f sat
  (wrapNat 32 y.1, y.2)

/-- The lane arithmetic of R262. -/
def laneArith (ro : Round) (u : MicroWord) (l a b c : Nat) : Nat × Flags :=
  if u.mf = 0 then
    let x := readF .f32 ro.ftz a
    let y := readF .f32 ro.ftz b
    let z := readF .f32 ro.ftz c
    match u.mop with
    | .madd => laneRound ro l (fvAdd ro.rm x y)
    | .msub => laneRound ro l (fvAdd ro.rm x y.negate)
    | .mmul => laneRound ro l (fvMul x y)
    | .mfma => laneRound ro l (fvFma ro.rm x y z)
    | .mmin => fMinMax .f32 ro.ftz false a b
    | .mmax => fMinMax .f32 ro.ftz true a b
    | .mabs => (a % 2 ^ 31, 0)
    | .mneg => (if a < 2 ^ 31 then a + 2 ^ 31 else a - 2 ^ 31, 0)
    | .mrcp => laneRound ro l (fvDiv (.fin false 1 1) x)
    | .mrsq => laneRound ro l (fvRsqrt x)
    | .mexp2 => vexp2 .f32 ro l x
    | _ => vlog2 .f32 ro l x
  else
    let f := if u.mf = 1 then Fmt.s32 else .z32
    let x := readInt f a
    let y := readInt f b
    match u.mop with
    | .madd => laneFit f ro.ftz (x + y)
    | .msub => laneFit f ro.ftz (x - y)
    | .mmul => laneFit f ro.ftz (x * y)
    | .mfma => laneFit f ro.ftz (x * y + readInt f c)
    | .mmin => (if y < x then b else a, 0)
    | .mmax => (if x < y then b else a, 0)
    | .mabs => laneFit f ro.ftz x.natAbs
    | _ => laneFit f ro.ftz (-x)

/-- MCVT (R263): a result narrower than the lane sits in its low bits, sign-extended for s16 and s8. -/
def laneCvt (ro : Round) (u : MicroWord) (l x : Nat) : Nat × Flags :=
  match mfFmt (u.imm.toNat % 16), mfFmt u.mf.toNat with
  | some src, some dst =>
    let fl := !Enc.Fmt.isInt src
    let y := convert src dst ro.rm (fl && ro.ftz) (!fl && ro.ftz) (ro.rnd l) (x % 2 ^ width src)
    (if dst == .s16 || dst == .s8 then wrapNat 32 (sint (width dst) y.1) else y.1, y.2)
  | _, _ => (0, 0)

/-- MRED's f32 sum: nodes of the tree with the lowest lane beneath each (R265, R269). -/
def redLevel (ro : Round) (lv : Nat) : Nat → List (Nat × Nat) → List (Nat × Nat) × ElemFlags
  | i, a :: b :: t =>
    let r := laneRound { ro with rnd := fun _ => ro.rnd (lv * 2 ^ 16 + i) } 0
      (fvAdd ro.rm (readF .f32 ro.ftz a.1) (readF .f32 ro.ftz b.1))
    let (l, fl) := redLevel ro lv (i + 1) t
    ((r.1, a.2) :: l, if r.2 = 0 then fl else (a.2, r.2) :: fl)
  | _, l => (l, [])
def redTree (ro : Round) : Nat → Nat → List (Nat × Nat) → Nat × ElemFlags
  | n + 1, lv, a :: b :: t =>
    let (l, fl) := redLevel ro lv 0 (a :: b :: t)
    let r := redTree ro n (lv + 1) l
    (r.1, fl ++ r.2)
  | _, _, l => ((l.headD (0, 0)).1, [])

/-- MRED over the lanes taking part (R265). -/
def laneReduce (ro : Round) (u : MicroWord) (xs : List (Nat × Nat)) : Nat × ElemFlags :=
  let k := u.imm.toNat % 4
  match xs with
  | [] => (0, [])
  | (x, l0) :: t =>
    if u.mf = 0 then
      if k = 0 then
        if t.isEmpty then
          let r := copyFloat .f32 ro.ftz x
          (r.1, if r.2 = 0 then [] else [(l0, r.2)])
        else redTree ro xs.length 0 xs
      else
        let r := t.foldl (fun a y => (fMinMax .f32 ro.ftz (k == 1) a y.1).1) (fMinMax .f32 ro.ftz (k == 1) x x).1
        (r, xs.filterMap fun y => if (decodeF .f32 y.1).isSig then some (y.2, fIV) else none)
    else
      let f := if u.mf = 1 then Fmt.s32 else .z32
      if k = 0 then
        let r := laneFit f ro.ftz (xs.foldl (fun a y => a + readInt f y.1) 0)
        (r.1, if r.2 = 0 then [] else [(l0, r.2)])
      else ((xs.map Prod.fst).getD (argBest (k == 1) f (xs.map Prod.fst)) 0, [])

/-- MQOP (R266). -/
def quickOp (u : MicroWord) (a b : Nat) : Nat :=
  let f := if u.mf = 1 then Fmt.s32 else .z32
  match u.imm.toNat % 16 with
  | 0 => a + b
  | 1 => a + 2 ^ 32 - b
  | 2 => a * b
  | 3 => Nat.land a b
  | 4 => Nat.lor a b
  | 5 => Nat.xor a b
  | 6 => a * 2 ^ (b % 32)
  | 7 => a / 2 ^ (b % 32)
  | 8 => if readInt f b < readInt f a then b else a
  | _ => if readInt f a < readInt f b then b else a

/-- MACC and MACCW (R268). MACCW under f32 flushes a subnormal lane under MOD[3] (log entry 97). -/
def microAcc (e : RunEnv) (r : Run) (u : MicroWord) : Ex MicroRes :=
  match e.acc with
  | none => .error (tATTAR_FAULT 4)
  | some a =>
    let row := r.scal (if u.mop == .macc then u.sa else u.sb)
    let ro := microRound e r u
    if a.rows ≤ row then .error (tATTAR_FAULT 4)
    else if u.mop == .macc then
      r.each u.dst fun l =>
        if a.cols ≤ l then (0, 0)
        else
          let x := (r.shadow.getD (row * a.cols + l) 0).toNat
          if u.mf = 0 then convert .a36 .f32 ro.rm ro.ftz false (ro.rnd l) x else laneFit .s32 ro.ftz (readInt .a36 x)
    else
      let xs := (List.range a.cols).map fun l =>
        (l, if u.mf = 0 then convert .f32 .a36 .rne ro.ftz false 0 (r.lane u.sa l)
            else (wrapNat 36 (readInt .s32 (r.lane u.sa l)), (0 : Flags)))
      .ok { run := { r with
              shadow := xs.foldl (fun sh p => sh.set (row * a.cols + p.1) (BitVec.ofNat 36 p.2.1)) r.shadow
              groups := if e.poisoned then r.groups ||| (1#8 <<< group a.rows row) else r.groups },
            fl := xs.filterMap fun p => if p.2.2 = 0 then none else some (p.1, p.2.2), jump := none, fin := false }

/-- One micro-operation. -/
def microOp (e : RunEnv) (r : Run) (u : MicroWord) : Ex MicroRes :=
  let ro := microRound e r u
  let a := r.lane u.sa
  let b := r.lane u.sb
  match u.mop with
  | .mnop => r.go
  | .mimm => microImm r u
  | .mmov => microMov r u
  | .mldr => microLdr e r u
  | .mstr => microStr e r u
  | .mstep => microStep r u
  | .madd | .msub | .mmul | .mfma | .mmin | .mmax | .mabs | .mneg | .mrcp | .mrsq | .mexp2 | .mlog2 =>
    r.each u.dst fun l => laneArith ro u l (a l) (b l) (r.lane u.sc l)
  | .mcvt => r.each u.dst fun l => laneCvt ro u l (a l)
  | .mcmp =>
    let cs := (List.range 64).map fun l =>
      if u.mf = 0 then fvCompare (u.imm.toNat % 8) (readF .f32 ro.ftz (a l)) (readF .f32 ro.ftz (b l))
      else
        let f := if u.mf = 1 then Fmt.s32 else .z32
        (cmpCond (u.imm.toNat % 8) (readInt f (a l)) (readInt f (b l)) (a l) (b l), 0)
    .ok { run := r.put .mk (maskOf fun l => (cs.getD l (false, 0)).1), jump := none, fin := false,
          fl := cs.zipIdx.filterMap fun p => if p.1.2 = 0 then none else some (p.2, p.1.2) }
  | .msel => r.each u.dst fun l => (if r.mask.getLsbD l then a l else b l, 0)
  | .mand => r.each u.dst fun l => (Nat.land (a l) (b l), 0)
  | .mor => r.each u.dst fun l => (Nat.lor (a l) (b l), 0)
  | .mxor => r.each u.dst fun l => (Nat.xor (a l) (b l), 0)
  | .mshl | .mshr =>
    r.each u.dst fun l =>
      let n := if u.sb = .z then u.imm.toNat % 32 else b l % 32
      if u.mop == .mshl then (a l * 2 ^ n % 2 ^ 32, 0)
      else if u.mf = 2 then (a l / 2 ^ n, 0)
      else (wrapNat 32 (readInt .s32 (a l) / (2 ^ n : Nat)), 0)
  | .mlut =>
    r.each u.dst fun l =>
      let k := u.imm.toNat % 256 + min (a l) (u.imm.toNat / 256 % 256)
      ((e.raw.getD (e.code + k / 2) 0).toNat / (if k % 2 = 0 then 1 else 2 ^ 32) % 2 ^ 32, 0)
  | .mred =>
    let x := laneReduce ro u (r.lanesOn.map fun l => (a l, l))
    .ok { run := r.put u.dst x.1, fl := x.2, jump := none, fin := false }
  | .mbcst => (r.putLanes u.dst (List.replicate 64 (a (u.imm.toNat % 64)))).go
  | .mqop =>
    let y := if u.sb = .z then wrapNat 32 (sint 27 (u.imm.toNat / 16)) else r.scal u.sb
    (r.put u.dst (quickOp u (r.scal u.sa) y)).go
  | .mloop =>
    let n := r.scal u.dst
    if n = 0 then r.go
    else .ok { run := r.put u.dst (n - 1), fl := [], fin := false,
               jump := if n = 1 then none else some (u.imm.toNat % 256) }
  | .mbrnz =>
    .ok { run := r, fl := [], fin := false, jump := if r.scal u.sa = 0 then none else some (u.imm.toNat % 256) }
  | .mtrap => .error (tSOFT (u.imm.toNat % 256))
  | .mend => .ok { run := r, fl := [], fin := true, jump := none }
  | .macc | .maccw => microAcc e r u

/-- Is it a micro-operation on integers alone, which raises no FP_EXCEPT (R161, R173)? -/
def intMicro (e : RunEnv) (u : MicroWord) : Bool :=
  match u.mop with
  | .mstr => match e.result with | some v => Enc.Fmt.isInt v.fmt | none => true
  | .mcvt => !mfFloat u.mf.toNat && !mfFloat (u.imm.toNat % 16)
  | .mldr => false
  | _ => u.mf != 0

/-- The registers as a trap exposes them (R270, R392). -/
def Run.snap (r : Run) : AttarSnap :=
  { m := r.m, q := r.q, ac := r.ac, lc := r.lc, mask := r.mask, mpc := r.mpc, micro := r.used, n := r.n }

/-- A trap of a routine: the firing's flags and the snapshot. -/
def Run.trap (r : Run) (t : Trap) : Trap := { t with flags := t.flags ||| r.flags, snap := some r.snap }

/-- The loop of R269. Every micro-operation costs a micro-cycle at least, so 65,537 turns are enough. -/
def Run.loop (e : RunEnv) : Nat → Run → Ex Run
  | 0, r => .error (r.trap (tATTAR_FAULT 1))
  | k + 1, r =>
    match decodeMicro (e.raw.getD r.mpc 0) with
    | none => .error (r.trap (tATTAR_FAULT 3))
    | some u =>
      if 65536 < r.used + mopCost u.mop then .error (r.trap (tATTAR_FAULT 1))
      else
        match microOp e r u with
        | .error t => .error (r.trap t)
        | .ok x =>
          let all := if e.poisoned then 0 else orAll x.fl
          let r1 := { r with flags := r.flags ||| all }
          let en := enabledFlags e.fpen
          match if e.poisoned || intMicro e u then none else firstElem en x.fl with
          | some l =>
            .error (r1.trap { trapOf 0x0D (fpCode (all &&& en)) with elem := r.n * 2 ^ 22 + l })
          | none =>
            let r2 : Run :=
              { x.run with flags := r1.flags, used := r.used + mopCost u.mop, n := r.n + 1, mpc := x.jump.getD (r.mpc + 1) }
            if x.fin then .ok r2 else r2.loop e k

/-! ### The firing of an XOP (R269) -/

/-- The port that carries the accumulator word. -/
def Binding.wordPort (b : Binding) : Port :=
  match b.accp with
  | 2 => .b
  | 3 => .c
  | _ => .a

/-- Q0 to Q7 at MPC 0 (R256). -/
def firstQ (f : Firing) (w : OpFields) : List Word32 :=
  ([Port.a, .b, .c].flatMap fun p =>
    match f.val p with
    | .tile h _ => [BitVec.ofNat 32 h.rows, BitVec.ofNat 32 h.cols]
    | v => [v.stand.extractLsb' 0 32, v.stand.extractLsb' 32 32]) ++ [w.imm, 0]

def firstRun (f : Firing) (w : OpFields) (grid : List (List Nat)) (shadow : List (BitVec 36)) : Run :=
  { m := List.replicate 16 (List.replicate 64 0), q := firstQ f w,
    ac := (List.range 4).map fun p => BitVec.ofNat 32 (p * 2 ^ 28), lc := [0, 0], mask := BitVec.allOnes 64, mpc := 0,
    used := 0, n := 0, flags := 0, grid := grid, shadow := shadow, groups := 0 }

/-- Rows, columns and VALID of a tile result (R254). -/
def Binding.resultShape (b : Binding) (a : Handle) : Nat × Nat × Nat :=
  match b.shape with
  | 0 => (a.rows, a.cols, a.valid)
  | 1 => (b.rrows + 1, b.rcols + 1, b.rrows + 1)
  | _ => (a.rows, b.rcols + 1, a.valid)

/-- RFMT of a firing. -/
def Binding.resultFmt (b : Binding) (w : OpFields) : Option Fmt := if b.rfmt = 31 then some w.fmt else Enc.Fmt.ofNat b.rfmt

/-- The routine's result (R254): the commit, and the accumulator it writes. -/
def xopResult (b : Binding) (f : Firing) (tag : Tag) (fmt : Fmt) (acc : Option (Nat × Acc)) (patch bad : Bool)
    (r : Run) : Commit × Option (Nat × Acc) :=
  let flags := if bad then 0 else r.flags
  if b.shape < 3 then
    let (rows, cols, valid) := b.resultShape (f.handle .a)
    (Commit.ofRes tag [res0 (tileRes f fmt rows cols valid (if bad then poisonAll rows else 0) (packGrid fmt r.grid))]
      flags, none)
  else if b.shape = 3 then
    let x := (r.q.getD 0 0).toNat + (r.q.getD 1 0).toNat * 2 ^ 32
    let v : Word64 :=
      if Enc.Fmt.isInt fmt then payloadInt (readInt fmt x) else BitVec.ofNat 64 (x % 2 ^ width fmt)
    (Commit.ofRes tag [res0 (.scalar v bad f.eos)] flags, none)
  else
    match acc with
    | none => (Commit.ofRes tag [] flags, none)
    | some (n, a) =>
      let own := a.owner == some (tagFrame f.tag, (tagGen f.tag).toNat, f.asid)
      let a1 : Acc :=
        if patch then { a with step := if own then a.step + 1 else a.step, poison := a.poison ||| r.groups, data := r.shadow }
        else a
      (Commit.ofRes tag [res0 (.scalar (a1.wordAt f.cell n) bad f.eos)] flags, if patch then some (n, a1) else none)

/-- Does the routine write its accumulator? -/
def Binding.patches (b : Binding) (raw : List (BitVec 64)) : Bool :=
  (raw.take (b.len - b.tlen)).any fun x => (decodeMicro x).any fun u => u.mop == .maccw

/-- The accumulator that an XOP names, by the check of R235; none where it names none. -/
def xopAcc (b : Binding) (raw : List (BitVec 64)) (s : State) (f : Firing) (e : Env) : Ex (Option (Nat × Acc)) :=
  if b.accp = 0 then pure none
  else do
    let x ← accUse s f e b.wordPort (if b.patches raw then .patch else .read)
    pure (some x)

/-- A poisoned firing (R254). -/
def xopBad (f : Firing) (acc : Option (Nat × Acc)) : Bool := f.poisoned || acc.any fun x => x.2.poison != 0

/-- The routine run from MPC 0 (R256, R269). -/
def xopLoop (b : Binding) (raw : List (BitVec 64)) (w : OpFields) (f : Firing) (e : Env) (acc : Option (Nat × Acc)) : Ex Run :=
  let code := b.len - b.tlen
  let fmt := (b.resultFmt w).getD .z32
  let (rows, cols, valid) := b.resultShape (f.handle .a)
  let bad := xopBad f acc
  let grid := List.replicate rows (List.replicate cols 0)
  let env : RunEnv :=
    { raw := raw, code := code, mod := w.mod, rand := srRand e.seed f.tag f.slot, fpen := e.fpen, poisoned := bad
      ports := [Port.a, .b, .c].map fun p =>
        match f.val p with
        | .tile h _ => some { fmt := h.fmt, cols := h.cols, valid := h.valid, grid := f.grid p }
        | _ => none
      result := if b.shape < 3 then some { fmt := fmt, cols := cols, valid := valid, grid := [] } else none
      acc := acc.map Prod.snd }
  let shadow := match acc with
    | some x => (List.range (x.2.rows * x.2.cols)).map fun i => x.2.data.getD i 0
    | none => []
  (firstRun f w grid shadow).loop env 65537

/-- The run of an XOP whose accumulator may be used; a firing whose operands are refused runs nothing. -/
def xopRun (b : Binding) (raw : List (BitVec 64)) (w : OpFields) (s : State) (f : Firing) (e : Env) : Ex Run := do
  let acc ← xopAcc b raw s f e
  xopLoop b raw w f e acc

/-- R269, from the port kinds to the end of the routine. -/
def evalXop (b : Binding) (raw : List (BitVec 64)) (w : OpFields) (s : State) (f : Firing) (e : Env) :
    Ex (Commit × Option (Nat × Acc)) := do
  checkKinds f (b.portTile .a) (b.portTile .b) (b.portTile .c)
  trapIf (f.ops.any fun o => match o.val with | .tile h _ => !attarFmt h.fmt | _ => false) tBAD_OPERAND
  let fmt := (b.resultFmt w).getD .z32
  let (rows, cols, _) := b.resultShape (f.handle .a)
  trapIf (decide (b.shape < 3) && !(attarFmt fmt && Enc.shapeOk fmt rows cols)) tBAD_OPERAND
  withNeed (if b.shape < 3 then [tileLines fmt rows cols] else []) do
  let acc ← xopAcc b raw s f e
  let bad := xopBad f acc
  let ran := xopLoop b raw w f e acc
  let tag ← tagFlags (outTag w f e) (ran.map fun r => ([], [(0, if bad then 0 else r.flags)]))
  let r ← ran
  pure (xopResult b f tag fmt acc (b.patches raw) bad r)

/-- An XOP whose routine is resident runs and its bank counts as started. -/
def State.runXop (s : State) (f : Firing) (b : Binding) (k : Bank) (w : OpFields) : State :=
  let s1 := match evalXop b k.words w s f (s.env f) with
    | .error t => s.fail f t
    | .ok (c, none) => s.commit f c
    | .ok (c, some (n, a)) => s.commitWith f c fun st => st.modCell f.cell fun x => x.setAcc n a
  if s1.sel.isSome then s1 else s1.modCell f.cell fun c => c.startBank k f.sid

/-- XOP n (R252, R269, R273): an encoding the entry does not admit is ILLEGAL_OP; without its routine the set is not
startable, and a bank is taken for it. -/
def execXop (n : BitVec 6) (w : OpFields) (s : State) : Host.Outcome State Fault Refusal :=
  runFiring s fun f =>
    let s0 := s.noteBinding f.asid n.toNat f.cell f.slot
    match s.binding f.asid n.toNat with
    | none => s0.raise f tILLEGAL_OP
    | some b =>
      if !b.admits w then s0.raise f tILLEGAL_OP
      else
        match (s.cell f.cell).bankOf f.asid n.toNat with
        | some k =>
          match k.st with
          | .loading => s
          | .failed => (s0.modCell f.cell fun c => c.dropBank f.asid n.toNat).raise f (tATTAR_FAULT 3)
          | .resident =>
            -- a set that does not start has read nothing
            let s1 := s0.runXop f b k w
            if s1.sel.isSome then s.runXop f b k w else s1
        | none =>
          -- loads are asked for in the order their sets formed (R274)
          match (s.firstLoad f.cell).bind fun p => (s.cell f.cell).takeBank p.1 p.2 with
          | some c => s.setCell f.cell c
          | none => s

end Sys2Proof.Machine
end

