-- ==== Sys2Proof/Machine/Image.lean ====
section
/-! DEFINITION. Load streams (R67 to R69), images and their segments (R70 to R75), the dispatcher's reads of an image
through its context's translation (R364), and writes to planes with their residency masks (R148). -/

namespace Sys2Proof.Machine

/-! ### Load streams (R67, R68) -/

/-- A command word of a stream: command, cell, first slot and number of slots. -/
structure StreamCmd where
  op : StreamOp
  cell : Nat
  slot : Nat
  count : Nat
  deriving DecidableEq, Repr

/-- R67 and R68: none where the word is reserved. -/
def decodeStream (w : Word32) : Option StreamCmd :=
  let c := w.toNat
  let go (op : StreamOp) : Option StreamCmd :=
    some { op := op, cell := c / 2 ^ 17 % 2048, slot := c / 64 % 2048, count := if c % 64 = 0 then 64 else c % 64 }
  let bare (op : StreamOp) : Option StreamCmd :=
    if c % 2 ^ 28 = 0 then some { op := op, cell := 0, slot := 0, count := 0 } else none
  match c / 2 ^ 28 with
  | 0 => bare .nop
  | 1 => go .wops
  | 2 => go .wrec
  | 5 => go .clr
  | 15 => bare .fin
  | _ => none

/-- The word of a command. -/
def encodeStream (c : StreamCmd) : Word32 :=
  let k := match c.op with | .nop => 0 | .wops => 1 | .wrec => 2 | .clr => 5 | .fin => 15
  BitVec.ofNat 32 (k * 2 ^ 28 + c.cell * 2 ^ 17 + c.slot * 64 + c.count % 64)

/-- One slot that a stream writes; clr: by CLR. -/
structure SlotWrite where
  cell : Nat
  slot : Nat
  word : BitVec 128
  record : Bool
  clr : Bool
  deriving DecidableEq, Repr

/-- The 128-bit words that follow a command, n of them. -/
def streamData : Nat → List Word32 → Option (List (BitVec 128) × List Word32)
  | 0, ws => some ([], ws)
  | n + 1, w0 :: w1 :: w2 :: w3 :: ws => (streamData n ws).map fun (l, r) => ((w3 ++ w2 ++ w1 ++ w0) :: l, r)
  | _ + 1, _ => none

/-- The writes of one command. -/
def StreamCmd.writes (c : StreamCmd) (ds : List (BitVec 128)) : List SlotWrite :=
  (List.range c.count).map fun k =>
    { cell := c.cell, slot := c.slot + k, word := ds.getD k 0, record := c.op == .wrec, clr := c.op == .clr }

/-- A whole stream, at most n commands long: none where it is malformed (R69). -/
def parseStream : Nat → List Word32 → Option (List SlotWrite)
  | 0, _ => none
  | _ + 1, [] => none
  | n + 1, w :: ws =>
    match decodeStream w with
    | none => none
    | some c =>
      match c.op with
      | .nop => parseStream n ws
      | .fin => if ws.isEmpty then some [] else none
      | .clr => if 2048 < c.slot + c.count then none else (parseStream n ws).map (c.writes [] ++ ·)
      | _ =>
        if 2048 < c.slot + c.count then none
        else (streamData c.count ws).bind fun (ds, r) => (parseStream n r).map (c.writes ds ++ ·)

/-- The 32-bit words of a segment; none when its length is no whole number of them (R72). -/
def streamWords (d : List Byte) : Option (List Word32) :=
  if d.length % 4 = 0 then some ((chunks 4 (d.length / 4) d).map fun b => BitVec.ofNat 32 (leNat b)) else none

/-! ### The stream check (R69, R22, R41, R42, R53, R354) -/

/-- What the check needs of the context: capabilities in force and the bindings of XOPs. -/
structure StreamEnv where
  region : List Nat
  base : Nat
  count : Nat
  caps : BitVec 8
  bind : Nat → Option Binding

/-- The write that a stream makes to a slot. -/
def findWrite (ws : List SlotWrite) (cell slot : Nat) : Option SlotWrite :=
  ws.find? fun w => w.cell == cell && w.slot == slot

/-- The cells that a destination written on a cell can name; none on this device for a remote one. -/
def destCells (d : Dest) (cell : Nat) : List Nat :=
  match d.mode with
  | .fixed => [d.cell.toNat]
  | .spread => spreadCells d.cell.toNat d.sprA.toNat d.sprB.toNat
  | .producer => [cell]
  | .remote => []

/-- A destination word of the stream, as far as the stream shows (R42): what a link names, if the stream writes it,
must be a record, and a record reached from a record must link no further; what any other word names must not be one. -/
def linkOk (ws : List SlotWrite) (cell : Nat) (second : Bool) (d : Option Dest) : Bool :=
  match d with
  | some d =>
    if d.port = .link then
      match findWrite ws cell d.slot.toNat with
      | none => true
      | some w =>
        w.record && match decodeRecord w.word with
          | none => false
          | some es => !second || es.all Enc.notLink
    else (destCells d cell).all fun c => !((findWrite ws c d.slot.toNat).map SlotWrite.record).getD false
  | none => true

/-- MODE 0b11 needs REMOTE. -/
def remoteOk (caps : BitVec 8) (d : Option Dest) : Bool :=
  match d with
  | some d => d.mode != .remote || caps.getLsbD 2
  | none => true

/-- One written slot. -/
def slotOk (e : StreamEnv) (ws : List SlotWrite) (w : SlotWrite) : Bool :=
  e.region.contains w.cell && decide (e.base ≤ w.slot) && decide (w.slot < e.base + e.count) &&
    (w.clr ||
      if w.record then
        match decodeRecord w.word with
        | none => false
        | some ds => ds.all (linkOk ws w.cell true) && ds.all (remoteOk e.caps)
      else
        match decodeSlot w.word with
        | none => false
        | some i =>
          match opcodeOf i with
          | none => false
          | some (opc, f) =>
            (unitOf opc.toNat (isCompute w.cell)).isSome &&
              (decide (opc.toNat < 0xC0) || (match e.bind (opc.toNat - 0xC0) with | some b => b.admits f | none => false)) &&
              [f.d0, f.d1].all (linkOk ws w.cell false) && [f.d0, f.d1].all (remoteOk e.caps) &&
              -- what an operator links to may itself link once (R41)
              [f.d0, f.d1].all fun d => match d with
                | some d => d.port != .link ||
                    (match findWrite ws w.cell d.slot.toNat with
                     | some r => (match decodeRecord r.word with | some es => es.all (linkOk ws w.cell true) | none => false)
                     | none => true)
                | none => true)

/-- No slot is written twice. -/
def writtenOnce : List SlotWrite → Bool
  | [] => true
  | w :: ws => !ws.any (fun v => v.cell == w.cell && v.slot == w.slot) && writtenOnce ws

/-- The whole check: the stream's writes, or none. -/
def checkStream (e : StreamEnv) (d : List Byte) : Option (List SlotWrite) := do
  let words ← streamWords d
  let ws ← parseStream (words.length + 1) words
  if writtenOnce ws && ws.all (slotOk e ws) then pure ws else none

/-- The environment of a check against the context as it stands. -/
def State.streamEnv (s : State) (asid : Nat) (x : Ctx) : StreamEnv :=
  { region := x.cr.region, base := x.cr.pbase, count := x.cr.pcount, caps := x.par.caps, bind := s.binding asid }

/-! ### Writing a plane (R148) -/

def Ctx.mask (x : Ctx) (plane : Bool) : BitVec 256 := if plane then x.mask1 else x.mask0
def Ctx.setMask (x : Ctx) (plane : Bool) (m : BitVec 256) : Ctx :=
  if plane then { x with mask1 := m } else { x with mask0 := m }

/-- The mask with the bits of the graphs in the list. -/
def graphMask (gs : List Nat) : BitVec 256 := gs.foldl (fun m g => m ||| (1#256 <<< g)) 0

/-- A slot of a plane written; a slot of zeros that is no record is not listed. -/
def Cell.putOp (c : Cell) (plane : Bool) (slot : Nat) (o : OpSlot) : Cell :=
  let k := planeKey plane slot
  { c with ops := if o.word = 0 && !o.record then del k c.ops else put k o c.ops }

/-- Sets that waiting tokens of a context complete under the words as they stand (R76). -/
def Cell.formAll (c : Cell) (now asid : Nat) : Cell :=
  (c.entries.filter fun e => e.tok.asid == asid && !e.parked).foldl
    (fun d e => d.form now asid e.tok.slot e.tok.tag) c

/-- A checked stream applied to a plane as graph g: the slots, the mask, and the sets that now form. -/
def State.applyStream (s : State) (asid : Nat) (plane : Bool) (g : Nat) (ws : List SlotWrite) : State :=
  let s1 := ws.foldl (fun st w => st.modCell w.cell fun c =>
    c.putOp plane w.slot { word := w.word, record := w.record }) s
  let at_ := ws.map fun w => (w.cell, w.slot)
  let s2 := s1.modCtx asid fun x =>
    let kept := x.wrote.filter fun p => p.1 != plane || (p.2.1 != g && !p.2.2.any at_.contains)
    let wrote := kept ++ [(plane, g, at_)]
    Ctx.setMask { x with wrote := wrote } plane (graphMask ((wrote.filter fun p => p.1 == plane).map fun p => p.2.1))
  match s2.ctx asid with
  | some x =>
    if x.active = plane then
      x.cr.region.foldl (fun st c =>
        if at_.any (fun p => p.1 == c) then st.modCell c fun d => d.formAll st.dev.cycles asid else st) s2
    else s2
  | none => s2

/-- The context's partition of a plane set to zeros on every cell, and its mask (R150 step 3). -/
def State.clearPlane (s : State) (asid : Nat) (plane : Bool) : State :=
  match s.ctx asid with
  | none => s
  | some x =>
    let lo := planeKey plane x.cr.pbase
    let s1 := x.cr.region.foldl (fun st c => st.modCell c fun d =>
      { d with ops := d.ops.filter fun p => decide (p.1 < lo) || decide (lo + x.cr.pcount ≤ p.1) }) s
    s1.modCtx asid fun y => Ctx.setMask { y with wrote := y.wrote.filter fun p => p.1 != plane } plane 0

/-! ### Reading through a context's translation (R364, R365) -/

/-- A dispatcher's access: done; waiting for a zero fill to end; or refused. -/
inductive Fetched (α : Type) where
  | ok (s : State) (x : α)
  | wait (s : State)
  | bad (s : State)

/-- The translation of an address for the dispatcher of die 0; a fresh one is walked, whatever the TLB holds. -/
def State.dispatchPage (s : State) (asid va : Nat) (fresh : Bool) : Fetched TlbEntry :=
  if 2 ^ 54 ≤ va then .bad s
  else
    match if fresh then none else tlbFind asid va (s.sharedTlb 0) with
    | some e => .ok { s with stlb := put 0 (tlbAddShared e (s.sharedTlb 0)) s.stlb } e
    | none =>
      match s.walkNow asid va with
      | .install e => .ok (s.tlbFill 0 [] e) e
      | .claim leaf frame w1 =>
        .wait (if s.fills.any (fun z => z.leaf == leaf) then s
          else { s with fills := s.fills ++ [{ leaf := leaf, frame := frame, asid := asid, w1 := w1, filling := false }] })
      | .fault _ _ freeze line =>
        let s1 := match line with
          | some a => s.logPoison asid a 0 0 3
          | none => s
        .bad (match freeze with
          | some c => s1.freeze { cause := c, vdev := s.vdevOf asid, asid := some asid, cell := 0, slot := 0, tag := 0,
                                  addr := va }
          | none => s1)

/-- The parts of [a, a + n) that lie in one 64 KiB page each: address and bytes. -/
def pageParts (a n : Nat) : List (Nat × Nat) :=
  if n = 0 then []
  else (List.range ((a % 65536 + n + 65535) / 65536)).map fun k =>
    let lo := max a ((a / 65536 + k) * 65536)
    (lo, min (a + n) ((a / 65536 + k + 1) * 65536) - lo)

/-- Lines met poisoned in an image read go to the poison log (R389). -/
def State.logImage (s : State) (asid va pa n : Nat) : State :=
  ((List.range ((pa % 256 + n + 255) / 256)).map fun k => 256 * k).foldl
    (fun st d => if st.poisoned (pa / 256 * 256 + d) then st.logPoison asid (va / 256 * 256 + d) 0 0 4 else st) s

/-- Bytes that the dispatcher reads; another device's answer is free (log entry 42). -/
def State.dispatchRead (s : State) (pa n : Nat) : List Byte :=
  if s.isRemote pa then (List.range n).map fun i => Config.farByte s.tick (pa + i) else s.readMem pa n

/-- The parts of an image, read in order: every page needs V, R and X. -/
def State.readParts (asid : Nat) : List (Nat × Nat) → State → Fetched (List Byte)
  | [], s => .ok s []
  | (va, n) :: t, s =>
    match s.dispatchPage asid va false with
    | .wait s1 => .wait s1
    | .bad s1 => .bad s1
    | .ok s1 e =>
      let pa := e.addr va
      if !(e.attr.getLsbD 2 && e.attr.getLsbD 4) then .bad s1
      else
        let s2 := if s1.isRemote pa then s1 else s1.logImage asid va pa n
        match State.readParts asid t s2 with
        | .ok s3 bs => .ok s3 (s2.dispatchRead pa n ++ bs)
        | .wait s3 => .wait s3
        | .bad s3 => .bad s3

/-- Bytes of the context's image from an offset. -/
def State.readImage (s : State) (asid off n : Nat) : Fetched (List Byte) :=
  match s.ctx asid with
  | none => .bad s
  | some x =>
    if x.cr.imagesize < off + n then .bad s else State.readParts asid (pageParts (x.cr.imageva + off) n) s

/-! ### The image (R70, R71) -/

/-- A segment table entry. -/
structure SegEntry where
  typ : Nat
  off : Nat
  len : Nat
  addr : Nat
  meas : List Byte
  /-- its reserved bytes are zero -/
  clean : Bool
  deriving DecidableEq, Repr

def bytesAt (d : List Byte) (a n : Nat) : List Byte := (d.drop a).take n
def numAt (d : List Byte) (a n : Nat) : Nat := leNat (bytesAt d a n)

def SegEntry.ofBytes (e : List Byte) : SegEntry :=
  { typ := numAt e 0 2, off := numAt e 4 4, len := numAt e 8 4, addr := numAt e 16 8, meas := bytesAt e 24 48,
    clean := numAt e 2 2 == 0 && numAt e 12 4 == 0 && numAt e 72 8 == 0 }

/-- Header and segment table. -/
structure Header where
  version : Nat
  signed : Bool
  total : Nat
  imageid : List Byte
  sigoff : Nat
  segs : List SegEntry
  /-- the header's own rules of R70 hold -/
  clean : Bool
  deriving DecidableEq, Repr

def Header.ofBytes (d : List Byte) : Header :=
  let n := numAt d 8 2
  { version := numAt d 4 2, signed := numAt d 6 2 % 2 == 1, total := numAt d 12 4, imageid := bytesAt d 16 16,
    sigoff := numAt d 36 4,
    segs := (chunks 80 n (d.drop 64)).map SegEntry.ofBytes,
    clean := numAt d 0 4 == 0x4C4D4E49 && decide (1 ≤ numAt d 4 2) && decide (numAt d 4 2 ≤ 3) && decide (numAt d 6 2 < 2) &&
      decide (1 ≤ n) && decide (n ≤ 256) && numAt d 10 2 == 0 && numAt d 32 2 == 0x0100 && numAt d 34 2 == 0 &&
      numAt d 40 24 == 0 }

def tPARAMS : Nat := 1
def tSTREAM : Nat := 2
def tATTAR : Nat := 3
def tDESC : Nat := 4
def tDATA : Nat := 5
def tREMOTE : Nat := 6
def tHANDLERS : Nat := 7
def tENTRY : Nat := 8

/-- Bytes of the signature block (R73, R75); 0 for an unsigned image. -/
def Header.sigBytes (h : Header) : Nat := if h.signed then (if h.version = 3 then 3392 else 80) else 0

/-- Is it treated as unsigned (R75)? -/
def Header.unsigned (h : Header) : Bool := !h.signed || h.version != 3

def noOverlap : List (Nat × Nat) → Bool
  | [] => true
  | p :: t => t.all (fun q => decide (p.2 = 0) || decide (q.2 = 0) || decide (p.1 + p.2 ≤ q.1) || decide (q.1 + q.2 ≤ p.1)) &&
      noOverlap t

/-- Step 1 of R74 for an image of the size given. A TOTAL above the size is refused (log entry 83). -/
def Header.ok (h : Header) (size : Nat) : Bool :=
  let table := 64 + 80 * h.segs.length
  h.clean && decide (h.total ≤ size) && decide (table ≤ h.total) &&
    h.segs.all (fun e => e.clean && decide (1 ≤ e.typ) && decide (e.typ ≤ 8) && !(h.version == 1 && e.typ == tATTAR) &&
      e.off % 16 == 0 && decide (e.off + e.len ≤ h.total) && (e.typ == tDATA || e.addr == 0)) &&
    noOverlap ((0, table) :: h.segs.map fun e => (e.off, e.len)) &&
    (if h.signed then
      h.sigoff % 16 == 0 && decide (table ≤ h.sigoff) && h.segs.all (fun e => decide (e.off + e.len ≤ h.sigoff)) &&
        h.sigoff + h.sigBytes == h.total
     else h.sigoff == 0)

/-- Header and table of the context's image as they stand. -/
def State.readHeader (s : State) (asid : Nat) : Fetched (List Byte × Header) :=
  match s.readImage asid 0 64 with
  | .wait s1 => .wait s1
  | .bad s1 => .bad s1
  | .ok s1 d =>
    match s1.readImage asid 0 (64 + 80 * min 256 (numAt d 8 2)) with
    | .wait s2 => .wait s2
    | .bad s2 => .bad s2
    | .ok s2 t => .ok s2 (t, Header.ofBytes t)

/-- The bytes of segments, in order. -/
def State.readSegs (asid : Nat) : List SegEntry → State → Fetched (List (SegEntry × List Byte))
  | [], s => .ok s []
  | e :: es, s =>
    match s.readImage asid e.off e.len with
    | .wait s1 => .wait s1
    | .bad s1 => .bad s1
    | .ok s1 d =>
      match State.readSegs asid es s1 with
      | .ok s2 r => .ok s2 ((e, d) :: r)
      | .wait s2 => .wait s2
      | .bad s2 => .bad s2

/-! ### Entries (R149) -/

/-- A destination word that must be V 1, MODE 0b00 or 0b01. -/
def entryDest (w : Nat) : Option Dest :=
  match decodeDestOk (BitVec.ofNat 32 w) with
  | some (some d) => if (d.mode = .fixed ∨ d.mode = .spread) ∧ d.port ≠ .link then some d else none
  | _ => none

/-- An ENTRY segment: index and destination of each entry. -/
def parseEntries (d : List Byte) : Option (List (Nat × Dest)) :=
  if d.length % 8 = 0 then
    (chunks 8 (d.length / 8) d).mapM fun e =>
      if numAt e 6 2 = 0 ∧ numAt e 4 2 ≤ 255 then (entryDest (numAt e 0 4)).map fun t => (numAt e 4 2, t) else none
  else none

/-- The entry ports of index k; none where a segment is malformed. -/
def entriesOf (k : Nat) (segs : List (SegEntry × List Byte)) : Option (List Dest) := do
  let ls ← (segs.filter fun p => p.1.typ == tENTRY).mapM fun p => parseEntries p.2
  pure (((ls.flatten).filter fun q => q.1 == k).map Prod.snd)

/-- Entry ports of index k, read from the context's image, which must have a STREAM segment of that index (R151). -/
def State.entryPorts (s : State) (asid k : Nat) : Fetched (List Dest) :=
  match s.readHeader asid with
  | .wait s1 => .wait s1
  | .bad s1 => .bad s1
  | .ok s1 (_, h) =>
    if (h.segs.filter fun e => e.typ == tSTREAM).length ≤ k then .bad s1
    else
      match State.readSegs asid (h.segs.filter fun e => e.typ == tENTRY) s1 with
      | .wait s2 => .wait s2
      | .bad s2 => .bad s2
      | .ok s2 l =>
        match entriesOf k l with
        | some ds => if ds.isEmpty then .bad s2 else .ok s2 ds
        | none => .bad s2

end Sys2Proof.Machine
end

