-- ==== Sys2Proof/Machine/FrameOps.lean ====
section
/-! DEFINITION. Frame instructions SPAWN, CALL, RET, FEND, GANG, FRAMEID, KILLF and the grants of waiting requests
(R100, R101, R108, R109, R136 to R144). -/

namespace Sys2Proof.Machine

/-! ### Allocation (R100, R101) -/

/-- The lowest FREE index from a on, at most n of them. -/
def Ctx.lowestFree (x : Ctx) : Nat → Nat → Option Nat
  | _, 0 => none
  | a, n + 1 => if (x.frame a).st == .free then some a else x.lowestFree (a + 1) n

/-- Frames not FREE. -/
def Ctx.busyFrames (x : Ctx) : Nat := (x.frames.filter fun p => p.2.st != .free).length

/-- What a creating firing gives a frame: parent, its GEN, depth, return-link tag, gang size field and rank. -/
structure Birth where
  share : Share
  depth : Nat
  parent : BitVec 12
  pgen : BitVec 4
  rettag : Option Tag
  gsize : Nat
  rank : Nat

/-- Frame i becomes LIVE (R101, R102); RETTAG names the frame itself when none is given. -/
def State.liveFrame (s : State) (asid i : Nat) (b : Birth) : State :=
  match s.ctx asid with
  | none => s
  | some x =>
    let g := (x.frame i).gen
    let f : Frame :=
      { rettag := b.rettag.getD (frameTag g i), parent := b.parent, pgen := b.pgen, st := .live, gen := g,
        depth := b.depth, src := b.share, gsize := b.gsize, rank := b.rank, flags := 0, record := none }
    let s1 := s.setFrame asid i f
    let p := x.pool
    let p1 : Pool := match b.share with
      | .general => { p with gfree := p.gfree - 1 }
      | .depth => { p with dfree := p.dfree.set b.depth (p.dfree.getD b.depth 0 - 1) }
      | .handler => { p with hfree := p.hfree - 1 }
      | .root => p
    let busy := ((s1.ctx asid).map Ctx.busyFrames).getD 0
    s1.setPool asid { p1 with maxd := max p1.maxd b.depth, peak := max p1.peak busy }

/-- The lowest FREE index taken; frame 0 is the launch's (R100). -/
def State.allocFrame (s : State) (asid : Nat) (b : Birth) : Option (Nat × State) :=
  (s.ctx asid).bind fun x =>
    (x.lowestFree 1 (x.pool.nframes - 1)).map fun i => (i, s.liveFrame asid i b)

/-- The tag of tokens entering frame i (R136). -/
def State.childTag (s : State) (asid i : Nat) : Tag :=
  match s.ctx asid with
  | some x => frameTag (x.frame i).gen i
  | none => 0

/-- The birth of a child of the firing's frame (R101). -/
def childBirth (f : Firing) (e : Env) (share : Share) (gsize rank : Nat) : Birth :=
  { share := share, depth := e.frame.depth + 1, parent := BitVec.ofNat 12 (tagFrame f.tag), pgen := tagGen f.tag,
    rettag := some f.tag, gsize := gsize, rank := rank }

/-- The share that can give one frame to a child at depth d now (R108). -/
def Pool.shareFor (p : Pool) (d : Nat) : Option Share :=
  if 0 < p.gfree then some .general else if 0 < p.dfree.getD d 0 then some .depth else none

/-! ### SPAWN and CALL (R108, R137, R138) -/

/-- A firing that becomes a wait in the context's queue (R118). -/
def State.waitFrame (s : State) (f : Firing) (h : Hold) (depth n : Nat) : State :=
  let s1 := s.hold f h
  s1.modCtx f.asid fun x =>
    let w : FrameWait := { cell := f.cell, sid := f.sid, depth := depth, n := n }
    if h == .gang then { x with gangWaits := x.gangWaits ++ [w] } else { x with frameWaits := x.frameWaits ++ [w] }

/-- Entry k of a nonzero ENTRY: the firing is held until the dispatcher has dealt with residency (R151); the frame is
allocated already. -/
def State.askResidency (s : State) (f : Firing) (child : Nat) : State :=
  (s.hold f (.residency child)).modCtx f.asid fun x =>
    { x with planeOps := x.planeOps ++ [.residency f.cell f.sid], frameWaits := x.frameWaits.filter fun w =>
        !(w.cell == f.cell && w.sid == f.sid) }

/-- SPAWN's or CALL's child tokens leave (R137, R138). -/
def spawnCommit (s : State) (f : Firing) (child : Nat) : State :=
  let t := s.childTag f.asid child
  let call := f.word.extractLsb' 120 8 = 0x17#8
  let outs : List Out :=
    if call then
      [{ side := false, tag := t, val := (passOn f .a false).val, line := (passOn f .a false).line }] ++
        (if f.outs1.isEmpty then []
         else [{ side := true, tag := t, val := (passOn f .b true).val, line := (passOn f .b true).line }])
    else [{ side := false, tag := t, val := (passOn f .a false).val, line := (passOn f .a false).line }]
  let s1 := s.modCtx f.asid fun x =>
    { x with frameWaits := x.frameWaits.filter fun w => !(w.cell == f.cell && w.sid == f.sid) }
  s1.commit f { outs := outs, flags := if call && f.outs1.isEmpty then f.pz [.b] else 0 }

/-- The ENTRY field of a SPAWN's word; 0 for CALL. -/
def entryOf (f : Firing) : Nat :=
  if f.word.extractLsb' 120 8 = 0x16#8 then (f.word.extractLsb' 64 12).toNat else 0


/-- Does a destination name a remote port table entry that is not outbound (R462)? -/
def State.badDests (s : State) (asid : Nat) (ds : List Dest) : Bool :=
  ds.any fun d => d.mode == .remote && (s.rpt asid (d.cell.toNat % 256)).state != 1


/-- The destinations a SPAWN's or CALL's child tokens go to. -/
def childDests (f : Firing) : List Dest := if f.word.extractLsb' 120 8 = 0x17#8 then f.outs0 ++ f.outs1 else f.outs0

/-- A frame granted from a share. A cross-graph SPAWN whose graph is resident commits at once; another waits (R151). -/
def spawnGrant (s : State) (f : Firing) (share : Share) : State :=
  if s.runsIn f && s.badDests f.asid (childDests f) then s.raiseRemote f (childDests f)
  else
    match s.allocFrame f.asid (childBirth f (s.env f) share 0 0), s.ctx f.asid with
    | some (i, s1), some x =>
      let k := entryOf f
      if k = 0 then spawnCommit s1 f i
      else if (x.mask x.active).getLsbD k then
        match s1.entryPorts f.asid k with
        | .ok s2 ds => spawnCommit s2 { f with outs0 := f.outs0 ++ ds } i
        | .wait s2 => s2.askResidency f i
        | .bad s2 => (s2.unallocFrame f.asid i).raise f tBAD_OPERAND
      else s1.askResidency f i
    | _, _ => s

/-- The fallback of a TRY form: port a unchanged, under the input tag, to the D1 side. -/
def tryFallback (s : State) (f : Firing) : State :=
  s.commit f (Commit.ofRes f.tag [passOn f .a true] 0)

/-- One frame for a child (R108). -/
def askFrame (s : State) (f : Firing) (isTry : Bool) : State :=
  match s.ctx f.asid with
  | none => s
  | some x =>
    let d := (s.env f).frame.depth + 1
    if x.pool.dmax < d then (if isTry then tryFallback s f else s.raise f tFRAME_DEPTH)
    else match x.pool.shareFor d with
      | some sh => spawnGrant s f sh
      | none => if isTry then tryFallback s f else s.waitFrame f .frame d 1

/-- SPAWN (R137). -/
def doSpawn (w : OpFields) (s : State) (f : Firing) : State :=
  match checkKinds f (dataTile w) false false with
  | .error t => s.raise f t
  | .ok _ => askFrame s f (w.var == 1)
def execSpawn (w : OpFields) (s : State) : Host.Outcome State Fault Refusal := runFiring s (doSpawn w s)

/-- CALL (R138). -/
def doCall (w : OpFields) (s : State) (f : Firing) : State :=
  match checkKinds f (dataTile w) (dataTile w) false with
  | .error t => s.raise f t
  | .ok _ => askFrame s f false
def execCall (w : OpFields) (s : State) : Host.Outcome State Fault Refusal := runFiring s (doCall w s)

/-- The firing of a waiting request, where it may commit now. -/
def State.waitFiring (s : State) (asid : Nat) (w : FrameWait) : Option Firing :=
  if (s.cell w.cell).mayCommit asid then (s.cell w.cell).heldFiring w.sid else none

/-- HELD_FRAME_GRANT (R108): the oldest waiting request that can be served takes its frame, then the next. None is granted
once a drydown has begun: the held firing is saved (R412). -/
def execHeldFrameGrant (asid : Nat) (s : State) : Host.Outcome State Fault Refusal :=
  .next (match s.ctx asid with
    | none => s
    | some x =>
      if x.dry != .none then s
      else
        match x.frameWaits.find? fun w => (x.pool.shareFor w.depth).isSome && (s.waitFiring asid w).isSome with
        | none => s
        | some w =>
          match s.waitFiring asid w, x.pool.shareFor w.depth with
          | some f, some sh =>
            let s1 := spawnGrant s f sh
            { s1 with due := s1.due ++ [.event (.heldFrameGrant asid)] }
          | _, _ => s)

/-! ### GANG (R109, R139) -/

/-- Members allocated in index order: rank 0 at the lowest index. -/
def State.allocGang (f : Firing) (n : Nat) : Nat → State → List Nat → State × List Nat
  | 0, s, is => (s, is)
  | k + 1, s, is =>
    match s.allocFrame f.asid (childBirth f (s.env f) .general (n - 1) is.length) with
    | none => (s, is)
    | some (i, s1) => allocGang f n k s1 (is ++ [i])

/-- The destinations of port a as destinations of port b of the same slot. -/
def toPortB (ds : List Dest) : List Dest := ds.map fun d => { d with port := .to .b }

/-- Has a graph that is resident in the active plane written the slot of the cell (R148)? -/
def Ctx.wroteSlot (x : Ctx) (cell slot : Nat) : Bool :=
  x.wrote.any fun p => p.1 == x.active && p.2.2.contains (cell, slot)

/-- Is the target graph of a GANG resident in the active plane, by its residency mask (R109, R148)? No field names the
graph: it is the one whose segment wrote the slots that D0 names, on every cell that a tag may lead to (log entry 66). -/
def State.gangResident (s : State) (f : Firing) : Bool :=
  (s.ctx f.asid).any fun x => f.outs0.all fun d => (destCells d f.cell).all fun c => x.wroteSlot c d.slot.toNat

/-- n free general frames are set aside for the GANG that waits (R109). -/
def State.setAside (s : State) (asid n : Nat) : State :=
  (s.modCtx asid fun x => { x with aside := n }).modPool asid fun p => { p with gfree := p.gfree - n }

/-- A gang of n commits: each member's argument on port a, a tile crossing once to each cell (R84), and its rank on port b
(R139). A rank through a remote entry goes where that entry says (log entry 66). -/
def gangCommit (s : State) (f : Firing) (n : Nat) : State :=
  if s.runsIn f && s.badDests f.asid f.outs0 then s.raiseRemote f f.outs0
  else
    let s0 := s.modCtx f.asid fun x =>
      { x with gangWaits := x.gangWaits.filter fun w => !(w.cell == f.cell && w.sid == f.sid) }
    let (s1, is) := State.allocGang f n n s0 []
    let live := s.runsIn f
    s1.commitWith f { outs := [], flags := 0 } fun st =>
      let tags := is.map (st.childTag f.asid)
      let st1 := st.sendSide (f.sender st) live tags (passOn f .a false).val f.outs0
      tags.zipIdx.foldl (fun st2 p =>
        st2.sendSide (f.sender st2) live [p.1] (.scalar (BitVec.ofNat 64 p.2) false false) (toPortB f.outs0)) st1

/-- n of a GANG: the whole payload of port b (R139). -/
def gangSize (f : Firing) : Nat := (f.val .b).word.toNat

/-- GANG (R109): of BAD_OPERAND and POISON the first is raised (R376). Frames that can be had now are set aside where the
target graph is not yet resident, and the firing waits for it. -/
def doGang (w : OpFields) (s : State) (f : Firing) : State :=
  let pre : Ex Unit := do
    checkKinds f (dataTile w) false false
    trapIf (gangSize f == 0) tBAD_OPERAND
    checkPoison f .b 2
  match pre with
  | .error t => s.raise f t
  | .ok _ =>
    match s.ctx f.asid with
    | none => s
    | some x =>
      let n := gangSize f
      let d := (s.env f).frame.depth + 1
      if x.pool.nframes - 17 - x.pool.resv * x.pool.dmax < n then s.raise f tGANG_TOO_LARGE
      else if x.pool.dmax < d then (if w.var == 1 then tryFallback s f else s.raise f tFRAME_DEPTH)
      else if n ≤ x.pool.gfree && x.gangWaits.isEmpty then
        if s.gangResident f then gangCommit s f n else (s.waitFrame f .gang d n).setAside f.asid n
      else if w.var == 1 then tryFallback s f
      else
        -- what is free counts at its grant, and is not set aside now (log entry 18)
        s.waitFrame f .gang d n
def execGang (w : OpFields) (s : State) : Host.Outcome State Fault Refusal := runFiring s (doGang w s)

/-- GANG_GRANT (R109): the oldest waiting GANG commits once its set-aside and the free general frames hold n, and its target
graph is resident. -/
def execGangGrant (asid : Nat) (s : State) : Host.Outcome State Fault Refusal :=
  .next (match s.ctx asid with
    | none => s
    | some x =>
      match x.gangWaits with
      | [] => s
      | w :: _ =>
        if x.dry == .none && decide (w.n ≤ x.aside + x.pool.gfree) then
          match (s.waitFiring asid w).filter s.gangResident with
          | none => s
          | some f =>
            let s1 := (s.modCtx asid fun y => { y with aside := 0 }).modPool asid
              fun p => { p with gfree := p.gfree + x.aside }
            (gangCommit s1 f w.n).grantDue asid
        else s)

/-! ### Ending and naming frames -/

/-- RET (R140): port a under the return-link tag; its own frame ends in the same commit. -/
def doRet (w : OpFields) (s : State) (f : Firing) : State :=
  match evalOp w f (s.env f) (dataTile w, false, false) (.ok ()) false (.ok ([passOn f .a false], [])) with
  | .error t => s.fail f t
  | .ok c => s.commitWith f c fun st => st.endOwn f.asid (tagFrame f.tag) (tagGen f.tag)
def execRet (w : OpFields) (s : State) : Host.Outcome State Fault Refusal := runFiring s (doRet w s)

/-- FEND (R141): PZ is set before the frame ends. -/
def doFend (w : OpFields) (s : State) (f : Firing) : State :=
  match checkKinds f (dataTile w) (dataTile w) (dataTile w) with
  | .error t => s.raise f t
  | .ok _ =>
    s.commitWith f { outs := [], flags := f.pz [.a, .b, .c] } fun st =>
      st.endOwn f.asid (tagFrame f.tag) (tagGen f.tag)
def execFend (w : OpFields) (s : State) : Host.Outcome State Fault Refusal := runFiring s (doFend w s)

/-- The frame word of R142. -/
def frameWord (f : Frame) (t : Tag) : Word64 :=
  0#44 ++ BitVec.ofNat 4 f.depth ++ tagGen t ++ BitVec.ofNat 12 (tagFrame t)

/-- FRAMEID (R142). -/
def evalFrameid (w : OpFields) (f : Firing) (e : Env) : Ex Commit :=
  evalOp w f e (false, false, false) (.ok ()) false
    (.ok ([res0 (made f (trunc w.fmt (frameWord e.frame f.tag)))], [(0, f.pz [.a])]))
def execFrameid (w : OpFields) (s : State) : Host.Outcome State Fault Refusal := runOp s (evalFrameid w)

/-- A frame word as an operand (R143, R398): bits [63:20] zero and FRAME in the pool, then poison. -/
def frameOperand (x : Ctx) (f : Firing) : Ex (Nat × BitVec 4) := do
  checkKinds f false false false
  let v := (f.val .a).word
  let i := (v.extractLsb' 0 12).toNat
  trapIf (v.extractLsb' 20 44 != 0 || decide (x.pool.nframes ≤ i)) tBAD_OPERAND
  checkPoison f .a 1
  pure (i, v.extractLsb' 12 4)

/-- KILLF (R143). -/
def doKillf (_w : OpFields) (s : State) (f : Firing) : State :=
  match s.ctx f.asid with
  | none => s
  | some x =>
    match frameOperand x f with
    | .error t => s.raise f t
    | .ok (i, g) =>
      let fr := x.frame i
      let hit := (fr.st == .live || fr.st == .parked) && fr.gen == g
      s.commitWith f (Commit.ofRes f.tag [res0 (made f (if hit then 0 else 1))] 0) fun st => st.endNamed f.asid i g
def execKillf (w : OpFields) (s : State) : Host.Outcome State Fault Refusal := runFiring s (doKillf w s)

end Sys2Proof.Machine
end

