-- ==== Sys2Proof/Machine/Homes.lean ====
section
/-! DEFINITION. What homes do: the accesses of memory operations (R281, R302, R319 to R327), the deferred arena (R322),
write-once words (R293), registered waits (R294), acceptance (R304), answers of other devices (R298, R328), and zero
fill (R295). -/

namespace Sys2Proof.Machine

/-! ### Values at a home -/

/-- w low bits as a value of FMT (R178). -/
def extVal (fmt : Fmt) (n : Nat) : Word64 :=
  if Enc.Fmt.isInt fmt then payloadInt (readInt fmt n) else BitVec.ofNat 64 (n % 2 ^ width fmt)

/-- Bytes of an element of FMT. -/
def fmtBytes (fmt : Fmt) : Nat := width fmt / 8

/-- R320. -/
def homeAdd (fmt : Fmt) (v b : Nat) : Nat × Flags :=
  let x := decodeF fmt v
  let y := decodeF fmt b
  if x.isNan || y.isNan then (canonNaN fmt, fIV)
  else
    let r := fvAdd .rne x y
    let d := deliver fmt Round.plain 0 r.1
    (d.1, r.2 ||| d.2)

/-- The value an ATOM stores, by VAR (R319). -/
def atomNew (var : Nat) (fmt : Fmt) (v b : Nat) : Nat × Flags :=
  match var with
  | 0 => ((v + b) % 2 ^ width fmt, 0)
  | 1 => homeAdd fmt v b
  | 2 => (if readInt fmt b < readInt fmt v then b else v, 0)
  | 3 => (if readInt fmt v < readInt fmt b then b else v, 0)
  | 4 => fMinMax fmt false false v b
  | 5 => fMinMax fmt false true v b
  | 6 => (Nat.land v b, 0)
  | 7 => (Nat.lor v b, 0)
  | 8 => (Nat.xor v b, 0)
  | _ => (b, 0)

/-- ARED's VAR as ATOM's (R323). -/
def aredVar (var : Nat) (fmt : Fmt) : Nat :=
  if Enc.Fmt.isF fmt then (match var with | 0 => 1 | 1 => 4 | _ => 5) else (match var with | 0 => 0 | 1 => 2 | _ => 3)

/-- Bytes put into a buffer at an offset. -/
def splice (buf : List Byte) (off : Nat) (bs : List Byte) : List Byte :=
  buf.take off ++ bs ++ buf.drop (off + bs.length)

/-! ### Operations by number -/

def State.op (s : State) (id : Nat) : Option MemOp := s.memops.find? fun o => o.id == id
def State.modOp (s : State) (id : Nat) (g : MemOp → MemOp) : State :=
  { s with memops := s.memops.map fun o => if o.id == id then g o else o }
def State.dropOp (s : State) (id : Nat) : State := { s with memops := s.memops.filter fun o => o.id != id }

/-- Not yet performed (R283). -/
def MemOp.pending (o : MemOp) : Bool := o.phase == .accepting || o.phase == .issued || o.phase == .waiting

/-- The poison log entry of a line that the operation met (R302, R389). Another device's operation tells its port, which
makes the entry. -/
def State.logOp (s : State) (o : MemOp) (a : Access) (src : Nat) : State :=
  if o.origin.isSome then s.modOp o.id fun p => { p with poison := p.poison ||| 1 }
  else s.logPoison o.firing.asid a.va o.firing.cell o.firing.slot src

/-! ### The deferred arena (R322) -/

/-- First entry and entries of the slice of an address's home. -/
def Ctx.arenaSlice (x : Ctx) (pa : Nat) : Nat × Nat :=
  (x.cr.arenabase + homeIndex pa * (x.cr.arenasize / 1024), x.cr.arenasize / 32768)

/-- The entries of the slice that a predicate on their address picks: the first. -/
def firstEntry (p : Nat → Bool) : Nat → Nat → Option Nat
  | _, 0 => none
  | a, n + 1 => if p a then some a else firstEntry p (a + 32) n

def State.entryKind (s : State) (a : Nat) : Nat := s.readNat (a + 28) 1

def arenaBytes (va : Nat) (tag : Tag) (value : Word64) (cell slot kind info order : Nat) : List Byte :=
  leBytes 8 va ++ leBytes 8 tag.toNat ++ leBytes 8 value.toNat ++ leBytes 2 cell ++ leBytes 2 slot ++ leBytes 1 kind ++
    leBytes 1 info ++ leBytes 2 order

/-- A free entry of the home's slice taken for the operation; none when there is none. -/
def State.takeArena (s : State) (o : MemOp) (a : Access) (va : Nat) (value : Word64) (kind info : Nat) :
    Option (Nat × State) :=
  match s.ctx o.firing.asid with
  | none => none
  | some x =>
    let (base, n) := x.arenaSlice a.pa
    let k := 1024 * o.firing.asid + homeIndex a.pa
    let i := (look k s.homeSeq).getD 0
    (firstEntry (fun e => s.entryKind e == 0) base n).map fun e =>
      (e, { s.writeMem e (arenaBytes va o.firing.tag value o.firing.cell o.firing.slot kind info (i % 65536)) with
              orders := s.orders + 1, homeSeq := put k (i + 1) s.homeSeq })

/-- An entry freed. -/
def State.freeArena (s : State) (e : Nat) : State := s.writeMem e (zeros 32)

/-- The key of a line, when its home holds it already (R324). -/
def State.findKey (s : State) (o : MemOp) (a : Access) : Option Nat :=
  match s.ctx o.firing.asid with
  | none => none
  | some x =>
    let (base, n) := x.arenaSlice a.pa
    firstEntry (fun e => s.entryKind e == 3 && s.readNat e 8 == a.va / 256 * 256 &&
      s.readNat (e + 8) 8 == o.firing.tag.toNat && s.readNat (e + 26) 2 == o.firing.slot) base n

/-! ### Answers of listed and registered operations (R293, R294, R327) -/

/-- A home answers an operation it had listed or registered: its entry is freed. -/
def State.answerOp (s : State) (o : MemOp) (bytes : List Byte) (bad : Bool) : State :=
  let s1 := match o.arena with
    | some e => s.freeArena e
    | none => s
  let s2 := match bad, o.accs.head? with
    | true, some a => s1.logOp o a 2
    | _, _ => s1
  s2.modOp o.id fun p =>
    { p with buf := bytes, poison := if bad then 1 else 0, arena := none, listed := false,
             phase := if p.phase == .waiting then .applied else p.phase }

/-- Does the WAITV condition hold of the value at the address? -/
def waitHolds (cond : Nat) (fmt : Fmt) (v : Nat) (b : Word64) : Bool :=
  let n := b.toNat % 2 ^ width fmt
  cmpCond cond (readInt fmt v) (readInt fmt n) v n

/-- After a write to a line, or an error found in it, its home retests every WAITV registered there. -/
def State.retest (s : State) (pa : Nat) : State :=
  let bad := s.poisoned pa
  s.memops.foldl (fun st o =>
    match o.kind, o.accs.head? with
    | .waitv cond fmt b, some a =>
      if o.listed && lineOf a.pa == lineOf pa && (st.isLocal a.pa || isHost a.pa) then
        let v := st.readNat a.pa (fmtBytes fmt)
        if bad || waitHolds cond fmt v b then st.answerOp o (leBytes (fmtBytes fmt) v) bad else st
      else st
    | _, _ => st) s

/-- Every WAITV that waits here is retested: no write is missed, whoever made it (R294). -/
def State.retestAll (s : State) : State :=
  s.memops.foldl (fun st o => match o.kind, o.accs.head? with
    | .waitv _ _ _, some a => if o.listed then st.retest a.pa else st
    | _, _ => st) s

/-- Bytes that a home writes in one access, and the retest after it. -/
def State.homeWrite (s : State) (pa : Nat) (bs : List Byte) : State := (s.writeMem pa bs).retest pa

/-! ### Accesses after commit (R281, R302, R309 to R326) -/

/-- Lines filled with zeros: bytes zero, words empty, poison cleared (R295). -/
def State.zeroLines (s : State) (pa n : Nat) : State :=
  let a := memKey pa
  let out (k : Nat) : Bool := decide (k < a) || decide (a + n ≤ k)
  { s with mem := Memory.clear s.mem a n
           w1 := s.w1.filter fun p => out p.1
           w1by := s.w1by.filter fun p => out p.1
           poison := s.poison.filter out }

/-- Do the parts cover every byte of their line? -/
def wholeLine (ps : List Seg) : Bool :=
  (List.range 256).all fun i => ps.any fun p => decide (p.pa % 256 ≤ i) && decide (i < p.pa % 256 + p.len)

/-- Bytes read into the buffer. -/
def State.fillParts (s : State) (buf : List Byte) (ps : List Seg) : List Byte :=
  ps.foldl (fun b p => splice b p.off (s.readMem p.pa p.len)) buf

/-- A store's line: its bytes, its poison, and the retest. -/
def State.applyStore (s : State) (o : MemOp) (a : Access) : State :=
  let s1 := a.parts.foldl (fun st p => st.writeMem p.pa ((o.buf.drop p.off).take p.len)) s
  let s2 :=
    if a.bad then s1.setPoison a.pa else if wholeLine a.parts then s1.clearPoison a.pa else s1
  s2.retest a.pa

/-- Elements of a part reduced into memory in ascending order, with their flags. -/
def State.reducePart (s : State) (o : MemOp) (var : Nat) (fmt : Fmt) (p : Seg) : State × Flags :=
  let n := fmtBytes fmt
  (List.range (p.len / n)).foldl (fun (st, fl) i =>
    let v := st.readNat (p.pa + n * i) n
    let r := atomNew (aredVar var fmt) fmt v (leNat ((o.buf.drop (p.off + n * i)).take n))
    (st.writeNat (p.pa + n * i) n r.1, fl ||| r.2)) (s, 0)

/-- What a load's line gives to the handle's POISON (R302). -/
def loadPoison (o : MemOp) (a : Access) : BitVec 8 :=
  match o.kind with
  | .load h => poisonOf h.rows a.rows
  | _ => 1

/-- One access of an issued operation, as its home applies it. -/
def State.applyAccess (s : State) (o : MemOp) (a : Access) : State :=
  let bad := s.poisoned a.pa
  let old (n : Nat) : Nat := s.readNat a.pa n
  let unapplied (bytes : List Byte) (side : Bool) : State :=
    (s.logOp o a 2).modOp o.id fun p => { p with buf := bytes, poison := 1, side := side }
  match o.kind with
  | .load _ | .loadScalar _ =>
    let s1 := if bad then s.logOp o a 1 else s
    s1.modOp o.id fun p =>
      { p with buf := s.fillParts p.buf a.parts, poison := if bad then p.poison ||| loadPoison o a else p.poison }
  | .store => s.applyStore o a
  | .atom var fmt b =>
    let n := fmtBytes fmt
    let v := old n
    if bad then unapplied (leBytes n v) false
    else
      let r := atomNew var fmt v (b.toNat % 2 ^ width fmt)
      (s.homeWrite a.pa (leBytes n r.1)).modOp o.id fun p => { p with buf := leBytes n v, flags := p.flags ||| r.2 }
  | .cas fmt b c =>
    let n := fmtBytes fmt
    let v := old n
    if bad then unapplied (leBytes n v) false
    else
      let s1 := if v = b.toNat % 2 ^ width fmt then s.homeWrite a.pa (leBytes n (c.toNat % 2 ^ width fmt)) else s
      s1.modOp o.id fun p => { p with buf := leBytes n v }
  | .join n =>
    let v := (old 4 + 1) % 2 ^ 32
    if bad then unapplied (leBytes 4 v) true
    else if v = n.toNat then
      (s.homeWrite a.pa (zeros 4)).modOp o.id fun p => { p with buf := leBytes 4 v, side := false }
    else (s.homeWrite a.pa (leBytes 4 v)).modOp o.id fun p => { p with buf := leBytes 4 v, side := true }
  | .ared var fmt =>
    if bad then s.logOp o a 2
    else
      let r := a.parts.foldl (fun (st, fl) p =>
        let q := State.reducePart st o var fmt p
        (q.1, fl ||| q.2)) (s, 0)
      (r.1.retest a.pa).modOp o.id fun p => { p with flags := p.flags ||| r.2 }
  | .zeroLine => (s.zeroLines a.pa 256).retest a.pa
  | .pref | .iput _ | .itake | .iclr | .waitv _ _ _ => s

/-! ### Acceptance (R304) -/

def State.refuse (s : State) (o : MemOp) (cls code : Nat) : State :=
  s.modOp o.id fun p => { p with refusal := match p.refusal with | some r => some r | none => some (cls, code) }

/-- Poisoned lines met in looking through the arena slice of the access's home (R322, R389). -/
def State.noteArena (s : State) (o : MemOp) (a : Access) : State :=
  match s.ctx o.firing.asid with
  | none => s
  | some x => s.logArea o.firing.asid (x.arenaSlice a.pa).1 (32 * (x.arenaSlice a.pa).2) o.firing.cell o.firing.slot

/-- The operation joins a list or a registration at its home, or is refused for want of an entry. -/
def State.listOp (s : State) (o : MemOp) (a : Access) (value : Word64) (kind info : Nat) : State :=
  let s := s.noteArena o a
  match s.takeArena o a a.va value kind info with
  | none => s.refuse o 0x15 0
  | some (e, s1) => s1.modOp o.id fun p => { p with arena := some e, listed := true, order := s.orders }

/-- The word's state (R293); an address not listed is empty. -/
def State.wordAt (s : State) (pa : Nat) : Option W1 := look (memKey pa) s.w1
/-- A context's operation gives a word its state. -/
def State.setWord (s : State) (pa : Nat) (w : W1) (asid : Nat) : State :=
  { s with w1 := put (memKey pa) w s.w1, w1by := put (memKey pa) asid s.w1by }
/-- Words become empty. -/
def State.clearWords (s : State) (p : Nat → Bool) : State :=
  { s with w1 := s.w1.filter fun w => !p w.1, w1by := s.w1by.filter fun w => !p w.1 }

/-- Operations in the order they were listed in (R322). -/
def insertListed (o : MemOp) : List MemOp → List MemOp
  | [] => [o]
  | p :: t => if o.order ≤ p.order then o :: p :: t else p :: insertListed o t

/-- The ITAKEs listed on a word, in list order. -/
def State.takers (s : State) (pa : Nat) : List MemOp :=
  (s.memops.filter fun o => o.listed && o.kind == .itake && o.accs.any fun a => memKey a.pa == memKey pa).foldr
    insertListed []

/-- A home's reply to the acceptance request of one access. On a poisoned line nothing is applied, the line is logged, and
an answer is poisoned (R302). Line k of the operation that a key stands for is marked duplicate, and so is one that is
refused. -/
def State.acceptAccess (s : State) (o : MemOp) (k : Nat) (a : Access) : State :=
  let bad := s.poisoned a.pa
  let dup (st : State) : State :=
    st.modOp o.id fun p => { p with accs := p.accs.modify k fun x => { x with dup := true } }
  match o.kind with
  | .iput v =>
    if bad then s.logOp o a 2
    else if s.wordAt a.pa = some .full then s.refuse o 0x14 0
    else
      let s1 := (s.writeMem a.pa (leBytes 8 v.toNat)).setWord a.pa .full o.firing.asid
      let ts := s.takers a.pa
      let s2 := ts.foldl (fun st t => st.answerOp t (leBytes 8 v.toNat) false) s1
      -- the answers leave in list order (R293)
      { s2.retest a.pa with due := s2.due ++ ts.map fun t => .event (.memoryOpPerformed t.id none) }
  | .itake =>
    if bad || s.wordAt a.pa = some .full then s.answerOp o (s.readMem a.pa 8) bad
    else
      let s1 := s.listOp o a 0 1 0
      if ((s1.op o.id).map MemOp.listed).getD false then s1.setWord a.pa .deferred o.firing.asid else s1
  | .iclr =>
    if bad then s.logOp o a 2
    else if s.wordAt a.pa = some .deferred then s.refuse o 0x02 0
    else s.clearWords (· == memKey a.pa)
  | .waitv cond fmt b =>
    let v := s.readNat a.pa (fmtBytes fmt)
    if bad || waitHolds cond fmt v b then s.answerOp o (leBytes (fmtBytes fmt) v) bad
    else s.listOp o a b 2 (cond + 8 * ((Enc.Fmt.code fmt).toNat % 16))
  | .ared _ _ =>
    let s := s.noteArena o a
    if (s.findKey o a).isSome then dup s
    else
      match s.takeArena o a (a.va / 256 * 256) 0 3 0 with
      | none => dup (s.refuse o 0x15 0)
      | some (_, s1) => s1
  | _ => s

/-! ### HOME_ACCESS (R281) -/

/-- Every access done: an issued operation is performed. -/
def MemOp.settle (o : MemOp) : MemOp :=
  if o.phase == .issued && o.accs.all Access.done then { o with phase := .applied } else o

/-- The k-th access of an operation is applied at its home, or by GCL. -/
def State.homeAccess (s : State) (id k : Nat) : State :=
  match s.op id with
  | none => s
  | some o =>
    match o.accs[k]? with
    | none => s
    | some a =>
      if a.done || s.isRemote a.pa || !(o.phase == .issued || o.phase == .accepting) then s
      else
        let s1 := if o.phase == .accepting then s.acceptAccess o k a else s.applyAccess o a
        s1.modOp id fun p => { p with accs := p.accs.modify k fun x => { x with done := true } }.settle
def execHomeAccess (op acc : Nat) (s : State) : Host.Outcome State Fault Refusal := .next (s.homeAccess op acc)

/-! ### Requests to other devices (R298) -/

/-- The remote accesses of an operation. -/
def State.remoteAccs (s : State) (o : MemOp) : List Access := o.accs.filter fun a => s.isRemote a.pa

/-- What the operation asks of a line on another device. An ARED first asks for the line's key, and for the line itself
once it has committed (R304). -/
def MemOp.farOp (o : MemOp) (n : Nat) (a : Access) : FabOp :=
  let bytes : List (Nat × List Byte) := a.parts.map fun p => (p.pa - a.pa, (o.buf.drop p.off).take p.len)
  match o.kind with
  | .load _ | .loadScalar _ => .load (a.parts.map fun p => (p.pa - a.pa, p.len))
  | .pref => .load [(0, 256 - a.pa % 256)]
  | .store => .store bytes
  | .atom var fmt b => .atom var fmt b
  | .cas fmt b c => .cas fmt b c
  | .ared var fmt => if o.phase == .accepting then .ared var fmt bytes else .commit n
  | .iput v => .iput v
  | .itake => .itake
  | .iclr => .iclr
  | .join n => .join n
  | .waitv cond fmt b => .waitv cond fmt b
  | .zeroLine => .zeroLine

/-- A request of the operation about its access k. -/
def State.askFor (s : State) (o : MemOp) (k : Nat) (a : Access) (op : Nat → FabOp) : Nat × FabRequest :=
  let n := 65536 * o.id + k
  (a.pa / 2 ^ 39,
   { dev := s.dev.devnum.toNat, id := n, asid := o.firing.asid, pa := a.pa, va := a.va, op := op n, poison := a.bad,
     cell := o.firing.cell, slot := o.firing.slot, tag := o.firing.tag })

/-- The requests of an operation for its lines on other devices that are still to be done. -/
def State.asksOf (s : State) (o : MemOp) : List (Nat × FabRequest) :=
  o.accs.zipIdx.filterMap fun p =>
    if s.isRemote p.1.pa && !p.1.done then some (s.askFor o p.2 p.1 fun n => o.farOp n p.1) else none

/-- They are handed to the fabric. -/
def State.ask (s : State) (o : MemOp) : State := { s with fabAsks := s.fabAsks ++ s.asksOf o }

/-- 2 ms in units of 1/42 ns (R328). -/
def twoMs : Nat := 84000000

/-- Requests of the device itself for n lines of a page of another device, at an address each, numbered so that their
answers find the page. -/
def State.askPage (s : State) (asid pa va n cell : Nat) (leaf : Option Nat) (op : Nat → Nat × FabOp) : State :=
  { s with
    farPages := s.farPages ++
      [{ id := s.nextOp, asid := asid, left := List.range n, refused := false, leaf := leaf, deadline := s.dev.time + twoMs }]
    nextOp := s.nextOp + 1
    fabAsks := s.fabAsks ++ (List.range n).map fun k =>
      (pa / 2 ^ 39,
       { dev := s.dev.devnum.toNat, id := 65536 * s.nextOp + k, asid := asid, pa := pa + (op k).1, va := va + (op k).1,
         op := (op k).2, poison := false, cell := cell, slot := 0, tag := 0 }) }

/-- Does something wait for an answer that may still come in time (R328)? -/
def FarPage.waits (now : Nat) (p : FarPage) : Bool := !p.gone && !p.late && !p.left.isEmpty && decide (now < p.deadline)

/-- An answer did not come in time. -/
def FarPage.timedOut (p : FarPage) : Bool := p.late || !p.left.isEmpty

/-- Nothing waits any more for the answers to those requests. -/
def State.giveUp (s : State) (which : FarPage → Bool) : State :=
  { s with farPages := (s.farPages.map fun p => if which p then { p with gone := true } else p).filter fun p =>
      !(p.gone && p.left.isEmpty) }

/-- Does the context wait for such requests? -/
def State.asking (s : State) (asid : Nat) : Bool := s.farPages.any fun p => p.asid == asid && !p.gone

/-- The answer to one of those requests. A late one is dropped and counted (R328). -/
def State.farAnswer (s : State) (id : Nat) (r : RemoteReply) : State :=
  match s.farPages.find? fun p => p.id == id && p.left.contains r.acc with
  | none => s
  | some q =>
    let late := q.gone || decide (q.deadline ≤ s.dev.time)
    let q1 : FarPage :=
      { q with left := q.left.filter (· != r.acc), refused := q.refused || r.refused.isSome, late := q.late || late }
    let s1 : State :=
      { s with farPages := (s.farPages.map fun p => if p.id == id then q1 else p).filter fun p => !(p.gone && p.left.isEmpty) }
    if late then s1.countOrphan q.asid else s1

/-! ### ACCEPTANCE_REPLY (R304) -/

/-- Keys that homes granted to an operation another home refused are released. -/
def State.releaseKeys (s : State) (o : MemOp) : State :=
  match o.kind with
  | .ared _ _ =>
    o.accs.zipIdx.foldl (fun st p =>
      let a := p.1
      if !a.done || a.dup then st
      else if s.isRemote a.pa then { st with fabAsks := st.fabAsks ++ [s.askFor o p.2 a .release] }
      else
        match st.findKey o a with
        | some e => st.freeArena e
        | none => st) s
  | _ => s

/-- The set that waits for an operation's acceptance. -/
def State.acceptSet (s : State) (o : MemOp) : Option FSet :=
  ((s.cell o.firing.cell).findSet o.firing.sid).bind fun x => if x.hold == some (.accept o.id) then some x else none

/-- An accepted operation goes on: ARED's new lines are applied next; a listed one waits; any other is performed. -/
def MemOp.accepted (o : MemOp) (now : Nat) : MemOp :=
  match o.kind with
  | .ared _ _ =>
    MemOp.settle { o with phase := .issued, accs := o.accs.map fun a => { a with done := a.dup }, deadline := now }
  | _ => { o with phase := if o.listed then .waiting else .applied }

/-- The operation of another device waits for its requester: an ARED whose key is reserved (R304). -/
def MemOp.isAred (o : MemOp) : Bool :=
  match o.kind with
  | .ared _ _ => true
  | _ => false

/-- Once every home has replied: a refusal raises its trap and nothing is committed; else the firing commits. -/
def State.acceptanceReply (s : State) (id : Nat) : State :=
  match s.op id with
  | none => s
  | some o =>
    if !(o.phase == .accepting && o.accs.all Access.done) then s
    else
      match o.origin, o.refusal with
      | some (d, n), some r =>
        let ans : FabAnswer :=
          { dev := d, id := n, reply := { refused := some r, listed := false, poison := false, data := [], flags := 0 } }
        { (s.releaseKeys o).dropOp id with fabAnswers := s.fabAnswers ++ [ans] }
      | some (d, n), none =>
        let ans : FabAnswer :=
          { dev := d, id := n, reply := { refused := none, listed := true, poison := false, data := [], flags := 0 } }
        if o.isAred then { s.modOp id fun p => { p with phase := .waiting } with fabAnswers := s.fabAnswers ++ [ans] }
        else
          let s1 := s.modOp id fun p => p.accepted 0
          if o.listed then { s1 with fabAnswers := s1.fabAnswers ++ [ans] } else s1
      | none, some (cls, code) => ((s.releaseKeys o).dropOp id).raise o.firing (trapOf cls code)
      | none, none =>
        s.commitWith o.firing { outs := [], flags := 0 } fun st =>
          let o1 := o.accepted (st.dev.time + twoMs)
          let st1 := st.modOp id fun _ => o1
          if o.isAred then st1.ask o1 else st1
def execAcceptanceReply (op : Nat) (s : State) : Host.Outcome State Fault Refusal := .next (s.acceptanceReply op)

/-! ### Results (R285, R303, R321) -/

/-- A result of the memory port or of a ring: a tile goes to each destination cell as packets of its own. -/
def State.sendFresh (s : State) (f : Sender) (tag : Tag) (v : Val) (ds : List Dest) : State :=
  match v with
  | .scalar _ _ _ => s.send f tag v ds
  | .tile h d =>
    let here := ds.filter fun e => e.mode != .remote
    let toks := here.map fun e => s.token f tag v (destTarget e f.cell tag) e.slot.toNat (portOf e.port)
    let s1 : State :=
      { s with net := s.net ++ (cellsOf toks).map fun c =>
          { toks := toks.filter fun t => t.cell == c, tile := some d, left := h.packets, line := none, xfer := none } }
    (ds.filter fun e => e.mode == .remote).foldl (fun st e => st.sendRemote f tag v (e.cell.toNat % 256)) s1

/-- HOMEFLAGS (R321), in the state and in the context record. -/
def State.orHomeFlags (s : State) (asid : Nat) (fl : Flags) : State :=
  match s.ctx asid with
  | none => s
  | some x =>
    let v := x.par.homeflags ||| fl
    (s.setCtx asid { x with par := { x.par with homeflags := v } }).writeMem (x.cr.base + 236) (leBytes 1 v.toNat)

/-- Flags of an operation applied at a home go to the issuing frame's sticky word; to HOMEFLAGS when both destinations
are absent or the frame has ended (R321). -/
def State.opFlags (s : State) (o : MemOp) : State :=
  if o.flags = 0 then s
  else
    let f := o.firing
    let sent := f.word.getLsbD 63 || f.word.getLsbD 31
    if sent && frameCurrent (s.frameOf f.asid f.tag) f.tag then s.orFlags f.asid f.tag o.flags
    else s.orHomeFlags f.asid o.flags

/-- The operation's result: side and value. -/
def MemOp.result (o : MemOp) : Bool × Val :=
  let sc (v : Word64) : Val := .scalar v (o.poison != 0) o.eos
  match o.kind with
  | .load h => (false, .tile { h with poison := o.poison, eos := o.eos } o.buf)
  | .loadScalar fmt | .atom _ fmt _ | .cas fmt _ _ | .waitv _ fmt _ => (false, sc (extVal fmt (leNat o.buf)))
  | .itake => (false, sc (BitVec.ofNat 64 (leNat o.buf)))
  | .join _ => (o.side, sc (BitVec.ofNat 64 (leNat o.buf)))
  | .store | .pref | .ared _ _ | .iput _ | .iclr | .zeroLine => (false, .scalar (BitVec.ofNat 64 o.count) false o.eos)

/-- A value delivered as an operation's result token. A loaded tile fills the lines reserved for it (R84). The answer to
an ITAKE or a WAITV names its home (R413). -/
def State.deliverResult (s : State) (o : MemOp) (side : Bool) (v : Val) : State :=
  let f := o.firing
  let ds := if side then f.outs1 else f.outs0
  let answer : Option Nat := match o.kind with
    | .itake | .waitv _ _ _ => o.accs.head?.map Access.pa
    | _ => none
  match v, f.room, answer with
  | .tile h d, some l, _ =>
    let s1 := s.modCell f.cell fun c =>
      { c with tiles := c.tiles.map fun t => if t.line == l then { t with data := d } else t }
    (s1.send (f.sender s) o.otag (.tile { h with line := l } d) ds).gcTiles f.cell
  | .scalar _ _ _, _, some pa =>
    let toks := s.tokensTo (f.sender s) o.otag v ds
    State.sendFar
      { s with net := s.net ++ toks.map fun t =>
          { toks := [t], tile := none, left := 0, line := none, xfer := none, far := some (pa / 2 ^ 39, homeCell pa, 0) } }
      (f.sender s) o.otag v ds
  | _, _, _ => s.sendFresh (f.sender s) o.otag v ds

/-- A performed operation leaves its port, and its token is emitted; a foreign one is answered. -/
def State.finishOp (s : State) (o : MemOp) : State :=
  match o.origin with
  | some (d, n) =>
    let ans : FabAnswer :=
      { dev := d, id := n,
        reply := { refused := none, listed := false, poison := o.poison != 0, data := o.buf, flags := o.flags } }
    { s.dropOp o.id with fabAnswers := s.fabAnswers ++ [ans] }
  | none =>
    let r := o.result
    (((s.dropOp o.id).opFlags o).deliverResult o r.1 r.2).progress o.firing.asid

/-! ### Answers of other devices (R298, R328) -/

/-- Bytes of an answer laid out over parts, in order. -/
def fillFrom (buf : List Byte) : List Seg → List Byte → List Byte
  | [], _ => buf
  | p :: ps, d => fillFrom (splice buf p.off (fitBytes p.len d)) ps (d.drop p.len)

/-- Access k marked done. -/
def MemOp.doneAt (o : MemOp) (k : Nat) : MemOp := { o with accs := o.accs.modify k fun x => { x with done := true } }

/-- The answer about access k taken into the operation. -/
def MemOp.take (o : MemOp) (k : Nat) (a : Access) (r : RemoteReply) : MemOp :=
  let o1 := { o.doneAt k with flags := o.flags ||| r.flags }
  let scalar (n : Nat) : MemOp := { o1 with buf := fitBytes n r.data, poison := if r.poison then 1 else o.poison }
  match o.kind with
  | .load _ =>
    { o1 with buf := fillFrom o.buf a.parts r.data, poison := if r.poison then o.poison ||| loadPoison o a else o.poison }
  | .loadScalar fmt | .atom _ fmt _ | .cas fmt _ _ => scalar (fmtBytes fmt)
  | .waitv _ fmt _ => if r.listed then { o1 with listed := true } else { scalar (fmtBytes fmt) with listed := false }
  | .itake => if r.listed then { o1 with listed := true } else { scalar 8 with listed := false }
  | .join n => { scalar 4 with side := r.poison || leNat (fitBytes 4 r.data) != n.toNat }
  | .store | .pref | .ared _ _ | .iput _ | .iclr | .zeroLine => o1

/-- SRC of the poison log entry of a line that another device reports poisoned to the issuing port (R302). -/
def OpKind.farSrc : OpKind → Nat
  | .load _ | .loadScalar _ | .pref => 1
  | _ => 2

/-- The operation is given up: it answers no more, and the lines kept for its tile are free (R328). -/
def State.abandon (s : State) (o : MemOp) : State :=
  (s.modOp o.id fun p => { p with phase := .abandoned, listed := false, firing := { p.firing with room := none } }).gcTiles
    o.firing.cell

/-- A request refused at the far home after commit: ACCESS against the firing, whose operands are consumed; the
operation stays with its record (R385, R462). -/
def State.refusedLate (s : State) (o : MemOp) (a : Access) (cls code : Nat) : State :=
  let f := o.firing
  let r := s.recOf f { trapOf cls code with addr := a.va } []
  (s.abandon o).takeTrap f.asid { r with op := some o.id }

/-- Does an open record still stand for the operation? -/
def State.recorded (s : State) (o : MemOp) : Bool :=
  ((s.ctx o.firing.asid).map fun x => x.traps.any fun r => r.op == some o.id).getD false

/-- Nothing more can come for the operation: every line on another device has answered, in time or late. -/
def State.spent (s : State) (o : MemOp) : Bool :=
  o.accs.zipIdx.all fun p => !s.isRemote p.1.pa || p.1.done || o.late.contains p.2

/-- An abandoned operation goes once nothing more can come for it and no open record names it. -/
def State.dropSpent (s : State) (id : Nat) : State :=
  match s.op id with
  | none => s
  | some o => if o.phase == .abandoned && !s.recorded o && s.spent o then s.dropOp id else s

/-- Access k is answered no more, though nothing came of it. -/
def MemOp.lateAt (o : MemOp) (k : Nat) : MemOp := { o with late := k :: o.late }

/-- The response of another device about one access. A late one is dropped and counted (R328). The value of an ITAKE or a
WAITV may come before its firing has committed (R304). -/
def State.remoteAnswer (s : State) (o : MemOp) (r : RemoteReply) : State :=
  match o.accs[r.acc]? with
  | none => s
  | some a =>
    if !s.isRemote a.pa then s
    else if o.phase == .waiting then
      ((if r.poison then s.logOp o a 2 else s).modOp o.id fun p => { p.take r.acc a r with phase := .applied })
    else if o.phase == .accepting && a.done && o.listed && !r.listed then
      (if r.poison then s.logOp o a 2 else s).modOp o.id fun p => p.take r.acc a r
    else if a.done || o.late.contains r.acc then s
    else if o.phase == .abandoned then
      ((s.countOrphan o.firing.asid).modOp o.id fun p => p.lateAt r.acc).dropSpent o.id
    else
      match r.refused with
      | some (cls, code) =>
        if o.phase == .accepting then
          (s.refuse o cls code).modOp o.id fun p =>
            { p with accs := p.accs.modify r.acc fun x => { x with done := true, dup := true } }
        else if o.kind == .pref then
          s.modOp o.id fun p => MemOp.settle { p.take r.acc a r with count := p.count + 1 }
        else (s.modOp o.id fun p => p.lateAt r.acc).refusedLate o a cls code
      | none =>
        -- the first answer to an ARED is its reservation
        let first := o.phase == .accepting && o.isAred
        let s1 := if r.poison && !first && o.kind != .pref then s.logOp o a o.kind.farSrc else s
        s1.modOp o.id fun p => (p.take r.acc a r).settle

/-- The set that waits for an operation's acceptance leaves its cell. -/
def State.dropWaiting (s : State) (o : MemOp) : State :=
  match s.acceptSet o with
  | some x => (s.modCell o.firing.cell fun c => c.dropSet x.sid).gcTiles o.firing.cell
  | none => s

/-- REMOTE_TIMEOUT (R328): a frame trap that names cell, slot, tag and address; AUX is the device (R375). The record has
the firing's word and exposes its operands (R377). -/
def State.remoteTimeout (s : State) (id : Nat) : State :=
  match s.op id with
  | none => s
  | some o =>
    match (s.remoteAccs o).find? fun a => !a.done with
    | none => s
    | some a =>
      if !(o.phase == .issued || o.phase == .accepting) || decide (s.dev.time < o.deadline) then s
      else
        let f := o.firing
        let t : Trap := { trapOf 0x16 0 with addr := a.va, aux := BitVec.ofNat 64 (a.pa / 2 ^ 39) }
        let r : TrapRec := { s.recOf f t [] with kind := 2, op := some id }
        let s1 := s.abandon o
        -- an ended frame's trap is dropped, and its set with it (R382)
        let s2 := if frameCurrent (s.frameOf f.asid f.tag) f.tag then s1 else s1.dropWaiting o
        s2.takeTrap f.asid r

/-- A response that arrives: after its 2 ms the operation has been given up already (R328). -/
def State.answerInTime (s : State) (o : MemOp) (r : RemoteReply) : State :=
  let s1 := s.remoteTimeout o.id
  match s1.op o.id with
  | some p => s1.remoteAnswer p r
  | none => s1

/-- MEMORY_OP_PERFORMED (R292, R298): a performed operation's token leaves; or the response of another device arrives, and
the token with it when nothing else is outstanding. -/
def State.opPerformed (s : State) (id : Nat) (reply : Option RemoteReply) : State :=
  match s.op id with
  | none => match reply with
    | some r => s.farAnswer id r
    | none => s
  | some o =>
    let s1 := match reply with
      | some r => s.answerInTime o r
      | none => s
    match s1.op id with
    | some p => if p.phase == .applied then s1.finishOp p else s1
    | none => s1
def execMemoryOpPerformed (op : Nat) (reply : Option RemoteReply) (s : State) : Host.Outcome State Fault Refusal :=
  .next (s.opPerformed op reply)

def execRemoteTimeout (op : Nat) (s : State) : Host.Outcome State Fault Refusal := .next (s.remoteTimeout op)

/-! ### Zero fill (R295) -/

/-- Walks that wait for a claim of the leaf go on. -/
def State.claimAnswered (s : State) (leaf : Nat) : State :=
  { s with walks := s.walks.map fun w => if w.claim == some leaf then { w with claim := none } else w
           fills := s.fills.filter fun z => z.leaf != leaf }

/-- The lines of a page frame on another device are zeroed there (R295). -/
def State.askZeros (s : State) (z : ZeroFill) : State :=
  s.askPage z.asid z.frame z.frame 256 (homeCell z.leaf) (some z.leaf) fun k => (256 * k, .zeroLine)

/-- Walks that wait for a claim of the leaf end with a fault, the freeze that it makes, and the trap's AUX. -/
def State.failClaim (s : State) (leaf cls code : Nat) (freeze : Option Nat := none) (aux : Nat := 0) : State :=
  let s1 : State := { s with fills := s.fills.filter fun z => z.leaf != leaf }
  (s.walks.filter fun w => w.claim == some leaf).foldl (fun st w =>
    (w.waiters.foldl (fun st p => st.modCell p.1 fun c => c.modSet p.2 fun x => x.fail w.va cls code freeze aux) st).endWalk w)
      s1

/-- ZERO_CLAIM: the home of the leaf's line serialises the claims. The first sets CLM; a later one waits with it; one
that finds ZF clear is answered, and one that finds CLM without a claim in progress meets a fault (R360). The frame is
the one the entry names at the claim, and it must be one that the virtual device may reach (R362, R367). -/
def State.zeroClaim (s : State) (n : Nat) : State :=
  match s.fills[n]? with
  | none => s
  | some z =>
    if z.filling then s
    else if s.fills.any (fun y => y.filling && y.leaf == z.leaf) then { s with fills := s.fills.eraseIdx n }
    else
      let e := s.readNat z.leaf 8
      if bitsOf e 8 1 = 1 then s.failClaim z.leaf 0x0A 2
      else if bitsOf e 7 1 = 0 then s.claimAnswered z.leaf
      else
        match s.checkTarget (s.vdevOf z.asid) (bitsOf e 16 36 * 2 ^ 16) (2 ^ 16) with
        | .error (.fault cls code freeze _) => s.failClaim z.leaf cls code freeze
        | _ =>
        let z1 : ZeroFill := { z with frame := bitsOf e 16 36 * 2 ^ 16, w1 := bitsOf e 5 1 == 1, filling := true }
        let s1 := s.writeNat z.leaf 8 (e + 2 ^ 8)
        let s2 := if s.isRemote z1.frame then s1.askZeros z1 else s1
        { s2.retest z.leaf with fills := s2.fills.set n z1 }
def execZeroClaim (n : Nat) (s : State) : Host.Outcome State Fault Refusal := .next (s.zeroClaim n)

/-- The page frame zeroed; its WAITVs are retested. -/
def State.zeroPage (s : State) (frame : Nat) : State :=
  if s.isRemote frame then s
  else
    let a := memKey frame
    let out (k : Nat) : Bool := decide (k < a) || decide (a + 65536 ≤ k)
    let s1 := s.zeroLines frame 65536
    s1.memops.foldl (fun st o =>
      match o.accs.head? with
      | some x => if o.listed && !out (memKey x.pa) then st.retest x.pa else st
      | none => st) s1

/-- The requests of a fill for a page of another device. -/
def State.zeroPages (s : State) (leaf : Nat) : List FarPage := s.farPages.filter fun p => p.leaf == some leaf && !p.gone

/-- ZERO_FILL_DONE: every line is performed; ZF and CLM are cleared in one access, and the claim is answered. Where another
device has refused a line, ZF stays and the walks meet ACCESS code 3; where one is not answered within 2 ms, they meet
REMOTE_TIMEOUT with the device in AUX (R328, R462, log entry 57). -/
def State.zeroFillDone (s : State) (n : Nat) : State :=
  match s.fills[n]? with
  | none => s
  | some z =>
    let asked := s.zeroPages z.leaf
    if !z.filling || asked.any fun p => p.waits s.dev.time then s
    else
      let refused := asked.any FarPage.refused
      let late := asked.any FarPage.timedOut
      let s1 := (s.giveUp fun p => p.leaf == some z.leaf).zeroPage z.frame
      let e := s1.readNat z.leaf 8
      let e1 := e - (if refused || late then 0 else bitsOf e 7 1 * 2 ^ 7) - bitsOf e 8 1 * 2 ^ 8
      let s2 := s1.homeWrite z.leaf (leBytes 8 e1)
      if refused then s2.failClaim z.leaf 0x0B 3
      else if late then s2.failClaim z.leaf 0x16 0 none (z.frame / 2 ^ 39)
      else s2.claimAnswered z.leaf
def execZeroFillDone (n : Nat) (s : State) : Host.Outcome State Fault Refusal := .next (s.zeroFillDone n)

end Sys2Proof.Machine
end

