-- ==== Sys2Proof/Machine/MemoryOps.lean ====
section
/-! DEFINITION. Memory instructions of the memory port, codes 0x90 to 0x97 and 0xA0 to 0xA7 (R300 to R314, R319 to
R327): descriptors, the checks of R300 in their order, and issue. -/

namespace Sys2Proof.Machine

/-! ### Tensor descriptors (R306 to R308) -/

structure Desc where
  base : Nat
  rstride : Nat
  nrows : Nat
  ncols : Nat
  fmt : Fmt
  rows : Nat
  cols : Nat
  rd : Bool
  wr : Bool
  disc : Bool
  deriving DecidableEq, Repr

/-- Where a context's descriptor i lies; none at or above the table size. -/
def State.descAddr (s : State) (asid i : Nat) : Option Nat :=
  match s.ctx asid with
  | some x => if i < x.cr.descn then some (x.cr.descbase + 64 * i) else none
  | none => none

/-- A descriptor's 64 bytes; none when V is 0, a reserved bit is set, NROWS is 0 or FMT is reserved. -/
def descOf (b : List Byte) : Option Desc :=
  let n (off len : Nat) : Nat := leNat ((b.drop off).take len)
  let flags := n 28 1
  match Enc.Fmt.ofNat (n 24 1) with
  | none => none
  | some fmt =>
    if decide (2 ^ 54 ≤ n 0 8) || decide (2 ^ 40 ≤ n 8 8) || n 16 4 == 0 || fmt == .handle || decide (64 ≤ n 25 1) ||
        decide (512 ≤ n 26 2) || decide (16 ≤ flags) || n 29 35 != 0 || flags % 2 == 0 then none
    else some { base := n 0 8, rstride := n 8 8, nrows := n 16 4, ncols := n 20 4, fmt := fmt, rows := n 25 1 + 1,
                cols := n 26 2 + 1, rd := flags.testBit 1, wr := flags.testBit 2, disc := flags.testBit 3 }

/-- Element size for alignment: 1 for the MX and sub-byte formats (R307). -/
def Desc.size (d : Desc) : Nat :=
  match d.fmt with
  | .mx8e4 | .mx8e5 | .mx4 | .s4 | .e2m1 | .bit => 1
  | .a36 => 8
  | f => width f / 8

/-- What col0 must be a multiple of (R308). -/
def colStep (f : Fmt) : Nat :=
  match f with
  | .mx8e4 | .mx8e5 | .mx4 => 32
  | .s4 | .e2m1 => 2
  | .bit => 8
  | _ => 1

/-- The descriptor a firing uses, checked by R308. -/
def State.useDesc (s : State) (f : Firing) (w : OpFields) (col0 : Nat) (rd wr : Bool) : Ex Desc :=
  match (if f.desc.isEmpty then (s.descAddr f.asid (w.imm.toNat % 65536)).map fun a => s.readMem a 64 else some f.desc).bind
    descOf with
  | none => .error tBAD_OPERAND
  | some d => do
    trapIf ((rd && !d.rd) || (wr && !d.wr)) tBAD_OPERAND
    trapIf (d.ncols == 0) tBAD_OPERAND
    match Enc.rowBytes d.fmt d.ncols with
    | none => .error tBAD_OPERAND
    | some n => trapIf (decide (d.rstride < n)) tBAD_OPERAND
    trapIf (!Enc.shapeOk d.fmt d.rows d.cols || decide (d.ncols < col0 + d.cols) || col0 % colStep d.fmt != 0)
      tBAD_OPERAND
    pure d

/-- BASE and RSTRIDE are multiples of size. -/
def Desc.aligned (d : Desc) : Bool := d.base % d.size == 0 && d.rstride % d.size == 0

/-- A meeting of a poisoned line at the descriptor's read (R389 SRC 0x05): once, at selection. -/
def State.readDesc (s : State) (f : Firing) (w : OpFields) : State :=
  match s.descAddr f.asid (w.imm.toNat % 65536) with
  | some a => if f.desc.isEmpty && s.poisoned a then s.logPoison f.asid a f.cell f.slot 5 else s
  | none => s

/-- The firing with the descriptor it has read (R306). -/
def State.withDesc (s : State) (f : Firing) (w : OpFields) : Firing :=
  match s.descAddr f.asid (w.imm.toNat % 65536) with
  | some a => if f.desc.isEmpty then { f with desc := s.readMem a 64 } else f
  | none => f

/-! ### Spans and lines -/

/-- Bytes of memory that an operation touches: virtual address, place in its buffer, length, row of its tile. -/
structure Span where
  va : Nat
  off : Nat
  len : Nat
  row : Nat
  deriving DecidableEq, Repr

/-- Tensor row r, columns col0 on, as row i of a tile: element bytes, then MX scale bytes (R307). -/
def Desc.spans (d : Desc) (r col0 i : Nat) : List Span :=
  let a := d.base + r * d.rstride
  let n := elemLen d.fmt d.cols
  let row := i * rowLen d.fmt d.cols
  { va := a + elemLen d.fmt col0, off := row, len := n, row := i } ::
    (if isMX d.fmt then
       [{ va := a + elemLen d.fmt d.ncols + col0 / 32, off := row + n, len := d.cols / 32, row := i }]
     else [])

/-- A span cut where its lines end; at most k + 1 pieces. -/
def Span.cut (sp : Span) : Nat → List Span
  | 0 => [sp]
  | k + 1 =>
    let n := 256 - sp.va % 256
    if sp.len ≤ n then [sp]
    else { sp with len := n } :: Span.cut { sp with va := sp.va + n, off := sp.off + n, len := sp.len - n } k

def cutAll (sps : List Span) : List Span := sps.flatMap fun sp => if sp.len = 0 then [] else sp.cut (sp.len / 256 + 1)

/-- The pages that pieces touch, each by the first address in it. -/
def pagesOf (ps : List Span) : List Nat :=
  ps.foldl (fun acc p => if acc.any (fun v => v / 2 ^ 16 == p.va / 2 ^ 16) then acc else acc ++ [p.va]) []

/-- Where a piece lies, by the translation of its page. -/
def place (ts : List (Nat × TlbEntry)) (va : Nat) : Nat :=
  match ts.find? fun t => t.1 / 2 ^ 16 == va / 2 ^ 16 with
  | some t => t.2.addr va
  | none => 0

/-- One access per line, parts in ascending element order (R281). A line that two pages reach is one line. -/
def accesses (ts : List (Nat × TlbEntry)) (bad : Nat → Bool) (ps : List Span) : List Access :=
  ps.foldl (fun acc p =>
    let seg : Seg := { pa := place ts p.va, off := p.off, len := p.len }
    if acc.any fun a => a.pa / 256 == seg.pa / 256 then
      acc.map fun a =>
        if a.pa / 256 == seg.pa / 256 then
          { a with parts := a.parts ++ [seg], rows := if a.rows.contains p.row then a.rows else a.rows ++ [p.row],
                   bad := a.bad || bad p.row }
        else a
    else acc ++ [{ va := p.va, pa := place ts p.va, parts := [seg], rows := [p.row], bad := bad p.row, done := false,
                   dup := false }]) []

/-! ### Translation and rights (R300 steps 3 and 4, R301, R354) -/

/-- What a page must grant. -/
structure Need where
  r : Bool
  w : Bool
  w1 : Bool
  /-- an address of device memory is required (R287) -/
  device : Bool
  deriving DecidableEq, Repr

inductive Xlate where
  | trap (t : Trap)
  /-- a trap, and the freeze that a walk found cause for at an address (R362, R369) -/
  | freezes (t : Trap) (cause va : Nat)
  /-- pages that no TLB holds: walks are needed -/
  | walk (vas : List Nat)
  | ok (ts : List (Nat × TlbEntry))
  deriving DecidableEq, Repr

/-- What a finished walk told the firing's set about a page. -/
def State.faultOn (s : State) (f : Firing) (va : Nat) : Option XFault :=
  (((s.cell f.cell).findSet f.sid).map FSet.faults).bind fun l => l.find? fun x => x.va == va / 2 ^ 16

/-- Translation of the pages touched. Every page is walked before the first fault decides: a PAGE_FAULT (R300 step 3)
comes before the ACCESS of a walk's end (step 4). -/
def State.translate (s : State) (f : Firing) (vas : List Nat) : Xlate :=
  let found (p : XFault → Bool) : Option Trap :=
    vas.findSome? fun v => ((s.faultOn f v).filter p).map fun x =>
      { trapOf x.cls x.code with addr := v, aux := BitVec.ofNat 64 x.aux }
  match vas.find? fun v => decide (2 ^ 54 ≤ v) with
  | some v => .trap (tPAGE_FAULT 3 v)
  | none =>
    match vas.filter fun v => (s.tlbLookup f.cell f.asid v).isNone && (s.faultOn f v).isNone with
    | [] =>
      let cause : Option (Nat × Nat) := vas.findSome? fun v => (s.faultOn f v).bind fun x => x.freeze.map fun c => (c, v)
      match (found fun x => x.cls == 0x0A).orElse fun _ => found fun _ => true, cause with
      | some t, some (c, v) => .freezes t c v
      | some t, none => .trap t
      | none, _ => .ok (vas.filterMap fun v => (s.tlbLookup f.cell f.asid v).map fun e => (v, e))
    | l => .walk l

/-- The first page that refuses the access: a capability that is missing, rights or page kind, a host address. -/
def State.rights (s : State) (e : Env) (n : Need) (ts : List (Nat × TlbEntry)) : Ex Unit :=
  let host (t : Nat × TlbEntry) : Bool := isHost (t.2.addr t.1)
  let cap (t : Nat × TlbEntry) : Bool :=
    (host t && !e.caps.getLsbD 3) || (s.isRemote (t.2.addr t.1) && !e.caps.getLsbD 2)
  match ts.find? cap with
  | some t => .error (tACCESS 4 t.1)
  | none =>
    match ts.findSome? fun t =>
        let a := t.2.attr
        if (n.r && !a.getLsbD 2) || (n.w && !a.getLsbD 3) || n.w1 != a.getLsbD 5 then some (tACCESS 1 t.1)
        else if n.device && host t then some (tACCESS 6 t.1) else none with
    | some t => .error t
    | none => .ok ()

/-- Poisoned data to be stored (R300 step 6, R388): the first piece that may not take it. -/
def storePoison (ts : List (Nat × TlbEntry)) (bad : Nat → Bool) (ps : List Span) : Ex Unit :=
  match ps.findSome? fun p =>
      if !bad p.row then none
      else
        match ts.find? fun t => t.1 / 2 ^ 16 == p.va / 2 ^ 16 with
        | some t =>
          if isHost (t.2.addr p.va) then some { tPOISON 6 with addr := p.va }
          else if !t.2.attr.getLsbD 6 then some { tPOISON 3 with addr := p.va } else none
        | none => none with
  | some t => .error t
  | none => .ok ()

/-! ### Issue (R292) -/

/-- What a memory firing is about to do, once its operands have been checked. -/
structure Plan where
  tag : Tag
  kind : OpKind
  spans : List Span
  need : Need
  /-- alignment holds; the address that ALIGN names when it does not and nothing is touched -/
  aligned : Bool
  base : Nat
  /-- rows whose data is poisoned and would be stored -/
  bad : Nat → Bool
  watch : Ex Unit
  buf : List Byte
  count : Nat
  /-- R304: its homes accept it before it commits -/
  accept : Bool

/-- The scope an address requires (R282): DEV, DOM or SYS. -/
def State.scopeOf (s : State) (pa : Nat) : BitVec 2 := if isHost pa then 2 else if s.isRemote pa then 1 else 0

/-- The wider of two scopes. -/
def wider (a b : BitVec 2) : BitVec 2 := if a.toNat < b.toNat then b else a

/-- The scope of an operation whose firing had started before a FENCE of its cell that waits for it: the wider of its own and
the FENCE's (R290). -/
def State.fencedScope (s : State) (f : Firing) (scope : BitVec 2) : BitVec 2 :=
  (s.cell f.cell).sets.foldl (fun m x => match x.hold with
    | some (.fence _ sids sc) => if sids.contains f.sid then wider m sc else m
    | _ => m) scope

/-- The operation of a firing, at its effective scope: the wider of the scope it names and those its addresses require
(R282). -/
def State.newOp (s : State) (f : Firing) (p : Plan) (scope : BitVec 2) (ts : List (Nat × TlbEntry))
    (accs : List Access) : MemOp :=
  let scope := s.fencedScope f scope
  let dev := (accs.find? fun a => s.isRemote a.pa).map fun a => a.pa / 2 ^ 39
  { id := s.nextOp, firing := f, otag := p.tag, eos := f.eos, kind := p.kind,
    scope := accs.foldl (fun m a => wider m (s.scopeOf a.pa)) scope, accs := accs, buf := p.buf,
    count := p.count, poison := 0, flags := 0,
    phase := if p.accept then .accepting else if accs.isEmpty then .applied else .issued,
    refusal := none, dev := dev, deadline := s.dev.time + twoMs, pages := ts.map fun t => (t.2.page, t.2.size),
    side := false, arena := none, order := 0, origin := none, listed := false }

/-- The operation joins the port's, and asks other devices for their lines. -/
def State.addOp (s : State) (o : MemOp) : State :=
  State.ask { s with memops := s.memops ++ [o], nextOp := o.id + 1 } o

/-- The firing's memory operation is issued: at once with its commit, or for acceptance before it. -/
def State.issue (s : State) (f : Firing) (o : MemOp) : State :=
  -- destinations are checked before commit (R292)
  if s.runsIn f && s.badRemote f [{ side := false, tag := f.tag, val := .scalar 0 false false, line := none },
                    { side := true, tag := f.tag, val := .scalar 0 false false, line := none }] then
    s.raiseRemote f (f.outs0 ++ f.outs1)
  else if o.phase == .accepting then (s.hold f (.accept o.id)).addOp o
  else s.commitWith f { outs := [], flags := 0 } fun st => st.addOp o

/-- The firing waits for walks of the pages. -/
def State.awaitWalks (s : State) (f : Firing) (vas : List Nat) : State :=
  vas.foldl (fun st v => st.requestWalk f v) (s.hold f .walk)

/-- Lines of the tile that a load makes (R84). -/
def Plan.room (p : Plan) : List Nat :=
  match p.kind with
  | .load h => [h.lines]
  | _ => []

/-- The lines of a load's tile are reserved when it starts (R84): none when they cannot be had now. -/
def State.reserveRoom (s : State) (f : Firing) (need : List Nat) : Option (State × Firing) :=
  match need, f.room with
  | n :: _, none =>
    if (s.cell f.cell).canReserve f.sid need then
      ((s.cell f.cell).freeRun n).map fun l =>
        (s.modCell f.cell fun c =>
           { c with tiles := c.tiles ++ [{ line := l, lines := n, data := [] }]
                    claim := if c.claim == some f.sid then none else c.claim },
         { f with room := some l })
    else none
  | _, _ => some (s, f)

/-- A started load traps: what was reserved for it is free. -/
def State.failLoad (s : State) (f : Firing) (t : Trap) : State :=
  if f.room.isSome then (s.raise f { t with need := [] }).gcTiles f.cell else s.fail f t

/-- R300 from step 3 on, then issue. -/
def State.runPlan (s : State) (f : Firing) (w : OpFields) : Ex Plan → State
  | .error t => s.failLoad f t
  | .ok p =>
    let ps := cutAll p.spans
    if 2048 < needLines f p.room then s.raise f tBAD_OPERAND
    else
      match s.reserveRoom f p.room with
      | none => s.noSpace f p.room
      | some (s0, g) =>
        match s0.translate g (pagesOf ps) with
        | .trap t => s0.failLoad g t
        | .freezes t cause va =>
          (s0.raiseFrozen g { t with need := [] }
            { cause := cause, vdev := s0.vdevOf g.asid, asid := some g.asid, cell := g.cell, slot := g.slot, tag := g.tag,
              addr := va }).gcTiles g.cell
        | .walk vas => s0.awaitWalks g vas
        | .ok ts =>
          let s1 := ts.foldl (fun st t => st.tlbTouch g.cell t.2) s0
          match (do
            s0.rights (s0.env g) p.need ts
            trapIf (!p.aligned) (tALIGN ((ps.head?.map Span.va).getD p.base))
            storePoison ts p.bad ps
            p.watch : Ex Unit) with
          | .error t => s1.failLoad g t
          | .ok _ =>
            s1.issue g (s1.newOp g p (w.mod.extractLsb' 0 2) ts (accesses ts p.bad ps))

/-- A memory instruction with a descriptor, which the firing reads once. -/
def runTensor (w : OpFields) (s : State) (plan : State → Firing → Env → Ex Plan) :
    Host.Outcome State Fault Refusal :=
  runFiring s fun f =>
    let g := s.withDesc f w
    let p := plan s g (s.env g)
    -- a set that does not start has read nothing
    let s1 := (s.readDesc f w).runPlan g w p
    if s1.sel.isSome then s.runPlan g w p else s1
/-- A memory instruction with an address. -/
def runMem (w : OpFields) (s : State) (plan : State → Firing → Env → Ex Plan) : Host.Outcome State Fault Refusal :=
  runFiring s fun f => s.runPlan f w (plan s f (s.env f))

def noBad : Nat → Bool := fun _ => false

/-! ### Tile transfers (R309 to R312) -/

/-- row0 and col0 of a coordinate (R301). -/
def Firing.row0 (f : Firing) : Nat := (f.val .a).word.toNat / 2 ^ 32
def Firing.col0 (f : Firing) : Nat := (f.val .a).word.toNat % 2 ^ 32

/-- Rows of the tile that lie in the tensor (R309). -/
def Desc.extent (d : Desc) (row0 : Nat) : Nat := min d.rows (d.nrows - row0)

/-- Rows row0 on, n of them. -/
def Desc.rowsFrom (d : Desc) (row0 col0 n : Nat) : List Span :=
  (List.range n).flatMap fun i => d.spans (row0 + i) col0 i

/-- The watch test of a tensor access by its coordinates (R404): kind 0 reads, 1 writes. -/
def State.watchTensor (s : State) (f : Firing) (w : OpFields) (kind : Nat) (coords : List (Nat × Nat)) : Ex Unit :=
  watchTest (s.watches f kind fun t => t == w.imm.toNat % 65536) coords

/-- The handle a load makes (R309). -/
def Desc.handle (d : Desc) (rows valid seq : Nat) : Handle :=
  { fmt := d.fmt, rows := rows, cols := d.cols, valid := valid, line := 0, poison := 0, eos := false, disc := d.disc,
    seq := BitVec.ofNat 16 seq }

def readNeed : Need := { r := true, w := false, w1 := false, device := false }
def writeNeed : Need := { r := false, w := true, w1 := false, device := false }
def bothNeed : Need := { r := true, w := true, w1 := false, device := false }

/-- LDT (R309). -/
def planLdt (w : OpFields) (s : State) (f : Firing) (e : Env) : Ex Plan := do
  checkKinds f false false false
  let d ← s.useDesc f w f.col0 true false
  let vr := d.extent f.row0
  let h := d.handle d.rows vr f.row0
  let tag ← withNeed [h.lines] do
    checkPoison f .a 1
    outTag w f e
  pure { tag := tag, kind := .load h, spans := d.rowsFrom f.row0 f.col0 vr, need := readNeed, aligned := d.aligned,
         base := d.base, bad := noBad, watch := s.watchTensor f w 0 (rectangle f.row0 f.col0 vr d.cols),
         buf := zeros h.bytes, count := 0, accept := false }
def execLdt (w : OpFields) (s : State) : Host.Outcome State Fault Refusal := runTensor w s (planLdt w)

/-- The tile's FMT, ROWS and COLS are the descriptor's (R310). -/
def Desc.fits (d : Desc) (h : Handle) : Bool := h.fmt == d.fmt && h.rows == d.rows && h.cols == d.cols

/-- STT (R310). -/
def planStt (w : OpFields) (s : State) (f : Firing) (e : Env) : Ex Plan := do
  checkKinds f false true false
  let d ← s.useDesc f w f.col0 false true
  let (h, data) := f.tile .b
  trapIf (!d.fits h) tBAD_OPERAND
  checkPoison f .a 1
  let tag ← outTag w f e
  let m := min h.valid (d.extent f.row0)
  pure { tag := tag, kind := .store, spans := d.rowsFrom f.row0 f.col0 m, need := writeNeed, aligned := d.aligned,
         base := d.base, bad := rowPoisoned h, watch := s.watchTensor f w 1 (rectangle f.row0 f.col0 m d.cols),
         buf := data, count := m, accept := false }
def execStt (w : OpFields) (s : State) : Host.Outcome State Fault Refusal := runTensor w s (planStt w)

/-- The index tile of GATH and SCAT: z32, one column (R311). -/
def needIndex (f : Firing) : Ex Unit :=
  let h := (f.tile .b).1
  trapIf (!(h.fmt == .z32 && h.cols == 1)) tBAD_OPERAND

/-- POISON when a poisoned group of the index tile covers one of its first n rows. -/
def indexPoison (f : Firing) (n : Nat) : Ex Unit :=
  let h := (f.tile .b).1
  trapIf ((List.range n).any (rowPoisoned h)) (tPOISON 1)

/-- Rows of the first n index entries that lie in the tensor: place in the tile, and tensor row. -/
def targets (f : Firing) (d : Desc) (n : Nat) : List (Nat × Nat) :=
  let (h, data) := f.tile .b
  ((List.range n).map fun i => (i, f.row0 + elemAt h data i 0)).filter fun p => decide (p.2 < d.nrows)

def targetSpans (d : Desc) (col0 : Nat) (ts : List (Nat × Nat)) : List Span := ts.flatMap fun p => d.spans p.2 col0 p.1
def targetCoords (d : Desc) (col0 : Nat) (ts : List (Nat × Nat)) : List (Nat × Nat) :=
  ts.flatMap fun p => rectangle p.2 col0 1 d.cols

/-- GATH (R311). -/
def planGath (w : OpFields) (s : State) (f : Firing) (e : Env) : Ex Plan := do
  checkKinds f false true false
  needIndex f
  let d ← s.useDesc f w f.col0 true false
  let b := (f.tile .b).1
  trapIf (!Enc.shapeOk d.fmt b.rows d.cols) tBAD_OPERAND
  let h := d.handle b.rows b.valid 0
  let tag ← withNeed [h.lines] do
    checkPoison f .a 1
    indexPoison f b.valid
    outTag w f e
  let ts := targets f d b.valid
  pure { tag := tag, kind := .load h, spans := targetSpans d f.col0 ts, need := readNeed, aligned := d.aligned,
         base := d.base, bad := noBad, watch := s.watchTensor f w 0 (targetCoords d f.col0 ts), buf := zeros h.bytes,
         count := 0, accept := false }
def execGath (w : OpFields) (s : State) : Host.Outcome State Fault Refusal := runTensor w s (planGath w)

/-- SCAT (R311). -/
def planScat (w : OpFields) (s : State) (f : Firing) (e : Env) : Ex Plan := do
  checkKinds f false true true
  needIndex f
  let d ← s.useDesc f w f.col0 false true
  let b := (f.tile .b).1
  let (c, data) := f.tile .c
  trapIf (!d.fits c) tBAD_OPERAND
  checkPoison f .a 1
  let m := min b.valid c.valid
  indexPoison f m
  let tag ← outTag w f e
  let ts := targets f d m
  pure { tag := tag, kind := .store, spans := targetSpans d f.col0 ts, need := writeNeed, aligned := d.aligned,
         base := d.base, bad := rowPoisoned c, watch := s.watchTensor f w 1 (targetCoords d f.col0 ts), buf := data,
         count := ts.length, accept := false }
def execScat (w : OpFields) (s : State) : Host.Outcome State Fault Refusal := runTensor w s (planScat w)

/-- PREF's operands (R312): the tag, and the lines of the tile by their addresses. -/
def prefLines (w : OpFields) (s : State) (f : Firing) (e : Env) : Ex (Tag × List Nat) := do
  checkKinds f false false false
  let d ← s.useDesc f w f.col0 true false
  checkPoison f .a 1
  let tag ← outTag w f e
  let ps := cutAll (d.rowsFrom f.row0 f.col0 (d.extent f.row0))
  pure (tag, ps.foldl (fun acc p => if acc.contains (p.va / 256 * 256) then acc else acc ++ [p.va / 256 * 256]) [])

/-- May PREF ask for a line of the page? -/
def State.prefOk (s : State) (e : Env) (t : Nat × TlbEntry) : Bool :=
  match s.rights e readNeed [t] with
  | .ok _ => true
  | .error _ => false

/-- PREF (R312): lines that cannot be translated or read are skipped and counted; it raises nothing for them. -/
def doPref (w : OpFields) (s : State) (f : Firing) : State :=
  match prefLines w s f (s.env f) with
  | .error t => s.raise f t
  | .ok (tag, lines) =>
    let open' := lines.filter fun v => decide (v < 2 ^ 54) && (s.faultOn f v).isNone
    match open'.filter fun v => (s.tlbLookup f.cell f.asid v).isNone with
    | v :: vs => s.awaitWalks f (v :: vs)
    | [] =>
      let ts := (open'.filterMap fun v => (s.tlbLookup f.cell f.asid v).map fun e => (v, e)).filter fun t =>
        s.prefOk (s.env f) t
      let accs : List Access := ts.map fun t =>
        { va := t.1, pa := t.2.addr t.1, parts := [], rows := [], bad := false, done := false, dup := false }
      let p : Plan :=
        { tag := tag, kind := .pref, spans := [], need := readNeed, aligned := true, base := 0, bad := noBad,
          watch := .ok (), buf := [], count := lines.length - ts.length, accept := false }
      let s1 := ts.foldl (fun st t => st.tlbTouch f.cell t.2) s
      s1.issue f (s1.newOp f p (w.mod.extractLsb' 0 2) ts accs)
def execPref (w : OpFields) (s : State) : Host.Outcome State Fault Refusal :=
  runFiring s fun f => doPref w (s.readDesc f w) (s.withDesc f w)

/-! ### Scalar access (R313) -/

/-- ea of LDS and STS. -/
def Firing.ea (f : Firing) (w : OpFields) : Nat :=
  let a := (f.val .a).word
  (if w.lit.isSome then a else a + w.imm.signExtend 64).toNat

/-- One aligned span of n bytes. -/
def oneSpan (va n : Nat) : List Span := [{ va := va, off := 0, len := n, row := 0 }]

/-- LDS (R313). -/
def planLds (w : OpFields) (_s : State) (f : Firing) (e : Env) : Ex Plan := do
  checkKinds f false false false
  checkPoison f .a 1
  let tag ← outTag w f e
  let n := fmtBytes w.fmt
  let ea := f.ea w
  pure { tag := tag, kind := .loadScalar w.fmt, spans := oneSpan ea n, need := readNeed, aligned := ea % n == 0,
         base := ea, bad := noBad, watch := .ok (), buf := zeros n, count := 0, accept := false }
def execLds (w : OpFields) (s : State) : Host.Outcome State Fault Refusal := runMem w s (planLds w)

/-- STS (R313). The completion's payload is stated by no rule (log entry 8). -/
def planSts (w : OpFields) (_s : State) (f : Firing) (e : Env) : Ex Plan := do
  checkKinds f false false false
  checkPoison f .a 1
  let tag ← outTag w f e
  let n := fmtBytes w.fmt
  let ea := f.ea w
  pure { tag := tag, kind := .store, spans := oneSpan ea n, need := writeNeed, aligned := ea % n == 0, base := ea,
         bad := fun _ => f.isPoisoned .b, watch := .ok (), buf := leBytes n (f.val .b).word.toNat,
         count := e.free.toNat, accept := false }
def execSts (w : OpFields) (s : State) : Host.Outcome State Fault Refusal := runMem w s (planSts w)

/-! ### FENCE (R290, R314) -/

/-- The operations that a FENCE of the firing's frame on its cell waits for. -/
def State.fenced (s : State) (f : Firing) : List Nat :=
  (s.memops.filter fun o => o.pending && o.origin.isNone && o.firing.cell == f.cell && o.firing.asid == f.asid &&
    tagFrame o.firing.tag == tagFrame f.tag && tagGen o.firing.tag == tagGen f.tag).map MemOp.id

/-- Sets of the firing's frame on its cell that had started before it and have issued nothing yet (R290,
log entry 78). -/
def State.unissued (s : State) (f : Firing) : List Nat :=
  ((s.cell f.cell).sets.filter fun x => x.sid != f.sid && x.walking && x.ofFrame f.asid (tagFrame f.tag) (tagGen f.tag)).map
    FSet.sid

/-- Operations of the list that are still to be performed. -/
def State.stillPending (s : State) (ids : List Nat) : List Nat :=
  ids.filter fun i => ((s.op i).map MemOp.pending).getD false

/-- Sets of the list on a cell that are still to issue their operations, or whose operations are still to be performed. -/
def State.stillIssuing (s : State) (cell : Nat) (sids : List Nat) : List Nat :=
  sids.filter fun i => ((s.cell cell).findSet i).any FSet.walking ||
    s.memops.any fun o => o.pending && o.origin.isNone && o.firing.cell == cell && o.firing.sid == i

/-- Operations that a FENCE waits for are to be performed at the wider of their own scope and the FENCE's (R290). -/
def State.atScope (s : State) (ids : List Nat) (scope : BitVec 2) : State :=
  { s with memops := s.memops.map fun o => if ids.contains o.id then { o with scope := wider o.scope scope } else o }

/-- FENCE's output: port a as it stands. -/
def evalFence (w : OpFields) (f : Firing) (e : Env) : Ex Commit :=
  evalOp w f e (dataTile w, false, false) (.ok ()) false (.ok ([passOn f .a false], []))

def doFence (w : OpFields) (s : State) (f : Firing) : State :=
  match evalFence w f (s.env f) with
  | .error t => s.raise f t
  | .ok c =>
    let ids := s.fenced f
    let sids := s.unissued f
    let scope := w.mod.extractLsb' 0 2
    if ids.isEmpty && sids.isEmpty then s.commit f c else (s.atScope ids scope).hold f (.fence ids sids scope)
def execFence (w : OpFields) (s : State) : Host.Outcome State Fault Refusal := runFiring s (doFence w s)

/-- FENCE_RELEASE: a waiting FENCE emits once the operations that it found outstanding are performed. -/
def execFenceRelease (cell sid : Nat) (s : State) : Host.Outcome State Fault Refusal :=
  .next (match (s.cell cell).findSet sid with
    | none => s
    | some x =>
      match x.hold, x.firing with
      | some (.fence ids sids _), some f =>
        if (s.stillPending ids).isEmpty && (s.stillIssuing cell sids).isEmpty && (s.cell cell).mayCommit f.asid then
          match decodeSlot f.word with
          | some (.fence w) => s.settle f (evalFence w f (s.env f))
          | _ => s
        else s
      | _, _ => s)

/-! ### Atomics (R319) -/

/-- An operator on one aligned word at port a. -/
def planWord (f : Firing) (tag : Tag) (kind : OpKind) (n : Nat) (need : Need) (accept : Bool) (count : Nat) : Plan :=
  let ea := (f.val .a).word.toNat
  { tag := tag, kind := kind, spans := oneSpan ea n, need := need, aligned := ea % n == 0, base := ea, bad := noBad,
    watch := .ok (), buf := zeros n, count := count, accept := accept }

/-- Poison of an address, then of the atomic operands. -/
def atomicPoison (f : Firing) (ps : List Port) : Ex Unit := do
  checkPoison f .a 1
  trapIf (ps.any f.isPoisoned) (tPOISON 4)

/-- ATOM (R319, R320). -/
def planAtom (w : OpFields) (_s : State) (f : Firing) (e : Env) : Ex Plan := do
  checkKinds f false false false
  atomicPoison f [.b]
  let tag ← outTag w f e
  pure (planWord f tag (.atom w.var.toNat w.fmt (f.val .b).word) (fmtBytes w.fmt) bothNeed false 0)
def execAtom (w : OpFields) (s : State) : Host.Outcome State Fault Refusal := runMem w s (planAtom w)

/-- CAS (R319). -/
def planCas (w : OpFields) (_s : State) (f : Firing) (e : Env) : Ex Plan := do
  checkKinds f false false false
  atomicPoison f [.b, .c]
  let tag ← outTag w f e
  pure (planWord f tag (.cas w.fmt (f.val .b).word (f.val .c).word) (fmtBytes w.fmt) bothNeed false 0)
def execCas (w : OpFields) (s : State) : Host.Outcome State Fault Refusal := runMem w s (planCas w)

/-- ARED's formats (R323). -/
def aredFmt (f : Fmt) : Bool := f == .f32 || f == .f16 || f == .bf16 || f == .s32 || f == .z32

/-- ARED (R323, R324). -/
def planAred (w : OpFields) (s : State) (f : Firing) (e : Env) : Ex Plan := do
  checkKinds f false true false
  let d ← s.useDesc f w f.col0 true true
  let (h, data) := f.tile .b
  trapIf (!(aredFmt d.fmt && d.fits h)) tBAD_OPERAND
  let m := min h.valid (d.extent f.row0)
  checkPoison f .a 1
  trapIf ((List.range m).any (rowPoisoned h)) (tPOISON 4)
  let tag ← outTag w f e
  pure { tag := tag, kind := .ared w.var.toNat d.fmt, spans := d.rowsFrom f.row0 f.col0 m,
         need := { bothNeed with device := true }, aligned := d.aligned, base := d.base, bad := noBad,
         watch := s.watchTensor f w 1 (rectangle f.row0 f.col0 m d.cols), buf := data, count := m, accept := true }
def execAred (w : OpFields) (s : State) : Host.Outcome State Fault Refusal := runTensor w s (planAred w)

/-! ### Write-once words, joins and waits (R325 to R327) -/

/-- IPUT (R325). -/
def planIput (w : OpFields) (_s : State) (f : Firing) (e : Env) : Ex Plan := do
  checkKinds f false false false
  atomicPoison f [.b]
  let tag ← outTag w f e
  pure (planWord f tag (.iput (f.val .b).word) 8 { r := false, w := true, w1 := true, device := true } true e.free.toNat)
def execIput (w : OpFields) (s : State) : Host.Outcome State Fault Refusal := runMem w s (planIput w)

/-- ITAKE (R325). -/
def planItake (w : OpFields) (_s : State) (f : Firing) (e : Env) : Ex Plan := do
  checkKinds f false false false
  checkPoison f .a 1
  let tag ← outTag w f e
  pure (planWord f tag .itake 8 { r := true, w := false, w1 := true, device := true } true 0)
def execItake (w : OpFields) (s : State) : Host.Outcome State Fault Refusal := runMem w s (planItake w)

/-- ICLR (R325). -/
def planIclr (w : OpFields) (_s : State) (f : Firing) (e : Env) : Ex Plan := do
  checkKinds f false false false
  checkPoison f .a 1
  let tag ← outTag w f e
  pure (planWord f tag .iclr 8 { r := false, w := true, w1 := true, device := true } true e.free.toNat)
def execIclr (w : OpFields) (s : State) : Host.Outcome State Fault Refusal := runMem w s (planIclr w)

/-- JOIN (R326). -/
def planJoin (w : OpFields) (_s : State) (f : Firing) (e : Env) : Ex Plan := do
  checkKinds f false false false
  let n : Word32 := (f.val .b).word.extractLsb' 0 32
  trapIf (n == 0) tBAD_OPERAND
  atomicPoison f [.b]
  let tag ← outTag w f e
  pure (planWord f tag (.join n) 4 bothNeed false 0)
def execJoin (w : OpFields) (s : State) : Host.Outcome State Fault Refusal := runMem w s (planJoin w)

/-- WAITV (R327). -/
def planWaitv (w : OpFields) (_s : State) (f : Firing) (e : Env) : Ex Plan := do
  checkKinds f false false false
  atomicPoison f [.b]
  let tag ← outTag w f e
  pure (planWord f tag (.waitv w.var.toNat w.fmt (f.val .b).word) (fmtBytes w.fmt)
    { r := true, w := false, w1 := false, device := true } true 0)
def execWaitv (w : OpFields) (s : State) : Host.Outcome State Fault Refusal := runMem w s (planWaitv w)

end Sys2Proof.Machine
end

