-- ==== Sys2Proof/Machine/Recovery.lean ====
section
/-! DEFINITION. After a trap: record indices, delivery and escalation (R378, R383, R384), parking broadcasts (R380),
and the resolution of records (R385 to R387, R400). -/

namespace Sys2Proof.Machine

/-! ### Records, delivery, escalation -/

/-- The oldest record that a test picks. -/
def Ctx.firstTrap (x : Ctx) (p : TrapRec → Bool) : Option TrapRec := x.traps.find? p

/-- Records by index. -/
def Ctx.record (x : Ctx) (i : Nat) : Option TrapRec := x.traps.find? fun r => r.index == some i

/-- The record with an index, changed in the state and in memory. -/
def State.setRecord (s : State) (asid i : Nat) (r : TrapRec) : State :=
  (s.modTraps asid (fun q => q.index == some i) fun _ => r).publishRec asid r

/-- A list with its first element of a kind changed. -/
def mapFirst {α : Type} (p : α → Bool) (g : α → α) : List α → List α
  | [] => []
  | x :: t => if p x then g x :: t else x :: mapFirst p g t

/-- TRAP_RECORD_WRITE (R378): the oldest trap without a record takes the lowest index not open. -/
def execTrapRecordWrite (asid : Nat) (s : State) : Host.Outcome State Fault Refusal :=
  .next (match s.ctx asid with
    | none => s
    | some x =>
      match x.firstTrap (fun r => r.index == none), firstFree (x.traps.filterMap TrapRec.index) 0 x.cr.trapn with
      | some r, some i =>
        let r1 := { r with index := some i }
        ((s.modCtx asid fun y => { y with traps := mapFirst (fun q => q.index == none) (fun _ => r1) y.traps }).publishRec
          asid r1)
      | _, _ => s)

/-- The destination a TRAPVEC word gives a class; none when V = 0. -/
def Ctx.vector (x : Ctx) (cls : Nat) : Option Dest := (look cls x.par.trapvec).bind fun w => (decodeDest w).join

/-- The code with which a written record escalates; 0 when it is to be delivered (R384). -/
def Ctx.escCode (x : Ctx) (r : TrapRec) : Nat :=
  if r.frozen == some false then 4
  else if r.esc != 0 then r.esc
  else if (x.vector r.trap.cls).isNone then 1 else 0

/-- A written record whose delivery or escalation is still to be made. -/
def TrapRec.waiting (r : TrapRec) : Bool := r.pending && r.index.isSome && r.st == .delivered

/-- The delivery word (R383). -/
def deliveryWord (r : TrapRec) : Word64 :=
  0#13 ++ BitVec.ofNat 3 r.kind ++ r.gen ++ BitVec.ofNat 12 r.frame ++ BitVec.ofNat 8 r.trap.code ++
    BitVec.ofNat 8 r.trap.cls ++ BitVec.ofNat 16 (r.index.getD 0)

/-- A dispatcher or the control core as a sender into a context's active plane (R36, R426). -/
def Ctx.injector (x : Ctx) (asid : Nat) : Sender := { asid := asid, cell := 0, slot := 0, cgen := x.cgen, inj := true }

/-- TRAP_DELIVERY (R383): the first record waiting takes a handler frame, and one token leaves. A frozen context, and
one that is dried down, hold their deliveries (R370, R412). -/
def execTrapDelivery (asid : Nat) (s : State) : Host.Outcome State Fault Refusal :=
  .next (match s.ctx asid with
    | none => s
    | some x =>
      match x.firstTrap fun r => r.waiting && x.escCode r == 0 with
      | none => s
      | some r =>
        if x.cr.frozen || x.dry != .none || x.pool.hfree == 0 then s
        else
          let b : Birth := { share := .handler, depth := 0, parent := 0, pgen := 0, rettag := none, gsize := 0, rank := 0 }
          match s.allocFrame asid b, x.vector r.trap.cls with
          | some (i, s1), some d =>
            let s2 := s1.setFrame asid i { ((s1.ctx asid).map fun y => y.frame i).getD Frame.blank with record := r.index }
            let s3 := s2.modTraps asid (fun q => q.index == r.index) fun q => { q with pending := false }
            s3.send (x.injector asid) (s3.childTag asid i) (.scalar (deliveryWord r) false false) [d]
          | _, _ => s)

/-- HANDLER_FAULT (R384, R474): the first record that escalates takes STATE 2, and the host is told. -/
def execHandlerFault (asid : Nat) (s : State) : Host.Outcome State Fault Refusal :=
  .next (match s.ctx asid with
    | none => s
    | some x =>
      match x.firstTrap fun r => r.waiting && x.escCode r != 0, x.cr.frozen with
      | some r, false =>
        let i := r.index.getD 0
        let s1 := s.setRecord asid i { r with st := .escalated, pending := false, esc := x.escCode r }
        { s1 with posts := s1.posts ++
            [{ fn := .vdev x.cr.vdev, id := 0, status := 0, cmd := 0x80,
               values := [BitVec.ofNat 64 (i + asid * 2 ^ 16 + x.escCode r * 2 ^ 32)], token := none,
               asid := none, done := true, waits := [] }] }
      | _, _ => s)

/-- The n-th broadcast has reached a cell. -/
def State.reached (s : State) (n cell : Nat) : State :=
  let l := s.bcasts.modify n fun b => { b with left := b.left.filter (· != cell) }
  { s with bcasts := match l[n]? with
      | some b => if b.left.isEmpty then l.eraseIdx n else l
      | none => l }

/-- PARKING_BROADCAST_ARRIVAL (R380): what the parked frame has on the cell goes to the park area. -/
def execParkingBroadcastArrival (n cell : Nat) (s : State) : Host.Outcome State Fault Refusal :=
  .next (match s.bcasts[n]? with
    | some { asid, kind := .park fr gen clear, left } =>
      if !left.contains cell then s
      else
        let g := BitVec.ofNat 4 gen
        let s1 := s.reached n cell
        let s2 := if clear then s1.modCell cell fun c => { c with fbreaks := c.fbreaks.filter (· != (asid, fr, gen)) } else s1
        let f := s2.frameOf asid (frameTag g fr)
        if f.st == .parked && f.gen == g then s2.withdraw asid fr g cell else s2
    | _ => s)

/-! ### What an operator word would have emitted (R385) -/

/-- Opcode and fields of a record's word, when it is legal. -/
def recWord (r : TrapRec) : Option (Nat × OpFields) :=
  ((decodeSlot r.word).bind opcodeOf).map fun p => (p.1.toNat, p.2)

/-- The binding of an XOP. -/
def State.xopBinding (s : State) (asid opc : Nat) : Option Binding :=
  if 0xC0 ≤ opc then s.binding asid (opc - 0xC0) else none

/-- Tile (true) or scalar for each output side; an operator without outputs has no side. -/
def State.outKinds (s : State) (asid : Nat) (r : TrapRec) : List Bool :=
  match recWord r with
  | none => []
  | some (opc, w) =>
    let one := w.fmt == .handle
    let k : Bool :=
      if 0xC0 ≤ opc then (match s.xopBinding asid opc with | some b => decide (b.shape < 3) | none => false)
      else if opc = 0x73 ∨ opc = 0x90 ∨ opc = 0x94 ∨ opc = 0x99 then true
      else if opc = 0x0A ∨ (0x70 ≤ opc ∧ opc ≤ 0x78) ∨ opc = 0x91 ∨ opc = 0x95 ∨ opc = 0x96 ∨ opc = 0x98 ∨ opc = 0xA2 ∨
        opc = 0xB2 then false
      else if (0x50 ≤ opc ∧ opc ≤ 0x6F) ∨ (0x80 ≤ opc ∧ opc ≤ 0x8F) then true
      else one
    if opc = 0x06 ∨ opc = 0x19 then []
    else if opc = 0x75 ∧ w.var = 1 then [true]
    else if opc = 0x75 ∨ opc = 0x77 then [true, false]
    else if 0xC0 ≤ opc ∧ (s.xopBinding asid opc).isNone then []
    else if twoOutput r.word && !(opc == 0x1A && w.var == 0) then [k, k] else [k]

/-- The side of an accumulator-word output. -/
def State.wordSide (s : State) (asid : Nat) (r : TrapRec) : Option Nat :=
  match recWord r with
  | none => none
  | some (opc, w) =>
    if 0xC0 ≤ opc then (s.xopBinding asid opc).bind fun b => if b.shape = 4 then some 0 else none
    else if opc = 0x75 ∧ w.var = 1 then none
    else if opc = 0x75 ∨ opc = 0x77 then some 1
    else if opc = 0x73 then none
    else if 0x70 ≤ opc ∧ opc ≤ 0x78 then some 0 else none

/-- The accumulator of a word output, when the trapped frame owns it on the trapping cell. -/
def State.wordAcc (s : State) (asid : Nat) (r : TrapRec) : Option Nat :=
  match recWord r with
  | none => none
  | some (opc, w) =>
    let named (p : Port) : Option Nat :=
      (r.ops.find? fun o => o.port == p).bind fun o =>
        let v := o.val.word
        if (v.extractLsb' 48 11).toNat = r.cell then some (v.extractLsb' 16 2).toNat else none
    let n :=
      if opc = 0x74 then some (Enc.immField w 12 2)
      else if opc = 0x76 then some (Enc.immField w 0 2)
      else if opc = 0x70 ∨ opc = 0x71 ∨ opc = 0x72 then named .c
      else if 0xC0 ≤ opc then (s.xopBinding asid opc).bind fun b => named b.wordPort
      else named .a
    n.filter fun i => ((s.cell r.cell).acc i).owner == some (r.frame, r.gen.toNat, asid)

/-! ### Resolution (R385, R400) -/

inductive Form where
  | redo | subst | skip
  deriving DecidableEq, Repr

/-- A resolution as RESUME or the host asks for it: form, substitutes for D0 and D1, flags, NOWATCH, and the cell whose
lines hold the substitute tiles. -/
structure Resolve where
  form : Form
  sub0 : Option Val
  sub1 : Option Val
  flags : Flags
  nowatch : Bool
  home : Nat
  deriving DecidableEq, Repr

/-- The operation of a frame trap or of a refusal that followed the commit. -/
def State.recOp (s : State) (r : TrapRec) : Option MemOp := r.op.bind s.op

/-- Does the substitute fit the output side? -/
def subFits (kinds : List Bool) (side : Nat) : Option Val → Bool
  | none => true
  | some v => kinds[side]? == some v.isTile

/-- Kinds of the operation's one result token. -/
def MemOp.resultTile (o : MemOp) : Bool :=
  match o.kind with
  | .load _ => true
  | _ => false

/-- The status of a resolution of an open record; 0 when it is applied (R400). -/
def State.resolveStatus (s : State) (asid : Nat) (r : TrapRec) (q : Resolve) : Nat :=
  if r.kind = 3 && q.form != .skip then 2
  else if r.trap.cls = 0x17 && q.form == .subst then 2
  else if q.form != .subst then 0
  else
    match s.recOp r with
    | some o => if subFits [o.resultTile] 0 q.sub0 && subFits [o.resultTile] 1 q.sub1 then 0 else 3
    | none =>
      let kinds := s.outKinds asid r
      if (s.wordSide asid r).isSome && (s.wordAcc asid r).isNone then 2
      else if subFits kinds 0 q.sub0 && subFits kinds 1 q.sub1 then 0 else 3

/-- A tile's tokens leave from the cell whose lines hold it, whoever is named as producer. -/
def State.sendFrom (s : State) (f : Sender) (home : Nat) (tag : Tag) (v : Val) (ds : List Dest) : State :=
  let here := ds.filter fun d => d.mode != .remote
  let toks := here.map fun d => s.token f tag v (destTarget d f.cell tag) d.slot.toNat (portOf d.port)
  let s1 := s.sendTokens { f with cell := home } v toks
  (ds.filter fun d => d.mode == .remote).foldl (fun st d => st.sendRemote f tag v (d.cell.toNat % 256)) s1

/-- The tag of SUBST's tokens: TA applied, or the input tag when TA itself traps (R385). -/
def State.substTag (s : State) (asid : Nat) (r : TrapRec) (w : OpFields) : Tag :=
  let b := (r.ops.find? fun o => o.port == .b).map Opnd.val
  match tagAct w.ta (w.tw.toNat + 1) r.tag b (s.frameOf asid r.tag).rettag with
  | .ok t => t
  | .error _ => r.tag

/-- The destinations of a side, resolved on the trapping cell as its plane stands now (R400). -/
def State.substSides (s : State) (asid : Nat) (r : TrapRec) (w : OpFields) : List Dest × List Dest :=
  let c := s.cell r.cell
  let plane := ((c.part asid).map Part.active).getD false
  (c.sides plane r.word w).getD ([], [])

/-- One substitute leaves; an accumulator word becomes the word at the next STEP (R385). -/
def State.sendSub (s : State) (asid : Nat) (r : TrapRec) (q : Resolve) (w : OpFields) (side : Nat) : Option Val → State
  | none => s
  | some v =>
    let ds := s.substSides asid r w
    let d := if side = 0 then ds.1 else ds.2
    let f : Sender := { asid := asid, cell := r.cell, slot := r.slot, cgen := s.cgenAt r.cell asid, inj := false }
    let tag := s.substTag asid r w
    match if s.wordSide asid r = some side then s.wordAcc asid r else none with
    | some n =>
      let a := (s.cell r.cell).acc n
      let a1 : Acc := { a with step := a.step + 1 }
      (s.modCell r.cell fun c => c.setAcc n a1).send f tag (.scalar (a1.wordAt r.cell n) v.poisoned v.eos) d
    | none => s.sendFrom f q.home tag v d

/-- The substitutes leave, one per side. One tile on both sides leaves once for both, so that it crosses once to each
cell (R84, R385). -/
def State.sendSubs (s : State) (asid : Nat) (r : TrapRec) (q : Resolve) (w : OpFields) : State :=
  match q.sub0, q.sub1 with
  | some (.tile h d), some (.tile h1 d1) =>
    if h.line = h1.line then
      let f : Sender := { asid := asid, cell := r.cell, slot := r.slot, cgen := s.cgenAt r.cell asid, inj := false }
      let ds := s.substSides asid r w
      s.sendFrom f q.home (s.substTag asid r w) (.tile h d) (ds.1 ++ ds.2)
    else (s.sendSub asid r q w 0 (some (.tile h d))).sendSub asid r q w 1 (some (.tile h1 d1))
  | v0, v1 => (s.sendSub asid r q w 0 v0).sendSub asid r q w 1 v1

/-- An abandoned operation that is not issued again: it stays only to count a late answer (R328). -/
def State.forgetOp (s : State) (o : MemOp) : State :=
  let s1 := (s.dropWaiting o).abandon o
  if s.spent o then s1.dropOp o.id else s1

/-- The operation as it is issued again: a number of its own, and what homes refused is asked for once more. -/
def MemOp.again (o : MemOp) (id now : Nat) (accepting : Bool) : MemOp :=
  { o with id := id, phase := if accepting then .accepting else .issued, refusal := none, deadline := now + twoMs, late := []
           accs := if o.refusal.isSome then o.accs.map fun a => if a.dup then { a with done := false, dup := false } else a
                   else o.accs }

/-- What an operation asks of its pages. -/
def OpKind.need : OpKind → Need
  | .load _ | .loadScalar _ | .pref => readNeed
  | .store | .zeroLine => writeNeed
  | .atom _ _ _ | .cas _ _ _ | .join _ => bothNeed
  | .ared _ _ => { bothNeed with device := true }
  | .iput _ | .iclr => { r := false, w := true, w1 := true, device := true }
  | .itake => { r := true, w := false, w1 := true, device := true }
  | .waitv _ _ _ => { r := true, w := false, w1 := false, device := true }

/-- Why an operation cannot be issued again: the trap, the cause of a freeze, and a fill that its page needs first. -/
structure Refused where
  trap : Trap
  freeze : Option Nat := none
  fill : Option ZeroFill := none
  deriving DecidableEq, Repr

/-- The translation of an address as the tables stand (R297, R361). A page still to be filled answers no request: the
operation waits for it as for a device (log entry 87). -/
def State.entryNow (s : State) (f : Firing) (va : Nat) : Except Refused TlbEntry :=
  match s.tlbLookup f.cell f.asid va with
  | some e => .ok e
  | none =>
    match s.walkNow f.asid va with
    | .install e => .ok e
    | .claim leaf frame w1 =>
      .error { trap := { trapOf 0x16 0 with addr := va, aux := BitVec.ofNat 64 (frame / 2 ^ 39) }
               fill := some { leaf := leaf, frame := frame, asid := f.asid, w1 := w1, filling := false } }
    | .fault cls code freeze _ => .error { trap := { trapOf cls code with addr := va }, freeze := freeze }

/-- An access at the address that its page has now. -/
def Access.moved (a : Access) (e : TlbEntry) : Access :=
  let pa := e.addr a.va
  { a with pa := pa, parts := a.parts.map fun q => { q with pa := pa + q.pa - a.pa } }

/-- The accesses still to be made, at the addresses that their pages have now, and the entries. -/
def State.retranslate (s : State) (f : Firing) : List Access → Except Refused (List Access × List (Nat × TlbEntry))
  | [] => .ok ([], [])
  | a :: t => do
    let (l, ts) ← s.retranslate f t
    if a.done then pure (a :: l, ts)
    else do
      let e ← s.entryNow f a.va
      pure (a.moved e :: l, (a.va, e) :: ts)

/-- An operation whose translation has been invalidated translates anew, rights included (R297, R301). -/
def State.renewed (s : State) (o : MemOp) : Except Refused MemOp := do
  if !o.stale then pure o
  else do
    let (accs, ts) ← s.retranslate o.firing o.accs
    match s.rights (s.env o.firing) o.kind.need ts with
    | .error t => .error { trap := t }
    | .ok _ =>
      pure { o with accs := accs, stale := false, pages := ts.map fun t => (t.2.page, t.2.size)
                    dev := (accs.find? fun a => s.isRemote a.pa).map fun a => a.pa / 2 ^ 39 }

/-- An operation that cannot be issued again: a record of its own stands for it. -/
def State.refuseAgain (s : State) (o : MemOp) (q : Refused) : State :=
  let f := o.firing
  let s1 : State := match q.fill with
    | some z => if s.fills.any (fun y => y.leaf == z.leaf) then s else { s with fills := s.fills ++ [z] }
    | none => s
  let s2 := match q.freeze with
    | some c => s1.freeze { cause := c, vdev := s1.vdevOf f.asid, asid := some f.asid, cell := f.cell, slot := f.slot, tag := f.tag,
                            addr := q.trap.addr }
    | none => s1
  s2.takeTrap f.asid { s2.recOf f q.trap [] with kind := 2, op := some o.id, frozen := q.freeze.map fun _ => true }

/-- The operation is issued again to the devices that its addresses name (R328, R385): what has not been answered in time is
asked for again, under a new number, so that a late answer to the first request is no answer to this one. -/
def State.reissue (s : State) (o : MemOp) : State :=
  let held := s.acceptSet o
  match s.renewed (o.again s.nextOp s.dev.time held.isSome) with
  | .error q => s.refuseAgain o q
  | .ok o1 =>
    let s1 : State :=
      { s with
        memops := (if s.spent o then s.memops.filter fun p => p.id != o.id else s.memops) ++ [o1]
        nextOp := s.nextOp + 1
        invals := s.invals.map fun i => if i.ops.contains o.id then { i with ops := o1.id :: i.ops } else i }
    let s2 := match held with
      | some x => s1.modCell o.firing.cell fun c => c.modSet x.sid fun y => { y with hold := some (.accept o1.id) }
      | none => s1
    s2.ask o1

/-- The held operands re-form the set on the trapping cell, all returning in one cycle (R427); it starts once the frame is
LIVE (R385). They leave the record as they do, so that they occupy what they occupied (R78). -/
def State.reform (s : State) (asid : Nat) (r : TrapRec) (nowatch : Bool) : State :=
  if r.args.isEmpty then s
  else s.modCell r.cell fun c =>
    { c with
      sets := c.sets ++ [{ sid := c.nextSid, asid := asid, slot := r.slot, tag := r.tag,
                            args := r.args.map fun e => { e with rank := (s.dev.cycles, portCode e.tok.port) },
                           formedAt := s.dev.cycles, bypass := 0, nowatch := nowatch, hold := some .parked, snap := none,
                           faults := [], since := 0 }]
      nextSid := c.nextSid + 1 }

/-- The effect of a form on an open record (R385). -/
def State.applyForm (s : State) (asid : Nat) (r : TrapRec) (q : Resolve) : State :=
  match s.recOp r, q.form with
  | some o, .redo => s.reissue o
  | some o, .subst =>
    let s1 := match q.sub0 with
      | some v => (s.deliverResult o false v).orFlags asid r.tag q.flags
      | none => s.orFlags asid r.tag q.flags
    s1.forgetOp o
  | some o, .skip => s.forgetOp o
  | none, .redo =>
    -- the frame is PARKED until its last record closes, and what is spilled of it is marked so (R381)
    if r.trap.cls = 0x17 then r.args.foldl (fun st e => st.spill r.cell { e with parked := true }) s
    else s.reform asid r q.nowatch
  | none, .subst =>
    let s1 := match recWord r with
      | some (_, w) => s.sendSubs asid r q w
      | none => s
    s1.orFlags asid r.tag q.flags
  | none, .skip => s

/-- A record's frame is still the PARKED activation it names (R387). -/
def State.recLive (s : State) (asid : Nat) (r : TrapRec) : Bool :=
  r.kind == 3 ||
    let f := s.frameOf asid r.tag
    f.st == .parked && f.gen == r.gen

/-- A resolution applied: status and state. -/
def State.resolve (s : State) (asid : Nat) (r : TrapRec) (q : Resolve) : Nat × State :=
  match s.resolveStatus asid r q with
  | 0 =>
    -- the record is closed before its frame goes LIVE, so that the operands of a set re-formed count once (R78, R379)
    let s1 := s.applyForm asid r q
    (0, (s1.closeRec asid r).progress asid)
  | n => (n, s)

end Sys2Proof.Machine
end

