-- ==== Sys2Proof/Machine/Launch.lean ====
section
/-! DEFINITION. Context parameters (R59, R72, R354), the loader (R72 to R75) and LAUNCH_APPLY (R150); a context's
areas as they are laid out (R100, R353); completions of commands (R457). -/

namespace Sys2Proof.Machine

/-! ### Completions (R457) -/

/-- The context a command names in ARG0 (R458): codes 0x11 to 0x1B. -/
def cmdAsid (c : Cmd) (code : BitVec 8) : Option Nat :=
  if 0x11 ≤ code.toNat ∧ code.toNat ≤ 0x1B then some c.arg0.toNat else none

/-- A command's completion entry, with the token that follows it. -/
def cmdPost (c : Cmd) (code status : BitVec 8) (value : Word64) (done : Bool) : Post :=
  { fn := c.fn, id := c.id, status := status, cmd := code, values := [value],
    token := c.cdest.map fun d => (c.casid.toNat, d, c.ctag), asid := cmdAsid c code, done := done, waits := [] }

/-- A command has taken effect but is not complete: its place among the completions is held (R459). -/
def State.await (s : State) (c : Cmd) (code : BitVec 8) : State := { s with posts := s.posts ++ [cmdPost c code 0 0 false] }

/-- A post replaces the first that waits for the same command; there is none for a command that completes at once. The
token stays as that one has it: none, once the context it was for has been destroyed (R355). -/
def settlePost (p : Post) : List Post → List Post
  | [] => [p]
  | q :: t =>
    if { q with token := p.token } == { p with status := 0, values := [0], done := false } then
      { p with token := q.token.bind fun _ => p.token } :: t
    else q :: settlePost p t

/-- A command completes: its entry waits for its ring. -/
def State.complete (s : State) (c : Cmd) (code status : BitVec 8) (value : Word64) : State :=
  { s with posts := settlePost (cmdPost c code status value true) s.posts }

/-! ### Areas in memory -/

/-- Bytes [a, a + n) set to zero. -/
def State.zeroMem (s : State) (a n : Nat) : State := { s with mem := Memory.clear s.mem (memKey a) n }

/-- The fields of the context record that the device writes (R351). -/
def State.publishRecord (s : State) (asid : Nat) : State :=
  match s.ctx asid with
  | none => s
  | some x =>
    let b := x.cr.base
    let p := x.par
    let vec := (List.range 32).flatMap fun c => leBytes 4 ((look c p.trapvec).getD 0).toNat
    let s1 := s.writeMem b (leBytes 2 asid ++ leBytes 1 x.cr.vdev ++ leBytes 1 (if x.cr.frozen then 2 else 1))
    let s2 := s1.writeMem (b + 28) (leBytes 4 x.cr.spill)
    let s3 := s2.writeMem (b + 42) (leBytes 2 x.pool.nframes ++ leBytes 1 x.pool.dmax ++ leBytes 1 x.pool.resv)
    let s4 := s3.writeMem (b + 200) (leBytes 8 p.seed.toNat ++ leBytes 8 p.watchdog)
    let s5 := s4.writeMem (b + 233) (leBytes 1 p.caps.toNat ++ leBytes 1 p.fpen.toNat)
    let s6 := s5.writeMem (b + 236) (leBytes 1 p.homeflags.toNat)
    let s7 := s6.writeMem (b + 240) (leBytes 8 p.purged.toNat ++ leBytes 16 p.imageid.toNat ++ digestBytes p.attest ++
      leBytes 4 p.nmeas.toNat ++ leBytes 1 (if p.unsigned then 1 else 0))
    s7.writeMem (b + 320) vec

/-- The spill area laid out for a size in MiB (R353): the token table zero, block 0's bitmap with only block 0 marked,
and its drydown header zero. -/
def State.layoutSpill (s : State) (asid mib : Nat) : State :=
  match s.ctx asid with
  | none => s
  | some x =>
    let y : Ctx := { x with cr := { x.cr with spill := mib }, ways := [], blocks := [], seqno := 0 }
    let s1 := (s.setCtx asid y).zeroMem y.cr.spillbase (y.tableBytes + (if y.nblocks = 0 then 0 else 32768))
    if y.nblocks = 0 then s1 else s1.writeMem (y.blockAddr 0) [1]

/-- A pool with every frame free (R100). -/
def Pool.fresh (nframes dmax resv : Nat) : Pool :=
  { nframes := nframes, dmax := dmax, resv := resv, gfree := nframes - 17 - resv * dmax, hfree := 16,
    dfree := (List.range 16).map fun d => if 1 ≤ d ∧ d ≤ dmax then resv else 0,
    maxd := 0, orphans := 0, sweeps := 0, peak := 0 }

/-! ### Context parameters (R59, R72, R354) -/

structure Params where
  frames : Nat
  dmax : Nat
  resv : Nat
  seed : Word64
  fpen : BitVec 8
  caps : BitVec 8
  spill : Nat
  watchdog : Nat
  deriving DecidableEq, Repr

/-- The defaults of R59. -/
def Params.default : Params :=
  { frames := 256, dmax := 15, resv := 4, seed := 0, fpen := 0, caps := 0, spill := 64, watchdog := 1000000 }

/-- A PARAMS segment: a field whose bit of PRESENT is clear takes its default. -/
def parseParams (d : List Byte) : Option Params :=
  let pr := numAt d 0 2
  let has (i : Nat) : Bool := pr.testBit i
  let v (i a n dflt : Nat) : Nat := if has i then numAt d a n else dflt
  let p : Params :=
    { frames := v 0 2 2 256, dmax := v 1 4 1 15, resv := v 2 5 1 4, seed := BitVec.ofNat 64 (v 3 16 8 0),
      fpen := BitVec.ofNat 8 (v 4 6 1 0), caps := BitVec.ofNat 8 (v 5 7 1 0), spill := v 6 8 4 64,
      watchdog := v 7 24 8 1000000 }
  if d.length = 48 ∧ pr < 256 ∧ numAt d 12 4 = 0 ∧ numAt d 32 16 = 0 ∧ 17 ≤ p.frames ∧ p.frames ≤ 4096 ∧ 1 ≤ p.dmax ∧
    p.dmax ≤ 15 ∧ p.fpen.toNat < 8 ∧ p.caps.toNat < 16 ∧ p.spill % 16 = 0 ∧ 10000 ≤ p.watchdog ∧ p.watchdog ≤ 1000000000
  then some p else none

/-- Is the pool the one in force? -/
def Ctx.samePool (x : Ctx) (p : Params) : Bool :=
  x.pool.nframes == p.frames && x.pool.dmax == p.dmax && x.pool.resv == p.resv

/-- R354, R100, R353: may the parameters be put in force now? -/
def Ctx.admits (x : Ctx) (p : Params) : Bool :=
  decide (p.frames ≤ x.cr.frtmax) && decide (p.spill ≤ x.cr.spillmax) && p.caps &&& ~~~x.cr.capmax == 0 &&
    decide (17 + p.resv * p.dmax ≤ p.frames) &&
    (x.samePool p || x.frames.all fun q => q.2.st == .free) &&
    (p.spill == x.cr.spill || (x.ways.isEmpty && x.blocks.isEmpty))

/-- The parameters put in force. -/
def State.applyParams (s : State) (asid : Nat) (p : Params) : State :=
  match s.ctx asid with
  | none => s
  | some x =>
    let s1 := if p.spill = x.cr.spill then s else s.layoutSpill asid p.spill
    let s2 := s1.modCtx asid fun y =>
      { y with par := { y.par with seed := p.seed, watchdog := p.watchdog, caps := p.caps, fpen := p.fpen } }
    if x.samePool p then s2
    else s2.setPool asid
      { Pool.fresh p.frames p.dmax p.resv with
          maxd := x.pool.maxd, orphans := x.pool.orphans, sweeps := x.pool.sweeps, peak := x.pool.peak }

/-! ### The segments (R72, R74) -/

/-- What applying one segment does. -/
inductive SegWork where
  | params (p : Params)
  | stream (g : Nat) (ws : List SlotWrite)
  | attar (d : List Byte)
  | desc (l : List (Nat × List Byte))
  | data (addr : Nat) (d : List Byte)
  | handlers (l : List (Nat × BitVec 32))
  /-- REMOTE and ENTRY write nothing -/
  | nothing

def noRepeat : List Nat → Bool
  | [] => true
  | a :: t => !t.contains a && noRepeat t

/-- Entries of a size; none when the length is no whole number of them. -/
def entriesAt (n : Nat) (d : List Byte) : Option (List (List Byte)) :=
  if d.length % n = 0 then some (chunks n (d.length / n) d) else none

def parseDesc (descn : Nat) (d : List Byte) : Option (List (Nat × List Byte)) := do
  let es ← entriesAt 80 d
  let l := es.map fun e => (numAt e 0 2, bytesAt e 16 64)
  if es.all (fun e => numAt e 2 14 == 0 && decide (numAt e 0 2 < descn)) && noRepeat (l.map Prod.fst) then pure l else none

def parseHandlers (d : List Byte) : Option (List (Nat × BitVec 32)) := do
  let es ← entriesAt 8 d
  let l := es.map fun e => (numAt e 0 1, BitVec.ofNat 32 (numAt e 4 4))
  if es.all (fun e => numAt e 1 3 == 0 && decide (1 ≤ numAt e 0 1) && decide (numAt e 0 1 ≤ 0x18) &&
      (entryDest (numAt e 4 4)).isSome) && noRepeat (l.map Prod.fst) then pure l else none

/-- A REMOTE segment agrees with the remote port table, under a context with REMOTE (R72, R354). -/
def State.remoteAgrees (s : State) (x : Ctx) (caps : BitVec 8) (d : List Byte) : Bool :=
  match entriesAt 32 d with
  | none => false
  | some es =>
    caps.getLsbD 2 && noRepeat (es.map fun e => numAt e 0 1) &&
      es.all fun e => numAt e 1 15 == 0 && bytesAt e 16 16 == s.readMem (x.cr.rptbase + 16 * numAt e 0 1) 16

/-- The bindings of an ATTAR segment, when the segment fits, no entry has a reserved byte or bit set (R72), and every entry
with V = 1 passes the attar check (R253, R272). -/
def parseAttar (x : Ctx) (caps : BitVec 8) (d : List Byte) : Option (List (Nat × Binding)) :=
  if d.length < 5120 ∨ x.cr.attarsize < d.length then none
  else
    let bs := (List.range 64).map fun n => (n, Binding.ofBytes (bytesAt d (80 * n) 80))
    let live := bs.filter fun p => p.2.v
    if bs.all (fun p => p.2.clean) && live.all fun p =>
      let b := p.2
      let body := bytesAt d (5120 + b.off) (8 * b.len)
      decide (5120 + b.off + 8 * b.len ≤ d.length) && sha384 body == b.meas &&
        attarCheck b ((chunks 8 b.len body).map fun w => BitVec.ofNat 64 (leNat w)) (caps.getLsbD 0)
    then some live else none

/-- The one segment of a type. -/
def theSeg (segs : List (SegEntry × List Byte)) (t : Nat) : Option (List Byte) :=
  (segs.find? fun p => p.1.typ == t).map Prod.snd

/-- A checked image: parameters, entry ports of index 0, and each segment's measurement and work in table order. -/
structure LoadPlan where
  params : Params
  entry : List Dest
  work : List (List Byte × SegWork)

/-- Segments in order, graphs numbered from g. -/
def planSegs (e : StreamEnv) (x : Ctx) (p : Params) : Nat → List (SegEntry × List Byte) → Option (List (List Byte × SegWork))
  | _, [] => some []
  | g, (h, d) :: t => do
    let w ←
      if h.typ = tPARAMS then some (SegWork.params p)
      else if h.typ = tSTREAM then (checkStream e d).map (SegWork.stream g)
      else if h.typ = tATTAR then some (.attar d)
      else if h.typ = tDESC then (parseDesc x.cr.descn d).map .desc
      else if h.typ = tDATA then some (.data h.addr d)
      else if h.typ = tHANDLERS then (parseHandlers d).map .handlers
      else some .nothing
    let r ← planSegs e x p (if h.typ = tSTREAM then g + 1 else g) t
    pure ((h.meas, w) :: r)

/-- Steps 3 and 4 of R74, apart from the pages of DATA segments. The image's own capabilities govern
(log entry 82). -/
def State.loadPlan (s : State) (x : Ctx) (segs : List (SegEntry × List Byte)) : Option LoadPlan := do
  let count (t : Nat) : Nat := (segs.filter fun p => p.1.typ == t).length
  let once := [tPARAMS, tDESC, tHANDLERS, tREMOTE, tATTAR].all fun t => decide (count t ≤ 1)
  if !once || !segs.all (fun p => sha384 p.2 == p.1.meas) then none
  else
    let p ← match theSeg segs tPARAMS with | some d => parseParams d | none => some Params.default
    let binds ← match theSeg segs tATTAR with | some d => parseAttar x p.caps d | none => some []
    let remote := match theSeg segs tREMOTE with | some d => s.remoteAgrees x p.caps d | none => true
    let entry ← entriesOf 0 segs
    let e : StreamEnv :=
      { region := x.cr.region, base := x.cr.pbase, count := x.cr.pcount, caps := p.caps, bind := fun n => look n binds }
    let work ← planSegs e x p 0 segs
    if x.admits p && remote && !entry.isEmpty then pure { params := p, entry := entry, work := work } else none

/-- The pages of a DATA segment, walked: mapped, neither W1 nor ZF, populated (R74 step 4); no capability is asked for (log
entry 90), and the first page that fails ends the walk (log entry 91). -/
def State.checkPages (asid : Nat) : List (Nat × Nat) → State → Fetched Unit
  | [], s => .ok s ()
  | (va, _) :: t, s =>
    match s.dispatchPage asid va true with
    | .wait _ => .bad s
    | .bad s1 => .bad s1
    | .ok s1 e => if e.attr.getLsbD 5 then .bad s1 else State.checkPages asid t s1

def State.checkData (asid : Nat) : List (List Byte × SegWork) → State → Fetched Unit
  | [], s => .ok s ()
  | (_, w) :: t, s =>
    match w with
    | .data a d =>
      match State.checkPages asid (pageParts a d.length) s with
      | .ok s1 _ => State.checkData asid t s1
      | .wait s1 => .wait s1
      | .bad s1 => .bad s1
    | _ => State.checkData asid t s

/-- Bytes stored as the accesses of a store at DEV scope, line by line (R281, R302). -/
def State.storeLines (s : State) (pa : Nat) (d : List Byte) : State :=
  (List.range ((pa % 256 + d.length + 255) / 256)).foldl (fun st k =>
    let lo := if k = 0 then 0 else 256 * k - pa % 256
    let hi := min d.length (256 * (k + 1) - pa % 256)
    let s1 := st.writeMem (pa + lo) ((d.drop lo).take (hi - lo))
    (if hi - lo = 256 then s1.clearPoison (pa + lo) else s1).retest (pa + lo)) s

/-- The same stores to a page of another device: requests, line by line (R298). -/
def State.askStores (s : State) (asid va pa : Nat) (d : List Byte) : State :=
  s.askPage asid pa va ((pa % 256 + d.length + 255) / 256) 0 none fun k =>
    let lo := if k = 0 then 0 else 256 * k - pa % 256
    let hi := min d.length (256 * (k + 1) - pa % 256)
    (lo, .store [(0, (d.drop lo).take (hi - lo))])

/-- A DATA segment's parts, written; false where a write faults. A page of another device or of the host needs no capability
(log entry 90). -/
def State.writeData (asid : Nat) : List (Nat × Nat) → List Byte → State → Bool × State
  | [], _, s => (true, s)
  | (va, n) :: t, d, s =>
    match s.dispatchPage asid va false with
    | .wait s1 | .bad s1 => (false, s1)
    | .ok s1 e =>
      let pa := e.addr va
      State.writeData asid t (d.drop n)
        (if s1.isRemote pa then s1.askStores asid va pa (d.take n) else s1.storeLines pa (d.take n))

/-- A descriptor table rewritten: zeros, then the entries named (R72). -/
def State.writeDescs (s : State) (x : Ctx) (l : List (Nat × List Byte)) : State :=
  l.foldl (fun st p => st.writeMem (x.cr.descbase + 64 * p.1) p.2) (s.zeroMem x.cr.descbase (64 * x.cr.descn))

/-- One segment applied; false where a DATA write faults. -/
def State.applySeg (s : State) (asid : Nat) (x : Ctx) : SegWork → Bool × State
  | .params p => (true, s.applyParams asid p)
  | .stream g ws => (true, s.applyStream asid x.active g ws)
  | .attar d => (true, s.writeMem x.cr.attarbase d)
  | .desc l => (true, s.writeDescs x l)
  | .data a d => State.writeData asid (pageParts a d.length) d s
  | .handlers l => (true, s.modCtx asid fun y => { y with par := { y.par with trapvec := l } })
  | .nothing => (true, s)

/-- Step 5 of R74: each segment's measurement extends the record, then the segment is applied. A line that another device
refuses later undoes none of it (log entry 92). -/
def State.applySegs (asid : Nat) (x : Ctx) : List (List Byte × SegWork) → State → Bool × State
  | [], s => (true, s)
  | (m, w) :: t, s =>
    match (s.measure asid m).applySeg asid x w with
    | (true, s1) => State.applySegs asid x t s1
    | (false, s1) => (false, s1)

/-- What an image leaves out behaves as a segment with no entries (R72, R253); the plane is cleared, and the context's
banks are freed. -/
def State.beforeLoad (s : State) (asid : Nat) (x : Ctx) (segs : List SegEntry) : State :=
  let has (t : Nat) : Bool := segs.any fun e => e.typ == t
  let s1 := s.clearPlane asid x.active
  let s2 := x.cr.region.foldl (fun st c =>
    st.modCell c fun d => { d with banks := d.banks.filter fun b => b.asid != asid }) s1
  let s3 := if has tPARAMS then s2 else s2.applyParams asid Params.default
  let s4 := if has tDESC then s3 else s3.writeDescs x []
  let s5 := if has tATTAR || decide (x.cr.attarsize < 5120) then s4 else s4.zeroMem x.cr.attarbase 5120
  if has tHANDLERS then s5 else s5.modCtx asid fun y => { y with par := { y.par with trapvec := [] } }

/-! ### Signatures and policy (R73, R75) -/

def keyId (key : List Byte) : List Byte := (sha384 key).take 8

/-- Both signatures verify under the virtual device's keys; reserved bytes are zero. -/
def verified (v : Vdev) (table sig : List Byte) : Bool :=
  bytesAt sig 0 8 == keyId (leBytes 32 v.edpub.toNat) && bytesAt sig 72 8 == keyId v.mlpub && numAt sig 3389 3 == 0 &&
    Config.edVerify v.edpub table (BitVec.ofNat 512 (numAt sig 8 64)) && Config.mlVerify v.mlpub table (bytesAt sig 80 3309)

/-! ### LAUNCH_APPLY (R150) -/

/-- The launch at the head of the queue ends with LOAD_REJECT. -/
def State.rejectLaunch (s : State) (asid : Nat) (l : LaunchReq) : State :=
  (s.modCtx asid fun x => { x with launches := x.launches.tail, planeOps := x.planeOps.filter (· != .launch) }).complete
    l.cmd 0x12 4 0

/-- Steps 4 and 5 of R150. -/
def State.startLaunch (s : State) (asid : Nat) (l : LaunchReq) (ds : List Dest) : State :=
  let s1 := s.modCtx asid fun x =>
    { x with launches := x.launches.tail, running := some l, pool := { x.pool with maxd := 0 }
             planeOps := x.planeOps.filter (· != .launch) }
  let b : Birth := { share := .root, depth := 0, parent := 0, pgen := 0, rettag := none, gsize := 0, rank := 0 }
  let s2 := s1.liveFrame asid 0 b
  match s2.ctx asid with
  | none => s2
  | some x => (s2.send (x.injector asid) (s2.childTag asid 0) (.scalar l.arg false false) ds).progress asid

/-- The image stands as loaded under an IMAGEID (R351). -/
def State.setImage (s : State) (asid : Nat) (id : BitVec 128) : State :=
  (s.modCtx asid fun y => { y with par := { y.par with imageid := id } }).publishRecord asid

/-- Requests of a load for lines of other devices' pages (R74). -/
def FarPage.ofLoad (asid : Nat) (p : FarPage) : Bool := p.asid == asid && p.leaf.isNone && !p.gone

/-- An image has been applied: its first token waits until every write to another device has been performed; one that has
been refused there, or is not answered within 2 ms, makes the launch a LOAD_REJECT (R74, R283, R328), with every segment applied (log entry 92). -/
def State.loaded (s : State) (asid : Nat) (l : LaunchReq) (id : BitVec 128) (ds : List Dest) : State :=
  let mine := s.farPages.filter (FarPage.ofLoad asid)
  if mine.any fun p => p.waits s.dev.time then
    s.modCtx asid fun x => { x with launches := { l with ports := some (id, ds) } :: x.launches.tail }
  else
    let s1 := s.giveUp (FarPage.ofLoad asid)
    if mine.any fun p => p.refused || p.timedOut then s1.rejectLaunch asid l
    else (s1.setImage asid id).startLaunch asid l ds

/-- Steps 3 to 5 of R74, each check ending the image at its first failure (log entry 91). UNSIGNED is set though the last step
fails (log entry 84). -/
def State.applyImage (s : State) (asid : Nat) (x : Ctx) (l : LaunchReq) (h : Header) : State :=
  match State.readSegs asid h.segs s with
  | .wait s1 => s1
  | .bad s1 => s1.rejectLaunch asid l
  | .ok s1 segs =>
    match s1.loadPlan x segs with
    | none => s1.rejectLaunch asid l
    | some p =>
      match State.checkData asid p.work s1 with
      | .wait s2 => s2
      | .bad s2 => s2.rejectLaunch asid l
      | .ok s2 _ =>
        let (done, s3) := State.applySegs asid x p.work (s2.beforeLoad asid x h.segs)
        let s4 := s3.modCtx asid fun y =>
          { y with par := { y.par with
              unsigned := y.par.unsigned || h.unsigned } }
        let s5 := s4.publishRecord asid
        if done then s5.loaded asid l (BitVec.ofNat 128 (leNat h.imageid)) p.entry
        else (s5.giveUp (FarPage.ofLoad asid)).rejectLaunch asid l

/-- The image is loaded (R150 step 3): the signatures, or the policy for an unsigned image, come before its segments are
read (R74 steps 2 and 3). -/
def State.loadImage (s : State) (asid : Nat) (x : Ctx) (l : LaunchReq) (table : List Byte) (h : Header) : State :=
  match look x.cr.vdev s.vdevs with
  | none => s.rejectLaunch asid l
  | some v =>
    match if h.unsigned then .ok s [] else s.readImage asid h.sigoff 3392 with
    | .wait s1 => s1
    | .bad s1 => s1.rejectLaunch asid l
    | .ok s1 sig =>
      if !(if h.unsigned then v.unsignedOk else verified v table sig) then s1.rejectLaunch asid l
      else s1.applyImage asid x l h

/-- Does the active plane hold every graph of the image last loaded, and is it this one (R150 step 2)? -/
def Ctx.resident (x : Ctx) (h : Header) : Bool :=
  x.par.nmeas != 0 && x.par.imageid == BitVec.ofNat 128 (leNat h.imageid) &&
    (List.range (h.segs.filter fun e => e.typ == tSTREAM).length).all fun g => (x.mask x.active).getLsbD g

/-- The oldest queued launch can be applied: frame 0 is FREE (R150), and its load, where it needs one, has not joined the
plane operations or is the first of them (R153). -/
def Ctx.launchReady (x : Ctx) : Bool :=
  !x.launches.isEmpty && (x.frame 0).st == .free && !x.cr.frozen && x.dry == .none &&
    (!x.planeOps.contains .launch || x.planeOps.head? == some .launch)

/-- The load joins the context's plane operations, unless it has (R153). -/
def Ctx.askLoad (x : Ctx) : Ctx :=
  if x.planeOps.contains .launch then x else { x with planeOps := x.planeOps ++ [.launch] }

/-- LAUNCH_APPLY: the oldest queued launch, once frame 0 is FREE. What loads an image waits for its turn among the plane
operations; of a resident image the ENTRY segment is read again (log entry 85). -/
def execLaunchApply (asid : Nat) (s : State) : Host.Outcome State Fault Refusal :=
  .next (match s.ctx asid with
    | none => s
    | some x =>
      match x.launches with
      | [] => s
      | l :: _ =>
        if !x.launchReady then s
        else if let some (id, ds) := l.ports then s.loaded asid { l with ports := none } id ds
        else
          match s.readHeader asid with
          | .wait s1 => s1
          | .bad s1 => s1.rejectLaunch asid l
          | .ok s1 (table, h) =>
            if !h.ok x.cr.imagesize then s1.rejectLaunch asid l
            else if x.resident h then
              match State.readSegs asid (h.segs.filter fun e => e.typ == tENTRY) s1 with
              | .wait s2 => s2
              | .bad s2 => s2.rejectLaunch asid l
              | .ok s2 segs =>
                match entriesOf 0 segs with
                | some (d :: ds) => s2.startLaunch asid l (d :: ds)
                | _ => s2.rejectLaunch asid l
            else
              let s2 := s1.modCtx asid Ctx.askLoad
              if x.askLoad.planeOps.head? == some .launch then s2.loadImage asid x l table h else s2)

end Sys2Proof.Machine
end

