-- ==== Sys2Proof/Machine/SystemOps.lean ====
section
/-! DEFINITION. Trap, debug and time instructions, codes 0xB0 to 0xB7 (R395 to R408), the dispatcher's decisions on
their requests, and the trace FIFO (R423 to R425). -/

namespace Sys2Proof.Machine

/-! ### Requests at the dispatcher of die 0 (R395) -/

/-- The firing is held until its request is decided. -/
def State.request (s : State) (f : Firing) (k : ReqKind) : State :=
  let s1 := s.hold f .request
  { s1 with reqs := s1.reqs ++ [{ kind := k, asid := f.asid, cell := f.cell, sid := f.sid, sent := false }] }

/-- The firing of a request, when it may commit. -/
def State.reqFiring (s : State) (r : Req) : Option Firing :=
  if (s.cell r.cell).mayCommit r.asid then (s.cell r.cell).heldFiring r.sid else none

/-- The n-th request, when it is of the kind, and its firing. -/
def State.reqAt (s : State) (n : Nat) (p : ReqKind → Bool) : Option (Req × Firing) :=
  match s.reqs[n]? with
  | some r => if p r.kind then (s.reqFiring r).map fun f => (r, f) else none
  | none => none

/-- The decision: the holder changes by pre, and the firing commits with it. A destination that freezes the virtual
device stops both. -/
def State.decideReq (s : State) (n : Nat) (f : Firing) (pre : State → State) (c : Commit) (more : State → State) : State :=
  if s.runsIn f && s.badRemote f c.outs then s.raiseRemote f (c.outs.flatMap f.dests)
  else (pre { s with reqs := s.reqs.eraseIdx n }).commitWith f c more

/-- A held firing that traps at its decision. -/
def State.refuseReq (s : State) (f : Firing) (t : Trap) : State := s.raise f t

/-- DEBUG in CAPS (R351). -/
def Env.debug (e : Env) : Bool := e.caps.getLsbD 0

/-! ### TRAP (R397) -/

def evalTrap (w : OpFields) (f : Firing) (e : Env) : Ex Commit := do
  checkKinds f (dataTile w) false false
  let _ ← outTag w f e
  .error (tSOFT (w.imm.toNat % 256))
def execTrap (w : OpFields) (s : State) : Host.Outcome State Fault Refusal := runOp s (evalTrap w)

/-! ### PARK (R398) -/

/-- The frame a PARK names, after its checks. -/
def parkTarget (x : Ctx) (f : Firing) (e : Env) : Ex (Nat × BitVec 4) := do
  let p ← frameOperand x f
  trapIf (!(p.1 == tagFrame f.tag && p.2 == tagGen f.tag) && !e.debug) (tACCESS 4 0)
  pure p

/-- PARK: the request goes to the dispatcher. -/
def doPark (_w : OpFields) (s : State) (f : Firing) : State :=
  match s.ctx f.asid with
  | none => s
  | some x =>
    match parkTarget x f (s.env f) with
    | .error t => s.raise f t
    | .ok _ => s.request f .park
def execPark (w : OpFields) (s : State) : Host.Outcome State Fault Refusal := runFiring s (doPark w s)

/-- The frame break is set at the dispatcher and broadcast. -/
def State.setBreak (s : State) (asid i : Nat) (g : BitVec 4) : State :=
  match s.ctx asid with
  | none => s
  | some x =>
    { s.setCtx asid { x with fbreaks := x.fbreaks.filter (· != (i, g.toNat)) ++ [(i, g.toNat)] } with
      bcasts := s.bcasts ++ [{ asid := asid, kind := .frameBreak i g.toNat, left := x.cr.region }] }

/-- PARK_DECIDED. -/
def execParkDecided (n : Nat) (s : State) : Host.Outcome State Fault Refusal :=
  .next (match s.reqAt n (· == .park) with
    | none => s
    | some (_, f) =>
      match s.ctx f.asid with
      | none => s
      | some x =>
        match frameOperand x f with
        | .error t => s.refuseReq f t
        | .ok (i, g) =>
          let fr := x.frame i
          let hit := (fr.st == .live || fr.st == .parked) && fr.gen == g
          s.decideReq n f id (Commit.ofRes f.tag [res0 (made f (if hit then 0 else 1))] 0)
            fun st => if hit then st.setBreak f.asid i g else st)

/-- FRAME_BREAK_ARRIVAL: the break stands on the cell, unless it has been cleared meanwhile, or the frame's end clears it. It
reaches a cell after the broadcast of an earlier BREAK of the frame, which clears that one's break and not this one (R398). -/
def execFrameBreakArrival (n cell : Nat) (s : State) : Host.Outcome State Fault Refusal :=
  .next (match s.bcasts[n]? with
    | some { asid, kind := .frameBreak fr gen, left } =>
      let earlier := (s.bcasts.take n).any fun b => b.asid == asid && b.left.contains cell &&
        match b.kind with | .park i g clear => clear && i == fr && g == gen | _ => false
      if !left.contains cell || earlier then s
      else
        let s1 := s.reached n cell
        let g := BitVec.ofNat 4 gen
        if ((s1.ctx asid).map fun x => x.fbreaks.contains (fr, gen)).getD false &&
            frameCurrent (s1.frameOf asid (frameTag g fr)) (frameTag g fr) then
          s1.modCell cell fun c => { c with fbreaks := c.fbreaks.filter (· != (asid, fr, gen)) ++ [(asid, fr, gen)] }
        else s1
    | _ => s)

/-! ### RESUME (R399, R400) -/

/-- Fields of the delivery word on port a. -/
def dwIndex (v : Word64) : Nat := (v.extractLsb' 0 16).toNat
def dwClass (v : Word64) : Nat := (v.extractLsb' 16 8).toNat
def dwFrame (v : Word64) : Nat := (v.extractLsb' 32 12).toNat
def dwGen (v : Word64) : BitVec 4 := v.extractLsb' 44 4

/-- What a RESUME asks for. -/
def resumeForm (w : OpFields) (f : Firing) : Resolve :=
  let sub (p : Port) : Option Val := (f.opnd p).map Opnd.val
  { form := if w.var = 0 then .redo else if w.var = 1 then .subst else .skip
    sub0 := if w.var = 1 then sub .b else none
    sub1 := if w.var = 1 then sub .c else none
    flags := if w.var = 1 then w.imm.extractLsb' 0 6 else 0
    nowatch := w.var == 0 && w.mod.getLsbD 0, home := f.cell }

/-- RESUME's own checks, and its output tag. -/
def resumeCheck (w : OpFields) (x : Ctx) (f : Firing) (e : Env) : Ex Tag := do
  checkKinds f false (dataTile w) (w.mod.getLsbD 1)
  trapIf ((f.word' .a).extractLsb' 51 13 != 0 || decide (x.cr.trapn ≤ dwIndex (f.word' .a))) tBAD_OPERAND
  checkPoison f .a 1
  outTag w f e

/-- RESUME. -/
def doResume (w : OpFields) (s : State) (f : Firing) : State :=
  match s.ctx f.asid with
  | none => s
  | some x =>
    match resumeCheck w x f (s.env f) with
    | .error t => s.raise f t
    | .ok _ => s.request f .resume
def execResume (w : OpFields) (s : State) : Host.Outcome State Fault Refusal := runFiring s (doResume w s)

/-- The open record a RESUME names: STATE 1, and frame, GEN and class as the word says (R400). -/
def State.resumeRec (s : State) (x : Ctx) (f : Firing) : Option TrapRec :=
  let v := f.word' .a
  (x.record (dwIndex v)).filter fun r =>
    r.st == .delivered && r.frame == dwFrame v && r.gen == dwGen v && r.trap.cls == dwClass v && s.recLive f.asid r

/-- RESUME_DECIDED. -/
def execResumeDecided (n : Nat) (s : State) : Host.Outcome State Fault Refusal :=
  .next (match s.reqAt n (· == .resume) with
    | none => s
    | some (_, f) =>
      match s.ctx f.asid, (decodeSlot f.word).bind opcodeOf with
      | some x, some (_, w) =>
        match resumeCheck w x f (s.env f) with
        | .error t => s.refuseReq f t
        | .ok tag =>
          let q := resumeForm w f
          match s.resumeRec x f with
          | none => s.decideReq n f id (Commit.ofRes tag [res0 (made f 1)] 0) id
          | some r =>
            s.decideReq n f id (Commit.ofRes tag [res0 (made f (BitVec.ofNat 64 (s.resolveStatus f.asid r q)))] 0)
              fun st => (st.resolve f.asid r q).2
      | _, _ => s)

/-! ### The trace FIFO (R423 to R425) -/

/-- A record's 32 bytes. -/
def traceRecord (time : Nat) (tag : Tag) (payload : Word64) (code cell slot kind : Nat) : List Byte :=
  leBytes 8 time ++ leBytes 8 tag.toNat ++ leBytes 8 payload.toNat ++ leBytes 2 code ++ leBytes 2 cell ++
    leBytes 2 slot ++ leBytes 1 kind ++ zeros 1

/-- One append, as a single access of the header's home: the record at index WR, or DROPS + 1 (R424). -/
def State.appendTrace (s : State) (asid : Nat) (rec : List Byte) : State :=
  match s.ctx asid with
  | none => s
  | some x =>
    let a := x.cr.tracebase
    let wr := s.readNat a 8
    let rd := s.readNat (a + 8) 8
    let cap := (x.cr.tracesize - 64) / 32
    if x.cr.tracesize < 64 then s
    else if rd ≤ wr ∧ wr < rd + cap then
      (s.homeWrite (a + 64 + 32 * (wr % cap)) rec).homeWrite a (leBytes 8 (wr + 1))
    else s.homeWrite (a + 16) (leBytes 8 (s.readNat (a + 16) 8 + 1))

/-- TRACE (R402): poison is refused before anything is written; port a's payload leaves unchanged. -/
def doTrace (w : OpFields) (s : State) (f : Firing) : State :=
  match evalOp w f (s.env f) (dataTile w, false, false) (checkPoison f .a 5) false (.ok ([passOn f .a false], [])) with
  | .error t => s.raise f t
  | .ok c =>
    s.commitWith f c fun st =>
      st.appendTrace f.asid (traceRecord st.ns f.tag (f.word' .a) (w.imm.toNat % 65536) f.cell f.slot
        (if dataTile w then 2 else 1))
def execTrace (w : OpFields) (s : State) : Host.Outcome State Fault Refusal := runFiring s (doTrace w s)

/-! ### Watch slots (R403, R405, R406) -/

/-- The slot word of IMM as a watch slot with its window. -/
def watchOf (w : OpFields) (f : Firing) : Watch :=
  { slot := Enc.immField w 0 3, kind := Enc.immField w 4 2, target := Enc.immField w 16 16, lo := f.word' .a, hi := f.word' .b }

/-- The BAD_OPERAND conditions of R403. -/
def State.watchBad (s : State) (x : Ctx) (asid : Nat) (v : Watch) : Bool :=
  let hi (y : Word64) : Nat := y.toNat / 2 ^ 32
  let lo (y : Word64) : Nat := y.toNat % 2 ^ 32
  decide (hi v.hi < hi v.lo) || decide (lo v.hi < lo v.lo) ||
    if v.kind = 2 then
      let c := v.target % 2048
      decide (63 < hi v.hi) || decide (63 < lo v.hi) || !isCompute c || !x.cr.region.contains c
    else
      match s.descAddr asid v.target with
      | some a => s.readNat (a + 28) 1 % 2 == 0
      | none => true

def watchCheck (w : OpFields) (s : State) (x : Ctx) (f : Firing) (e : Env) : Ex Tag := do
  checkKinds f false false false
  trapIf (s.watchBad x f.asid (watchOf w f)) tBAD_OPERAND
  trapIf (f.isPoisoned .a || f.isPoisoned .b) (tPOISON 1)
  let t ← outTag w f e
  trapIf (!e.debug) (tACCESS 4 0)
  pure t

/-- A poisoned line met in reading the V bit of the descriptor that a slot names (R389). -/
def State.noteWatch (s : State) (f : Firing) (v : Watch) : State :=
  match if v.kind = 2 then none else s.descAddr f.asid v.target with
  | some a => s.logArea f.asid (a + 28) 1 f.cell f.slot
  | none => s

/-- WATCH. -/
def doWatch (w : OpFields) (s : State) (f : Firing) : State :=
  match s.ctx f.asid with
  | none => s
  | some x =>
    let s1 := if (checkKinds f false false false).isOk then s.noteWatch f (watchOf w f) else s
    match watchCheck w s x f (s.env f) with
    | .error t => s1.raise f t
    | .ok _ => s1.request f .watch
def execWatch (w : OpFields) (s : State) : Host.Outcome State Fault Refusal := runFiring s (doWatch w s)

def unwatchCheck (w : OpFields) (f : Firing) (e : Env) : Ex Tag := do
  checkKinds f false false false
  let t ← outTag w f e
  trapIf (!e.debug) (tACCESS 4 0)
  pure t

/-- UNWATCH. -/
def doUnwatch (w : OpFields) (s : State) (f : Firing) : State :=
  match unwatchCheck w f (s.env f) with
  | .error t => s.raise f t
  | .ok _ => s.request f .unwatch
def execUnwatch (w : OpFields) (s : State) : Host.Outcome State Fault Refusal := runFiring s (doUnwatch w s)

/-- The dispatcher applies an arm or clears, and broadcasts them. -/
def State.armWatch (s : State) (asid : Nat) (slots : List Nat) (v : Option Watch) : State :=
  match s.ctx asid with
  | none => s
  | some x =>
    let kept := x.watch.filter fun y => !slots.contains y.slot
    { s.setCtx asid { x with watch := match v with | some y => kept ++ [y] | none => kept } with
      bcasts := s.bcasts ++ slots.map fun k => { asid := asid, kind := .watch k v, left := x.cr.region } }

/-- Is an arm or clear of one of the slots still on its way? -/
def State.armPending (s : State) (asid : Nat) (slots : List Nat) : Bool :=
  s.bcasts.any fun b => b.asid == asid && match b.kind with | .watch k _ => slots.contains k | _ => false

/-- A request to arm or clear: first the broadcast; once every cell has applied it, port a leaves. -/
def State.stepArm (s : State) (n : Nat) (r : Req) (f : Firing) (slots : List Nat) (v : Option Watch) (tag : Ex Tag) : State :=
  if !r.sent then (State.armWatch { s with reqs := s.reqs.set n { r with sent := true } } f.asid slots v)
  else if s.armPending f.asid slots then s
  else
    match tag with
    | .error t => s.refuseReq f t
    | .ok t => s.decideReq n f id (Commit.ofRes t [passOn f .a false] 0) id

/-- WATCH_ARM_APPLIED. -/
def execWatchArmApplied (n : Nat) (s : State) : Host.Outcome State Fault Refusal :=
  .next (match s.reqAt n (· == .watch) with
    | none => s
    | some (r, f) =>
      match (decodeSlot f.word).bind opcodeOf with
      | some (_, w) => s.stepArm n r f [Enc.immField w 0 3] (some (watchOf w f)) (outTag w f (s.env f))
      | none => s)

/-- Slots an UNWATCH clears. -/
def unwatchSlots (w : OpFields) : List Nat := if w.imm.getLsbD 3 then List.range 8 else [Enc.immField w 0 3]

/-- UNWATCH_APPLIED. -/
def execUnwatchApplied (n : Nat) (s : State) : Host.Outcome State Fault Refusal :=
  .next (match s.reqAt n (· == .unwatch) with
    | none => s
    | some (r, f) =>
      match (decodeSlot f.word).bind opcodeOf with
      | some (_, w) => s.stepArm n r f (unwatchSlots w) none (outTag w f (s.env f))
      | none => s)

/-- WATCH_ARM_ARRIVAL: a cell applies arms and clears of one slot in the dispatcher's order. -/
def execWatchArmArrival (n cell : Nat) (s : State) : Host.Outcome State Fault Refusal :=
  .next (match s.bcasts[n]? with
    | some { asid, kind := .watch k v, left } =>
      let earlier := (s.bcasts.take n).any fun b => b.asid == asid && b.left.contains cell &&
        match b.kind with | .watch j _ => j == k | _ => false
      if !left.contains cell || earlier then s
      else
        (s.reached n cell).modCell cell fun c =>
          let kept := c.watch.filter fun p => !(p.1 == asid && p.2.slot == k)
          { c with watch := match v with | some y => kept ++ [(asid, y)] | none => kept }
    | _ => s)

/-! ### FLAGS and TIME (R407, R408) -/

def flagsCheck (w : OpFields) (f : Firing) (e : Env) : Ex Tag := do
  checkKinds f false false false
  outTag w f e

/-- FLAGS: the request goes to the holder. -/
def doFlags (w : OpFields) (s : State) (f : Firing) : State :=
  match flagsCheck w f (s.env f) with
  | .error t => s.raise f t
  | .ok _ => s.request f .flags
def execFlags (w : OpFields) (s : State) : Host.Outcome State Fault Refusal := runFiring s (doFlags w s)

/-- HOMEFLAGS set to zero, in the state and in the context record. -/
def State.clearHomeFlags (s : State) (asid : Nat) : State :=
  match s.ctx asid with
  | none => s
  | some x => (s.setCtx asid { x with par := { x.par with homeflags := 0 } }).writeMem (x.cr.base + 236) [0]

/-- FLAGS_DECIDED: read, and cleared under CLR, in one action; a poisoned trigger sets PZ afterwards. -/
def execFlagsDecided (n : Nat) (s : State) : Host.Outcome State Fault Refusal :=
  .next (match s.reqAt n (· == .flags) with
    | none => s
    | some (_, f) =>
      match s.ctx f.asid, (decodeSlot f.word).bind opcodeOf with
      | some x, some (_, w) =>
        match flagsCheck w f (s.env f) with
        | .error t => s.refuseReq f t
        | .ok tag =>
          let fr := x.frame (tagFrame f.tag)
          let v := if w.var = 1 then x.par.homeflags else fr.flags
          let clear (st : State) : State :=
            if !w.mod.getLsbD 0 then st
            else if w.var = 1 then st.clearHomeFlags f.asid
            else st.setFrame f.asid (tagFrame f.tag) { fr with flags := 0 }
          s.decideReq n f clear (Commit.ofRes tag [res0 (made f (v.zeroExtend 64))] (f.pz [.a])) id
      | _, _ => s)

/-- TIME: device time in ns, or the cycle count, sampled at commit. -/
def evalTime (w : OpFields) (s : State) (f : Firing) (e : Env) : Ex Commit :=
  evalOp w f e (false, false, false) (.ok ()) false
    (.ok ([res0 (made f (BitVec.ofNat 64 (if w.var = 0 then s.ns else s.dev.cycles)))], [(0, f.pz [.a])]))
def execTime (w : OpFields) (s : State) : Host.Outcome State Fault Refusal := runOp s (evalTime w s)

end Sys2Proof.Machine
end

