-- ==== Sys2Proof/Machine/Planes.lean ====
section
/-! DEFINITION. Plane instructions LOADG, SWAPG, DRAIN and QUERY, the dispatcher's plane operations and the flip
(R151 to R159), and sweeps (R103). -/

namespace Sys2Proof.Machine

/-! ### Requests at the dispatcher of die 0 (R153) -/

/-- The cell and the set that asked for it. -/
def PlaneOp.at : PlaneOp → Option (Nat × Nat)
  | .loadg c i | .drain c i | .swapg c i | .residency c i | .flipping c i => some (c, i)
  | .launch => none

/-- The firing is held, and its request joins the context's plane operations. -/
def State.askPlane (s : State) (f : Firing) (o : PlaneOp) : State :=
  (s.hold f .request).modCtx f.asid fun x => { x with planeOps := x.planeOps ++ [o] }

/-- The operation at the head, and the firing that asked for it. -/
def State.planeHead (s : State) (asid : Nat) : Option (PlaneOp × Firing) :=
  (s.ctx asid).bind fun x => x.planeOps.head?.bind fun o => o.at.bind fun p =>
    ((s.cell p.1).heldFiring p.2).map fun f => (o, f)

/-- The operation at the head is finished. -/
def State.popPlane (s : State) (asid : Nat) : State := s.modCtx asid fun x => { x with planeOps := x.planeOps.tail }

/-- The firing commits with its operation's effect; a destination that freezes the virtual device stops both. -/
def State.decidePlane (s : State) (f : Firing) (pre : State → State) (c : Commit) (more : State → State) : State :=
  if s.runsIn f && s.badRemote f c.outs then s.raiseRemote f (c.outs.flatMap f.dests) else (pre (s.popPlane f.asid)).commitWith f c more

/-- Its fields and its output tag. -/
def State.planeWord (s : State) (f : Firing) : Option (OpFields × Ex Tag) :=
  ((decodeSlot f.word).bind opcodeOf).map fun p => (p.2, outTag p.2 f (s.env f))

/-! ### LOADG (R154) -/

/-- A trigger port's kind and the output tag, before the request leaves. A trigger is a scalar (log entry 72). -/
def askCheck (w : OpFields) (s : State) (f : Firing) (tile : Bool) : Ex Unit := do
  checkKinds f tile false false
  let _ ← outTag w f (s.env f)
  pure ()

def doLoadg (w : OpFields) (s : State) (f : Firing) : State :=
  match askCheck w s f false with
  | .error t => s.raise f t
  | .ok _ => s.askPlane f (.loadg f.cell f.sid)
def execLoadg (w : OpFields) (s : State) : Host.Outcome State Fault Refusal := runFiring s (doLoadg w s)

/-- The stream of segment i: a status, or the graph's number, its measurement and its writes. -/
def State.fetchStream (s : State) (asid i : Nat) : Fetched (Except Nat (Nat × List Byte × List SlotWrite)) :=
  match s.readHeader asid, s.ctx asid with
  | .wait s1, _ => .wait s1
  | .bad s1, _ => .ok s1 (.error 2)
  | .ok s1 (_, h), some x =>
    match h.segs[i]? with
    | none => .ok s1 (.error 1)
    | some e =>
      if e.typ != tSTREAM then .ok s1 (.error 1)
      else
        match s1.readImage asid e.off e.len with
        | .wait s2 => .wait s2
        | .bad s2 => .ok s2 (.error 2)
        | .ok s2 d =>
          if sha384 d != e.meas then .ok s2 (.error 2)
          else
            match checkStream (s2.streamEnv asid x) d with
            | none => .ok s2 (.error 3)
            | some ws => .ok s2 (.ok (((h.segs.take i).filter fun q => q.typ == tSTREAM).length, e.meas, ws))
  | .ok s1 _, none => .bad s1

/-- The status word, and what a good stream does. -/
def State.loadgEnd (s : State) (f : Firing) (active : Bool) (tag : Tag) (r : Except Nat (Nat × List Byte × List SlotWrite)) :
    State :=
  let status := match r with | .error n => n | .ok _ => 0
  let load (st : State) : State :=
    match r with
    | .error _ => st
    | .ok (g, m, ws) => (st.measure f.asid m).applyStream f.asid (!active) g ws
  s.decidePlane f load (Commit.ofRes tag [res0 (made f (BitVec.ofNat 64 status))] (f.pz [.a])) id

/-- LOADG_APPLY. -/
def execLoadgApply (asid : Nat) (s : State) : Host.Outcome State Fault Refusal :=
  .next (match s.planeHead asid, s.ctx asid with
    | some (.loadg _ _, f), some x =>
      match s.planeWord f with
      | none => s
      | some (_, .error t) => s.raise f t
      | some (w, .ok tag) =>
        match s.fetchStream asid (w.imm.toNat % 256) with
        | .wait s1 | .bad s1 => s1
        | .ok s1 r => s1.loadgEnd f x.active tag r
    | _, _ => s)

/-! ### Quiescence (R155) -/

/-- A pending DRAIN's or SWAPG's set. -/
def Ctx.waitsQuiet (x : Ctx) (cell sid : Nat) : Bool :=
  x.planeOps.any fun o => match o with
    | .drain c i | .swapg c i => c == cell && i == sid
    | _ => false

/-- A token of the context that a cell of the device has sent. -/
def Token.inside (t : Token) (asid : Nat) : Bool := t.asid == asid && !t.remote && !t.inj

/-- A packet that waits for a lookup: a refill in progress (R80). -/
def Held.lookup (h : Held) (asid : Nat) : Bool := h.why == .lookup && h.flight.toks.any fun t => t.asid == asid

/-- A flip of the context that has not reached every cell (R157). -/
def State.flipPending (s : State) (asid : Nat) : Bool :=
  s.bcasts.any fun b => b.asid == asid && !b.left.isEmpty && match b.kind with | .flip _ => true | _ => false

/-- Is the context's region quiescent (R155)? -/
def State.quiet (s : State) (asid : Nat) : Bool :=
  match s.ctx asid with
  | none => false
  | some x =>
    x.cr.region.all (fun c =>
      let k := s.cell c
      k.sets.all (fun f => f.asid != asid || x.waitsQuiet c f.sid) && k.banks.all (fun b => b.asid != asid || b.st != .loading) &&
        k.input.all fun h => !h.lookup asid && h.flight.toks.all fun t => !t.inside asid) &&
      s.net.all (fun f => f.toks.all fun t => !t.inside asid) &&
      s.memops.all (fun o => o.firing.asid != asid || o.origin.isSome || o.phase == .abandoned) &&
      s.walks.all (fun w => w.asid != asid) && s.fills.all (fun z => z.asid != asid) &&
      !s.asking asid && x.launches.all (fun l => l.ports.isNone) &&
      s.reqs.all (fun r => r.asid != asid) && !s.flipPending asid &&
      x.planeOps.all fun o => !o.works

/-- Unformed matching entries, resident and spilled (R156). -/
def State.unformed (s : State) (asid : Nat) : Nat :=
  ((s.residentEntries asid).filter fun p => !p.2.parked).length +
    ((s.ctx asid).map fun x => (x.ways.filter fun w => !w.entry.parked).length).getD 0
/-- Tokens in the park area, and those marked parked on their cells or spilled (R156, R381). -/
def State.parkedCount (s : State) (asid : Nat) : Nat :=
  ((s.ctx asid).map fun x => x.parked.length + (x.ways.filter fun w => w.entry.parked).length).getD 0 +
    ((s.residentEntries asid).filter fun p => p.2.parked).length

/-! ### DRAIN (R156) -/

def doDrain (w : OpFields) (s : State) (f : Firing) : State :=
  match askCheck w s f false with
  | .error t => s.raise f t
  | .ok _ => s.askPlane f (.drain f.cell f.sid)
def execDrain (w : OpFields) (s : State) : Host.Outcome State Fault Refusal := runFiring s (doDrain w s)

/-- PARKED and UNFORMED in one word. -/
def State.drainWord (s : State) (asid : Nat) : Word64 :=
  BitVec.ofNat 32 (s.parkedCount asid) ++ BitVec.ofNat 32 (s.unformed asid)

/-- A drydown of the context has begun: what waits is saved, and asks again (R411, R412). -/
def State.drying (s : State) (asid : Nat) : Bool := (s.ctx asid).any fun x => x.dry != .none

/-- DRAIN_QUIESCENT. -/
def execDrainQuiescent (asid : Nat) (s : State) : Host.Outcome State Fault Refusal :=
  .next (match s.planeHead asid with
    | some (.drain _ _, f) =>
      if !s.quiet asid || s.drying asid then s
      else
        match s.planeWord f with
        | none => s
        | some (_, .error t) => s.raise f t
        | some (_, .ok tag) =>
          s.decidePlane f id (Commit.ofRes tag [res0 (made f (s.drainWord asid))] (f.pz [.a])) id
    | _ => s)

/-! ### SWAPG (R157) -/

def doSwapg (w : OpFields) (s : State) (f : Firing) : State :=
  match askCheck w s f (dataTile w) with
  | .error t => s.raise f t
  | .ok _ => s.askPlane f (.swapg f.cell f.sid)
def execSwapg (w : OpFields) (s : State) : Host.Outcome State Fault Refusal := runFiring s (doSwapg w s)

/-- The park area emptied by a purge; PURGED rises by its entries. -/
def State.purgePark (s : State) (asid : Nat) : State :=
  match s.ctx asid with
  | none => s
  | some x =>
    let s1 := x.parked.foldl (fun st w => st.writeMem (x.parkAddr w.idx) (zeros 64))
      (s.setCtx asid { x with parked := [] })
    let s2 := (x.parked.filterMap Stored.block).foldl (fun st b => st.releaseBlock asid b) s1
    (s2.publishPark asid).countPurged asid x.parked.length

/-- The unformed tokens of a context on one cell, resident and spilled, removed by a purge; PURGED rises by their
number. -/
def State.purgeCell (s : State) (asid cell : Nat) : State :=
  let es := (s.cell cell).entries.filter fun e => e.tok.asid == asid
  let ws := ((s.ctx asid).map fun x => x.ways.filter fun w => w.cell == cell).getD []
  let s1 := s.modCell cell fun c => { c with entries := c.entries.filter fun e => e.tok.asid != asid }
  let s2 := ws.foldl (fun st w => st.freeWayAt asid w.idx) s1
  let s3 := (ws.filterMap Stored.block ++ es.filterMap Entry.block).foldl (fun st b => st.releaseBlock asid b) s2
  (s3.gcTiles cell).countPurged asid (es.length + ws.length)

/-- One cell's active-plane bit and cgen for a context, flipped; sets that its waiting tokens complete now form. -/
def State.flipCell (s : State) (asid cell : Nat) : State :=
  s.modCell cell fun c => Cell.formAll
    { c with parts := c.parts.map fun p =>
        if p.asid == asid then { p with active := !p.active, cgen := p.cgen + 1 } else p } s.dev.cycles asid

/-- A SWAPG decided: the purge and the flip begin at the dispatcher and are broadcast to every cell of the region, and the
firing waits until they have reached them all (R157, R473). -/
def State.flip (s : State) (f : Firing) (purge : Bool) : State :=
  match s.ctx f.asid with
  | none => s
  | some x =>
    let s1 := s.setCtx f.asid
      { x with active := !x.active, cgen := x.cgen + 1, purgeWindow := purge
               planeOps := .flipping f.cell f.sid :: x.planeOps.tail }
    let s2 := if purge then s1.purgePark f.asid else s1
    let s3 : State :=
      { s2 with bcasts := s2.bcasts ++ [{ asid := f.asid, kind := .flip purge, left := x.cr.region }] }
    s3.modCell f.cell fun c => c.modSet f.sid fun q => { q with hold := some .flipping }

/-- SWAPG at the head of the plane operations: once the region is quiescent it is decided. -/
def decideSwapg (s : State) (f : Firing) : State :=
  match s.planeWord f with
  | none => s
  | some (_, .error t) => s.raise f t
  | some (w, .ok tag) =>
    let purge := w.mod.getLsbD 0
    if s.unformed f.asid + s.parkedCount f.asid != 0 && !purge then s.raise f (trapOf 0x08 1)
    else if s.runsIn f && s.badRemote f (Commit.ofRes tag [passOn f .a false] 0).outs then
      s.raiseRemote f (f.outs0 ++ f.outs1)
    else s.flip f purge

/-- A decided SWAPG whose flip has reached every cell emits its payload with the new generation. -/
def endSwapg (s : State) (f : Firing) : State :=
  match s.planeWord f with
  | some (_, .ok tag) => s.decidePlane f id (Commit.ofRes tag [passOn f .a false] 0) id
  | _ => s

/-- SWAPG_FLIP. -/
def execSwapgFlip (asid : Nat) (s : State) : Host.Outcome State Fault Refusal :=
  .next (match (s.ctx asid).bind fun x => x.planeOps.head?, s.planeHead asid with
    | some (.swapg _ _), some (_, f) => if !s.quiet asid || s.drying asid then s else decideSwapg s f
    | some (.flipping _ _), some (_, f) => if s.flipPending asid then s else endSwapg s f
    -- its firing is gone with its frame
    | some (.flipping c i), none =>
      if s.flipPending asid || ((s.cell c).findSet i).isSome then s else s.popPlane asid
    | _, _ => s)

/-- A set that a token has completed since the region was quiescent fires before its cell flips, since nothing fires from a
shadow plane (R147, R158, log entry 76); where the drydown's stop has reached the cell it fires no more, unless it has
started. -/
def Cell.flipWaits (c : Cell) (asid : Nat) : Bool :=
  c.sets.any fun f => f.asid == asid && (f.walking || !c.stops.contains asid && f.hold.isNone && f.snap.isNone)

/-- What such sets have issued is performed before their cell flips (R291). What only a program can answer holds the flip no
more once a drydown has begun, which keeps it at its home (R411, log entry 76). -/
def State.flipHeld (s : State) (asid cell : Nat) : Bool :=
  (s.cell cell).flipWaits asid || s.memops.any fun o =>
    o.firing.asid == asid && o.firing.cell == cell && o.origin.isNone && o.phase != .abandoned &&
      !(o.listed && o.phase != .accepting && s.drying asid)

/-- Every cell that a flip still has to reach is held (R94): nothing is under way. -/
def State.flipStuck (s : State) (asid : Nat) : Bool :=
  s.bcasts.any fun b => b.asid == asid && (match b.kind with | .flip _ => true | _ => false) && !b.left.isEmpty &&
    b.left.all (s.flipHeld asid)

/-- PLANE_FLIP_ARRIVAL: a cell drops what a purge removes and flips. -/
def execPlaneFlipArrival (n cell : Nat) (s : State) : Host.Outcome State Fault Refusal :=
  .next (match s.bcasts[n]? with
    | some { asid, kind := .flip purge, left } =>
      if !left.contains cell || s.flipHeld asid cell then s
      else
        let s1 := s.reached n cell
        (if purge then s1.purgeCell asid cell else s1).flipCell asid cell
    | _ => s)

/-! ### Residency (R151) -/

/-- The SPAWN of a refused residency raises BAD_OPERAND; the end of its wait gives the frame back. -/
def State.failResidency (s : State) (f : Firing) : State := s.raise f tBAD_OPERAND

/-- Graph k made resident in the active plane, unless it is: the writes still to be applied, or none where it fails.
It may have become resident since the SPAWN was held (log entry 81). -/
def State.fetchGraph (s : State) (asid k : Nat) : Fetched (Option (List SlotWrite)) :=
  match s.readHeader asid, s.ctx asid with
  | .wait s1, _ => .wait s1
  | .bad s1, _ => .bad s1
  | .ok s1 _, none => .bad s1
  | .ok s1 (_, h), some x =>
    match (h.segs.filter fun e => e.typ == tSTREAM)[k]? with
    | none => .bad s1
    | some e =>
      if (x.mask x.active).getLsbD k then .ok s1 none
      else
        match s1.readImage asid e.off e.len with
        | .wait s2 => .wait s2
        | .bad s2 => .bad s2
        | .ok s2 d =>
          match checkStream (s2.streamEnv asid x) d with
          | none => .bad s2
          | some ws =>
            if ws.all fun w => ((s2.cell w.cell).opSlot x.active w.slot).word == 0 then .ok s2 (some ws)
            else .bad s2

/-- RESIDENCY_APPLY_DONE: the graph is applied, and the held SPAWN commits; or it raises BAD_OPERAND. -/
def execResidencyApplyDone (asid : Nat) (s : State) : Host.Outcome State Fault Refusal :=
  .next (match s.planeHead asid, s.ctx asid with
    | some (.residency c i, f), some x =>
      match (s.cell c).heldChild i with
      | some child =>
        match s.fetchGraph asid (entryOf f) with
        | .wait s1 => s1
        | .bad s1 => s1.failResidency f
        | .ok s1 ws =>
          match s1.entryPorts asid (entryOf f) with
          | .wait s2 => s2
          | .bad s2 => s2.failResidency f
          | .ok s2 ds =>
            if s2.runsIn f && s2.badDests asid f.outs0 then s2.raiseRemote f f.outs0
            else
              let s3 := match ws with
                | some l => s2.applyStream asid x.active (entryOf f) l
                | none => s2
              spawnCommit (s3.popPlane asid) { f with outs0 := f.outs0 ++ ds } child
      | _ => s
    | _, _ => s)

/-! ### QUERY (R159) -/

/-- Index 1 leaves out what an open trap record holds (log entry 80). -/
def State.queryCell (s : State) (f : Firing) (i c : Nat) : Option Nat :=
  let k := s.cell c
  match i with
  | 0 => some k.arrivals.toNat
  | 1 => some ((k.entries.filter fun e => e.tok.asid == f.asid).length +
      ((k.sets.filter fun x => x.asid == f.asid).map fun x => x.args.length).sum)
  | 2 => some (((s.ctx f.asid).map fun x => (x.ways.filter fun w => w.cell == c).length).getD 0)
  | 3 => some k.freeLines
  | 4 => some (k.loops.filter fun l => l.asid == f.asid).length
  | 5 => some ((look f.asid k.fired).getD 0)
  | _ => none

def queryRegion (x : Ctx) (i : Nat) : Option Nat :=
  if i = 0 then some x.cr.region.length
  else if i = 1 then some (x.cgen.toNat + if x.active then 16 else 0)
  else if 0x10 ≤ i ∧ i ≤ 0x13 then some ((x.mask x.active).toNat / 2 ^ (64 * (i - 0x10)) % 2 ^ 64)
  else if i = 0x20 then some (x.wdog / 42)
  else none

def queryContext (x : Ctx) (i : Nat) : Option Nat :=
  match i with
  | 0 => some x.fired
  | 1 => some x.pool.orphans.toNat
  | 2 => some x.pool.sweeps.toNat
  | 3 => some (x.pool.peak % 65536 + x.pool.maxd % 16 * 2 ^ 16 + x.pool.gfree % 65536 * 2 ^ 32)
  | 4 => some x.par.purged.toNat
  | 5 => some x.ways.length
  | _ => none

/-- The counter, with the flags its read sets: BAD_OPERAND first, then poison (R376). A scope of 3 to 15 is BAD_OPERAND as
an index that is not listed is (log entry 79). -/
def evalQuery (w : OpFields) (s : State) (f : Firing) (e : Env) : Ex Commit :=
  match s.ctx f.asid with
  | none => .error tBAD_OPERAND
  | some x =>
    let scope := Enc.immField w 12 4
    let i := Enc.immField w 0 12
    let a := (f.word' .a).toNat
    let v := if scope = 0 then (if 2048 ≤ a || !x.cr.region.contains a then none else s.queryCell f i a)
      else if scope = 1 then queryRegion x i else if scope = 2 then queryContext x i else none
    match v with
    | none => do
      checkKinds f false false false
      .error tBAD_OPERAND
    | some n =>
      evalOp w f e (false, false, false) (if scope = 0 then checkPoison f .a 1 else .ok ()) false
        (.ok ([res0 (made f (trunc w.fmt (BitVec.ofNat 64 n)))], [(0, if scope = 0 then 0 else f.pz [.a])]))
def execQuery (w : OpFields) (s : State) : Host.Outcome State Fault Refusal := runOp s (evalQuery w s)

/-! ### Sweeps (R103) -/

/-- A running firing: walks are awaited (R300); or its homes' replies, and its operation is alive; or its flip is on its
way. -/
def State.stillRuns (s : State) (f : FSet) : Bool :=
  f.walking || match f.hold with
    | some (.accept id) => ((s.op id).map fun o => o.phase == .accepting).getD false
    | some .flipping => true
    | _ => false

/-- What homes hold for a frame, on the homes a predicate picks: WAITV registrations and deferred ITAKEs, and a word
whose list this empties returns to empty; keys of ARED. -/
def State.sweepHomes (s : State) (asid fr : Nat) (gen : BitVec 4) (here : Nat → Bool) : State :=
  let mine (o : MemOp) : Bool :=
    o.listed && o.origin.isNone && o.firing.asid == asid && tagFrame o.firing.tag == fr && tagGen o.firing.tag == gen &&
      (o.accs.head?.map fun a => !s.isRemote a.pa && here (homeCell a.pa)).getD false
  let gone := s.memops.filter mine
  let s1 := gone.foldl (fun st o =>
    let st1 := match o.arena with | some e => st.freeArena e | none => st
    -- a set that still waits for its home's reply keeps its operation, whose token will be an orphan
    if o.phase == .accepting then st1.modOp o.id fun p => { p with listed := false, arena := none }
    else st1.dropOp o.id) s
  let takes (o : MemOp) (k : Nat) : Bool := (match o.kind with | .itake => true | _ => false) &&
    o.accs.any fun a => memKey a.pa == k
  let s2 := s1.clearWords fun k =>
    look k s1.w1 == some .deferred && gone.any (takes · k) && !s1.memops.any fun o => o.listed && takes o k
  match s2.ctx asid with
  | none => s2
  | some x =>
    let base := memKey x.cr.arenabase
    -- every listed byte that is the KIND of a key of the frame
    let kinds := s2.mem.filter fun p => decide (base ≤ p.1) && decide (p.1 < base + x.cr.arenasize) &&
      (p.1 - base) % 32 == 28 && p.2 == 3
    kinds.foldl (fun st p =>
      let e := p.1 - 28
      let t : Tag := BitVec.ofNat 64 (leNat (Memory.read st.mem (e + 8) 8))
      let slice := (e - base) / (x.cr.arenasize / 1024)
      if tagFrame t == fr && tagGen t == gen && here (homeAt slice)
      then { st with mem := Memory.write st.mem e (zeros 32) } else st) s2

/-- A sweep on one cell and on its home. -/
def State.sweepCell (s : State) (asid fr : Nat) (gen : BitVec 4) (cell : Nat) : State :=
  let gone := (s.cell cell).sets.filter fun f => f.ofFrame asid fr gen && !s.stillRuns f
  let s1 := gone.foldl (fun st f => st.cancelWait asid cell f.sid) s
  let old := (s.cell cell).entries.filter fun e => e.ofFrame asid fr gen
  let s2 := s1.modCell cell fun c =>
    { c with
      sets := c.sets.filter fun f => !gone.any fun g => g.sid == f.sid
      entries := c.entries.filter fun e => !e.ofFrame asid fr gen
      loops := c.loops.filter fun l => !(l.asid == asid && tagFrame l.base == fr && tagGen l.base == gen)
      accs := c.accs.map fun p =>
        if p.2.owner == some (fr, gen.toNat, asid) then (p.1, { p.2 with owner := none, step := p.2.step + 1 }) else p
      fbreaks := c.fbreaks.filter (· != (asid, fr, gen.toNat)) }
  let ws := ((s2.ctx asid).map fun x => x.ways.filter fun w => w.cell == cell && w.entry.ofFrame asid fr gen).getD []
  let s3 := ws.foldl (fun st w => st.freeWayAt asid w.idx) s2
  -- blocks of tiles that are named no more
  let blocks := ws.filterMap Stored.block ++ (old ++ gone.flatMap FSet.args).filterMap Entry.block
  let s3 := blocks.foldl (fun st b => st.releaseBlock asid b) s3
  let s4 := (s3.sweepHomes asid fr gen (· == cell)).gcTiles cell
  { s4 with due := s4.due ++ [.event (.heldLenterGrant cell)] }

/-- SWEEP_BROADCAST_ARRIVAL: a cell of the region is swept, and any other as a home alone. -/
def execSweepBroadcastArrival (n cell : Nat) (s : State) : Host.Outcome State Fault Refusal :=
  .next (match s.bcasts[n]? with
    | some { asid, kind := .sweep fr gen, left } =>
      if !left.contains cell || s.away asid then s
      else
        let s1 := s.reached n cell
        if (s1.region asid).contains cell then s1.sweepCell asid fr (BitVec.ofNat 4 gen) cell
        else s1.sweepHomes asid fr (BitVec.ofNat 4 gen) (· == cell)
    | _ => s)

/-- Does a token of the old generation still travel in the region? -/
def State.sweeping (s : State) (asid fr : Nat) (gen : BitVec 4) : Bool :=
  let mine (t : Token) : Bool := t.asid == asid && !t.remote && tagFrame t.tag == fr && tagGen t.tag == gen
  s.bcasts.any (fun b => b.asid == asid && b.kind == .sweep fr gen.toNat) || s.net.any (fun f => f.toks.any mine) ||
    (s.region asid).any fun c => (s.cell c).input.any fun h => h.flight.toks.any mine

/-- Is a handler frame LIVE that still has something to do of its own accord (R452)? -/
def State.handlerActs (s : State) (asid : Nat) (x : Ctx) : Bool :=
  x.frames.any fun q => q.2.src == .handler && q.2.st == .live && s.frameActs asid q.1 q.2.gen fun _ _ => true

/-- SWEEP_COMPLETE (R102, R103): every cell and home has acted; the frame is FREE with the next GEN, and
waiting requests are served. The end of frame 0's sweep completes the launch; it comes after the sweeps of the frames
that ended before it, and after what a handler frame still does (R345 to R347, R452, log entry 67). What the entry says beside its state stays (log entry 67). -/
def execSweepComplete (asid frame : Nat) (s : State) : Host.Outcome State Fault Refusal :=
  .next (match s.ctx asid with
    | none => s
    | some x =>
      match x.sweeps.find? fun w => w.frame == frame with
      | none => s
      | some w =>
        if s.sweeping asid frame w.gen || (frame == 0 && (x.sweeps.any (fun v => v.frame != 0) || s.handlerActs asid x)) then s
        else
          let f := x.frame frame
          let s2 := s.unallocFrame asid frame
          let s3 := s2.setFrame asid frame { f with st := .free, gen := f.gen + 1, flags := 0, record := none }
          let s4 := (s3.modPool asid fun p => { p with sweeps := p.sweeps + 1 }).modCtx asid fun y =>
            { y with sweeps := y.sweeps.filter fun v => v.frame != frame
                     fbreaks := y.fbreaks.filter fun b => b.1 != frame
                     running := if frame = 0 then none else y.running }
          match if frame = 0 then x.running else none with
          | some l => (s4.complete l.cmd 0x12 0 (f.flags.zeroExtend 64)).progress asid
          | none => s4.progress asid)

end Sys2Proof.Machine
end

