-- ==== Sys2Proof/Machine/Drydown.lean ====
section
/-! DEFINITION. Drydown and time slices (R411 to R420), and the sillage walk and break bits (R428 to R430). -/

namespace Sys2Proof.Machine

/-! ### Sillage (R428, R429) -/

/-- A record of a walk: a step, or its end with a reason at a cell and slot. -/
def sillageStep (s : State) (w : SillageWalk) (k : Nat) (fr : FireRec) (cell : Nat) : List Byte :=
  traceRecord s.ns fr.tag
    (BitVec.ofNat 64 (w.id + k * 2 ^ 16 + portCode fr.lport * 2 ^ 24 + fr.ctime.toNat * 2 ^ 32)) (if w.ambig then 256 else 0)
    cell fr.slot 0x10
def sillageEnd (s : State) (w : SillageWalk) (k reason cell slot : Nat) : List Byte :=
  traceRecord s.ns 0 (BitVec.ofNat 64 (w.id + k * 2 ^ 16)) reason cell slot 0x11

/-- The records of a cell's ring that a token's producer fields match, oldest first (R429). -/
def Cell.producers (c : Cell) (asid slot : Nat) (time : BitVec 16) : List FireRec :=
  c.records.filter fun r => r.asid == asid && r.slot == slot && r.ctime == time

/-- One step of a walk: its step record, and the record it goes on with, or its end. -/
def State.walkStep (s : State) (asid : Nat) (w : SillageWalk) : State × Option SillageWalk :=
  let fr := w.fr
  let s1 := s.appendTrace asid (sillageStep s w w.step fr w.cell)
  let k := w.step + 1
  let stop (reason : Nat) : State × Option SillageWalk :=
    (s1.appendTrace asid (sillageEnd s1 w k reason fr.pcell fr.pslot), none)
  if w.depth ≤ k then stop 1
  else if fr.inj then stop 3
  else if fr.remote then stop 4
  else
    match (s1.cell fr.pcell).producers asid fr.pslot fr.ptime with
    | [] => stop 2
    | m :: ms => (s1, some { w with step := k, cell := fr.pcell, fr := ms.getLastD m, ambig := !ms.isEmpty })

/-- The walks of every context, in order: context and place. -/
def State.allWalks (s : State) : List (Nat × Nat × SillageWalk) :=
  s.ctxs.flatMap fun p => p.2.walks.zipIdx.map fun q => (p.1, q.2, q.1)

/-- SILLAGE_WALK_STEP: one step of the n-th walk in flight. -/
def execSillageWalkStep (n : Nat) (s : State) : Host.Outcome State Fault Refusal :=
  .next (match s.allWalks[n]? with
    | none => s
    | some (asid, i, w) =>
      let (s1, r) := s.walkStep asid w
      s1.modCtx asid fun x => { x with walks := match r with
        | some v => x.walks.set i v
        | none => x.walks.eraseIdx i })

/-- A stop of the context abandons its walks, each with end reason 5 at the place its record names. -/
def State.abandonWalks (s : State) (asid : Nat) : State :=
  match s.ctx asid with
  | none => s
  | some x =>
    let s1 := x.walks.foldl (fun st w => st.appendTrace asid (sillageEnd st w w.step 5 w.fr.pcell w.fr.pslot)) s
    s1.modCtx asid fun y => { y with walks := [] }

/-! ### Break bits (R430) -/

/-- BREAK_BIT_APPLIED: a change reaches its cell; changes of one bit are applied in order. -/
def execBreakBitApplied (n cell : Nat) (s : State) : Host.Outcome State Fault Refusal :=
  .next (match s.bcasts[n]? with
    | some { asid, kind := .breakBit c slot set cmd, left } =>
      let earlier := (s.bcasts.take n).any fun b => b.asid == asid && match b.kind with
        | .breakBit d k _ _ => d == c && k == slot
        | _ => false
      if !left.contains cell || earlier || s.away asid then s
      else
        ((s.reached n cell).modCell cell fun x =>
          { x with breaks := if set then insertNat slot x.breaks else x.breaks.filter (· != slot) }).complete cmd 0x17 0 0
    | _ => s)

/-! ### The drydown header (R415) -/

/-- Address of a field of the header, in block 0. -/
def Ctx.dryAddr (x : Ctx) (off : Nat) : Nat := x.blockAddr 0 + 24576 + off

/-- DSTATE; nothing when the spill area has no block. -/
def State.setDstate (s : State) (asid v : Nat) : State :=
  match s.ctx asid with
  | none => s
  | some x => if x.nblocks = 0 then s else s.writeMem (x.dryAddr 0) (leBytes 1 v)

/-- A watch slot's slot word (R403). -/
def Watch.slotWord (w : Watch) : Nat := w.slot + w.kind * 16 + w.target * 65536

/-- The whole header of a save that has ended or stands at the state given. -/
def State.writeDryHeader (s : State) (asid dstate tsaved : Nat) (ntok nblk dirblk : Nat) : State :=
  match s.ctx asid with
  | none => s
  | some x =>
    if x.nblocks = 0 then s
    else
      let head := leBytes 1 dstate ++ leBytes 1 x.dryReason ++ leBytes 2 x.image.length ++ leBytes 4 dirblk ++
        leBytes 4 (x.inBlocks.headD 0) ++ leBytes 4 x.inbox.length ++ leBytes 8 x.tstop ++ leBytes 8 tsaved ++ leBytes 4 ntok ++
        leBytes 4 nblk ++ leBytes 8 x.seqno ++ zeros 16
      let slots := (List.range 8).flatMap fun k =>
        match x.watch.find? (fun w => w.slot == k) with
        | some w => leBytes 4 w.slotWord ++ leBytes 4 1 ++ leBytes 8 w.lo.toNat ++ leBytes 8 w.hi.toNat
        | none => zeros 24
      let s1 := (s.zeroMem (x.dryAddr 0) 8192).writeMem (x.dryAddr 0) (head ++ slots)
      let s2 := x.fbreaks.foldl (fun st b =>
        let a := x.dryAddr (256 + b.1 / 8)
        st.writeMem a [(st.readMem a 1).getD 0 0 ||| (1#8 <<< (b.1 % 8))]) s1
      x.frames.foldl (fun st p => st.writeMem (x.dryAddr (1024 + p.1)) (leBytes 1 p.2.flags.toNat)) s2

/-! ### Stop (R411 step 1) -/

/-- The stop is broadcast; walks are abandoned. -/
def State.startDrydown (s : State) (asid reason : Nat) : State :=
  match s.ctx asid with
  | none => s
  | some x =>
    let s1 := s.setCtx asid { x with dry := .stopping, dryReason := reason, tstop := s.ns }
    let s2 : State :=
      { s1 with bcasts := s1.bcasts ++ [{ asid := asid, kind := .stop, left := x.cr.region }] }
    ((s2.setDstate asid 1).writeMem (x.dryAddr 1) (leBytes 1 reason)).abandonWalks asid

/-! ### Restoring (R418) -/

/-- The cell as a context's image finds it: scrubbed first when another virtual device had it (R357). -/
def Cell.passTo (c : Cell) (vdev : Nat) : Cell :=
  if c.vdev == some vdev then c else { Cell.scrubbed with vdev := some vdev }

/-- May the image of one cell return: the cell is free of other virtual devices, the partition range and a table entry
are free, and so are the accumulators, ring lines, loop records and tile lines it held, no space claim standing (R87)? -/
def State.cellFree (s : State) (x : Ctx) (im : CellImage) : Bool :=
  let c := (s.cell im.cell).passTo x.cr.vdev
  let from_ (d : Nat) : Nat := ((im.image.loops ++ c.loops).filter fun l => l.src == d).length
  ((s.cell im.cell).parts.isEmpty || (s.cell im.cell).vdev == some x.cr.vdev) && decide (c.parts.length < 8) &&
    c.parts.all (fun p => decide (p.base + p.count ≤ x.cr.pbase) || decide (x.cr.pbase + x.cr.pcount ≤ p.base)) &&
    im.image.accs.all (fun a => a.2.owner.isNone || (c.acc a.1).owner.isNone) && decide (from_ 0 ≤ 200) &&
    (List.range 7).all (fun d => decide (from_ (d + 1) ≤ 8)) &&
    im.image.rings.all (fun r => (look r.1 c.rings).isNone && c.rings.all fun q =>
      decide (r.2.base + r.2.slotl * r.2.nslot ≤ q.2.base) || decide (q.2.base + q.2.slotl * q.2.nslot ≤ r.2.base)) &&
    (im.image.tiles.isEmpty || c.claim.isNone && c.fits (im.image.tiles.map TileBuf.lines))

/-- Do two contexts want the same slots of a cell, or a cell at the same time as different virtual devices? -/
def Ctx.clashes (x y : Ctx) : Bool :=
  x.cr.region.any y.cr.region.contains &&
    (x.cr.vdev != y.cr.vdev ||
      (decide (x.cr.pbase < y.cr.pbase + y.cr.pcount) && decide (y.cr.pbase < x.cr.pbase + x.cr.pcount)))

/-- May the context be restored now: its cells take its images, and no context that clashes with it is being restored? -/
def State.restorable (s : State) (x : Ctx) : Bool :=
  !x.cr.frozen && !x.lost && x.image.all (s.cellFree x) &&
    s.ctxs.all fun p => p.2.cr.base == x.cr.base || !(p.2.dry == .resuming || p.2.dry == .restoring) || !x.clashes p.2

/-- Is it the context's turn among those that wait for the same cells: the one stopped first, then the lower ASID
(R420)? -/
def State.turn (s : State) (asid : Nat) (x : Ctx) : Bool :=
  !s.ctxs.any fun p =>
    p.2.dry == .saved && p.2.dryReason == 1 && !p.2.cr.frozen && !p.2.lost && x.clashes p.2 &&
      decide ([p.2.tstop, p.1] < [x.tstop, asid])

/-- SLICE_BOUNDARY (R420): a context on its cells dries down; one dried down at an earlier boundary is chosen for its
restore when its cells are free and its turn has come. -/
def execSliceBoundary (asid : Nat) (s : State) : Host.Outcome State Fault Refusal :=
  .next (match s.ctx asid with
    | none => s
    | some x =>
      if x.cr.boundaries s.ns ≤ x.sliceNo then s
      else
        let s1 := s.setCtx asid { x with sliceNo := x.cr.boundaries s.ns }
        if x.dry = .none && !x.lost then s1.startDrydown asid 1
        else if x.dry = .saved && x.dryReason = 1 && s1.restorable x && s1.turn asid x then
          s1.modCtx asid fun y => { y with dry := .resuming }
        else s1)

/-- A flip sent before the n-th broadcast is still to reach the cell of a context that can fire. -/
def State.flipBefore (s : State) (n cell asid : Nat) : Bool :=
  (s.bcasts.take n).any (fun b => b.asid == asid && b.left.contains cell && match b.kind with | .flip _ => true | _ => false) &&
    (s.ctx asid).any fun x => !x.cr.frozen && !x.lost

/-- STOP_BROADCAST_ARRIVAL: no set of the context starts on the cell any more. It comes after a flip sent before it. -/
def execStopBroadcastArrival (n cell : Nat) (s : State) : Host.Outcome State Fault Refusal :=
  .next (match s.bcasts[n]? with
    | some { asid, kind := .stop, left } =>
      if !left.contains cell || s.flipBefore n cell asid then s
      else (s.reached n cell).modCell cell fun c => { c with stops := insertNat asid c.stops }
    | _ => s)

/-- The state machine of R411: from one step to the next when the condition holds. -/
def State.dryStep (s : State) (asid : Nat) (from_ to_ : DrySt) (ready : Ctx → Bool) : State :=
  match s.ctx asid with
  | none => s
  | some x => if x.dry = from_ && ready x then s.setCtx asid { x with dry := to_ } else s

/-- DRYDOWN_STOP_ACKNOWLEDGED: every cell has acknowledged. -/
def execDrydownStopAcknowledged (asid : Nat) (s : State) : Host.Outcome State Fault Refusal :=
  .next (s.dryStep asid .stopping .finishing fun _ => !s.bcasts.any fun b => b.asid == asid && b.kind == .stop)

/-- No firing of the context is running. -/
def State.finished (s : State) (asid : Nat) (x : Ctx) : Bool :=
  !x.cr.region.any fun c => (s.cell c).sets.any fun f => f.asid == asid && s.stillRuns f

/-- DRYDOWN_FINISHED: no firing is running; walks sampled since the stop began are abandoned too. -/
def execDrydownFinished (asid : Nat) (s : State) : Host.Outcome State Fault Refusal :=
  .next (match s.ctx asid with
    | none => s
    | some x =>
      if x.dry = .finishing && s.finished asid x then
        (s.setCtx asid { x with dry := .performing }).abandonWalks asid
      else s)

/-- No request is outstanding: registrations and deferred ITAKEs stay in the arena. A LOADG or a residency application in
progress completes, and one that waits behind a DRAIN or a SWAPG is saved with its set (R411, R412). -/
def State.performed (s : State) (asid : Nat) (x : Ctx) : Bool :=
  s.memops.all (fun o => o.firing.asid != asid || o.origin.isSome || o.phase == .waiting || o.phase == .abandoned) &&
    s.walks.all (fun w => w.asid != asid) && s.fills.all (fun z => z.asid != asid) &&
    !s.asking asid && s.finished asid x && x.sweeps.isEmpty && s.bcasts.all (fun b => b.asid != asid) &&
    !(s.planeHead asid).any (fun p => p.1.works) &&
    x.cr.region.all fun c => (s.cell c).banks.all fun b => b.asid != asid || b.st != .loading

/-- DRYDOWN_PERFORMED. -/
def execDrydownPerformed (asid : Nat) (s : State) : Host.Outcome State Fault Refusal :=
  .next (s.dryStep asid .performing .markers (s.performed asid))

/-! ### Saving (R414 to R417) -/

/-- A block taken and filled with zeros, then with pieces at offsets. -/
def State.saveBlock (s : State) (asid : Nat) (pieces : List (Nat × List Byte)) : Option (Nat × State) :=
  match s.takeBlock asid, s.ctx asid with
  | some (b, s1), some x =>
    some (b, pieces.foldl (fun st p => st.writeMem (x.blockAddr b + p.1) p.2) (s1.zeroMem (x.blockAddr b) 32768))
  | _, _ => none

/-- Blocks of several lists of pieces; a list that is none takes no block, and its number is 0. -/
def State.saveBlocks (asid : Nat) : List (Option (List (Nat × List Byte))) → State → Option (List Nat × State)
  | [], s => some ([], s)
  | none :: t, s => (State.saveBlocks asid t s).map fun (l, s1) => (0 :: l, s1)
  | some p :: t, s => do
    let (b, s1) ← s.saveBlock asid p
    let (l, s2) ← State.saveBlocks asid t s1
    pure (b :: l, s2)

/-- A token whose tile is discardable (R414). -/
def Token.disc (t : Token) : Bool := t.isTile && ((Handle.ofWord t.payload).map Handle.disc).getD false

/-- The tile of an entry in a block: the one its line has already, or one of its own; none for a scalar token and for a
discardable tile. -/
def State.saveTile (s : State) (asid cell : Nat) (done : List (Nat × Nat)) (e : Entry) :
    Option (Option Nat × List (Nat × Nat) × State) :=
  if e.tok.disc then some (none, done, s) else s.tileBlock asid cell done e

/-- The entries of a cell as ways of the token table, and the blocks of the tiles saved, by line. -/
def State.saveEntries (asid cell : Nat) : List Entry → List (Nat × Nat) → State → Option (State × List (Nat × Nat))
  | [], done, s => some (s, done)
  | e :: es, done, s => do
    let (b, done1, s1) ← s.saveTile asid cell done e
    let x ← s1.ctx asid
    let i ← x.freeWay (Machine.spillSet x asid cell e.tok.slot e.tok.tag)
    let w : Stored := { idx := i, entry := { e with parked := false, block := none }, cell := cell, block := b }
    State.saveEntries asid cell es done1
      ((s1.setCtx asid { x with ways := x.ways ++ [w] }).writeMem (x.wayAddr i) w.toBytes)

/-- Is a way written anew by the save: its tile had stayed on the cell, or is discardable? -/
def Stored.rewritten (w : Stored) : Bool := w.entry.tok.isTile && (w.block.isNone || w.entry.tok.disc)

/-- Ways whose tile had stayed on the cell name its block, like the rest. -/
def State.saveResident (asid cell : Nat) : List Stored → List (Nat × Nat) → State → Option State
  | [], _, s => some s
  | w :: ws, done, s => do
    let (b, done1, s1) ← s.saveTile asid cell done w.entry
    State.saveResident asid cell ws done1 (s1.setWay asid { w with block := b })

/-- The 16 bytes of an accumulator (R233); a FREE one shows its STEP alone (log entry 96). -/
def Acc.toBytes (a : Acc) : List Byte :=
  match a.owner with
  | some (f, g, asid) =>
    leBytes 2 (f + 4096 * g) ++ leBytes 2 asid ++ leBytes 2 a.step.toNat ++ leBytes 1 1 ++ leBytes 1 (a.rows - 1) ++
      leBytes 1 (a.cols - 1) ++ leBytes 1 a.poison.toNat ++ zeros 6
  | none => zeros 4 ++ leBytes 2 a.step.toNat ++ zeros 10

/-- The 16 bytes of a ring (R315); put and get: a BPUT waits on it, a BGET waits on it. -/
def Ring.toBytes (r : Ring) (put get : Bool) : List Byte :=
  leBytes 2 r.base ++ leBytes 2 r.slotl ++ leBytes 2 r.nslot ++ leBytes 2 r.tiles.length ++ leBytes 1 r.head ++ leBytes 1 1 ++
    leBytes 2 r.asid ++ leBytes 1 ((if put then 1 else 0) + if get then 2 else 0) ++ zeros 3

/-- The 64 bytes of a loop record as a save shows it: WAITC clear (R110, R414). -/
def LoopRec.toBytes (l : LoopRec) : List Byte :=
  leBytes 8 l.base.toNat ++ leBytes 2 l.slot ++ leBytes 1 l.w ++ leBytes 1 (if l.closing then 2 else 1) ++
    leBytes 2 (l.nextc % 256) ++ zeros 2 ++ leBytes 2 l.infl ++ leBytes 1 l.src ++ zeros 1 ++ leBytes 4 l.claims.toNat ++
    zeros 8 ++ leBytes 32 l.busy.toNat

/-- A tile of a ring as a save keeps it: a discardable one as zero bytes (R414). -/
def savedTile (p : Handle × List Byte) : Handle × List Byte := if p.1.disc then (p.1, zeros p.2.length) else p

/-- What of a cell is the context's: its partition, its slots and marks, break bits, loop records, accumulators, those
that are FREE among them, and rings. -/
def Cell.own (c : Cell) (asid : Nat) (x : Ctx) : Cell :=
  let mine (k : Nat) : Bool := decide (x.cr.pbase ≤ k % 2048) && decide (k % 2048 < x.cr.pbase + x.cr.pcount)
  { Cell.scrubbed with
    vdev := c.vdev
    parts := c.parts.filter fun p => p.asid == asid
    ops := c.ops.filter fun p => mine p.1
    breaks := c.breaks.filter mine
    loops := (c.loops.filter fun l => l.asid == asid).map fun l => { l with waiter := none }
    accs := c.accs.filter fun p => match p.2.owner with | some (_, _, a) => a == asid | none => true
    rings := (c.rings.filter fun p => p.2.asid == asid).map fun p => (p.1, { p.2 with tiles := p.2.tiles.map savedTile }) }

/-- The rest of the cell: what drydown's release and destruction leave of it (R358, R411 step 7). -/
def Cell.without (c : Cell) (asid : Nat) (x : Ctx) : Cell :=
  let mine (k : Nat) : Bool := decide (x.cr.pbase ≤ k % 2048) && decide (k % 2048 < x.cr.pbase + x.cr.pcount)
  { c with
    parts := c.parts.filter fun p => p.asid != asid
    ops := c.ops.filter fun p => !mine p.1
    breaks := c.breaks.filter fun k => !mine k
    entries := c.entries.filter fun e => e.tok.asid != asid
    sets := c.sets.filter fun f => f.asid != asid
    input := c.input.filter fun h => !h.flight.toks.any fun t => t.asid == asid
    claim := if c.sets.any (fun f => f.asid == asid && c.claim == some f.sid) then none else c.claim
    loops := c.loops.filter fun l => l.asid != asid
    accs := c.accs.map fun p => match p.2.owner with
      | some (_, _, a) => if a == asid then (p.1, { p.2 with owner := none }) else p
      | none => p
    banks := c.banks.filter fun b => b.asid != asid
    rings := c.rings.filter fun p => p.2.asid != asid
    watch := c.watch.filter fun p => p.1 != asid
    fbreaks := c.fbreaks.filter fun b => b.1 != asid
    stops := c.stops.filter (· != asid) }

/-- The ASID's firing records, too, when it becomes free for another context (R355, R358). -/
def Cell.forget (c : Cell) (asid : Nat) : Cell := { c with records := c.records.filter fun r => r.asid != asid }

/-- Pieces of the lines 2,048 + 512 q onward that hold the context's ring tiles; none where no ring of it lies. -/
def ringPieces (rs : List (Nat × Ring)) (q : Nat) : Option (List (Nat × List Byte)) :=
  let lo := 512 * q
  if rs.any fun r => decide (r.2.base < lo + 512) && decide (lo < r.2.base + r.2.slotl * r.2.nslot) then
    some (rs.flatMap fun r => r.2.tiles.zipIdx.flatMap fun p =>
      let line := r.2.base + (r.2.head + p.2) % r.2.nslot * r.2.slotl
      -- the part of the tile that lies in these lines
      let a := max (64 * line) (64 * lo)
      let b := min (64 * line + p.1.2.length) (64 * (lo + 512))
      if a < b then [(a - 64 * lo, (p.1.2.drop (a - 64 * line)).take (b - a))] else [])
  else none

/-- Slots of a plane, 16 bytes each, in place. -/
def planePieces (c : Cell) (x : Ctx) (plane : Bool) : List (Nat × List Byte) :=
  (c.ops.filter fun p => decide (p.1 / 2048 = if plane then 1 else 0)).map fun p =>
    (16 * (p.1 % 2048 - x.cr.pbase), leBytes 16 p.2.word.toNat)

/-- Does a set of the cell wait for the reason? -/
def Cell.waits (c : Cell) (h : Hold) : Bool := c.sets.any fun f => f.hold == some h

/-- The cell block (R416) of what the context owns; full is the cell as it stands. -/
def cellPieces (c full : Cell) (x : Ctx) (cell : Nat) (blks : List Nat) : List (Nat × List Byte) :=
  let p := c.parts.headD { asid := 0, base := 0, count := 0, active := false, cgen := 0 }
  let marks (plane : Bool) : BitVec 2048 :=
    (c.ops.filter fun q => q.2.record && decide (q.1 / 2048 = if plane then 1 else 0)).foldl
      (fun m q => m ||| (1#2048 <<< (q.1 % 2048))) 0
  let brk : BitVec 2048 := c.breaks.foldl (fun m k => m ||| (1#2048 <<< k)) 0
  let at_ (n k : Nat) : List Byte := leBytes 4 (blks.getD (n + k) 0)
  [(0, leBytes 2 cell ++ leBytes 2 x.cr.pbase ++ leBytes 2 x.cr.pcount ++
      leBytes 1 ((if p.active then 1 else 0) + 2 * p.cgen.toNat) ++ zeros 1 ++ leBytes 2 c.loops.length ++ zeros 6 ++
      (List.range 2).flatMap (at_ 0) ++ (List.range 4).flatMap (at_ 2) ++ (List.range 4).flatMap (at_ 6) ++ zeros 8 ++
      (List.range 4).flatMap (fun i => (c.acc i).toBytes) ++
      (List.range 16).flatMap fun i =>
        ((look i c.rings).map fun r => r.toBytes (full.waits (.bput i)) (full.waits (.bget i))).getD (zeros 16)),
   (384, leBytes 256 (marks false).toNat ++ leBytes 256 (marks true).toNat ++ leBytes 256 brk.toNat),
   (1280, c.loops.flatMap LoopRec.toBytes)]

/-- Tiles of the cell that open trap records hold (R380): they are saved in blocks of their own, discardable ones as zero
bytes. -/
def State.heldTiles (s : State) (x : Ctx) (cell : Nat) : List TileBuf :=
  let args := (x.traps.filter fun r => r.cell == cell).flatMap TrapRec.args
  ((s.cell cell).tiles.filter fun t => args.any (·.refs t.line)).map fun t =>
    if args.any fun e => e.refs t.line && e.tok.disc then { t with data := zeros t.data.length } else t

/-- One cell saved: its entries and formed sets as ways, its cell block and the blocks it names; none when a way or a
block is missing. An accumulator's elements stand row by row, COLS to a row, in 8 bytes each (log entry 47). -/
def State.saveCell (s : State) (asid cell : Nat) : Option State := do
  let x ← s.ctx asid
  let c := s.cell cell
  let sets := c.sets.filter fun f => f.asid == asid
  let s0 := sets.foldl (fun st f => st.cancelWait asid cell f.sid) s
  let es := (c.entries.filter fun e => e.tok.asid == asid) ++ sets.flatMap FSet.loose
  let (s1, done) ← State.saveEntries asid cell es [] s0
  let s2 ← State.saveResident asid cell (x.ways.filter fun w => w.cell == cell && w.rewritten) done s1
  let own := c.own asid x
  let (blks, s3) ← State.saveBlocks asid
    ([some (planePieces own x false), some (planePieces own x true)] ++
      (List.range 4).map (fun i => if (own.acc i).owner.isSome then
        some [(0, ((own.acc i).data.flatMap fun v => leBytes 8 v.toNat).take 32768)] else none) ++
      (List.range 4).map (ringPieces own.rings) ++ (s.heldTiles x cell).map fun t => some [(0, t.data)]) s2
  let (b, s4) ← s3.saveBlock asid (cellPieces own c x cell blks)
  let s5 := s4.modCtx asid fun y =>
    { y with image := y.image ++
        [{ cell := cell, image := { own with tiles := s.heldTiles x cell }, blocks := (b :: blks).filter (· != 0) }] }
  pure ((s5.modCell cell fun d => { d.without asid x with parts := d.parts }).gcTiles cell)

def State.saveCells (asid : Nat) : List Nat → State → Option State
  | [], s => some s
  | c :: cs, s => (s.saveCell asid c).bind (State.saveCells asid cs)

/-- Blocks of discardable tiles that the context's stored and waiting tokens name: a save frees them. -/
def State.discBlocks (s : State) (asid : Nat) (x : Ctx) : List Nat :=
  let es := x.cr.region.flatMap fun c =>
    ((s.cell c).entries.filter fun e => e.tok.asid == asid) ++ ((s.cell c).sets.filter fun f => f.asid == asid).flatMap FSet.args
  (x.ways.filter fun w => w.entry.tok.disc).filterMap Stored.block ++ (es.filter fun e => e.tok.disc).filterMap Entry.block

/-- Ways that the save writes: those of entries and sets, and those written anew. -/
def State.savedWays (s : State) (asid : Nat) (x : Ctx) : Nat :=
  (x.cr.region.map fun c =>
    ((s.cell c).entries.filter fun e => e.tok.asid == asid).length +
      (((s.cell c).sets.filter fun f => f.asid == asid).flatMap FSet.args).length).sum + (x.ways.filter Stored.rewritten).length

/-- The whole save: every cell, the directory and the header (R414 to R416). -/
def State.save (s : State) (asid : Nat) : Option State := do
  let x ← s.ctx asid
  if x.nblocks = 0 then none
  else
    let s1 ← State.saveCells asid x.cr.region (s.setCtx asid { x with image := [], dirBlocks := [] })
    let y ← s1.ctx asid
    let dir := y.image.flatMap fun im => leBytes 4 (im.blocks.headD 0)
    let (d, s2) ← s1.saveBlock asid [(0, dir)]
    let new := (d :: y.blocks).filter fun b => !x.blocks.contains b
    let s3 := (s.discBlocks asid x).foldl (fun st b => st.releaseBlock asid b)
      (s2.modCtx asid fun z => { z with dirBlocks := [d] })
    pure (s3.writeDryHeader asid 1 0 (s.savedWays asid x) new.length d)

/-- The cells of the region are released: what waits on them for another context may go on (R411 step 7). -/
def State.releaseCells (s : State) (asid : Nat) (x : Ctx) : State :=
  x.cr.region.foldl (fun st c =>
    let st1 := st.modCell c fun d => d.without asid x
    { st1 with due := st1.due ++ [.event (.heldLenterGrant c)] }) s

/-- A packet held at an input joins another whose token names the same tile of the cell (R84). -/
def joinHeld (f : Flight) (gs : List Flight) : List Flight :=
  match f.tile, f.toks.head?.bind Token.line with
  | none, some l =>
    let same (g : Flight) : Bool := g.tile.isNone && (g.toks.head?.bind Token.line) == some l
    if gs.any same then gs.map fun g => if same g then { g with toks := f.toks ++ g.toks } else g else f :: gs
  | _, _ => f :: gs

/-- The packet as it goes on to the inbox: with the tile that lies on the cell, whole again. -/
def Cell.onward (c : Cell) (f : Flight) : Flight :=
  match f.tile, f.toks.head?.map c.valueOf with
  | none, some (.tile h d) => { f with tile := some d, left := h.packets }
  | _, _ => f

/-- What another device has sent to the context, and a cell holds at its input, goes on to the inbox. -/
def State.letGo (s : State) (asid cell : Nat) : State :=
  let c := s.cell cell
  let mine (h : Held) : Bool := h.flight.toks.any fun t => t.asid == asid
  let out := (((c.input.filter mine).map Held.flight).foldr joinHeld []).map c.onward
  State.gcTiles { s.modCell cell fun k => { k with input := k.input.filter fun h => !mine h } with net := s.net ++ out } cell

/-- A tile of which packets have arrived gives its run of lines back: all of it goes to the inbox. -/
def State.disassemble (s : State) (f : Flight) : State :=
  match f.line with
  | some l => s.modCell f.cell fun k => { k with reserved := k.reserved.filter fun r => r.1 != l }
  | none => s

/-- The inbox opens (R411 step 5): what travels to the context's cells now goes there. -/
def State.openInbox (s : State) (asid : Nat) : State :=
  let s1 := s.modCtx asid fun x => { x with dry := .saving, inbox := [], inBlocks := [] }
  let s2 := (s.net.filter fun f => f.asid == asid).foldl State.disassemble s1
  let s3 : State := { s2 with net := s2.net.map fun f => if f.asid == asid then { f with line := none } else f }
  (s.region asid).foldl (fun st c => st.letGo asid c) s3

/-- DRYDOWN_MARKERS_ARRIVED: tokens ahead of the markers have been accepted; the inbox opens, and the save runs. -/
def execDrydownMarkersArrived (asid : Nat) (s : State) : Host.Outcome State Fault Refusal :=
  .next (match s.ctx asid with
    | none => s
    | some x =>
      let inside (t : Token) : Bool := t.asid == asid && !t.remote
      let travels := s.net.any (fun f => f.toks.any inside) ||
        x.cr.region.any fun c => (s.cell c).input.any fun h => h.flight.toks.any inside
      if x.dry != .markers || x.lost || travels || !s.performed asid x then s else s.openInbox asid)

/-! ### The remote inbox (R413) -/

/-- A tile's bytes in a block of its own, when the entry has one. -/
def State.inboxTile (s : State) (asid : Nat) : Option (List Byte) → Option (Option Nat × State)
  | none => some (none, s)
  | some d => (s.saveBlock asid [(0, d)]).map fun (b, s1) => (some b, s1)

/-- One token of a flight written to the inbox, its tile in a block; none when no entry is free. -/
def State.writeInbox (s : State) (asid : Nat) (f : Flight) (tblk : Option Nat) (t : Token) : Option State := do
  let x ← s.ctx asid
  let n := x.inbox.length
  let (blks, s2) ←
    if n % 511 = 0 then (s.saveBlock asid []).map fun (b, st) => (x.inBlocks ++ [b], st) else some (x.inBlocks, s)
  let blk := blks.getLastD 0
  let s3 := if n % 511 = 0 ∧ n ≠ 0 then s2.writeMem (x.blockAddr (x.inBlocks.getLastD 0) + 32704) (leBytes 4 blk) else s2
  let far := f.far.getD (s.dev.devnum.toNat, t.pcell, 0)
  let e : InboxEntry :=
    { tok := t, block := tblk, fdev := far.1, fcell := far.2.1, fslot := far.2.2, tarrive := s.ns }
  let bytes := t.toBytes false ++ leBytes 2 far.1 ++ leBytes 2 far.2.1 ++ leBytes 2 far.2.2 ++
    leBytes 1 (if f.tile.isSome then 2 else 1) ++ zeros 1 ++ leBytes 4 (tblk.getD 0) ++ leBytes 8 s.ns ++ zeros 12
  let s4 := s3.writeMem (x.blockAddr blk + 64 * (n % 511)) bytes
  let s5 := s4.modCtx asid fun y => { y with inbox := y.inbox ++ [e], inBlocks := blks }
  pure ((s5.writeMem (x.dryAddr 8) (leBytes 4 (blks.headD 0))).writeMem (x.dryAddr 12) (leBytes 4 (n + 1)))

/-- The tokens of a flight written to the inbox: those that share a tile name one block. -/
def State.inboxFlight (s : State) (f : Flight) : Option State :=
  (s.inboxTile f.asid f.tile).bind fun p => f.toks.foldlM (fun st t => st.writeInbox f.asid f p.1 t) p.2

/-- INBOX_WRITE: the n-th token in flight, for a context whose inbox is open; it waits when there is no room. -/
def execInboxWrite (n : Nat) (s : State) : Host.Outcome State Fault Refusal :=
  .next (match s.net[n]? with
    | none => s
    | some f =>
      if !s.away f.asid then s else (State.inboxFlight { s with net := s.net.eraseIdx n } f).getD s)

/-! ### CONTEXT_RESTORE (R418, R419) -/

/-- Tiles that trap records hold go back onto lines: the line each had and the line it has now. -/
def State.placeHeld (cell : Nat) : List TileBuf → State → List (Nat × Nat) × State
  | [], s => ([], s)
  | t :: ts, s =>
    match (s.cell cell).freeRun t.lines with
    | none => State.placeHeld cell ts s
    | some l =>
      let (m, s1) := State.placeHeld cell ts
        (s.modCell cell fun c => { c with tiles := c.tiles ++ [{ t with line := l }] })
      (put t.line l m, s1)

/-- The records' operands name the lines their tiles have now. -/
def State.restoreHeld (s : State) (asid cell : Nat) (ts : List TileBuf) : State :=
  let (m, s1) := State.placeHeld cell ts s
  let tok (k : Token) : Token :=
    match k.line.bind fun l => look l m with
    | some l => k.withLine l
    | none => k
  s1.modTraps asid (fun r => r.cell == cell) fun r =>
    { r with args := r.args.map fun e => { e with tok := tok e.tok }
             ops := r.ops.map fun o => { o with tok := tok o.tok } }

/-- A cell of the region takes its saved state back; a FREE accumulator's count returns where no context owns it now. -/
def State.restoreCell (s : State) (x : Ctx) (asid : Nat) (im : CellImage) : State :=
  let s1 := s.modCell im.cell fun c =>
    let c := c.passTo x.cr.vdev
    { c with
      parts := c.parts ++ im.image.parts
      ops := im.image.ops.foldl (fun m p => put p.1 p.2 m) c.ops
      breaks := im.image.breaks.foldl (fun l k => insertNat k l) c.breaks
      loops := c.loops ++ im.image.loops
      accs := im.image.accs.foldl (fun m p => if (c.acc p.1).owner.isSome then m else put p.1 p.2 m) c.accs
      rings := im.image.rings.foldl (fun m p => put p.1 p.2 m) c.rings
      watch := c.watch ++ x.watch.map fun w => (asid, w)
      fbreaks := c.fbreaks ++ x.fbreaks.map fun b => (asid, b.1, b.2) }
  let s2 := if im.image.tiles.isEmpty then s1 else s1.restoreHeld asid im.cell im.image.tiles
  im.blocks.foldl (fun st b => st.freeBlock asid b) s2

/-- A tile saved without its contents returns as zero bytes: on lines when a run is free, else in a block (R414). -/
def State.seatDisc (s : State) (asid cell : Nat) (e : Entry) : Option (Entry × State) :=
  match e.block, e.tok.isTile, Handle.ofWord e.tok.payload with
  | none, true, some h =>
    match if (s.cell cell).claim.isSome then none else (s.cell cell).freeRun h.lines with
    | some l =>
      some ({ e with tok := e.tok.withLine l }, s.modCell cell fun c =>
        { c with tiles := c.tiles ++ [{ line := l, lines := h.lines, data := zeros h.bytes }] })
    | none => (s.saveBlock asid []).map fun (b, s1) => ({ e with block := some b }, s1)
  | _, _, _ => some (e, s)

/-- The entry under the cell's next arrival number. -/
def State.renumber (s : State) (cell : Nat) (e : Entry) : Entry × State :=
  ({ e with arrive := (s.cell cell).arrivals.toNat }, s.modCell cell fun c => { c with arrivals := c.arrivals + 1 })

/-- One saved token returns under a fresh arrival number, as a parked one does (R386, R419). -/
def State.returnWay (asid : Nat) (p : State × List (Nat × Nat)) (w : Stored) : State × List (Nat × Nat) :=
  let (e, s1) := p.1.renumber w.cell { w.entry with block := w.block }
  match s1.seatDisc asid w.cell e with
  | some (e1, s2) => State.returnParked asid (s2, p.2) (w.cell, e1)
  | none => (s1.spillFull asid w.cell e, p.2)

/-- The saved ways of a cell return in ascending arrival number; a block is freed when nothing names it any more. -/
def State.returnWays (s : State) (asid cell : Nat) : State :=
  match s.ctx asid with
  | none => s
  | some x =>
    let ws := sortStored (x.ways.filter fun w => w.cell == cell)
    let s1 := ws.foldl (fun st w => (st.noteWay asid w).freeWayAt asid w.idx) s
    let s2 := (ws.foldl (State.returnWay asid) (s1, [])).1
    ((ws.filterMap Stored.block).foldl (fun st b => st.releaseBlock asid b) s2).gcTiles cell

/-- Does a token that returns from the inbox take its place on its cell: it has the cell's generation and a running
frame, and meets no record unless its frame is PARKED? -/
def State.seatable (s : State) (t : Token) : Bool :=
  let fr := s.frameOf t.asid t.tag
  s.cgenAt t.cell t.asid == t.cgen && frameCurrent fr t.tag &&
    (fr.st == .parked || !((s.cell t.cell).activeSlot t.asid t.slot).record)

/-- An inbox entry returns under the next arrival number of its cell, like a saved token, so that inbox order is kept; one
that its cell does not take arrives like any other packet. m lists blocks brought back and their lines. -/
def State.returnInbox (asid : Nat) (p : State × List (Nat × Nat)) (e : InboxEntry) : State × List (Nat × Nat) :=
  let s := p.1.modCtx asid fun y => { y with inbox := y.inbox.tail }
  let t := e.tok
  let q : State × List (Nat × Nat) :=
    if s.seatable t then
      let (n, s1) := s.renumber t.cell { tok := t, arrive := 0, parked := false, res := false, block := e.block }
      State.returnParked asid (s1, p.2) (t.cell, n)
    else
      match e.block, Handle.ofWord t.payload with
      | some b, some h =>
        let f : Flight :=
          { toks := [t], tile := some (s.loadBlock asid b h.bytes), left := 1, line := none, xfer := none }
        let s1 := s.noteBlock asid t.cell t.slot b h.bytes
        (State.packet { s1 with net := s1.net ++ [f] } s1.net.length f, p.2)
      | _, _ => (s.arrive t, p.2)
  (e.block.elim q.1 (q.1.releaseBlock asid), q.2)

/-- The inbox is emptied, in order, and its blocks are free. -/
def State.emptyInbox (s : State) (asid : Nat) (x : Ctx) : State :=
  let s1 := s.modCtx asid fun y => { y with inBlocks := [] }
  (x.inbox.foldl (State.returnInbox asid) (x.inBlocks.foldl (fun st b => st.freeBlock asid b) s1, [])).1

/-- The stop is lifted, the inbox returns, and the host is told that the drydown is refused (R417). -/
def State.abandonSave (s : State) (asid : Nat) : State :=
  match s.ctx asid with
  | none => s
  | some x =>
    let s1 := x.cr.region.foldl (fun st c => st.modCell c fun d => { d with stops := d.stops.filter (· != asid) }) s
    let s2 := (s1.modCtx asid fun y => { y with dry := .none, dryCmds := [] }).setDstate asid 0
    let told : List Cmd :=
      if x.dryCmds.isEmpty then
        [{ fn := .vdev x.cr.vdev, id := 0, arg0 := 0, arg1 := 0, arg2 := 0, arg3 := 0, cdest := none, casid := 0, ctag := 0 }]
      else x.dryCmds
    let s3 := ((told.foldl (fun st c => st.complete c 0x13 5 0) (s2.emptyInbox asid x)).progress asid).grantDue asid
    -- records freed while the stop stood go to the oldest waiter first (R111)
    { s3 with due := s3.due ++ x.cr.region.map fun c => .event (.heldLenterGrant c) }

/-- A save made: the cells are released, DSTATE says saved, and the commands that asked for it complete. -/
def State.endSave (s : State) (asid : Nat) (now : Nat) : State :=
  match s.ctx asid with
  | none => s
  | some x =>
    let s1 := x.image.foldl (fun st im => st.modCell im.cell fun d =>
      { d with tiles := d.tiles.filter fun t => !im.image.tiles.any fun u => u.line == t.line }) (s.releaseCells asid x)
    let s2 := s1.modCtx asid fun y => { y with dry := .saved, dryCmds := [], scheduled := false }
    let s3 := (s2.setDstate asid 2).writeMem (x.dryAddr 24) (leBytes 8 now)
    x.dryCmds.foldl (fun st c => st.complete c 0x13 0 0) s3

/-- DRYDOWN_SAVED: the save is made, or abandoned for want of a way or a block. -/
def execDrydownSaved (asid : Nat) (s : State) : Host.Outcome State Fault Refusal :=
  .next (match s.ctx asid with
    | none => s
    | some x =>
      if x.dry != .saving || x.lost then s
      else
        match s.save asid with
        | some s1 => s1.endSave asid s.ns
        | none => s.abandonSave asid)

/-- Every saved item returns to its cell, then the saved ways, then the inbox; SEQNO rises by 1 (R418, R419). -/
def State.restore (s : State) (asid : Nat) (x : Ctx) : State :=
  let s1 := x.image.foldl (fun st im => st.restoreCell x asid im) s
  let s2 := s1.modCtx asid fun y =>
    { y with dry := .none, image := [], dirBlocks := [], scheduled := true, seqno := y.seqno + 1 }
  let s3 := x.dirBlocks.foldl (fun st b => st.freeBlock asid b) s2
  let s4 := x.cr.region.foldl (fun st c => st.returnWays asid c) s3
  ((s4.emptyInbox asid x).writeDryHeader asid 0 0 0 0 0).progress asid

/-- CONTEXT_RESTORE: DSTATE says restoring once the cells can take the context, then everything returns. -/
def execContextRestore (asid : Nat) (s : State) : Host.Outcome State Fault Refusal :=
  .next (match s.ctx asid with
    | none => s
    | some x =>
      if !s.restorable x then s
      else if x.dry == .resuming || (x.dry == .saved && x.dryReason != 1) then
        (s.setCtx asid { x with dry := .restoring }).setDstate asid 3
      else if x.dry == .restoring then s.restore asid x
      else s)

end Sys2Proof.Machine
end

