-- ==== Sys2Proof/Machine/HostRegs.lean ====
section
/-! DEFINITION. The host's side of GCL: register windows (R466), completion entries and notifications (R457, R474), and
the memory aperture (R455). -/

namespace Sys2Proof.Machine

/-! ### Windows (R466) -/

/-- A function's page of the register aperture. -/
def pageOf : Fn → Nat
  | .pf => 0
  | .vdev v => 1 + v

/-- The page exists: the physical function's always, a virtual device's while the virtual device does. -/
def State.pageLive (s : State) : Fn → Bool
  | .pf => true
  | .vdev v => (look v s.vdevs).isSome

/-- Every register of a window at its reset value. -/
def Window.empty : Window :=
  { sqbase := 0, sqsize := 0, cqbase := 0, cqsize := 0, enable := false, ringerr := false, sqtail := 0, sqhead := 0,
    cqhead := 0, cqtail := 0, started := false }

def State.window (s : State) (fn : Fn) : Window := (look (pageOf fn) s.windows).getD Window.empty
def State.setWindow (s : State) (fn : Fn) (w : Window) : State := { s with windows := put (pageOf fn) w s.windows }

/-- A register of an existing page changed, while the module is powered. -/
def State.modWindow (s : State) (fn : Fn) (g : Window → Window) : State :=
  if s.pageLive fn && s.dev.boot != .off then s.setWindow fn (g (s.window fn)) else s

/-- Host memory as the device addresses it (R25). -/
def hostAddr (a : Nat) : Nat := 8191 * 2 ^ 39 + a

/-- Is the virtual device's descriptor window around [a, a + n)? The physical function has no window to keep. -/
def State.inGcl (s : State) (fn : Fn) (a n : Nat) : Bool :=
  decide (a + n ≤ 2 ^ 39) && match fn with
  | .pf => true
  | .vdev v => match look v s.vdevs with
    | some d => decide (d.gclbase ≤ a) && decide (a + n ≤ d.gclbase + d.gclsize)
    | none => false

/-- A power of two from 16 to 65,536. -/
def ringSize (n : Nat) : Bool := (List.range 13).any fun k => n == 2 ^ (k + 4)

/-- Both rings are well formed and may be reached. -/
def State.ringsOk (s : State) (fn : Fn) (w : Window) : Bool :=
  w.sqbase.toNat % 4096 == 0 && w.cqbase.toNat % 4096 == 0 && ringSize w.sqsize.toNat && ringSize w.cqsize.toNat &&
    s.inGcl fn w.sqbase.toNat (128 * w.sqsize.toNat) && s.inGcl fn w.cqbase.toNat (16 * w.cqsize.toNat)

/-- RING_ENABLE: both rings start empty, or ENABLE stays 0 and RINGERR is set. -/
def execRingEnable (fn : Fn) (s : State) : Host.Outcome State Fault Refusal :=
  .next (s.modWindow fn fun w =>
    if w.enable then w
    else if s.ringsOk fn w then
      { w with enable := true, ringerr := false, sqtail := 0, sqhead := 0, cqhead := 0, cqtail := 0, started := true }
    else { w with ringerr := true })

/-- RING_DISABLE: no new command is taken. -/
def execRingDisable (fn : Fn) (s : State) : Host.Outcome State Fault Refusal :=
  .next (s.modWindow fn fun w => { w with enable := false })

/-- SQTAIL: the index of the next free submission slot. -/
def execSqtail (fn : Fn) (value : Word64) (s : State) : Host.Outcome State Fault Refusal :=
  .next (s.modWindow fn fun w =>
    if w.sqsize = 0 then w else { w with sqtail := value.toNat % w.sqsize.toNat })

/-- CQHEAD: the entries before the index are free. The count goes forward, at most to the entries written. -/
def execCqhead (fn : Fn) (value : Word64) (s : State) : Host.Outcome State Fault Refusal :=
  .next (s.modWindow fn fun w =>
    if w.cqsize = 0 then w
    else
      let n := w.cqsize.toNat
      let go := (value.toNat % n + n - w.cqhead % n) % n
      { w with cqhead := min (w.cqhead + go) w.cqtail })

/-- DEVNUM (R463): 0 to 8,190, until the first context is created. -/
def execDevnum (value : Word64) (s : State) : Host.Outcome State Fault Refusal :=
  .next (if s.dev.devnumFixed || value.toNat % 8192 == 8191 || s.dev.boot == .off then s
    else { s with dev := { s.dev with devnum := BitVec.ofNat 13 value.toNat } })

/-- The function whose page an aperture offset lies in. -/
def pageFn (off : Nat) : Option Fn :=
  let p := off / 4096
  if p = 0 then some .pf else if p ≤ 32 then some (.vdev (p - 1)) else none

/-- One of the four ring registers, which take writes only while ENABLE is 0. -/
def Window.setRing (w : Window) (reg : Nat) (v : Word64) : Window :=
  if w.enable then w
  else if reg = 0x010 then { w with sqbase := v }
  else if reg = 0x018 then { w with sqsize := v }
  else if reg = 0x020 then { w with cqbase := v, started := false }
  else { w with cqsize := v, started := false }

/-- A write that reaches the page of a function. -/
def State.writeReg (s : State) (fn : Fn) (reg : Nat) (v : Word64) : Host.Outcome State Fault Refusal :=
  if reg = 0x010 ∨ reg = 0x018 ∨ reg = 0x020 ∨ reg = 0x028 then .next (s.modWindow fn fun w => w.setRing reg v)
  else if reg = 0x030 then (if v.getLsbD 0 then execRingEnable fn s else execRingDisable fn s)
  else if reg = 0x038 then execSqtail fn v s
  else if reg = 0x048 then execCqhead fn v s
  else if reg = 0x100 ∧ fn = .pf then execDevnum v s
  else .next s

/-- An access by a virtual device outside its own page (R369 cause 0x01). -/
def outside (caller : Fn) (off : Nat) : Option Nat :=
  match caller with
  | .pf => none
  | .vdev v => if pageFn off = some caller then none else some v

/-- REGISTER_WRITE: a write at an offset of the register aperture. -/
def execRegisterWrite (caller : Fn) (off : Nat) (value : Word64) (s : State) : Host.Outcome State Fault Refusal :=
  match outside caller off with
  | some v => .next (s.freeze { cause := 1, vdev := v, asid := none, cell := 0, slot := 0, tag := 0, addr := 0 })
  | none =>
    match pageFn off with
    | some fn => s.writeReg fn (off % 4096) value
    | none => .next s

/-- Low byte of the release of the booted firmware: 2.4 or later (R1). -/
def firmwareLow (measure : Digest) : BitVec 8 := BitVec.ofNat 8 (4 + Config.firmwareMinor measure % 252)

/-- ID (R1, R466): stepping 0xC1, firmware release 2.x, instruction set 1.0, image format 3. -/
def idWord (measure : Digest) : Word64 :=
  0#16 ++ 3#8 ++ 0x0100#16 ++ 0x02#8 ++ firmwareLow measure ++ 0xC1#8

/-- STATUS (R466). -/
def State.statusWord (s : State) (fn : Fn) : Word64 :=
  let frozen : Bool := match fn with
    | .pf => false
    | .vdev v => ((look v s.vdevs).map Vdev.frozen).getD false
  let step : BitVec 4 := match s.dev.boot with
    | .recovery n => BitVec.ofNat 4 n
    | _ => 0
  let recovery : Bool := match s.dev.boot with
    | .recovery _ => true
    | _ => false
  0#53 ++ BitVec.ofBool (s.window fn).ringerr ++ BitVec.ofBool frozen ++ BitVec.ofBool s.dev.ptpFree ++ step ++ 0#2 ++
    BitVec.ofBool recovery ++ BitVec.ofBool (s.dev.boot == .ready)

/-- What a read at an offset of a function's page gives. -/
def State.readReg (s : State) (fn : Fn) (reg : Nat) : Word64 :=
  let w := s.window fn
  if !s.pageLive fn then 0
  else if reg = 0x000 then idWord s.dev.measure
  else if reg = 0x008 then s.statusWord fn
  else if reg = 0x010 then w.sqbase
  else if reg = 0x018 then w.sqsize
  else if reg = 0x020 then w.cqbase
  else if reg = 0x028 then w.cqsize
  else if reg = 0x030 then (if w.enable then 1 else 0)
  else if reg = 0x040 then BitVec.ofNat 64 w.sqhead
  else if reg = 0x100 ∧ fn = .pf then s.dev.devnum.zeroExtend 64
  else if reg = 0x108 ∧ fn = .pf then s.dev.errcnt
  else 0

/-! ### Completion entries (R457, R474) -/

/-- n entries of the ring are free. -/
def Window.room (w : Window) (n : Nat) : Bool := w.started && decide (w.cqtail - w.cqhead + n ≤ w.cqsize.toNat)

/-- The 16 bytes of the entry that stands at a count of entries. -/
def entryBytes (size count : Nat) (id : BitVec 32) (status code : BitVec 8) (value : Word64) : List Byte :=
  leBytes 4 id.toNat ++ [status, code, if count / size % 2 = 0 then 1 else 0, 0] ++ leBytes 8 value.toNat

/-- Entries of one post, the first under its code and the others as continuations. -/
def State.writeEntries (s : State) (fn : Fn) (p : Post) : Nat → List Word64 → State
  | _, [] => s
  | k, v :: vs =>
    let w := s.window fn
    let n := w.cqsize.toNat
    let code : BitVec 8 := if k = 0 then p.cmd else 0x8F
    let s1 := s.writeMem (hostAddr (w.cqbase.toNat + 16 * (w.cqtail % n))) (entryBytes n w.cqtail p.id p.status code v)
    State.writeEntries (s1.setWindow fn { w with cqtail := w.cqtail + 1 }) fn p (k + 1) vs

/-- The token that follows a command's entry: CMDID as an unpoisoned scalar, to the context's active plane, under CTAG as it
stands (R457, log entry 89). -/
def State.completionToken (s : State) (p : Post) : State :=
  match p.token with
  | none => s
  | some (a, d, tag) =>
    match s.ctx a with
    | some x => s.send (x.injector a) tag (.scalar (p.id.zeroExtend 64) false false) [d]
    | none => s

/-- May the post be written: its command is complete, no post kept before it is of its context, and its ring has room? -/
def State.postReady (s : State) (kept : List Post) (p : Post) : Bool :=
  p.done && p.waits.all (fun i => !s.memops.any fun o => o.id == i) &&
    !(p.asid.isSome && kept.any fun q => q.asid == p.asid) && (s.window p.fn).room p.values.length

/-- Every post that may be written is, in order; a ring that is full keeps what is behind. -/
def State.flushFrom : List Post → List Post → State → State
  | kept, [], s => { s with posts := kept.reverse }
  | kept, p :: t, s =>
    if !s.pageLive p.fn then State.flushFrom kept t s
    else if s.postReady kept p then State.flushFrom kept t ((s.writeEntries p.fn p 0 p.values).completionToken p)
    else State.flushFrom (p :: kept) t s
def State.flushPosts (s : State) : State := State.flushFrom [] s.posts s

/-- VALUE of a FREEZE entry. -/
def Freeze.word (r : Freeze) : Word64 :=
  0#5 ++ BitVec.ofNat 11 r.slot ++ 0#5 ++ BitVec.ofNat 11 r.cell ++ 0#5 ++ BitVec.ofBool r.asid.isSome ++
    BitVec.ofNat 10 (r.asid.getD 0) ++ 0#3 ++ BitVec.ofNat 5 r.vdev ++ BitVec.ofNat 8 r.cause

/-- FREEZE_NOTIFICATION: the n-th freeze record becomes three entries of the physical function's ring, written
together, once three are free. -/
def execFreezeNotification (n : Nat) (s : State) : Host.Outcome State Fault Refusal :=
  .next (match s.freezes[n]? with
    | none => s
    | some r =>
      if !(s.window .pf).room 3 then s
      else
        { s with
          freezes := s.freezes.eraseIdx n
          posts := s.posts ++
            [{ fn := .pf, id := 0, status := 0, cmd := 0x81, values := [r.word, r.tag, BitVec.ofNat 64 r.addr], token := none,
               asid := none, done := true, waits := [] }] })

/-- A notification for the physical function. -/
def State.tellPf (s : State) (code : BitVec 8) (value : Word64) : State :=
  { s with posts := s.posts ++
      [{ fn := .pf, id := 0, status := 0, cmd := code, values := [value], token := none, asid := none, done := true,
         waits := [] }] }

/-! ### The aperture (R455) -/

/-- Does the function own the granule of a local address? The physical function owns none. -/
def State.fnOwns (s : State) (fn : Fn) (a : Nat) : Bool :=
  match fn with
  | .pf => false
  | .vdev v => decide (a < 0x6000000000) && s.ownerOf a == some v

/-- What a host load gives: all ones where the function does not own the granule. -/
def State.apertureRead (s : State) (fn : Fn) (off len : Nat) : List Byte :=
  (List.range len).map fun i => if s.fnOwns fn (off + i) then (s.readMem (s.dev.devnum.toNat * 2 ^ 39 + off + i) 1).getD 0 0 else 0xFF#8

/-- Pieces of a host store, line by line, dropped where the function does not own the granule. -/
def State.apertureWrite (s : State) (fn : Fn) (off : Nat) (d : List Byte) : State :=
  (List.range ((off % 256 + d.length + 255) / 256)).foldl (fun st k =>
    let lo := if k = 0 then 0 else 256 * k - off % 256
    let hi := min d.length (256 * (k + 1) - off % 256)
    if st.fnOwns fn (off + lo) then st.storeLines (st.dev.devnum.toNat * 2 ^ 39 + off + lo) ((d.drop lo).take (hi - lo)) else st) s

/-- HOST_APERTURE_ACCESS: what a load gives is apertureRead's or readReg's, and it changes nothing on the device; but a
register load by a virtual device outside its own page freezes it (R466). -/
def execHostApertureAccess (fn : Fn) (what : HostAccess) (s : State) : Host.Outcome State Fault Refusal :=
  .next (match what with
    | .load _ _ => s
    | .store off d => if s.dev.boot == .ready && s.pageLive fn then s.apertureWrite fn off d else s
    | .readReg off =>
      match outside fn off with
      | some v => s.freeze { cause := 1, vdev := v, asid := none, cell := 0, slot := 0, tag := 0, addr := 0 }
      | none => s)

end Sys2Proof.Machine
end

