-- ==== Sys2Proof/Machine/Commands.lean ====
section
/-! DEFINITION. Commands for virtual devices, granules, translations, debugging and pairing (R348, R349, R370, R458 to
R467), and what every command is checked for. -/

namespace Sys2Proof.Machine

/-! ### What every command is checked for (R457 to R459) -/

/-- The virtual device of a function, when it has one. -/
def fnVdev : Fn → Option Nat
  | .pf => none
  | .vdev v => some v

/-- Is the context another virtual device's than the sender's? -/
def State.foreignCtx (s : State) (fn : Fn) (a : Nat) : Bool :=
  match fnVdev fn, s.ctx a with
  | some v, some x => x.cr.vdev != v
  | _, _ => false

/-- CDEST is none, or MODE 0b00 and PORT a or b in a context that exists (R456). -/
def State.cdestOk (s : State) (c : Cmd) : Bool :=
  match c.cdest with
  | none => true
  | some d => d.mode == .fixed && (d.port == .to .a || d.port == .to .b) && (s.ctx c.casid.toNat).isSome

/-- A command whose sender is frozen for it completes with STATUS 6; its token follows where CDEST may take one. No virtual
address goes with it (R474). -/
def State.freezeSender (s : State) (c : Cmd) (code : BitVec 8) (v cause : Nat) (asid : Option Nat) : State :=
  (s.freeze { cause := cause, vdev := v, asid := asid, cell := 0, slot := 0, tag := 0, addr := 0 }).complete
    (if s.cdestOk c && !s.foreignCtx c.fn c.casid.toNat then c else { c with cdest := none }) code 6 0

/-- The queue is halted: the device is not ready, the sender does not exist, or it is frozen (R370, R469). -/
def State.halted (s : State) (fn : Fn) : Bool :=
  s.dev.boot != .ready || match fn with
  | .pf => false
  | .vdev v => match look v s.vdevs with
    | some d => d.frozen
    | none => true

/-- The context has requests that are not performed (R297, R355). -/
def State.busyCtx (s : State) (a : Nat) : Bool :=
  s.memops.any (fun o => o.firing.asid == a && (o.phase == .accepting || o.phase == .issued || o.phase == .applied)) ||
    s.walks.any (fun w => w.asid == a) ||
    s.fills.any (fun z => z.asid == a) || s.asking a || s.invals.any fun i => i.asid == a

/-- An earlier command for the context has not taken effect yet: a BRKSET that has not reached its cell, or, for any command
but another LAUNCH, a LAUNCH that is about to be applied (R459, log entry 77). -/
def State.earlierCmd (s : State) (code : BitVec 8) (a : Nat) (x : Ctx) : Bool :=
  s.bcasts.any (fun b => b.asid == a && match b.kind with | .breakBit _ _ _ _ => true | _ => false) ||
    (code != 0x12 && x.launchReady)

/-- A command that waits at the head of its ring: for an earlier one of its context; while a save is being made or restored for
those that change what the cells hold; and while a context to be destroyed has a launch to apply or requests outstanding. -/
def State.waitsCtx (s : State) (code : BitVec 8) (a : Nat) (x : Ctx) : Bool :=
  let free := x.frames.all fun q => q.2.st == .free
  if !x.lost && s.earlierCmd code a x then true
  else if code = 0x11 then
    if x.lost then !(x.dry == .markers || x.dry == .saving || x.dry == .saved)
    else free && ((x.dry != .none && x.dry != .saved) || !x.launches.isEmpty || s.busyCtx a)
  else (code == 0x15 || code == 0x16 || code == 0x17) && x.dry != .none && !x.lost

/-- A command of the physical function alone. -/
def State.pfCommand (s : State) (code : BitVec 8) (c : Cmd) (act : State → State) : State :=
  if s.halted c.fn then s
  else
    match fnVdev c.fn with
    | some v => s.freezeSender c code v 1 none
    | none =>
      if !s.cdestOk c then s.complete { c with cdest := none } code 1 0
      else act s

/-- Any other command: a CDEST in a context of another virtual device freezes its sender. -/
def State.anyCommand (s : State) (code : BitVec 8) (c : Cmd) (act : State → State) : State :=
  if s.halted c.fn then s
  else if c.cdest.isSome && s.foreignCtx c.fn c.casid.toNat then
    s.freezeSender c code ((fnVdev c.fn).getD 0) 3 (some c.casid.toNat)
  else if !s.cdestOk c then s.complete { c with cdest := none } code 1 0
  else act s

/-- A command that names a context in ARG0. -/
def State.ctxCommand (s : State) (code : BitVec 8) (c : Cmd) (act : Nat → Ctx → State → State) : State :=
  s.anyCommand code c fun s =>
    let a := c.arg0.toNat
    match s.ctx a with
    | none => s.complete c code 2 0
    | some x =>
      if s.foreignCtx c.fn a then s.freezeSender c code ((fnVdev c.fn).getD 0) 3 (some a)
      else if s.waitsCtx code a x then s
      -- lost cell state: the context can only be destroyed (R472)
      else if x.lost && code != 0x11 then s.complete c code 2 0
      else act a x s

/-! ### Virtual devices (R348, R349, R465) -/

/-- A descriptor; none when it breaks a rule of R465. -/
def parseVdev (key : Nat) (d : List Byte) : Option (Nat × Vdev) :=
  let v : Vdev :=
    { unsignedOk := numAt d 1 1 % 2 == 1, capceil := BitVec.ofNat 8 (numAt d 2 1), qctx := numAt d 4 2, qcell := numAt d 6 2,
      qgran := numAt d 8 2, gclbase := numAt d 16 8, gclsize := numAt d 24 8, edpub := BitVec.ofNat 256 (numAt d 32 32),
      mlpub := bytesAt d 64 1952, key := key, frozen := false }
  if numAt d 0 1 < 32 ∧ numAt d 1 1 < 2 ∧ numAt d 2 1 < 16 ∧ numAt d 3 1 = 0 ∧ 1 ≤ v.qctx ∧ v.qctx ≤ 1024 ∧ 1 ≤ v.qcell ∧
    v.qcell ≤ 2048 ∧ 1 ≤ v.qgran ∧ v.qgran ≤ 384 ∧ numAt d 10 6 = 0 ∧ v.gclbase % 65536 = 0 ∧ v.gclsize % 65536 = 0 ∧
    numAt d 2016 2080 = 0
  then some (numAt d 0 1, v) else none

/-- VDEV_CREATE. -/
def execVdevCreate (c : Cmd) (s : State) : Host.Outcome State Fault Refusal :=
  .next (s.pfCommand 0x01 c fun s =>
    let a := c.arg0.toNat
    if a % 4096 ≠ 0 ∨ 2 ^ 39 < a + 4096 then s.complete c 0x01 1 0
    else
      match parseVdev s.dev.keysDrawn (s.readMem (hostAddr a) 4096) with
      | none => s.complete c 0x01 1 0
      | some (v, d) =>
        if (look v s.vdevs).isSome then s.complete c 0x01 2 0
        else
          let s1 : State :=
            { s with
              vdevs := put v d s.vdevs
              windows := put (1 + v) Window.empty s.windows
              dev := { s.dev with keysDrawn := s.dev.keysDrawn + 1 } }
          s1.complete c 0x01 0 (BitVec.ofNat 64 v))

/-- A context's requests, tokens, walks and broadcasts are gone. -/
def State.dropTraffic (s : State) (a : Nat) : State :=
  { s with
    net := s.net.filter fun f => !f.toks.any fun t => t.asid == a
    memops := s.memops.filter fun o => o.firing.asid != a
    walks := s.walks.filter fun w => w.asid != a
    fills := s.fills.filter fun z => z.asid != a
    farPages := s.farPages.filter fun p => p.asid != a
    invals := s.invals.filter fun i => i.asid != a
    bcasts := s.bcasts.filter fun b => b.asid != a
    reqs := s.reqs.filter fun r => r.asid != a
    exported := s.exported.filter fun e => e.asid != a
    stlb := s.stlb.map fun p => (p.1, p.2.filter fun e => e.asid != a)
    cells := s.cells.map fun p => (p.1, { p.2 with tlb := p.2.tlb.filter fun e => e.asid != a }) }

/-- R355, R358: partitions, TLB entries and banks go, then the ASID is free. -/
def State.destroyCtx (s : State) (a : Nat) : State :=
  match s.ctx a with
  | none => s
  | some x =>
    let s0 := (s.net.filter fun f => f.toks.any fun t => t.asid == a).foldl State.disassemble s
    let s1 := x.cr.region.foldl (fun st c =>
      if ((st.cell c).part a).isSome then st.modCell c fun d => (d.without a x).forget a else st) s0
    let s2 := s1.dropTraffic a
    -- a command of the context that is not complete ends in the wrong state; tokens for it go nowhere
    let end_ (p : Post) : Post := if p.asid == some a && !p.done then { p with done := true, status := 2 } else p
    let s3 : State :=
      { s2 with
        ctxs := del a s2.ctxs
        w1by := s2.w1by.filter fun p => p.2 != a
        posts := s2.posts.map fun p => if p.token.any fun t => t.1 == a then { end_ p with token := none } else end_ p }
    -- what waits on the cells for another context may go on
    x.cr.region.foldl (fun st c =>
      { st.gcTiles c with due := st.due ++ [.event (.heldLenterGrant c)] }) s3

/-- A virtual device with its contexts, its cells' ownership, its granules, exports and queues. -/
def State.destroyVdev (s : State) (v : Nat) : State :=
  let s1 := ((s.ctxs.filter fun p => p.2.cr.vdev == v).map Prod.fst).foldl State.destroyCtx s
  { s1 with
    cells := s1.cells.map fun p => if p.2.vdev == some v then (p.1, { p.2 with vdev := none }) else p
    vdevs := del v s1.vdevs
    granules := s1.granules.filter fun p => p.2.owner != v
    windows := del (1 + v) s1.windows
    posts := s1.posts.filter fun p => p.fn != .vdev v }

/-- Has a context of the virtual device a committed operation that is still to be performed? -/
def State.committedOps (s : State) (v : Nat) : Bool :=
  s.memops.any fun o => (o.phase == .issued || o.phase == .applied) && s.vdevOf o.firing.asid == v

/-- VDEV_DESTROY: it waits for a scrub of the virtual device's granules, and for operations that have committed, which
nothing cancels (R292). -/
def execVdevDestroy (c : Cmd) (s : State) : Host.Outcome State Fault Refusal :=
  .next (s.pfCommand 0x02 c fun s =>
    let v := c.arg0.toNat
    if (look v s.vdevs).isNone then s.complete c 0x02 2 0
    else if s.committedOps v || s.granules.any fun p => p.2.owner == v && p.2.scrubbing then s
    else (s.destroyVdev v).complete c 0x02 0 0)

/-- THAW (R370). -/
def execThaw (c : Cmd) (s : State) : Host.Outcome State Fault Refusal :=
  .next (s.pfCommand 0x03 c fun s =>
    let v := c.arg0.toNat
    match look v s.vdevs with
    | none => s.complete c 0x03 2 0
    | some d =>
      if !d.frozen then s.complete c 0x03 2 0
      else
        let mine := (s.ctxs.filter fun p => p.2.cr.vdev == v).map Prod.fst
        let s1 : State := { s with vdevs := put v { d with frozen := false } s.vdevs }
        let s2 := mine.foldl (fun st a =>
          ((st.modCtx a fun x => { x with cr := { x.cr with frozen := false } }).publishState a).progress a) s1
        s2.complete c 0x03 0 0)

/-! ### Granules (R349) -/

/-- GRANULE: granules with no owner become the virtual device's once they are scrubbed. -/
def execGranule (c : Cmd) (s : State) : Host.Outcome State Fault Refusal :=
  .next (s.pfCommand 0x04 c fun s =>
    let v := c.arg0.toNat
    let first := c.arg1.toNat
    let n := c.arg2.toNat
    match look v s.vdevs with
    | none => s.complete c 0x04 2 0
    | some d =>
      if n = 0 ∨ 384 < first + n then s.complete c 0x04 1 0
      else
        let gs := (List.range n).map fun k => first + k
        let new := gs.filter fun g => (look g s.granules).isNone
        let held := (s.granules.filter fun p => p.2.owner == v).length
        if gs.any fun g => match look g s.granules with | some w => w.owner != v | none => false then s.complete c 0x04 2 0
        else if d.qgran < held + new.length then s.complete c 0x04 3 0
        else
          let s1 : State :=
            { s with granules := new.foldl (fun m g => put g { owner := v, scrubbing := true } m) s.granules }
          if gs.all fun g => match look g s1.granules with | some w => !w.scrubbing | none => false then
            s1.complete c 0x04 0 0
          else { s1.await c 0x04 with scrubCmds := s1.scrubCmds ++ [{ cmd := c, first := first, count := n }] })

/-- A granule's lines are zero, its words empty and its poison gone. -/
def State.scrubGranule (s : State) (g : Nat) : State :=
  let a := g * 2 ^ 30
  let out (k : Nat) : Bool := decide (k < a) || decide (a + 2 ^ 30 ≤ k)
  { s with
    mem := Memory.clear s.mem a (2 ^ 30)
    poison := s.poison.filter out
    w1 := s.w1.filter fun p => out p.1
    w1by := s.w1by.filter fun p => out p.1 }

/-- GRANULE_SCRUB_COMPLETE: the granule is usable; a command whose granules are all scrubbed completes. -/
def execGranuleScrubComplete (g : Nat) (s : State) : Host.Outcome State Fault Refusal :=
  .next (match look g s.granules with
    | none => s
    | some w =>
      if !w.scrubbing then s
      else
        let s1 := s.scrubGranule g
        let s2 : State := { s1 with granules := put g { w with scrubbing := false } s1.granules }
        let ended (k : ScrubCmd) : Bool :=
          (List.range k.count).all fun i => match look (k.first + i) s2.granules with | some w => !w.scrubbing | none => true
        (s2.scrubCmds.filter ended).foldl (fun st k => st.complete k.cmd 0x04 0 0)
          { s2 with scrubCmds := s2.scrubCmds.filter fun k => !ended k })

/-! ### Launch, pre-empt -/

/-- LAUNCH joins the context's queue (R150). -/
def execLaunch (c : Cmd) (s : State) : Host.Outcome State Fault Refusal :=
  .next (s.ctxCommand 0x12 c fun a x s =>
    (s.setCtx a { x with launches := x.launches ++ [{ cmd := c, arg := c.arg1 }] }).await c 0x12)

/-- PREEMPT (R411): the drydown starts, or the command completes with the one in progress. -/
def execPreempt (c : Cmd) (s : State) : Host.Outcome State Fault Refusal :=
  .next (s.ctxCommand 0x13 c fun a x s =>
    match x.dry with
    | .none => ((s.startDrydown a 2).modCtx a fun y => { y with dryCmds := [c] }).await c 0x13
    | .saved => s.complete c 0x13 0 0
    | .resuming => (s.setCtx a { x with dry := .saved }).complete c 0x13 0 0
    | .restoring => ((s.setCtx a { x with dry := .saved }).setDstate a 2).complete c 0x13 0 0
    | _ => (s.setCtx a { x with dryCmds := x.dryCmds ++ [c] }).await c 0x13)

/-! ### Translations (R297, R367) -/

/-- An entry of the context whose page overlaps [lo, lo + n). -/
def TlbEntry.hit (e : TlbEntry) (asid lo n : Nat) : Bool :=
  e.asid == asid && decide (e.page * 2 ^ e.size < lo + n) && decide (lo < (e.page + 1) * 2 ^ e.size)

/-- Does an operation translate through a page that overlaps the range? -/
def MemOp.usesRange (o : MemOp) (asid lo n : Nat) : Bool :=
  o.origin.isNone && o.firing.asid == asid &&
    o.pages.any fun p => decide (p.1 * 2 ^ p.2 < lo + n) && decide (lo < (p.1 + 1) * 2 ^ p.2)

/-- TLB_INVAL: matching entries are dropped; it completes when what used them is performed. What is given up meanwhile and
issued again translates anew. -/
def execTlbInval (c : Cmd) (s : State) : Host.Outcome State Fault Refusal :=
  .next (s.ctxCommand 0x14 c fun a _ s =>
    let lo := c.arg1.toNat
    let n := c.arg2.toNat
    let keep (l : List TlbEntry) : List TlbEntry := l.filter fun e => !e.hit a lo n
    let s1 : State :=
      { s with
        cells := s.cells.map fun p => (p.1, { p.2 with tlb := keep p.2.tlb })
        stlb := s.stlb.map fun p => (p.1, keep p.2)
        memops := s.memops.map fun o => if o.usesRange a lo n then { o with stale := true } else o
        invals := s.invals ++
          [{ cmd := c, asid := a, lo := lo, len := n,
             ops := (s.memops.filter fun o => o.usesRange a lo n && o.pending).map MemOp.id }] }
    s1.await c 0x14)

/-- A walk of the context that could still install an overlapping entry: a walk's page may be as large as 16 GiB. -/
def Walk.mayHit (w : Walk) (i : Inval) : Bool :=
  w.asid == i.asid && decide (0 < i.len) && decide (w.va / 2 ^ 34 * 2 ^ 34 < i.lo + i.len) &&
    decide (i.lo < (w.va / 2 ^ 34 + 1) * 2 ^ 34)

/-- TLB_INVAL_COMPLETE: no walk may install an old entry, and no operation through one is unperformed. -/
def execTlbInvalComplete (n : Nat) (s : State) : Host.Outcome State Fault Refusal :=
  .next (match s.invals[n]? with
    | none => s
    | some i =>
      if s.walks.any (fun w => w.mayHit i) || s.memops.any (fun o => o.pending && i.ops.contains o.id) then s
      else State.complete { s with invals := s.invals.eraseIdx n } i.cmd 0x14 0 0)

/-! ### Debugging -/

/-- KILLFR: as KILLF (R143), with the frame word in ARG1. -/
def execKillfr (c : Cmd) (s : State) : Host.Outcome State Fault Refusal :=
  .next (s.ctxCommand 0x16 c fun a x s =>
    let w := c.arg1.toNat
    let i := w % 4096
    let g : BitVec 4 := BitVec.ofNat 4 (w / 4096)
    if 2 ^ 20 ≤ w ∨ x.pool.nframes ≤ i then s.complete c 0x16 1 0
    else
      let f := x.frame i
      let hit := (f.st == .live || f.st == .parked) && f.gen == g
      (s.endNamed a i g).complete c 0x16 0 (if hit then 0 else 1))

/-- BRKSET (R430): the change is sent to the cell; the command completes when the cell has applied it. -/
def execBrkset (c : Cmd) (s : State) : Host.Outcome State Fault Refusal :=
  .next (s.ctxCommand 0x17 c fun a x s =>
    let cell := c.arg1.toNat
    let w := c.arg2.toNat
    if !x.cr.region.contains cell || 2 ^ 17 ≤ w || w % 2 ^ 16 / 2 ^ 11 != 0 then s.complete c 0x17 1 0
    else
      let s1 : State :=
        { s with bcasts := s.bcasts ++
            [{ asid := a, kind := .breakBit cell (w % 2048) (decide (2 ^ 16 ≤ w)) c, left := [cell] }] }
      s1.await c 0x17)

/-- The limits of a sillage control word (R428). -/
def sillageOk (x : Ctx) (w : Word64) : Bool :=
  w.extractLsb' 56 7 == 0 && w.extractLsb' 27 5 == 0 && w.extractLsb' 11 5 == 0 && w.extractLsb' 48 8 != 0 &&
    w.extractLsb' 32 16 != 0 && x.cr.region.contains (w.extractLsb' 16 11).toNat

/-- SILLAGE: the word is held, and its count restarts. -/
def execSillage (c : Cmd) (s : State) : Host.Outcome State Fault Refusal :=
  .next (s.ctxCommand 0x18 c fun a x s =>
    if !sillageOk x c.arg1 then s.complete c 0x18 1 0
    else (s.setCtx a { x with sillage := c.arg1, anchored := 0 }).complete c 0x18 0 0)

/-! ### Attestation (R372) -/

/-- The fields of a quote's body, packed in the order of R372. -/
def quoteBody (measure : Digest) (a : Nat) (x : Ctx) (nonce : BitVec 256) : List Byte :=
  leBytes 32 nonce.toNat ++ leBytes 1 0xC1 ++ [firmwareLow measure, 0x02#8] ++ digestBytes measure ++
    leBytes 1 x.cr.vdev ++ leBytes 2 a ++ digestBytes x.par.attest ++ leBytes 4 x.par.nmeas.toNat ++
    leBytes 1 (if x.par.unsigned then 1 else 0)

/-- QUOTE: the body, signed with both identity keys, is written at ARG1. -/
def execQuote (c : Cmd) (s : State) : Host.Outcome State Fault Refusal :=
  .next (s.ctxCommand 0x19 c fun a x s =>
    let m := s.dev.measure
    let body := quoteBody m a x c.arg3
    let q := Config.quoteLayout body (Config.edSign m body) ((List.range 3309).map (Config.mlSign m body))
    if !s.owns x.cr.vdev c.arg1.toNat (max 1 q.length) then s.complete c 0x19 1 0
    else (s.storeLines c.arg1.toNat q).complete c 0x19 0 0)

/-! ### Pairing and exports (R461, R462) -/

/-- An entry that PAIR may write. -/
def pairOk (e : List Byte) : Bool :=
  let d := (decodeDestOk (BitVec.ofNat 32 (numAt e 0 4))).join
  decide (numAt e 4 2 ≤ 8190) && decide (numAt e 6 2 < 1024) && decide (numAt e 12 1 ≤ 2) && numAt e 13 3 == 0 &&
    (numAt e 12 1 == 0 || match d with
      | some d => (d.mode == .fixed || d.mode == .spread) && d.port != .link
      | none => false)

/-- PAIR writes one entry of the remote port table. -/
def execPair (c : Cmd) (s : State) : Host.Outcome State Fault Refusal :=
  .next (s.ctxCommand 0x1A c fun _ x s =>
    let e := (leBytes 32 c.arg3.toNat).take 16
    if 256 ≤ c.arg1.toNat ∨ pairOk e = false then s.complete c 0x1A 1 0
    else (s.homeWrite (x.cr.rptbase + 16 * c.arg1.toNat) e).complete c 0x1A 0 0)

/-- Requests of the far context that are already applied under the exports of granules. -/
def State.underExport (s : State) (a dev : Nat) (gs : List Nat) : List Nat :=
  (s.memops.filter fun o => o.firing.asid == a && o.origin.any (fun p => p.1 == dev) && o.pending &&
    o.accs.any fun k => gs.contains (k.pa % 2 ^ 39 / 2 ^ 30)).map MemOp.id

/-- EXPORT: grants or withdraws; a withdrawal completes once what was applied under it is performed. -/
def execExportGranules (c : Cmd) (s : State) : Host.Outcome State Fault Refusal :=
  .next (s.ctxCommand 0x1B c fun a x s =>
    let b := leBytes 32 c.arg3.toNat
    let dev := numAt b 0 2
    let far := numAt b 2 2
    let fl := numAt b 4 1
    let n := c.arg2.toNat
    if 8190 < dev ∨ 1024 ≤ far ∨ 8 ≤ fl ∨ numAt b 5 27 ≠ 0 ∨ n = 0 ∨ 384 < c.arg1.toNat + n then s.complete c 0x1B 1 0
    else
      let gs := (List.range n).map fun k => c.arg1.toNat + k
      if !gs.all fun g => s.ownerOf (g * 2 ^ 30) == some x.cr.vdev then s.freezeSender c 0x1B x.cr.vdev 5 (some a)
      else
        let rest := s.exported.filter fun e => !(gs.contains e.granule && e.asid == a && e.dev == dev && e.far == far)
        if fl % 2 = 1 then
          let s1 : State :=
            { s with exported := rest ++ gs.map fun g =>
                { granule := g, asid := a, dev := dev, far := far, r := fl.testBit 1, w := fl.testBit 2 } }
          s1.complete c 0x1B 0 0
        else
          let s1 := State.complete { s with exported := rest } c 0x1B 0 0
          let ops := s.underExport a dev gs
          { s1 with posts := s1.posts.modify (s1.posts.length - 1) fun p => { p with waits := ops } })

end Sys2Proof.Machine
end

