-- ==== Sys2Proof/Machine/Contexts.lean ====
section
/-! DEFINITION. Contexts created and destroyed (R350 to R358), and RESOLVE (R458, R467). -/

namespace Sys2Proof.Machine

/-! ### The context record (R351, R352) -/

/-- The fields the host writes, of a record for a virtual device at an address. -/
def recOfBytes (base v : Nat) (d : List Byte) : CtxRec :=
  let n (a k : Nat) : Nat := numAt d a k
  { base := base, vdev := v, frozen := false, ptroot := n 8 8, spillbase := n 16 8, spillmax := n 24 4,
    spill := min 64 (n 24 4), frtbase := n 32 8, frtmax := n 40 2, dumpbase := n 48 8, dumpsize := n 56 8,
    descbase := n 64 8, descn := n 72 4, arenabase := n 80 8, arenasize := n 88 8, attarbase := n 96 8,
    attarsize := n 104 8, trapbase := n 112 8, trapn := n 120 4, plogbase := n 128 8, plogsize := n 136 8,
    parkbase := n 144 8, parksize := n 152 8, rptbase := n 160 8, tracebase := n 168 8, tracesize := n 176 8,
    imageva := n 184 8, imagesize := n 192 8, sliceper := n 216 8, sliceoff := n 224 8,
    capmax := BitVec.ofNat 8 (n 232 1), orphanEn := n 235 1 % 2 == 1,
    region := (List.range 2048).filter (n 448 256).testBit, pbase := n 704 2, pcount := n 706 2 }

/-- Base and size of each area (R351, R352). -/
def CtxRec.areas (r : CtxRec) : List (Nat × Nat) :=
  [(r.ptroot, 2 ^ 23), (r.spillbase, r.spillmax * 2 ^ 20), (r.frtbase, 64 + 32 * r.frtmax), (r.dumpbase, r.dumpsize),
   (r.descbase, 64 * r.descn), (r.arenabase, r.arenasize), (r.attarbase, r.attarsize), (r.trapbase, 4352 * r.trapn),
   (r.plogbase, r.plogsize), (r.parkbase, r.parksize), (r.rptbase, 4096), (r.tracebase, r.tracesize)]

/-- Reserved bytes and bits, alignments and sizes. -/
def CtxRec.formOk (r : CtxRec) (d : List Byte) : Bool :=
  [(4, 4), (46, 2), (76, 4), (124, 4), (237, 3), (317, 3), (708, 3388)].all (fun p => numAt d p.1 p.2 == 0) &&
    r.ptroot % 2 ^ 23 == 0 && r.spillbase % 2 ^ 24 == 0 && r.spillmax % 16 == 0 && decide (r.spillmax ≤ 8192) &&
    r.frtbase % 4096 == 0 && decide (17 ≤ r.frtmax) && decide (r.frtmax ≤ 4096) && r.dumpbase % 4096 == 0 &&
    r.dumpsize % 64 == 0 && decide (64 ≤ r.dumpsize) && r.descbase % 4096 == 0 && decide (r.descn ≤ 65536) &&
    r.arenabase % 32768 == 0 && r.arenasize % 32768 == 0 && r.attarbase % 4096 == 0 && r.trapbase % 4096 == 0 &&
    decide (16 ≤ r.trapn) && r.plogbase % 4096 == 0 && r.parkbase % 4096 == 0 && r.rptbase % 4096 == 0 &&
    r.tracebase % 4096 == 0 && r.imageva % 65536 == 0 && (r.sliceper == 0 || decide (r.sliceoff < r.sliceper)) &&
    decide (r.capmax.toNat < 16) && decide (numAt d 235 1 < 2) && decide (r.pbase < 2048) && decide (r.pcount < 4096)

/-- Two ranges share a byte. -/
def overlap (p q : Nat × Nat) : Bool :=
  decide (0 < p.2) && decide (0 < q.2) && decide (p.1 < q.1 + q.2) && decide (q.1 < p.1 + p.2)
def anyOverlap : List (Nat × Nat) → Bool
  | [] => false
  | p :: t => t.any (overlap p) || anyOverlap t

/-- Cells that regions of a virtual device hold. -/
def State.cellsHeld (s : State) (v : Nat) : List Nat :=
  (s.ctxs.filter fun p => p.2.cr.vdev == v).foldl (fun l p => p.2.cr.region.foldl (fun m c => insertNat c m) l) []

/-- A cell that the region may not take (R352). -/
def State.cellTaken (s : State) (r : CtxRec) (c : Nat) : Bool :=
  let k := s.cell c
  decide (8 ≤ k.parts.length) || (!k.parts.isEmpty && k.vdev != some r.vdev) ||
    k.parts.any fun p => decide (p.base < r.pbase + r.pcount) && decide (r.pbase < p.base + p.count)

/-- What R352 makes of a record: accepted, a status, or an area outside the virtual device's granules. -/
inductive RecCheck where
  | ok
  | refuse (status : BitVec 8)
  | outside
  deriving DecidableEq, Repr

/-- Does an area of local memory lie, even in part, in a granule the virtual device does not own (R352)? -/
def State.strays (s : State) (v pa n : Nat) : Bool :=
  s.isLocal pa && populated pa && decide (0 < n) &&
    (List.range ((pa % 2 ^ 30 + n - 1) / 2 ^ 30 + 1)).any fun k =>
      let g := pa % 2 ^ 39 + k * 2 ^ 30
      decide (g < 0x6000000000) && s.ownerOf (pa + k * 2 ^ 30) != some v

/-- The checks of R352: an area in another's granule freezes its sender whatever else is wrong with the record. -/
def State.checkRec (s : State) (r : CtxRec) (v : Vdev) (d : List Byte) : RecCheck :=
  let bad (p : Nat × Nat) : Bool := !s.isLocal p.1 || decide (0x6000000000 < p.1 % 2 ^ 39 + p.2) || !populated p.1
  if r.areas.any fun p => s.strays r.vdev p.1 p.2 then .outside
  else
    if !r.formOk d || r.areas.any bad then .refuse 1
    else
      if anyOverlap ((r.base, 4096) :: r.areas) then .refuse 1
      else if r.capmax &&& ~~~v.capceil != 0 || r.region.isEmpty || r.pcount == 0 || decide (2048 < r.pbase + r.pcount) then
        .refuse 1
      else if v.qcell < (r.region.foldl (fun m c => insertNat c m) (s.cellsHeld r.vdev)).length then .refuse 3
      else if r.region.any (s.cellTaken r) then .refuse 1
      else if v.qctx ≤ (s.ctxs.filter fun p => p.2.cr.vdev == r.vdev).length then .refuse 3
      else .ok

/-! ### CTX_CREATE (R350, R353) -/

/-- Bytes of an area written as zero; whole lines lose their poison. -/
def State.wipe (s : State) (a n : Nat) : State :=
  let lo := memKey a
  let s1 := s.zeroMem a n
  { s1 with poison := s1.poison.filter fun k => !(decide (lo ≤ k) && decide (k + 256 ≤ lo + n)) }

/-- The areas as R353 writes them. -/
def State.writeAreas (s : State) (r : CtxRec) : State :=
  let s1 := [(r.trapbase, 4352 * r.trapn), (r.parkbase, r.parksize), (r.plogbase, r.plogsize), (r.tracebase, r.tracesize),
    (r.dumpbase, r.dumpsize), (r.arenabase, r.arenasize), (r.descbase, 64 * r.descn), (r.rptbase, 4096),
    (r.frtbase, 64 + 32 * r.frtmax)].foldl (fun st p => st.wipe p.1 p.2) s
  let s2 := if r.parksize < 64 then s1 else s1.writeMem (r.parkbase + 4) (leBytes 4 ((r.parksize - 64) / 64))
  if r.tracesize < 64 then s2 else s2.writeMem (r.tracebase + 24) (leBytes 4 ((r.tracesize - 64) / 32))

/-- The largest RESV up to 4 for which the pool of R353 meets R100. -/
def fitResv (nframes : Nat) : Nat := min 4 ((nframes - 17) / 15)

/-- A context just created. -/
def Ctx.fresh (r : CtxRec) : Ctx :=
  let n := min 256 r.frtmax
  { cr := r,
    par := { seed := 0, watchdog := 1000000, caps := 0, fpen := 0, homeflags := 0, purged := 0, imageid := 0, attest := 0,
             nmeas := 0, unsigned := false, trapvec := [] },
    pool := Pool.fresh n 15 (fitResv n), frames := [], active := false, cgen := 0, mask0 := 0, mask1 := 0, wrote := [],
    purgeWindow := false, planeOps := [], frameWaits := [], gangWaits := [], aside := 0, sweeps := [], launches := [],
    running := none, traps := [], ways := [], parked := [], blocks := [], watch := [], fbreaks := [], wdog := 0,
    wdogStage := false, wdogSpilled := false, dry := .none, dryReason := 0, dryCmds := [], image := [],
    dirBlocks := [], inBlocks := [], inbox := [], tstop := 0, sliceNo := 0, seqno := 0, scheduled := true, sillage := 0,
    anchored := 0, walks := [], fired := 0, lost := false }

/-- The context's partition on one cell: both planes zero, active-plane bit and cgen 0 (R147). A cell that passes to the
virtual device is scrubbed first (R357). -/
def Cell.grant (c : Cell) (asid : Nat) (r : CtxRec) : Cell :=
  let c := if c.parts.isEmpty && c.vdev != some r.vdev then { Cell.scrubbed with vdev := some r.vdev } else c
  let mine (k : Nat) : Bool := decide (r.pbase ≤ k % 2048) && decide (k % 2048 < r.pbase + r.pcount)
  { c with
    parts := c.parts ++ [{ asid := asid, base := r.pbase, count := r.pcount, active := false, cgen := 0 }]
    ops := c.ops.filter fun p => !mine p.1
    breaks := c.breaks.filter fun k => !mine k
    fired := c.fired.filter fun p => p.1 != asid }

/-- At a context's creation every word of its virtual device's memory is empty, but for words to which a context that lives
has given their state (R293, log entry 70). -/
def State.emptyWords (s : State) (asid v : Nat) : State :=
  let kept (k : Nat) : Bool :=
    s.ownerOf k != some v || ((look k s.w1by).any fun a => a != asid && (s.ctx a).any fun x => x.cr.vdev == v)
  { s with w1 := s.w1.filter fun p => kept p.1, w1by := s.w1by.filter fun p => kept p.1 }

/-- The context with an ASID comes into being. -/
def State.makeCtx (s : State) (asid : Nat) (r : CtxRec) : State :=
  let x := Ctx.fresh r
  -- its homes count its arrivals from 0, whoever had the ASID before (R6, R322)
  let s0 : State := { s.emptyWords asid r.vdev with homeSeq := s.homeSeq.filter fun p => p.1 / 1024 != asid }
  let s1 := (s0.writeAreas r).setCtx asid { x with sliceNo := r.boundaries s.ns }
  let s2 := r.region.foldl (fun st c => st.modCell c fun k => k.grant asid r) s1
  let s3 := (s2.layoutSpill asid r.spill).modPool asid id
  let s4 : State := { s3 with dev := { s3.dev with devnumFixed := true } }
  s4.publishRecord asid

/-- CTX_CREATE. -/
def execCtxCreate (c : Cmd) (s : State) : Host.Outcome State Fault Refusal :=
  .next (s.anyCommand 0x10 c fun s =>
    let a := c.arg0.toNat
    match (fnVdev c.fn).bind fun v => (look v s.vdevs).map fun d => (v, d) with
    | none => s.complete c 0x10 1 0
    | some (v, d) =>
      if a % 4096 ≠ 0 ∨ s.isLocal a = false ∨ populated a = false then s.complete c 0x10 1 0
      else if !s.owns v a 4096 then s.freezeSender c 0x10 v 5 none
      else
        let b := s.readMem a 4096
        let r := recOfBytes a v b
        match s.checkRec r d b with
        | .refuse st => s.complete c 0x10 st 0
        | .outside => s.freezeSender c 0x10 v 5 none
        | .ok =>
          match firstFree (s.ctxs.map Prod.fst) 0 1024 with
          | none => s.complete c 0x10 3 0
          | some asid => (s.makeCtx asid r).complete c 0x10 0 (BitVec.ofNat 64 asid))

/-- CTX_DESTROY: refused while a frame is not FREE; a context that lost cell state can only be destroyed (R355, R472). -/
def execCtxDestroy (c : Cmd) (s : State) : Host.Outcome State Fault Refusal :=
  .next (s.ctxCommand 0x11 c fun a x s =>
    if !x.lost && x.frames.any fun q => q.2.st != .free then s.complete c 0x11 2 0
    else (s.destroyCtx a).complete (if c.casid.toNat = a then { c with cdest := none } else c) 0x11 0 0)

/-! ### RESOLVE (R385, R387, R467) -/

/-- One half of a substitute block. -/
inductive Half where
  | absent
  | scalar (v : Word64) (poison eos : Bool)
  /-- a tile at an address -/
  | tile (h : Handle) (pa : Nat)
  /-- a tile whose handle breaks R48 -/
  | badTile
  deriving DecidableEq, Repr

/-- A half; none when it is malformed. -/
def parseHalf (b : List Byte) : Option Half :=
  let ctl := numAt b 16 1
  if 16 ≤ ctl ∨ numAt b 17 15 ≠ 0 then none
  else if !ctl.testBit 0 then some .absent
  else if !ctl.testBit 1 then
    (if numAt b 8 8 = 0 then some (.scalar (BitVec.ofNat 64 (numAt b 0 8)) (ctl.testBit 2) (ctl.testBit 3)) else none)
  else
    match Handle.ofWord (BitVec.ofNat 64 (numAt b 8 8)) with
    | some h =>
      if h.fmt != .handle && Enc.shapeOk h.fmt h.rows h.cols && decide (h.valid ≤ h.rows) then
        some (.tile { h with line := 0, poison := h.poison &&& poisonAll h.rows } (numAt b 0 8))
      else some .badTile
    | none => some .badTile

/-- Groups of a tile's rows that take a byte from a poisoned line. -/
def State.memPoison (s : State) (pa : Nat) (h : Handle) : BitVec 8 :=
  let rb := h.bytes / h.rows
  poisonOf h.rows ((List.range h.rows).filter fun k =>
    (List.range ((rb + 255) / 256 + 1)).any fun j => decide (0 < rb) && s.poisoned (min (pa + k * rb + 256 * j) (pa + k * rb + rb - 1)))

/-- The value of a half, with a tile's bytes as memory holds them. A half in a poisoned line is poisoned. -/
def State.halfVal (s : State) (blk : Bool) : Half → Option Val
  | .absent => none
  | .scalar v p e => some (.scalar v (p || blk) e)
  | .tile h pa =>
    some (.tile { h with poison := h.poison ||| s.memPoison pa h ||| (if blk then poisonAll h.rows else 0) }
      (s.readMem pa h.bytes))
  | .badTile => some (.tile { (default : Handle) with rows := 1, cols := 1 } [])

/-- The block's outcome: its halves, or what the command completes with. -/
inductive Block where
  | ok (d0 d1 : Half)
  | malformed
  | outside
  deriving DecidableEq, Repr

def State.readBlock (s : State) (x : Ctx) (pa : Nat) : Block :=
  if !s.owns x.cr.vdev pa 64 then .outside
  else
    match parseHalf (s.readMem pa 32), parseHalf (s.readMem (pa + 32) 32) with
    | some d0, some d1 =>
      let out : Half → Bool
        | .tile h a => !s.owns x.cr.vdev a h.bytes
        | _ => false
      if out d0 || out d1 then .outside else .ok d0 d1
    | _, _ => .malformed

/-- A substitute tile takes a run of lines on the trapping cell (R83, R467); none when there is no run, or a space claim
stands, to which every free line goes (R87). -/
def State.seat (s : State) (cell : Nat) : Option Val → Option (Option Val × State)
  | some (.tile h d) =>
    (if (s.cell cell).claim.isSome then none else (s.cell cell).freeRun h.lines).map fun l =>
      (some (.tile { h with line := l } d),
       s.modCell cell fun c => { c with tiles := c.tiles ++ [{ line := l, lines := h.lines, data := d }] })
  | v => some (v, s)

/-- Form of ARG1 bits [17:16]. -/
def formOf (n : Nat) : Option Form :=
  if n = 0 then some .redo else if n = 1 then some .subst else if n = 2 then some .skip else none

/-- Fields of ARG1; none when it is malformed. -/
def resolveArg (x : Ctx) (w : Word64) : Option (Nat × Form × Bool × Flags) :=
  match formOf (w.extractLsb' 16 2).toNat with
  | none => none
  | some f =>
    let i := (w.extractLsb' 0 16).toNat
    let nw := w.getLsbD 18
    let fl := w.extractLsb' 24 6
    if w.extractLsb' 30 34 != 0 || w.extractLsb' 19 5 != 0 || (nw && f != .redo) || (fl != 0 && f != .subst) ||
      decide (x.cr.trapn ≤ i) then none
    else some (i, f, nw, fl)

/-- The record is open and names a frame that still stands, delivered or escalated (R387). -/
def State.openRec (s : State) (a : Nat) (x : Ctx) (i : Nat) : Option TrapRec :=
  (x.record i).filter fun r => r.st != .resolved && s.recLive a r

/-- The resolution itself: a status 1, 2 or 3 becomes STATUS 2 with that VALUE. A tile that finds no run leaves the
command at the head of its ring. -/
def State.doResolve (s : State) (c : Cmd) (a : Nat) (r : TrapRec) (q : Resolve) (bad : Bool) : State :=
  match s.resolveStatus a r q with
  | 0 =>
    if bad then s.complete c 0x15 2 3
    else
      match (s.seat r.cell q.sub0).bind fun (v0, s1) => (s1.seat r.cell q.sub1).map fun (v1, s2) => (v0, v1, s2) with
      | none => s
      | some (v0, v1, s2) =>
        (((s2.resolve a r { q with sub0 := v0, sub1 := v1 }).2).gcTiles r.cell).complete c 0x15 0 0
  | n => s.complete c 0x15 2 (BitVec.ofNat 64 (if bad ∧ n ≠ 2 then 3 else n))

/-- RESOLVE. -/
def execResolve (c : Cmd) (s : State) : Host.Outcome State Fault Refusal :=
  .next (s.ctxCommand 0x15 c fun a x s =>
    match resolveArg x c.arg1 with
    | none => s.complete c 0x15 1 0
    | some (i, form, nw, fl) =>
      let blk : Block := if form = .subst then s.readBlock x c.arg2.toNat else .ok .absent .absent
      match blk with
      | .malformed => s.complete c 0x15 1 0
      | .outside => s.freezeSender c 0x15 x.cr.vdev 5 (some a)
      | .ok d0 d1 =>
        match s.openRec a x i with
        | none => s.complete c 0x15 2 1
        | some r =>
          let p : Bool := decide (form = .subst) && s.poisoned c.arg2.toNat
          s.doResolve c a r
            { form := form, sub0 := s.halfVal p d0, sub1 := s.halfVal p d1, flags := fl, nowatch := nw, home := r.cell }
            (d0 == .badTile || d1 == .badTile))

end Sys2Proof.Machine
end

