-- ==== Sys2Proof/Machine/Fabric.lean ====
section
/-! DEFINITION. Goarnoc Fabric: flits, tokens and memory requests from other devices (R460 to R462). -/

namespace Sys2Proof.Machine

/-- The edge store cell of a port (R460). -/
def portCell (p : Nat) : Nat :=
  if p ≤ 5 then (5 + 2 * p) * 64
  else if p ≤ 11 then (2 * (p - 6)) * 64 + 63
  else if p ≤ 17 then (17 + 2 * (p - 12)) * 64
  else (16 + 2 * (p - 18)) * 64 + 63

/-- FLIT_RECEIVE: a flit whose CRC holds and that is the next of its link delivers what it completes; any other is sent
again by the far retry buffer. -/
def execFlitReceive (port seq : Nat) (crcOk : Bool) (body : FlitBody) (s : State) : Host.Outcome State Fault Refusal :=
  .next (
    let want := (look port s.dev.seqs).getD 0
    if 24 ≤ port || s.dev.boot != .ready || !crcOk || seq != want then s
    else
      let s1 : State := { s with dev := { s.dev with seqs := put port (want + 1) s.dev.seqs } }
      match body with
      | .idle => s1
      | .token t => { s1 with fabTokens := s1.fabTokens ++ [{ t with port := port }] }
      | .request r => { s1 with fabReqs := s1.fabReqs ++ [{ r with port := port }] })

/-! ### Tokens (R158, R462) -/

/-- The inbound entry that allows a token. -/
def State.inbound (s : State) (t : FabToken) : Option Nat :=
  if (s.ctx t.target).isNone then none
  else (List.range 256).find? fun i =>
    let e := s.rpt t.target i
    e.state == 2 && e.fdev == t.dev && e.fasid == t.asid && e.key == t.key && e.fdest == t.dest

/-- VALUE of FABRIC_REFUSED (R474). -/
def FabWord (t : FabToken) : Word64 :=
  0#6 ++ BitVec.ofNat 10 t.asid ++ 0#3 ++ BitVec.ofNat 13 t.dev ++ t.dest

/-- The token as it enters the mesh at its port's cell, stamped there with the cgen (R158). -/
def State.enterFabric (s : State) (t : FabToken) (x : Ctx) (i : Nat) (d : Dest) : State :=
  let entry := portCell t.port
  let cgen := (((s.cell entry).part t.target).map Part.cgen).getD x.cgen
  let cell := destTarget d entry t.tag
  let tok : Token :=
    { asid := t.target, tag := t.tag, payload := t.payload, isTile := t.tile.isSome, poison := t.tile.isNone && t.poison,
      eos := t.tile.isNone && t.eos, cgen := cgen, cell := cell, slot := d.slot.toNat, port := portOf d.port, pcell := entry,
      pslot := i, ptime := s.ptime, remote := true, inj := false }
  let h := Handle.ofWord t.payload
  let left := match t.tile, h with
    | some _, some h => h.packets
    | _, _ => 0
  { s with net := s.net ++
      [{ toks := [tok], tile := match t.tile, h with | some b, some h => some (fitBytes h.bytes b) | _, _ => none,
         left := left, line := none, xfer := none, far := some (t.dev, t.fcell, t.fslot) }] }

/-- FABRIC_TOKEN_ARRIVAL: checked against the pairing; a token without one is dropped and reported. The tokens of a link
come one after another (R460). -/
def execFabricTokenArrival (n : Nat) (s : State) : Host.Outcome State Fault Refusal :=
  .next (match s.fabTokens[n]? with
    | none => s
    | some t =>
      if (s.fabTokens.take n).any fun u => u.port == t.port then s
      else
      let s1 : State := { s with fabTokens := s.fabTokens.eraseIdx n }
      match s.inbound t, s.ctx t.target, (decodeDest t.dest).join with
      | some i, some x, some d => (s1.noteRpt t.target i (portCell t.port) 0).enterFabric t x i d
      | _, _, _ => s1.tellPf 0x83 (FabWord t))

/-! ### Memory requests (R298, R462) -/

/-- Rights an operation needs: to read, to write. -/
def fabNeeds : FabOp → Bool × Bool
  | .load _ => (true, false)
  | .store _ | .zeroLine => (false, true)
  | _ => (true, true)

/-- The export that covers a request. -/
def State.exportFor (s : State) (r : FabRequest) : Option Exported :=
  let need := fabNeeds r.op
  if !s.isLocal r.pa || !populated r.pa then none
  else s.exported.find? fun e =>
    e.granule == r.pa % 2 ^ 39 / 2 ^ 30 && e.dev == r.dev && e.far == r.asid && (e.r || !need.1) && (e.w || !need.2) &&
      s.ownerOf r.pa == some (s.vdevOf e.asid)

/-- Parts of a line, one after another in the operation's bytes; a part that leaves the line of the request is cut off. -/
def laidOut (pa : Nat) : Nat → List (Nat × Nat) → List Seg
  | _, [] => []
  | off, (p, n) :: t =>
    if pa % 256 + p + n ≤ 256 then { pa := pa + p, off := off, len := n } :: laidOut pa (off + n) t else laidOut pa (off + n) t

/-- The operation at its home: kind, bytes, parts, and whether its home accepts it first (R304). -/
def fabKind : FabOp → OpKind × List Byte × List (Nat × Nat) × Bool
  | .load ps => (.loadScalar .z8, zeros (ps.map Prod.snd).sum, ps, false)
  | .store ps => (.store, ps.flatMap Prod.snd, ps.map fun p => (p.1, p.2.length), false)
  | .atom var fmt b => (.atom var fmt b, [], [(0, fmtBytes fmt)], false)
  | .cas fmt b c => (.cas fmt b c, [], [(0, fmtBytes fmt)], false)
  | .ared var fmt ps => (.ared var fmt, ps.flatMap Prod.snd, ps.map fun p => (p.1, p.2.length), true)
  | .iput v => (.iput v, [], [(0, 8)], true)
  | .itake => (.itake, [], [(0, 8)], true)
  | .iclr => (.iclr, [], [(0, 8)], true)
  | .join n => (.join n, [], [(0, 4)], false)
  | .waitv cond fmt b => (.waitv cond fmt b, [], [(0, fmtBytes fmt)], true)
  | .zeroLine => (.zeroLine, [], [(0, 256)], false)
  | .commit _ | .release _ => (.pref, [], [], false)

/-- The request as an operation of its home, one line of it, at DOM scope or wider (R282, R298). -/
def State.foreignOp (s : State) (r : FabRequest) (asid : Nat) : MemOp :=
  let (kind, buf, ps, accept) := fabKind r.op
  { id := s.nextOp,
    firing := { cell := r.cell, sid := 0, asid := asid, slot := r.slot, tag := r.tag, word := 0, ops := [], outs0 := [],
                outs1 := [], nowatch := false, granted := false },
    otag := r.tag, eos := false, kind := kind, scope := 1,
    accs := [{ va := r.va, pa := r.pa, parts := laidOut r.pa 0 ps, rows := [], bad := r.poison, done := false, dup := false }],
    buf := buf, count := 0, poison := 0, flags := 0, phase := if accept then .accepting else .issued, refusal := none,
    dev := none, deadline := 0, pages := [], side := false, arena := none, order := 0, listed := false,
    origin := some (r.dev, r.id) }

/-- The ARED of another device whose key is reserved for its request n. -/
def State.reservedOp (s : State) (dev n : Nat) : Option MemOp :=
  s.memops.find? fun o => o.origin == some (dev, n) && o.isAred && o.phase == .waiting

/-- AREDs of the device under the key that a request names (R324). -/
def State.keyedOps (s : State) (r : FabRequest) : List MemOp :=
  s.memops.filter fun o => o.origin.any (fun p => p.1 == r.dev) && o.isAred && o.firing.tag == r.tag &&
    o.firing.slot == r.slot && o.accs.any fun a => a.va / 256 == r.va / 256 && lineOf a.pa == lineOf r.pa

/-- Its line is no duplicate. -/
def MemOp.fresh (o : MemOp) : Bool := o.accs.any fun a => !a.dup

/-- A commit for the line of request k. A line reissued after a timeout may have its key under an earlier request: the
reservation that is no duplicate is applied, once, and the commit waits while it is being applied (R324, R328). -/
def State.commitFar (s : State) (n k : Nat) (r : FabRequest) : State :=
  let s1 : State := { s with fabReqs := s.fabReqs.eraseIdx n }
  let ops := s.keyedOps r
  let ready := ops.filter fun o => o.phase == .waiting
  if ops.any fun o => o.phase == .issued || o.phase == .applied then s
  else
    match ((ready.find? MemOp.fresh).orElse fun _ => s.reservedOp r.dev k).orElse fun _ => ready.head? with
    | some o =>
      let s2 : State := { s1 with memops := s1.memops.filter fun p => p.id == o.id || p.origin != some (r.dev, k) }
      s2.modOp o.id fun p => { p.accepted 0 with origin := some (r.dev, r.id) }
    | none =>
      { s1 with fabAnswers := s1.fabAnswers ++
          [{ dev := r.dev, id := r.id,
             reply := { refused := none, listed := false, poison := false, data := [], flags := 0 } }] }

/-- REMOTE_REQUEST_ARRIVAL: applied within what is exported to the requester; otherwise answered ACCESS code 3. The
requester of an ARED says whether it has committed: its line is applied, or its key released (R304). Requests of a link for
one line keep their order; any others come in any (R17, R298). -/
def execRemoteRequestArrival (n : Nat) (s : State) : Host.Outcome State Fault Refusal :=
  .next (match s.fabReqs[n]? with
    | none => s
    | some r =>
      if (s.fabReqs.take n).any fun q => q.port == r.port && q.pa / 256 == r.pa / 256 then s
      else
      let s1 : State := { s with fabReqs := s.fabReqs.eraseIdx n }
      match r.op with
      | .commit k => s.commitFar n k r
      | .release k =>
        match (s1.reservedOp r.dev k).orElse fun _ => (s1.keyedOps r).find? fun o => o.phase == .waiting && o.fresh with
        | some o => (s1.releaseKeys o).dropOp o.id
        | none => s1
      | _ =>
        match s.exportFor r with
        | none =>
          { s1 with fabAnswers := s1.fabAnswers ++
              [{ dev := r.dev, id := r.id,
                 reply := { refused := some (0x0B, 3), listed := false, poison := false, data := [], flags := 0 } }] }
        | some e =>
          let o := s1.foreignOp r e.asid
          { s1 with memops := s1.memops ++ [o], nextOp := o.id + 1 })

end Sys2Proof.Machine
end

