-- ==== Sys2Proof/Machine/Device.lean ====
section
/-! DEFINITION. The physical device: boot, resets, power (R469, R470), clock steps (R471), memory and soft errors (R472)
and the time of a master (R464). -/

namespace Sys2Proof.Machine

/-! ### Boot and reset (R469, R470) -/

/-- A device scrubbed and without virtual devices; host memory, which is not the device's, stays as it is. -/
def State.scrubbed (s : State) (d : Dev) : State :=
  { State.reset with
    dev := d
    mem := s.mem.filter fun p => decide (hostAddr 0 ≤ p.1)
    due := [], schedule := s.schedule, tick := s.tick }

/-- Registers of the device as boot leaves them; the thermal step and the count of keys drawn stand. -/
def State.freshDev (s : State) (boot : Boot) (time : Nat) (measure : Digest) : Dev :=
  { s.dev with
    boot := boot, time := time, cycles := 0, devnum := 0, devnumFixed := false, errcnt := 0, seqs := [],
    measure := measure }

/-- The step at which a boot from step 1 fails. -/
def bootFails (fw : Firmware) : Option Nat :=
  if !(fw.edOk && fw.mlOk) then some 1
  else if fw.version < Config.fusedVersion then some 2
  else if !fw.trained then some 4 else none

/-- Boot from step 1 with a firmware image: ready, or the recovery state with the failing step. Step 3 measures the image; one
that fails before it leaves the measurement as it was. -/
def State.bootWith (s : State) (fw : Firmware) (time : Nat) : State :=
  let m := digestOf (sha384 fw.image)
  match bootFails fw with
  | some n => s.scrubbed (s.freshDev (.recovery n) time (if n < 3 then s.dev.measure else m))
  | none => s.scrubbed (s.freshDev .ready time m)

/-- POWER_ON: boot from step 1; device time restarts from zero, and no master has been heard. -/
def execPowerOn (fw : Firmware) (s : State) : Host.Outcome State Fault Refusal :=
  .next (if s.dev.boot != .off then s
    else
      let s1 : State := { s with dev := { s.dev with ptpFree := true, ptpOffset := 0, ptpHalf := false, therm := 0 } }
      s1.bootWith fw 0)

/-- FIRMWARE_UPDATE, in the recovery state alone: boot from step 1. -/
def execFirmwareUpdate (fw : Firmware) (s : State) : Host.Outcome State Fault Refusal :=
  .next (match s.dev.boot with
    | .recovery _ => s.bootWith fw s.dev.time
    | _ => s)

/-- A device reset: every virtual device and its key destroyed, and boot from step 4, which may fail. Device time goes
on. -/
def State.resetDevice (s : State) : State :=
  let boot : Boot := if Config.trains s.tick then .ready else .recovery 4
  s.scrubbed (s.freshDev boot s.dev.time s.dev.measure)

/-- DEVICE_RESET. In the recovery state the device accepts a firmware update and nothing else (R469). -/
def execDeviceReset (s : State) : Host.Outcome State Fault Refusal :=
  .next (if s.dev.boot == .ready then s.resetDevice else s)

/-- POWER_OFF: nothing the device holds stays. -/
def execPowerOff (s : State) : Host.Outcome State Fault Refusal :=
  .next (s.scrubbed (s.freshDev .off 0 s.dev.measure))

/-! ### Thermal steps (R471) -/

/-- The die and stack temperatures at which a step is entered, and those below which it is left. -/
def thermEnter : Nat → Nat × Nat
  | 1 => (100, 90) | 2 => (103, 93) | _ => (105, 95)
def thermLeave : Nat → Nat × Nat
  | 1 => (95, 85) | 2 => (98, 88) | _ => (100, 90)

/-- The highest step that the temperatures enter. -/
def thermUp (die stack : Nat) : Nat :=
  ((List.range 3).filter fun k => decide ((thermEnter (k + 1)).1 ≤ die) || decide ((thermEnter (k + 1)).2 ≤ stack)).foldl
    (fun m k => max m (k + 1)) 0

/-- Steps are left one after another while both temperatures are below their bounds. -/
def thermDown (die stack : Nat) : Nat → Nat
  | 0 => 0
  | k + 1 =>
    if die < (thermLeave (k + 1)).1 ∧ stack < (thermLeave (k + 1)).2 then thermDown die stack k else k + 1

def thermStep (cur die stack : Nat) : Nat := max (thermUp die stack) (thermDown die stack cur)

/-- THERMAL_STEP_CHANGE. -/
def execThermalStepChange (die stack : Nat) (s : State) : Host.Outcome State Fault Refusal :=
  .next { s with dev := { s.dev with therm := thermStep s.dev.therm die stack } }

/-! ### Device time (R464) -/

/-- PTP_MESSAGE: up to 1 ms is slewed; a larger forward offset is stepped, a larger backward one absorbed at half rate. -/
def execPtpMessage (offset : Int) (s : State) : Host.Outcome State Fault Refusal :=
  .next (
    let d := { s.dev with ptpFree := false, ptpOffset := 42 * offset, ptpHalf := false }
    if s.dev.boot == .off then s
    else if 1000000 < offset then
      { s with dev := { d with time := d.time + 42 * offset.toNat, ptpOffset := 0 } }
    else if offset < -1000000 then { s with dev := { d with ptpHalf := true } }
    else { s with dev := d })

/-- PTPFREE: without a master device time runs free, and a status bit shows it. -/
def execPtpfree (s : State) : Host.Outcome State Fault Refusal :=
  .next (if s.dev.boot == .off then s
    else { s with dev := { s.dev with ptpFree := true, ptpOffset := 0, ptpHalf := false } })

/-! ### Errors (R472) -/

/-- CORRECTED_ERROR: repaired in place, and counted. -/
def execCorrectedError (s : State) : Host.Outcome State Fault Refusal :=
  .next { s with dev := { s.dev with errcnt := s.dev.errcnt + 1 } }

/-- Every row group of the tile that holds a line of its cell is poisoned, in the token that names it. -/
def Token.spoil (line : Nat) (t : Token) : Token :=
  match t.isTile, Handle.ofWord t.payload with
  | true, some h =>
    if h.line ≤ line ∧ line < h.line + h.lines then { t with payload := Handle.word { h with poison := poisonAll h.rows } } else t
  | _, _ => t

def Val.spoil (line : Nat) : Val → Val
  | .tile h d => if h.line ≤ line ∧ line < h.line + h.lines then .tile { h with poison := poisonAll h.rows } d else .tile h d
  | v => v

def Entry.spoil (line : Nat) (e : Entry) : Entry := if e.block.isNone then { e with tok := e.tok.spoil line } else e
def Opnd.spoil (line : Nat) (o : Opnd) : Opnd := { o with tok := o.tok.spoil line, val := o.val.spoil line }
/-- Every row group of a token's tile is poisoned. -/
def Token.spoilAll (t : Token) : Token :=
  match t.isTile, Handle.ofWord t.payload with
  | true, some h => { t with payload := Handle.word { h with poison := poisonAll h.rows } }
  | _, _ => t
def Opnd.spoilAll (o : Opnd) : Opnd :=
  { o with tok := o.tok.spoilAll, val := match o.val with | .tile h d => .tile { h with poison := poisonAll h.rows } d | v => v }

/-- What a held set has read at its selection is spoiled with the tile that its entry names now: the tile may lie on other
lines since (R87 step 4). -/
def FSet.spoil (line : Nat) (x : FSet) : FSet :=
  { x with
    args := x.args.map (Entry.spoil line)
    snap := x.snap.map fun f =>
      { f with ops := f.ops.zipIdx.map fun p =>
          if x.args[p.2]?.any fun e => e.spoil line != e then p.1.spoilAll else p.1 } }

/-- A load's tile, as far as it has been loaded, lies on the lines reserved for it (R84). -/
def MemOp.spoil (cell line : Nat) (o : MemOp) : MemOp :=
  match o.kind, o.firing.room with
  | .load h, some l =>
    if o.firing.cell == cell && decide (l ≤ line) && decide (line < l + h.lines) then { o with poison := poisonAll h.rows } else o
  | _, _ => o

/-- A flight's tile is in assembly on the cell, on lines among which the line is (R83). -/
def Flight.assembling (f : Flight) (cell line : Nat) : Bool :=
  f.cell == cell && f.line.any fun l => decide (l ≤ line) && decide (line < l + f.lines)

/-- Tokens of a flight that name a line of the cell, whose transfer still reads it, or whose tile is assembled on it. -/
def Flight.spoil (xs : List Xfer) (cell line : Nat) (f : Flight) : Flight :=
  if f.assembling cell line then { f with toks := f.toks.map Token.spoilAll }
  else
  let here (t : Token) : Bool := (f.tile.isNone && t.cell == cell) || xs.any fun x => f.xfer == some x.id && x.cell == cell
  { f with toks := f.toks.map fun t => if here t then t.spoil line else t }

/-- A scratchpad or tile-store line. -/
def State.spoilLine (s : State) (cell line : Nat) : State :=
  let s1 := s.modCell cell fun c =>
    { c with
      entries := c.entries.map (Entry.spoil line)
      sets := c.sets.map (FSet.spoil line) }
  { s1 with
    cells := s1.cells.map fun p => (p.1,
      { p.2 with input := p.2.input.map fun h => { h with flight := h.flight.spoil s1.xfers cell line } })
    memops := s1.memops.map (MemOp.spoil cell line)
    net := s1.net.map (Flight.spoil s1.xfers cell line)
    ctxs := s1.ctxs.map fun p => (p.1,
      { p.2 with
        ways := p.2.ways.map fun w => if w.cell == cell && w.block.isNone then { w with entry := w.entry.spoil line } else w
        traps := p.2.traps.map fun r => if r.cell == cell then
            { r with args := r.args.map (Entry.spoil line), ops := r.ops.map (Opnd.spoil line) } else r }) }

/-- Handle and data of the filled slots of a ring; the tile that holds the line is poisoned. -/
def Ring.spoil (line : Nat) (r : Ring) : Ring :=
  { r with tiles := r.tiles.zipIdx.map fun p =>
      let first := r.base + (r.head + p.2) % r.nslot * r.slotl
      if first ≤ line ∧ line < first + p.1.1.lines then ({ p.1.1 with poison := poisonAll p.1.1.rows }, p.1.2) else p.1 }

/-- Lost cell state: the context is stopped by steps 1 to 3 of R411, never saved, and the host is told. -/
def State.loseState (s : State) (cell asid : Nat) : State :=
  match s.ctx asid with
  | none => s
  | some x =>
    if !x.cr.region.contains cell || x.lost || ((s.cell cell).part asid).isNone then s
    else
      let s1 := s.setCtx asid { x with lost := true, dry := if x.dry = .none then .stopping else x.dry }
      let s2 : State :=
        if x.dry = .none then
          State.abandonWalks { s1 with bcasts := s1.bcasts ++ [{ asid := asid, kind := .stop, left := x.cr.region }] } asid
        else s1
      let s3 := x.dryCmds.foldl (fun st c => st.complete c 0x13 5 0) (s2.modCtx asid fun y => { y with dryCmds := [] })
      s3.tellPf 0x82 (BitVec.ofNat 64 (cell + asid * 2 ^ 16))

/-- UNCORRECTABLE_ERROR: what it does by where it lies. -/
def execUncorrectableError (at_ : ErrSite) (s : State) : Host.Outcome State Fault Refusal :=
  .next (match at_ with
    | .hbmLine pa => if s.isLocal pa && populated pa then (s.setPoison pa).retest pa else s
    | .tileLine cell line => s.spoilLine cell line
    | .ringLine cell line => s.modCell cell fun c => { c with rings := c.rings.map fun p => (p.1, p.2.spoil line) }
    | .accRow cell acc row => s.modCell cell fun c =>
        let a := c.acc acc
        if row < a.rows then c.setAcc acc { a with poison := a.poison ||| (1#8 <<< group a.rows row) } else c
    | .tlb cell n => s.modCell cell fun c => { c with tlb := c.tlb.eraseIdx n }
    | .sharedTlb die n => { s with stlb := s.stlb.map fun p => if p.1 == die then (p.1, p.2.eraseIdx n) else p }
    | .cellState cell asid => s.loseState cell asid
    | .controlCore => if s.dev.boot == .ready then s.resetDevice else s)

end Sys2Proof.Machine
end

