-- ==== Sys2Proof/Machine/Queue.lean ====
section
/-! DEFINITION. Submission rings: what a slot holds and how the control core takes a command (R456, R458, R466). -/

namespace Sys2Proof.Machine

/-- The event of a command code (R458). -/
def commandOf (code : Nat) (c : Cmd) : Option Instr :=
  match code with
  | 0x01 => some (.vdevCreate c)
  | 0x02 => some (.vdevDestroy c)
  | 0x03 => some (.thaw c)
  | 0x04 => some (.granule c)
  | 0x10 => some (.ctxCreate c)
  | 0x11 => some (.ctxDestroy c)
  | 0x12 => some (.launch c)
  | 0x13 => some (.preempt c)
  | 0x14 => some (.tlbInval c)
  | 0x15 => some (.resolve c)
  | 0x16 => some (.killfr c)
  | 0x17 => some (.brkset c)
  | 0x18 => some (.sillage c)
  | 0x19 => some (.quote c)
  | 0x1A => some (.pair c)
  | 0x1B => some (.exportGranules c)
  | _ => none

/-- A submission slot: the code, whether the slot is well formed, and the rest. -/
structure Slot where
  code : Nat
  ok : Bool
  cmd : Cmd
  deriving DecidableEq, Repr

/-- The 128 bytes of a slot (R456). A revision 1 command ends at byte 63. -/
def slotOf (fn : Fn) (b : List Byte) : Slot :=
  let rev := numAt b 1 1
  let dest := decodeDest (BitVec.ofNat 32 (numAt b 64 4))
  let two := rev == 2
  { code := numAt b 0 1,
    ok := (rev == 1 || two) && numAt b 2 2 == 0 &&
      (!two || (numAt b 70 2 == 0 && numAt b 80 48 == 0 && decide (numAt b 68 2 < 1024) && dest.isSome)),
    cmd :=
      { fn := fn, id := BitVec.ofNat 32 (numAt b 4 4), arg0 := BitVec.ofNat 64 (numAt b 8 8),
        arg1 := BitVec.ofNat 64 (numAt b 16 8), arg2 := BitVec.ofNat 64 (numAt b 24 8),
        arg3 := BitVec.ofNat 256 (numAt b 32 32), cdest := if two then dest.join else none,
        casid := BitVec.ofNat 10 (numAt b 68 2), ctag := BitVec.ofNat 64 (numAt b 72 8) } }

/-- A command stands in the ring, its function's queues run, and the completion ring is not full. -/
def State.canTake (s : State) (fn : Fn) : Bool :=
  let w := s.window fn
  s.pageLive fn && !s.halted fn && w.enable && w.sqhead != w.sqtail && w.room 1

/-- The slot at SQHEAD. -/
def State.slotAt (s : State) (fn : Fn) : Slot :=
  let w := s.window fn
  slotOf fn (s.readMem (hostAddr (w.sqbase.toNat + 128 * w.sqhead)) 128)

/-- SQHEAD goes on. -/
def State.popSlot (s : State) (fn : Fn) : State :=
  s.modWindow fn fun w => { w with sqhead := (w.sqhead + 1) % max 1 w.sqsize.toNat }

/-- A slot that is no command: it completes with STATUS 1, and its CDEST counts as any other's (R456, R457). -/
def State.refuseSlot (s : State) (fn : Fn) (k : Slot) : State :=
  let code := BitVec.ofNat 8 k.code
  (s.anyCommand code k.cmd fun st => st.complete k.cmd code 1 0).popSlot fn

/-- The command at the head of a ring, taken. One that must wait adds no completion, and stays. -/
def State.takeCommand (exec : Instr → State → Host.Outcome State Fault Refusal) (s : State) (fn : Fn) :
    Host.Outcome State Fault Refusal :=
  if !s.canTake fn then .next s
  else
    let k := s.slotAt fn
    match commandOf k.code k.cmd with
    | none => .next (s.refuseSlot fn k)
    | some i =>
      if !k.ok && !((fnVdev fn).isSome && k.code ≤ 4) then .next (s.refuseSlot fn k)
      else
        match exec i s with
        | .next s1 => .next (if s1.posts == s.posts then s else s1.popSlot fn)
        | .fault r => .fault r
        | .refused r => .refused r

end Sys2Proof.Machine
end

