-- ==== Sys2Proof/Machine/Units.lean ====
section
/-! DEFINITION. The units: how long a firing keeps its unit (R199, R218, R232, R251, R275), which formed sets may start
(R90, R203, R237, R271), and which of them a unit starts (R91). -/

namespace Sys2Proof.Machine

/-! ### How long a firing keeps its unit -/

/-- A quotient rounded up. -/
def upQuot (a b : Nat) : Nat := (a + b - 1) / b

/-- Bytes of a tile of a format and shape. -/
def tileBytes (fmt : Fmt) (rows cols : Nat) : Nat := ({ (default : Handle) with fmt := fmt, rows := rows, cols := cols }).bytes

/-- R218: the tile operators, by the elements or bytes of the result. -/
def tileCycles (opc : Nat) (w : OpFields) (f : Firing) : Nat :=
  let a := f.handle .a
  let n := a.rows * a.cols
  let rate (wide : Bool) : Nat := if wide then 64 else 128
  let wide (x : Fmt) : Bool := decide (32 ≤ width x)
  if opc = 0x53 then 8 + upQuot n (rate (w.fmt == .f32))
  else if opc = 0x54 ∨ (0x59 ≤ opc ∧ opc ≤ 0x5E) then 12 + upQuot n 16
  else if opc = 0x5F then 8 + upQuot n (rate (wide w.fmt || wide (srcOf w)))
  else if opc = 0x61 then 8 + upQuot ((w.imm.toNat % 64 + 1) * (w.imm.toNat / 64 % 512 + 1)) (rate (wide w.fmt))
  else if opc = 0x68 then 6 + upQuot (tileBytes w.fmt a.cols a.rows) 64
  else if opc = 0x69 then
    let d := (f.word' .b).toNat
    6 + upQuot (tileBytes w.fmt (d / 2 ^ 15 % 64 + 1) (d / 2 ^ 21 % 512 + 1)) 64
  else 8 + upQuot n (rate (wide w.fmt))

/-- R232: reductions and routing, by the elements of the operand. -/
def reduceCycles (opc : Nat) (w : OpFields) (f : Firing) : Nat :=
  let a := f.handle .a
  let n := a.rows * a.cols
  if opc = 0x84 then 12 + upQuot n 32 + upQuot (a.rows * (w.imm.toNat % 1024 + 1)) 16
  else if opc = 0x85 then 12 + upQuot (2 * n) 16
  else if opc = 0x86 then 8 + 2 ^ (w.imm.toNat % 16) + upQuot a.bytes 64
  else if opc = 0x87 then 6 + upQuot (tileBytes w.fmt (max 1 (a.valid + (f.handle .b).valid)) a.cols) 64
  else if opc = 0x88 then 16 + upQuot (n * (a.cols.log2 + 1)) 32
  else if opc = 0x89 then 8 + upQuot n 32
  else 10 + upQuot n (if 32 ≤ width w.fmt then 64 else 128)

/-- R251: the matrix group. A word names the accumulator that ADRAIN empties. -/
def matrixCycles (s : State) (opc : Nat) (w : OpFields) (f : Firing) : Nat :=
  let a := f.handle .a
  let b := f.handle .b
  let rate : Nat := if opc = 0x71 then 8192 else match w.fmt with
    | .mx4 | .s4 => 8192
    | .bf16 | .f16 => 2048
    | _ => 4096
  let window : Nat := (w.imm.toNat / 64 % 64 + 1) * (w.imm.toNat / 262144 % 64 + 1)
  if opc = 0x72 then if a.valid = 0 then 4 else 16 + upQuot (a.valid * b.rows * a.cols) rate
  else if opc = 0x70 then 16 + upQuot (a.rows * b.rows * a.cols) rate
  else if opc = 0x71 then 16 + upQuot (a.rows * b.rows * b.cols) rate
  else if opc = 0x73 then 8 + upQuot (a.rows * (21 * a.cols / 32)) 64
  else if opc = 0x74 then 8
  else if opc = 0x75 then
    let acc := (s.cell f.cell).acc ((f.word' .a).extractLsb' 16 2).toNat
    8 + 2 ^ (w.imm.toNat % 8) + upQuot (acc.rows * acc.cols) 64
  else if opc = 0x76 then 6 + upQuot a.bytes 128
  else 6 + upQuot window 64

/-- The resident routine that a set of an XOP runs: its binding and bank. -/
def State.routineOf (s : State) (f : Firing) (opc : Nat) (w : OpFields) : Option (Binding × Bank) := do
  let b ← s.binding f.asid (opc - 0xC0)
  let k ← (s.cell f.cell).bankOf f.asid (opc - 0xC0)
  if b.admits w && k.st == .resident then pure (b, k) else none

/-- R275: a routine's start, its micro-cycles, and the result's way out. One that traps has used what its snapshot shows. -/
def attarCycles (s : State) (opc : Nat) (w : OpFields) (f : Firing) : Nat :=
  match s.routineOf f opc w with
  | none => 0
  | some (b, k) =>
    match xopRun b k.words w s f (s.env f) with
    | .ok r =>
      let (rows, cols, _) := b.resultShape (f.handle .a)
      12 + r.used + (if b.shape < 3 then upQuot (tileBytes ((b.resultFmt w).getD .z32) rows cols) 64 else 0)
    | .error t => 6 + (t.snap.map AttarSnap.micro).getD 0

/-- The units that a firing keeps besides the cycle of its start, and for how many cycles from then; its effect comes at the
start (log entry 88). -/
def unitCycles (s : State) (f : Firing) : List (UnitKind × Nat) :=
  match (decodeSlot f.word).bind opcodeOf with
  | none => []
  | some (op, w) =>
    let opc := op.toNat
    if 0x50 ≤ opc ∧ opc ≤ 0x6B then [(.vector, tileCycles opc w f)]
    else if 0x80 ≤ opc ∧ opc ≤ 0x8A then [(.vector, reduceCycles opc w f)]
    else if 0x70 ≤ opc ∧ opc ≤ 0x78 then [(.matrix, matrixCycles s opc w f)]
    else if 0xC0 ≤ opc then
      let n := attarCycles s opc w f
      -- a routine that names an accumulator holds the matrix unit, too (R271)
      (.vector, n) :: if (s.binding f.asid (opc - 0xC0)).any fun b => b.accp != 0 then [(.matrix, n)] else []
    else []

/-! ### Which sets may start -/

/-- Cycles for which the word's operator keeps the scalar unit's divider busy (R199). That FDIV and FSQRT keep it is
log entry 86. -/
def dividerCycles (x : BitVec 128) : Option Nat :=
  let opc := (x.extractLsb' 120 8).toNat
  let int := opc = 0x24 || opc = 0x25
  match (decodeSlot x).bind opcodeOf with
  | none => none
  | some (_, w) =>
    match w.fmt with
    | .z8 | .s8 => if int then some 12 else none
    | .z16 | .s16 => if int then some 14 else none
    | .z32 | .s32 => if int then some 20 else none
    | .z64 | .s64 => if int then some 36 else none
    | .f16 | .bf16 => if opc = 0x44 || opc = 0x45 then some 10 else none
    | .f32 => if opc = 0x44 || opc = 0x45 then some 14 else none
    | _ => none

/-- Does no firing keep the unit (R203, R237)? -/
def Cell.idle (c : Cell) (now : Nat) (u : UnitKind) : Bool := c.busy.all fun p => p.1 != u || decide (p.2 ≤ now)

/-- Has the unit room to start the set now: it starts one firing a cycle (R90), the vector and the matrix unit run one at a
time (R203, R237), and a division waits for the divider (R199)? -/
def Cell.unitFree (c : Cell) (now : Nat) (u : UnitKind) (st : FSet) : Bool :=
  !c.started.any (fun p => p.1 == u && p.2 == now) && c.idle now u &&
    ((dividerCycles (c.activeSlot st.asid st.slot).word).isNone || decide (c.divFree ≤ now))

/-- The opcode of the word in a set's slot. -/
def State.setOpcode (s : State) (id : Nat) (st : FSet) : Nat :=
  (((s.cell id).activeSlot st.asid st.slot).word.extractLsb' 120 8).toNat

/-- An attar that names an accumulator waits for the matrix unit, too (R271). -/
def State.matrixFree (s : State) (id : Nat) (st : FSet) : Bool :=
  (s.cell id).idle s.dev.cycles .matrix || decide (s.setOpcode id st < 0xC0) ||
    !(s.binding st.asid (s.setOpcode id st - 0xC0)).any fun b => b.accp != 0

/-- A routine that runs into its budget traps only after all its micro-cycles. Until they have passed, what else its frame
has under way comes first (R269, R275, R454, log entry 88). -/
def State.overruns (s : State) (id : Nat) (st : FSet) : Bool :=
  decide (0xC0 ≤ s.setOpcode id st) && decide (s.dev.cycles < st.formedAt + 65536) &&
    s.frameActs st.asid (tagFrame st.tag) (tagGen st.tag) (fun c x => decide (s.setOpcode c x < 0xC0)) &&
    let f := (s.firingOf id st).1
    match (decodeSlot f.word).bind opcodeOf with
    | some (op, w) =>
      (s.routineOf f op.toNat w).any fun p =>
        match xopRun p.1 p.2.words w s f (s.env f) with
        | .error t => t.cls == 0x13 && t.code == 1
        | .ok _ => false
    | none => false

/-- FENCE issues no operation (R314). -/
def State.isFence (s : State) (id : Nat) (st : FSet) : Bool :=
  ((s.cell id).activeSlot st.asid st.slot).word.extractLsb' 120 8 == 0x97#8

/-- May the set be started, result lines apart (R90, R300, R370, R411)? A freeze and a drydown's stop let firings already
running complete. -/
def State.startable (s : State) (id : Nat) (u : UnitKind) (st : FSet) : Bool :=
  st.hold.isNone && (!(s.cell id).stops.contains st.asid || st.walking) && st.args.all (fun e => e.block.isNone) &&
    (match s.ctx st.asid with | some x => (!x.cr.frozen || st.walking) && !x.lost | none => false) &&
    s.setUnit id st == u && !(u == .memory && decide (64 ≤ s.outstanding id) && !s.isFence id st) &&
    (s.cell id).unitFree s.dev.cycles u st && s.matrixFree id st && !s.overruns id st

/-- The order of R90: is x preferred to y? -/
def State.before (s : State) (x y : FSet) : Bool :=
  let k (t : FSet) : List Nat :=
    [if 64 ≤ t.bypass then 0 else 1, if s.isHandler t.asid t.tag then 0 else 1, t.formedAt, t.slot, t.asid,
     t.tag.toNat]
  let rec lt : List Nat → List Nat → Bool
    | a :: as, b :: bs => a < b || (a == b && lt as bs)
    | _, _ => false
  lt (k x) (k y)

def State.insertSet (s : State) (x : FSet) : List FSet → List FSet
  | [] => [x]
  | y :: t => if s.before x y then x :: y :: t else y :: s.insertSet x t

/-- The startable sets of a unit, preferred first. -/
def State.candidates (s : State) (id : Nat) (u : UnitKind) : List FSet :=
  ((s.cell id).sets.filter (s.startable id u)).foldr s.insertSet []

/-- Would the set start now: do its result lines fit, and is what its instruction names there (R87, R90, R274)? -/
def State.wouldStart (exec : Instr → State → Host.Outcome State Fault Refusal) (s : State) (id : Nat) (st : FSet) : Bool :=
  match s.start exec id st with
  | .next s1 => s1.sel.isNone
  | .fault _ | .refused _ => false

/-- After the start of set st by unit u, which left s1: it is progress (R94), the unit starts no more in this cycle
(R90), a division keeps the divider (R199) and the units named in keeps are kept for so many cycles (R203, R237), and the
sets named in passed have been bypassed once more (R91). -/
def State.afterStart (s1 : State) (id : Nat) (u : UnitKind) (st : FSet) (word : BitVec 128) (keeps : List (UnitKind × Nat))
    (passed : List Nat) : State :=
  (s1.modCell id fun c =>
    { c with
      started := (u, s1.dev.cycles) :: c.started.filter fun p => p.1 != u
      divFree := match dividerCycles word with | some n => s1.dev.cycles + n | none => c.divFree
      busy := keeps.map (fun p => (p.1, s1.dev.cycles + p.2)) ++ c.busy.filter fun p => !keeps.any fun q => q.1 == p.1
      sets := c.sets.map fun x => if passed.contains x.sid then { x with bypass := x.bypass + 1 } else x }).progress st.asid

/-- The first candidate that starts; one whose result lines cannot be reserved is passed over (R87). The others that
could have started are bypassed (R91). -/
def State.fireFirst (exec : Instr → State → Host.Outcome State Fault Refusal) (id : Nat) (u : UnitKind) :
    List FSet → State → Host.Outcome State Fault Refusal
  | [], s => .next s
  | st :: rest, s =>
    match s.start exec id st with
    | .next s1 =>
      if s1.sel.isSome then fireFirst exec id u rest { s1 with sel := none }
      else
        .next (s1.afterStart id u st ((s.cell id).activeSlot st.asid st.slot).word (unitCycles s (s.firingOf id st).1)
          ((rest.filter (s.wouldStart exec id)).map FSet.sid))
    | .fault r => .fault r
    | .refused r => .refused r

/-- A unit of a cell selects a set and fires it; nothing happens when none is startable. -/
def State.fireUnit (exec : Instr → State → Host.Outcome State Fault Refusal) (s : State) (id : Nat) (u : UnitKind) :
    Host.Outcome State Fault Refusal :=
  State.fireFirst exec id u (s.candidates id u) s

end Sys2Proof.Machine
end

