-- ==== Sys2Proof/Machine/Clock.lean ====
section
/-! DEFINITION. Time: device time and cycles (R10, R464, R471), the watchdog's count (R94), and what may happen next. -/

namespace Sys2Proof.Machine

/-- Device time over a span: how far it advances, and the offset still to be absorbed (R464). -/
def slewed (d : Dev) (raw free : Nat) : Nat × Int :=
  let off := d.ptpOffset.natAbs
  if d.ptpHalf then
    let a := min off (raw / 2)
    (raw - a, d.ptpOffset + a)
  else
    let a := min off (free % (raw * 200 / 1000000 + 1))
    if 0 ≤ d.ptpOffset then (raw + a, d.ptpOffset - a) else (raw - a, d.ptpOffset + a)

/-- Requests, tokens or spills of the context are under way: the count is held at zero (R94). -/
def State.wdogBusy (s : State) (a : Nat) (x : Ctx) : Bool :=
  s.net.any (fun f => f.toks.any fun t => t.asid == a) ||
    s.memops.any (fun o => o.firing.asid == a && o.origin.isNone && (!o.listed || o.phase == .accepting) &&
      o.phase != .abandoned) ||
    s.walks.any (fun w => w.asid == a) || s.fills.any (fun z => z.asid == a) || s.asking a ||
    s.reqs.any (fun r => r.asid == a) ||
    ((s.planeHead a).any (fun p => p.1.works) && !s.flipStuck a) ||
    x.cr.region.any fun c =>
      (s.cell c).banks.any (fun b => b.asid == a && b.st == .loading) ||
        (s.cell c).sets.any (fun f => f.asid == a && f.hold == some .walk) ||
        (s.cell c).input.any fun h => h.why == .lookup && h.flight.toks.any fun t => t.asid == a

/-- The watchdog does not count (R94, R97, R370, R384). -/
def Ctx.wdogOff (x : Ctx) : Bool :=
  x.cr.frozen || !x.scheduled || x.dry != .none || !(x.frames.any fun q => q.2.st == .live || q.2.st == .parked) ||
    x.frames.any (fun q => q.2.src == .handler && q.2.st != .free) ||
    x.traps.any fun r => r.st == .escalated || (r.pending && (r.trap.cls == 0x04 || r.trap.cls == 0x07))

/-- One context's count over a span; what holds it at zero is progress, and stage one is forgotten (R95). -/
def State.wdogTick (s : State) (inc : Nat) (a : Nat) (x : Ctx) : Ctx :=
  if x.wdogOff then x
  else if s.wdogBusy a x then { x with wdog := 0, wdogStage := false, wdogSpilled := false }
  else { x with wdog := x.wdog + inc }

/-- Cycles pass. -/
def State.advance (s : State) (dt : Nat) : State :=
  if s.dev.boot == .off || dt == 0 then s
  else
    let (inc, off) := slewed s.dev (dt * cycleUnits s.dev.therm) (Config.slew s.tick)
    { s with
      dev := { s.dev with time := s.dev.time + inc, cycles := s.dev.cycles + dt, ptpOffset := off,
                          ptpHalf := s.dev.ptpHalf && off != 0 }
      ctxs := s.ctxs.map fun p => (p.1, s.wdogTick inc p.1 p.2) }

/-! ### What may happen next (R93) -/

/-- Events of a packet held at a cell's input. -/
def inputActs (c n : Nat) : List Act :=
  [Act.event (Instr.heldTokenAccept c n), Act.event (Instr.cgenHoldRelease c n), Act.event (Instr.spillLookup c n)]

/-- Events of the cells: firings, and what waits on a cell. -/
def cellActs (p : Nat × Cell) : List Act :=
  let c := p.1
  let k := p.2
  List.flatten
    [[Act.fire c UnitKind.scalar, Act.fire c UnitKind.vector, Act.fire c UnitKind.matrix, Act.fire c UnitKind.memory, Act.fire c UnitKind.ring],
     (List.range k.input.length).flatMap (inputActs c),
     (List.range k.banks.length).map (fun n => Act.event (Instr.attarBankLoad c n)),
     (List.range k.loops.length).map (fun n => Act.event (Instr.heldLnextRelease c n)),
     k.sets.map (fun f => Act.event (Instr.fenceRelease c f.sid)),
     k.rings.flatMap (fun r => [Act.event (Instr.bputRelease c r.1), Act.event (Instr.bgetRelease c r.1)]),
     [Act.event (Instr.refill c), Act.event (Instr.spaceClaimSpill c), Act.event (Instr.spilledSetReturn c),
      Act.event (Instr.heldLenterGrant c)]]

/-- Events of the contexts. -/
def ctxActs (p : Nat × Ctx) : List Act :=
  let a := p.1
  let is : List Instr :=
    [.watchdogFirstExpiry a, .watchdogSecondExpiry a, .heldFrameGrant a, .gangGrant a, .residencyApplyDone a, .launchApply a,
     .loadgApply a, .drainQuiescent a, .swapgFlip a, .trapRecordWrite a, .trapDelivery a, .handlerFault a, .sliceBoundary a,
     .drydownStopAcknowledged a, .drydownFinished a, .drydownPerformed a, .drydownMarkersArrived a, .drydownSaved a,
     .contextRestore a]
  List.append (is.map Act.event) (p.2.sweeps.map fun w => Act.event (Instr.sweepComplete a w.frame))

/-- Events of a memory operation. -/
def MemOp.acts (o : MemOp) : List Act :=
  List.append ((List.range o.accs.length).map fun k => Act.event (Instr.homeAccess o.id k))
    [Act.event (Instr.acceptanceReply o.id), Act.event (Instr.memoryOpPerformed o.id none), Act.event (Instr.remoteTimeout o.id)]

/-- Events of the n-th broadcast at one cell. -/
def bcastActs (n c : Nat) : List Act :=
  let is : List Instr :=
    [.parkingBroadcastArrival n c, .breakBitApplied n c, .sweepBroadcastArrival n c, .planeFlipArrival n c, .frameBreakArrival n c,
     .watchArmArrival n c, .stopBroadcastArrival n c]
  is.map Act.event

/-- Events of the n-th request at the dispatcher of die 0. -/
def reqActs (n : Nat) : List Act :=
  let is : List Instr := [.parkDecided n, .resumeDecided n, .watchArmApplied n, .unwatchApplied n, .flagsDecided n]
  is.map Act.event

/-- Events of what travels and of what is outstanding. -/
def State.trafficActs (s : State) : List Act :=
  List.flatten
    [(List.range s.net.length).flatMap fun n =>
      [Act.event (Instr.tokenArrival n), Act.event (Instr.packetArrival n), Act.event (Instr.inboxWrite n)],
     (List.range s.xfers.length).map fun n => Act.event (Instr.outgoingTransferDone n),
     s.memops.flatMap MemOp.acts,
     (List.range s.walks.length).map fun n => Act.event (Instr.pageWalkDone n),
     (List.range s.fills.length).flatMap fun n => [Act.event (Instr.zeroClaim n), Act.event (Instr.zeroFillDone n)],
     (List.range s.invals.length).map fun n => Act.event (Instr.tlbInvalComplete n),
     (List.range s.allWalks.length).map fun n => Act.event (Instr.sillageWalkStep n),
     (List.range s.reqs.length).flatMap reqActs,
     s.bcasts.zipIdx.flatMap fun b => b.1.left.flatMap (bcastActs b.2),
     (List.range s.fabTokens.length).map fun n => Act.event (Instr.fabricTokenArrival n),
     (List.range s.fabReqs.length).map fun n => Act.event (Instr.remoteRequestArrival n)]

/-- Events of the control core. -/
def State.coreActs (s : State) : List Act :=
  List.flatten
    [s.windows.filterMap fun p => (pageFn (4096 * p.1)).map Act.command,
     (List.range s.freezes.length).map fun n => Act.event (Instr.freezeNotification n),
     (s.granules.filter fun p => p.2.scrubbing).map fun p => Act.event (Instr.granuleScrubComplete p.1)]

/-- Everything that may happen next of the device's own accord; what does not apply leaves the state unchanged. -/
def State.enabled (s : State) : List Act :=
  if s.dev.boot == .ready then List.flatten [s.cells.flatMap cellActs, s.ctxs.flatMap ctxActs, s.trafficActs, s.coreActs] else []

/-! ### Fairness (R3) -/

/-- How often a thing that may happen has been passed over. Lists of what travels or waits grow at their ends, so that
the number by which an entry is named only falls. -/
def State.ageOf (s : State) (a : Act) : Nat := ((s.passed.find? fun p => p.1 == a).map Prod.snd).getD 0

/-- The one passed over most often, once that is more often than the device's patience: nothing that may happen waits for
ever. -/
def State.overdue (s : State) (l : List Act) : Option Act :=
  (l.foldl (fun (b : Option Act) a => match b with
    | some c => if s.ageOf c < s.ageOf a then some a else some c
    | none => some a) none).filter fun a => decide (Config.patience < s.ageOf a)

/-- A free choice among the things that may happen, fair to all of them. -/
def State.choose (s : State) (l : List Act) : Option Act :=
  (s.overdue l).orElse fun _ => l[Config.pick s.tick % l.length]?

/-- Each thing passed over once more but for the one chosen. -/
def State.passOver (s : State) (l : List Act) (a : Option Act) : State :=
  { s with passed := l.map fun b => (b, if a == some b then 0 else s.ageOf b + 1) }

/-! ### What comes first -/

/-- The expiry that acts now, before anything else of a later cycle (R95). -/
def State.expiry (s : State) : Option Act :=
  (s.ctxs.find? fun p => s.expired p.2).map fun p =>
    .event (if p.2.wdogStage then .watchdogSecondExpiry p.1 else .watchdogFirstExpiry p.1)

/-- A scalar token, or one whose tile stays, that its own cell has sent to itself (R17). -/
def Flight.staysOn (f : Flight) (s : State) : Bool :=
  match f.toks with
  | [t] => f.tile.isNone && f.far.isNone && t.pcell == t.cell && !t.remote && !t.inj && !s.away t.asid
  | _ => false

/-- The arrival of the first token that stays on its cell. It passes no router and no link, and nothing that it could decide
happens before it (R17, R92, log entry 75). -/
def State.localArrival (s : State) : Option Act :=
  (s.net.findIdx? fun f => f.staysOn s).map fun n => .event (.tokenArrival n)

/-- What comes before anything that the schedule names or that may be chosen. -/
def State.forced (s : State) : Option Act := s.expiry.orElse fun _ => s.localArrival

/-- Cycles after which a context's expiry acts, if nothing happens before; fewer where device time may run faster than the
cycles (R464): time then stops once more before the expiry, never after it. -/
def State.toExpiry (s : State) (x : Ctx) : Nat :=
  let u := cycleUnits s.dev.therm
  let need := 42 * x.par.watchdog + u - x.wdog
  max 1 (if 0 < s.dev.ptpOffset && !s.dev.ptpHalf then (need * 1000000 - 1) / (u * 1000200) else (need + u - 1) / u)

/-- The cycles of a span of dt after which time stops for the first expiry, when that lies within it. -/
def State.untilExpiry (s : State) (dt : Nat) : Option Nat :=
  (s.ctxs.foldl (fun (m : Option Nat) p =>
    if p.2.wdogOff || s.wdogBusy p.1 p.2 then m else some (min (m.getD (s.toExpiry p.2)) (s.toExpiry p.2))) none).filter
      fun k => decide (k ≤ dt)

/-! ### One action -/

/-- What an action does; exec is the machine's dispatch. -/
def State.act (exec : Instr → State → Host.Outcome State Fault Refusal) (s : State) :
    Act → Host.Outcome State Fault Refusal
  | .fire c u => s.fireUnit exec c u
  | .command fn => s.takeCommand exec fn
  | .event i => exec i s

/-- Cycles that pass before a step that the schedule does not time: free, but not always none (R3). One passes at least
before what is overdue is done, and whenever the steps taken outnumber the cycles by more than the device's patience. -/
def State.freeCycles (s : State) : Nat :=
  if (s.overdue s.enabled).isSome || decide ((Config.patience + 1) * (s.dev.cycles + 1) ≤ s.tick) then
    max 1 (Config.elapse s.tick)
  else Config.elapse s.tick

/-- After an action: completion entries that may be written are, WAITVs see what has been written (R294), and the counter
of free values goes on. -/
def State.finish (s : State) : State := { s.flushPosts.retestAll with tick := s.tick + 1 }

def finishOutcome : Host.Outcome State Fault Refusal → Host.Outcome State Fault Refusal
  | .next s => .next s.finish
  | .fault r => .fault r
  | .refused r => .refused r

/-- Time passes, and an action takes place after it: none, when an expiry acts before. rest is the state in which the action
stands as chosen, later the one in which it waits for so many cycles more. -/
def State.afterTime (s : State) (dt : Nat) (a : Option Act) (rest : State) (later : Nat → State) : Option Act × State :=
  match s.untilExpiry dt with
  | some k => (none, (later (dt - k)).advance k)
  | none => (a, rest.advance dt)

/-- The action that comes next, and the state in which it takes place: what is due in the same cycle; else what comes before
all else; else what the schedule names, after its time; else one of the things that may happen, by a free choice. -/
def State.nextAct (s : State) : Option Act × State :=
  match s.due with
  | a :: t => (some a, { s with due := t })
  | [] =>
    match s.forced, s.schedule with
    | some a, _ => (some a, s)
    | none, c :: t =>
      s.afterTime c.dt (some c.what) { s with schedule := t } fun n => { s with schedule := { c with dt := n } :: t }
    | none, [] =>
      let a := s.choose s.enabled
      s.afterTime s.freeCycles a (s.passOver s.enabled a) fun _ => s

/-! ### A word placed to be fired -/

/-- A context of one cell and one slot, its areas in granule 0. -/
def placedRec (cell : Nat) : CtxRec :=
  { base := 0x1000, vdev := 0, frozen := false, ptroot := 0x800000, spillbase := 0x2000000, spillmax := 16, spill := 16,
    frtbase := 0x2000, frtmax := 17, dumpbase := 0x3000, dumpsize := 64, descbase := 0x4000, descn := 16,
    arenabase := 0x8000, arenasize := 0x8000, attarbase := 0x10000, attarsize := 0x2000, trapbase := 0x20000, trapn := 16,
    plogbase := 0x40000, plogsize := 0x1000, parkbase := 0x41000, parksize := 0x1000, rptbase := 0x42000,
    tracebase := 0x43000, tracesize := 0x1000, imageva := 0, imagesize := 0, sliceper := 0, sliceoff := 0, capmax := 15,
    orphanEn := false, region := [cell], pbase := 0, pcount := 2048 }

def placedCtx (cell : Nat) : Ctx :=
  let x := Ctx.fresh (placedRec cell)
  { x with par := { x.par with caps := 15 }
           frames := [(0, { Frame.blank with st := .live, src := .root })] }

/-- Does the word read tiles? Those of the vector, matrix and ring units do, and those of FMT handle. -/
def placedTile (x : BitVec 128) (u : UnitKind) : Bool :=
  x.extractLsb' 100 5 == 0x14#5 || match u with
  | .vector | .matrix | .ring => true
  | _ => false

/-- A one-row tile of the word's format, zero, at line 0. -/
def placedHandle (x : BitVec 128) : Handle :=
  let f : Option Fmt := ((decodeSlot x).bind opcodeOf).map fun p => p.2.fmt
  { fmt := match f with | some .handle | none => .z8 | some g => g, rows := 1, cols := 32, valid := 1, line := 0, poison := 0,
    eos := false, disc := false, seq := 0 }

/-- The unit of the word, and the first cell that has it. -/
def placedUnit (x : BitVec 128) : UnitKind :=
  match decodeSlot x with
  | none => .scalar
  | some _ => ((unitOf (x.extractLsb' 120 8).toNat true).orElse fun _ => unitOf (x.extractLsb' 120 8).toNat false).getD .scalar
def placedOn (x : BitVec 128) : Nat :=
  match decodeSlot x with
  | none => 0
  | some _ => if (unitOf (x.extractLsb' 120 8).toNat true).isSome then 0 else 1

/-- The cell: the word in slot 0, and a formed set with one token for each of its ports. -/
def placedCell (x : BitVec 128) : Cell :=
  let cell := placedOn x
  let tile := placedTile x (placedUnit x)
  let h := placedHandle x
  let tok (p : Port) : Token :=
    { asid := 0, tag := 0, payload := if tile then h.word else 0, isTile := tile, poison := false, eos := false, cgen := 0,
      cell := cell, slot := 0, port := p, pcell := cell, pslot := 0, ptime := 0, remote := false, inj := true }
  { Cell.scrubbed with
    vdev := some 0
    parts := [{ asid := 0, base := 0, count := 2048, active := false, cgen := 0 }]
    ops := [(0, { word := x, record := false })]
    arrivals := 3
    sets := [{ sid := 0, asid := 0, slot := 0, tag := 0,
               args := (tokenPorts x).zipIdx.map fun p =>
                 { tok := tok p.1, arrive := p.2, parked := false, res := false, block := none },
               formedAt := 0, bypass := 0, nowatch := false, hold := none, snap := none, faults := [], since := 0 }]
    nextSid := 1
    tiles := if tile then [{ line := 0, lines := h.lines, data := zeros h.bytes }] else [] }

/-- The state with a word that fires next: its context with ASID 0, frame 0 LIVE, and the schedule of one firing. -/
def State.placed (s : State) (x : BitVec 128) : State :=
  let cell := placedOn x
  { s with
    dev := { s.dev with boot := .ready }
    vdevs := put 0 { unsignedOk := true, capceil := 15, qctx := 1024, qcell := 2048, qgran := 384, gclbase := 0, gclsize := 0,
                     edpub := 0, mlpub := [], key := 0, frozen := false } s.vdevs
    granules := put 0 { owner := 0, scrubbing := false } s.granules
    ctxs := put 0 (placedCtx cell) (s.ctxs.map fun p => (p.1, { p.2 with wdog := 0 }))
    net := s.net.filter fun f => !f.staysOn s
    cells := put cell (placedCell x) s.cells
    due := []
    schedule := [{ dt := 0, what := .fire cell (placedUnit x) }]
    sel := none }

end Sys2Proof.Machine
end

