-- ==== Sys2Proof/Machine/Loops.lean ====
section
/-! DEFINITION. Loop instructions LENTER, LNEXT, LEXIT, LDONE and the releases of their waits (R110 to R112, R131 to
R133). -/

namespace Sys2Proof.Machine

/-- The record of a key on a cell. -/
def Cell.loopRec (c : Cell) (asid slot : Nat) (base : Tag) : Option LoopRec :=
  c.loops.find? fun l => l.asid == asid && l.slot == slot && l.base == base

def LoopRec.same (l r : LoopRec) : Bool := l.asid == r.asid && l.slot == r.slot && l.base == r.base
/-- A record replaced by its key. -/
def Cell.setLoop (c : Cell) (r : LoopRec) : Cell := { c with loops := c.loops.map fun l => if l.same r then r else l }
def Cell.dropLoop (c : Cell) (r : LoopRec) : Cell := { c with loops := c.loops.filter fun l => !l.same r }

/-- Where a record of loop depth d comes from (R111): shared, else the depth's reserve, else nowhere. -/
def Cell.loopShare (c : Cell) (d : Nat) : Option Nat :=
  if (c.loops.filter fun l => l.src == 0).length < 200 then some 0
  else if (c.loops.filter fun l => l.src == d).length < 8 then some d else none

/-- The record LENTER opens, when it can be opened now (R111). -/
def Cell.openLoop (c : Cell) (asid slot : Nat) (base : Tag) (w : Nat) : Option LoopRec :=
  if (c.loopRec asid slot base).isSome then none
  else (c.loopShare (tagDepth base + 1)).map fun src =>
    { asid := asid, slot := slot, base := base, w := w, closing := false, nextc := 1 % 2 ^ w, waiter := none, infl := 1,
      src := src, claims := 1, busy := 1 }

/-- A copy of port a under a tag. -/
def carry (f : Firing) (t : Tag) : Commit := Commit.ofRes t [passOn f .a false] 0

/-- LENTER after its checks: the record opens and the first iteration leaves, or the firing waits. -/
def lenterGo (s : State) (f : Firing) (w : Nat) (t : Tag) : State :=
  match (s.cell f.cell).openLoop f.asid f.slot f.tag w with
  | none => s.hold f .lenter
  | some r => s.commitWith f (carry f t) fun st => st.modCell f.cell fun c => { c with loops := c.loops ++ [r] }

/-- LENTER (R131). -/
def doLenter (w : OpFields) (s : State) (f : Firing) : State :=
  match (do checkKinds f (dataTile w) false false; push f.tag (w.tw.toNat + 1) : Ex Tag) with
  | .error t => s.raise f t
  | .ok t => lenterGo s f (w.tw.toNat + 1) t
def execLenter (w : OpFields) (s : State) : Host.Outcome State Fault Refusal := runFiring s (doLenter w s)

/-- find_record of R132. -/
def findLoop (c : Cell) (f : Firing) (slot w : Nat) : Ex (LoopRec × Nat) :=
  if tagDepth f.tag = 0 || decide (tagFill f.tag < w) then .error (tTAG_OVERFLOW 3)
  else do
    let base ← pop f.tag w
    match c.loopRec f.asid slot base with
    | none => .error tBAD_OPERAND
    | some r => if r.w = w then pure (r, inner f.tag w) else .error tBAD_OPERAND

/-- A loop instruction's operands: its kinds, then its record and colour. -/
def loopArgs (w : OpFields) (s : State) (f : Firing) : Ex (LoopRec × Nat) := do
  checkKinds f (dataTile w) false false
  findLoop (s.cell f.cell) f (w.imm.toNat % 2048) (w.tw.toNat + 1)

/-- LNEXT claims colour n for a firing. -/
def claimColour (s : State) (f : Firing) (r : LoopRec) (n : Nat) : State :=
  s.commitWith f (carry f (setInner f.tag r.w n)) fun st =>
    st.modCell f.cell fun c => c.setLoop
      { r with busy := r.busy ||| (1#256 <<< n), infl := r.infl + 1, claims := r.claims + 1,
               nextc := (n + 1) % 2 ^ r.w, waiter := none }

/-- LNEXT (R112, R132): claims the next colour, waits for it, or meets a second waiter or a closing record. -/
def doLnext (w : OpFields) (s : State) (f : Firing) : State :=
  match loopArgs w s f with
  | .error t => s.raise f t
  | .ok (r, c) =>
    let n := (c + 1) % 2 ^ r.w
    if r.closing then s.raise f tBAD_OPERAND
    else if !r.busy.getLsbD n then
      s.commitWith f (carry f (setInner f.tag r.w n)) fun st =>
        st.modCell f.cell fun c => c.setLoop
          { r with busy := r.busy ||| (1#256 <<< n), infl := r.infl + 1, claims := r.claims + 1,
                   nextc := (n + 1) % 2 ^ r.w }
    else if r.waiter.isSome then s.raise f tBAD_OPERAND
    else (s.hold f .lnext).modCell f.cell fun c => c.setLoop { r with waiter := some (n, f.sid) }
def execLnext (w : OpFields) (s : State) : Host.Outcome State Fault Refusal := runFiring s (doLnext w s)

/-- The place of a record in the cell's list. -/
def Cell.loopIndex (c : Cell) (r : LoopRec) : Nat := (c.loops.findIdx? fun l => l.same r).getD 0

/-- A record freed: a waiting LENTER may take its place at once (R111). -/
def State.freeLoop (s : State) (cell : Nat) (r : LoopRec) : State :=
  let s1 := s.modCell cell fun c => c.dropLoop r
  { s1 with due := s1.due ++ [.event (.heldLenterGrant cell)] }

/-- LDONE (R112): retires its colour; a closing record with none left is freed; a waiting LNEXT for the colour
proceeds in the same cycle. -/
def doLdone (w : OpFields) (s : State) (f : Firing) : State :=
  match loopArgs w s f with
  | .error t => s.raise f t
  | .ok (r, c) =>
    if !r.busy.getLsbD c then s.raise f tBAD_OPERAND
    else
      let r1 := { r with busy := r.busy &&& ~~~(1#256 <<< c), infl := r.infl - 1 }
      s.commitWith f (carry f r.base) fun st =>
        if r1.closing && r1.infl = 0 then st.freeLoop f.cell r1
        else
          let st1 := st.modCell f.cell fun x => x.setLoop r1
          if r1.waiter.any (fun p => p.1 == c) then
            { st1 with due := st1.due ++ [.event (.heldLnextRelease f.cell ((st1.cell f.cell).loopIndex r1))] }
          else st1
def execLdone (w : OpFields) (s : State) : Host.Outcome State Fault Refusal := runFiring s (doLdone w s)

/-- A waiting LNEXT whose record closes raises BAD_OPERAND in that cycle (R133). -/
def evictWaiter (s : State) (cell : Nat) (r : LoopRec) : State :=
  match r.waiter with
  | none => s
  | some (_, sid) =>
    match ((s.cell cell).findSet sid).bind FSet.snap with
    | none => s
    | some g => s.raise g tBAD_OPERAND

/-- LEXIT (R112): closes the record; with no colour in flight it is freed. -/
def doLexit (w : OpFields) (s : State) (f : Firing) : State :=
  match loopArgs w s f with
  | .error t => s.raise f t
  | .ok (r, _) =>
    if r.closing then s.raise f tBAD_OPERAND
    else
      s.commitWith f (carry f r.base) fun st =>
        let st1 :=
          if r.infl = 0 then st.freeLoop f.cell r
          else st.modCell f.cell fun x => x.setLoop { r with closing := true, waiter := none }
        evictWaiter st1 f.cell r
def execLexit (w : OpFields) (s : State) : Host.Outcome State Fault Refusal := runFiring s (doLexit w s)

/-- HELD_LNEXT_RELEASE (R112): the waiting LNEXT of the cell's n-th record claims its colour when it is free. -/
def execHeldLnextRelease (cell n : Nat) (s : State) : Host.Outcome State Fault Refusal :=
  .next (match (s.cell cell).loops[n]? with
    | none => s
    | some r =>
      match r.waiter with
      | none => s
      | some (c, sid) =>
        if r.closing || r.busy.getLsbD c || !(s.cell cell).mayCommit r.asid then s
        else match (s.cell cell).heldFiring sid with
          | none => s
          | some f => claimColour s f r c)

/-- The set that has waited longest among those a predicate picks. -/
def longest (p : FSet → Bool) : List FSet → Option FSet
  | [] => none
  | x :: t =>
    if p x then
      match longest p t with
      | some y => if y.since < x.since then some y else some x
      | none => some x
    else longest p t

/-- Can the cell's waiting LENTER open its record now? -/
def Cell.lenterCan (c : Cell) (x : FSet) : Bool :=
  x.hold == some .lenter && c.mayCommit x.asid &&
    match x.firing with
    | some f => (c.openLoop f.asid f.slot f.tag ((f.word.extractLsb' 105 4).toNat + 1)).isSome
    | none => false

/-- HELD_LENTER_GRANT (R111): the oldest waiting LENTER that a record can serve now opens it, then the next. -/
def execHeldLenterGrant (cell : Nat) (s : State) : Host.Outcome State Fault Refusal :=
  let c := s.cell cell
  .next (match (longest c.lenterCan c.sets).bind FSet.firing with
    | none => s
    | some f =>
      let width := (f.word.extractLsb' 105 4).toNat + 1
      match push f.tag width with
      | .error _ => s
      | .ok t =>
        let s1 := lenterGo s f width t
        { s1 with due := s1.due ++ [.event (.heldLenterGrant cell)] })

end Sys2Proof.Machine
end

