-- ==== Sys2Proof/Machine/Rings.lean ====
section
/-! DEFINITION. Rings of a store cell: BINIT, BPUT, BGET and the releases of held ones (R315 to R318). -/

namespace Sys2Proof.Machine

/-- The ring a word names. -/
def ringOf (f : Firing) : Nat := (f.word.extractLsb' 64 4).toNat

/-- Sets of a cell that wait on a ring, BPUTs or BGETs. -/
def Cell.ringWaiters (c : Cell) (h : Hold) : List FSet := c.sets.filter fun x => x.hold == some h

/-- Do two ready rings' lines overlap? -/
def Ring.overlaps (r q : Ring) : Bool :=
  decide (r.base < q.base + q.slotl * q.nslot) && decide (q.base < r.base + r.slotl * r.nslot)

/-- The ring a BINIT configuration asks for (R316). -/
def ringConfig (asid : Nat) (v : Word64) : Ring :=
  { base := (v.extractLsb' 0 11).toNat, slotl := (v.extractLsb' 11 9).toNat + 1, nslot := (v.extractLsb' 20 8).toNat + 1,
    head := 0, asid := asid, tiles := [] }

/-- BINIT's BAD_OPERAND (R316). -/
def Cell.badRing (c : Cell) (n : Nat) (v : Word64) (r : Ring) : Bool :=
  v.extractLsb' 28 36 != 0 || decide (2048 < r.base + r.slotl * r.nslot) ||
    (c.rings.any fun p => p.1 != n && r.overlaps p.2) ||
    match look n c.rings with
    | some q =>
      q.asid != r.asid && (!q.tiles.isEmpty || !(c.ringWaiters (.bput n)).isEmpty || !(c.ringWaiters (.bget n)).isEmpty)
    | none => false

/-- BINIT (R316). -/
def doBinit (w : OpFields) (s : State) (f : Firing) : State :=
  let v := (f.val .a).word
  let r := ringConfig f.asid v
  match (do
    checkKinds f false false false
    trapIf ((s.cell f.cell).badRing (ringOf f) v r) tBAD_OPERAND
    checkPoison f .a 1
    outTag w f (s.env f) : Ex Tag) with
  | .error t => s.raise f t
  | .ok tag =>
    s.commitWith f (Commit.ofRes tag [res0 (.scalar (BitVec.ofNat 64 r.nslot) false f.eos)] 0) fun st =>
      st.modCell f.cell fun c => { c with rings := put (ringOf f) r c.rings }
def execBinit (w : OpFields) (s : State) : Host.Outcome State Fault Refusal := runFiring s (doBinit w s)

/-- The ring when the context may use it (R317). -/
def State.ringFor (s : State) (f : Firing) : Ex Ring :=
  match look (ringOf f) (s.cell f.cell).rings with
  | some r => if r.asid = f.asid then .ok r else .error tBAD_OPERAND
  | none => .error tBAD_OPERAND

/-- Whether an older held one has its place before this firing (R318). -/
def Cell.behind (c : Cell) (h : Hold) (f : Firing) : Bool := (c.ringWaiters h).any fun x => x.sid != f.sid

/-- BPUT once nothing is before it. -/
def bputGo (s : State) (f : Firing) (tag : Tag) (r : Ring) : State :=
  let r1 := { r with tiles := r.tiles ++ [f.tile .a] }
  s.commitWith f (Commit.ofRes tag [res0 (.scalar (BitVec.ofNat 64 r1.tiles.length) false f.eos)] 0) fun st =>
    let st1 := st.modCell f.cell fun c => { c with rings := put (ringOf f) r1 c.rings }
    -- a waiting BGET is released in the same cycle (R318)
    if ((st1.cell f.cell).ringWaiters (.bget (ringOf f))).isEmpty then st1
    else { st1 with due := st1.due ++ [.event (.bgetRelease f.cell (ringOf f))] }

/-- BPUT's checks (R317). -/
def bputArgs (w : OpFields) (s : State) (f : Firing) : Ex (Tag × Ring) := do
  checkKinds f true false false
  let r ← s.ringFor f
  trapIf (decide (r.slotl < (f.tile .a).1.lines)) tBAD_OPERAND
  let tag ← outTag w f (s.env f)
  pure (tag, r)

/-- BPUT (R317): held when the ring is full. -/
def doBput (w : OpFields) (s : State) (f : Firing) : State :=
  match bputArgs w s f with
  | .error t => s.raise f t
  | .ok (tag, r) =>
    if decide (r.nslot ≤ r.tiles.length) || (s.cell f.cell).behind (.bput (ringOf f)) f then s.hold f (.bput (ringOf f))
    else bputGo s f tag r
def execBput (w : OpFields) (s : State) : Host.Outcome State Fault Refusal := runFiring s (doBput w s)

/-- BGET once nothing is before it: the tile of slot HEAD leaves as packets of its own. -/
def bgetGo (s : State) (f : Firing) (tag : Tag) (r : Ring) : State :=
  match r.tiles with
  | [] => s
  | (h, d) :: rest =>
    let v := Val.tile { h with eos := h.eos || f.eos } d
    let live := s.runsIn f
    s.commitWith f { outs := [], flags := f.pz [.a] } fun st =>
      let r1 := { r with tiles := rest, head := (r.head + 1) % r.nslot }
      let st1 := st.modCell f.cell fun c => { c with rings := put (ringOf f) r1 c.rings }
      if live then st1.sendFresh (f.sender st) tag v f.outs0 else st1.orphanOuts (f.sender st) [tag] v f.outs0

/-- BGET's checks (R317): any token triggers it, tile or scalar (log entry 21). -/
def bgetArgs (w : OpFields) (s : State) (f : Firing) : Ex (Tag × Ring) := do
  let r ← s.ringFor f
  let tag ← outTag w f (s.env f)
  pure (tag, r)

/-- BGET (R317): held when the ring is empty. -/
def doBget (w : OpFields) (s : State) (f : Firing) : State :=
  match bgetArgs w s f with
  | .error t => s.raise f t
  | .ok (tag, r) =>
    if s.runsIn f && s.badRemote f [{ side := false, tag := tag, val := .scalar 0 false false, line := none }] then
      s.raiseRemote f f.outs0
    else if r.tiles.isEmpty || (s.cell f.cell).behind (.bget (ringOf f)) f then s.hold f (.bget (ringOf f))
    else bgetGo s f tag r
def execBget (w : OpFields) (s : State) : Host.Outcome State Fault Refusal := runFiring s (doBget w s)

/-- The oldest set held for a reason on a cell. -/
def Cell.oldestHeld (c : Cell) (h : Hold) : Option FSet :=
  (c.ringWaiters h).foldl (fun b x => match b with | some y => if x.since < y.since then some x else some y | none => some x)
    none

/-- The firing of the oldest set held for a reason, where it may commit now. -/
def Cell.readyHeld (c : Cell) (h : Hold) : Option Firing :=
  (c.oldestHeld h).bind fun x => if c.mayCommit x.asid then x.firing else none

/-- The fields of a held firing's word. -/
def Firing.fields (f : Firing) : Option OpFields := ((decodeSlot f.word).bind opcodeOf).map Prod.snd

/-- BPUT_RELEASE (R318): the oldest held BPUT is served when a slot is free. -/
def execBputRelease (cell ring : Nat) (s : State) : Host.Outcome State Fault Refusal :=
  .next (match (s.cell cell).readyHeld (.bput ring) with
    | none => s
    | some f =>
      match f.fields with
      | none => s
      | some w =>
        match bputArgs w s f with
        | .error t => s.raise f t
        | .ok (tag, r) => if r.nslot ≤ r.tiles.length then s else bputGo s f tag r)

/-- BGET_RELEASE (R318): the oldest held BGET is served when a tile is there. -/
def execBgetRelease (cell ring : Nat) (s : State) : Host.Outcome State Fault Refusal :=
  .next (match (s.cell cell).readyHeld (.bget ring) with
    | none => s
    | some f =>
      match f.fields with
      | none => s
      | some w =>
        match bgetArgs w s f with
        | .error t => s.raise f t
        | .ok (tag, r) => bgetGo s f tag r)

end Sys2Proof.Machine
end

