-- ==== Sys2Proof/Machine/Dispatch.lean ====
section
/-! DEFINITION. One arm per instruction. -/

namespace Sys2Proof.Machine

/-- The meaning of every instruction. -/
def exec (i : Instr) (s : State) : Host.Outcome State Fault Refusal :=
  match i with
  | .pass w => Sys2Proof.Machine.execPass w s
  | .sync w => Sys2Proof.Machine.execSync w s
  | .switch w => Sys2Proof.Machine.execSwitch w s
  | .sel w => Sys2Proof.Machine.execSel w s
  | .const w => Sys2Proof.Machine.execConst w s
  | .sink w => Sys2Proof.Machine.execSink w s
  | .ends w => Sys2Proof.Machine.execEnds w s
  | .iseos w => Sys2Proof.Machine.execIseos w s
  | .count w => Sys2Proof.Machine.execCount w s
  | .lenter w => Sys2Proof.Machine.execLenter w s
  | .lnext w => Sys2Proof.Machine.execLnext w s
  | .lexit w => Sys2Proof.Machine.execLexit w s
  | .ldone w => Sys2Proof.Machine.execLdone w s
  | .getcol w => Sys2Proof.Machine.execGetcol w s
  | .settag w => Sys2Proof.Machine.execSettag w s
  | .spawn w => Sys2Proof.Machine.execSpawn w s
  | .call w => Sys2Proof.Machine.execCall w s
  | .ret w => Sys2Proof.Machine.execRet w s
  | .fend w => Sys2Proof.Machine.execFend w s
  | .gang w => Sys2Proof.Machine.execGang w s
  | .frameid w => Sys2Proof.Machine.execFrameid w s
  | .killf w => Sys2Proof.Machine.execKillf w s
  | .add w => Sys2Proof.Machine.execAdd w s
  | .sub w => Sys2Proof.Machine.execSub w s
  | .mul w => Sys2Proof.Machine.execMul w s
  | .mulh w => Sys2Proof.Machine.execMulh w s
  | .div w => Sys2Proof.Machine.execDiv w s
  | .rem w => Sys2Proof.Machine.execRem w s
  | .and w => Sys2Proof.Machine.execAnd w s
  | .or w => Sys2Proof.Machine.execOr w s
  | .xor w => Sys2Proof.Machine.execXor w s
  | .andn w => Sys2Proof.Machine.execAndn w s
  | .shl w => Sys2Proof.Machine.execShl w s
  | .shr w => Sys2Proof.Machine.execShr w s
  | .sra w => Sys2Proof.Machine.execSra w s
  | .rotl w => Sys2Proof.Machine.execRotl w s
  | .min w => Sys2Proof.Machine.execMin w s
  | .max w => Sys2Proof.Machine.execMax w s
  | .cmp w => Sys2Proof.Machine.execCmp w s
  | .clz w => Sys2Proof.Machine.execClz w s
  | .popc w => Sys2Proof.Machine.execPopc w s
  | .bext w => Sys2Proof.Machine.execBext w s
  | .bins w => Sys2Proof.Machine.execBins w s
  | .mad w => Sys2Proof.Machine.execMad w s
  | .addrc w => Sys2Proof.Machine.execAddrc w s
  | .abs w => Sys2Proof.Machine.execAbs w s
  | .neg w => Sys2Proof.Machine.execNeg w s
  | .icvt w => Sys2Proof.Machine.execIcvt w s
  | .mix w => Sys2Proof.Machine.execMix w s
  | .pack w => Sys2Proof.Machine.execPack w s
  | .unpk w => Sys2Proof.Machine.execUnpk w s
  | .fadd w => Sys2Proof.Machine.execFadd w s
  | .fsub w => Sys2Proof.Machine.execFsub w s
  | .fmul w => Sys2Proof.Machine.execFmul w s
  | .ffma w => Sys2Proof.Machine.execFfma w s
  | .fdiv w => Sys2Proof.Machine.execFdiv w s
  | .fsqrt w => Sys2Proof.Machine.execFsqrt w s
  | .fmin w => Sys2Proof.Machine.execFmin w s
  | .fmax w => Sys2Proof.Machine.execFmax w s
  | .fcmp w => Sys2Proof.Machine.execFcmp w s
  | .fcvt w => Sys2Proof.Machine.execFcvt w s
  | .fclass w => Sys2Proof.Machine.execFclass w s
  | .ftoi w => Sys2Proof.Machine.execFtoi w s
  | .itof w => Sys2Proof.Machine.execItof w s
  | .vadd w => Sys2Proof.Machine.execVadd w s
  | .vsub w => Sys2Proof.Machine.execVsub w s
  | .vmul w => Sys2Proof.Machine.execVmul w s
  | .vfma w => Sys2Proof.Machine.execVfma w s
  | .vdiv w => Sys2Proof.Machine.execVdiv w s
  | .vmin w => Sys2Proof.Machine.execVmin w s
  | .vmax w => Sys2Proof.Machine.execVmax w s
  | .vabs w => Sys2Proof.Machine.execVabs w s
  | .vneg w => Sys2Proof.Machine.execVneg w s
  | .vsqrt w => Sys2Proof.Machine.execVsqrt w s
  | .vrsq w => Sys2Proof.Machine.execVrsq w s
  | .vrcp w => Sys2Proof.Machine.execVrcp w s
  | .vexp2 w => Sys2Proof.Machine.execVexp2 w s
  | .vlog2 w => Sys2Proof.Machine.execVlog2 w s
  | .vtanh w => Sys2Proof.Machine.execVtanh w s
  | .vcvt w => Sys2Proof.Machine.execVcvt w s
  | .vscal w => Sys2Proof.Machine.execVscal w s
  | .vfill w => Sys2Proof.Machine.execVfill w s
  | .vcmp w => Sys2Proof.Machine.execVcmp w s
  | .vmsel w => Sys2Proof.Machine.execVmsel w s
  | .vand w => Sys2Proof.Machine.execVand w s
  | .vor w => Sys2Proof.Machine.execVor w s
  | .vxor w => Sys2Proof.Machine.execVxor w s
  | .vshf w => Sys2Proof.Machine.execVshf w s
  | .vtran w => Sys2Proof.Machine.execVtran w s
  | .vslic w => Sys2Proof.Machine.execVslic w s
  | .vrowop w => Sys2Proof.Machine.execVrowop w s
  | .vcolop w => Sys2Proof.Machine.execVcolop w s
  | .mma w => Sys2Proof.Machine.execMma w s
  | .mmas w => Sys2Proof.Machine.execMmas w s
  | .mmag w => Sys2Proof.Machine.execMmag w s
  | .mcomp w => Sys2Proof.Machine.execMcomp w s
  | .azero w => Sys2Proof.Machine.execAzero w s
  | .adrain w => Sys2Proof.Machine.execAdrain w s
  | .aload w => Sys2Proof.Machine.execAload w s
  | .aread w => Sys2Proof.Machine.execAread w s
  | .apatch w => Sys2Proof.Machine.execApatch w s
  | .rsum w => Sys2Proof.Machine.execRsum w s
  | .rmax w => Sys2Proof.Machine.execRmax w s
  | .rmin w => Sys2Proof.Machine.execRmin w s
  | .rargx w => Sys2Proof.Machine.execRargx w s
  | .topk w => Sys2Proof.Machine.execTopk w s
  | .normk w => Sys2Proof.Machine.execNormk w s
  | .steer w => Sys2Proof.Machine.execSteer w s
  | .ordmrg w => Sys2Proof.Machine.execOrdmrg w s
  | .sort w => Sys2Proof.Machine.execSort w s
  | .partn w => Sys2Proof.Machine.execPartn w s
  | .scan w => Sys2Proof.Machine.execScan w s
  | .ldt w => Sys2Proof.Machine.execLdt w s
  | .stt w => Sys2Proof.Machine.execStt w s
  | .lds w => Sys2Proof.Machine.execLds w s
  | .sts w => Sys2Proof.Machine.execSts w s
  | .gath w => Sys2Proof.Machine.execGath w s
  | .scat w => Sys2Proof.Machine.execScat w s
  | .pref w => Sys2Proof.Machine.execPref w s
  | .fence w => Sys2Proof.Machine.execFence w s
  | .bput w => Sys2Proof.Machine.execBput w s
  | .bget w => Sys2Proof.Machine.execBget w s
  | .binit w => Sys2Proof.Machine.execBinit w s
  | .atom w => Sys2Proof.Machine.execAtom w s
  | .cas w => Sys2Proof.Machine.execCas w s
  | .ared w => Sys2Proof.Machine.execAred w s
  | .iput w => Sys2Proof.Machine.execIput w s
  | .itake w => Sys2Proof.Machine.execItake w s
  | .iclr w => Sys2Proof.Machine.execIclr w s
  | .join w => Sys2Proof.Machine.execJoin w s
  | .waitv w => Sys2Proof.Machine.execWaitv w s
  | .trap w => Sys2Proof.Machine.execTrap w s
  | .park w => Sys2Proof.Machine.execPark w s
  | .resume w => Sys2Proof.Machine.execResume w s
  | .trace w => Sys2Proof.Machine.execTrace w s
  | .watch w => Sys2Proof.Machine.execWatch w s
  | .unwatch w => Sys2Proof.Machine.execUnwatch w s
  | .flags w => Sys2Proof.Machine.execFlags w s
  | .time w => Sys2Proof.Machine.execTime w s
  | .loadg w => Sys2Proof.Machine.execLoadg w s
  | .swapg w => Sys2Proof.Machine.execSwapg w s
  | .drain w => Sys2Proof.Machine.execDrain w s
  | .query w => Sys2Proof.Machine.execQuery w s
  | .xop n w => Sys2Proof.Machine.execXop n w s
  | .attarBankLoad cell n => Sys2Proof.Machine.execAttarBankLoad cell n s
  | .tokenArrival n => Sys2Proof.Machine.execTokenArrival n s
  | .heldTokenAccept cell n => Sys2Proof.Machine.execHeldTokenAccept cell n s
  | .cgenHoldRelease cell n => Sys2Proof.Machine.execCgenHoldRelease cell n s
  | .packetArrival n => Sys2Proof.Machine.execPacketArrival n s
  | .spillLookup cell n => Sys2Proof.Machine.execSpillLookup cell n s
  | .refill cell => Sys2Proof.Machine.execRefill cell s
  | .spaceClaimSpill cell => Sys2Proof.Machine.execSpaceClaimSpill cell s
  | .spilledSetReturn cell => Sys2Proof.Machine.execSpilledSetReturn cell s
  | .watchdogFirstExpiry asid => Sys2Proof.Machine.execWatchdogFirstExpiry asid s
  | .watchdogSecondExpiry asid => Sys2Proof.Machine.execWatchdogSecondExpiry asid s
  | .heldLnextRelease cell n => Sys2Proof.Machine.execHeldLnextRelease cell n s
  | .heldLenterGrant cell => Sys2Proof.Machine.execHeldLenterGrant cell s
  | .heldFrameGrant asid => Sys2Proof.Machine.execHeldFrameGrant asid s
  | .gangGrant asid => Sys2Proof.Machine.execGangGrant asid s
  | .residencyApplyDone asid => Sys2Proof.Machine.execResidencyApplyDone asid s
  | .sweepComplete asid frame => Sys2Proof.Machine.execSweepComplete asid frame s
  | .launchApply asid => Sys2Proof.Machine.execLaunchApply asid s
  | .loadgApply asid => Sys2Proof.Machine.execLoadgApply asid s
  | .drainQuiescent asid => Sys2Proof.Machine.execDrainQuiescent asid s
  | .swapgFlip asid => Sys2Proof.Machine.execSwapgFlip asid s
  | .fenceRelease cell sid => Sys2Proof.Machine.execFenceRelease cell sid s
  | .bputRelease cell ring => Sys2Proof.Machine.execBputRelease cell ring s
  | .bgetRelease cell ring => Sys2Proof.Machine.execBgetRelease cell ring s
  | .homeAccess op acc => Sys2Proof.Machine.execHomeAccess op acc s
  | .acceptanceReply op => Sys2Proof.Machine.execAcceptanceReply op s
  | .memoryOpPerformed op reply => Sys2Proof.Machine.execMemoryOpPerformed op reply s
  | .remoteTimeout op => Sys2Proof.Machine.execRemoteTimeout op s
  | .pageWalkDone n => Sys2Proof.Machine.execPageWalkDone n s
  | .zeroClaim n => Sys2Proof.Machine.execZeroClaim n s
  | .zeroFillDone n => Sys2Proof.Machine.execZeroFillDone n s
  | .tlbInvalComplete n => Sys2Proof.Machine.execTlbInvalComplete n s
  | .parkingBroadcastArrival n cell => Sys2Proof.Machine.execParkingBroadcastArrival n cell s
  | .trapRecordWrite asid => Sys2Proof.Machine.execTrapRecordWrite asid s
  | .trapDelivery asid => Sys2Proof.Machine.execTrapDelivery asid s
  | .handlerFault asid => Sys2Proof.Machine.execHandlerFault asid s
  | .parkDecided n => Sys2Proof.Machine.execParkDecided n s
  | .resumeDecided n => Sys2Proof.Machine.execResumeDecided n s
  | .watchArmApplied n => Sys2Proof.Machine.execWatchArmApplied n s
  | .unwatchApplied n => Sys2Proof.Machine.execUnwatchApplied n s
  | .flagsDecided n => Sys2Proof.Machine.execFlagsDecided n s
  | .sillageWalkStep n => Sys2Proof.Machine.execSillageWalkStep n s
  | .breakBitApplied n cell => Sys2Proof.Machine.execBreakBitApplied n cell s
  | .sliceBoundary asid => Sys2Proof.Machine.execSliceBoundary asid s
  | .drydownStopAcknowledged asid => Sys2Proof.Machine.execDrydownStopAcknowledged asid s
  | .drydownFinished asid => Sys2Proof.Machine.execDrydownFinished asid s
  | .drydownPerformed asid => Sys2Proof.Machine.execDrydownPerformed asid s
  | .drydownMarkersArrived asid => Sys2Proof.Machine.execDrydownMarkersArrived asid s
  | .drydownSaved asid => Sys2Proof.Machine.execDrydownSaved asid s
  | .inboxWrite n => Sys2Proof.Machine.execInboxWrite n s
  | .contextRestore asid => Sys2Proof.Machine.execContextRestore asid s
  | .sqtail fn value => Sys2Proof.Machine.execSqtail fn value s
  | .cqhead fn value => Sys2Proof.Machine.execCqhead fn value s
  | .ringEnable fn => Sys2Proof.Machine.execRingEnable fn s
  | .ringDisable fn => Sys2Proof.Machine.execRingDisable fn s
  | .devnum value => Sys2Proof.Machine.execDevnum value s
  | .registerWrite caller off value => Sys2Proof.Machine.execRegisterWrite caller off value s
  | .vdevCreate c => Sys2Proof.Machine.execVdevCreate c s
  | .vdevDestroy c => Sys2Proof.Machine.execVdevDestroy c s
  | .thaw c => Sys2Proof.Machine.execThaw c s
  | .granule c => Sys2Proof.Machine.execGranule c s
  | .ctxCreate c => Sys2Proof.Machine.execCtxCreate c s
  | .ctxDestroy c => Sys2Proof.Machine.execCtxDestroy c s
  | .launch c => Sys2Proof.Machine.execLaunch c s
  | .preempt c => Sys2Proof.Machine.execPreempt c s
  | .tlbInval c => Sys2Proof.Machine.execTlbInval c s
  | .resolve c => Sys2Proof.Machine.execResolve c s
  | .killfr c => Sys2Proof.Machine.execKillfr c s
  | .brkset c => Sys2Proof.Machine.execBrkset c s
  | .sillage c => Sys2Proof.Machine.execSillage c s
  | .quote c => Sys2Proof.Machine.execQuote c s
  | .pair c => Sys2Proof.Machine.execPair c s
  | .exportGranules c => Sys2Proof.Machine.execExportGranules c s
  | .freezeNotification n => Sys2Proof.Machine.execFreezeNotification n s
  | .hostApertureAccess fn what => Sys2Proof.Machine.execHostApertureAccess fn what s
  | .flitReceive port seq crcOk body => Sys2Proof.Machine.execFlitReceive port seq crcOk body s
  | .fabricTokenArrival n => Sys2Proof.Machine.execFabricTokenArrival n s
  | .remoteRequestArrival n => Sys2Proof.Machine.execRemoteRequestArrival n s
  | .ptpMessage offset => Sys2Proof.Machine.execPtpMessage offset s
  | .powerOn fw => Sys2Proof.Machine.execPowerOn fw s
  | .deviceReset => Sys2Proof.Machine.execDeviceReset s
  | .firmwareUpdate fw => Sys2Proof.Machine.execFirmwareUpdate fw s
  | .thermalStepChange die stack => Sys2Proof.Machine.execThermalStepChange die stack s
  | .correctedError => Sys2Proof.Machine.execCorrectedError s
  | .uncorrectableError at_ => Sys2Proof.Machine.execUncorrectableError at_ s
  | .sweepBroadcastArrival n cell => Sys2Proof.Machine.execSweepBroadcastArrival n cell s
  | .planeFlipArrival n cell => Sys2Proof.Machine.execPlaneFlipArrival n cell s
  | .frameBreakArrival n cell => Sys2Proof.Machine.execFrameBreakArrival n cell s
  | .watchArmArrival n cell => Sys2Proof.Machine.execWatchArmArrival n cell s
  | .stopBroadcastArrival n cell => Sys2Proof.Machine.execStopBroadcastArrival n cell s
  | .outgoingTransferDone n => Sys2Proof.Machine.execOutgoingTransferDone n s
  | .granuleScrubComplete g => Sys2Proof.Machine.execGranuleScrubComplete g s
  | .ptpfree => Sys2Proof.Machine.execPtpfree s
  | .powerOff => Sys2Proof.Machine.execPowerOff s

end Sys2Proof.Machine
end

