-- ==== Sys2Proof/Machine/Step.lean ====
section
/-! DEFINITION. One step of the device, and a word placed where the next step fires it. -/

namespace Sys2Proof.Machine

/-- One action: the next thing that happens, after the time that passes before it. With nothing to do time passes. -/
def step (s : State) : Host.Outcome State Fault Refusal :=
  match s.nextAct with
  | (some a, s1) => finishOutcome (s1.act exec a)
  | (none, s1) => .next s1.finish

/-- A program comes to run by commands (log entry 10); the word stands for what they leave: an operator in a slot, and
a formed set of its key that a unit is about to select. Its nbits are the word's own 128. -/
def State.withFetchWord (s : State) (_nbits w : Nat) : State := s.placed (BitVec.ofNat 128 w)

end Sys2Proof.Machine
end

