-- ==== Sys2Proof/Safety.lean ====
section
/-! DEFINITION. What counts as a safe run, and the terms the statements use: when a firing's outputs can leave, and the
state in which it has committed. -/

namespace Sys2Proof.Machine

/-- A step is safe when it answers a next state: the machine stops at nothing. -/
def State.Safe (s : State) : Prop := ∃ t, step s = .next t

/-- Memory has its canonical form, so that equal memories are equal data. -/
abbrev State.MemoryCanonical (s : State) : Prop := Memory.wf s.mem = true

/-- The byte that stands at a physical address. -/
def State.byteAt (s : State) (a : Nat) : Byte := Memory.get s.mem (memKey a)

/-- The byte address x lies in the n bytes a store from a writes. -/
def inStore (a n x : Nat) : Prop := memKey a ≤ memKey x ∧ memKey x < memKey a + n

/-- A firing may send: its frame runs, and then every remote destination of its outputs is an outbound entry (R462), or the
frame has ended and its tokens are orphans (R144). -/
abbrev State.MaySend (s : State) (f : Firing) (outs : List Out) : Prop :=
  (s.runsIn f && s.badRemote f outs) = false

/-- The outputs of a firing can leave: it may send them, its input and new result tiles fit the cell's lines, the lines of
the new tiles can be reserved, which another set's claim would bar (R84, R87), and the lowest free runs hold them (R83):
cell1 is the cell with the tiles placed, and placed the outputs with their lines. -/
abbrev State.Fits (s : State) (f : Firing) (outs : List Out) (cell1 : Cell) (placed : List Out) : Prop :=
  s.MaySend f outs ∧ needLines f (newTiles outs) ≤ 2048 ∧ (s.cell f.cell).canReserve f.sid (newTiles outs) = true ∧
    (s.cell f.cell).place outs = some (cell1, placed)

/-- The firing is selected and its outputs can leave. -/
abbrev State.Delivers (s : State) (f : Firing) (outs : List Out) (cell1 : Cell) (placed : List Out) : Prop :=
  s.sel = some f ∧ s.Fits f outs cell1 placed

/-- The state in which the firing has committed (R76): flags ORed, the set gone from the cell, what more the commit
does, and every output sent to its side, or dropped as an orphan where the firing's frame had ended (R144); nothing is
selected any more. -/
def State.committed (s : State) (f : Firing) (cell1 : Cell) (placed : List Out) (fl : Flags) (more : State → State) :
    State :=
  { (((more (((s.setCell f.cell cell1).orFlags f.asid f.tag fl).retire f)).sendOuts f (s.runsIn f) placed).gcTiles f.cell) with
    sel := none }

/-- Every operand is of the kind its port takes: a tile, or a scalar (R47). -/
abbrev Firing.Kinds (f : Firing) (tileA tileB tileC : Bool) : Prop :=
  ∀ o ∈ f.ops, o.val.isTile = kindAt tileA tileB tileC o.port

/-- Every operand is a scalar. -/
abbrev Firing.Scalars (f : Firing) : Prop := f.Kinds false false false

/-- No operand is poisoned. -/
abbrev Firing.Clean (f : Firing) : Prop := ∀ o ∈ f.ops, o.val.poisoned = false

/-- An output on the D0 side. -/
def outD0 (t : Tag) (v : Val) (line : Option Nat) : Out := { side := false, tag := t, val := v, line := line }
/-- An output on the D1 side. -/
def outD1 (t : Tag) (v : Val) (line : Option Nat) : Out := { side := true, tag := t, val := v, line := line }

/-- An unpoisoned scalar with the EOS of the tokens consumed. -/
def Firing.scalarOut (f : Firing) (t : Tag) (v : Word64) : Out := outD0 t (.scalar v false f.eos) none

/-- A copy of a port's value with the given EOS: a tile keeps its lines. -/
def Firing.copyOut (f : Firing) (p : Port) (side : Bool) (t : Tag) (eos : Bool) : Out :=
  { side := side, tag := t, val := (f.val p).withEos eos, line := match f.val p with | .tile h _ => some h.line | _ => none }

/-- Whenever its outputs can leave, the selected firing of the instruction commits with exactly these outputs and flags. -/
def Commits (i : Instr) (s : State) (f : Firing) (outs : List Out) (fl : Flags) : Prop :=
  ∀ cell1 placed, s.Delivers f outs cell1 placed → exec i s = .next (s.committed f cell1 placed fl id)

/-- The same, with what else the commit does before the outputs leave. -/
def CommitsWith (i : Instr) (s : State) (f : Firing) (outs : List Out) (fl : Flags) (more : State → State) : Prop :=
  ∀ cell1 placed, s.Delivers f outs cell1 placed → exec i s = .next (s.committed f cell1 placed fl more)

/-- The selected firing of the instruction does not commit: it takes the trap. -/
def Traps (i : Instr) (s : State) (f : Firing) (t : Trap) : Prop := s.sel = some f → exec i s = .next (s.raise f t)

/-- The selected firing takes the trap once the lines of the result tiles it would have made are reserved (R84, R90). -/
def TrapsWith (i : Instr) (s : State) (f : Firing) (need : List Nat) (t : Trap) : Prop :=
  needLines f need ≤ 2048 → (s.cell f.cell).canReserve f.sid need = true → Traps i s f t

/-- A value of w bits placed in the payload (R178): sign-extended under an s format, zero-extended under any other. -/
def extend (fmt : Fmt) (x : BitVec (width fmt)) : Word64 :=
  if Enc.Fmt.signed fmt then x.signExtend 64 else x.zeroExtend 64

/-- The w bits of FMT a port holds. -/
def Firing.lane (f : Firing) (fmt : Fmt) (p : Port) : BitVec (width fmt) := BitVec.ofNat (width fmt) (f.num p)

/-- The exact x of R184 and R190, by instruction: what fit is applied to. -/
def exactInt (f : Firing) : Instr → Option (OpFields × Int)
  | .add w => some (w, f.int w.fmt .a + f.int w.fmt .b)
  | .sub w => some (w, f.int w.fmt .a - f.int w.fmt .b)
  | .mul w => some (w, f.int w.fmt .a * f.int w.fmt .b)
  | .mad w => some (w, f.int w.fmt .a * f.int w.fmt .b + f.int w.fmt .c)
  | .abs w => if Enc.Fmt.isF w.fmt then none else some (w, |f.int w.fmt .a|)
  | .neg w => if Enc.Fmt.isF w.fmt then none else some (w, -f.int w.fmt .a)
  | .icvt w => some (w, f.int ((Enc.Fmt.ofNat (w.imm.toNat % 8)).getD .s8) .a)
  | _ => none

/-- The exact value and the flags of R194 before the one rounding, by instruction. -/
def exactFloat (f : Firing) : Instr → Option (OpFields × FV × Flags)
  | .fadd w => some (w, fvAdd (Rm.ofMod w.mod) (f.fv w .a) (f.fv w .b))
  | .fsub w => some (w, fvAdd (Rm.ofMod w.mod) (f.fv w .a) (f.fv w .b).negate)
  | .fmul w => some (w, fvMul (f.fv w .a) (f.fv w .b))
  | .ffma w => some (w, fvFma (Rm.ofMod w.mod) (f.fv w .a) (f.fv w .b) (f.fv w .c))
  | .fdiv w => some (w, fvDiv (f.fv w .a) (f.fv w .b))
  | .fsqrt w => some (w, fvSqrt (f.fv w .a))
  | _ => none

/-- Does a context's FPEN enable one of the flags (R173)? -/
def enabledBy (fpen : BitVec 8) (fl : Flags) : Bool := fl &&& enabledFlags fpen != 0

/-- The plain outputs of a plumbing instruction that copies port p to a side, EOS the OR of all tokens (R116). -/
def Firing.passed (f : Firing) (p : Port) (side : Bool) (t : Tag) : Out := f.copyOut p side t f.eos

/-! ### Tile instructions: what tile_apply of R202 is called with -/

/-- A tile result by R201 and R202: which ports take tiles, the conditions of R200 on formats and shapes, the result's format
and shape, its VALID and POISON, the element at a row and column, and whether its flags may raise FP_EXCEPT. -/
structure TileSpec where
  w : OpFields
  tileA : Bool
  tileB : Bool
  tileC : Bool
  ok : Bool
  fmt : Fmt
  rows : Nat
  cols : Nat
  valid : Nat
  poison : BitVec 8
  elem : Nat → Nat → Nat × Flags
  fp : Bool

/-- Two tiles of one shape and of the word's format. -/
def Firing.pair (f : Firing) (w : OpFields) : Bool :=
  (f.handle .a).fmt == w.fmt && (f.handle .b).fmt == w.fmt && (f.handle .b).rows == (f.handle .a).rows &&
    (f.handle .b).cols == (f.handle .a).cols

/-- An instruction over two tiles of one shape: min of VALID, OR of POISON (R205, R212, R214). -/
def tilesOfTwo (f : Firing) (w : OpFields) (fmt : Fmt) (fp : Bool) (op : Nat → Nat → Nat → Nat × Flags) : TileSpec :=
  let a := f.handle .a
  let b := f.handle .b
  { w := w, tileA := true, tileB := true, tileC := false, ok := f.pair w, fmt := fmt, rows := a.rows, cols := a.cols,
    valid := min a.valid b.valid, poison := a.poison ||| b.poison,
    elem := fun i j => op (i * a.cols + j) (cellOf (f.grid .a) i j) (cellOf (f.grid .b) i j), fp := fp }

/-- An instruction over three tiles of one shape; mask: the format of port a (R205, R213). -/
def tilesOfThree (f : Firing) (w : OpFields) (mask : Fmt) (fp : Bool) (op : Nat → Nat → Nat → Nat → Nat × Flags) : TileSpec :=
  let a := f.handle .a
  let b := f.handle .b
  let c := f.handle .c
  { w := w, tileA := true, tileB := true, tileC := true,
    ok := a.fmt == mask && b.fmt == w.fmt && c.fmt == w.fmt && b.rows == a.rows && b.cols == a.cols && c.rows == a.rows &&
      c.cols == a.cols
    fmt := w.fmt, rows := a.rows, cols := a.cols, valid := min a.valid (min b.valid c.valid),
    poison := a.poison ||| b.poison ||| c.poison,
    elem := fun i j => op (i * a.cols + j) (cellOf (f.grid .a) i j) (cellOf (f.grid .b) i j) (cellOf (f.grid .c) i j), fp := fp }

/-- An instruction over one tile, element by element (R205, R206, R214). -/
def tileOfOne (f : Firing) (w : OpFields) (more : BitVec 8) (fp : Bool) (op : Nat → Nat → Nat × Flags) : TileSpec :=
  let a := f.handle .a
  { w := w, tileA := true, tileB := false, tileC := false, ok := a.fmt == w.fmt, fmt := w.fmt, rows := a.rows, cols := a.cols,
    valid := a.valid, poison := a.poison ||| more, elem := fun i j => op (i * a.cols + j) (cellOf (f.grid .a) i j), fp := fp }

/-- A reduction along rows, or down columns when VAR is odd: one element for each row or column (R222). -/
def reduction (f : Firing) (w : OpFields) (fmt : Fmt) (fp : Bool) (cut : Bool) (op : Nat → List Nat → Nat × Flags) : TileSpec :=
  let a := f.handle .a
  let g := f.grid .a
  if w.var.getLsbD 0 then
    { w := w, tileA := true, tileB := false, tileC := false, ok := a.fmt == w.fmt, fmt := fmt, rows := 1, cols := a.cols,
      valid := if cut then min 1 a.valid else 1,
      poison := if cut then (if (List.range a.valid).any (rowPoisoned a) then 1 else 0) else if a.poison != 0 then 1 else 0
      elem := fun _ j => op j (if cut then (column g j).take a.valid else column g j), fp := fp }
  else
    { w := w, tileA := true, tileB := false, tileC := false, ok := a.fmt == w.fmt, fmt := fmt, rows := a.rows, cols := 1,
      valid := a.valid, poison := a.poison, elem := fun i _ => op i (g.getD i []), fp := fp }

/-- The tile instructions whose result is one tile made element by element: 0x50 to 0x67, 0x6A, 0x6B, and the reductions
0x80 to 0x83, 0x85 and 0x8A. -/
def tileSpec (f : Firing) (e : Env) : Instr → Option TileSpec
  | .vadd w => some (tilesOfTwo f w w.fmt (fpOf w) fun i => elemOp w (rounding w f e) 0 i)
  | .vsub w => some (tilesOfTwo f w w.fmt (fpOf w) fun i => elemOp w (rounding w f e) 1 i)
  | .vmul w => some (tilesOfTwo f w w.fmt (fpOf w) fun i => elemOp w (rounding w f e) 3 i)
  | .vdiv w => some (tilesOfTwo f w w.fmt (fpOf w) fun i => elemOp w (rounding w f e) 4 i)
  | .vmin w => some (tilesOfTwo f w w.fmt (fpOf w) fun i => elemOp w (rounding w f e) 6 i)
  | .vmax w => some (tilesOfTwo f w w.fmt (fpOf w) fun i => elemOp w (rounding w f e) 7 i)
  | .vfma w => some (tilesOfThree f w w.fmt true fun i x y z =>
      let ro := rounding w f e
      elemFloat w ro i (fvFma ro.rm (readF w.fmt ro.ftz x) (readF w.fmt ro.ftz y) (readF w.fmt ro.ftz z)))
  | .vabs w => some (tileOfOne f w 0 (fpOf w) fun _ x =>
      if Enc.Fmt.isF w.fmt then (floatAbs w.fmt x, 0) else elemInt w (readInt w.fmt x).natAbs)
  | .vneg w => some (tileOfOne f w 0 (fpOf w) fun _ x =>
      if Enc.Fmt.isF w.fmt then (floatNeg w.fmt x, 0) else elemInt w (-(readInt w.fmt x)))
  | .vsqrt w => some (tileOfOne f w 0 (fpOf w) fun i x =>
      elemFloat w (rounding w f e) i (fvSqrt (readF w.fmt (rounding w f e).ftz x)))
  | .vrsq w => some (tileOfOne f w 0 (fpOf w) fun i x =>
      elemFloat w (rounding w f e) i (fvRsqrt (readF w.fmt (rounding w f e).ftz x)))
  | .vrcp w => some (tileOfOne f w 0 (fpOf w) fun i x =>
      elemFloat w (rounding w f e) i (fvDiv (.fin false 1 1) (readF w.fmt (rounding w f e).ftz x)))
  | .vexp2 w => some (tileOfOne f w 0 (fpOf w) fun i x =>
      vexp2 w.fmt (rounding w f e) i (readF w.fmt (rounding w f e).ftz x))
  | .vlog2 w => some (tileOfOne f w 0 (fpOf w) fun i x =>
      vlog2 w.fmt (rounding w f e) i (readF w.fmt (rounding w f e).ftz x))
  | .vtanh w => some (tileOfOne f w 0 (fpOf w) fun i x =>
      vtanh w.fmt (rounding w f e) i (readF w.fmt (rounding w f e).ftz x))
  | .vscal w => some (tileOfOne f w (if f.isPoisoned .b then poisonAll (f.handle .a).rows else 0) (fpOf w) fun i x =>
      elemOp w (rounding w f e) w.var.toNat i x (f.bits w.fmt .b))
  | .vshf w => some (tileOfOne f w (if f.isPoisoned .b then poisonAll (f.handle .a).rows else 0) false fun _ x =>
      (shiftBits w.var.toNat (width w.fmt) x (f.num .b % width w.fmt), 0))
  | .vfill w =>
    let rows := w.imm.toNat % 64 + 1
    some { w := w, tileA := false, tileB := false, tileC := false, ok := true, fmt := w.fmt, rows := rows,
           cols := w.imm.toNat / 64 % 512 + 1, valid := rows, poison := if f.isPoisoned .a then poisonAll rows else 0,
           elem := fun _ _ => (f.bits w.fmt .a, 0), fp := false }
  | .vcmp w => some (tilesOfTwo f w .bit (fpOf w) fun _ x y =>
      let ftz := w.mod.getLsbD 3
      if Enc.Fmt.isF w.fmt then
        let r := fvCompare w.var.toNat (readF w.fmt ftz x) (readF w.fmt ftz y)
        (r.1.toNat, r.2)
      else ((cmpCond w.var.toNat (readInt w.fmt x) (readInt w.fmt y) x y).toNat, 0))
  | .vmsel w => some (tilesOfThree f w .bit false fun _ x y z => (if x != 0 then y else z, 0))
  | .vand w => some (tilesOfTwo f w w.fmt false fun _ x y => (x &&& y, 0))
  | .vor w => some (tilesOfTwo f w w.fmt false fun _ x y => (x ||| y, 0))
  | .vxor w => some (tilesOfTwo f w w.fmt false fun _ x y => (x ^^^ y, 0))
  | .vrowop w =>
    let a := f.handle .a
    let b := f.handle .b
    some { w := w, tileA := true, tileB := true, tileC := false,
           ok := a.fmt == w.fmt && b.fmt == w.fmt && b.rows == a.rows && b.cols == 1
           fmt := w.fmt, rows := a.rows, cols := a.cols, valid := min a.valid b.valid, poison := a.poison ||| b.poison,
           elem := fun i j => elemOp w (rounding w f e) w.var.toNat (i * a.cols + j) (cellOf (f.grid .a) i j)
             (cellOf (f.grid .b) i 0)
           fp := fpOf w }
  | .vcolop w =>
    let a := f.handle .a
    let b := f.handle .b
    some { w := w, tileA := true, tileB := true, tileC := false,
           ok := a.fmt == w.fmt && b.fmt == w.fmt && b.rows == 1 && b.cols == a.cols
           fmt := w.fmt, rows := a.rows, cols := a.cols, valid := a.valid,
           poison := a.poison ||| (if b.poison.getLsbD 0 then poisonAll a.rows else 0)
           elem := fun i j => elemOp w (rounding w f e) w.var.toNat (i * a.cols + j) (cellOf (f.grid .a) i j)
             (cellOf (f.grid .b) 0 j)
           fp := fpOf w }
  | .rsum w => some (reduction f w (if w.var.getLsbD 1 then .f32 else w.fmt) (fpOf w) false fun i xs =>
      sumOf w (rounding w f e) (w.var.getLsbD 1) i xs)
  | .rmax w => some (reduction f w w.fmt (fpOf w) true fun _ xs => extreme w true xs)
  | .rmin w => some (reduction f w w.fmt (fpOf w) true fun _ xs => extreme w false xs)
  | .rargx w => some (reduction f w .z32 false true fun _ xs => (argBest (!w.var.getLsbD 1) w.fmt xs, 0))
  | .scan w =>
    let a := f.handle .a
    some { w := w, tileA := true, tileB := false, tileC := false, ok := a.fmt == w.fmt,
           fmt := if w.var.getLsbD 1 then .f32 else w.fmt, rows := a.rows, cols := a.cols, valid := a.valid,
           poison := if w.var.getLsbD 0 then scanPoison a else a.poison
           elem := fun i j => sumOf w (rounding w f e) (w.var.getLsbD 1) (i * a.cols + j)
             (if w.var.getLsbD 0 then (column (f.grid .a) j).take (i + 1) else ((f.grid .a).getD i []).take (j + 1))
           fp := fpOf w }
  | .normk w =>
    let a := f.handle .a
    some { w := w, tileA := true, tileB := false, tileC := false, ok := a.fmt == w.fmt, fmt := w.fmt, rows := a.rows,
           cols := a.cols, valid := a.valid, poison := a.poison
           elem := fun i j => (normkRow w (rounding w f e) (i * a.cols) ((f.grid .a).getD i [])).getD j (0, 0)
           fp := true }
  | _ => none

/-- The rows of a conversion into an MX format (R166, R211): scales, and elements with their flags. -/
def mxConverted (w : OpFields) (ro : Round) (h : Handle) (data : List Byte) : List (List Nat × List (Nat × Flags)) :=
  (List.range h.rows).map fun i =>
    if i < h.valid then
      let r :=
        if srcOf w == w.fmt then mxCopyRow w.fmt ro.ftz h.cols (if rowPoisoned h i then zeros h.rowLen else rowAt h data i)
        else mxBlocks w.fmt ro (i * h.cols) (h.cols / 32) 0 ((List.range h.cols).map fun j => cvtSource w h ro.ftz data i j)
      (r.1, if rowPoisoned h i then r.2.map fun x => (x.1, (0 : Flags)) else r.2)
    else (List.replicate (h.cols / 32) 0, List.replicate h.cols (0, (0 : Flags)))

/-- A result tile with EOS and DISC the ORs of its inputs' and SEQ port a's (R201); its line is given when it is placed. -/
def Firing.tileOut (f : Firing) (t : Tag) (side : Bool) (fmt : Fmt) (rows cols valid : Nat) (poison : BitVec 8)
    (data : List Byte) : Out :=
  { side := side, tag := t, val := tileRes f fmt rows cols valid poison data, line := none }

/-! ### Accumulators -/

/-- The word on port p names accumulator n of the firing's cell as it stands, and the firing's own frame owns it (R234,
R235). -/
abbrev State.Owns (s : State) (f : Firing) (p : Port) (n : Nat) (a : Acc) : Prop :=
  n < 4 ∧ f.cell < 2048 ∧ (s.cell f.cell).acc n = a ∧
    a.owner = some (tagFrame f.tag, (tagGen f.tag).toNat, f.asid) ∧ (f.val p).isTile = false ∧
    f.isPoisoned p = false ∧ f.word' p = accWord f.cell a.step n (tagGen f.tag) (tagFrame f.tag)

/-- The firing may use accumulator n through the word on port p: as its owner, or, for reading and patching, as a handler
frame with capability bit 0, and for patching bit 1 and a PARKED owner (R235). -/
abbrev State.Reaches (s : State) (f : Firing) (p : Port) (op : AccUse) (n : Nat) (a : Acc) : Prop :=
  n < 4 ∧ f.cell < 2048 ∧ (s.cell f.cell).acc n = a ∧ (f.val p).isTile = false ∧ f.isPoisoned p = false ∧
    match a.owner with
    | none => False
    | some (fr, g, asid) =>
      fr < 4096 ∧ g < 16 ∧ asid = f.asid ∧ f.word' p = accWord f.cell a.step n (BitVec.ofNat 4 g) fr ∧
        ((fr = tagFrame f.tag ∧ g = (tagGen f.tag).toNat) ∨
          (op ≠ .owner ∧ (s.env f).handler = true ∧ (s.env f).caps.getLsbD 0 = true ∧
            (op = .patch → (s.env f).caps.getLsbD 1 = true ∧
              (s.frameOf f.asid (frameTag (BitVec.ofNat 4 g) fr)).st = .parked ∧
              (s.frameOf f.asid (frameTag (BitVec.ofNat 4 g) fr)).gen.toNat = g)))

/-- The word of accumulator n after a step, to a side. -/
def Firing.accOut (f : Firing) (t : Tag) (side : Bool) (n : Nat) (a : Acc) : Out :=
  { side := side, tag := t, val := .scalar (a.wordAt f.cell n) false f.eos, line := none }

/-- An accumulator written when its firing commits (R237). -/
def State.setAccAt (s : State) (f : Firing) (n : Nat) (a : Acc) : State :=
  s.modCell f.cell fun x => x.setAcc n a

/-- What a gang's commit sends: port a's value to each member under its own tag, a tile crossing once to each cell (R84), and
then each member's rank on port b (R139); orphans where the firing's frame had ended. -/
def gangSends (f : Firing) (live : Bool) (members : List Nat) (st : State) : State :=
  let tags := members.map (st.childTag f.asid)
  let st1 := st.sendSide (f.sender st) live tags ((f.val .a).withEos f.eos) f.outs0
  tags.zipIdx.foldl (fun st2 p =>
    st2.sendSide (f.sender st2) live [p.1] (.scalar (BitVec.ofNat 64 p.2) false false) (toPortB f.outs0)) st1

/-! ### Memory operations -/

/-- What R300 asks of a plan after its operands: every page of its pieces is held by a TLB and grants the access, its address
is aligned, poisoned data may be stored, and no armed watch slot is met. -/
abbrev State.Issuable (s : State) (f : Firing) (p : Plan) (ts : List (Nat × TlbEntry)) : Prop :=
  s.translate f (pagesOf (cutAll p.spans)) = .ok ts ∧ s.rights (s.env f) p.need ts = .ok () ∧ p.aligned = true ∧
    storePoison ts p.bad (cutAll p.spans) = .ok () ∧ p.watch = .ok ()

/-- The firing's destinations are good and its input tiles fit the cell's lines (R292, R87). -/
abbrev State.CanCommit (s : State) (f : Firing) : Prop :=
  s.MaySend f [outD0 f.tag (.scalar 0 false false) none, outD1 f.tag (.scalar 0 false false) none] ∧
    needLines f [] ≤ 2048

/-- An operation added to the outstanding ones; what it has on other devices is asked of them (R298). -/
def State.withOp (s : State) (o : MemOp) : State :=
  ({ s with memops := s.memops ++ [o], nextOp := o.id + 1 } : State).ask o

/-- The TLB entries an operation goes through, used (R366). -/
def State.touched (s : State) (f : Firing) (ts : List (Nat × TlbEntry)) : State :=
  ts.foldl (fun st t => st.tlbTouch f.cell t.2) s

/-- The firing's operation issued (R292, R304): at once with its commit, which has no output; or, where its homes accept it
first, with the set waiting for their replies. -/
def State.issued (s : State) (f : Firing) (o : MemOp) : State :=
  if o.phase = .accepting then (s.hold f (.accept o.id)).withOp o
  else s.committed f (s.cell f.cell) [] 0 fun st => st.withOp o

/-- Whenever R300 lets it, the selected firing of the instruction issues the operation of the plan; s0 is the state after the
read of its descriptor, and g the firing with it. The lines of a load's tile are reserved first (R84): s1 is the state with
them kept, and h the firing that names them. -/
def Issues (i : Instr) (s s0 : State) (f g : Firing) (w : OpFields) (p : Plan) : Prop :=
  ∀ ts s1 h, s.sel = some f → needLines g p.room ≤ 2048 → s0.reserveRoom g p.room = some (s1, h) → s1.Issuable h p ts →
    (s1.touched h ts).CanCommit h →
      exec i s = .next ((s1.touched h ts).issued h
        ((s1.touched h ts).newOp h p (w.mod.extractLsb' 0 2) ts (accesses ts p.bad (cutAll p.spans))))

/-- A plan of an operator on one naturally aligned word at port a (R281, R319). -/
def wordPlan (f : Firing) (t : Tag) (kind : OpKind) (n : Nat) (need : Need) (accept : Bool) (count : Nat) : Plan :=
  { tag := t, kind := kind, spans := [{ va := (f.val .a).word.toNat, off := 0, len := n, row := 0 }], need := need,
    aligned := (f.val .a).word.toNat % n == 0, base := (f.val .a).word.toNat, bad := fun _ => false, watch := .ok (),
    buf := List.replicate n 0, count := count, accept := accept }

/-- A scalar or atomic access: its word, address and length, and what its page must grant. -/
structure WordAccess where
  w : OpFields
  ea : Nat
  len : Nat
  need : Need

/-- The access of LDS and STS at port a plus IMM or at the literal (R313), and of the atomics at port a (R319, R325 to R327). -/
def wordAccess (f : Firing) (i : Instr) : Option WordAccess :=
  let at' (w : OpFields) (len : Nat) (r wr w1 device : Bool) : Option WordAccess :=
    some { w := w, ea := (f.val .a).word.toNat, len := len, need := { r := r, w := wr, w1 := w1, device := device } }
  let off (w : OpFields) (r : Bool) : Option WordAccess :=
    some { w := w, ea := ((f.val .a).word + (if w.lit.isSome then 0 else w.imm.signExtend 64)).toNat, len := width w.fmt / 8,
           need := { r := r, w := !r, w1 := false, device := false } }
  match i with
  | .lds w => off w true
  | .sts w => off w false
  | .atom w | .cas w => at' w (width w.fmt / 8) true true false false
  | .join w => at' w 4 true true false false
  | .iput w | .iclr w => at' w 8 false true true true
  | .itake w => at' w 8 true false true true
  | .waitv w => at' w (width w.fmt / 8) true false false true
  | _ => none

/-! ### Homes -/

/-- Access k of operation id is next at its home: it is local or the host's, not yet done, and its operation is in a phase. -/
abbrev State.AtHome (s : State) (id k : Nat) (o : MemOp) (a : Access) (ph : OpPhase) : Prop :=
  s.op id = some o ∧ o.accs[k]? = some a ∧ a.done = false ∧ s.isRemote a.pa = false ∧ o.phase = ph

/-- The operation changed, and its access k done; the last one of an issued operation performs it (R283). -/
def State.applied (s : State) (id k : Nat) (g : MemOp → MemOp) : State :=
  (s.modOp id g).modOp id fun p => { p with accs := p.accs.modify k fun x => { x with done := true } }.settle

/-- A word's answer to an operation listed or registered at it. -/
def State.answers (s : State) (os : List MemOp) (bytes : List Byte) (bad : Bool) : State :=
  os.foldl (fun st o => st.answerOp o bytes bad) s

/-! ### Values -/

/-- The exact value of a finite float. -/
def FV.rat : FV → Rat
  | .fin s n d => if s then -((n : Rat) / d) else (n : Rat) / d
  | _ => 0

/-- a < b among the values from −∞ to +∞; −0 equals +0, and a NaN is not ordered. -/
def FV.less : FV → FV → Bool
  | .inf s, .inf t => s && !t
  | .inf s, .fin _ _ _ => s
  | .fin _ _ _, .inf t => !t
  | .fin s n d, .fin t m e => decide ((FV.fin s n d).rat < (FV.fin t m e).rat)
  | _, _ => false

/-- a orders below b where −0 is below +0. -/
def FV.under (a b : FV) : Bool := a.less b || (a.isZero && b.isZero && a.sign && !b.sign)

/-- The number of nodes at a level of the tree of R176 over n elements. -/
def treeWidth (n : Nat) : Nat → Nat
  | 0 => n
  | l + 1 => (treeWidth n l + 1) / 2

/-- Node i at a level of the tree of R176, with the flags raised beneath it: the two nodes beneath it added, or the one there
is, unchanged. add takes the level and position of a combination. -/
def treeNode (add : Nat → Nat → Nat → Nat → Nat × Flags) (v : List Nat) : Nat → Nat → Nat × Flags
  | 0, i => (v.getD i 0, 0)
  | l + 1, i =>
    let x := treeNode add v l (2 * i)
    let y := treeNode add v l (2 * i + 1)
    if 2 * i + 1 < treeWidth v.length l then
      let r := add l i x.1 y.1
      (r.1, x.2 ||| y.2 ||| r.2)
    else x

/-- A micro-operation that writes value v l into lane l of its destination, raises the flags of each lane and goes on. -/
def WritesLanes (e : RunEnv) (r : Run) (u : MicroWord) (v : Nat → Nat × Flags) : Prop :=
  ∃ i x, u.dst = .m i ∧ microOp e r u = .ok x ∧ x.jump = none ∧ x.fin = false ∧
    x.run = { r with m := r.m.set i.toNat ((List.range 64).map fun l => BitVec.ofNat 32 (v l).1) } ∧
    ∀ l fl, (l, fl) ∈ x.fl ↔ l < 64 ∧ fl = (v l).2 ∧ fl ≠ 0

/-- A micro-operation that leaves the run t, raises no flag and goes on. -/
def Leaves (e : RunEnv) (r : Run) (u : MicroWord) (t : Run) : Prop :=
  ∃ x, microOp e r u = .ok x ∧ x.run = t ∧ x.fl = [] ∧ x.jump = none ∧ x.fin = false

/-- An exact integer as fit() leaves it without TRAPV (R183), in the bits of FMT. -/
def fitted (fmt : Fmt) (sat : Bool) (x : Int) : Nat × Flags :=
  if (intLo fmt ≤ x ∧ x ≤ intHi fmt) ∨ sat = false then ((x % (2 ^ width fmt : Nat)).toNat, 0)
  else (((if x < intLo fmt then intLo fmt else intHi fmt) % (2 ^ width fmt : Nat)).toNat, fOF)

end Sys2Proof.Machine
end

