-- ==== Sys2Proof/Certificates/Slice0/Obligations.lean ====
section
/-! DEFINITION. The statements about the model. Each formalises rules of the manual over every state, and names in its
docstring the rules or the log entries it rests on. -/

open Sys2Proof Sys2Proof.Machine

/-! ### Scalar integer instructions -/

/-- R183, R184, R190: an exact result of ADD, SUB, MUL, MAD, ABS, NEG or ICVT on unpoisoned scalars that lies in the range of FMT is the result,
with no flag. Any other traps under TRAPV with INT_EXCEPT code 1; else it is clamped to the nearer end with OF under SAT, and is congruent
modulo 2^w with no flag without it (R181, R183). -/
def Obligations.IntegerResults : Prop :=
  (
    ∀ (i : Instr) (w : OpFields) (x : Int) (s : State) (f : Firing) (t : Tag),
      exactInt f i = some (w, x) → f.Scalars → f.Clean → outTag w f (s.env f) = .ok t → intLo w.fmt ≤ x → x ≤ intHi w.fmt →
        Commits i s f [f.scalarOut t (BitVec.ofInt 64 x)] 0) ∧
  (
    ∀ (i : Instr) (w : OpFields) (x : Int) (s : State) (f : Firing) (t : Tag),
      exactInt f i = some (w, x) → f.Scalars → f.Clean → outTag w f (s.env f) = .ok t → (x < intLo w.fmt ∨ intHi w.fmt < x) →
        (w.var = 1 → Traps i s f { trapOf 0x0E 1 with flags := 0 }) ∧
        (w.var ≠ 1 → w.mod.getLsbD 3 = true →
          Commits i s f [f.scalarOut t (BitVec.ofInt 64 (if x < intLo w.fmt then intLo w.fmt else intHi w.fmt))] fOF) ∧
        (w.var ≠ 1 → w.mod.getLsbD 3 = false →
          ∃ y : Int, intLo w.fmt ≤ y ∧ y ≤ intHi w.fmt ∧ ((2 ^ width w.fmt : Nat) : Int) ∣ (x - y) ∧
            Commits i s f [f.scalarOut t (BitVec.ofInt 64 y)] 0))

/-- R185: DIV and REM truncate toward zero; by zero DIV gives -1 or the greatest value with IV, or INT_EXCEPT code 2 under
TRAPV, and REM gives a with IV. The one quotient that leaves the range is fitted: INT_EXCEPT code 1 under TRAPV, the greatest
value with OF under SAT, else the least value. -/
def Obligations.DivideAndRemainder : Prop :=
  ∀ (w : OpFields) (s : State) (f : Firing) (t : Tag), f.Scalars → f.Clean → outTag w f (s.env f) = .ok t →
    let a := f.int w.fmt .a
    let b := f.int w.fmt .b
    (b ≠ 0 → intLo w.fmt ≤ a.tdiv b → a.tdiv b ≤ intHi w.fmt →
      Commits (.div w) s f [f.scalarOut t (BitVec.ofInt 64 (a.tdiv b))] 0) ∧
    (b ≠ 0 → intHi w.fmt < a.tdiv b →
      (w.var = 1 → Traps (.div w) s f { trapOf 0x0E 1 with flags := 0 }) ∧
      (w.var ≠ 1 → w.mod.getLsbD 3 = true → Commits (.div w) s f [f.scalarOut t (BitVec.ofInt 64 (intHi w.fmt))] fOF) ∧
      (w.var ≠ 1 → w.mod.getLsbD 3 = false → Commits (.div w) s f [f.scalarOut t (BitVec.ofInt 64 (intLo w.fmt))] 0)) ∧
    (b ≠ 0 → intLo w.fmt ≤ a.tdiv b) ∧
    (b ≠ 0 → Commits (.rem w) s f [f.scalarOut t (BitVec.ofInt 64 (a.tmod b))] 0) ∧
    (b = 0 → w.var = 1 → Traps (.div w) s f { trapOf 0x0E 2 with flags := fIV }) ∧
    (b = 0 → w.var ≠ 1 →
      Commits (.div w) s f [f.scalarOut t (if Enc.Fmt.signed w.fmt then BitVec.ofInt 64 (-1) else
        BitVec.ofInt 64 ((2 ^ width w.fmt : Nat) - 1))] fIV) ∧
    (b = 0 → Commits (.rem w) s f [f.scalarOut t (BitVec.ofInt 64 a)] fIV)

/-- R186, R187: the bitwise and shift operators work on the w bits of their operands, MIN and MAX compare them, CLZ and POPC count, CMP emits
whether its condition holds; R184: MULH returns the upper w bits of the exact product.
R188: BEXT returns the field of its descriptor and BINS replaces it; a malformed descriptor raises BAD_OPERAND. R189, R191, R192: ADDRC forms
an address in 54 bits, with OF or INT_EXCEPT code 1 outside them; MIX hashes; PACK joins two halves fitted to the half format, and UNPK takes them apart. -/
def Obligations.BitwiseShiftsAndFields : Prop :=
  (
    ∀ (w : OpFields) (s : State) (f : Firing) (t : Tag), f.Scalars → f.Clean → outTag w f (s.env f) = .ok t →
      let a := f.lane w.fmt .a
      let b := f.lane w.fmt .b
      let n := f.num .b % width w.fmt
      let out (x : BitVec (width w.fmt)) := [f.scalarOut t (extend w.fmt x)]
      Commits (.and w) s f (out (a &&& b)) 0 ∧
      Commits (.or w) s f (out (a ||| b)) 0 ∧
      Commits (.xor w) s f (out (a ^^^ b)) 0 ∧
      Commits (.andn w) s f (out (a &&& ~~~b)) 0 ∧
      Commits (.shl w) s f (out (a <<< n)) 0 ∧
      Commits (.shr w) s f (out (a >>> n)) 0 ∧
      Commits (.sra w) s f (out (a.sshiftRight n)) 0 ∧
      Commits (.rotl w) s f (out (a.rotateLeft n)) 0 ∧
      Commits (.min w) s f [f.scalarOut t (BitVec.ofInt 64 (min (f.int w.fmt .a) (f.int w.fmt .b)))] 0 ∧
      Commits (.max w) s f [f.scalarOut t (BitVec.ofInt 64 (max (f.int w.fmt .a) (f.int w.fmt .b)))] 0 ∧
      (∀ k, k ≤ width w.fmt → (∀ j, width w.fmt - k ≤ j → j < width w.fmt → a.getLsbD j = false) →
        (k < width w.fmt → a.getLsbD (width w.fmt - 1 - k) = true) →
          Commits (.clz w) s f [f.scalarOut t (BitVec.ofNat 64 k)] 0) ∧
      Commits (.popc w) s f [f.scalarOut t (BitVec.ofNat 64 ((List.range (width w.fmt)).countP a.getLsbD))] 0 ∧
      Commits (.mulh w) s f
        (out (BitVec.ofInt (width w.fmt) ((f.int w.fmt .a * f.int w.fmt .b) / (2 ^ width w.fmt : Nat)))) 0) ∧
  (
    ∀ (w : OpFields) (s : State) (f : Firing) (t : Tag), f.Scalars → f.Clean → outTag w f (s.env f) = .ok t → w.var.toNat < 8 →
      let a := f.int w.fmt .a
      let b := f.int w.fmt .b
      let both := f.lane w.fmt .a &&& f.lane w.fmt .b
      let out (c : Bool) := [f.scalarOut t (if c then 1 else 0)]
      Commits (.cmp w) s f (out (match w.var.toNat with
        | 0 => decide (a = b) | 1 => decide (a ≠ b) | 2 => decide (a < b) | 3 => decide (a ≤ b)
        | 4 => decide (a > b) | 5 => decide (a ≥ b) | 6 => both != 0 | _ => both == 0)) 0) ∧
  (
    ∀ (w : OpFields) (s : State) (f : Firing) (t : Tag), f.Scalars → f.Clean → outTag w f (s.env f) = .ok t →
      let desc (p : Port) : Word64 := BitVec.ofNat 64 (f.num p)
      let bad (d : Word64) : Prop :=
        d &&& 0xFFFFFFFFFFFF80C0#64 ≠ 0 ∨ d.extractLsb' 8 7 = 0 ∨
          width w.fmt < (d.extractLsb' 0 6).toNat + (d.extractLsb' 8 7).toNat
      let a := f.lane w.fmt .a
      let b := f.lane w.fmt .b
      (bad (desc .b) → Traps (.bext w) s f tBAD_OPERAND) ∧
      (bad (desc .c) → Traps (.bins w) s f tBAD_OPERAND) ∧
      (¬ bad (desc .b) →
        let p := ((desc .b).extractLsb' 0 6).toNat
        let l := ((desc .b).extractLsb' 8 7).toNat
        Commits (.bext w) s f [f.scalarOut t (if Enc.Fmt.signed w.fmt then (a.extractLsb' p l).signExtend 64
          else (a.extractLsb' p l).zeroExtend 64)] 0) ∧
      (¬ bad (desc .c) →
        let p := ((desc .c).extractLsb' 0 6).toNat
        let l := ((desc .c).extractLsb' 8 7).toNat
        ∀ r : BitVec (width w.fmt),
          (∀ k, k < width w.fmt → r.getLsbD k = if p ≤ k ∧ k < p + l then b.getLsbD (k - p) else a.getLsbD k) →
            Commits (.bins w) s f [f.scalarOut t (extend w.fmt r)] 0)) ∧
  (
    ∀ (w : OpFields) (s : State) (f : Firing) (t : Tag), f.Scalars → f.Clean → outTag w f (s.env f) = .ok t →
      let x : Int := (f.num .a : Int) + f.int w.fmt .b * (2 ^ (w.imm.toNat % 8) : Nat)
      let h := halfOf w.fmt
      (0 ≤ x → x < (2 ^ 54 : Nat) → Commits (.addrc w) s f [f.scalarOut t (BitVec.ofInt 64 x)] 0) ∧
      ((x < 0 ∨ (2 ^ 54 : Nat) ≤ x) → w.var = 1 → Traps (.addrc w) s f { trapOf 0x0E 1 with flags := 0 }) ∧
      ((x < 0 ∨ (2 ^ 54 : Nat) ≤ x) → w.var ≠ 1 →
        Commits (.addrc w) s f [f.scalarOut t ((BitVec.ofInt 54 x).zeroExtend 64)] fOF) ∧
      (w.fmt = .z64 → Commits (.mix w) s f [f.scalarOut t (mix64 (BitVec.ofNat 64 (f.num .a) ^^^ mix64 (BitVec.ofNat 64 (f.num .b))))] 0) ∧
      (w.fmt = .z32 → Commits (.mix w) s f [f.scalarOut t ((((mix64 (((BitVec.ofNat 32 (f.num .a)).zeroExtend 64) ^^^
        mix64 ((BitVec.ofNat 32 (f.num .b)).zeroExtend 64))).extractLsb' 0 32).zeroExtend 64))] 0) ∧
      (width w.fmt = 2 * width h → ∀ y z : Int,
        let fits (v x : Int) : Prop := intLo h ≤ v ∧ v ≤ intHi h ∧
          (intLo h ≤ x → x ≤ intHi h → v = x) ∧
          (w.mod.getLsbD 3 = true → (x < intLo h → v = intLo h) ∧ (intHi h < x → v = intHi h)) ∧
          (w.mod.getLsbD 3 = false → ((2 ^ width h : Nat) : Int) ∣ (x - v))
        let leaves (x : Int) : Bool := decide (x < intLo h) || decide (intHi h < x)
        fits y (f.int w.fmt .a) → fits z (f.int w.fmt .b) →
          Commits (.pack w) s f [f.scalarOut t (extend w.fmt
            (((BitVec.ofInt (width w.fmt) y) <<< width h) ||| ((BitVec.ofInt (width h) z).zeroExtend (width w.fmt))))]
            (if w.mod.getLsbD 3 && (leaves (f.int w.fmt .a) || leaves (f.int w.fmt .b)) then fOF else 0)) ∧
      Commits (.unpk w) s f
        [outD0 t (.scalar (extend h ((f.lane w.fmt .a).extractLsb' (width h) (width h))) false f.eos) none,
         outD1 t (.scalar (extend h ((f.lane w.fmt .a).extractLsb' 0 (width h))) false f.eos) none] 0)

/-! ### Scalar floating instructions, and poison -/

/-- R194: FADD, FSUB, FMUL, FFMA, FDIV and FSQRT round the exact result once under MOD, with their flags, when no flag raised is enabled; R173:
with an enabled flag the firing raises FP_EXCEPT with the flags and element 0. And the special cases, flag by flag, FFMA among them; what the
one rounding makes of a NaN, an infinity, a zero and, under FTZ, a tiny value (R163, R168); and the worked conversions of R171. -/
def Obligations.FloatArithmetic : Prop :=
  (
    ∀ (i : Instr) (w : OpFields) (v : FV) (fl : Flags) (s : State) (f : Firing) (t : Tag),
      exactFloat f i = some (w, v, fl) → f.Scalars → f.Clean → outTag w f (s.env f) = .ok t →
        let r := deliver w.fmt (rounding w f (s.env f)) 0 v
        let all := fl ||| r.2
        (enabledBy (s.env f).fpen all = false → Commits i s f [f.scalarOut t (BitVec.ofNat 64 r.1)] all) ∧
        (enabledBy (s.env f).fpen all = true →
          Traps i s f { trapOf 0x0D (fpCode (all &&& enabledFlags (s.env f).fpen)) with elem := 0, flags := all })) ∧
  (
    (∀ (rm : Rm) (x y z : FV),
      (x.isNan ∨ y.isNan →
        (fvAdd rm x y).1.isNan ∧ (fvMul x y).1.isNan ∧ (fvDiv x y).1.isNan ∧
          ((fvAdd rm x y).2 = fIV ↔ x.isSig ∨ y.isSig) ∧ ((fvMul x y).2 = fIV ↔ x.isSig ∨ y.isSig) ∧
          ((fvDiv x y).2 = fIV ↔ x.isSig ∨ y.isSig)) ∧
      (∀ p : Bool, x = .inf p → y = .inf (!p) → fvAdd rm x y = (.nan false, fIV)) ∧
      (x.isZero → y.isInf → fvMul x y = (.nan false, fIV) ∧ fvMul y x = (.nan false, fIV)) ∧
      (x.isZero → y.isZero → fvDiv x y = (.nan false, fIV)) ∧
      (x.isInf → y.isInf → fvDiv x y = (.nan false, fIV)) ∧
      (∀ p n d, x = .fin p n d → n ≠ 0 → y.isZero → fvDiv x y = (.inf (p != y.sign), fDZ)) ∧
      (∀ p n d, x = .fin p n d → y.isInf → fvDiv x y = (.fin (p != y.sign) 0 1, 0)) ∧
      (x.isNan = false → x.isZero = false → x.sign = true → fvSqrt x = (.nan false, fIV)) ∧
      (x = .inf false → fvSqrt x = (.inf false, 0)) ∧
      (∀ p d, x = .fin p 0 d → fvSqrt x = (.fin p 0 1, 0)) ∧
      (x.isNan → (fvSqrt x).1.isNan ∧ ((fvSqrt x).2 = fIV ↔ x.isSig)) ∧
      ((x.isZero ∧ y.isInf) ∨ (x.isInf ∧ y.isZero) → fvFma rm x y z = (.nan false, fIV)) ∧
      (¬ ((x.isZero ∧ y.isInf) ∨ (x.isInf ∧ y.isZero)) → (x.isNan ∨ y.isNan ∨ z.isNan) →
        (fvFma rm x y z).1.isNan ∧ ((fvFma rm x y z).2 = fIV ↔ x.isSig ∨ y.isSig ∨ z.isSig)) ∧
      (x.isNan = false → y.isNan = false → ∀ p, fvMul x y = (.inf p, 0) → z = .inf (!p) → fvFma rm x y z = (.nan false, fIV)) ∧
      (∀ p n d q m e, x = .fin p n d → y = .fin q m e → n * e = m * d →
        (p = q → n = 0 → m = 0 → ∃ k, fvAdd rm x y = (.fin p 0 k, 0)) ∧
        (p ≠ q → ∃ k, fvAdd rm x y = (.fin (rm == .rdn) 0 k, 0)))) ∧
    (∀ (fmt : Fmt) (ro : Round) (k : Nat) (p : Bool),
      (∀ sig, deliver fmt ro k (.nan sig) = (canonNaN fmt, 0)) ∧ deliver fmt ro k (.inf p) = (encInf fmt p, 0) ∧
        (∀ d, deliver fmt ro k (.fin p 0 d) = (encZero fmt p, 0)) ∧
        (∀ n d, n ≠ 0 → ro.ftz = true → ftzActs fmt = true → ilog n d < 1 - ((form fmt).bias : Int) →
          deliver fmt ro k (.fin p n d) = (encZero fmt p, fUF ||| fNX))) ∧
    (let turn (src dst : Fmt) (rm : Rm) (ftz : Bool) (bits : Nat) : Nat × Flags := toFloat dst rm ftz 0 (readF src ftz bits)
     turn .f32 .bf16 .rne false 0x3F808000 = (0x3F80, fNX) ∧ turn .f32 .bf16 .rna false 0x3F808000 = (0x3F81, fNX) ∧
        turn .f32 .bf16 .rne false 0x3F818000 = (0x3F82, fNX) ∧ turn .f32 .e4m3 .rtz false 0x43FA0000 = (0x7E, fOF ||| fNX) ∧
        turn .f32 .e4m3 .rne false 0xC3FA0000 = (0xFE, fOF ||| fNX) ∧ turn .f32 .e2m1 .rne false 0x3E99999A = (0x1, fUF ||| fNX) ∧
        turn .f32 .f16 .rne false 0x35800000 = (0x0010, 0) ∧ turn .f32 .f16 .rne true 0x35800000 = (0x0000, fUF ||| fNX) ∧
        turn .f32 .f16 .rne false 0x7F800001 = (0x7E00, fIV) ∧ turn .f32 .e4m3 .rne false 0x7F800000 = (0x7F, fIV) ∧
        toInteger .s8 .rtz 0 (readF .f32 false 0x43964000) = (127, fIV) ∧
        toInteger .s32 .rne 0 (readF .f32 false 0xC06CCCCD) = (-4, fNX) ∧
        toFloat .f32 .rne false 0 (fvOfInt 16777217) = (0x4B800000, fNX)))

/-- R168, R169, R170: a magnitude x that a format does not hold is rounded to the neighbour that the mode picks of a below and b above it, codes k and
k + 1 of the format, with NX, and UF where x is below the least normal; one that it holds stays as it is with no flag; beyond the largest finite
value the pick between that value and the next step decides on overflow, and what is at or above the next step overflows; under FTZ a tiny
magnitude becomes zero with UF and NX. -/
def Obligations.RoundingPicksTheNeighbour : Prop :=
  ∀ (fmt : Fmt) (rm : Rm) (rnd n d : Nat) (neg : Bool), n ≠ 0 → d ≠ 0 →
    let mag (k : Nat) : Rat := match decodeF fmt k with
      | .fin _ p q => (p : Rat) / q
      | _ => 0
    let x : Rat := (n : Rat) / d
    let top := maxFinite fmt false
    let next := 2 * mag top - mag (top - 1)
    let tiny := decide (x < mag (2 ^ (form fmt).p))
    let up (k : Nat) (a b : Rat) : Bool := match rm with
      | .rne => decide (a + b < 2 * x) || (decide (2 * x = a + b) && k % 2 == 1)
      | .rtz => false
      | .rdn => neg
      | .rup => !neg
      | .rna => decide (a + b ≤ 2 * x)
      | .sr => decide ((rnd : Rat) / 2 ^ 32 < (x - a) / (b - a))
    let res := roundTo fmt rm false rnd neg n d
    (∀ k, k ≤ top → mag k = x → res = (signBit fmt neg + k, 0)) ∧
    (∀ k, k < top → mag k < x → x < mag (k + 1) →
      res = (signBit fmt neg + (if up k (mag k) (mag (k + 1)) then k + 1 else k), fNX ||| flagIf tiny fUF)) ∧
    (mag top < x → res = if next ≤ x ∨ up top (mag top) next = true then overflow fmt rm neg else (maxFinite fmt neg, fNX)) ∧
    roundTo fmt rm true rnd neg n d = (if tiny && ftzActs fmt then (encZero fmt neg, fUF ||| fNX) else res) ∧
    overflow fmt rm neg = (if hasInf fmt = false ∨ rm = .rtz ∨ (rm = .rdn ∧ neg = false) ∨ (rm = .rup ∧ neg = true) then maxFinite fmt neg
      else encInf fmt neg, fOF ||| fNX)

/-- R195 to R198: FMIN, FMAX, FCMP, FCVT, FCLASS, FTOI and ITOF, when no flag they raise is enabled; with an enabled one
FP_EXCEPT (R173). ABS and NEG of a float clear or invert the sign bit, and set no flag.
R195, R196, R198: which operand FMIN and FMAX return, what each condition of FCMP says with its flag, and the class that FCLASS reports
by the sign, exponent and fraction of its operand. -/
def Obligations.FloatSelectCompareConvert : Prop :=
  (
    ∀ (w : OpFields) (s : State) (f : Firing) (t : Tag), f.Scalars → f.Clean → outTag w f (s.env f) = .ok t →
      let ftz := w.mod.getLsbD 3
      let ro := rounding w f (s.env f)
      let src := (Enc.Fmt.ofNat (w.imm.toNat % 32)).getD .f32
      let quiet (fl : Flags) : Prop := enabledBy (s.env f).fpen fl = false
      let mn := fMinMax w.fmt ftz false (f.lane w.fmt .a).toNat (f.lane w.fmt .b).toNat
      let mx := fMinMax w.fmt ftz true (f.lane w.fmt .a).toNat (f.lane w.fmt .b).toNat
      let cm := fvCompare w.var.toNat (f.fv w .a) (f.fv w .b)
      let cv := toFloat w.fmt ro.rm ftz (ro.rnd 0) (readF src ftz (f.num .a))
      let ti := toInteger w.fmt ro.rm (ro.rnd 0) (readF src ftz (f.num .a))
      let tf := toFloat w.fmt ro.rm false (ro.rnd 0) (fvOfInt (f.int src .a))
      let loud (i : Instr) (fl : Flags) : Prop := enabledBy (s.env f).fpen fl = true →
        Traps i s f { trapOf 0x0D (fpCode (fl &&& enabledFlags (s.env f).fpen)) with elem := 0, flags := fl }
      loud (.fmin w) mn.2 ∧ loud (.fmax w) mx.2 ∧ loud (.fcmp w) cm.2 ∧ loud (.fcvt w) cv.2 ∧ loud (.ftoi w) ti.2 ∧ loud (.itof w) tf.2 ∧
      (Enc.Fmt.isF w.fmt = true →
        let sign := BitVec.twoPow (width w.fmt) (width w.fmt - 1)
        Commits (.abs w) s f [f.scalarOut t ((f.lane w.fmt .a &&& ~~~ sign).zeroExtend 64)] 0 ∧
          Commits (.neg w) s f [f.scalarOut t ((f.lane w.fmt .a ^^^ sign).zeroExtend 64)] 0) ∧
      (quiet mn.2 → Commits (.fmin w) s f [f.scalarOut t (BitVec.ofNat 64 mn.1)] mn.2) ∧
      (quiet mx.2 → Commits (.fmax w) s f [f.scalarOut t (BitVec.ofNat 64 mx.1)] mx.2) ∧
      (quiet cm.2 → Commits (.fcmp w) s f [f.scalarOut t (if cm.1 then 1 else 0)] cm.2) ∧
      (quiet cv.2 → Commits (.fcvt w) s f [f.scalarOut t (BitVec.ofNat 64 cv.1)] cv.2) ∧
      Commits (.fclass w) s f [f.scalarOut t (BitVec.ofNat 64 (fclassBits w.fmt (f.num .a)))] 0 ∧
      (quiet ti.2 → Commits (.ftoi w) s f [f.scalarOut t (BitVec.ofInt 64 ti.1)] ti.2) ∧
      (quiet tf.2 → Commits (.itof w) s f [f.scalarOut t (BitVec.ofNat 64 tf.1)] tf.2)) ∧
  (
    (∀ (fmt : Fmt) (ftz : Bool) (a b : Nat), Enc.Fmt.isF fmt = true → a < 2 ^ width fmt → b < 2 ^ width fmt →
      let x := readF fmt ftz a
      let y := readF fmt ftz b
      let iv := flagIf (x.isSig || y.isSig) fIV
      let unordered := x.isNan || y.isNan
      let any := flagIf unordered fIV
      let back (v : FV) (z : Nat) : Nat := if ftz && isSubnormal fmt z then encZero fmt v.sign else z
      let pick (max : Bool) (z : Nat) : Prop := fMinMax fmt ftz max a b = (z, iv)
      (∀ max, (x.isNan = true → y.isNan = true → pick max (canonNaN fmt)) ∧
        (x.isNan = true → y.isNan = false → pick max (back y b)) ∧ (x.isNan = false → y.isNan = true → pick max (back x a))) ∧
      (unordered = false →
        (x.under y = true → pick false (back x a) ∧ pick true (back y b)) ∧
        (y.under x = true → pick false (back y b) ∧ pick true (back x a)) ∧
        (x.under y = false → y.under x = false → pick false (back x a) ∧ pick true (back x a))) ∧
      fvCompare 0 x y = (!unordered && !x.less y && !y.less x, iv) ∧ fvCompare 1 x y = (unordered || x.less y || y.less x, iv) ∧
      fvCompare 2 x y = (x.less y, any) ∧ fvCompare 3 x y = (!unordered && !y.less x, any) ∧
      fvCompare 4 x y = (y.less x, any) ∧ fvCompare 5 x y = (!unordered && !x.less y, any) ∧
      fvCompare 6 x y = (unordered, iv) ∧ fvCompare 7 x y = (!unordered, iv)) ∧
    ∀ q ∈ [(Fmt.f32, 23, 8), (.f16, 10, 5), (.bf16, 7, 8), (.e5m2, 2, 5), (.e4m3, 3, 4), (.e2m1, 1, 2)], ∀ (sign : Bool) (ex fr : Nat),
      ex < 2 ^ q.2.2 → fr < 2 ^ q.2.1 →
        let top := ex + 1 = 2 ^ q.2.2 ∧ q.1 ≠ .e4m3 ∧ q.1 ≠ .e2m1
        fclassBits q.1 ((if sign then 2 ^ (q.2.1 + q.2.2) else 0) + ex * 2 ^ q.2.1 + fr) = 2 ^ (
          if top then (if fr = 0 then (if sign then 0 else 7) else if 2 ^ (q.2.1 - 1) ≤ fr then 9 else 8)
          else if q.1 = .e4m3 ∧ ex = 15 ∧ fr = 7 then 9
          else if ex = 0 then (if fr = 0 then (if sign then 3 else 4) else if sign then 2 else 5)
          else if sign then 1 else 6))

/-- R179: with a poisoned token among its inputs a scalar arithmetic instruction commits all the same, with a poisoned result, no flag and no
INT_EXCEPT, FP_EXCEPT or BAD_OPERAND. The result is what its own rule makes of the operands, a poisoned one read as +0; only a float result that
is NaN or infinite is +0, and so is DIV or REM by a poisoned divisor. An invalid descriptor gives some result (log entry 69). -/
def Obligations.PoisonIsCarried : Prop :=
  ∀ (w : OpFields) (s : State) (f : Firing) (t : Tag), f.Scalars → f.poisoned = true → outTag w f (s.env f) = .ok t →
    let out (v : Word64) : List Out := [outD0 t (.scalar v true f.eos) none]
    let gives (i : Instr) (v : Word64) : Prop := Commits i s f (out v) 0
    let fits (fmt : Fmt) (x y : Int) : Prop := intLo fmt ≤ y ∧ y ≤ intHi fmt ∧ (intLo fmt ≤ x → x ≤ intHi fmt → y = x) ∧
      (w.mod.getLsbD 3 = true → (x < intLo fmt → y = intLo fmt) ∧ (intHi fmt < x → y = intHi fmt)) ∧
      (w.mod.getLsbD 3 = false → ((2 ^ width fmt : Nat) : Int) ∣ (x - y))
    let a := f.lane w.fmt .a
    let b := f.lane w.fmt .b
    let x := f.int w.fmt .a
    let y := f.int w.fmt .b
    let n := f.num .b % width w.fmt
    let bits (i : Instr) (v : BitVec (width w.fmt)) : Prop := gives i (extend w.fmt v)
    let half := halfOf w.fmt
    let finite (fmt : Fmt) (r : Nat) : Word64 := if special fmt r then 0 else BitVec.ofNat 64 r
    let ftz := w.mod.getLsbD 3
    let ro := rounding w f (s.env f)
    let src := (Enc.Fmt.ofNat (w.imm.toNat % 32)).getD .f32
    (∀ i v u, exactInt f i = some (w, v) → fits w.fmt v u → gives i (BitVec.ofInt 64 u)) ∧
    (y ≠ 0 → ∀ u, fits w.fmt (x.tdiv y) u → gives (.div w) (BitVec.ofInt 64 u)) ∧
    (y ≠ 0 → gives (.rem w) (BitVec.ofInt 64 (x.tmod y))) ∧
    (f.isPoisoned .b = true → gives (.div w) 0 ∧ gives (.rem w) 0) ∧
    (y = 0 → f.isPoisoned .b = false →
      gives (.div w) (if Enc.Fmt.signed w.fmt then BitVec.ofInt 64 (-1) else BitVec.ofInt 64 ((2 ^ width w.fmt : Nat) - 1)) ∧
        gives (.rem w) (BitVec.ofInt 64 x)) ∧
    bits (.mulh w) (BitVec.ofInt (width w.fmt) ((x * y) / (2 ^ width w.fmt : Nat))) ∧
    bits (.and w) (a &&& b) ∧ bits (.or w) (a ||| b) ∧ bits (.xor w) (a ^^^ b) ∧ bits (.andn w) (a &&& ~~~b) ∧
    bits (.shl w) (a <<< n) ∧ bits (.shr w) (a >>> n) ∧ bits (.sra w) (a.sshiftRight n) ∧ bits (.rotl w) (a.rotateLeft n) ∧
    gives (.min w) (BitVec.ofInt 64 (min x y)) ∧ gives (.max w) (BitVec.ofInt 64 (max x y)) ∧
    gives (.clz w) (BitVec.ofNat 64 (clzBits (width w.fmt) a.toNat)) ∧
    gives (.popc w) (BitVec.ofNat 64 ((List.range (width w.fmt)).countP a.getLsbD)) ∧
    (w.var.toNat < 8 → gives (.cmp w) (if (match w.var.toNat with
      | 0 => decide (x = y) | 1 => decide (x ≠ y) | 2 => decide (x < y) | 3 => decide (x ≤ y)
      | 4 => decide (x > y) | 5 => decide (x ≥ y) | 6 => (a &&& b) != 0 | _ => (a &&& b) == 0) then 1 else 0)) ∧
    (∃ v, gives (.bext w) v) ∧ (∃ v, gives (.bins w) v) ∧
    (fieldOk (width w.fmt) (BitVec.ofNat 64 (f.num .b)) = true →
      gives (.bext w) (BitVec.ofInt 64 (bextBits w.fmt a.toNat (f.num .b % 64) (f.num .b / 256 % 128)))) ∧
    (fieldOk (width w.fmt) (BitVec.ofNat 64 (f.num .c)) = true →
      gives (.bins w) (BitVec.ofInt 64
        (readInt w.fmt (binsBits a.toNat b.toNat (f.num .c % 64) (f.num .c / 256 % 128))))) ∧
    gives (.addrc w) ((BitVec.ofInt 54 ((f.num .a : Int) + y * (2 ^ (w.imm.toNat % 8) : Nat))).zeroExtend 64) ∧
    (w.fmt = .z64 → gives (.mix w) (mix64 (BitVec.ofNat 64 (f.num .a) ^^^ mix64 (BitVec.ofNat 64 (f.num .b))))) ∧
    (w.fmt = .z32 → gives (.mix w) ((((mix64 (((BitVec.ofNat 32 (f.num .a)).zeroExtend 64) ^^^
      mix64 ((BitVec.ofNat 32 (f.num .b)).zeroExtend 64))).extractLsb' 0 32).zeroExtend 64))) ∧
    (width w.fmt = 2 * width half → ∀ u v, fits half x u → fits half y v → bits (.pack w)
      (((BitVec.ofInt (width w.fmt) u) <<< width half) ||| ((BitVec.ofInt (width half) v).zeroExtend (width w.fmt)))) ∧
    Commits (.unpk w) s f
      [outD0 t (.scalar (extend half (a.extractLsb' (width half) (width half))) true f.eos) none,
       outD1 t (.scalar (extend half (a.extractLsb' 0 (width half))) true f.eos) none] 0 ∧
    (∀ i v fl, exactFloat f i = some (w, v, fl) → gives i (finite w.fmt (deliver w.fmt ro 0 v).1)) ∧
    (let sign := BitVec.twoPow (width w.fmt) (width w.fmt - 1)
     Enc.Fmt.isF w.fmt = true → gives (.abs w) ((a &&& ~~~ sign).zeroExtend 64) ∧ gives (.neg w) ((a ^^^ sign).zeroExtend 64)) ∧
    gives (.fmin w) (finite w.fmt (fMinMax w.fmt ftz false a.toNat b.toNat).1) ∧
    gives (.fmax w) (finite w.fmt (fMinMax w.fmt ftz true a.toNat b.toNat).1) ∧
    gives (.fcmp w) (if (fvCompare w.var.toNat (f.fv w .a) (f.fv w .b)).1 then 1 else 0) ∧
    gives (.fcvt w) (finite w.fmt (toFloat w.fmt ro.rm ftz (ro.rnd 0) (readF src ftz (f.num .a))).1) ∧
    gives (.fclass w) (BitVec.ofNat 64 (fclassBits w.fmt (f.num .a))) ∧
    gives (.ftoi w) (BitVec.ofInt 64 (toInteger w.fmt ro.rm (ro.rnd 0) (readF src ftz (f.num .a))).1) ∧
    gives (.itof w) (finite w.fmt (toFloat w.fmt ro.rm false (ro.rnd 0) (fvOfInt (f.int src .a))).1)

/-! ### Plumbing and tag instructions -/

/-- R122 to R130: what each plumbing instruction passes on, to which side, with which EOS, and which dropped poison sets PZ;
for scalar and tile data ports alike. -/
def Obligations.PlumbingPassesOn : Prop :=
  ∀ (w : OpFields) (s : State) (f : Firing) (t : Tag), outTag w f (s.env f) = .ok t →
    let d := w.fmt == .handle
    let pz (ps : List Port) : Flags := if f.ops.any (fun o => ps.contains o.port && !o.lit && o.val.poisoned) then fPZ else 0
    (f.Kinds d false false → w.ta ≠ .setin → Commits (.pass w) s f [f.passed .a false t] 0) ∧
    (f.Kinds d false false → w.ta = .setin → Commits (.pass w) s f [f.copyOut .a false t (f.val .a).eos] 0) ∧
    (f.Kinds d d d → Commits (.sync w) s f [f.passed .a false t] (pz [.b, .c])) ∧
    (f.Kinds d false false → f.isPoisoned .b = false → (f.val .b).word ≠ 0 →
      Commits (.switch w) s f [f.passed .a false t] 0) ∧
    (f.Kinds d false false → f.isPoisoned .b = false → (f.val .b).word = 0 →
      Commits (.switch w) s f [f.passed .a true t] 0) ∧
    (f.Kinds d false false → f.isPoisoned .b = true → Traps (.switch w) s f (tPOISON 2)) ∧
    (f.Kinds false d d → f.isPoisoned .a = false → (f.val .a).word ≠ 0 →
      Commits (.sel w) s f [f.passed .b false t] (pz [.c])) ∧
    (f.Kinds false d d → f.isPoisoned .a = false → (f.val .a).word = 0 →
      Commits (.sel w) s f [f.passed .c false t] (pz [.b])) ∧
    (f.Kinds false d d → f.isPoisoned .a = true → Traps (.sel w) s f (tPOISON 2)) ∧
    ((∀ o ∈ f.ops, o.port ≠ .a → o.val.isTile = false) → f.ops.Pairwise (fun x y => x.port ≠ y.port) →
      Commits (.const w) s f [f.passed .b false t] (pz [.a])) ∧
    (f.Kinds d d d → Commits (.sink w) s f [] (pz [.a, .b, .c])) ∧
    (f.Kinds d false false → Commits (.ends w) s f [f.copyOut .a false t (!w.mod.getLsbD 0)] 0) ∧
    (f.Kinds d false false →
      Commits (.iseos w) s f [f.copyOut .a (!(f.val .a).eos) t (f.val .a).eos] 0) ∧
    (f.Kinds d false false →
      Commits (.count w) s f [outD0 t (.scalar (w.imm.zeroExtend 64) f.poisoned f.eos) none] 0)

/-- R45: what each tag action makes of a tag that meets R44, and the TAG_OVERFLOW code of the ones that would break it. R134, R135, R142: GETCOL
emits colour of the input tag, SETTAG replaces all of the tag but GEN and FRAME, and FRAMEID emits the frame word. -/
def Obligations.TagActionsAndWords : Prop :=
  (
    ∀ (t : Tag) (w : Nat) (b : Option Val) (ret : Tag), tagOk t = true → 1 ≤ w → w ≤ 8 →
      let ends (a : TagAct) (d f c : Nat) : Prop := ∃ u, tagAct a w t b ret = .ok u ∧ tagGen u = tagGen t ∧ tagFrame u = tagFrame t ∧
        tagDepth u = d ∧ tagFill u = f ∧ (tagColour u).toNat = c ∧ tagOk u = true
      let fails (a : TagAct) (e : Trap) : Prop := tagAct a w t b ret = .error e
      let d := tagDepth t
      let f := tagFill t
      let c := (tagColour t).toNat
      let under : Prop := d = 0 ∨ f < w ∨ (d = 1 ∧ f ≠ w) ∨ (1 < d ∧ f - w < d - 1)
      tagAct .keep w t b ret = .ok t ∧ tagAct .ret w t b ret = .ok ret ∧
      (d = 7 → fails .push (tTAG_OVERFLOW 1)) ∧ (d ≠ 7 → 39 < f + w → fails .push (tTAG_OVERFLOW 2)) ∧
      (d ≠ 7 → f + w ≤ 39 → ends .push (d + 1) (f + w) (c * 2 ^ w)) ∧
      (under → fails .pop (tTAG_OVERFLOW 3)) ∧ (¬ under → ends .pop (d - 1) (f - w) (c / 2 ^ w)) ∧
      (d = 0 ∨ f < w → fails .next (tTAG_OVERFLOW 3) ∧ fails .setin (tTAG_OVERFLOW 3)) ∧
      (d ≠ 0 → w ≤ f → ends .next d f (c - c % 2 ^ w + (c % 2 ^ w + 1) % 2 ^ w) ∧
        (∀ v e, b = some (.scalar v false e) → ends .setin d f (c - c % 2 ^ w + v.toNat % 2 ^ w)) ∧
        (∀ v e, b = some (.scalar v true e) → fails .setin (tPOISON 2)))) ∧
  (
    ∀ (w : OpFields) (s : State) (f : Firing) (t : Tag),
      let pz : Flags := if f.ops.any (fun o => [Port.a].contains o.port && !o.lit && o.val.poisoned) then fPZ else 0
      let cut (v : Word64) : Word64 := if w.fmt == .z32 then (v.extractLsb' 0 32).zeroExtend 64 else v
      let n := w.imm.toNat % 16
      let b := (f.val .b).word
      let t2 : Tag := f.tag.extractLsb' 48 16 ++ b.extractLsb' 0 48
      let word : Word64 := 0#44 ++ BitVec.ofNat 4 (s.env f).frame.depth ++ tagGen f.tag ++ BitVec.ofNat 12 (tagFrame f.tag)
      (f.Scalars → outTag w f (s.env f) = .ok t → w.mod.getLsbD 0 = true →
        Commits (.getcol w) s f [f.scalarOut t (cut ((f.tag.extractLsb' 0 39).zeroExtend 64))] pz) ∧
      (f.Scalars → outTag w f (s.env f) = .ok t → w.mod.getLsbD 0 = false → tagDepth f.tag ≠ 0 → n ≤ tagFill f.tag →
        Commits (.getcol w) s f
          [f.scalarOut t (cut (BitVec.ofNat 64 ((f.tag.extractLsb' 0 39).toNat % 2 ^ n)))] pz) ∧
      (f.Scalars → outTag w f (s.env f) = .ok t → w.mod.getLsbD 0 = false → (tagDepth f.tag = 0 ∨ tagFill f.tag < n) →
        Traps (.getcol w) s f { tTAG_OVERFLOW 3 with flags := pz }) ∧
      (f.Kinds (w.fmt == .handle) false false → f.isPoisoned .b = false → b.extractLsb' 48 16 = 0 → tagOk t2 = true →
        Commits (.settag w) s f [f.passed .a false t2] 0) ∧
      (f.Kinds (w.fmt == .handle) false false → f.isPoisoned .b = false → b.extractLsb' 48 16 ≠ 0 →
        Traps (.settag w) s f tBAD_OPERAND) ∧
      (f.Kinds (w.fmt == .handle) false false → f.isPoisoned .b = false → b.extractLsb' 48 16 = 0 → tagOk t2 = false →
        Traps (.settag w) s f (tTAG_OVERFLOW 4)) ∧
      (f.Scalars → outTag w f (s.env f) = .ok t → Commits (.frameid w) s f [f.scalarOut t (cut word)] pz))

/-! ### Tile instructions -/

/-- R200 to R206, R208 to R210, R212 to R215, R222 to R224, R227: every instruction that makes one tile element by element commits
with that tile, its flags the OR of the elements' unless one of them is enabled (R173: then FP_EXCEPT names the lowest such
element); and BAD_OPERAND meets operands that break R200. A trap is taken once the tile's lines are reserved (R84, R90), and a firing whose
tiles no cell could hold together raises BAD_OPERAND (R87). -/
def Obligations.TileElementwise : Prop :=
  ∀ (i : Instr) (s : State) (f : Firing) (t : Tag) (q : TileSpec),
    tileSpec f (s.env f) i = some q → f.Kinds q.tileA q.tileB q.tileC → outTag q.w f (s.env f) = .ok t →
      let r := tileApply q.fmt q.rows q.cols q.valid q.poison q.elem
      let need := [tileLines q.fmt q.rows q.cols]
      (q.ok = true → Enc.shapeOk q.fmt q.rows q.cols = true →
        (q.fp = true → firstElem (enabledFlags (s.env f).fpen) r.2 = none) →
          Commits i s f [f.tileOut t false q.fmt q.rows q.cols q.valid q.poison r.1] (orAll r.2)) ∧
      (q.ok = true → Enc.shapeOk q.fmt q.rows q.cols = true → q.fp = true →
        ∀ k, firstElem (enabledFlags (s.env f).fpen) r.2 = some k →
          TrapsWith i s f need { trapOf 0x0D (fpCode (orAll r.2 &&& enabledFlags (s.env f).fpen)) with elem := k, flags := orAll r.2 }) ∧
      (q.ok = false ∨ Enc.shapeOk q.fmt q.rows q.cols = false → TrapsWith i s f need tBAD_OPERAND) ∧
      (2048 < needLines f need → Traps i s f tBAD_OPERAND)

/-- R202: in the tile that tile_apply makes, each element of a row below VALID is the operator's, made finite in a poisoned row,
and each element of a row at VALID or above is zero.
The elements that TileElementwise names by the model's functions. R205, R206: the operations of the table, rounded or fitted; R176, R223: the tree of the
sums, its nodes and its random bits, an element that meets no addition, and an exact integer sum; R224, R225: which element is greatest or least, and the two rank orders;
R227: the rows of NORMK; R207 to R210: the special cases of the published functions, TE and TR as the nearest f32, and the worked values. -/
def Obligations.TileElementValues : Prop :=
  (
    ∀ (fmt : Fmt) (rows cols valid : Nat) (poison : BitVec 8) (elem : Nat → Nat → Nat × Flags) (h : Handle) (i j : Nat),
      isMX fmt = false → Enc.shapeOk fmt rows cols = true → h.fmt = fmt → h.rows = rows → h.cols = cols →
        (∀ r c, (elem r c).1 < 2 ^ width fmt) → i < rows → j < cols →
          elemAt h (tileApply fmt rows cols valid poison elem).1 i j =
            if i < valid then
              (if poison.getLsbD (group rows i) && isFloat fmt && special fmt (elem i j).1 then 0 else (elem i j).1)
            else 0) ∧
  (
    (∀ (w : OpFields) (ro : Round) (i a b : Nat),
      let rounded (v : FV × Flags) : Nat × Flags := ((deliver w.fmt ro i v.1).1, v.2 ||| (deliver w.fmt ro i v.1).2)
      (Enc.Fmt.isF w.fmt = true →
        let x := readF w.fmt ro.ftz a
        let y := readF w.fmt ro.ftz b
        elemOp w ro 0 i a b = rounded (fvAdd ro.rm x y) ∧ elemOp w ro 1 i a b = rounded (fvAdd ro.rm x y.negate) ∧
        elemOp w ro 2 i a b = rounded (fvAdd ro.rm y x.negate) ∧ elemOp w ro 3 i a b = rounded (fvMul x y) ∧
        elemOp w ro 4 i a b = rounded (fvDiv x y) ∧ elemOp w ro 5 i a b = rounded (fvDiv y x) ∧
        elemOp w ro 6 i a b = fMinMax w.fmt ro.ftz false a b ∧ elemOp w ro 7 i a b = fMinMax w.fmt ro.ftz true a b ∧
        (∀ v, elemFloat w ro i v = rounded v)) ∧
      (Enc.Fmt.isInt w.fmt = true → ro.ftz = w.mod.getLsbD 3 →
        let x := readInt w.fmt a
        let y := readInt w.fmt b
        let fits := fitted w.fmt ro.ftz
        elemOp w ro 0 i a b = fits (x + y) ∧ elemOp w ro 1 i a b = fits (x - y) ∧ elemOp w ro 2 i a b = fits (y - x) ∧
        elemOp w ro 3 i a b = fits (x * y) ∧ (∀ z, elemInt w z = fits z) ∧
        elemOp w ro 6 i a b = fits (min x y) ∧ elemOp w ro 7 i a b = fits (max x y))) ∧
    (∀ (w : OpFields) (ro : Round) (wide : Bool) (i : Nat) (v : List Nat), v ≠ [] →
      let fmt := if wide then Fmt.f32 else w.fmt
      let up (x : Nat) : Nat × Flags := if wide then toFloat .f32 .rne false 0 (readF w.fmt false x) else (x, 0)
      let vs := v.map fun x => (up x).1
      let raised : Flags := (v.map fun x => (up x).2).foldl (· ||| ·) 0
      let add (l p a b : Nat) : Nat × Flags :=
        let z := fvAdd ro.rm (readF fmt ro.ftz a) (readF fmt ro.ftz b)
        let r := deliver fmt { ro with rnd := fun _ => ro.rnd (i * 2 ^ 24 + l * 2 ^ 16 + p) } 0 z.1
        (r.1, z.2 ||| r.2)
      (Enc.Fmt.isInt w.fmt = true → sumOf w ro wide i v = fitted w.fmt (w.mod.getLsbD 3) (v.map (readInt w.fmt)).sum) ∧
      (Enc.Fmt.isF w.fmt = true → 2 ≤ v.length → ∀ depth, treeWidth v.length depth = 1 →
        sumOf w ro wide i v = ((treeNode add vs depth 0).1, raised ||| (treeNode add vs depth 0).2)) ∧
      (∀ x, Enc.Fmt.isF w.fmt = true → v = [x] →
        let z := readF fmt ro.ftz (up x).1
        sumOf w ro wide i v = if z.isNan then (canonNaN fmt, raised ||| flagIf z.isSig fIV)
          else (if ro.ftz && isSubnormal fmt (up x).1 then encZero fmt z.sign else (up x).1, raised))) ∧
    (∀ (w : OpFields) (max : Bool) (v : List Nat) (j : Nat), j < v.length →
      let val (k : Nat) : FV := readF w.fmt (w.mod.getLsbD 3) (v.getD k 0)
      let int (k : Nat) : Int := readInt w.fmt (v.getD k 0)
      let beats (a b : FV) : Bool := if max then b.under a else a.under b
      let above (a b : Int) : Bool := if max then decide (b < a) else decide (a < b)
      let rank (a b : FV) : Bool := if a.isNan || b.isNan then !a.isNan && b.isNan else beats a b
      let plain (k : Nat) : FV := decodeF w.fmt (v.getD k 0)
      (Enc.Fmt.isF w.fmt = true → (∀ x ∈ v, x < 2 ^ width w.fmt) →
        (extreme w max v).2 = flagIf ((List.range v.length).any fun k => (val k).isSig) fIV ∧
        ((∀ k < v.length, (val k).isNan = true) → (extreme w max v).1 = canonNaN w.fmt) ∧
        ((val j).isNan = false → (∀ k < v.length, beats (val k) (val j) = false) →
          (∀ k < j, (val k).isNan = true ∨ beats (val j) (val k) = true) →
            (extreme w max v).1 = if w.mod.getLsbD 3 && isSubnormal w.fmt (v.getD j 0) then encZero w.fmt (val j).sign else v.getD j 0) ∧
        ((∀ k < v.length, rank (plain k) (plain j) = false) → (∀ k < j, rank (plain j) (plain k) = true) → argBest max w.fmt v = j)) ∧
      (Enc.Fmt.isInt w.fmt = true → (∀ k < v.length, above (int k) (int j) = false) → (∀ k < j, above (int j) (int k) = true) →
        extreme w max v = (v.getD j 0, 0) ∧ argBest max w.fmt v = j)) ∧
    (∀ (top : Bool) (fmt : Fmt) (a b : Nat), Enc.Fmt.isF fmt = true →
      let x := decodeF fmt a
      let y := decodeF fmt b
      (x.isNan = false → y.isNan = false → (rankOf top fmt a < rankOf top fmt b ↔ x.under y = true)) ∧
      (x.isNan = true → y.isNan = true → rankOf top fmt a = rankOf top fmt b) ∧
      (x.isNan = true → y.isNan = false → (rankOf top fmt a < rankOf top fmt b ↔ top = true) ∧ rankOf top fmt a ≠ rankOf top fmt b)) ∧
    (∀ (w : OpFields) (ro : Round) (i j : Nat) (v : List Nat), Enc.Fmt.isF w.fmt = true → j < v.length →
      let s := readF .f32 false (treeSum .f32 .rne false (fun _ _ => 0) (v.map fun x => (toFloat .f32 .rne false 0 (readF w.fmt false x)).1)).1
      let even := roundTo w.fmt ro.rm ro.ftz (ro.rnd (i + j)) false 1 v.length
      let q := fvDiv (readF w.fmt ro.ftz (v.getD j 0)) s
      let r := deliver w.fmt ro (i + j) q.1
      let tiny := s.isNan = false ∧ s.isInf = false ∧ |s.rat| < 1 / 2 ^ 126
      (normkRow w ro i v).getD j (0, 0) =
        if s.isNan ∨ s.isInf then (even.1, fIV ||| (even.2 &&& fNX)) else if tiny then (even.1, fUF ||| (even.2 &&& fNX))
        else (r.1, q.2 ||| r.2)) ∧
    (∀ s : Bool, fvRsqrt (.nan s) = (.nan false, flagIf s fIV) ∧ fvRsqrt (.inf false) = (.fin false 0 1, 0) ∧ fvRsqrt (.inf true) = (.nan false, fIV) ∧
      (∀ d, fvRsqrt (.fin s 0 d) = (.inf s, fDZ)) ∧ (∀ n d, n ≠ 0 → fvRsqrt (.fin true n d) = (.nan false, fIV)) ∧
      (∀ n d : Nat, n ≠ 0 → d ≠ 0 → (fvRsqrt (.fin false (n ^ 2) (d ^ 2))).2 = 0 ∧ (fvRsqrt (.fin false (n ^ 2) (d ^ 2))).1.rat = (d : Rat) / n)) ∧
    (∀ (fmt : Fmt) (ro : Round) (i : Nat) (s : Bool),
      vexp2 fmt ro i (.nan s) = (canonNaN fmt, flagIf s fIV) ∧ vexp2 fmt ro i (.inf s) = (if s then encZero fmt false else encInf fmt false, 0) ∧
      vlog2 fmt ro i (.nan s) = (canonNaN fmt, flagIf s fIV) ∧
      vlog2 fmt ro i (.inf s) = (if s then (canonNaN fmt, fIV) else (encInf fmt false, 0)) ∧
      vtanh fmt ro i (.nan s) = (canonNaN fmt, flagIf s fIV) ∧ vtanh fmt ro i (.inf s) = ((roundTo fmt .rne false 0 s 1 1).1, 0) ∧
      (∀ n d, d ≠ 0 → 128 * d ≤ n → vexp2 fmt ro i (.fin false n d) = overflow fmt ro.rm false) ∧
      (∀ n d, d ≠ 0 → 256 * d < n → vexp2 fmt ro i (.fin true n d) = vexp2 fmt ro i (.fin true 256 1)) ∧
      (∀ d, vlog2 fmt ro i (.fin s 0 d) = (encInf fmt true, fDZ) ∧ vtanh fmt ro i (.fin s 0 d) = (encZero fmt s, 0)) ∧
      (∀ n d, n ≠ 0 → vlog2 fmt ro i (.fin true n d) = (canonNaN fmt, fIV)) ∧
      (∀ n d, d ≠ 0 → 16 * d ≤ n →
        vtanh fmt ro i (.fin s n d) = ((deliver fmt ro i (.fin s (2 ^ 40 - 1) (2 ^ 40))).1, (deliver fmt ro i (.fin s (2 ^ 40 - 1) (2 ^ 40))).2 ||| fNX))) ∧
    (∀ j < 64, ∃ f < 2 ^ 23, tabTE.getD j 0 = 0x3F800000 + f ∧
      (2 * (2 ^ 23 + f) - 1) ^ 64 < 2 ^ (j + 24 * 64) ∧ 2 ^ (j + 24 * 64) < (2 * (2 ^ 23 + f) + 1) ^ 64) ∧
    (∀ j < 64, j ≠ 0 → ∃ f < 2 ^ 23, tabTR.getD j 0 = 0x3F000000 + f ∧
      (2 * (2 ^ 23 + f) - 1) * (64 + j) < 2 ^ 31 ∧ 2 ^ 31 < (2 * (2 ^ 23 + f) + 1) * (64 + j)) ∧
    (let ro (rm : Rm) : Round := { rm := rm, ftz := false, rnd := fun _ => 0 }
     let at' (f : Fmt → Round → Nat → FV → Nat × Flags) (fmt : Fmt) (rm : Rm) (x : Nat) : Nat × Flags := f fmt (ro rm) 0 (readF fmt false x)
     tabTR.getD 0 0 = 0x3F800000 ∧ tabTL.getD 0 1 = 0 ∧ tabTL.getD 32 0 = 0x3F15C01A ∧
       at' vexp2 .f32 .rne 0x3F000000 = (0x3FB504F3, fNX) ∧ at' vexp2 .f16 .rne 0x3800 = (0x3DA8, fNX) ∧
       at' vexp2 .f32 .rne 0xC0400000 = (0x3E000000, 0) ∧ at' vlog2 .f32 .rne 0x40400000 = (0x3FCAE00D, fNX) ∧
       at' vlog2 .f32 .rne 0x80000000 = (0xFF800000, fDZ) ∧ at' vtanh .bf16 .rne 0x7F80 = (0x3F80, 0) ∧
       at' vtanh .f32 .rtz 0x42000000 = (0x3F7FFFFF, fNX) ∧
       treeSum .f16 .rne false (fun _ _ => 0) [0x6800, 0x3C00, 0x3C00, 0x3C00, 0x3C00, 0x3C00, 0x3C00] = (0x6802, fNX) ∧
       ∀ w : OpFields, w.fmt = .f32 → normkRow w (ro .rne) 0 [0x40400000, 0x40400000] = [(0x3F000000, 0), (0x3F000000, 0)] ∧
         normkRow w (ro .rne) 0 [0, 0x80000000] = [(0x3F000000, fUF), (0x3F000000, fUF)]))

/-- R211, R216, R217: VCVT converts every element, or every block of an MX result; VTRAN transposes; VSLIC cuts a window out. By R202 an element
of a poisoned row is read as +0, and one that comes into a poisoned row of the result is made finite (log entry 20). -/
def Obligations.TileReshape : Prop :=
  ∀ (w : OpFields) (s : State) (f : Firing) (t : Tag), f.Kinds true false false → outTag w f (s.env f) = .ok t →
    let a := f.handle .a
    let data := (f.tile .a).2
    let src := (Enc.Fmt.ofNat (w.imm.toNat % 32)).getD .f32
    let ro := { rounding w f (s.env f) with ftz := w.mod.getLsbD 3 && !cvtInt w }
    let c := tileApply w.fmt a.rows a.cols a.valid a.poison fun i j =>
      if isMX src then cvtValue w ro (i * a.cols + j) (valueIn a ro.ftz data i j)
      else cvtElem w ro (i * a.cols + j) (elemIn a data i j)
    let m := mxConverted w ro a data
    let toInt := Enc.Fmt.isInt w.fmt || w.fmt == .s4
    let quiet (fl : ElemFlags) : Prop :=
      (cvtInt w && toInt) = true ∨ firstElem (enabledFlags (s.env f).fpen) fl = none
    let d := (f.word' .b).toNat % 2 ^ 32
    let row0 := d % 64
    let col0 := d / 2 ^ 6 % 512
    let nr := d / 2 ^ 15 % 64 + 1
    let nc := d / 2 ^ 21 % 512 + 1
    (a.fmt = src → isMX w.fmt = false → Enc.shapeOk w.fmt a.rows a.cols = true → quiet c.2 →
      Commits (.vcvt w) s f [f.tileOut t false w.fmt a.rows a.cols a.valid a.poison c.1] (orAll c.2)) ∧
    (a.fmt = src → isMX w.fmt = true → Enc.shapeOk w.fmt a.rows a.cols = true → quiet (gridFlags (m.map Prod.snd)) →
      Commits (.vcvt w) s f [f.tileOut t false w.fmt a.rows a.cols a.valid a.poison
        (m.flatMap fun r => packRow w.fmt (r.2.map Prod.fst) r.1)] (orAll (gridFlags (m.map Prod.snd)))) ∧
    (a.fmt = w.fmt → a.cols ≤ 64 → Enc.shapeOk w.fmt a.cols a.rows = true →
      Commits (.vtran w) s f [f.tileOut t false w.fmt a.cols a.rows a.cols (if a.poison != 0 then poisonAll a.cols else 0)
        (tileApply w.fmt a.cols a.rows a.cols (if a.poison != 0 then poisonAll a.cols else 0) fun i j =>
          (cellOf (f.grid .a) j i, 0)).1] 0) ∧
    (a.fmt = w.fmt → d < 2 ^ 30 → row0 + nr ≤ a.rows → col0 + nc ≤ a.cols → col0 % windowStep w.fmt = 0 →
      nc % windowStep w.fmt = 0 → Enc.shapeOk w.fmt nr nc = true → f.isPoisoned .b = false →
        let bad := poisonRows nr fun i => rowPoisoned a (row0 + i)
        let row (i : Nat) : List Byte :=
          if rowPoisoned a (row0 + i) then zeros a.rowLen
          else if bad.getLsbD (group nr i) then quietRow a.fmt a.cols (rowAt a data (row0 + i)) else readRow a.fmt (rowAt a data (row0 + i))
        Commits (.vslic w) s f [f.tileOut t false w.fmt nr nc (min nr (a.valid - row0)) bad
          ((List.range nr).flatMap fun i =>
            if i < min nr (a.valid - row0) then
              packRow w.fmt ((List.range nc).map fun j => elemBits w.fmt (row i) (col0 + j))
                (if isMX w.fmt then (List.range (nc / 32)).map fun j => scaleByte w.fmt a.cols (row i) (col0 / 32 + j) else [])
            else zeros (rowLen w.fmt nc))] 0)

/-- R226, R228, R229, R231: TOPK and SORT rank each row and give elements and columns, to the sides that have a destination; PARTN
divides elements at a pivot; ORDMRG joins two tiles' rows in SEQ order, those of a poisoned group by R202 (log entry 30).
R230: STEER sends, for each bucket v, the rows of that bucket and their indices, under the input tag with its low w colour bits
replaced by v, to the sides that have a destination; rows of a poisoned group by R202 (log entry 30). -/
def Obligations.RankPartitionMergeSteer : Prop :=
  (
    ∀ (w : OpFields) (s : State) (f : Firing) (t : Tag), outTag w f (s.env f) = .ok t →
      let a := f.handle .a
      let b := f.handle .b
      let g := f.grid .a
      let ranked (desc : Bool) (k : Nat) : List (List (Nat × Nat)) := (List.range a.rows).map fun i =>
        if i < a.valid then (rankRow desc w.fmt (g.getD i [])).take k else List.replicate k (0, 0)
      let sides (k : Nat) (rows : List (List (Nat × Nat))) : List Out :=
        (if f.outs0.isEmpty then [] else [f.tileOut t false w.fmt a.rows k a.valid a.poison
          (rows.flatMap fun r => packElems w.fmt (r.map Prod.fst))]) ++
        (if f.outs1.isEmpty then [] else [f.tileOut t true .z32 a.rows k a.valid a.poison
          (rows.flatMap fun r => packElems .z32 (r.map Prod.snd))])
      let n := if w.var == 1 then a.seq.toNat else a.valid * a.cols
      let piv := rankOf false w.fmt (f.bits w.fmt .b)
      let xs := (g.flatten).take n
      let part (ys : List Nat) : Val := partnTile w f ys
      let first := if b.seq.toNat < a.seq.toNat then f.tile .b else f.tile .a
      let second := if b.seq.toNat < a.seq.toNat then f.tile .a else f.tile .b
      let total := first.1.valid + second.1.valid
      let rowOf (j : Nat) : Handle × List Byte × Nat :=
        if j < first.1.valid then (first.1, first.2, j) else (second.1, second.2, j - first.1.valid)
      (f.Kinds true false false → a.fmt = w.fmt → w.imm.toNat % 1024 + 1 ≤ a.cols →
        (f.outs1 = [] ∨ Enc.shapeOk .z32 a.rows (w.imm.toNat % 1024 + 1) = true) →
          Commits (.topk w) s f (sides (w.imm.toNat % 1024 + 1) (ranked true (w.imm.toNat % 1024 + 1))) 0) ∧
      (f.Kinds true false false → a.fmt = w.fmt → (f.outs1 = [] ∨ Enc.shapeOk .z32 a.rows a.cols = true) →
        Commits (.sort w) s f (sides a.cols (ranked false a.cols)) 0) ∧
      (f.Kinds true false false → a.fmt = w.fmt → n ≤ a.valid * a.cols → f.isPoisoned .b = false →
        Commits (.partn w) s f
          ((if f.outs0.isEmpty then [] else [outD0 t (part (xs.filter fun x => decide (rankOf false w.fmt x < piv))) none]) ++
            (if f.outs1.isEmpty then [] else
              [outD1 t (part (xs.filter fun x => !decide (rankOf false w.fmt x < piv))) none])) 0) ∧
      (f.Kinds true true false → a.fmt = w.fmt → b.fmt = w.fmt → a.cols = b.cols → total ≤ 64 →
        Enc.shapeOk w.fmt (max total 1) a.cols = true →
          let bad := poisonOf (max total 1) ((List.range total).filter fun j => rowPoisoned (rowOf j).1 (rowOf j).2.2)
          Commits (.ordmrg w) s f [outD0 t ((tileRes f w.fmt (max total 1) a.cols total bad
            (fitBytes (max total 1 * a.rowLen) ((List.range total).flatMap fun j =>
              rowMoved (rowOf j).1 (rowOf j).2.1 (rowOf j).2.2 (bad.getLsbD (group (max total 1) j))))).withSeq first.1.seq) none] 0)) ∧
  (
    ∀ (w : OpFields) (s : State) (f : Firing),
      let a := f.handle .a
      let b := f.handle .b
      let k := w.imm.toNat % 16
      let bucket (i : Nat) : Nat := cellOf (f.grid .b) i 0
      let rs (v : Nat) : List Nat := (List.range a.valid).filter fun i => bucket i == v
      let n (v : Nat) : Nat := max (rs v).length 1
      let p (v : Nat) : BitVec 8 :=
        poisonOf (n v) ((List.range (rs v).length).filter fun j => rowPoisoned a ((rs v).getD j 0))
      f.Kinds true true false → a.fmt = w.fmt → b.fmt = .z32 → b.rows = a.rows → b.cols = 1 → a.valid ≤ b.valid →
        (∀ i < a.valid, bucket i < 2 ^ k) → (∀ i < a.valid, rowPoisoned b i = false) → tagDepth f.tag ≠ 0 → k ≤ tagFill f.tag →
          Commits (.steer w) s f
            ((List.range (2 ^ k)).flatMap fun v =>
              (if f.outs0.isEmpty then [] else [f.tileOut (setInner f.tag k v) false w.fmt (n v) a.cols (rs v).length (p v)
                (fitBytes (n v * a.rowLen) ((List.range (rs v).length).flatMap fun j =>
                  rowMoved a (f.tile .a).2 ((rs v).getD j 0) ((p v).getLsbD (group (n v) j))))]) ++
              (if f.outs1.isEmpty then [] else [f.tileOut (setInner f.tag k v) true .z32 (n v) 1 (rs v).length (p v)
                (fitBytes (n v * 4) ((rs v).flatMap fun i => leBytes 4 i))])) 0)

/-! ### The matrix unit -/

/-- R175, R236, R241, R242, R244: MMA, MMAG and MMAS by the owner of the accumulator add the product to it block by block, advance its STEP,
and emit its new word.
R243: MCOMP keeps two of every four elements of a row, bit for bit, and records which. -/
def Obligations.MatrixMultiplyAndCompress : Prop :=
  (
    ∀ (w : OpFields) (s : State) (f : Firing) (t : Tag) (n : Nat) (acc : Acc),
      s.Owns f .c n acc → f.Kinds true true false → outTag w f (s.env f) = .ok t →
        let a := f.handle .a
        let b := f.handle .b
        let poison (m : Nat) : BitVec 8 := acc.poison |||
          ((a.poison ||| (if b.poison != 0 then poisonAll acc.rows else 0)) &&& poisonOf acc.rows (List.range m))
        let grid (m : Nat) (x : Handle × List Byte) : List (List (Nat × Flags)) :=
          macAll w.fmt (w.mod.getLsbD 3) acc (poison m) m x.1 x.2 b (f.tile .b).2
        let after (m : Nat) (x : Handle × List Byte) : Acc :=
          { acc with step := acc.step + 1, poison := poison m, data := (grid m x).flatten.map fun y => BitVec.ofNat 36 y.1 }
        let quiet (m : Nat) (x : Handle × List Byte) : Prop :=
          macIsInt w.fmt = true ∨ firstElem (enabledFlags (s.env f).fpen) (gridFlags (grid m x)) = none
        let done (i : Instr) (m : Nat) (x : Handle × List Byte) : Prop :=
          CommitsWith i s f [f.accOut t false n (after m x)] (orAll (gridFlags (grid m x)))
            fun st => st.setAccAt f n (after m x)
        b.fmt = w.fmt → a.rows = acc.rows → b.rows = acc.cols →
          (a.fmt = w.fmt → a.cols = b.cols → quiet acc.rows (f.tile .a) → done (.mma w) acc.rows (f.tile .a)) ∧
          (a.fmt = w.fmt → a.cols = b.cols → quiet a.valid (f.tile .a) → done (.mmag w) a.valid (f.tile .a)) ∧
          (∀ x, a.fmt = .z8 → a.cols = 21 * b.cols / 32 → expandTile w.fmt b.cols (f.tile .a) = .ok x →
            quiet acc.rows x → done (.mmas w) acc.rows x)) ∧
  (
    ∀ (w : OpFields) (s : State) (f : Firing) (t : Tag), f.Kinds true false false → outTag w f (s.env f) = .ok t →
      let a := f.handle .a
      let cols := 21 * a.cols / 32
      a.fmt = w.fmt → Enc.shapeOk .z8 a.rows cols = true →
        Commits (.mcomp w) s f [f.tileOut t false .z8 a.rows cols a.valid a.poison
          ((List.range a.rows).flatMap fun i =>
            if i < a.valid then compressRow w.fmt a.cols (rowAt a (f.tile .a).2 i) else zeros cols)] 0)

/-- R233, R236, R245 to R249: AZERO and ALOAD claim a FREE accumulator; ADRAIN hands its rows out in bands, and keeps, releases or clears it;
AREAD and APATCH read and write a window of it, a handler frame's with the capabilities R235 asks for. -/
def Obligations.AccumulatorClaimDrainPatch : Prop :=
  ∀ (w : OpFields) (s : State) (f : Firing) (t : Tag), outTag w f (s.env f) = .ok t →
    let own := some (tagFrame f.tag, (tagGen f.tag).toNat, f.asid)
    let claimAs (n rows cols : Nat) (p : BitVec 8) (data : List (BitVec 36)) : Acc :=
      { owner := own, step := ((s.cell f.cell).acc n).step + 1, rows := rows, cols := cols, poison := p, data := data }
    let zn := w.imm.toNat / 4096 % 4
    let zr := w.imm.toNat % 64 + 1
    let zc := w.imm.toNat / 64 % 64 + 1
    let zero := claimAs zn zr zc 0 (List.replicate (zr * zc) 0)
    let a := f.handle .a
    let b := f.handle .b
    let loaded := (gridRaw a (f.tile .a).2).mapIdx fun i r => r.map fun x =>
      ((loadElem w.fmt x).1, if rowPoisoned a i then (0 : Flags) else (loadElem w.fmt x).2)
    let ln := w.imm.toNat % 4
    let load := claimAs ln a.rows a.cols a.poison (loaded.flatten.map fun x => BitVec.ofNat 36 x.1)
    let r := w.imm.toNat % 64
    let nr := w.imm.toNat / 64 % 64 + 1
    let c := w.imm.toNat / 4096 % 64
    let nc := w.imm.toNat / 262144 % 64 + 1
    ((∀ o ∈ f.ops, o.port ≠ .a → o.val.isTile = false) → f.ops.Pairwise (fun x y => x.port ≠ y.port) →
      (((s.cell f.cell).acc zn).owner = none ∨ ((s.cell f.cell).acc zn).owner = own) →
        CommitsWith (.azero w) s f [f.accOut t false zn zero] (f.pz [.a]) fun st => st.setAccAt f zn zero) ∧
    (f.Kinds true false false → a.fmt = w.fmt → a.cols ≤ 64 →
      (((s.cell f.cell).acc ln).owner = none ∨ ((s.cell f.cell).acc ln).owner = own) →
      firstElem (enabledFlags (s.env f).fpen) (gridFlags loaded) = none →
        CommitsWith (.aload w) s f [f.accOut t false ln load] (orAll (gridFlags loaded)) fun st => st.setAccAt f ln load) ∧
    (∀ n acc, s.Owns f .a n acc →
      let k := w.imm.toNat % 8
      let rb := acc.rows / 2 ^ k
      let d := drainRows w (rounding w f (s.env f)) rb acc
      let next : Acc := { acc with step := acc.step + 1 }
      let after : Acc :=
        if w.var == 1 then { next with owner := none }
        else if w.var == 2 then { next with poison := 0, data := List.replicate (acc.rows * acc.cols) 0 } else next
      acc.rows % 2 ^ k = 0 → (isMX w.fmt = false ∨ acc.cols % 32 = 0) → (k = 0 ∨ (tagDepth t ≠ 0 ∧ k ≤ tagFill t)) →
      s.watches f 2 (fun x => x % 2 ^ 11 == f.cell && (x / 2 ^ 13 % 2 == 1 || x / 2 ^ 11 % 4 == n)) = [] →
      ((w.fmt == .a36 || Enc.Fmt.isInt w.fmt) = true ∨ firstElem (enabledFlags (s.env f).fpen) d.2 = none) →
        CommitsWith (.adrain w) s f
          ((if f.outs0.isEmpty then [] else (List.range (2 ^ k)).map fun v => outD0 (setInner t k v) (.tile
              { fmt := w.fmt, rows := rb, cols := acc.cols, valid := rb, line := 0, poison := bandPoison acc (v * rb) rb,
                eos := f.eos, disc := false, seq := BitVec.ofNat 16 (v * rb) } ((d.1.drop (v * rb)).take rb).flatten) none) ++
            (if w.var == 1 then [] else [f.accOut t true n next])) (orAll d.2) fun st => st.setAccAt f n after) ∧
    (∀ n acc, s.Reaches f .a .read n acc → r + nr ≤ acc.rows → c + nc ≤ acc.cols →
      CommitsWith (.aread w) s f
        ((if f.outs0.isEmpty then [] else [outD0 t (.tile
            { fmt := .a36, rows := nr, cols := nc, valid := nr, line := 0, poison := bandPoison acc r nr, eos := f.eos, disc := false,
              seq := 0 }
            ((List.range nr).flatMap fun i => packElems .a36 ((List.range nc).map fun j => acc.at (r + i) (c + j)))) none]) ++
          [outD1 t (f.val .a) none]) 0 fun st => st.setAccAt f n acc) ∧
    (∀ n acc, s.Reaches f .a .patch n acc → f.Kinds false true false → b.fmt = .a36 → b.rows = nr → b.cols = nc → r + nr ≤ acc.rows →
      c + nc ≤ acc.cols →
        let after : Acc :=
          { acc with
            step := if acc.owner = own then acc.step + 1 else acc.step, poison := patchPoison acc b r nr c nc
            data := (List.range acc.rows).flatMap fun i => (List.range acc.cols).map fun j =>
              BitVec.ofNat 36 (if r ≤ i ∧ i < r + nr ∧ c ≤ j ∧ j < c + nc
                then cellOf (gridRaw b (f.tile .b).2) (i - r) (j - c) else acc.at i j) }
        CommitsWith (.apatch w) s f [f.accOut t false n after] 0 fun st => st.setAccAt f n after)

/-! ### Loops -/

/-- R110, R111, R131: LENTER opens a record for its key and sends port a under the pushed tag; with no record to be had it is held.
R111, R112, R133: a waiting LNEXT commits when its colour is free, and of the waiting LENTERs that a record can serve the oldest opens it, and
then the next is looked for. -/
def Obligations.LoopEnterAndWaiters : Prop :=
  (
    ∀ (w : OpFields) (s : State) (f : Firing) (t : Tag),
      let c := s.cell f.cell
      let v := w.tw.toNat + 1
      let taken := c.loops.any fun l => l.asid == f.asid && l.slot == f.slot && l.base == f.tag
      let opened (src : Nat) : LoopRec :=
        { asid := f.asid, slot := f.slot, base := f.tag, w := v, closing := false, nextc := 1 % 2 ^ v, waiter := none, infl := 1,
          src := src, claims := 1, busy := 1 }
      f.Kinds (w.fmt == .handle) false false → push f.tag v = .ok t →
        (taken = false → ∀ src, c.loopShare (tagDepth f.tag + 1) = some src →
          CommitsWith (.lenter w) s f [f.passed .a false t] 0 fun st =>
            st.modCell f.cell fun x => { x with loops := x.loops ++ [opened src] }) ∧
        ((taken = true ∨ c.loopShare (tagDepth f.tag + 1) = none) → s.sel = some f →
          exec (.lenter w) s = .next (s.hold f .lenter))) ∧
  (
    ∀ (s : State) (cell : Nat),
      (∀ (n sid c : Nat) (r : LoopRec) (f : Firing) (cell1 : Cell) (placed : List Out),
        (s.cell cell).loops[n]? = some r → r.waiter = some (c, sid) → r.closing = false → r.busy.getLsbD c = false →
          (s.cell cell).mayCommit r.asid = true → (s.cell cell).heldFiring sid = some f → f.cell = cell →
            let outs := [f.passed .a false (setInner f.tag r.w c)]
            s.Fits f outs cell1 placed →
              exec (.heldLnextRelease cell n) s = .next (s.committed f cell1 placed 0 fun st =>
                st.modCell f.cell fun x => x.setLoop
                  { r with busy := r.busy ||| (1#256 <<< c), infl := r.infl + 1, claims := r.claims + 1,
                           nextc := (c + 1) % 2 ^ r.w, waiter := none })) ∧
      (∀ (q : FSet) (older newer : List FSet) (f : Firing) (r : LoopRec) (t : Tag) (cell1 : Cell) (placed : List Out),
        (s.cell cell).sets = older ++ q :: newer → q.hold = some .lenter → q.firing = some f → f.cell = cell →
          (s.cell cell).mayCommit q.asid = true →
          (∀ y ∈ older, (s.cell cell).lenterCan y = true → q.since < y.since) →
          (∀ y ∈ newer, (s.cell cell).lenterCan y = true → q.since ≤ y.since) →
          let v := (f.word.extractLsb' 105 4).toNat + 1
          (s.cell cell).openLoop f.asid f.slot f.tag v = some r → push f.tag v = .ok t →
            s.Fits f [f.passed .a false t] cell1 placed →
              let s1 := s.committed f cell1 placed 0 fun st => st.modCell f.cell fun x => { x with loops := x.loops ++ [r] }
              exec (.heldLenterGrant cell) s = .next { s1 with due := s1.due ++ [.event (.heldLenterGrant cell)] }))

/-- R112, R132, R133: LNEXT claims the next colour when it is free, waits for a busy one, and meets BAD_OPERAND in a closing record or behind
another waiter. LDONE retires its colour, lets the LNEXT that waits for it go on, and frees a closing record with its last colour. LEXIT closes
the record, or frees it when no colour is in flight, and its waiting LNEXT meets BAD_OPERAND. -/
def Obligations.LoopAdvanceRetireClose : Prop :=
  ∀ (w : OpFields) (s : State) (f : Firing) (base : Tag) (r : LoopRec),
    let v := w.tw.toNat + 1
    let colour := (tagColour f.tag).toNat % 2 ^ v
    let n := (colour + 1) % 2 ^ v
    let claim : LoopRec :=
      { r with busy := r.busy ||| (1#256 <<< n), infl := r.infl + 1, claims := r.claims + 1, nextc := (n + 1) % 2 ^ v }
    let retired : LoopRec := { r with busy := r.busy &&& ~~~(1#256 <<< colour), infl := r.infl - 1 }
    f.Kinds (w.fmt == .handle) false false → tagDepth f.tag ≠ 0 → v ≤ tagFill f.tag → pop f.tag v = .ok base →
      (s.cell f.cell).loopRec f.asid (w.imm.toNat % 2048) base = some r → r.w = v → r.base = base →
        (r.closing = false → r.busy.getLsbD n = false →
          CommitsWith (.lnext w) s f [f.passed .a false (setInner f.tag v n)] 0 fun st =>
            st.modCell f.cell fun c => c.setLoop claim) ∧
        (r.closing = false → r.busy.getLsbD n = true → r.waiter = none → s.sel = some f →
          exec (.lnext w) s =
            .next ((s.hold f .lnext).modCell f.cell fun c => c.setLoop { r with waiter := some (n, f.sid) })) ∧
        (r.closing = true ∨ (r.busy.getLsbD n = true ∧ r.waiter.isSome) → Traps (.lnext w) s f tBAD_OPERAND) ∧
        (r.busy.getLsbD colour = true → (r.closing = false ∨ 1 < r.infl) → (∀ q ∈ r.waiter, q.1 ≠ colour) →
          CommitsWith (.ldone w) s f [f.passed .a false base] 0 fun st =>
            st.modCell f.cell fun c => c.setLoop retired) ∧
        (∀ sid, r.busy.getLsbD colour = true → (r.closing = false ∨ 1 < r.infl) → r.waiter = some (colour, sid) →
          CommitsWith (.ldone w) s f [f.passed .a false base] 0 fun st =>
            let st1 := st.modCell f.cell fun c => c.setLoop retired
            { st1 with due := st1.due ++ [.event (.heldLnextRelease f.cell ((st1.cell f.cell).loopIndex retired))] }) ∧
        (r.busy.getLsbD colour = true → r.closing = true → r.infl = 1 →
          CommitsWith (.ldone w) s f [f.passed .a false base] 0 fun st =>
            { st.modCell f.cell (fun c => c.dropLoop r) with due := st.due ++ [.event (.heldLenterGrant f.cell)] }) ∧
        (r.busy.getLsbD colour = false → Traps (.ldone w) s f tBAD_OPERAND) ∧
        (r.closing = false → r.infl ≠ 0 → r.waiter = none →
          CommitsWith (.lexit w) s f [f.passed .a false base] 0 fun st =>
            st.modCell f.cell fun c => c.setLoop { r with closing := true, waiter := none }) ∧
        (r.closing = false → r.infl = 0 → r.waiter = none →
          CommitsWith (.lexit w) s f [f.passed .a false base] 0 fun st =>
            { st.modCell f.cell (fun c => c.dropLoop r) with due := st.due ++ [.event (.heldLenterGrant f.cell)] }) ∧
        (∀ n sid, r.closing = false → r.infl ≠ 0 → r.waiter = some (n, sid) →
          CommitsWith (.lexit w) s f [f.passed .a false base] 0 fun st =>
            let st1 := st.modCell f.cell fun c => c.setLoop { r with closing := true, waiter := none }
            match ((st1.cell f.cell).findSet sid).bind FSet.snap with
            | some g => st1.raise g tBAD_OPERAND
            | none => st1) ∧
        (r.closing = true → Traps (.lexit w) s f tBAD_OPERAND)

/-! ### Frames -/

/-- R101, R108, R137, R138: SPAWN and CALL take the lowest FREE frame from the general share or the depth's reserve, make it LIVE as a child
of the firing's frame, and send their ports under its tag.
R108, R137: with no frame to be had SPAWN.TRY sends port a unchanged to its D1 side, plain SPAWN and CALL wait, and a depth above DMAX is
FRAME_DEPTH for the plain forms. -/
def Obligations.SpawnAndCall : Prop :=
  (
    ∀ (w : OpFields) (s : State) (f : Firing) (x : Ctx) (sh : Share) (i : Nat),
      let fr := (s.env f).frame
      let birth : Birth :=
        { share := sh, depth := fr.depth + 1, parent := BitVec.ofNat 12 (tagFrame f.tag), pgen := tagGen f.tag, rettag := some f.tag,
          gsize := 0, rank := 0 }
      let s1 := s.liveFrame f.asid i birth
      let s2 := s1.modCtx f.asid fun y =>
        { y with frameWaits := y.frameWaits.filter fun q => !(q.cell == f.cell && q.sid == f.sid) }
      let t := frameTag (((s1.ctx f.asid).map fun y => (y.frame i).gen).getD 0) i
      let d := w.fmt == .handle
      s.sel = some f → s.ctx f.asid = some x → fr.depth + 1 ≤ x.pool.dmax → x.pool.shareFor (fr.depth + 1) = some sh →
        x.lowestFree 1 (x.pool.nframes - 1) = some i →
          (f.word.extractLsb' 120 8 = 0x16#8 → f.word.extractLsb' 64 12 = 0 → f.Kinds d false false →
            (s.runsIn f && s.badDests f.asid f.outs0) = false → ∀ cell1 placed, s2.Delivers f [f.passed .a false t] cell1 placed →
              exec (.spawn w) s = .next (s2.committed f cell1 placed 0 id)) ∧
          (f.word.extractLsb' 120 8 = 0x17#8 → f.Kinds d d false → (s.runsIn f && s.badDests f.asid (f.outs0 ++ f.outs1)) = false →
            f.outs1 ≠ [] → ∀ cell1 placed, s2.Delivers f [f.passed .a false t, f.passed .b true t] cell1 placed →
              exec (.call w) s = .next (s2.committed f cell1 placed 0 id)) ∧
          (f.word.extractLsb' 120 8 = 0x17#8 → f.Kinds d d false → (s.runsIn f && s.badDests f.asid (f.outs0 ++ f.outs1)) = false →
            f.outs1 = [] → ∀ cell1 placed, s2.Delivers f [f.passed .a false t] cell1 placed →
              exec (.call w) s = .next (s2.committed f cell1 placed (f.pz [.b]) id))) ∧
  (
    ∀ (w : OpFields) (s : State) (f : Firing) (x : Ctx),
      let depth := (s.env f).frame.depth + 1
      let d := w.fmt == .handle
      let wait : FrameWait := { cell := f.cell, sid := f.sid, depth := depth, n := 1 }
      let held := (s.hold f .frame).modCtx f.asid fun y => { y with frameWaits := y.frameWaits ++ [wait] }
      s.ctx f.asid = some x →
        (w.var = 1 → f.Kinds d false false → (x.pool.dmax < depth ∨ x.pool.shareFor depth = none) →
          Commits (.spawn w) s f [f.passed .a true f.tag] 0) ∧
        (w.var ≠ 1 → f.Kinds d false false → x.pool.dmax < depth → Traps (.spawn w) s f tFRAME_DEPTH) ∧
        (f.Kinds d d false → x.pool.dmax < depth → Traps (.call w) s f tFRAME_DEPTH) ∧
        (w.var ≠ 1 → f.Kinds d false false → depth ≤ x.pool.dmax → x.pool.shareFor depth = none → s.sel = some f →
          exec (.spawn w) s = .next held) ∧
        (f.Kinds d d false → depth ≤ x.pool.dmax → x.pool.shareFor depth = none → s.sel = some f →
          exec (.call w) s = .next held))

/-- R102, R140 to R143: RET sends port a under the return-link tag and FEND nothing, and each ends its own frame, when LIVE, in the same commit;
KILLF ends the LIVE or PARKED frame it names, with status 0, or answers 1.
R102, R103: a LIVE or PARKED frame that is ended goes to ENDING, its sweep starts towards every cell of the region and every other home (R473),
and every other frame of the context keeps its state. -/
def Obligations.FramesEnd : Prop :=
  (
    ∀ (w : OpFields) (s : State) (f : Firing) (t : Tag) (x : Ctx),
      let d := w.fmt == .handle
      let own (st : State) : State := st.endOwn f.asid (tagFrame f.tag) (tagGen f.tag)
      let v := (f.val .a).word
      let i := (v.extractLsb' 0 12).toNat
      let g := v.extractLsb' 12 4
      let hit := ((x.frame i).st = .live ∨ (x.frame i).st = .parked) ∧ (x.frame i).gen = g
      s.ctx f.asid = some x →
        (f.Kinds d false false → outTag w f (s.env f) = .ok t →
          CommitsWith (.ret w) s f [f.passed .a false t] 0 own) ∧
        (f.Kinds d d d → CommitsWith (.fend w) s f [] (f.pz [.a, .b, .c]) own) ∧
        (f.Scalars → v.extractLsb' 20 44 = 0 → i < x.pool.nframes → f.isPoisoned .a = false → hit →
          CommitsWith (.killf w) s f [f.scalarOut f.tag 0] 0 fun st => st.endNamed f.asid i g) ∧
        (f.Scalars → v.extractLsb' 20 44 = 0 → i < x.pool.nframes → f.isPoisoned .a = false → ¬ hit →
          CommitsWith (.killf w) s f [f.scalarOut f.tag 1] 0 fun st => st.endNamed f.asid i g) ∧
        (f.Scalars → (v.extractLsb' 20 44 ≠ 0 ∨ x.pool.nframes ≤ i) → Traps (.killf w) s f tBAD_OPERAND)) ∧
  (
    ∀ (s : State) (asid i : Nat) (x : Ctx), s.ctx asid = some x → ((x.frame i).st = .live ∨ (x.frame i).st = .parked) →
      ∃ y, (s.endNamed asid i (x.frame i).gen).ctx asid = some y ∧ (y.frame i).st = .ending ∧ (y.frame i).gen = (x.frame i).gen ∧
        y.sweeps = x.sweeps ++ [{ frame := i, gen := (x.frame i).gen }] ∧
          (∀ j, j ≠ i → (y.frame j).st = (x.frame j).st ∧ (y.frame j).gen = (x.frame j).gen) ∧
            (s.endNamed asid i (x.frame i).gen).bcasts =
              s.bcasts ++ [{ asid := asid, kind := .sweep i (x.frame i).gen.toNat, left := x.cr.sweepCells }])

/-- R109, R139: GANG gives BAD_OPERAND for 0 members, POISON for a poisoned number, GANG_TOO_LARGE above what the pool can ever hold, and then
FRAME_DEPTH above DMAX. With n frames free and its target graph resident it takes the n lowest and sends each member port a and its rank; where the
graph is not resident they are set aside and it waits. Without them it waits, or, under TRY, sends port a to its D1 side. The model's choices are
that the graph is the slots D0 names (log entry 66) and that nothing more is set aside where a GANG begins to wait for frames (log entry 18).
R108, R109: the oldest waiting request that can be served takes its frame, and then the next is looked for; the oldest waiting GANG commits once
what is set aside for it and what is free hold all its members (log entry 18) and its target graph is resident (log entry 66). -/
def Obligations.GangAndFrameWaiters : Prop :=
  (
    ∀ (w : OpFields) (s : State) (f : Firing) (x : Ctx),
      let d := w.fmt == .handle
      let n := (f.val .b).word.toNat
      let depth := (s.env f).frame.depth + 1
      let s0 := s.modCtx f.asid fun y => { y with gangWaits := y.gangWaits.filter fun q => !(q.cell == f.cell && q.sid == f.sid) }
      let members := State.allocGang f n n s0 []
      let fits := n ≤ x.pool.nframes - 17 - x.pool.resv * x.pool.dmax
      let wait : FrameWait := { cell := f.cell, sid := f.sid, depth := depth, n := n }
      let waits : State := (s.hold f .gang).modCtx f.asid fun y => { y with gangWaits := y.gangWaits ++ [wait] }
      s.ctx f.asid = some x → f.Kinds d false false →
        (n = 0 → Traps (.gang w) s f tBAD_OPERAND) ∧
        (n ≠ 0 → f.isPoisoned .b = true → Traps (.gang w) s f (tPOISON 2)) ∧
        (n ≠ 0 → f.isPoisoned .b = false → x.pool.nframes - 17 - x.pool.resv * x.pool.dmax < n →
          Traps (.gang w) s f tGANG_TOO_LARGE) ∧
        (n ≠ 0 → f.isPoisoned .b = false → fits → x.pool.dmax < depth →
          (w.var = 1 → Commits (.gang w) s f [f.passed .a true f.tag] 0) ∧ (w.var ≠ 1 → Traps (.gang w) s f tFRAME_DEPTH)) ∧
        (n ≠ 0 → f.isPoisoned .b = false → fits → depth ≤ x.pool.dmax → (x.pool.gfree < n ∨ x.gangWaits ≠ []) → w.var ≠ 1 → s.sel = some f →
          exec (.gang w) s = .next waits) ∧
        (n ≠ 0 → f.isPoisoned .b = false → fits → depth ≤ x.pool.dmax → n ≤ x.pool.gfree → x.gangWaits = [] → s.gangResident f = false →
          s.sel = some f → exec (.gang w) s = .next ((waits.modCtx f.asid fun y => { y with aside := n }).modPool f.asid fun p =>
            { p with gfree := p.gfree - n })) ∧
        (n ≠ 0 → f.isPoisoned .b = false → n ≤ x.pool.nframes - 17 - x.pool.resv * x.pool.dmax → depth ≤ x.pool.dmax →
          n ≤ x.pool.gfree → x.gangWaits = [] → s.gangResident f = true → (s.runsIn f && s.badDests f.asid f.outs0) = false →
            ∀ cell1 placed, s.sel = some f → members.1.Delivers f [] cell1 placed →
              exec (.gang w) s = .next (members.1.committed f cell1 placed 0 (gangSends f (s.runsIn f) members.2))) ∧
        (n ≠ 0 → f.isPoisoned .b = false → n ≤ x.pool.nframes - 17 - x.pool.resv * x.pool.dmax → depth ≤ x.pool.dmax →
          (x.pool.gfree < n ∨ x.gangWaits ≠ []) → w.var = 1 → Commits (.gang w) s f [f.passed .a true f.tag] 0)) ∧
  (
    ∀ (s : State) (asid : Nat) (x : Ctx) (f : Firing) (wt : FrameWait) (older rest : List FrameWait) (cell1 : Cell)
      (placed : List Out), s.ctx asid = some x → x.dry = .none → f.asid = asid → f.cell = wt.cell → f.sid = wt.sid →
        s.waitFiring asid wt = some f →
        let rid (st : State) : State := st.modCtx asid fun y =>
          { y with frameWaits := y.frameWaits.filter fun v => !(v.cell == f.cell && v.sid == f.sid) }
        let fr := (s.env f).frame
        (∀ sh i, x.frameWaits = older ++ wt :: rest → (∀ v ∈ older, x.pool.shareFor v.depth = none ∨ s.waitFiring asid v = none) →
          x.pool.shareFor wt.depth = some sh → x.lowestFree 1 (x.pool.nframes - 1) = some i →
          f.word.extractLsb' 120 8 = 0x16#8 → f.word.extractLsb' 64 12 = 0 → (s.runsIn f && s.badDests asid f.outs0) = false →
            let s1 := s.liveFrame asid i
              { share := sh, depth := fr.depth + 1, parent := BitVec.ofNat 12 (tagFrame f.tag), pgen := tagGen f.tag,
                rettag := some f.tag, gsize := 0, rank := 0 }
            let t := frameTag (((s1.ctx asid).map fun y => (y.frame i).gen).getD 0) i
            (rid s1).Fits f [f.passed .a false t] cell1 placed →
              let s2 := (rid s1).committed f cell1 placed 0 id
              exec (.heldFrameGrant asid) s = .next { s2 with due := s2.due ++ [.event (.heldFrameGrant asid)] }) ∧
        (x.gangWaits = wt :: rest → wt.n ≤ x.aside + x.pool.gfree → s.gangResident f = true →
          let s0 := (s.modCtx asid fun y => { y with aside := 0 }).modPool asid fun p => { p with gfree := p.gfree + x.aside }
          let members := State.allocGang f wt.n wt.n (s0.modCtx asid fun y =>
            { y with gangWaits := y.gangWaits.filter fun v => !(v.cell == f.cell && v.sid == f.sid) }) []
          (s0.runsIn f && s0.badDests asid f.outs0) = false → members.1.Fits f [] cell1 placed →
            exec (.gangGrant asid) s =
              .next ((members.1.committed f cell1 placed 0 (gangSends f (s0.runsIn f) members.2)).grantDue asid)))

/-! ### Memory -/

/-- R292, R300, R301, R306, R309 to R311: LDT, STT, GATH and SCAT whose descriptor, read once, tiles, pages and addresses pass the checks commit
with no output and one outstanding operation over the rows of their extent; a load once the lines of its tile are reserved (R84). -/
def Obligations.TileTransfersIssue : Prop :=
  ∀ (w : OpFields) (s : State) (f : Firing) (t : Tag) (d : Desc), f.isPoisoned .a = false → outTag w f (s.env f) = .ok t →
    let g := s.withDesc f w
    let r0 := (f.val .a).word.toNat / 2 ^ 32
    let c0 := (f.val .a).word.toNat % 2 ^ 32
    let b := f.handle .b
    let c := f.handle .c
    let whole (n : Nat) : List Span := (List.range n).flatMap fun i => d.spans (r0 + i) c0 i
    let at' (n : Nat) : List (Nat × Nat) :=
      ((List.range n).map fun i => (i, r0 + elemAt b (f.tile .b).2 i 0)).filter fun p => decide (p.2 < d.nrows)
    let h (rows valid seq : Nat) : Handle :=
      { fmt := d.fmt, rows := rows, cols := d.cols, valid := valid, line := 0, poison := 0, eos := false, disc := d.disc,
        seq := BitVec.ofNat 16 seq }
    let plan (kind : OpKind) (spans : List Span) (st : Bool) (bad : Nat → Bool) (at2 : List (Nat × Nat)) (buf : List Byte) (n : Nat) : Plan :=
      { tag := t, kind := kind, spans := spans, need := { r := !st, w := st, w1 := false, device := false },
        aligned := d.base % d.size == 0 && d.rstride % d.size == 0, base := d.base, bad := bad,
        watch := watchTest (s.watches f (if st then 1 else 0) fun x => x == w.imm.toNat % 65536) at2, buf := buf, count := n,
        accept := false }
    let load (x : Handle) (spans : List Span) (at2 : List (Nat × Nat)) : Plan :=
      plan (.load x) spans false (fun _ => false) at2 (zeros x.bytes) 0
    let n := min d.rows (d.nrows - r0)
    let m := min b.valid n
    let k := min b.valid c.valid
    let scattered (l : List (Nat × Nat)) : List (Nat × Nat) := l.flatMap fun p => rectangle p.2 c0 1 d.cols
    (f.Kinds false false false → s.useDesc g w c0 true false = .ok d →
      Issues (.ldt w) s (s.readDesc f w) f g w (load (h d.rows n r0) (whole n) (rectangle r0 c0 n d.cols))) ∧
    (f.Kinds false true false → s.useDesc g w c0 false true = .ok d → b.fmt = d.fmt → b.rows = d.rows → b.cols = d.cols →
      Issues (.stt w) s (s.readDesc f w) f g w (plan .store (whole m) true (rowPoisoned b) (rectangle r0 c0 m d.cols) (f.tile .b).2 m)) ∧
    (f.Kinds false true false → b.fmt = .z32 → b.cols = 1 → s.useDesc g w c0 true false = .ok d → Enc.shapeOk d.fmt b.rows d.cols = true →
      (∀ i < b.valid, rowPoisoned b i = false) →
        Issues (.gath w) s (s.readDesc f w) f g w
          (load (h b.rows b.valid 0) ((at' b.valid).flatMap fun p => d.spans p.2 c0 p.1) (scattered (at' b.valid)))) ∧
    (f.Kinds false true true → b.fmt = .z32 → b.cols = 1 → s.useDesc g w c0 false true = .ok d → c.fmt = d.fmt → c.rows = d.rows →
      c.cols = d.cols → (∀ i < k, rowPoisoned b i = false) →
        Issues (.scat w) s (s.readDesc f w) f g w
          (plan .store ((at' k).flatMap fun p => d.spans p.2 c0 p.1) true (rowPoisoned c) (scattered (at' k)) (f.tile .c).2
            (at' k).length))

/-- R292, R300, R312, R313: LDS and STS issue one access of the format's bytes at port a plus IMM, sign-extended, or at the literal; PREF
issues one access per line that can be translated and read, and counts the others. The model's choices: the free completion payload of STS (log entry
8), and what a PREF asks of the lines of another device (log entry 37). -/
def Obligations.ScalarAccessAndPrefetch : Prop :=
  ∀ (w : OpFields) (s : State) (f : Firing) (t : Tag), f.Scalars → f.isPoisoned .a = false → outTag w f (s.env f) = .ok t →
    let ea := if w.lit.isSome then (f.val .a).word.toNat else ((f.val .a).word + w.imm.signExtend 64).toNat
    let n := width w.fmt / 8
    let plan (kind : OpKind) (st : Bool) (bad : Bool) (buf : List Byte) (k : Nat) : Plan :=
      { tag := t, kind := kind, spans := [{ va := ea, off := 0, len := n, row := 0 }], need := { r := !st, w := st, w1 := false, device := false },
        aligned := ea % n == 0, base := ea, bad := fun _ => bad, watch := .ok (), buf := buf, count := k, accept := false }
    Issues (.lds w) s s f f w (plan (.loadScalar w.fmt) false false (List.replicate n 0) 0) ∧
      Issues (.sts w) s s f f w (plan .store true (f.isPoisoned .b) (leBytes n (f.val .b).word.toNat) (s.env f).free.toNat) ∧
      (s.sel = some f →
        let s0 := s.readDesc f w
        let g := s.withDesc f w
        ∀ lines, prefLines w s0 g (s0.env g) = .ok (t, lines) →
          let here := lines.filter fun v => decide (v < 2 ^ 54) && (s0.faultOn g v).isNone
          let ts := (here.filterMap fun v => (s0.tlbLookup g.cell g.asid v).map fun e => (v, e)).filter fun q => s0.prefOk (s0.env g) q
          let asks : List Access := ts.map fun q =>
            { va := q.1, pa := q.2.addr q.1, parts := [], rows := [], bad := false, done := false, dup := false }
          let p : Plan :=
            { tag := t, kind := .pref, spans := [], need := { r := true, w := false, w1 := false, device := false }, aligned := true,
              base := 0, bad := fun _ => false, watch := .ok (), buf := [], count := lines.length - ts.length, accept := false }
          (∀ v ∈ here, (s0.tlbLookup g.cell g.asid v).isSome) → (s0.touched g ts).CanCommit g →
            exec (.pref w) s = .next ((s0.touched g ts).issued g ((s0.touched g ts).newOp g p (w.mod.extractLsb' 0 2) ts asks)))

/-- R304, R319, R323, R325 to R327: the atomics issue one access of one aligned word; ARED one of its tile's rows; ARED, IPUT, ITAKE, ICLR and
WAITV first wait for their homes to accept them. The free completion payload of IPUT and ICLR is the model's choice (log entry 8). -/
def Obligations.AtomicsIssue : Prop :=
  ∀ (w : OpFields) (s : State) (f : Firing) (t : Tag), f.isPoisoned .a = false → outTag w f (s.env f) = .ok t →
    let n := width w.fmt / 8
    let b := (f.val .b).word
    let both : Need := { r := true, w := true, w1 := false, device := false }
    let once (r : Bool) : Need := { r := r, w := !r, w1 := true, device := true }
    let free := (s.env f).free.toNat
    (f.Scalars → f.isPoisoned .b = false →
      Issues (.atom w) s s f f w (wordPlan f t (.atom w.var.toNat w.fmt b) n both false 0) ∧
      (f.isPoisoned .c = false → Issues (.cas w) s s f f w (wordPlan f t (.cas w.fmt b (f.val .c).word) n both false 0)) ∧
      (b.extractLsb' 0 32 ≠ 0 → Issues (.join w) s s f f w (wordPlan f t (.join (b.extractLsb' 0 32)) 4 both false 0)) ∧
      Issues (.iput w) s s f f w (wordPlan f t (.iput b) 8 (once false) true free) ∧
      Issues (.waitv w) s s f f w
        (wordPlan f t (.waitv w.var.toNat w.fmt b) n { r := true, w := false, w1 := false, device := true } true 0)) ∧
    (f.Scalars → Issues (.itake w) s s f f w (wordPlan f t .itake 8 (once true) true 0) ∧
      Issues (.iclr w) s s f f w (wordPlan f t .iclr 8 (once false) true free)) ∧
    ∀ d, f.Kinds false true false →
      let r0 := (f.val .a).word.toNat / 2 ^ 32
      let c0 := (f.val .a).word.toNat % 2 ^ 32
      let h := f.handle .b
      let m := min h.valid (min d.rows (d.nrows - r0))
      let g := s.withDesc f w
      s.useDesc g w c0 true true = .ok d → (d.fmt = .f32 ∨ d.fmt = .f16 ∨ d.fmt = .bf16 ∨ d.fmt = .s32 ∨ d.fmt = .z32) →
        h.fmt = d.fmt → h.rows = d.rows → h.cols = d.cols → (∀ i < m, rowPoisoned h i = false) →
          Issues (.ared w) s (s.readDesc f w) f g w
            { tag := t, kind := .ared w.var.toNat d.fmt, spans := (List.range m).flatMap fun i => d.spans (r0 + i) c0 i,
              need := { both with device := true }, aligned := d.base % d.size == 0 && d.rstride % d.size == 0, base := d.base,
              bad := fun _ => false, watch := watchTest (s.watches f 1 fun x => x == w.imm.toNat % 65536) (rectangle r0 c0 m d.cols),
              buf := (f.tile .b).2, count := m, accept := true }

/-- R300, R301, R354, R287, R388: a scalar or atomic access stops at the first check it fails: PAGE_FAULT code 3 at or above 2^54, then what the
walk found, ACCESS 4 for a missing capability, ACCESS 1 for a right or the page's kind, ACCESS 6 for a device-memory operator on a host page, ALIGN,
and POISON 6 or 3 for poisoned data that may not be stored. Where the walk found cause for a freeze (R362), its ACCESS comes with it. One that
crosses a page meets each check for both pages before ALIGN. That the ACCESS codes come in the order 4, 1, 6 is the model's choice (log entry 34), and so
is the AUX of a page whose zero fill on another device was not answered (log entry 57). -/
def Obligations.AccessChecksInOrder : Prop :=
  ∀ (i : Instr) (q : WordAccess) (s : State) (f : Firing) (t : Tag), wordAccess f i = some q → f.Scalars → f.isPoisoned .a = false →
    ((∀ w, i ≠ .sts w) → f.isPoisoned .b = false ∧ f.isPoisoned .c = false) →
    (∀ w, i = .join w → (f.val .b).word.extractLsb' 0 32 ≠ 0) → outTag q.w f (s.env f) = .ok t → f.room = none →
    0 < q.len →
    (q.ea / 65536 ≠ (q.ea + q.len - 1) / 65536 → q.ea % q.len ≠ 0 →
      let next := (q.ea / 65536 + 1) * 65536
      (2 ^ 54 ≤ q.ea → Traps i s f (tPAGE_FAULT 3 q.ea)) ∧
      (q.ea < 2 ^ 54 → 2 ^ 54 ≤ next → Traps i s f (tPAGE_FAULT 3 next)) ∧
      ∀ e e2, next < 2 ^ 54 → s.faultOn f q.ea = none → s.faultOn f next = none → s.tlbLookup f.cell f.asid q.ea = some e →
        s.tlbLookup f.cell f.asid next = some e2 → s.sel = some f →
          let ts := [(q.ea, e), (next, e2)]
          (∀ r, s.rights (s.env f) q.need ts = .error r → exec i s = .next ((s.touched f ts).raise f r)) ∧
          (s.rights (s.env f) q.need ts = .ok () → exec i s = .next ((s.touched f ts).raise f (tALIGN q.ea)))) ∧
    (q.ea / 65536 = (q.ea + q.len - 1) / 65536 →
      (2 ^ 54 ≤ q.ea → Traps i s f (tPAGE_FAULT 3 q.ea)) ∧
      (q.ea < 2 ^ 54 → ∀ x, s.faultOn f q.ea = some x →
        let r : Trap := { trapOf x.cls x.code with addr := q.ea, aux := BitVec.ofNat 64 x.aux }
        (x.freeze = none → Traps i s f r) ∧
          (∀ c, x.freeze = some c → s.sel = some f → exec i s = .next ((s.raiseFrozen f r
            { cause := c, vdev := s.vdevOf f.asid, asid := some f.asid, cell := f.cell, slot := f.slot, tag := f.tag, addr := q.ea }).gcTiles
              f.cell))) ∧
      ∀ e, q.ea < 2 ^ 54 → s.faultOn f q.ea = none → s.tlbLookup f.cell f.asid q.ea = some e →
        let pa := e.addr q.ea
        let used := s.touched f [(q.ea, e)]
        let noCap := (isHost pa = true ∧ (s.env f).caps.getLsbD 3 = false) ∨
          (s.isRemote pa = true ∧ (s.env f).caps.getLsbD 2 = false)
        let denied := (q.need.r = true ∧ e.attr.getLsbD 2 = false) ∨ (q.need.w = true ∧ e.attr.getLsbD 3 = false) ∨
          q.need.w1 ≠ e.attr.getLsbD 5
        let noHost := q.need.device = true ∧ isHost pa = true
        let stops (r : Trap) : Prop := s.sel = some f → exec i s = .next (used.raise f r)
        (noCap → stops (tACCESS 4 q.ea)) ∧
        (¬ noCap → denied → stops (tACCESS 1 q.ea)) ∧
        (¬ noCap → ¬ denied → noHost → stops (tACCESS 6 q.ea)) ∧
        (¬ noCap → ¬ denied → ¬ noHost → q.ea % q.len ≠ 0 → stops (tALIGN q.ea)) ∧
        (¬ noCap → ¬ denied → q.ea % q.len = 0 → (∃ w, i = .sts w) → f.isPoisoned .b = true →
          (isHost pa = true → stops { tPOISON 6 with addr := q.ea }) ∧
          (isHost pa = false → e.attr.getLsbD 6 = false → stops { tPOISON 3 with addr := q.ea })))

/-! ### Homes -/

/-- R281, R302, R319, R320, R326: a home applies an ATOM, CAS or JOIN to its word in one access, reads and writes with nothing between, and
answers the value seen; on a poisoned line it applies nothing and answers the value poisoned, JOIN with old+1 on D1: that answer is the model's choice
(log entry 35).
R281, R302: a load's access reads its bytes and gives the poison of its line to the rows read; a store's access writes its bytes, poisons the
line with poisoned data, and clears the poison of a line it covers whole; ARED reduces its elements in ascending order. A line of a zero fill from
another device (R295) becomes zero, its words empty and its poison cleared. -/
def Obligations.HomesApplyAccesses : Prop :=
  (
    ∀ (s : State) (num k : Nat) (o : MemOp) (a : Access), s.AtHome num k o a .issued →
      let old (n : Nat) : Nat := s.readNat a.pa n
      let stored (n x : Nat) : State := (s.writeMem a.pa (leBytes n x)).retest a.pa
      let poisonedAnswer (n v : Nat) (side : Bool) : State :=
        (s.logOp o a 2).applied num k fun p => { p with buf := leBytes n v, poison := 1, side := side }
      (∀ var fmt b, o.kind = .atom var fmt b →
        let n := width fmt / 8
        let m := 2 ^ width fmt
        let v := old n
        let y := b.toNat % m
        (s.poisoned a.pa = true → exec (.homeAccess num k) s = .next (poisonedAnswer n v false)) ∧
        (s.poisoned a.pa = false →
          let gives (x : Nat) (fl : Flags) : Prop :=
            exec (.homeAccess num k) s =
              .next ((stored n x).applied num k fun p => { p with buf := leBytes n v, flags := p.flags ||| fl })
          (var = 0 → gives ((v + y) % m) 0) ∧
          (var = 1 → gives (homeAdd fmt v y).1 (homeAdd fmt v y).2) ∧
          (var = 2 → gives (if readInt fmt y < readInt fmt v then y else v) 0) ∧
          (var = 3 → gives (if readInt fmt v < readInt fmt y then y else v) 0) ∧
          (var = 4 → gives (fMinMax fmt false false v y).1 (fMinMax fmt false false v y).2) ∧
          (var = 5 → gives (fMinMax fmt false true v y).1 (fMinMax fmt false true v y).2) ∧
          (var = 6 → gives (v &&& y) 0) ∧ (var = 7 → gives (v ||| y) 0) ∧ (var = 8 → gives (v ^^^ y) 0) ∧
          (8 < var → gives y 0))) ∧
      (∀ fmt b c, o.kind = .cas fmt b c →
        let n := width fmt / 8
        let v := old n
        (s.poisoned a.pa = true → exec (.homeAccess num k) s = .next (poisonedAnswer n v false)) ∧
        (s.poisoned a.pa = false → v = b.toNat % 2 ^ width fmt →
          exec (.homeAccess num k) s =
            .next ((stored n (c.toNat % 2 ^ width fmt)).applied num k fun p => { p with buf := leBytes n v })) ∧
        (s.poisoned a.pa = false → v ≠ b.toNat % 2 ^ width fmt →
          exec (.homeAccess num k) s = .next (s.applied num k fun p => { p with buf := leBytes n v }))) ∧
      ∀ c : Word32, o.kind = .join c →
        let v := (old 4 + 1) % 2 ^ 32
        (s.poisoned a.pa = true → exec (.homeAccess num k) s = .next (poisonedAnswer 4 v true)) ∧
        (s.poisoned a.pa = false → v = c.toNat →
          exec (.homeAccess num k) s = .next ((stored 4 0).applied num k fun p => { p with buf := leBytes 4 v, side := false })) ∧
        (s.poisoned a.pa = false → v ≠ c.toNat →
          exec (.homeAccess num k) s = .next ((stored 4 v).applied num k fun p => { p with buf := leBytes 4 v, side := true }))) ∧
  (
    ∀ (s : State) (num k : Nat) (o : MemOp) (a : Access), s.AtHome num k o a .issued →
      let bad := s.poisoned a.pa
      let met := if bad then s.logOp o a 1 else s
      let bytes (p : MemOp) : List Byte := a.parts.foldl (fun b q => splice b q.off (s.readMem q.pa q.len)) p.buf
      (∀ h, o.kind = .load h →
        exec (.homeAccess num k) s = .next (met.applied num k fun p =>
          { p with buf := bytes p, poison := if bad then p.poison ||| poisonOf h.rows a.rows else p.poison })) ∧
      (∀ fmt, o.kind = .loadScalar fmt →
        exec (.homeAccess num k) s = .next (met.applied num k fun p =>
          { p with buf := bytes p, poison := if bad then p.poison ||| 1 else p.poison })) ∧
      (o.kind = .store →
        let s1 := a.parts.foldl (fun st q => st.writeMem q.pa ((o.buf.drop q.off).take q.len)) s
        let s2 := if a.bad then s1.setPoison a.pa else if wholeLine a.parts then s1.clearPoison a.pa else s1
        exec (.homeAccess num k) s = .next ((s2.retest a.pa).applied num k id)) ∧
      (o.kind = .pref → exec (.homeAccess num k) s = .next (s.applied num k id)) ∧
      (o.kind = .zeroLine →
        let key := memKey a.pa
        let out (x : Nat) : Bool := decide (x < key) || decide (key + 256 ≤ x)
        let s1 : State :=
          { s with mem := Memory.clear s.mem key 256, w1 := s.w1.filter fun p => out p.1, w1by := s.w1by.filter fun p => out p.1,
                   poison := s.poison.filter out }
        exec (.homeAccess num k) s = .next ((s1.retest a.pa).applied num k id)) ∧
      ∀ var fmt, o.kind = .ared var fmt →
        (bad = true → exec (.homeAccess num k) s = .next ((s.logOp o a 2).applied num k id)) ∧
        (bad = false →
          let n := fmtBytes fmt
          let each (x : State × Flags) (q : Seg) (i : Nat) : State × Flags :=
            let r := atomNew (aredVar var fmt) fmt (x.1.readNat (q.pa + n * i) n) (leNat ((o.buf.drop (q.off + n * i)).take n))
            (x.1.writeNat (q.pa + n * i) n r.1, x.2 ||| r.2)
          let part (x : State × Flags) (q : Seg) : State × Flags :=
            let y := (List.range (q.len / n)).foldl (fun z i => each z q i) (x.1, 0)
            (y.1, x.2 ||| y.2)
          let r := a.parts.foldl part (s, 0)
          exec (.homeAccess num k) s = .next ((r.1.retest a.pa).applied num k fun p => { p with flags := p.flags ||| r.2 })))

/-- R293, R302, R304, R325: IPUT fills an empty or deferred word and answers the ITAKEs listed on it, and is refused (I_DOUBLE) on a full one; ITAKE is
answered by a full word and listed otherwise; ICLR empties a word, and is refused (BAD_OPERAND) while takers are listed. The model's choices on a
poisoned line are log entry 35: IPUT and ICLR apply nothing and complete, ITAKE is answered poisoned, and the line is logged with SRC 2. -/
def Obligations.WriteOnceWords : Prop :=
  ∀ (s : State) (num k : Nat) (o : MemOp) (a : Access), s.AtHome num k o a .accepting →
    let key := memKey a.pa
    let bad := s.poisoned a.pa
    let noted := s.noteArena o a
    let refused (st : State) (cls : Nat) : State :=
      st.applied num k fun p => { p with refusal := match p.refusal with | some r => some r | none => some (cls, 0) }
    (∀ v, o.kind = .iput v →
      (bad = true → exec (.homeAccess num k) s = .next ((s.logOp o a 2).applied num k id)) ∧
      (bad = false → look key s.w1 = some .full → exec (.homeAccess num k) s = .next (refused s 0x14)) ∧
      (bad = false → look key s.w1 ≠ some .full →
        let s1 : State :=
          { s.writeMem a.pa (leBytes 8 v.toNat) with w1 := put key .full s.w1, w1by := put key o.firing.asid s.w1by }
        let s2 := s1.answers (s.takers a.pa) (leBytes 8 v.toNat) false
        exec (.homeAccess num k) s =
          .next (State.applied { s2.retest a.pa with
                    due := s2.due ++ (s.takers a.pa).map fun t => .event (.memoryOpPerformed t.id none) } num k id))) ∧
    (o.kind = .itake →
      (bad = true ∨ look key s.w1 = some .full →
        exec (.homeAccess num k) s = .next ((s.answerOp o (s.readMem a.pa 8) bad).applied num k id)) ∧
      (bad = false → look key s.w1 ≠ some .full → noted.takeArena o a a.va 0 1 0 = none → o.listed = false →
        exec (.homeAccess num k) s = .next (refused noted 0x15)) ∧
      (∀ e s1, bad = false → look key s.w1 ≠ some .full → noted.takeArena o a a.va 0 1 0 = some (e, s1) →
        exec (.homeAccess num k) s =
          .next (((s1.modOp num fun p => { p with arena := some e, listed := true, order := noted.orders }).setWord a.pa .deferred
            o.firing.asid).applied num k id))) ∧
    (o.kind = .iclr →
      (bad = true → exec (.homeAccess num k) s = .next ((s.logOp o a 2).applied num k id)) ∧
      (bad = false → look key s.w1 = some .deferred → exec (.homeAccess num k) s = .next (refused s 0x02)) ∧
      (bad = false → look key s.w1 ≠ some .deferred →
        exec (.homeAccess num k) s =
          .next ({ s with w1 := s.w1.filter fun p => p.1 != key, w1by := s.w1by.filter fun p => p.1 != key }.applied num k id)))

/-- R294, R304, R324, R327: WAITV is answered at once when its condition holds or its line is poisoned, else it is registered; ARED's new lines take a
key, and a line whose key its home holds is not applied again; DEFER_FULL refuses either without a free entry. With every reply in, a refusal raises its
trap and the firing does not commit; else it commits, and an ARED's lines are then applied. That other devices apply them by a second request is log
entry 36, and that the deadline of that request starts at the commit is log entry 37: the model's choices. Poisoned lines of the arena slice that is
looked through are logged (R389). -/
def Obligations.AcceptanceThenCommit : Prop :=
  ∀ (s : State) (num : Nat) (o : MemOp), s.op num = some o →
    (∀ k a, s.AtHome num k o a .accepting →
      let dup (st : State) : State := st.modOp num fun p => { p with accs := p.accs.modify k fun x => { x with dup := true } }
      let noted := s.noteArena o a
      let full : State := noted.modOp num fun p => { p with refusal := match p.refusal with | some r => some r | none => some (0x15, 0) }
      (∀ cond fmt b, o.kind = .waitv cond fmt b →
        let v := s.readNat a.pa (width fmt / 8)
        let y := b.toNat % 2 ^ width fmt
        let met := s.poisoned a.pa || cmpCond cond (readInt fmt v) (readInt fmt y) v y
        let info := cond + 8 * ((Enc.Fmt.code fmt).toNat % 16)
        (met = true →
          exec (.homeAccess num k) s =
            .next ((s.answerOp o (leBytes (width fmt / 8) v) (s.poisoned a.pa)).applied num k id)) ∧
        (∀ e s1, met = false → noted.takeArena o a a.va b 2 info = some (e, s1) →
          exec (.homeAccess num k) s =
            .next (s1.applied num k fun p => { p with arena := some e, listed := true, order := noted.orders })) ∧
        (met = false → noted.takeArena o a a.va b 2 info = none → exec (.homeAccess num k) s = .next (full.applied num k id))) ∧
      (∀ var fmt, o.kind = .ared var fmt →
        ((noted.findKey o a).isSome = true → exec (.homeAccess num k) s = .next ((dup noted).applied num k id)) ∧
        (∀ e s1, noted.findKey o a = none → noted.takeArena o a (a.va / 256 * 256) 0 3 0 = some (e, s1) →
          exec (.homeAccess num k) s = .next (s1.applied num k id)) ∧
        (noted.findKey o a = none → noted.takeArena o a (a.va / 256 * 256) 0 3 0 = none →
          exec (.homeAccess num k) s = .next ((dup full).applied num k id)))) ∧
    (o.phase = .accepting → (∀ a ∈ o.accs, a.done = true) → o.origin = none →
      (∀ cls code, o.refusal = some (cls, code) →
        exec (.acceptanceReply num) s = .next (((s.releaseKeys o).dropOp num).raise o.firing (trapOf cls code))) ∧
      (o.refusal = none → needLines o.firing [] ≤ 2048 →
        exec (.acceptanceReply num) s =
          .next (s.committed o.firing (s.cell o.firing.cell) [] 0 fun st =>
            let o1 := o.accepted (st.dev.time + 84000000)
            let st1 := st.modOp num fun _ => o1
            if o.isAred then st1.ask o1 else st1)) ∧
      (o.refusal = none → 2048 < needLines o.firing [] →
        exec (.acceptanceReply num) s = .next (s.raise o.firing tBAD_OPERAND))) ∧
    (o.phase ≠ .accepting ∨ (∃ a ∈ o.accs, a.done = false) → exec (.acceptanceReply num) s = .next s)

/-- R285, R292, R298, R303, R310, R313, R321, R326, R328: an operation with every access done leaves the port with its flags and its token: the
value read extended by its format, or the count of a store; a loaded tile fills the lines kept for it. The answer of another device is taken into its
access; the value of a listed ITAKE or WAITV may come before its firing has committed. A request to another device that is not answered in 2 ms raises
REMOTE_TIMEOUT against its frame, before anything else is made of an answer that comes later, and its late answer is dropped and counted. The model's choices: one deadline for an operation, AUX of the first
unanswered line, one late answer a line (log entry 37), and a refusal after the commit taken as the timeout is (log entry 34). -/
def Obligations.OperationsFinish : Prop :=
  ∀ (s : State) (num : Nat) (o : MemOp), s.op num = some o →
    let f := o.firing
    let running := frameCurrent (s.frameOf f.asid f.tag) f.tag
    let ended (st : State) : State := match st.op num with
      | some p => if p.phase = .applied then st.finishOp p else st
      | none => st
    (o.phase = .applied → o.origin = none →
      let s1 := if o.flags = 0 then s.dropOp num
        else if (f.word.getLsbD 63 || f.word.getLsbD 31) && running then (s.dropOp num).orFlags f.asid f.tag o.flags
        else (s.dropOp num).orHomeFlags f.asid o.flags
      let from' := f.sender s1
      let emits (side : Bool) (v : Val) : Prop :=
        exec (.memoryOpPerformed num none) s =
          .next ((s1.send from' o.otag v (if side then f.outs1 else f.outs0)).progress f.asid)
      let answers (v : Val) : Prop :=
        ∀ a rest, o.accs = a :: rest →
          let toks := s1.tokensTo from' o.otag v f.outs0
          let s2 : State := { s1 with net := s1.net ++ toks.map fun t =>
            { toks := [t], tile := none, left := 0, line := none, xfer := none, far := some (a.pa / 2 ^ 39, homeCell a.pa, 0) } }
          exec (.memoryOpPerformed num none) s = .next ((s2.sendFar from' o.otag v f.outs0).progress f.asid)
      let scalar (n : Word64) : Val := .scalar n (o.poison != 0) o.eos
      (∀ h l, o.kind = .load h → f.room = some l →
        let s2 := s1.modCell f.cell fun c =>
          { c with tiles := c.tiles.map fun t => if t.line == l then { t with data := o.buf } else t }
        exec (.memoryOpPerformed num none) s = .next
          (((s2.send from' o.otag (.tile { h with poison := o.poison, eos := o.eos, line := l } o.buf) f.outs0).gcTiles
            f.cell).progress f.asid)) ∧
      (∀ fmt, (o.kind = .loadScalar fmt ∨ (∃ v b, o.kind = .atom v fmt b) ∨ (∃ b c, o.kind = .cas fmt b c)) →
        emits false (scalar (extVal fmt (leNat o.buf)))) ∧
      (∀ c fmt b, o.kind = .waitv c fmt b → answers (scalar (extVal fmt (leNat o.buf)))) ∧
      (o.kind = .itake → answers (scalar (BitVec.ofNat 64 (leNat o.buf)))) ∧
      (∀ c, o.kind = .join c → emits o.side (scalar (BitVec.ofNat 64 (leNat o.buf)))) ∧
      ((o.kind = .store ∨ o.kind = .pref ∨ o.kind = .iclr ∨ (∃ v fmt, o.kind = .ared v fmt) ∨ ∃ v, o.kind = .iput v) →
        emits false (.scalar (BitVec.ofNat 64 o.count) false o.eos))) ∧
    (∀ (r : RemoteReply) (u : State), o.deadline ≤ s.dev.time → (o.phase = .issued ∨ o.phase = .accepting) →
      exec (.remoteTimeout num) s = .next u → (u.op num).isSome = true →
        exec (.memoryOpPerformed num (some r)) s = exec (.memoryOpPerformed num (some r)) u) ∧
    (∀ (r : RemoteReply) (a : Access), o.accs[r.acc]? = some a → s.isRemote a.pa = true →
      s.dev.time < o.deadline ∨ o.phase = .waiting ∨ o.phase = .abandoned →
      let gives (st : State) : Prop := exec (.memoryOpPerformed num (some r)) s = .next (ended st)
      let src := match o.kind with | .load _ | .loadScalar _ => 1 | _ => 2
      let met (st : State) : State := if r.poison ∧ o.kind ≠ .pref then st.logOp o a src else st
      let late (st : State) : State := st.modOp num fun p => { p with late := r.acc :: p.late }
      (o.phase = .issued → a.done = false → o.late.contains r.acc = false → r.refused = none →
        gives ((met s).modOp num fun p => (p.take r.acc a r).settle)) ∧
      (o.phase = .waiting →
        gives ((if r.poison then s.logOp o a 2 else s).modOp num fun p => { p.take r.acc a r with phase := .applied })) ∧
      (o.phase = .accepting → a.done = true → o.listed = true → r.listed = false →
        gives ((if r.poison then s.logOp o a 2 else s).modOp num fun p => p.take r.acc a r)) ∧
      (∀ cls code, o.phase = .issued → a.done = false → o.late.contains r.acc = false → r.refused = some (cls, code) → o.kind ≠ .pref →
        gives ((late s).refusedLate o a cls code)) ∧
      (o.phase = .abandoned → a.done = false → o.late.contains r.acc = false → gives ((late (s.countOrphan f.asid)).dropSpent num))) ∧
    ((s.dev.time < o.deadline ∨ (∀ a ∈ o.accs, s.isRemote a.pa = true → a.done = true)) →
      exec (.remoteTimeout num) s = .next s) ∧
    (∀ before a after, o.accs = before ++ a :: after → (∀ b ∈ before, s.isRemote b.pa = true → b.done = true) →
      s.isRemote a.pa = true → a.done = false → (o.phase = .issued ∨ o.phase = .accepting) → o.deadline ≤ s.dev.time →
        let s1 := (s.modOp num fun p =>
          { p with phase := .abandoned, listed := false, firing := { p.firing with room := none } }).gcTiles f.cell
        let t : Trap := { trapOf 0x16 0 with addr := a.va, aux := BitVec.ofNat 64 (a.pa / 2 ^ 39) }
        exec (.remoteTimeout num) s = .next
          ((if running then s1 else s1.dropWaiting o).takeTrap f.asid { s.recOf f t [] with kind := 2, op := some num }))

/-- R295, R360, R362: the first zero claim of a leaf entry sets CLM and starts the fill of the frame it names, which must be one that the virtual device
may reach; a later one waits with it, one that finds ZF clear is answered, and one that finds CLM with no claim in progress is a fault. The fill leaves
every byte of the page zero, its words empty and its lines unpoisoned, and clears ZF and CLM. A page of another device is filled there, line by line, and
the fill is done when every line is; a line that is not answered in 2 ms is late (R328). That its home asks for the lines one by one, and what it does
where one is refused or late, are the model's choice (log entry 57). -/
def Obligations.ZeroFillOfAPage : Prop :=
  ∀ (s : State) (n : Nat) (z : ZeroFill), s.fills[n]? = some z →
    let e := s.readNat z.leaf 8
    let first : Prop := ∀ y ∈ s.fills, y.filling = true → y.leaf ≠ z.leaf
    let inPage (a : Nat) : Prop := memKey z.frame ≤ memKey a ∧ memKey a < memKey z.frame + 65536
    let asked := s.farPages.filter fun p => p.leaf == some z.leaf && !p.gone
    let open' (p : FarPage) : Prop := p.late = false ∧ p.left ≠ [] ∧ s.dev.time < p.deadline
    let s0 : State := { s with
      farPages := (s.farPages.map fun p => if p.leaf == some z.leaf then { p with gone := true } else p).filter fun p =>
        !(p.gone && p.left.isEmpty) }
    let s1 := if s.isRemote z.frame then s0 else s0.zeroPage z.frame
    let e1 := s1.readNat z.leaf 8
    let cleared (e : Nat) : State := (s1.writeMem z.leaf (leBytes 8 e)).retest z.leaf
    (z.filling = true → exec (.zeroClaim n) s = .next s) ∧
    (z.filling = false → (∃ y ∈ s.fills, y.filling = true ∧ y.leaf = z.leaf) →
      exec (.zeroClaim n) s = .next { s with fills := s.fills.eraseIdx n }) ∧
    (z.filling = false → first →
      (bitsOf e 8 1 = 1 → exec (.zeroClaim n) s = .next (s.failClaim z.leaf 0x0A 2)) ∧
      (bitsOf e 8 1 = 0 → bitsOf e 7 1 = 0 → exec (.zeroClaim n) s = .next (s.claimAnswered z.leaf)) ∧
      (bitsOf e 8 1 = 0 → bitsOf e 7 1 = 1 →
        let fr := bitsOf e 16 36 * 2 ^ 16
        let z1 : ZeroFill := { z with frame := fr, w1 := bitsOf e 5 1 == 1, filling := true }
        let s2 := s.writeMem z.leaf (leBytes 8 (e + 256))
        let s3 := if s.isRemote fr then s2.askPage z.asid fr fr 256 (homeCell z.leaf) (some z.leaf) fun k => (256 * k, .zeroLine) else s2
        (s.checkTarget (s.vdevOf z.asid) fr 65536 = .ok () →
          exec (.zeroClaim n) s = .next { s3.retest z.leaf with fills := s.fills.set n z1 }) ∧
        (∀ cls code fz more, s.checkTarget (s.vdevOf z.asid) fr 65536 = .error (.fault cls code fz more) →
          exec (.zeroClaim n) s = .next (s.failClaim z.leaf cls code fz)))) ∧
    (z.filling = false ∨ (∃ p ∈ asked, open' p) → exec (.zeroFillDone n) s = .next s) ∧
    (z.filling = true → (∀ p ∈ asked, ¬ open' p) →
      ((∀ p ∈ asked, p.refused = false ∧ p.late = false ∧ p.left = []) →
        exec (.zeroFillDone n) s = .next ((cleared (e1 - bitsOf e1 7 1 * 128 - bitsOf e1 8 1 * 256)).claimAnswered z.leaf)) ∧
      ((∃ p ∈ asked, p.refused = true) →
        exec (.zeroFillDone n) s = .next ((cleared (e1 - bitsOf e1 8 1 * 256)).failClaim z.leaf 0x0B 3)) ∧
      ((∀ p ∈ asked, p.refused = false) → (∃ p ∈ asked, p.late = true ∨ p.left ≠ []) → exec (.zeroFillDone n) s =
        .next ((cleared (e1 - bitsOf e1 8 1 * 256)).failClaim z.leaf 0x16 0 none (z.frame / 2 ^ 39)))) ∧
    (∀ (r : RemoteReply) (num : Nat), s.op num = none →
      let this (p : FarPage) : Bool := p.id == num && p.left.contains r.acc
      ((∀ p ∈ s.farPages, this p = false) → exec (.memoryOpPerformed num (some r)) s = .next s) ∧
      ∀ q, s.farPages.find? this = some q →
        let late := q.gone || decide (q.deadline ≤ s.dev.time)
        let q1 := { q with left := q.left.filter (· != r.acc), refused := q.refused || r.refused.isSome, late := q.late || late }
        let t : State := { s with farPages := (s.farPages.map fun p => if p.id == num then q1 else p).filter fun p =>
          !(p.gone && p.left.isEmpty) }
        exec (.memoryOpPerformed num (some r)) s = .next (if late then t.countOrphan q.asid else t)) ∧
    (z.filling = true → s.isRemote z.frame = false → asked = [] → (∀ o ∈ s.memops, o.listed = false) →
      ∃ t, exec (.zeroFillDone n) s = .next t ∧
      (∀ a, inPage a → ¬ inStore z.leaf 8 a → t.byteAt a = 0) ∧
      (∀ a, ¬ inPage a → ¬ inStore z.leaf 8 a → t.byteAt a = s.byteAt a) ∧
      (∀ a, inPage a → t.wordAt a = none) ∧ (∀ a, ¬ inPage a → t.wordAt a = s.wordAt a) ∧
      (∀ l ∈ t.poison, ¬ (memKey z.frame ≤ l ∧ l < memKey z.frame + 65536)) ∧
      t.fills = s.fills.filter (fun y => y.leaf != z.leaf))

/-! ### FENCE and rings -/

/-- R290, R314: FENCE emits port a when its frame has no earlier operation outstanding on its cell, nor a firing that had started and is yet to issue
one, and else waits until those it found are performed, at the wider of their scope and its own. That it waits for a firing that had started and still
walks is the model's choice (log entry 78). -/
def Obligations.FenceWaits : Prop :=
  ∀ (w : OpFields) (s : State) (f : Firing) (t : Tag), outTag w f (s.env f) = .ok t →
    let mine (o : MemOp) : Bool :=
      (o.phase == .accepting || o.phase == .issued || o.phase == .waiting) && o.origin.isNone && o.firing.cell == f.cell &&
        o.firing.asid == f.asid && tagFrame o.firing.tag == tagFrame f.tag && tagGen o.firing.tag == tagGen f.tag
    let started (x : FSet) : Bool :=
      x.sid != f.sid && x.walking && x.asid == f.asid && tagFrame x.tag == tagFrame f.tag && tagGen x.tag == tagGen f.tag
    let ids := (s.memops.filter mine).map MemOp.id
    let sids := ((s.cell f.cell).sets.filter started).map FSet.sid
    let sc := w.mod.extractLsb' 0 2
    let out := [f.passed .a false t]
    f.Kinds (w.fmt == .handle) false false →
      (ids = [] → sids = [] → Commits (.fence w) s f out 0) ∧
      (ids ≠ [] ∨ sids ≠ [] → s.sel = some f →
        let s1 : State :=
          { s with memops := s.memops.map fun o => if ids.contains o.id then { o with scope := wider o.scope sc } else o }
        exec (.fence w) s = .next (s1.hold f (.fence ids sids sc))) ∧
      ∀ ids sids sc x, (s.cell f.cell).findSet f.sid = some x → x.hold = some (.fence ids sids sc) → x.firing = some f →
        (s.cell f.cell).mayCommit f.asid = true → decodeSlot f.word = some (.fence w) →
          let issues (i : Nat) : Prop := (∃ y, (s.cell f.cell).findSet i = some y ∧ y.walking = true) ∨
            ∃ o ∈ s.memops, o.pending = true ∧ o.origin = none ∧ o.firing.cell = f.cell ∧ o.firing.sid = i
          ((∃ i ∈ ids, ∃ o, s.op i = some o ∧ o.pending = true) ∨ (∃ i ∈ sids, issues i) →
            exec (.fenceRelease f.cell f.sid) s = .next s) ∧
          ((∀ i ∈ ids, ∀ o, s.op i = some o → o.pending = false) → (∀ i ∈ sids, ¬ issues i) → ∀ cell1 placed, s.Fits f out cell1 placed →
            exec (.fenceRelease f.cell f.sid) s = .next (s.committed f cell1 placed 0 id))

/-- R315 to R318: BINIT readies the ring its word names, empty; BPUT adds port a's tile behind the filled slots and emits their number; BGET takes the
tile of slot HEAD, whatever kind of token triggers it (the model's choice, log entry 21); each waits while the ring is full or empty. Bad
configurations, rings of another context and, for BPUT, a tile of more than SLOTL lines are BAD_OPERAND. -/
def Obligations.RingsFillAndDrain : Prop :=
  ∀ (w : OpFields) (s : State) (f : Firing) (t : Tag), outTag w f (s.env f) = .ok t →
    let n := (f.word.extractLsb' 64 4).toNat
    let v := (f.val .a).word
    let c := s.cell f.cell
    let fresh : Ring :=
      { base := (v.extractLsb' 0 11).toNat, slotl := (v.extractLsb' 11 9).toNat + 1, nslot := (v.extractLsb' 20 8).toNat + 1, head := 0,
        asid := f.asid, tiles := [] }
    let keep (r : Ring) (st : State) : State := st.modCell f.cell fun x => { x with rings := put n r x.rings }
    let taken (r : Ring) (h : Handle) (d : List Byte) (rest : List (Handle × List Byte)) (st : State) : State :=
      let st1 := keep { r with tiles := rest, head := (r.head + 1) % r.nslot } st
      let v := Val.tile { h with eos := h.eos || f.eos } d
      if s.runsIn f then st1.sendFresh (f.sender st) t v f.outs0 else st1.orphanOuts (f.sender st) [t] v f.outs0
    (f.Scalars → c.badRing n v fresh = true → Traps (.binit w) s f tBAD_OPERAND) ∧
    (f.Scalars → c.badRing n v fresh = false → f.isPoisoned .a = false →
      CommitsWith (.binit w) s f [f.scalarOut t (BitVec.ofNat 64 fresh.nslot)] 0 (keep fresh)) ∧
    (f.Kinds true false false → look n c.rings = none → Traps (.bput w) s f tBAD_OPERAND) ∧
    (look n c.rings = none → Traps (.bget w) s f tBAD_OPERAND) ∧
    ∀ r, look n c.rings = some r →
      (r.asid ≠ f.asid → f.Kinds true false false → Traps (.bput w) s f tBAD_OPERAND) ∧
      (r.asid ≠ f.asid → Traps (.bget w) s f tBAD_OPERAND) ∧
      (r.asid = f.asid → f.Kinds true false false → r.slotl < (f.handle .a).lines → Traps (.bput w) s f tBAD_OPERAND) ∧
      (r.asid = f.asid → f.Kinds true false false → (f.handle .a).lines ≤ r.slotl →
        let after : Ring := { r with tiles := r.tiles ++ [f.tile .a] }
        (r.nslot ≤ r.tiles.length → s.sel = some f → exec (.bput w) s = .next (s.hold f (.bput n))) ∧
        (r.tiles.length < r.nslot → (∀ x ∈ c.sets, x.hold ≠ some (.bput n) ∧ x.hold ≠ some (.bget n)) →
          CommitsWith (.bput w) s f [f.scalarOut t (BitVec.ofNat 64 (r.tiles.length + 1))] 0 (keep after))) ∧
      (r.asid = f.asid → s.MaySend f [outD0 t (.scalar 0 false false) none] →
        (r.tiles = [] → s.sel = some f → exec (.bget w) s = .next (s.hold f (.bget n))) ∧
        (∀ h d rest, r.tiles = (h, d) :: rest → (∀ x ∈ c.sets, x.hold ≠ some (.bget n)) → needLines f [] ≤ 2048 → s.sel = some f →
          exec (.bget w) s = .next (s.committed f c [] (f.pz [.a]) (taken r h d rest)))) ∧
      ∀ x, c.oldestHeld (.bput n) = some x → c.mayCommit x.asid = true → x.firing = some f → decodeSlot f.word = some (.bput w) → r.asid = f.asid →
        f.Kinds true false false → (f.handle .a).lines ≤ r.slotl →
          (r.nslot ≤ r.tiles.length → exec (.bputRelease f.cell n) s = .next s) ∧
          (∀ cell1 placed, r.tiles.length < r.nslot → c.ringWaiters (.bget n) = [] →
            s.Fits f [f.scalarOut t (BitVec.ofNat 64 (r.tiles.length + 1))] cell1 placed →
              exec (.bputRelease f.cell n) s = .next (s.committed f cell1 placed 0 (keep { r with tiles := r.tiles ++ [f.tile .a] }))) ∧
      ∀ x h d rest, c.oldestHeld (.bget n) = some x → c.mayCommit x.asid = true → x.firing = some f →
        decodeSlot f.word = some (.bget w) → r.asid = f.asid → r.tiles = (h, d) :: rest → needLines f [] ≤ 2048 →
          exec (.bgetRelease f.cell n) s = .next (s.committed f c [] (f.pz [.a]) (taken r h d rest))

/-! ### Traps, debugging, time, planes -/

/-- R395, R397 to R400, R403, R406, R407, R153, R154, R156, R157: TRAP raises SOFT with its code; PARK, RESUME, WATCH, UNWATCH, FLAGS, LOADG,
DRAIN and SWAPG, once their own checks pass, hold their firing and put a request before the dispatcher. A poisoned line that WATCH meets in
reading its descriptor is logged (R389). -/
def Obligations.RequestsReachTheDispatcher : Prop :=
  ∀ (w : OpFields) (s : State) (f : Firing) (x : Ctx) (t : Tag), s.sel = some f → s.ctx f.asid = some x →
    outTag w f (s.env f) = .ok t →
    let v := (f.val .a).word
    let asked (i : Instr) (k : ReqKind) : Prop :=
      exec i s = .next { s.hold f .request with
        reqs := (s.hold f .request).reqs ++ [{ kind := k, asid := f.asid, cell := f.cell, sid := f.sid, sent := false }] }
    let planned (i : Instr) (o : PlaneOp) : Prop :=
      exec i s = .next ((s.hold f .request).modCtx f.asid fun y => { y with planeOps := y.planeOps ++ [o] })
    let debug := (s.env f).caps.getLsbD 0 = true
    let named := v.extractLsb' 20 44 = 0 ∧ (v.extractLsb' 0 12).toNat < x.pool.nframes ∧ f.isPoisoned .a = false
    let own := (v.extractLsb' 0 12).toNat = tagFrame f.tag ∧ v.extractLsb' 12 4 = tagGen f.tag
    let d := w.fmt == .handle
    (f.Kinds d false false → exec (.trap w) s = .next (s.raise f (trapOf 0x12 (w.imm.toNat % 256)))) ∧
    (f.Scalars → named → own ∨ debug → asked (.park w) .park) ∧
    (f.Scalars → named → ¬ own → ¬ debug → exec (.park w) s = .next (s.raise f (tACCESS 4 0))) ∧
    (f.Kinds false d (w.mod.getLsbD 1) → v.extractLsb' 51 13 = 0 → (v.extractLsb' 0 16).toNat < x.cr.trapn → f.isPoisoned .a = false →
      asked (.resume w) .resume) ∧
    (f.Scalars → s.watchBad x f.asid (watchOf w f) = false → f.isPoisoned .a = false → f.isPoisoned .b = false →
      let met := s.noteWatch f (watchOf w f)
      (debug → exec (.watch w) s = .next { met.hold f .request with
        reqs := (met.hold f .request).reqs ++ [{ kind := .watch, asid := f.asid, cell := f.cell, sid := f.sid, sent := false }] }) ∧
      (¬ debug → exec (.watch w) s = .next (met.raise f (tACCESS 4 0)))) ∧
    (f.Scalars → (debug → asked (.unwatch w) .unwatch) ∧ (¬ debug → exec (.unwatch w) s = .next (s.raise f (tACCESS 4 0)))) ∧
    (f.Scalars → asked (.flags w) .flags) ∧
    (f.Scalars → planned (.loadg w) (.loadg f.cell f.sid) ∧ planned (.drain w) (.drain f.cell f.sid)) ∧
    (f.Kinds d false false → planned (.swapg w) (.swapg f.cell f.sid))

/-- R399, R400, R405 to R407: the dispatcher decides the request at its turn and the firing commits with it: PARK sets a frame break on a LIVE or
PARKED frame, RESUME resolves an open record and says with which status, FLAGS reads and under CLR clears, WATCH and UNWATCH commit once every
cell has applied them. That FLAGS sets PZ for its own trigger after the value it reads is the model's choice (log entry 43). -/
def Obligations.RequestsDecided : Prop :=
  ∀ (s : State) (n : Nat) (k : ReqKind) (sent : Bool) (f : Firing) (w : OpFields) (x : Ctx) (q : FSet) (t : Tag),
    s.reqs[n]? = some { kind := k, asid := f.asid, cell := f.cell, sid := f.sid, sent := sent } →
    (s.cell f.cell).findSet f.sid = some q → q.firing = some f → (s.cell f.cell).mayCommit f.asid = true → s.ctx f.asid = some x →
    outTag w f (s.env f) = .ok t →
    let s0 : State := { s with reqs := s.reqs.eraseIdx n }
    let v := (f.val .a).word
    let i := (v.extractLsb' 0 12).toNat
    let g := v.extractLsb' 12 4
    let hit := ((x.frame i).st = .live ∨ (x.frame i).st = .parked) ∧ (x.frame i).gen = g
    let fr := x.frame (tagFrame f.tag)
    let ends (i : Instr) (st : State) (o : Out) (fl : Flags) (more : State → State) : Prop :=
      s.MaySend f [o] → ∀ cell1 placed, st.Fits f [o] cell1 placed →
        exec i s = .next (st.committed f cell1 placed fl more)
    (k = .park → f.Scalars → v.extractLsb' 20 44 = 0 → i < x.pool.nframes → f.isPoisoned .a = false →
      (hit → ends (.parkDecided n) s0 (f.scalarOut f.tag 0) 0 fun st => st.setBreak f.asid i g) ∧
      (¬ hit → ends (.parkDecided n) s0 (f.scalarOut f.tag 1) 0 id)) ∧
    (k = .flags → f.Scalars → decodeSlot f.word = some (.flags w) →
      (w.mod.getLsbD 0 = false →
        ends (.flagsDecided n) s0 (f.scalarOut t ((if w.var = 1 then x.par.homeflags else fr.flags).zeroExtend 64)) (f.pz [.a]) id) ∧
      (w.mod.getLsbD 0 = true → w.var = 1 →
        ends (.flagsDecided n) (s0.clearHomeFlags f.asid) (f.scalarOut t (x.par.homeflags.zeroExtend 64)) (f.pz [.a]) id) ∧
      (w.mod.getLsbD 0 = true → w.var ≠ 1 →
        ends (.flagsDecided n) (s0.setFrame f.asid (tagFrame f.tag) { fr with flags := 0 })
          (f.scalarOut t (fr.flags.zeroExtend 64)) (f.pz [.a]) id)) ∧
    (k = .resume → decodeSlot f.word = some (.resume w) → resumeCheck w x f (s.env f) = .ok t →
      (s.resumeRec x f = none → ends (.resumeDecided n) s0 (f.scalarOut t 1) 0 id) ∧
      ∀ r, s.resumeRec x f = some r →
        ends (.resumeDecided n) s0 (f.scalarOut t (BitVec.ofNat 64 (s.resolveStatus f.asid r (resumeForm w f)))) 0
          fun st => (st.resolve f.asid r (resumeForm w f)).2) ∧
    (∀ r : TrapRec, r.op = none →
      let form := resumeForm w f
      let status := s.resolveStatus f.asid r form
      (r.kind = 3 → w.var = 0 ∨ w.var = 1 → status = 2) ∧ (r.kind ≠ 3 → r.trap.cls = 0x17 → w.var = 1 → status = 2) ∧
      (r.kind ≠ 3 → r.trap.cls ≠ 0x17 → w.var = 1 → (s.wordSide f.asid r).isSome = true → s.wordAcc f.asid r = none → status = 2) ∧
      (r.kind ≠ 3 → r.trap.cls ≠ 0x17 → w.var = 1 → (s.wordSide f.asid r = none ∨ (s.wordAcc f.asid r).isSome = true) →
        let fits (side : Nat) (p : Port) : Bool := (f.opnd p).all fun o => (s.outKinds f.asid r)[side]? == some o.val.isTile
        status = if fits 0 .b && fits 1 .c then 0 else 3) ∧
      (r.kind ≠ 3 → w.var = 0 → status = 0) ∧ (w.var ≠ 0 → w.var ≠ 1 → status = 0)) ∧
    (k = .watch → decodeSlot f.word = some (.watch w) →
      let slot := w.imm.toNat % 8
      let moving := s.bcasts.any fun b => b.asid == f.asid && match b.kind with | .watch j _ => j == slot | _ => false
      (sent = false → exec (.watchArmApplied n) s =
        .next (State.armWatch { s with reqs := s.reqs.set n { kind := k, asid := f.asid, cell := f.cell, sid := f.sid, sent := true } }
          f.asid [slot] (some (watchOf w f)))) ∧
      (sent = true → moving = true → exec (.watchArmApplied n) s = .next s) ∧
      (sent = true → moving = false → ends (.watchArmApplied n) s0 (f.passed .a false t) 0 id)) ∧
    (k = .unwatch → decodeSlot f.word = some (.unwatch w) →
      let slots := if w.imm.getLsbD 3 then List.range 8 else [w.imm.toNat % 8]
      let moving := s.bcasts.any fun b => b.asid == f.asid && match b.kind with | .watch j _ => slots.contains j | _ => false
      (sent = false → exec (.unwatchApplied n) s =
        .next (State.armWatch { s with reqs := s.reqs.set n { kind := k, asid := f.asid, cell := f.cell, sid := f.sid, sent := true } }
          f.asid slots none)) ∧
      (sent = true → moving = true → exec (.unwatchApplied n) s = .next s) ∧
      (sent = true → moving = false → ends (.unwatchApplied n) s0 (f.passed .a false t) 0 id))

/-- R402, R408, R423, R424: TRACE refuses poison, appends one record to the FIFO or counts a drop, and passes port a on; TIME emits device time in
nanoseconds, or the cycle count. That the FIFO's capacity is taken from TRACESIZE is the model's choice (log entry 43).
R159: QUERY emits the counter its scope and index name, of a cell of the region, the region or the context; BAD_OPERAND for any other index. That a
scope of 3 to 15 is BAD_OPERAND too, and that index 1 of a cell leaves out what an open record holds, are the model's choice (log entries 79, 80).
R429: one step of a sillage walk writes its step record, and then ends it with its reason (1 at the depth, 3 at an injected token, 4 at a remote
one, 2 with no record) or goes on with the youngest record its token's producer fields match. -/
def Obligations.TraceTimeQueryAndSillage : Prop :=
  (
    ∀ (w : OpFields) (s : State) (f : Firing) (t : Tag), outTag w f (s.env f) = .ok t →
      let d := w.fmt == .handle
      let record (ns : Nat) : List Byte :=
        leBytes 8 ns ++ leBytes 8 f.tag.toNat ++ leBytes 8 (f.val .a).word.toNat ++ leBytes 2 (w.imm.toNat % 65536) ++ leBytes 2 f.cell ++
          leBytes 2 f.slot ++ leBytes 1 (if d then 2 else 1) ++ [0]
      (f.Kinds d false false → f.isPoisoned .a = true → Traps (.trace w) s f (trapOf 0x0F 5)) ∧
      (f.Kinds d false false → f.isPoisoned .a = false →
        CommitsWith (.trace w) s f [f.passed .a false t] 0 fun st => st.appendTrace f.asid (record (st.dev.time / 42))) ∧
      (f.Scalars →
        Commits (.time w) s f [f.scalarOut t (BitVec.ofNat 64 (if w.var = 0 then s.dev.time / 42 else s.dev.cycles))] (f.pz [.a])) ∧
      ∀ (x : Ctx) (asid : Nat) (rec : List Byte), s.ctx asid = some x → 64 ≤ x.cr.tracesize → s.memops = [] →
        let a := x.cr.tracebase
        let wr := s.readNat a 8
        let rd := s.readNat (a + 8) 8
        let cap := (x.cr.tracesize - 64) / 32
        (rd ≤ wr → wr < rd + cap →
          s.appendTrace asid rec = (s.writeMem (a + 64 + 32 * (wr % cap)) rec).writeMem a (leBytes 8 (wr + 1))) ∧
        (wr < rd ∨ rd + cap ≤ wr → s.appendTrace asid rec = s.writeMem (a + 16) (leBytes 8 (s.readNat (a + 16) 8 + 1)))) ∧
  (
    ∀ (w : OpFields) (s : State) (f : Firing) (t : Tag) (x : Ctx), f.Scalars → outTag w f (s.env f) = .ok t → s.ctx f.asid = some x →
      let scope := w.imm.toNat / 4096 % 16
      let i := w.imm.toNat % 4096
      let c := (f.val .a).word.toNat
      let k := s.cell c
      let gives (n : Nat) (fl : Flags) : Prop :=
        let v := BitVec.ofNat 64 n
        Commits (.query w) s f [f.scalarOut t (if w.fmt = .z32 then (v.extractLsb' 0 32).zeroExtend 64 else v)] fl
      (scope = 0 → c < 2048 → c ∈ x.cr.region →
        (i ≤ 5 → f.isPoisoned .a = true → Traps (.query w) s f (tPOISON 1)) ∧
        (f.isPoisoned .a = false →
          (i = 0 → gives k.arrivals.toNat 0) ∧
          (i = 1 → gives ((k.entries.filter fun e => e.tok.asid == f.asid).length +
            ((k.sets.filter fun y => y.asid == f.asid).map fun y => y.args.length).sum) 0) ∧
          (i = 2 → gives (x.ways.filter fun y => y.cell == c).length 0) ∧
          (i = 3 → gives k.freeLines 0) ∧
          (i = 4 → gives (k.loops.filter fun l => l.asid == f.asid).length 0) ∧
          (i = 5 → gives ((look f.asid k.fired).getD 0) 0)) ∧
        (5 < i → Traps (.query w) s f tBAD_OPERAND)) ∧
      (scope = 0 → c ∉ x.cr.region → Traps (.query w) s f tBAD_OPERAND) ∧
      (scope = 1 → i = 0 → gives x.cr.region.length (f.pz [.a])) ∧
      (scope = 1 → i = 1 → gives (x.cgen.toNat + if x.active then 16 else 0) (f.pz [.a])) ∧
      (scope = 1 → ∀ j < 4, i = 0x10 + j →
        gives ((if x.active then x.mask1 else x.mask0).toNat / 2 ^ (64 * j) % 2 ^ 64) (f.pz [.a])) ∧
      (scope = 1 → i = 0x20 → gives (x.wdog / 42) (f.pz [.a])) ∧
      (scope = 2 → i = 0 → gives x.fired (f.pz [.a])) ∧
      (scope = 2 → i = 1 → gives x.pool.orphans.toNat (f.pz [.a])) ∧
      (scope = 2 → i = 2 → gives x.pool.sweeps.toNat (f.pz [.a])) ∧
      (scope = 2 → i = 3 →
        gives (x.pool.peak % 65536 + x.pool.maxd % 16 * 2 ^ 16 + x.pool.gfree % 65536 * 2 ^ 32) (f.pz [.a])) ∧
      (scope = 2 → i = 4 → gives x.par.purged.toNat (f.pz [.a])) ∧
      (scope = 2 → i = 5 → gives x.ways.length (f.pz [.a])) ∧
      (scope = 1 → 1 < i → i ≠ 0x20 → (i < 0x10 ∨ 0x13 < i) → Traps (.query w) s f tBAD_OPERAND) ∧
      (scope = 2 → 5 < i → Traps (.query w) s f tBAD_OPERAND) ∧
      (2 < scope → Traps (.query w) s f tBAD_OPERAND)) ∧
  (
    ∀ (s : State) (n asid i : Nat) (w : SillageWalk), s.allWalks[n]? = some (asid, i, w) →
      let fr := w.fr
      let k := w.step + 1
      let ns := s.dev.time / 42
      let step : List Byte :=
        leBytes 8 ns ++ leBytes 8 fr.tag.toNat ++
          leBytes 8 (BitVec.ofNat 64 (w.id + w.step * 2 ^ 16 + portCode fr.lport * 2 ^ 24 + fr.ctime.toNat * 2 ^ 32)).toNat ++
          leBytes 2 (if w.ambig then 256 else 0) ++ leBytes 2 w.cell ++ leBytes 2 fr.slot ++ leBytes 1 0x10 ++ [0]
      let stop (reason : Nat) : List Byte :=
        leBytes 8 ns ++ leBytes 8 0 ++ leBytes 8 (BitVec.ofNat 64 (w.id + k * 2 ^ 16)).toNat ++ leBytes 2 reason ++ leBytes 2 fr.pcell ++
          leBytes 2 fr.pslot ++ leBytes 1 0x11 ++ [0]
      let s1 := s.appendTrace asid step
      let found := (s1.cell fr.pcell).records.filter fun r => r.asid == asid && r.slot == fr.pslot && r.ctime == fr.ptime
      let ends (reason : Nat) : Prop := exec (.sillageWalkStep n) s =
        .next ((s1.appendTrace asid (stop reason)).modCtx asid fun x => { x with walks := x.walks.eraseIdx i })
      let on := k < w.depth
      (¬ on → ends 1) ∧ (on → fr.inj = true → ends 3) ∧ (on → fr.inj = false → fr.remote = true → ends 4) ∧
        (on → fr.inj = false → fr.remote = false → found = [] → ends 2) ∧
        ∀ m ms, on → fr.inj = false → fr.remote = false → found = m :: ms →
          exec (.sillageWalkStep n) s = .next (s1.modCtx asid fun x =>
            { x with walks := x.walks.set i { w with step := k, cell := fr.pcell, fr := ms.getLastD m, ambig := !ms.isEmpty } }))

/-- R151, R154, R156, R157, R158: the plane operation at the head of a context's queue is done: LOADG writes the inactive plane and emits a status;
DRAIN, once the region is quiet, emits the counts; SWAPG, once it is quiet, begins to flip its cells, or raises STRAY_TOKEN, and commits when every
cell has flipped; a SPAWN that waits for its graph goes on once the graph is resident, or raises BAD_OPERAND. That such a SPAWN sends to its own
destinations and to every entry port of the graph is the model's choice (log entry 41), and so is what a flip and a purge count (log entry 40), and that one
whose graph has become resident meanwhile reads nothing more of it (log entry 81). -/
def Obligations.PlaneOperationsDone : Prop :=
  ∀ (s : State) (asid : Nat) (x : Ctx) (q : FSet) (f : Firing) (w : OpFields) (t : Tag) (rest : List PlaneOp), s.ctx asid = some x →
    f.asid = asid → (s.cell f.cell).findSet f.sid = some q → q.firing = some f → outTag w f (s.env f) = .ok t →
    let popped (st : State) : State := st.modCtx asid fun y => { y with planeOps := y.planeOps.tail }
    let word := BitVec.ofNat 32 (s.parkedCount asid) ++ BitVec.ofNat 32 (s.unformed asid)
    let flipped (purge : Bool) : State :=
      let s1 := s.setCtx asid
        { x with active := !x.active, cgen := x.cgen + 1, purgeWindow := purge, planeOps := .flipping f.cell f.sid :: rest }
      let s2 := if purge then s1.purgePark asid else s1
      State.modCell { s2 with bcasts := s2.bcasts ++ [{ asid := asid, kind := .flip purge, left := x.cr.region }] } f.cell fun c =>
        c.modSet f.sid fun y => { y with hold := some .flipping }
    (x.planeOps = .loadg f.cell f.sid :: rest → decodeSlot f.word = some (.loadg w) →
      (∀ s1 r, s.fetchStream asid (w.imm.toNat % 256) = .ok s1 (.error r) →
        let out := f.scalarOut t (BitVec.ofNat 64 r)
        s1.MaySend f [out] → ∀ cell1 placed, (popped s1).Fits f [out] cell1 placed →
          exec (.loadgApply asid) s = .next ((popped s1).committed f cell1 placed (f.pz [.a]) id)) ∧
      (∀ s1 g m ws, s.fetchStream asid (w.imm.toNat % 256) = .ok s1 (.ok (g, m, ws)) →
        let loaded := ((popped s1).measure asid m).applyStream asid (!x.active) g ws
        s1.MaySend f [f.scalarOut t 0] → ∀ cell1 placed, loaded.Fits f [f.scalarOut t 0] cell1 placed →
          exec (.loadgApply asid) s = .next (loaded.committed f cell1 placed (f.pz [.a]) id))) ∧
    (x.planeOps = .drain f.cell f.sid :: rest → decodeSlot f.word = some (.drain w) →
      (s.quiet asid = false ∨ x.dry ≠ .none → exec (.drainQuiescent asid) s = .next s) ∧
      (s.quiet asid = true → x.dry = .none → s.MaySend f [f.scalarOut t word] → ∀ cell1 placed,
        (popped s).Fits f [f.scalarOut t word] cell1 placed →
          exec (.drainQuiescent asid) s = .next ((popped s).committed f cell1 placed (f.pz [.a]) id))) ∧
    (x.planeOps = .swapg f.cell f.sid :: rest → decodeSlot f.word = some (.swapg w) →
      let purge := w.mod.getLsbD 0
      (s.quiet asid = false ∨ x.dry ≠ .none → exec (.swapgFlip asid) s = .next s) ∧
      (s.quiet asid = true → x.dry = .none → s.unformed asid + s.parkedCount asid ≠ 0 → purge = false →
        exec (.swapgFlip asid) s = .next (s.raise f (trapOf 0x08 1))) ∧
      (s.quiet asid = true → x.dry = .none → s.unformed asid + s.parkedCount asid = 0 ∨ purge = true →
        s.MaySend f [f.passed .a false t] → exec (.swapgFlip asid) s = .next (flipped purge))) ∧
    (x.planeOps = .flipping f.cell f.sid :: rest → decodeSlot f.word = some (.swapg w) →
      let moving := ∃ b ∈ s.bcasts, b.asid = asid ∧ b.left ≠ [] ∧ ∃ p, b.kind = .flip p
      (moving → exec (.swapgFlip asid) s = .next s) ∧
      (¬ moving → s.MaySend f [f.passed .a false t] → ∀ cell1 placed, (popped s).Fits f [f.passed .a false t] cell1 placed →
        exec (.swapgFlip asid) s = .next ((popped s).committed f cell1 placed 0 id))) ∧
    (∀ child, x.planeOps = .residency f.cell f.sid :: rest → q.hold = some (.residency child) →
      (∀ s1, s.fetchGraph asid (entryOf f) = .bad s1 → exec (.residencyApplyDone asid) s = .next (s1.raise f tBAD_OPERAND)) ∧
      (∀ s1 s2 ds, s.fetchGraph asid (entryOf f) = .ok s1 none → s1.entryPorts asid (entryOf f) = .ok s2 ds →
        (s2.runsIn f && s2.badDests asid f.outs0) = false →
          exec (.residencyApplyDone asid) s = .next (spawnCommit (popped s2) { f with outs0 := f.outs0 ++ ds } child)) ∧
      (∀ s1 s2 ws ds, s.fetchGraph asid (entryOf f) = .ok s1 (some ws) → s1.entryPorts asid (entryOf f) = .ok s2 ds →
        (s2.runsIn f && s2.badDests asid f.outs0) = false →
          exec (.residencyApplyDone asid) s =
            .next (spawnCommit (popped (s2.applyStream asid x.active (entryOf f) ws)) { f with outs0 := f.outs0 ++ ds } child)))

/-- R103, R158, R380, R398, R405, R411, R430, R473: a broadcast has its effect on a cell when it reaches it, once: parking withdraws the frame's
tokens, a sweep removes what the ended frame left on a cell of the region and its home, and on any other home, a flip changes plane and cgen, and
breaks, watch slots and stops take hold. The model's choice: a flip waits for the sets that have formed on the cell and for what they have issued, and a
stop for a flip that was sent before it (log entry 76). -/
def Obligations.BroadcastsArrive : Prop :=
  ∀ (s : State) (n asid c : Nat) (left : List Nat),
    let sent (k : BcastKind) : Prop := s.bcasts[n]? = some { asid := asid, kind := k, left := left }
    let rest := left.filter fun d => d != c
    let told := s.bcasts.modify n fun b => { b with left := b.left.filter fun d => d != c }
    let s1 : State := { s with bcasts := if rest.isEmpty then told.eraseIdx n else told }
    (∀ fr gen clear, sent (.park fr gen clear) →
      (c ∉ left → exec (.parkingBroadcastArrival n c) s = .next s) ∧
      let g := BitVec.ofNat 4 gen
      let s2 := if clear then s1.modCell c fun y => { y with fbreaks := y.fbreaks.filter (· != (asid, fr, gen)) } else s1
      let f := s.frameOf asid (frameTag g fr)
      (c ∈ left → f.st = .parked → f.gen = g → exec (.parkingBroadcastArrival n c) s = .next (s2.withdraw asid fr g c)) ∧
      (c ∈ left → f.st ≠ .parked ∨ f.gen ≠ g → exec (.parkingBroadcastArrival n c) s = .next s2)) ∧
    (∀ fr gen, sent (.sweep fr gen) → c ∈ left → s.away asid = false →
      let g := BitVec.ofNat 4 gen
      exec (.sweepBroadcastArrival n c) s =
        .next (if (s1.region asid).contains c then s1.sweepCell asid fr g c else s1.sweepHomes asid fr g (· == c))) ∧
    (∀ purge, sent (.flip purge) → c ∈ left →
      let drying := ∃ x, s.ctx asid = some x ∧ x.dry ≠ .none
      let waits := (∃ q ∈ (s.cell c).sets, q.asid = asid ∧
          (q.walking = true ∨ ((s.cell c).stops.contains asid = false ∧ q.hold = none ∧ q.snap = none))) ∨
        ∃ o ∈ s.memops, o.firing.asid = asid ∧ o.firing.cell = c ∧ o.origin = none ∧ o.phase ≠ .abandoned ∧
          ¬ (o.listed = true ∧ o.phase ≠ .accepting ∧ drying)
      (waits → exec (.planeFlipArrival n c) s = .next s) ∧
        (¬ waits → exec (.planeFlipArrival n c) s = .next ((if purge then s1.purgeCell asid c else s1).flipCell asid c))) ∧
    (∀ fr gen x, sent (.frameBreak fr gen) → c ∈ left →
      (∀ b ∈ s.bcasts.take n, b.asid = asid → b.kind = .park fr gen true → c ∉ b.left) → s.ctx asid = some x →
      let t := frameTag (BitVec.ofNat 4 gen) fr
      let stands := (fr, gen) ∈ x.fbreaks ∧ frameCurrent (s.frameOf asid t) t = true
      (stands → exec (.frameBreakArrival n c) s = .next (s1.modCell c fun y =>
        { y with fbreaks := y.fbreaks.filter (· != (asid, fr, gen)) ++ [(asid, fr, gen)] })) ∧
        (¬ stands → exec (.frameBreakArrival n c) s = .next s1)) ∧
    (∀ k v, sent (.watch k v) → c ∈ left →
      (∀ b ∈ s.bcasts.take n, b.asid = asid → (∃ u, b.kind = .watch k u) → c ∉ b.left) →
        exec (.watchArmArrival n c) s = .next (s1.modCell c fun y =>
          { y with watch := y.watch.filter (fun p => !(p.1 == asid && p.2.slot == k)) ++
              (match v with | some u => [(asid, u)] | none => []) })) ∧
    (sent .stop → c ∈ left →
      (∀ b ∈ s.bcasts.take n, b.asid = asid → (∃ p, b.kind = .flip p) → c ∉ b.left) →
      exec (.stopBroadcastArrival n c) s = .next (s1.modCell c fun y => { y with stops := insertNat asid y.stops })) ∧
    (∀ slot on cmd, sent (.breakBit c slot on cmd) → c ∈ left → s.away asid = false →
      (∀ b ∈ s.bcasts.take n, b.asid = asid → ∀ u y, b.kind ≠ .breakBit c slot u y) →
        exec (.breakBitApplied n c) s = .next ((s1.modCell c fun y =>
          { y with breaks := if on then insertNat slot y.breaks else y.breaks.filter (fun d => d != slot) }).complete cmd 0x17 0 0))

/-! ### Attars -/

/-- R252, R253, R269, R272 to R274: XOP without a binding that admits its word is ILLEGAL_OP; without its routine it takes a bank; with a failed load it is
ATTAR_FAULT code 3; and with its routine resident it commits what the routine leaves. Banks are loaded for the waiting sets in the order they formed. A
bank load measures and checks the routine, and logs the poisoned lines it reads with the slot of the set it is for. The model's choices: a failed bank is
free at the next selection, the firing that needs a routine outside the virtual device freezes it with cause 4, and the binding entry is looked at at each
read (log entry 33); the class of that firing's record is ACCESS (log entry 64). -/
def Obligations.AttarsRun : Prop :=
  (∀ (n : BitVec 6) (w : OpFields) (s : State) (f : Firing), s.sel = some f →
    let s0 := s.noteBinding f.asid n.toNat f.cell f.slot
    (s.binding f.asid n.toNat = none → exec (.xop n w) s = .next (s0.raise f tILLEGAL_OP)) ∧
    ∀ b, s.binding f.asid n.toNat = some b →
      (b.admits w = false → exec (.xop n w) s = .next (s0.raise f tILLEGAL_OP)) ∧
      (b.admits w = true → (s.cell f.cell).bankOf f.asid n.toNat = none → ∀ q m, s.firstLoad f.cell = some (q, m) →
        let bank : Bank := { asid := q.asid, xop := m, words := [], pin := some q.sid, st := .loading, slot := q.slot }
        let banks := (s.cell f.cell).banks
        let load (l : List Bank) : Prop := exec (.xop n w) s = .next (s.setCell f.cell { s.cell f.cell with banks := l ++ [bank] })
        (∀ y ∈ (s.cell f.cell).sets, (s.wantsBank f.cell y).isSome = true → ¬ y.age < q.age) ∧
          (banks.length < 16 → load banks) ∧
          (∀ v, 16 ≤ banks.length → banks.find? (fun y => y.st != .loading && !(s.cell f.cell).pinned y) = some v →
            load (banks.filter fun y => y != v)) ∧
          (16 ≤ banks.length → (∀ y ∈ banks, y.st = .loading ∨ (s.cell f.cell).pinned y = true) → exec (.xop n w) s = .next s)) ∧
      ∀ k, b.admits w = true → (s.cell f.cell).bankOf f.asid n.toNat = some k →
        (k.st = .loading → exec (.xop n w) s = .next s) ∧
        (k.st = .failed →
          exec (.xop n w) s =
            .next ((s0.modCell f.cell fun c => c.dropBank f.asid n.toNat).raise f (trapOf 0x13 3))) ∧
        (k.st = .resident →
          let ran := evalXop b k.words w s0 f (s0.env f)
          let used (st : State) : State := st.modCell f.cell fun c =>
            { c with banks := c.banks.filter (fun y => !(y.asid == k.asid && y.xop == k.xop)) ++
                [{ k with pin := if k.pin = some f.sid then none else k.pin }] }
          (∀ t, ran = .error t → (t.need = [] ∨ (needLines f t.need ≤ 2048 ∧ (s0.cell f.cell).canReserve f.sid t.need = true)) →
            exec (.xop n w) s = .next (used (s0.raise f { t with need := [] }))) ∧
          (∀ outs fl cell1 placed, ran = .ok (⟨outs, fl⟩, none) → s0.Fits f outs cell1 placed →
            exec (.xop n w) s = .next (used (s0.committed f cell1 placed fl id))) ∧
          (∀ outs fl cell1 placed i a, ran = .ok (⟨outs, fl⟩, some (i, a)) → s0.Fits f outs cell1 placed →
            exec (.xop n w) s = .next (used (s0.committed f cell1 placed fl fun st => st.setAccAt f i a))))) ∧
  ∀ (s : State) (c i : Nat) (b : Bank) (x : Ctx) (e : Binding), ((s.cell c).banks.filter fun y => y.st == .loading)[i]? = some b →
    s.ctx b.asid = some x → s.binding b.asid b.xop = some e →
      let pa := x.cr.attarbase + 5120 + e.off
      let noted := s.noteBinding b.asid b.xop c b.slot
      let data := noted.readMem pa (8 * e.len)
      let raw := (chunks 8 e.len data).map fun y => BitVec.ofNat 64 (leNat y)
      let good := sha384 data = e.meas ∧ attarCheck e raw (x.par.caps.getLsbD 0) = true
      let ends (st : State) (y : Bank) : Prop := exec (.attarBankLoad c i) s = .next (st.modCell c fun z => z.setBank y)
      (x.cr.attarsize < 5120 + e.off + 8 * e.len → ends noted { b with st := .failed }) ∧
      (5120 + e.off + 8 * e.len ≤ x.cr.attarsize → s.owns x.cr.vdev pa (8 * e.len) = false →
        (∀ sid ∈ b.pin, (s.cell c).findSet sid = none) →
        ends (noted.freeze { cause := 4, vdev := x.cr.vdev, asid := some b.asid, cell := c, slot := b.slot, tag := 0, addr := 0 })
          { b with st := .failed }) ∧
      (5120 + e.off + 8 * e.len ≤ x.cr.attarsize → s.owns x.cr.vdev pa (8 * e.len) = true → good →
        ends ((noted.logArea b.asid pa (8 * e.len) c b.slot).measure b.asid e.meas) { b with st := .resident, words := raw }) ∧
      (5120 + e.off + 8 * e.len ≤ x.cr.attarsize → s.owns x.cr.vdev pa (8 * e.len) = true → ¬ good →
        ends (noted.logArea b.asid pa (8 * e.len) c b.slot) { b with st := .failed }) ∧
      (∀ sid q, 5120 + e.off + 8 * e.len ≤ x.cr.attarsize → s.owns x.cr.vdev pa (8 * e.len) = false → b.pin = some sid →
        (s.cell c).findSet sid = some q →
          exec (.attarBankLoad c i) s = .next ((noted.modCell c fun z => z.dropBank b.asid b.xop).raiseCause (noted.firingOf c q).1 4 0))

/-- R259 to R268: what each of the 36 micro-operations does. The lane operations give every lane its value with its flags, rounded once or fitted with SAT from MOD[3]; MK is
read by MSEL, MSTR and MRED alone; MTRAP raises SOFT, MEND ends the routine, MLOOP and MBRNZ go to their target or on. A tile or an accumulator row that is not there is
ATTAR_FAULT code 2 or 4. The model's choices: MLDR and MACCW flush a subnormal under MOD[3] (log entries 97 and 98). -/
def Obligations.MicroOperations : Prop :=
  ∀ (e : RunEnv) (r : Run) (u : MicroWord) (code entries : Nat), microOk code entries u = true → code ≤ 256 →
    let ro := microRound e r u
    let a := r.lane u.sa
    let b := r.lane u.sb
    let c := r.lane u.sc
    let real (x : Nat) : FV := readF .f32 e.ftz x
    let fi := if u.mf = 1 then Fmt.s32 else .z32
    let int (x : Nat) : Int := readInt fi x
    let fits := fitted fi e.ftz
    let rounded (l : Nat) (v : FV × Flags) : Nat × Flags := ((deliver .f32 ro l v.1).1, v.2 ||| (deliver .f32 ro l v.1).2)
    let lanes := WritesLanes e r u
    let stops (t : Trap) : Prop := microOp e r u = .error t
    let imm := u.imm.toNat
    let const : BitVec 32 := if u.mf = 0 then u.imm.zeroExtend 32 <<< 1 else if u.mf = 1 then u.imm.signExtend 32 else u.imm.zeroExtend 32
    let counter (x : Nat) : BitVec 32 := BitVec.ofNat 32 x &&& 0x303F01FF
    -- the operand registers (R256, R258)
    (∀ l < 64, (∀ i, r.lane (.m i) l = ((r.m.getD i.toNat []).getD l 0).toNat) ∧ (∀ i, r.lane (.q i) l = (r.q.getD i.toNat 0).toNat) ∧ r.lane .z l = 0) ∧
    (ro.rm = Rm.ofMod (if u.rnd = 7 then e.mod else u.rnd.zeroExtend 4) ∧ ro.ftz = e.mod.getLsbD 3 ∧ ∀ l, ro.rnd l = e.rand (r.n * 2 ^ 22 + l)) ∧
    -- moves (R260)
    (u.mop = .mnop → Leaves e r u r) ∧
    (u.mop = .mimm →
      (∀ i, u.dst = .m i → Leaves e r u { r with m := r.m.set i.toNat (List.replicate 64 const) }) ∧
      (∀ i, u.dst = .q i → Leaves e r u { r with q := r.q.set i.toNat const }) ∧
      (∀ i, u.dst = .ac i → Leaves e r u { r with ac := r.ac.set i.toNat (counter imm) }) ∧
      (∀ i, u.dst = .lc i → Leaves e r u { r with lc := r.lc.set i.toNat (BitVec.ofNat 32 imm) }) ∧
      (u.dst = .mk → ∃ k : BitVec 64, Leaves e r u { r with mask := k } ∧ ∀ l < 64, k.getLsbD l = decide (l < imm))) ∧
    (u.mop = .mmov →
      (∀ i j, u.dst = .m i → u.sa = .m j → lanes fun l => (a l, 0)) ∧
      (∀ i, u.dst = .m i → u.sa = .mk → lanes fun l => (if r.mask.getLsbD l then 1 else 0, 0)) ∧
      (u.dst = .mk → ∃ k : BitVec 64, Leaves e r u { r with mask := k } ∧ ∀ l < 64, k.getLsbD l = decide (a l ≠ 0)) ∧
      (∀ i, u.dst = .q i → Leaves e r u { r with q := r.q.set i.toNat (BitVec.ofNat 32 (r.scal u.sa)) }) ∧
      (∀ i, u.dst = .ac i → Leaves e r u { r with ac := r.ac.set i.toNat (counter (r.scal u.sa)) }) ∧
      (∀ i, u.dst = .lc i → Leaves e r u { r with lc := r.lc.set i.toNat (BitVec.ofNat 32 (r.scal u.sa)) })) ∧
    (u.mop = .mbcst → lanes fun _ => (a (imm % 64), 0)) ∧
    -- tile access (R261)
    (u.mop = .mldr →
      let row := r.scal u.sa / 2 ^ 16 % 64
      let col := r.scal u.sa % 512
      let view := if r.scal u.sa / 2 ^ 28 % 4 = 3 then e.result.map fun v => { v with grid := r.grid } else (e.ports[r.scal u.sa / 2 ^ 28 % 4]?).join
      (view = none → stops (trapOf 0x13 2)) ∧
      ∀ v, view = some v → attarFmt v.fmt = true → lanes fun l =>
        if v.cols ≤ col + l ∨ v.valid ≤ row then (0, 0)
        else if Enc.Fmt.isInt v.fmt then (((readInt v.fmt (cellOf v.grid row (col + l))) % (2 ^ 32 : Nat)).toNat, 0)
        else toFloat .f32 .rne e.ftz 0 (readF v.fmt e.ftz (cellOf v.grid row (col + l)))) ∧
    (u.mop = .mstr →
      let row := r.scal u.dst / 2 ^ 16 % 64
      let col := r.scal u.dst % 512
      (r.scal u.dst / 2 ^ 28 % 4 ≠ 3 ∨ e.result = none → stops (trapOf 0x13 2)) ∧
      ∀ v, r.scal u.dst / 2 ^ 28 % 4 = 3 → e.result = some v → attarFmt v.fmt = true →
        let elem (l : Nat) : Nat × Flags := if Enc.Fmt.isInt v.fmt then fitted v.fmt e.ftz (readInt (if Enc.Fmt.signed v.fmt then .s32 else .z32) (a l))
          else toFloat v.fmt ro.rm e.ftz (ro.rnd l) (real (a l))
        let on (l : Nat) : Prop := l < 64 ∧ r.mask.getLsbD l = true ∧ col + l < v.cols ∧ row < v.valid
        ∃ x g, microOp e r u = .ok x ∧ x.run = { r with grid := g } ∧ x.jump = none ∧ x.fin = false ∧
          (∀ l fl, (l, fl) ∈ x.fl ↔ on l ∧ fl = (elem l).2 ∧ fl ≠ 0) ∧
          (∀ l, on l → row < r.grid.length → col + l < (r.grid.getD row []).length → cellOf g row (col + l) = (elem l).1) ∧
          ∀ i j, (¬ ∃ l, on l ∧ i = row ∧ j = col + l) → cellOf g i j = cellOf r.grid i j) ∧
    (u.mop = .mstep → ∀ i, u.dst = .ac i → ∃ k : BitVec 32, Leaves e r u { r with ac := r.ac.set i.toNat k } ∧
      k.toNat = r.scal u.dst / 2 ^ 28 % 4 * 2 ^ 28 +
        ((((r.scal u.dst / 2 ^ 16 % 64 : Nat) : Int) + (u.imm.extractLsb' 16 15).toInt) % 64).toNat * 2 ^ 16 +
        ((((r.scal u.dst % 512 : Nat) : Int) + (u.imm.extractLsb' 0 16).toInt) % 512).toNat) ∧
    -- lane arithmetic (R262)
    (u.mf = 0 →
      (u.mop = .madd → lanes fun l => rounded l (fvAdd ro.rm (real (a l)) (real (b l)))) ∧
      (u.mop = .msub → lanes fun l => rounded l (fvAdd ro.rm (real (a l)) (real (b l)).negate)) ∧
      (u.mop = .mmul → lanes fun l => rounded l (fvMul (real (a l)) (real (b l)))) ∧
      (u.mop = .mfma → lanes fun l => rounded l (fvFma ro.rm (real (a l)) (real (b l)) (real (c l)))) ∧
      (u.mop = .mmin → lanes fun l => fMinMax .f32 e.ftz false (a l) (b l)) ∧
      (u.mop = .mmax → lanes fun l => fMinMax .f32 e.ftz true (a l) (b l)) ∧
      (u.mop = .mabs → lanes fun l => (a l % 2 ^ 31, 0)) ∧
      (u.mop = .mneg → lanes fun l => ((a l + 2 ^ 31) % 2 ^ 32, 0)) ∧
      (u.mop = .mrcp → lanes fun l => rounded l (fvDiv (.fin false 1 1) (real (a l)))) ∧
      (u.mop = .mrsq → lanes fun l => rounded l (fvRsqrt (real (a l)))) ∧
      (u.mop = .mexp2 → lanes fun l => vexp2 .f32 ro l (real (a l))) ∧
      (u.mop = .mlog2 → lanes fun l => vlog2 .f32 ro l (real (a l)))) ∧
    (u.mf ≠ 0 →
      (u.mop = .madd → lanes fun l => fits (int (a l) + int (b l))) ∧
      (u.mop = .msub → lanes fun l => fits (int (a l) - int (b l))) ∧
      (u.mop = .mmul → lanes fun l => fits (int (a l) * int (b l))) ∧
      (u.mop = .mfma → lanes fun l => fits (int (a l) * int (b l) + int (c l))) ∧
      (u.mop = .mmin → lanes fun l => fits (min (int (a l)) (int (b l)))) ∧
      (u.mop = .mmax → lanes fun l => fits (max (int (a l)) (int (b l)))) ∧
      (u.mop = .mabs → lanes fun l => fits (int (a l)).natAbs) ∧
      (u.mop = .mneg → lanes fun l => fits (-(int (a l))))) ∧
    -- conversion, comparison, selection, logic, shifts (R263) and the table (R264)
    (u.mop = .mcvt → ∃ src dst, mfFmt (imm % 16) = some src ∧ mfFmt u.mf.toNat = some dst ∧ lanes fun l =>
      let x := a l % 2 ^ width src
      let y : Nat × Flags :=
        if Enc.Fmt.isInt src then
          if Enc.Fmt.isInt dst then fitted dst e.ftz (readInt src x) else toFloat dst ro.rm false (ro.rnd l) (fvOfInt (readInt src x))
        else if Enc.Fmt.isInt dst then
          let z := toInteger dst ro.rm (ro.rnd l) (readF src e.ftz x)
          ((z.1 % (2 ^ width dst : Nat)).toNat, z.2)
        else toFloat dst ro.rm e.ftz (ro.rnd l) (readF src e.ftz x)
      (if dst = .s16 then ((BitVec.ofNat 16 y.1).signExtend 32).toNat else if dst = .s8 then ((BitVec.ofNat 8 y.1).signExtend 32).toNat else y.1, y.2)) ∧
    (u.mop = .mcmp → ∃ x, ∃ k : BitVec 64, microOp e r u = .ok x ∧ x.run = { r with mask := k } ∧ x.jump = none ∧ x.fin = false ∧
      (u.mf = 0 → (∀ l < 64, k.getLsbD l = (fvCompare imm (real (a l)) (real (b l))).1) ∧
        ∀ l fl, (l, fl) ∈ x.fl ↔ l < 64 ∧ fl = (fvCompare imm (real (a l)) (real (b l))).2 ∧ fl ≠ 0) ∧
      (u.mf ≠ 0 → x.fl = [] ∧ ∀ l < 64, k.getLsbD l = match imm with
        | 0 => decide (int (a l) = int (b l)) | 1 => decide (int (a l) ≠ int (b l)) | 2 => decide (int (a l) < int (b l))
        | 3 => decide (int (a l) ≤ int (b l)) | 4 => decide (int (a l) > int (b l)) | 5 => decide (int (a l) ≥ int (b l))
        | 6 => decide (a l &&& b l ≠ 0) | _ => decide (a l &&& b l = 0))) ∧
    (u.mop = .msel → lanes fun l => (if r.mask.getLsbD l then a l else b l, 0)) ∧
    (u.mop = .mand → lanes fun l => (a l &&& b l, 0)) ∧
    (u.mop = .mor → lanes fun l => (a l ||| b l, 0)) ∧
    (u.mop = .mxor → lanes fun l => (a l ^^^ b l, 0)) ∧
    (let n (l : Nat) : Nat := if u.sb = .z then imm else b l % 32
     let x (l : Nat) : BitVec 32 := BitVec.ofNat 32 (a l)
     (u.mop = .mshl → lanes fun l => ((x l <<< n l).toNat, 0)) ∧
     (u.mop = .mshr → lanes fun l => ((if u.mf = 2 then x l >>> n l else (x l).sshiftRight (n l)).toNat, 0))) ∧
    (u.mop = .mlut → lanes fun l =>
      let k := imm % 256 + min (a l) (imm / 256)
      let word := e.raw.getD (e.code + k / 2) 0
      ((if k % 2 = 0 then word.extractLsb' 0 32 else word.extractLsb' 32 32).toNat, 0)) ∧
    -- reduction (R265)
    (u.mop = .mred → ∀ i, u.dst = .q i →
      let on := (List.range 64).filter r.mask.getLsbD
      let v := on.map a
      let put (z : Nat) (raised : Nat → Flags → Prop) : Prop := ∃ x, microOp e r u = .ok x ∧ x.jump = none ∧ x.fin = false ∧
        x.run = { r with q := r.q.set i.toNat (BitVec.ofNat 32 z) } ∧ ∀ l fl, (l, fl) ∈ x.fl ↔ raised l fl ∧ fl ≠ 0
      let add (l p y z : Nat) : Nat × Flags :=
        let s := fvAdd ro.rm (real y) (real z)
        let d := deliver .f32 { ro with rnd := fun _ => ro.rnd (l * 2 ^ 16 + p) } 0 s.1
        (d.1, s.2 ||| d.2)
      let w : OpFields := { (default : OpFields) with fmt := if u.mf = 0 then .f32 else fi, mod := e.mod }
      let silent (_ : Nat) (_ : Flags) : Prop := False
      let quiet (l : Nat) (fl : Flags) : Prop := l ∈ on ∧ (real (a l)).isSig = true ∧ fl = fIV
      (on = [] → put 0 silent) ∧
      (imm = 0 → u.mf = 0 → 2 ≤ on.length → ∀ d, treeWidth on.length d = 1 → put (treeNode add v d 0).1 fun l fl => ∃ lv p,
        2 * p + 1 < treeWidth on.length lv ∧ l = on.getD (p * 2 ^ (lv + 1)) 0 ∧
          fl = (add lv p (treeNode add v lv (2 * p)).1 (treeNode add v lv (2 * p + 1)).1).2) ∧
      (∀ l, imm = 0 → u.mf = 0 → on = [l] → put (if (real (a l)).isNan then canonNaN .f32
        else if e.ftz && isSubnormal .f32 (a l) then encZero .f32 (real (a l)).sign else a l) quiet) ∧
      (imm = 0 → u.mf ≠ 0 → on ≠ [] → put (fits (v.map int).sum).1 fun l fl => l = on.headD 0 ∧ fl = (fits (v.map int).sum).2) ∧
      (imm = 1 → on ≠ [] → put (extreme w true v).1 (if u.mf = 0 then quiet else silent)) ∧
      (imm = 2 → on ≠ [] → put (extreme w false v).1 (if u.mf = 0 then quiet else silent))) ∧
    -- scalar registers (R266) and control (R267)
    (u.mop = .mqop →
      let x : BitVec 32 := BitVec.ofNat 32 (r.scal u.sa)
      let y : BitVec 32 := if u.sb = .z then (u.imm.extractLsb' 4 27).signExtend 32 else BitVec.ofNat 32 (r.scal u.sb)
      let less := if u.mf = 1 then x.slt y else x.ult y
      let z : BitVec 32 := match imm % 16 with
        | 0 => x + y | 1 => x - y | 2 => x * y | 3 => x &&& y | 4 => x ||| y | 5 => x ^^^ y
        | 6 => x <<< (y.toNat % 32) | 7 => x >>> (y.toNat % 32) | 8 => if less then x else y | _ => if less then y else x
      (∀ i, u.dst = .q i → Leaves e r u { r with q := r.q.set i.toNat z }) ∧
      (∀ i, u.dst = .ac i → Leaves e r u { r with ac := r.ac.set i.toNat (z &&& 0x303F01FF) }) ∧
      (∀ i, u.dst = .lc i → Leaves e r u { r with lc := r.lc.set i.toNat z })) ∧
    (u.mop = .mloop → ∀ i, u.dst = .lc i →
      (r.scal u.dst = 0 → Leaves e r u r) ∧
      (r.scal u.dst ≠ 0 → ∃ x, microOp e r u = .ok x ∧ x.run = { r with lc := r.lc.set i.toNat (BitVec.ofNat 32 (r.scal u.dst - 1)) } ∧ x.fl = [] ∧
        x.jump = (if r.scal u.dst = 1 then none else some imm) ∧ x.fin = false)) ∧
    (u.mop = .mbrnz → ∃ x, microOp e r u = .ok x ∧ x.run = r ∧ x.fl = [] ∧ x.jump = (if r.scal u.sa = 0 then none else some imm) ∧ x.fin = false) ∧
    (u.mop = .mtrap → stops (trapOf 0x12 imm)) ∧
    (u.mop = .mend → ∃ x, microOp e r u = .ok x ∧ x.run = r ∧ x.fl = [] ∧ x.fin = true) ∧
    -- the accumulator (R268)
    (u.mop = .macc →
      (e.acc = none → stops (trapOf 0x13 4)) ∧
      ∀ acc, e.acc = some acc → (acc.rows ≤ r.scal u.sa → stops (trapOf 0x13 4)) ∧
        (r.scal u.sa < acc.rows → lanes fun l =>
          let x := (r.shadow.getD (r.scal u.sa * acc.cols + l) 0).toNat
          if acc.cols ≤ l then (0, 0) else if u.mf = 0 then toFloat .f32 ro.rm e.ftz (ro.rnd l) (readF .a36 e.ftz x)
          else fitted .s32 e.ftz (readInt .a36 x))) ∧
    (u.mop = .maccw →
      (e.acc = none → stops (trapOf 0x13 4)) ∧
      ∀ acc, e.acc = some acc → (acc.rows ≤ r.scal u.sb → stops (trapOf 0x13 4)) ∧
        (r.scal u.sb < acc.rows → acc.rows * acc.cols ≤ r.shadow.length → ∃ x sh, microOp e r u = .ok x ∧ x.jump = none ∧ x.fin = false ∧
          x.run = { r with shadow := sh, groups := if e.poisoned then r.groups ||| (1#8 <<< group acc.rows (r.scal u.sb)) else r.groups } ∧
          let at' := r.scal u.sb * acc.cols
          (∀ l < acc.cols, (u.mf ≠ 0 → sh.getD (at' + l) 0 = (BitVec.ofNat 32 (a l)).signExtend 36) ∧
            (u.mf = 0 → sh.getD (at' + l) 0 = BitVec.ofNat 36 (toFloat .a36 .rne e.ftz 0 (real (a l))).1)) ∧
          (∀ i, (i < at' ∨ at' + acc.cols ≤ i) → sh.getD i 0 = r.shadow.getD i 0) ∧
          ∀ l fl, (l, fl) ∈ x.fl ↔ l < acc.cols ∧ u.mf = 0 ∧ fl = (toFloat .a36 .rne e.ftz 0 (real (a l))).2 ∧ fl ≠ 0))

/-! ### Tokens and tiles arriving -/

/-- R76 to R80, R105, R158, R381: a token is taken into its cell's matching store with the next arrival number and may complete a set; where no entry is free
it is spilled, or takes the place of the youngest entry when it completes a set, or is held. An orphan is dropped and counted, one of the next generation waits
for the flip, one of an older generation is STRAY_TOKEN code 2, a parked frame's goes to the park area, one for a record slot is ILLEGAL_OP (R42), and one whose slot
has spilled entries waits for the lookup. The model's choices: that record is of KIND 1, and a token is parked before its slot is looked at (log entry
15).
R79, R83, R84, R85, R158: a first packet is compared with its cell's generation, then reserves the lowest free run of lines or waits at the input; the last
one assembles the tile; what waits at an input goes on when its reason is gone; a finished transfer frees the sender's tile. -/
def Obligations.TokensAndPacketsArrive : Prop :=
  (
    ∀ (s : State) (n : Nat) (fl : Flight) (t : Token) (x : Ctx) (p : Part),
      s.net[n]? = some fl → fl.toks = [t] → fl.tile = none → s.ctx t.asid = some x → s.away t.asid = false →
      (s.cell t.cell).part t.asid = some p →
      let s0 : State := { s with net := s.net.eraseIdx n }
      let c := s.cell t.cell
      let fr := x.frame (tagFrame t.tag)
      let runs := fr.gen = tagGen t.tag ∧ (fr.st = .live ∨ fr.st = .parked)
      let plain := t.cgen = p.cgen ∧ fr.st = .live ∧ fr.gen = tagGen t.tag ∧ (c.activeSlot t.asid t.slot).record = false ∧
        s.slotSpilled t.asid t.cell t.slot = false
      let e : Entry := { tok := t, arrive := c.arrivals.toNat, parked := false, res := false, block := none }
      let waits (why : InputWhy) : State := s0.modCell t.cell fun k =>
        { k with input := k.input ++ [{ flight := { toks := [t], tile := none, left := 0, line := none, xfer := none }, why := why }] }
      let joins (held parked : Bool) : State := (s0.modCell t.cell fun k =>
        Cell.form { k with entries := k.entries ++ [{ e with res := held, parked := parked, rank := (s.dev.cycles, portCode t.port) }]
                           arrivals := k.arrivals + 1 } s.dev.cycles t.asid t.slot t.tag).progress t.asid
      let gives (st : State) : Prop := exec (.tokenArrival n) s = .next (st.progress t.asid)
      let full := s.freeGeneral t.cell = 0 ∧ (fr.src ≠ .handler ∨ s.freeHandler t.cell = 0)
      (plain → 0 < s.freeGeneral t.cell → gives (joins false false)) ∧
      (plain → s.freeGeneral t.cell = 0 → fr.src = .handler → 0 < s.freeHandler t.cell → gives (joins true false)) ∧
      (plain → full → c.completes t = false → gives (s0.spillToken t false)) ∧
      (plain → full → c.completes t = true → c.entries = [] → gives (waits .entries)) ∧
      (plain → full → c.completes t = true → ∀ v res, youngest c.entries = some v →
        let s1 := s0.spillEntry t.cell v
        (s1.frameOf t.asid t.tag).st = .live → s1.shareOf t.cell t.asid t.tag = some res → gives (s1.enter t res)) ∧
      (t.cgen = p.cgen → fr.st = .live → fr.gen = tagGen t.tag → (c.activeSlot t.asid t.slot).record = false →
        s.slotSpilled t.asid t.cell t.slot = true → gives (waits .lookup)) ∧
      (t.cgen = p.cgen → fr.st = .live → fr.gen = tagGen t.tag → (c.activeSlot t.asid t.slot).record = true →
        gives (s0.tokenTrap 1 t tILLEGAL_OP true)) ∧
      (t.cgen = p.cgen → ¬ runs → x.cr.orphanEn = false → gives ((s0.countOrphan t.asid).gcTiles t.cell)) ∧
      (t.cgen = p.cgen → ¬ runs → x.cr.orphanEn = true →
        gives (((s0.countOrphan t.asid).tokenTrap 3 t (trapOf 0x09 0) false).gcTiles t.cell)) ∧
      (t.cgen = p.cgen → fr.st = .parked → fr.gen = tagGen t.tag →
        let put' := (s0.modCell t.cell fun k => { k with arrivals := k.arrivals + 1 }).parkEntry t.asid t.cell [] e
        (∀ s1 m, put' = some (s1, m) → gives ((s1.gcTiles t.cell).progress t.asid)) ∧
        (put' = none → 0 < s.freeGeneral t.cell → gives (joins false true)) ∧
        (put' = none → full → gives (s0.spillToken t true))) ∧
      (t.cgen = p.cgen + 1 → gives (waits .flip)) ∧
      (t.cgen ≠ p.cgen → t.cgen ≠ p.cgen + 1 → x.purgeWindow = true → gives ((s0.countPurged t.asid 1).gcTiles t.cell)) ∧
      (t.cgen ≠ p.cgen → t.cgen ≠ p.cgen + 1 → x.purgeWindow = false →
        gives ((s0.tokenTrap 3 t (trapOf 0x08 2) false).gcTiles t.cell))) ∧
  (
    (∀ (s : State) (n : Nat) (f : Flight) (d : List Byte), s.net[n]? = some f → f.tile = some d → s.away f.asid = false →
      let c := f.cell
      let k := s.cell c
      let gives (st : State) : Prop := exec (.packetArrival n) s = .next (st.progress f.asid)
      let waits (why : InputWhy) : State :=
        State.modCell { s with net := s.net.eraseIdx n } c fun y => { y with input := y.input ++ [{ flight := f, why := why }] }
      (∀ l, f.line = some l → 2 ≤ f.left → gives { s with net := s.net.set n { f with left := f.left - 1 } }) ∧
      (∀ l, f.line = some l → f.left ≤ 1 → gives (State.assembled { s with net := s.net.eraseIdx n } f l)) ∧
      (f.line = none → k.part f.asid = none → gives { s with net := s.net.eraseIdx n }) ∧
      ∀ p, f.line = none → k.part f.asid = some p →
        ((∃ t ∈ f.toks, t.cgen = p.cgen + 1) → gives (waits .flip)) ∧
        ((∀ t ∈ f.toks, t.cgen ≠ p.cgen + 1) → (∃ t ∈ f.toks, t.cgen ≠ p.cgen) →
          gives (f.toks.foldl State.arrive { s with net := s.net.eraseIdx n })) ∧
        ((∀ t ∈ f.toks, t.cgen = p.cgen) →
          (∀ l, 2 ≤ f.left → k.claim = none → k.reserved.length < 16 → k.freeRun f.lines = some l →
            gives { s.modCell c fun y => { y with reserved := y.reserved ++ [(l, f.lines)] } with
              net := s.net.set n { f with left := f.left - 1, line := some l } }) ∧
          ((k.claim.isSome = true ∨ 16 ≤ k.reserved.length ∨ k.freeRun f.lines = none) → gives (waits .space)))) ∧
    (∀ (s : State) (c n : Nat) (h : Held), (s.cell c).input[n]? = some h →
      let s0 := s.modCell c fun k => { k with input := k.input.eraseIdx n }
      s.away h.flight.asid = false →
      let again : State := State.packet { s0 with net := s0.net ++ [h.flight] } s0.net.length h.flight
      let ahead := ∃ t ∈ h.flight.toks, t.cgen = s.cgenAt c t.asid + 1
      (∀ t, h.why = .flip → ¬ ahead → h.flight.toks = [t] → h.flight.tile = none →
        exec (.cgenHoldRelease c n) s = .next ((s0.arrive t).progress t.asid)) ∧
      (h.why = .flip → ¬ ahead → h.flight.tile.isSome = true → exec (.cgenHoldRelease c n) s = .next again) ∧
      (h.why ≠ .flip ∨ ahead → exec (.cgenHoldRelease c n) s = .next s) ∧
      (∀ t, h.why = .entries → h.flight.toks = [t] →
        (s.canAccept t = true → exec (.heldTokenAccept c n) s = .next ((s0.arriveFrame t).progress t.asid)) ∧
        (s.canAccept t = false → exec (.heldTokenAccept c n) s = .next s)) ∧
      (h.why = .space →
        let run := (s.cell c).freeRun h.flight.lines
        let free := (s.cell c).claim = none ∧ (s.cell c).reserved.length < 16 ∧ run.isSome = true
        (free → exec (.heldTokenAccept c n) s = .next again) ∧ (¬ free → exec (.heldTokenAccept c n) s = .next s))) ∧
    ∀ (s : State) (n : Nat) (x : Xfer), s.xfers[n]? = some x →
      let waits (f : Flight) : Prop := f.xfer = some x.id ∧ f.line = none ∧ 1 < f.left
      let held := (∃ f ∈ s.net, waits f) ∨ ∃ p ∈ s.cells, ∃ h ∈ p.2.input, waits h.flight
      (held → exec (.outgoingTransferDone n) s = .next s) ∧
      (¬ held → exec (.outgoingTransferDone n) s = .next (State.gcTiles { s with xfers := s.xfers.eraseIdx n } x.cell)))

/-- R80, R82, R86, R87: a held token enters the store once every spilled entry of its key is back; a refill brings back the entry with the lowest arrival number
when an entry is free for it, and its tile finds lines, but none of a PARKED frame; a space claim that does not fit, on a cell where no firing runs and from
which no tile is on its way out, spills one more tile token, or one more set's tiles; a spilled set's tiles return when no claim stands. -/
def Obligations.SpillingAndReturning : Prop :=
  ∀ (s : State) (c : Nat),
    (∀ n h t, (s.cell c).input[n]? = some h → h.why = .lookup → h.flight.toks = [t] → s.away t.asid = false →
      let s1 := s.bringKey t (s.spilledKey t).length
      let s2 := s1.modCell c fun k => { k with input := k.input.eraseIdx n }
      (s1.spilledKey t ≠ [] → exec (.spillLookup c n) s = .next s1) ∧
      (s1.spilledKey t = [] →
        (frameCurrent (s2.frameOf t.asid t.tag) t.tag = true → (s2.frameOf t.asid t.tag).st = .live →
          exec (.spillLookup c n) s = .next (s2.acceptToken t)) ∧
        (frameCurrent (s2.frameOf t.asid t.tag) t.tag = false ∨ (s2.frameOf t.asid t.tag).st ≠ .live →
          exec (.spillLookup c n) s = .next (s2.arriveFrame t)))) ∧
    (∀ asid w, firstStored (s.spilledOn c) = some (asid, w) →
      let back := ((s.noteWay asid w).freeWayAt asid w.idx).comeBack w.cell [] { w.entry with block := w.block, rank := (s.dev.cycles, 0) }
      (∀ v ∈ s.spilledOn c, w.entry.arrive ≤ v.2.entry.arrive) ∧
      (3 * capacity c ≤ 4 * s.occupied c ∨ back = none → exec (.refill c) s = .next s) ∧
      (∀ s1 m, 4 * s.occupied c < 3 * capacity c → back = some (s1, m) →
        exec (.refill c) s = .next ((s1.gcTiles w.cell).progress asid))) ∧
    ((s.cell c).claim.isSome = true → (s.cell c).fits (s.cell c).claimNeed = false → (∀ q ∈ (s.cell c).sets, q.begun = false) →
      (∀ x ∈ s.xfers, x.cell ≠ c) →
      (∀ e, (s.cell c).nextTile = some e →
        exec (.spaceClaimSpill c) s =
          .next ((s.modCell c fun k => { k with entries := k.entries.filter fun y => y.arrive != e.arrive }).spill c e)) ∧
      (∀ v rest, (s.cell c).nextTile = none → (s.cell c).victims = v :: rest →
        exec (.spaceClaimSpill c) s = .next ((State.spillSet c v [] v.args s).progress v.asid)) ∧
      ((s.cell c).nextTile = none → (s.cell c).victims = [] → exec (.spaceClaimSpill c) s = .next s)) ∧
    ((s.cell c).claim = none ∨ (s.cell c).fits (s.cell c).claimNeed = true ∨ (∃ q ∈ (s.cell c).sets, q.begun = true) ∨
      (∃ x ∈ s.xfers, x.cell = c) →
      exec (.spaceClaimSpill c) s = .next s) ∧
    ((s.cell c).claim.isSome = true ∨ (s.cell c).spilledSet = none → exec (.spilledSetReturn c) s = .next s) ∧
    (∀ q, (s.cell c).claim = none → (s.cell c).spilledSet = some q →
      (∀ y ∈ (s.cell c).sets, (∃ e ∈ y.args, e.block.isSome = true) → q.formedAt ≤ y.formedAt) ∧
      (let back (p : State × List (Nat × Nat)) (e : Entry) : State × List (Nat × Nat) :=
         if e.block.isSome then
           match p.1.seatTile q.asid c p.2 e with
           | some (_, m, st) => (st.progress q.asid, m)
           | none => p
         else p
       exec (.spilledSetReturn c) s = .next (q.args.foldl back (s, [])).1) ∧
      (∀ e b h l, q.args = [e] → e.block = some b → Handle.ofWord e.tok.payload = some h → (s.cell c).freeRun h.lines = some l →
        exec (.spilledSetReturn c) s = .next ((((s.noteBlock q.asid c e.tok.slot b h.bytes).modCell c fun k =>
          { k with tiles := k.tiles ++ [{ line := l, lines := h.lines, data := s.loadBlock q.asid b h.bytes }] }).rejoin q.asid c b
            l).progress q.asid)))

/-! ### The watchdog and after a trap -/

/-- R94 to R97: the first expiry applies Parks's rule to every cell that holds a first packet and restarts the count; the second writes the dump and raises
TAG_STARVE when the dump holds a loop instruction that waits, DEADLOCK otherwise, as a context trap. The model's choices: the count goes on from the
cycle of the expiry (log entry 46), the record names a resident entry only (log entry 39), and of several packets held for space Parks's rule takes the
one held longest (log entry 65). -/
def Obligations.WatchdogExpires : Prop :=
  ∀ (s : State) (asid : Nat) (x : Ctx), s.ctx asid = some x →
    let due := 42 * x.par.watchdog + cycleUnits s.dev.therm ≤ x.wdog
    let spilled := (s.heldCells asid).foldl (fun st c => match (st.cell c).heldPacket with
      | some p => State.parks c p.lines (st.cell c).entries.length st
      | none => st) s
    let who := oldestCell (s.residentEntries asid)
    let dump := s.dump asid x
    let starve := dump.waits.any fun w => w.kind == 1 || w.kind == 2
    (¬ due → exec (.watchdogFirstExpiry asid) s = .next s ∧ exec (.watchdogSecondExpiry asid) s = .next s) ∧
    (due → x.wdogStage = false →
      exec (.watchdogFirstExpiry asid) s = .next (spilled.modCtx asid fun y =>
        { y with wdog := x.wdog - 42 * x.par.watchdog, wdogStage := true, wdogSpilled := decide (s.wayCount < spilled.wayCount) })) ∧
    (x.wdogStage = true → exec (.watchdogFirstExpiry asid) s = .next s) ∧
    (x.wdogStage = false → exec (.watchdogSecondExpiry asid) s = .next s) ∧
    (due → x.wdogStage = true →
      exec (.watchdogSecondExpiry asid) s =
        .next (((s.writeDump asid x dump).modCtx asid fun y => { y with wdog := 0, wdogStage := false }).takeTrap asid
          { trap := { trapOf (if starve then 0x04 else 0x07) 0 with addr := x.cr.dumpbase }, kind := 3,
            cell := (who.map Prod.fst).getD 0, slot := (who.map fun p => p.2.tok.slot).getD 0,
            tag := (who.map fun p => p.2.tok.tag).getD 0, time := s.dev.time / 42, word := 0, ops := [], args := [], outs0 := [],
            outs1 := [], op := none, frozen := none, index := none, st := .delivered, pending := true, esc := 0 }))

/-- R378, R383, R384: the oldest trap without a record takes the lowest index that is not open and its record is written; a delivered record takes a handler
frame and one token with its delivery word; one that escalates takes STATE 2 and the host is told. That a handler frame's parent and its GEN are 0 is
the model's choice (log entry 67). -/
def Obligations.TrapsRecordedAndDelivered : Prop :=
  ∀ (s : State) (asid : Nat) (x : Ctx), s.ctx asid = some x →
    (∀ r i, x.traps.find? (fun q => q.index == none) = some r → firstFree (x.traps.filterMap TrapRec.index) 0 x.cr.trapn = some i →
      i < x.cr.trapn ∧ (∀ q ∈ x.traps, q.index ≠ some i) ∧ (∀ j < i, ∃ q ∈ x.traps, q.index = some j) ∧
        exec (.trapRecordWrite asid) s = .next ((s.modCtx asid fun y =>
          { y with traps := mapFirst (fun q => q.index == none) (fun _ => { r with index := some i }) y.traps }).publishRec asid
            { r with index := some i })) ∧
    (∀ r d i, x.traps.find? (fun q => q.waiting && x.escCode q == 0) = some r → x.cr.frozen = false → x.dry = .none → 0 < x.pool.hfree →
      x.lowestFree 1 (x.pool.nframes - 1) = some i → x.vector r.trap.cls = some d →
        let s1 := s.liveFrame asid i
          { share := .handler, depth := 0, parent := 0, pgen := 0, rettag := none, gsize := 0, rank := 0 }
        let s2 := s1.setFrame asid i { ((s1.ctx asid).map fun y => y.frame i).getD Frame.blank with record := r.index }
        let s3 := s2.modTraps asid (fun q => q.index == r.index) fun q => { q with pending := false }
        let word : Word64 :=
          0#13 ++ BitVec.ofNat 3 r.kind ++ r.gen ++ BitVec.ofNat 12 r.frame ++ BitVec.ofNat 8 r.trap.code ++ BitVec.ofNat 8 r.trap.cls ++
            BitVec.ofNat 16 (r.index.getD 0)
        exec (.trapDelivery asid) s =
          .next (s3.send { asid := asid, cell := 0, slot := 0, cgen := x.cgen, inj := true } (s3.childTag asid i) (.scalar word false false)
            [d])) ∧
    (x.cr.frozen = true ∨ x.dry ≠ .none ∨ x.pool.hfree = 0 → exec (.trapDelivery asid) s = .next s) ∧
    (∀ r, x.traps.find? (fun q => q.waiting && x.escCode q != 0) = some r → x.cr.frozen = false →
      let i := r.index.getD 0
      let s1 := s.setRecord asid i { r with st := .escalated, pending := false, esc := x.escCode r }
      exec (.handlerFault asid) s = .next { s1 with posts := s1.posts ++
        [{ fn := .vdev x.cr.vdev, id := 0, status := 0, cmd := 0x80,
           values := [BitVec.ofNat 64 (i + asid * 2 ^ 16 + x.escCode r * 2 ^ 32)], token := none, asid := none, done := true,
           waits := [] }] })

/-- R103, R361, R362, R365, R389: a finished walk fills the TLBs, or logs the poisoned line it met and tells its waiters the fault; a finished sweep frees its
frame with the next GEN and counts it, and the end of frame 0's sweep completes the launch. The model's choices: which waiter's cell and slot the poison
log names (log entry 38), and that frame 0's sweep ends after the others and after what a handler frame still does (log entry 67). -/
def Obligations.WalksAndSweepsEnd : Prop :=
  (∀ (s : State) (n : Nat) (w : Walk), s.walks[n]? = some w →
    (w.claim.isSome = true → exec (.pageWalkDone n) s = .next s) ∧
    (w.claim = none → ∀ e, s.walkNow w.asid w.va = .install e →
      exec (.pageWalkDone n) s = .next ((s.tlbFill w.die (w.waiters.map Prod.fst) e).endWalk w)) ∧
    (w.claim = none → ∀ cls code fz line, s.walkNow w.asid w.va = .fault cls code fz line →
      (fz = none ∨ ∀ p ∈ w.waiters, ∀ x, (s.cell p.1).findSet p.2 = some x → x.isPref = false) →
      let who := w.waiters.headD (0, 0)
      let s1 := match line with
        | some a => s.logPoison w.asid a who.1 ((((s.cell who.1).findSet who.2).map FSet.slot).getD 0) 3
        | none => s
      let tell (st : State) (p : Nat × Nat) : State := if ((st.cell p.1).findSet p.2).isNone then st
        else st.modCell p.1 fun c => c.modSet p.2 fun x =>
          { x with faults := { va := w.va / 2 ^ 16, cls := cls, code := code, freeze := fz } :: x.faults, hold := none }
      exec (.pageWalkDone n) s = .next ((w.waiters.foldl tell s1).endWalk w))) ∧
  ∀ (s : State) (asid i : Nat) (x : Ctx) (w : Sweep), s.ctx asid = some x → x.sweeps.find? (fun v => v.frame == i) = some w →
    let acts (j : Nat) (fr : Frame) : Prop := fr.src = .handler ∧ fr.st = .live ∧ s.frameActs asid j fr.gen (fun _ _ => true) = true
    let waits := s.sweeping asid i w.gen = true ∨ (i = 0 ∧ ((∃ v ∈ x.sweeps, v.frame ≠ 0) ∨ ∃ p ∈ x.frames, acts p.1 p.2))
    (waits → exec (.sweepComplete asid i) s = .next s) ∧
    (¬ waits → ∃ t y, exec (.sweepComplete asid i) s = .next t ∧ t.ctx asid = some y ∧
      (y.frame i).st = .free ∧ (y.frame i).gen = (x.frame i).gen + 1 ∧ y.pool.sweeps = x.pool.sweeps + 1 ∧
      (∀ j, j ≠ i → (y.frame j).st = (x.frame j).st ∧ (y.frame j).gen = (x.frame j).gen) ∧
      y.sweeps = x.sweeps.filter (fun v => v.frame != i) ∧
      (i = 0 → ∀ l, x.running = some l → y.running = none ∧
        ∃ p ∈ t.posts, p.fn = l.cmd.fn ∧ p.id = l.cmd.id ∧ p.status = 0 ∧ p.cmd = 0x12 ∧
          p.values = [(x.frame i).flags.zeroExtend 64] ∧ p.done = true))

/-! ### Launch, drydown, sillage -/

/-- R74, R75, R150: the oldest queued launch waits for frame 0; an image that fails a check is LOAD_REJECT, status 4, and changes no graph; a resident graph,
or the image, whose signatures or policy come before its segments, loaded segment by segment, then makes frame 0 LIVE and sends the argument to the entry's ports,
once every write of DATA to another device has been performed there; a write that is refused, or is not answered in 2 ms, is LOAD_REJECT too (R328). What loads
an image waits for its turn among the plane operations (R153); what is resident waits for frame 0 alone. The model's choices: which image is resident, and what
becomes of a load whose write fails (log entries 41 and 92); frame 0's PARENT is 0 (log entry 67); the image's own capabilities govern its words (log entry 82), an unsigned image that fails in
its last step sets UNSIGNED all the same (log entry 84), and a resident image's entry is read again (log entry 85). -/
def Obligations.LaunchApplied : Prop :=
  ∀ (s : State) (asid : Nat) (x : Ctx) (l : LaunchReq) (rest : List LaunchReq), s.ctx asid = some x → x.launches = l :: rest →
    let ready := (x.frame 0).st = .free ∧ x.cr.frozen = false ∧ x.dry = .none ∧ (.launch ∈ x.planeOps → x.planeOps.head? = some .launch)
    let fresh := ready ∧ l.ports = none
    let asks (y : Ctx) : Ctx := if y.planeOps.contains .launch then y else { y with planeOps := y.planeOps ++ [.launch] }
    let rejected (st : State) : State :=
      (st.modCtx asid fun y => { y with launches := y.launches.tail, planeOps := y.planeOps.filter (· != .launch) }).complete
        l.cmd 0x12 4 0
    let started (st : State) (ds : List Dest) (u : State) : Prop :=
      let s1 := st.modCtx asid fun y => { y with launches := y.launches.tail, running := some { l with ports := none }, pool := { y.pool with maxd := 0 }
                                                 planeOps := y.planeOps.filter (· != .launch) }
      let s2 := s1.liveFrame asid 0
        { share := .root, depth := 0, parent := 0, pgen := 0, rettag := none, gsize := 0, rank := 0 }
      ∃ y, s2.ctx asid = some y ∧
        u = (s2.send { asid := asid, cell := 0, slot := 0, cgen := y.cgen, inj := true } (frameTag (y.frame 0).gen 0)
          (.scalar l.arg false false) ds).progress asid
    let mine (p : FarPage) : Bool := p.asid == asid && p.leaf.isNone && !p.gone
    let answered (st : State) : State := { st with
      farPages := (st.farPages.map fun p => if mine p then { p with gone := true } else p).filter fun p => !(p.gone && p.left.isEmpty) }
    let open' (st : State) (p : FarPage) : Prop := p.late = false ∧ p.left ≠ [] ∧ st.dev.time < p.deadline
    let good (p : FarPage) : Prop := p.refused = false ∧ p.late = false ∧ p.left = []
    let loaded (st : State) (id : BitVec 128) (ds : List Dest) (u : State) : Prop :=
      ((∃ p ∈ st.farPages, mine p = true ∧ open' st p) →
        u = st.modCtx asid fun y => { y with launches := { l with ports := some (id, ds) } :: y.launches.tail }) ∧
      ((∀ p ∈ st.farPages, mine p = true → ¬ open' st p) →
        ((∃ p ∈ st.farPages, mine p = true ∧ ¬ good p) → u = rejected (answered st)) ∧
        ((∀ p ∈ st.farPages, mine p = true → good p) → started ((answered st).setImage asid id) ds u))
    (¬ ready → exec (.launchApply asid) s = .next s) ∧
    (ready → ∀ id ds, l.ports = some (id, ds) → ∃ u, exec (.launchApply asid) s = .next u ∧ loaded s id ds u) ∧
    (fresh → ∀ s1, s.readHeader asid = .bad s1 → exec (.launchApply asid) s = .next (rejected s1)) ∧
    (fresh → ∀ s1 table h, s.readHeader asid = .ok s1 (table, h) → h.ok x.cr.imagesize = false →
      exec (.launchApply asid) s = .next (rejected s1)) ∧
    (fresh → ∀ s1 table h s2 segs d ds, s.readHeader asid = .ok s1 (table, h) → h.ok x.cr.imagesize = true → x.resident h = true →
      State.readSegs asid (h.segs.filter fun e => e.typ == tENTRY) s1 = .ok s2 segs → entriesOf 0 segs = some (d :: ds) →
      (s2.ctx asid).isSome → ∃ u, exec (.launchApply asid) s = .next u ∧ started s2 (d :: ds) u) ∧
    (fresh → ∀ s1 table h v s2 sig allowed, s.readHeader asid = .ok s1 (table, h) → h.ok x.cr.imagesize = true →
      x.resident h = false → (x.planeOps ≠ [] → .launch ∉ x.planeOps → exec (.launchApply asid) s =
        .next (s1.modCtx asid asks)) ∧
      (x.planeOps = [] ∨ .launch ∈ x.planeOps → look x.cr.vdev s1.vdevs = some v →
      let queued := s1.modCtx asid asks
      (h.unsigned = true ∧ s2 = queued ∧ allowed = v.unsignedOk) ∨
        (h.unsigned = false ∧ queued.readImage asid h.sigoff 3392 = .ok s2 sig ∧ allowed = verified v table sig) →
        (allowed = false → exec (.launchApply asid) s = .next (rejected s2)) ∧
        (∀ s3, allowed = true → State.readSegs asid h.segs s2 = .bad s3 → exec (.launchApply asid) s = .next (rejected s3)) ∧
        ∀ s3 segs, allowed = true → State.readSegs asid h.segs s2 = .ok s3 segs →
          (s3.loadPlan x segs = none → exec (.launchApply asid) s = .next (rejected s3)) ∧
          ∀ p, s3.loadPlan x segs = some p →
            (∀ s4, State.checkData asid p.work s3 = .bad s4 → exec (.launchApply asid) s = .next (rejected s4)) ∧
            ∀ s4 s5 done, State.checkData asid p.work s3 = .ok s4 () →
              State.applySegs asid x p.work (s4.beforeLoad asid x h.segs) = (done, s5) → (s5.ctx asid).isSome →
                let s6 := (s5.modCtx asid fun y => { y with par := { y.par with
                  unsigned := y.par.unsigned || h.unsigned } }).publishRecord asid
                (done = false → exec (.launchApply asid) s = .next (rejected (answered s6))) ∧
                  (done = true → ∃ u, exec (.launchApply asid) s = .next u ∧ loaded s6 (BitVec.ofNat 128 (leNat h.imageid)) p.entry u)))

/-- R411 to R414, R417 to R420: a slice boundary, like PREEMPT, broadcasts the stop; the drydown goes on when the stop has reached every cell, when no firing
runs, when no request is outstanding, and when no token of the context travels; the inbox opens, and the save is made, its cells released and its commands
completed, or it is abandoned with status 5. A saved context's tokens go to the inbox; it returns, each cell, then each token, then the inbox, when its
cells can take it. That order, the turn among contexts that wait for the same cells, and the save one step after the inbox opens are the model's choice (log
entry 47). -/
def Obligations.DrydownAndRestore : Prop :=
  ∀ (s : State) (asid : Nat) (x : Ctx), s.ctx asid = some x →
    let at' (d : DrySt) : State := s.setCtx asid { x with dry := d }
    let ns := s.dev.time / 42
    let n := if x.cr.sliceper = 0 ∨ ns < x.cr.sliceoff then 0 else (ns - x.cr.sliceoff) / x.cr.sliceper + 1
    let due := x.sliceNo < n
    let s0 := s.setCtx asid { x with sliceNo := n }
    let returns := x.dry = .saved ∧ x.dryReason = 1 ∧ s0.restorable x = true ∧ s0.turn asid x = true
    let inside (f : Flight) : Bool := f.toks.any fun t => t.asid == asid && !t.remote
    let travels := (∃ f ∈ s.net, inside f = true) ∨ ∃ c ∈ x.cr.region, ∃ h ∈ (s.cell c).input, inside h.flight = true
    let running := ∃ c ∈ x.cr.region, ∃ f ∈ (s.cell c).sets, f.asid = asid ∧ s.stillRuns f = true
    let stopping := ∃ b ∈ s.bcasts, b.asid = asid ∧ b.kind = .stop
    let stays (i : Instr) : Prop := exec i s = .next s
    (¬ due → stays (.sliceBoundary asid)) ∧
    (due → x.dry = .none → x.lost = false → exec (.sliceBoundary asid) s = .next (s0.startDrydown asid 1)) ∧
    (due → returns → exec (.sliceBoundary asid) s = .next (s0.modCtx asid fun y => { y with dry := .resuming })) ∧
    (due → ¬ (x.dry = .none ∧ x.lost = false) → ¬ returns → exec (.sliceBoundary asid) s = .next s0) ∧
    (x.dry = .stopping → ¬ stopping → exec (.drydownStopAcknowledged asid) s = .next (at' .finishing)) ∧
    (x.dry ≠ .stopping ∨ stopping → stays (.drydownStopAcknowledged asid)) ∧
    (x.dry = .finishing → ¬ running → exec (.drydownFinished asid) s = .next ((at' .performing).abandonWalks asid)) ∧
    (x.dry ≠ .finishing ∨ running → stays (.drydownFinished asid)) ∧
    (x.dry = .performing → s.performed asid x = true → exec (.drydownPerformed asid) s = .next (at' .markers)) ∧
    (x.dry ≠ .performing ∨ s.performed asid x = false → stays (.drydownPerformed asid)) ∧
    (let closed := x.dry ≠ .markers ∨ x.lost = true ∨ travels ∨ s.performed asid x = false
     (closed → stays (.drydownMarkersArrived asid)) ∧
     (¬ closed → ∃ t y, exec (.drydownMarkersArrived asid) s = .next t ∧ t = s.openInbox asid ∧ t.ctx asid = some y ∧ y.dry = .saving ∧
       y.inbox = [] ∧ y.inBlocks = [] ∧ ∀ c ∈ x.cr.region, ∀ h ∈ (t.cell c).input, ∀ k ∈ h.flight.toks, k.asid ≠ asid)) ∧
    (x.dry ≠ .saving ∨ x.lost = true → stays (.drydownSaved asid)) ∧
    (x.dry = .saving → x.lost = false →
      (s.save asid = none → exec (.drydownSaved asid) s = .next (s.abandonSave asid)) ∧
      ∀ s1 y, s.save asid = some s1 → s1.ctx asid = some y →
        ∃ t z, exec (.drydownSaved asid) s = .next t ∧ t.ctx asid = some z ∧ z.dry = .saved ∧ z.scheduled = false ∧ z.dryCmds = [] ∧
          z.ways = y.ways ∧ z.image = y.image ∧ z.inbox = y.inbox ∧
          ∀ c ∈ y.cr.region, (t.cell c).parts = (s1.cell c).parts.filter (fun p => p.asid != asid) ∧
            (∀ e ∈ (t.cell c).entries, e.tok.asid ≠ asid) ∧ (∀ f ∈ (t.cell c).sets, f.asid ≠ asid) ∧ asid ∉ (t.cell c).stops) ∧
    (∀ i f, s.net[i]? = some f →
      let s1 := (State.inboxTile { s with net := s.net.eraseIdx i } f.asid f.tile).bind fun p =>
        f.toks.foldlM (fun st t => st.writeInbox f.asid f p.1 t) p.2
      (s.away f.asid = false → stays (.inboxWrite i)) ∧
      (∀ s2, s.away f.asid = true → s1 = some s2 → exec (.inboxWrite i) s = .next s2) ∧
      (s.away f.asid = true → s1 = none → stays (.inboxWrite i))) ∧
    (s.restorable x = false → stays (.contextRestore asid)) ∧
    (s.restorable x = true → x.dry = .resuming ∨ (x.dry = .saved ∧ x.dryReason ≠ 1) →
      exec (.contextRestore asid) s = .next ((at' .restoring).setDstate asid 3)) ∧
    (s.restorable x = true → x.dry = .restoring →
      let s1 := x.image.foldl (fun st im => st.restoreCell x asid im) s
      let s2 := s1.modCtx asid fun y => { y with dry := .none, image := [], dirBlocks := [], scheduled := true, seqno := y.seqno + 1 }
      let s3 := x.dirBlocks.foldl (fun st b => st.freeBlock asid b) s2
      let s4 := x.cr.region.foldl (fun st c => st.returnWays asid c) s3
      let s5 := x.inBlocks.foldl (fun st b => st.freeBlock asid b) (s4.modCtx asid fun y => { y with inBlocks := [] })
      let s6 := (x.inbox.foldl (State.returnInbox asid) (s5, [])).1
      exec (.contextRestore asid) s = .next ((s6.writeDryHeader asid 0 0 0 0 0).progress asid)) ∧
    (x.dry ≠ .resuming → x.dry ≠ .saved → x.dry ≠ .restoring → stays (.contextRestore asid))

/-! ### The host's side -/

/-- R455, R457, R463, R466, R474: the registers of a window keep what is written while ENABLE is 0, whoever of the two functions writes them;
ENABLE starts both rings empty when they are well formed and sets RINGERR otherwise; an access outside its own page freezes a virtual device; a
freeze record becomes three entries of the physical function's ring. Model's choice (log entry 23): SQTAIL is taken modulo SQSIZE, CQHEAD goes
forward only and at most to what is written, a failed ENABLE sets RINGERR and one that succeeds clears it. -/
def Obligations.RegisterWindows : Prop :=
  ∀ (s : State) (fn : Fn) (v : Word64), s.pageLive fn = true → s.dev.boot = .ready →
    let w := s.window fn
    let set (u : Window) : State := { s with windows := put (pageOf fn) u s.windows }
    let base := 4096 * pageOf fn
    let freed := (v.toNat % w.cqsize.toNat + w.cqsize.toNat - w.cqhead % w.cqsize.toNat) % w.cqsize.toNat
    let own : Prop := ∀ d, fn = .vdev d → d < 32
    let ring (reg : Nat) (u : Window) : Prop :=
      own → exec (.registerWrite .pf (base + reg) v) s = .next (set (if w.enable then w else u)) ∧
        exec (.registerWrite fn (base + reg) v) s = .next (set (if w.enable then w else u))
    ring 0x10 { w with sqbase := v } ∧ ring 0x18 { w with sqsize := v } ∧ ring 0x20 { w with cqbase := v, started := false } ∧
      ring 0x28 { w with cqsize := v, started := false } ∧
      (w.enable = false → s.ringsOk fn w = true →
        exec (.ringEnable fn) s = .next (set
          { w with enable := true, ringerr := false, sqtail := 0, sqhead := 0, cqhead := 0, cqtail := 0, started := true })) ∧
      (w.enable = false → s.ringsOk fn w = false → exec (.ringEnable fn) s = .next (set { w with ringerr := true })) ∧
      exec (.ringDisable fn) s = .next (set { w with enable := false }) ∧
      (own →
        exec (.registerWrite fn (base + 0x30) v) s = (if v.getLsbD 0 then exec (.ringEnable fn) s else exec (.ringDisable fn) s) ∧
        exec (.registerWrite fn (base + 0x38) v) s = exec (.sqtail fn v) s ∧ exec (.registerWrite fn (base + 0x48) v) s = exec (.cqhead fn v) s ∧
        exec (.registerWrite fn (base + 0x100) v) s = (if fn = .pf then exec (.devnum v) s else .next s)) ∧
      (w.sqsize ≠ 0 → exec (.sqtail fn v) s = .next (set { w with sqtail := v.toNat % w.sqsize.toNat })) ∧
      (w.cqsize ≠ 0 → exec (.cqhead fn v) s = .next (set { w with cqhead := min (w.cqhead + freed) w.cqtail })) ∧
      (s.dev.devnumFixed = false → v.toNat % 8192 ≠ 8191 →
        exec (.devnum v) s = .next { s with dev := { s.dev with devnum := BitVec.ofNat 13 v.toNat } }) ∧
      (s.dev.devnumFixed = true → exec (.devnum v) s = .next s) ∧
      (∀ d off, fn = .vdev d → off / 4096 ≠ 1 + d →
        let frozen := s.freeze { cause := 1, vdev := d, asid := none, cell := 0, slot := 0, tag := 0, addr := 0 }
        exec (.registerWrite fn off v) s = .next frozen ∧ exec (.hostApertureAccess fn (.readReg off)) s = .next frozen) ∧
      (∀ off n, exec (.hostApertureAccess fn (.load off n)) s = .next s) ∧
      (∀ off bs, exec (.hostApertureAccess fn (.store off bs)) s = .next (s.apertureWrite fn off bs)) ∧
      ∀ i r, s.freezes[i]? = some r →
        ((s.window .pf).room 3 = false → exec (.freezeNotification i) s = .next s) ∧
        ((s.window .pf).room 3 = true →
          let word : Word64 := 0#5 ++ BitVec.ofNat 11 r.slot ++ 0#5 ++ BitVec.ofNat 11 r.cell ++ 0#5 ++ BitVec.ofBool r.asid.isSome ++
            BitVec.ofNat 10 (r.asid.getD 0) ++ 0#3 ++ BitVec.ofNat 5 r.vdev ++ BitVec.ofNat 8 r.cause
          let told : Post :=
            { fn := .pf, id := 0, status := 0, cmd := 0x81, values := [word, r.tag, BitVec.ofNat 64 r.addr], token := none, asid := none,
              done := true, waits := [] }
          exec (.freezeNotification i) s = .next { s with freezes := s.freezes.eraseIdx i, posts := s.posts ++ [told] })

/-- R348, R349, R370, R458, R465: VDEV_CREATE adds the virtual device its descriptor describes, VDEV_DESTROY removes it with all it owns once what has
committed (R292) is performed, GRANULE takes granules that complete it once scrubbed, a scrub leaves zeros, and THAW lets a frozen virtual device go
on. Model's choice: the statuses for an unknown virtual device (2), a THAW of one that is not frozen (2) and a count of 0 (1) are log entry 26, and
the waits of VDEV_DESTROY for scrubs and performed operations log entry 27. -/
def Obligations.VirtualDevicesAndGranules : Prop :=
  ∀ (s : State) (c : Cmd), c.fn = .pf → s.dev.boot = .ready → c.cdest = none →
    let a := c.arg0.toNat
    let fresh (g : Nat) : Bool := (look g s.granules).isNone
    let asked := (List.range c.arg2.toNat).map fun k => c.arg1.toNat + k
    (a % 4096 ≠ 0 ∨ 2 ^ 39 < a + 4096 → exec (.vdevCreate c) s = .next (s.complete c 0x01 1 0)) ∧
    (a % 4096 = 0 → a + 4096 ≤ 2 ^ 39 → parseVdev s.dev.keysDrawn (s.readMem (8191 * 2 ^ 39 + a) 4096) = none →
      exec (.vdevCreate c) s = .next (s.complete c 0x01 1 0)) ∧
    (∀ n d, a % 4096 = 0 → a + 4096 ≤ 2 ^ 39 → parseVdev s.dev.keysDrawn (s.readMem (8191 * 2 ^ 39 + a) 4096) = some (n, d) →
      ((look n s.vdevs).isSome = true → exec (.vdevCreate c) s = .next (s.complete c 0x01 2 0)) ∧
      (look n s.vdevs = none → exec (.vdevCreate c) s = .next (State.complete { s with
        vdevs := put n d s.vdevs, windows := put (1 + n) Window.empty s.windows
        dev := { s.dev with keysDrawn := s.dev.keysDrawn + 1 } } c 0x01 0 (BitVec.ofNat 64 n)))) ∧
    (look a s.vdevs = none → exec (.vdevDestroy c) s = .next (s.complete c 0x02 2 0) ∧
      exec (.thaw c) s = .next (s.complete c 0x03 2 0) ∧ exec (.granule c) s = .next (s.complete c 0x04 2 0)) ∧
    ((look a s.vdevs).isSome = true → (∀ p ∈ s.granules, p.2.owner = a → p.2.scrubbing = false) →
      (∀ o ∈ s.memops, o.phase = .issued ∨ o.phase = .applied → s.vdevOf o.firing.asid ≠ a) → ∃ t, exec (.vdevDestroy c) s = .next t ∧ look a t.vdevs = none ∧ (∀ p ∈ t.granules, p.2.owner ≠ a) ∧
        (∀ p ∈ t.cells, p.2.vdev ≠ some a)) ∧
    (∀ o ∈ s.memops, o.phase = .issued → s.vdevOf o.firing.asid = a → (look a s.vdevs).isSome = true → exec (.vdevDestroy c) s = .next s) ∧
    (∀ d, look a s.vdevs = some d → d.frozen = false → exec (.thaw c) s = .next (s.complete c 0x03 2 0)) ∧
    (∀ d, look a s.vdevs = some d → d.frozen = true → ∃ t, exec (.thaw c) s = .next t ∧
      look a t.vdevs = some { d with frozen := false } ∧
      (∀ i x, s.ctx i = some x → x.cr.vdev = a → ∃ y, t.ctx i = some y ∧ y.cr.frozen = false)) ∧
    (∀ d, look a s.vdevs = some d → c.arg2.toNat = 0 ∨ 384 < c.arg1.toNat + c.arg2.toNat →
      exec (.granule c) s = .next (s.complete c 0x04 1 0)) ∧
    (∀ d, look a s.vdevs = some d → c.arg2.toNat ≠ 0 → c.arg1.toNat + c.arg2.toNat ≤ 384 → (∀ g ∈ asked, fresh g = true) →
      let held := (s.granules.filter fun p => p.2.owner == a).length
      (d.qgran < held + c.arg2.toNat → exec (.granule c) s = .next (s.complete c 0x04 3 0)) ∧
      (held + c.arg2.toNat ≤ d.qgran → ∃ t, exec (.granule c) s = .next t ∧
        (∀ g ∈ asked, look g t.granules = some { owner := a, scrubbing := true }) ∧
        t.scrubCmds = s.scrubCmds ++ [{ cmd := c, first := c.arg1.toNat, count := c.arg2.toNat }])) ∧
    ∀ g w, look g s.granules = some w → w.scrubbing = true → ∃ t, exec (.granuleScrubComplete g) s = .next t ∧
      look g t.granules = some { w with scrubbing := false } ∧
      (∀ b, g * 2 ^ 30 ≤ memKey b → memKey b < (g + 1) * 2 ^ 30 → t.byteAt b = 0 ∧ t.wordAt b = none) ∧
      (∀ b, ¬ (g * 2 ^ 30 ≤ memKey b ∧ memKey b < (g + 1) * 2 ^ 30) → t.byteAt b = s.byteAt b ∧ t.wordAt b = s.wordAt b)

/-- R350 to R355, R458, R459: CTX_CREATE makes a context under the lowest free ASID when its record passes the checks, and CTX_DESTROY frees it once
every frame is FREE; a command naming no context ends with status 2. Model's choice: a command that freezes its sender completes with STATUS 6, and no
address goes with it (log entry 24); the status 2 of a missing context (26); what CTX_DESTROY waits for (27). -/
def Obligations.ContextsCreatedAndDestroyed : Prop :=
  ∀ (s : State) (c : Cmd) (v : Nat) (d : Vdev), c.fn = .vdev v → look v s.vdevs = some d → d.frozen = false → s.dev.boot = .ready → c.cdest = none →
    let a := c.arg0.toNat
    let r := recOfBytes a v (s.readMem a 4096)
    (∀ n, a % 4096 = 0 → s.owns v a 4096 = true → s.checkRec r d (s.readMem a 4096) = .ok → firstFree (s.ctxs.map Prod.fst) 0 1024 = some n →
      exec (.ctxCreate c) s = .next ((s.makeCtx n r).complete c 0x10 0 (BitVec.ofNat 64 n))) ∧
    (∀ st, a % 4096 = 0 → s.owns v a 4096 = true → s.checkRec r d (s.readMem a 4096) = .refuse st →
      exec (.ctxCreate c) s = .next (s.complete c 0x10 st 0)) ∧
    (a % 4096 = 0 → s.isLocal a = true → populated a = true → (s.owns v a 4096 = true → s.checkRec r d (s.readMem a 4096) = .outside) →
      exec (.ctxCreate c) s =
        .next ((s.freeze { cause := 5, vdev := v, asid := none, cell := 0, slot := 0, tag := 0, addr := 0 }).complete c 0x10 6 0)) ∧
    (s.ctx a = none → exec (.ctxDestroy c) s = .next (s.complete c 0x11 2 0)) ∧
    (∀ x, s.ctx a = some x → x.cr.vdev = v → x.lost = false → s.earlierCmd 0x11 a x = false → (∃ p ∈ x.frames, p.2.st ≠ .free) →
      exec (.ctxDestroy c) s = .next (s.complete c 0x11 2 0)) ∧
    (∀ x, s.ctx a = some x → x.cr.vdev = v → x.lost = false → (∀ p ∈ x.frames, p.2.st = .free) → x.dry = .none ∨ x.dry = .saved → x.launches = [] →
      s.busyCtx a = false → s.earlierCmd 0x11 a x = false → ∃ t, exec (.ctxDestroy c) s = .next t ∧ t.ctx a = none ∧
        (∀ b, b ≠ a → t.ctx b = s.ctx b) ∧ (∀ f ∈ t.net, ∀ k ∈ f.toks, k.asid ≠ a) ∧ (∀ o ∈ t.memops, o.firing.asid ≠ a) ∧
        (∀ n, ∀ e ∈ (t.cell n).tlb, e.asid ≠ a)) ∧
    (∀ x, s.ctx a = some x → x.cr.vdev ≠ v →
      exec (.ctxDestroy c) s =
        .next ((s.freeze { cause := 3, vdev := v, asid := some a, cell := 0, slot := 0, tag := 0, addr := 0 }).complete c 0x11 6 0))

/-- R297, R428, R430, R456 to R461: a well-formed command naming a context of its own virtual device is carried out: LAUNCH queues, PREEMPT starts a drydown,
TLB_INVAL drops translations, KILLFR ends a frame, BRKSET sends a break bit, SILLAGE, QUOTE, PAIR and EXPORT write what they name, RESOLVE closes a record,
re-forms its set or sends substitutes (R385, R467); a command waits while an earlier one of its context has not taken effect; a CDEST in another virtual
device freezes the sender, and the token follows the completion entry (R457). Model's choice: that wait (log entry 77), the refusals with status 1 that the
spec does not name (26), TLB_INVAL's drop at taking and at completion (28) and what PAIR checks of an entry (29). -/
def Obligations.ContextCommands : Prop :=
  (∀ (s : State) (c : Cmd) (v : Nat) (d : Vdev) (x : Ctx), c.fn = .vdev v → look v s.vdevs = some d → d.frozen = false → s.dev.boot = .ready →
    (∀ e, c.cdest = some e → e.mode = .fixed ∧ (e.port = .to .a ∨ e.port = .to .b) ∧
      ∃ y, s.ctx c.casid.toNat = some y ∧ y.cr.vdev = v) →
    let a := c.arg0.toNat
    s.ctx a = some x → x.cr.vdev = v → x.lost = false → x.dry = .none →
    let first (code : BitVec 8) : Prop := s.earlierCmd code a x = false
    (∀ code i, s.earlierCmd code a x = true →
      (code, i) ∈ [(0x11#8, Instr.ctxDestroy c), (0x12#8, .launch c), (0x13#8, .preempt c), (0x14#8, .tlbInval c), (0x15#8, .resolve c),
        (0x16#8, .killfr c), (0x17#8, .brkset c), (0x18#8, .sillage c), (0x19#8, .quote c), (0x1A#8, .pair c), (0x1B#8, .exportGranules c)] →
      exec i s = .next s) ∧
    (s.earlierCmd 0x12 a x = false → exec (.launch c) s =
      .next ((s.setCtx a { x with launches := x.launches ++ [{ cmd := c, arg := c.arg1 }] }).await c 0x12)) ∧
    (first 0x13 →
    let arg := c.arg1.toNat
    let ends (code st : BitVec 8) (i : Instr) : Prop := exec i s = .next (s.complete c code st 0)
    exec (.preempt c) s = .next (((s.startDrydown a 2).modCtx a fun y => { y with dryCmds := [c] }).await c 0x13) ∧
    (let keep (l : List TlbEntry) : List TlbEntry := l.filter fun e => !e.hit a arg c.arg2.toNat
     let os := (s.memops.filter fun o => o.usesRange a arg c.arg2.toNat && o.pending).map MemOp.id
     let v1 : Inval := { cmd := c, asid := a, lo := arg, len := c.arg2.toNat, ops := os }
     let cs := s.cells.map fun p => (p.1, { p.2 with tlb := keep p.2.tlb })
     let st := s.stlb.map fun p => (p.1, keep p.2)
     let ms := s.memops.map fun o => if o.usesRange a arg c.arg2.toNat then { o with stale := true } else o
     exec (.tlbInval c) s = .next (State.await { s with cells := cs, stlb := st, memops := ms, invals := s.invals ++ [v1] } c 0x14)) ∧
    (∀ n i, s.invals[n]? = some i →
      ((∃ w ∈ s.walks, w.mayHit i = true) ∨ (∃ o ∈ s.memops, o.pending = true ∧ o.id ∈ i.ops) →
        exec (.tlbInvalComplete n) s = .next s) ∧
      ((∀ w ∈ s.walks, w.mayHit i = false) → (∀ o ∈ s.memops, o.pending = true → o.id ∉ i.ops) →
        exec (.tlbInvalComplete n) s = .next (State.complete { s with invals := s.invals.eraseIdx n } i.cmd 0x14 0 0))) ∧
    (2 ^ 20 ≤ arg ∨ x.pool.nframes ≤ arg % 4096 → ends 0x16 1 (.killfr c)) ∧
    (arg < 2 ^ 20 → arg % 4096 < x.pool.nframes →
      let f := x.frame (arg % 4096)
      let hit := (f.st = .live ∨ f.st = .parked) ∧ f.gen = BitVec.ofNat 4 (arg / 4096)
      (hit → exec (.killfr c) s = .next ((s.endFrame a (arg % 4096)).complete c 0x16 0 0)) ∧
      (¬ hit → exec (.killfr c) s = .next (s.complete c 0x16 0 1))) ∧
    (arg ∉ x.cr.region ∨ 2 ^ 17 ≤ c.arg2.toNat ∨ 2048 ≤ c.arg2.toNat % 2 ^ 16 → ends 0x17 1 (.brkset c)) ∧
    (arg ∈ x.cr.region → c.arg2.toNat < 2 ^ 17 → c.arg2.toNat % 2 ^ 16 < 2048 →
      exec (.brkset c) s = .next (State.await { s with bcasts := s.bcasts ++
        [{ asid := a, kind := .breakBit arg (c.arg2.toNat % 2048) (decide (2 ^ 16 ≤ c.arg2.toNat)) c, left := [arg] }] } c 0x17)) ∧
    (sillageOk x c.arg1 = false → ends 0x18 1 (.sillage c)) ∧
    (sillageOk x c.arg1 = true → exec (.sillage c) s =
      .next ((s.setCtx a { x with sillage := c.arg1, anchored := 0 }).complete c 0x18 0 0)) ∧
    (∀ m body q, m = s.dev.measure → body = quoteBody m a x c.arg3 →
      q = Config.quoteLayout body (Config.edSign m body) ((List.range 3309).map (Config.mlSign m body)) →
      (s.owns v arg (max 1 q.length) = false → ends 0x19 1 (.quote c)) ∧
      (s.owns v arg (max 1 q.length) = true → exec (.quote c) s = .next ((s.storeLines arg q).complete c 0x19 0 0))) ∧
    (let e := (leBytes 32 c.arg3.toNat).take 16
     (256 ≤ arg ∨ pairOk e = false → ends 0x1A 1 (.pair c)) ∧
     (arg < 256 → pairOk e = true → exec (.pair c) s = .next ((s.homeWrite (x.cr.rptbase + 16 * arg) e).complete c 0x1A 0 0))) ∧
    (let b := leBytes 32 c.arg3.toNat
     let n := c.arg2.toNat
     let gs := (List.range n).map fun k => arg + k
     let e (g : Nat) : Exported :=
       { granule := g, asid := a, dev := numAt b 0 2, far := numAt b 2 2, r := (numAt b 4 1).testBit 1, w := (numAt b 4 1).testBit 2 }
     let good := numAt b 0 2 ≤ 8190 ∧ numAt b 2 2 < 1024 ∧ numAt b 4 1 < 8 ∧ numAt b 5 27 = 0 ∧ n ≠ 0 ∧ arg + n ≤ 384
     (¬ good → ends 0x1B 1 (.exportGranules c)) ∧
     let kept := s.exported.filter fun y =>
       !(gs.contains y.granule && y.asid == a && y.dev == numAt b 0 2 && y.far == numAt b 2 2)
     (good → (∀ g ∈ gs, s.ownerOf (g * 2 ^ 30) = some v) → numAt b 4 1 % 2 = 1 →
       exec (.exportGranules c) s = .next (State.complete { s with exported := kept ++ gs.map e } c 0x1B 0 0)) ∧
     (good → (∀ g ∈ gs, s.ownerOf (g * 2 ^ 30) = some v) → numAt b 4 1 % 2 = 0 →
       ∃ t, exec (.exportGranules c) s = .next t ∧ t.exported = kept)) ∧
    (resolveArg x c.arg1 = none → ends 0x15 1 (.resolve c)) ∧
    (∀ i form nw fl, resolveArg x c.arg1 = some (i, form, nw, fl) → form ≠ .subst → s.openRec a x i = none →
      exec (.resolve c) s = .next (s.complete c 0x15 2 1)) ∧
    ∀ i nw fl r, s.openRec a x i = some r →
      let closed (st : State) : State := (((st.closeRec a r).progress a).gcTiles r.cell).complete c 0x15 0 0
      let plain := r.kind ≠ 3 ∧ r.op = none ∧ r.trap.cls ≠ 0x17
      (resolveArg x c.arg1 = some (i, .skip, nw, 0) → r.op = none → exec (.resolve c) s = .next (closed s)) ∧
      let args := r.args.map fun e => { e with rank := (s.dev.cycles, portCode e.tok.port) }
      let again (sid : Nat) : FSet :=
        { sid := sid, asid := a, slot := r.slot, tag := r.tag, args := args, formedAt := s.dev.cycles, bypass := 0, nowatch := nw,
          hold := some .parked, snap := none, faults := [], since := 0 }
      (resolveArg x c.arg1 = some (i, .redo, nw, 0) → (r.kind = 3 → exec (.resolve c) s = .next (s.complete c 0x15 2 2)) ∧
        (plain → r.args ≠ [] → exec (.resolve c) s = .next (closed (s.modCell r.cell fun k =>
          { k with sets := k.sets ++ [again k.nextSid], nextSid := k.nextSid + 1 })))) ∧
      (resolveArg x c.arg1 = some (i, .subst, nw, fl) → plain → ∀ opc w d0 d1, recWord r = some (opc, w) → s.wordSide a r = none →
        let pa := c.arg2.toNat
        let half : Option (Word64 × Bool × Bool) → List Byte
          | none => zeros 32
          | some (u, p, e) =>
            leBytes 8 u.toNat ++ zeros 8 ++ leBytes 1 (1 + (if p then 4 else 0) + (if e then 8 else 0)) ++ zeros 15
        let sent (st : State) (side : Bool) : Option (Word64 × Bool × Bool) → State
          | none => st
          | some (u, p, e) =>
            let ds := st.substSides a r w
            st.send { asid := a, cell := r.cell, slot := r.slot, cgen := st.cgenAt r.cell a, inj := false } (st.substTag a r w)
              (.scalar u p e) (if side then ds.2 else ds.1)
        let fits (k : Nat) (d : Option (Word64 × Bool × Bool)) : Prop := d = none ∨ (s.outKinds a r)[k]? = some false
        (s.owns v pa 64 = false → exec (.resolve c) s =
          .next ((s.freeze { cause := 5, vdev := v, asid := some a, cell := 0, slot := 0, tag := 0, addr := 0 }).complete c 0x15 6 0)) ∧
        (s.owns v pa 64 = true → s.readMem pa 32 = half d0 → s.readMem (pa + 32) 32 = half d1 → s.poisoned pa = false →
          (fits 0 d0 → fits 1 d1 → exec (.resolve c) s = .next (closed ((sent (sent s false d0) true d1).orFlags a r.tag fl))) ∧
          (¬ (fits 0 d0 ∧ fits 1 d1) → exec (.resolve c) s = .next (s.complete c 0x15 2 3)))))) ∧
  (∀ (s : State) (c : Cmd) (v : Nat) (d : Vdev) (e : Dest), c.fn = .vdev v → look v s.vdevs = some d → d.frozen = false →
    s.dev.boot = .ready → c.cdest = some e → ∀ p ∈ [(0x10#8, Instr.ctxCreate c), (0x11#8, .ctxDestroy c), (0x12#8, .launch c),
      (0x13#8, .preempt c), (0x14#8, .tlbInval c), (0x15#8, .resolve c), (0x16#8, .killfr c), (0x17#8, .brkset c), (0x18#8, .sillage c),
      (0x19#8, .quote c), (0x1A#8, .pair c), (0x1B#8, .exportGranules c)],
    let mute : Cmd := { c with cdest := none }
    let told : Freeze := { cause := 3, vdev := v, asid := some c.casid.toNat, cell := 0, slot := 0, tag := 0, addr := 0 }
    (∀ y, s.ctx c.casid.toNat = some y → y.cr.vdev ≠ v → exec p.2 s = .next ((s.freeze told).complete mute p.1 6 0)) ∧
    ((∀ y, s.ctx c.casid.toNat = some y → y.cr.vdev = v) →
      s.ctx c.casid.toNat = none ∨ e.mode ≠ .fixed ∨ (e.port ≠ .to .a ∧ e.port ≠ .to .b) →
        exec p.2 s = .next (s.complete mute p.1 1 0))) ∧
  ∀ (s : State) (p : Post) (x : Ctx) (a : Nat) (e : Dest) (tag : Tag), s.posts = [p] → p.token = some (a, e, tag) → p.done = true →
    p.waits = [] → s.pageLive p.fn = true → (s.window p.fn).room p.values.length = true → s.ctx a = some x → e.mode = .fixed →
      s.flushPosts.posts = [] ∧ ∃ k, s.flushPosts.net = s.net ++ [{ toks := [k], tile := none, left := 0, line := none, xfer := none }] ∧
        k.asid = a ∧ k.tag = tag ∧ k.payload = p.id.zeroExtend 64 ∧ k.poison = false ∧ k.slot = e.slot.toNat ∧ k.cell = e.cell.toNat ∧
          k.port = portOf e.port ∧ k.cgen = x.cgen ∧ k.inj = true

/-- R158, R298, R460, R462: a flit that is next on its link and whose CRC holds delivers its body and any other changes nothing; a token enters the mesh under the
inbound pairing that allows it or is reported; a request is applied under the export that covers it or answered ACCESS code 3, and an ARED's requester says
whether it has committed (R304); tokens of one link keep their order, and so do its requests for one line. Model's choice: the commit and release
requests (log entry 36), what a flit out of sequence changes and how far a link orders requests (50), the operation a request becomes (37). -/
def Obligations.FabricArrivals : Prop :=
  ∀ (s : State), s.dev.boot = .ready →
    (∀ port seq crc body, port < 24 →
      let want := (look port s.dev.seqs).getD 0
      let s1 : State := { s with dev := { s.dev with seqs := put port (want + 1) s.dev.seqs } }
      ((crc = false ∨ seq ≠ want) → exec (.flitReceive port seq crc body) s = .next s) ∧
      (crc = true → seq = want →
        (body = .idle → exec (.flitReceive port seq crc body) s = .next s1) ∧
        (∀ t, body = .token t → exec (.flitReceive port seq crc body) s =
          .next { s1 with fabTokens := s.fabTokens ++ [{ t with port := port }] }) ∧
        (∀ r, body = .request r → exec (.flitReceive port seq crc body) s = .next { s1 with fabReqs := s.fabReqs ++ [{ r with port := port }] }))) ∧
    (∀ n t, s.fabTokens[n]? = some t → (∃ u ∈ s.fabTokens.take n, u.port = t.port) → exec (.fabricTokenArrival n) s = .next s) ∧
    (∀ n t, s.fabTokens[n]? = some t → (∀ u ∈ s.fabTokens.take n, u.port ≠ t.port) →
      let s1 : State := { s with fabTokens := s.fabTokens.eraseIdx n }
      (s.inbound t = none → exec (.fabricTokenArrival n) s = .next { s1 with posts := s.posts ++
        [{ fn := .pf, id := 0, status := 0, cmd := 0x83,
           values := [0#6 ++ BitVec.ofNat 10 t.asid ++ 0#3 ++ BitVec.ofNat 13 t.dev ++ t.dest], token := none, asid := none, done := true,
           waits := [] }] }) ∧
      (∀ i x d, s.inbound t = some i → s.ctx t.target = some x → (decodeDest t.dest).join = some d →
        let e := s.rpt t.target i
        e.state = 2 ∧ e.fdev = t.dev ∧ e.fasid = t.asid ∧ e.key = t.key ∧ e.fdest = t.dest ∧
          ∃ u g, exec (.fabricTokenArrival n) s = .next u ∧ u.net = s.net ++ [g] ∧ g.far = some (t.dev, t.fcell, t.fslot) ∧
            ∃ k, g.toks = [k] ∧ k.asid = t.target ∧ k.tag = t.tag ∧ k.payload = t.payload ∧ k.slot = d.slot.toNat ∧
              k.cell = destTarget d (portCell t.port) t.tag ∧ k.port = portOf d.port ∧ k.remote = true)) ∧
    (∀ n r, s.fabReqs[n]? = some r → (∃ q ∈ s.fabReqs.take n, q.port = r.port ∧ q.pa / 256 = r.pa / 256) →
      exec (.remoteRequestArrival n) s = .next s) ∧
    ∀ n r, s.fabReqs[n]? = some r → (∀ q ∈ s.fabReqs.take n, q.port = r.port → q.pa / 256 ≠ r.pa / 256) →
      let s1 : State := { s with fabReqs := s.fabReqs.eraseIdx n }
      let asks : Prop := ∀ k, r.op ≠ .commit k ∧ r.op ≠ .release k
      (∀ k o, r.op = .commit k →
        ((∃ p ∈ s.keyedOps r, p.phase = .issued ∨ p.phase = .applied) → exec (.remoteRequestArrival n) s = .next s) ∧
        ((∀ p ∈ s.keyedOps r, p.phase = .waiting → p.fresh = false ∨ p.id = o.id) → o ∈ s.keyedOps r → o.fresh = true → o.phase = .waiting →
          (∀ p ∈ s.keyedOps r, p.phase ≠ .issued ∧ p.phase ≠ .applied) → (s.memops.map MemOp.id).Nodup →
          ∃ t, exec (.remoteRequestArrival n) s = .next t ∧ t.fabReqs = s.fabReqs.eraseIdx n ∧
            { o.accepted 0 with origin := some (r.dev, r.id) } ∈ t.memops) ∧
        (s.keyedOps r = [] → s.reservedOp r.dev k = none → exec (.remoteRequestArrival n) s = .next { s1 with fabAnswers := s.fabAnswers ++
          [{ dev := r.dev, id := r.id, reply := { refused := none, listed := false, poison := false, data := [], flags := 0 } }] })) ∧
      (∀ k o, r.op = .release k →
        (s.reservedOp r.dev k = some o → exec (.remoteRequestArrival n) s = .next ((s1.releaseKeys o).dropOp o.id)) ∧
        (s.reservedOp r.dev k = none → s.keyedOps r = [] → exec (.remoteRequestArrival n) s = .next s1)) ∧
      (asks → s.exportFor r = none → exec (.remoteRequestArrival n) s = .next { s1 with fabAnswers := s.fabAnswers ++
        [{ dev := r.dev, id := r.id, reply := { refused := some (0x0B, 3), listed := false, poison := false, data := [], flags := 0 } }] }) ∧
      ∀ e, asks → s.exportFor r = some e → e.granule = r.pa % 2 ^ 39 / 2 ^ 30 ∧ e.dev = r.dev ∧ e.far = r.asid ∧
        exec (.remoteRequestArrival n) s =
          .next { s1 with memops := s.memops ++ [s1.foreignOp r e.asid], nextOp := s.nextOp + 1 }

/-- R464, R469 to R472: power on and a firmware update boot to ready or to the recovery state with the step that failed, on a scrubbed device, and step 3
measures the firmware; a reset keeps device time and the measurement; all of these and power off leave host memory alone; clock steps follow the
table of temperatures, each step entered at its bound and left below the lower one; PTP steps or absorbs an offset; errors are counted, or spoil what they hit by where they lie, and lost cell state stops its context.
Model's choice: the slew of a backward offset (log entry 49), what a reset clears and an update keeps (48), a measurement not reached stands (7). -/
def Obligations.DeviceEvents : Prop :=
  ∀ (s : State),
    let boots (fw : Firmware) (time : Nat) (t : State) : Prop :=
      t.dev.time = time ∧ t.cells = [] ∧ t.ctxs = [] ∧ t.vdevs = [] ∧ t.granules = [] ∧
      (t.dev.boot = if fw.edOk = false ∨ fw.mlOk = false then .recovery 1 else if fw.version < Config.fusedVersion then .recovery 2
        else if fw.trained = false then .recovery 4 else .ready) ∧
      (t.dev.measure = if t.dev.boot = .recovery 1 ∨ t.dev.boot = .recovery 2 then s.dev.measure else digestOf (sha384 fw.image)) ∧
      ∀ a, t.byteAt a = if memKey a < 8191 * 2 ^ 39 then 0 else s.byteAt a
    (∀ fw : Firmware, s.dev.boot = .off → ∃ t, exec (.powerOn fw) s = .next t ∧ boots fw 0 t ∧ t.dev.ptpFree = true) ∧
    (∀ fw n, s.dev.boot = .recovery n → ∃ t, exec (.firmwareUpdate fw) s = .next t ∧ boots fw s.dev.time t) ∧
    (∀ fw, s.dev.boot = .ready → exec (.firmwareUpdate fw) s = .next s ∧ exec (.powerOn fw) s = .next s) ∧
    (s.dev.boot = .ready → ∃ t, exec .deviceReset s = .next t ∧ t.dev.time = s.dev.time ∧ t.dev.devnum = 0 ∧ t.vdevs = [] ∧ t.cells = [] ∧
      t.ctxs = [] ∧ t.granules = [] ∧ (t.dev.boot = .ready ∨ t.dev.boot = .recovery 4) ∧
      t.dev.measure = s.dev.measure ∧ (∀ a, t.byteAt a = if memKey a < 8191 * 2 ^ 39 then 0 else s.byteAt a) ∧
      exec (.uncorrectableError .controlCore) s = .next t) ∧
    (∃ t, exec .powerOff s = .next t ∧ t.dev.boot = .off ∧ t.cells = [] ∧ t.ctxs = [] ∧ t.vdevs = [] ∧
      ∀ a, t.byteAt a = if memKey a < 8191 * 2 ^ 39 then 0 else s.byteAt a) ∧
    (∀ die stack, ∃ k, exec (.thermalStepChange die stack) s = .next { s with dev := { s.dev with therm := k } } ∧
      (s.dev.therm ≤ 3 → k ≤ 3 ∧
        (3 ≤ k ↔ 105 ≤ die ∨ 95 ≤ stack ∨ (s.dev.therm = 3 ∧ (100 ≤ die ∨ 90 ≤ stack))) ∧
        (2 ≤ k ↔ 103 ≤ die ∨ 93 ≤ stack ∨ (2 ≤ s.dev.therm ∧ (98 ≤ die ∨ 88 ≤ stack))) ∧
        (1 ≤ k ↔ 100 ≤ die ∨ 90 ≤ stack ∨ (1 ≤ s.dev.therm ∧ (95 ≤ die ∨ 85 ≤ stack))))) ∧
    (∀ o : Int, s.dev.boot = .ready →
      (o ≤ 1000000 → -1000000 ≤ o → exec (.ptpMessage o) s =
        .next { s with dev := { s.dev with ptpFree := false, ptpOffset := 42 * o, ptpHalf := false } }) ∧
      (1000000 < o → exec (.ptpMessage o) s = .next { s with dev :=
        { s.dev with ptpFree := false, ptpOffset := 0, ptpHalf := false, time := s.dev.time + 42 * o.toNat } }) ∧
      (o < -1000000 → exec (.ptpMessage o) s =
        .next { s with dev := { s.dev with ptpFree := false, ptpOffset := 42 * o, ptpHalf := true } })) ∧
    (s.dev.boot = .ready → exec .ptpfree s = .next { s with dev := { s.dev with ptpFree := true, ptpOffset := 0, ptpHalf := false } }) ∧
    exec .correctedError s = .next { s with dev := { s.dev with errcnt := s.dev.errcnt + 1 } } ∧
    (∀ pa, s.isLocal pa = true → populated pa = true → s.memops = [] →
      exec (.uncorrectableError (.hbmLine pa)) s = .next { s with poison := insertNat (memKey pa / 256 * 256) s.poison }) ∧
    (∀ cell i row, row < ((s.cell cell).acc i).rows → ∃ t, exec (.uncorrectableError (.accRow cell i row)) s = .next t ∧
      ((t.cell cell).acc i).poison =
        ((s.cell cell).acc i).poison ||| (1#8 <<< group ((s.cell cell).acc i).rows row)) ∧
    (∀ cell n, exec (.uncorrectableError (.tlb cell n)) s =
      .next (s.setCell cell { s.cell cell with tlb := (s.cell cell).tlb.eraseIdx n })) ∧
    (∀ die n, exec (.uncorrectableError (.sharedTlb die n)) s =
      .next { s with stlb := s.stlb.map fun p => if p.1 = die then (p.1, p.2.eraseIdx n) else p }) ∧
    (∀ cell line, ∃ t, exec (.uncorrectableError (.tileLine cell line)) s = .next t ∧
      (∀ x q o e, x ∈ (s.cell cell).sets → o ∈ x.args → o.block = none → o.tok.isTile = true →
        Handle.ofWord o.tok.payload = some e → e.line ≤ line → line < e.line + e.lines → q = Handle.word { e with poison := poisonAll e.rows } →
        ∃ y ∈ (t.cell cell).sets, y.sid = x.sid ∧ { o with tok := { o.tok with payload := q } } ∈ y.args) ∧
      ∀ k, k ≠ cell → t.cell k = s.cell k) ∧
    (∀ cell line i r h d, (s.cell cell).rings = [(i, r)] → r.tiles = [(h, d)] → ∃ t, exec (.uncorrectableError (.ringLine cell line)) s = .next t ∧
      (t.cell cell).rings = [(i, { r with tiles := [(
        (let first := r.base + r.head % r.nslot * r.slotl
         if first ≤ line ∧ line < first + h.lines then { h with poison := poisonAll h.rows } else h), d)] })]) ∧
    ∀ cell asid x, s.ctx asid = some x → cell ∈ x.cr.region → x.lost = false → ((s.cell cell).part asid).isSome = true → x.dryCmds = [] →
      ∃ t y b, exec (.uncorrectableError (.cellState cell asid)) s = .next t ∧ t.ctx asid = some y ∧ y.lost = true ∧ y.cr = x.cr ∧
        t.posts = s.posts ++ [b] ∧ b.fn = .pf ∧ b.cmd = 0x82 ∧ b.values = [BitVec.ofNat 64 (cell + asid * 2 ^ 16)] ∧
        (x.dry = .none → y.dry = .stopping ∧ ∃ m, t.bcasts = s.bcasts ++ [m] ∧ m.asid = asid ∧ m.kind = .stop ∧ m.left = x.cr.region) ∧
        (x.dry ≠ .none → y.dry = x.dry ∧ t.bcasts = s.bcasts)

/-! ### The encoding -/

/-- R30 to R36, R50, R51: the words worked out in 03_assembly, 06_ops_flow and 09_ops_scalar decode to the operators they stand for,
with every field; an unassigned opcode, FANOUT and a reserved format code are rejected by name. -/
def Obligations.WordsDecode : Prop :=
  let fixed (c : BitVec 11) (sl : BitVec 11) : Dest := { port := .to .a, mode := .fixed, cell := c, sprA := 0, sprB := 0, slot := sl }
  decode 0x20060008000000648043002000000000#128 = .ok (.add
    { var := 0, arity := .one, lit := some .b, ta := .keep, tw := 0, fmt := .s8, mod := 8, imm := 100, d0 := some (fixed 0x043 0x020),
      d1 := none }) ∧
  decode 0x200600400000000180430020F00007FF#128 = .ok (.add
    { var := 0, arity := .one, lit := some .b, ta := .keep, tw := 0, fmt := .s32, mod := 0, imm := 1, d0 := some (fixed 0x043 0x020),
      d1 := some { port := .link, mode := .producer, cell := 0, sprA := 0, sprB := 0, slot := 0x7FF } }) ∧
  decode 0x11046250000000008000000100000000#128 = .ok (.lnext
    { var := 0, arity := .one, lit := none, ta := .next, tw := 1, fmt := .z32, mod := 0, imm := 0, d0 := some (fixed 0 1), d1 := none }) ∧
  decode 0x0D040000000000000000000000000000#128 = .error .opcode ∧
  decode 0x07040000000000000000000000000000#128 = .error .opcode ∧
  decode 0x20040150000000008043002000000000#128 = .error .reserved

/-- R30, R36, R40, R41, R51: every operator the device accepts is read back from the word its fields make, and a word that stands for an
operator is the word of that operator and no other; so are destination words, and FANOUT records of which only E3 links. -/
def Obligations.EncodingsRoundTrip : Prop :=
  (∀ i x, i.wf = true → encode i = some x → decode x = .ok i) ∧
  (∀ i, (opcodeOf i).isSome → ∃ x, encode i = some x) ∧
  (∀ i x, decode x = .ok i → i.wf = true ∧ encode i = some x) ∧
  (∀ d : Option Dest, decodeDest (encodeDest d) = some d) ∧
  (∀ x d, decodeDest x = some d → encodeDest d = x) ∧
  (∀ x l, decodeRecord x = some l → l.length = 4) ∧
  ∀ x e0 e1 e2 e3, decodeRecord x = some [e0, e1, e2, e3] ↔
    x = encodeDest e0 ++ encodeDest e1 ++ encodeDest e2 ++ encodeDest e3 ∧
      (∀ e ∈ [e0, e1, e2, e3], Enc.destOptOk e = true) ∧ ∀ e ∈ [e0, e1, e2], Enc.notLink e = true

/-- The state after reset: the device is ready, with
every byte of local memory 0, no cell in use, no context and no virtual device, and its clock at 0 runs free (R349, R357, R469, R470);
every other register is 0 by log entries 2 and 3. -/
def Obligations.ResetLeavesTheDeviceReady : Prop :=
  let s := State.reset
  s.dev.boot = .ready ∧ s.dev.time = 0 ∧ s.dev.ptpFree = true ∧ s.ctxs = [] ∧ s.vdevs = [] ∧ s.granules = [] ∧
    (∀ c, s.cell c = Cell.scrubbed) ∧ (∀ a, s.byteAt a = 0) ∧ s.poison = [] ∧ s.w1 = [] ∧ s.MemoryCanonical ∧
    (∀ v, s.window (.vdev v) = Window.empty) ∧ s.enabled = [] ∧ s.Safe

/-! ### Steps -/

/-- One step does what comes next: what is due in the same cycle, else a watchdog's expiry (R95) or a token that stays on its cell, else what
the schedule names after its time, else one of the things that may happen, and the one passed over most often before any other once it has waited
longer than the device's patience; time does not pass an expiry, nor stand still for ever (R3, log entries 4 and 75).
A firing that a unit selects runs the operator its slot's word decodes to, and a command the event its code names
(R42, R53, R90, R91, R118, R398, R456, R458). -/
def Obligations.StepRunsTheDecodedInstruction : Prop :=
  ∀ s : State,
    (∀ a t, s.due = a :: t → step s = finishOutcome (State.act exec { s with due := t } a)) ∧
    (∀ p, s.due = [] → (s.ctxs.find? fun p => s.expired p.2) = some p → step s = finishOutcome (State.act exec s
      (.event (if p.2.wdogStage then .watchdogSecondExpiry p.1 else .watchdogFirstExpiry p.1)))) ∧
    (∀ n f k, s.due = [] → (∀ p ∈ s.ctxs, s.expired p.2 = false) → s.net[n]? = some f → (∀ g ∈ s.net.take n, g.staysOn s = false) →
      f.toks = [k] → f.tile = none → f.far = none → k.pcell = k.cell → k.remote = false → k.inj = false → s.away k.asid = false →
      step s = finishOutcome (State.act exec s (.event (.tokenArrival n)))) ∧
    (s.due = [] → s.forced = none →
      (∀ c t, s.schedule = c :: t →
        (s.untilExpiry c.dt = none → step s = finishOutcome (State.act exec (State.advance { s with schedule := t } c.dt) c.what)) ∧
        (∀ k, s.untilExpiry c.dt = some k → k ≤ c.dt ∧
          step s = .next (State.advance { s with schedule := { c with dt := c.dt - k } :: t } k).finish)) ∧
      (∀ k, s.schedule = [] → s.untilExpiry s.freeCycles = some k → step s = .next (s.advance k).finish) ∧
      (s.schedule = [] → s.untilExpiry s.freeCycles = none →
        (s.enabled = [] → step s = .next (State.advance { s with passed := [] } s.freeCycles).finish) ∧
        (s.enabled ≠ [] → ∃ a ∈ s.enabled,
          step s = finishOutcome (State.act exec ((s.passOver s.enabled (some a)).advance s.freeCycles) a) ∧
          (∀ b ∈ s.enabled, Config.patience < s.ageOf b → s.ageOf b ≤ s.ageOf a ∧ 1 ≤ s.freeCycles)))) ∧
    ((Config.patience + 1) * (s.dev.cycles + 1) ≤ s.tick → 1 ≤ s.freeCycles) ∧
    (∀ i, State.act exec s (.event i) = exec i s) ∧
    (∀ cell q g i, q.firing = some g → decode g.word = .ok i → State.start exec s cell q = exec i { s with sel := some g }) ∧
    (∀ cell q f i, q.snap = none → s.firingOf cell q = (f, i) →
      f.word = ((s.cell cell).activeSlot q.asid q.slot).word ∧ f.asid = q.asid ∧ f.tag = q.tag ∧ f.slot = q.slot ∧
      (∀ e, s.breakDue cell q = false → decode f.word = .error e → State.start exec s cell q = .next (s.raise f tILLEGAL_OP)) ∧
      (∀ e, s.breakDue cell q = true → decode f.word = .error e → ∃ fl, State.start exec s cell q = .next (s.raise f { tBREAK with flags := fl })) ∧
      (∀ k t, s.breakDue cell q = true → i = some k → (unitOf (f.word.extractLsb' 120 8).toNat (isCompute cell)).isSome →
        exec k { (s.modCtx f.asid fun x => { x with frames := put (tagFrame f.tag) { s.frameOf f.asid f.tag with flags := 0 } x.frames })
          with sel := some f } = .next t →
        (t.sel = none → ∃ fl, State.start exec s cell q = .next (s.raise f { tBREAK with flags := fl })) ∧
        (t.sel ≠ none → State.start exec s cell q = exec k { s with sel := some f }))) ∧
    (∀ cell u q rest i f t, s.candidates cell u = q :: rest → q.snap = none → s.breakDue cell q = false → s.firingOf cell q = (f, some i) →
      (unitOf (f.word.extractLsb' 120 8).toNat (isCompute cell)).isSome → exec i { s with sel := some f } = .next t → decode f.word = .ok i ∧
        (t.sel = none → State.act exec s (.fire cell u) =
          .next (t.afterStart cell u q f.word (unitCycles s f) ((rest.filter (s.wouldStart exec cell)).map FSet.sid))) ∧
        (t.sel ≠ none → State.act exec s (.fire cell u) = State.fireFirst exec cell u rest { t with sel := none })) ∧
    (∀ cell u, s.candidates cell u = [] → State.act exec s (.fire cell u) = .next s) ∧
    ∀ fn i t, s.canTake fn = true → (s.slotAt fn).ok = true → commandOf (s.slotAt fn).code (s.slotAt fn).cmd = some i → exec i s = .next t →
      State.act exec s (.command fn) = .next (if t.posts = s.posts then s else t.popSlot fn)

/-- No instruction and no step stops the machine: every one answers a next state, from every state. -/
def Obligations.EveryStepIsSafe : Prop :=
  (∀ (i : Instr) (s : State), ∃ t, exec i s = .next t) ∧ ∀ s : State, s.Safe

/-! ### Memory, commits and traps -/

/-- R8, R21, R281: memory reads back what was last written, other bytes stay, and a number lies least significant byte first; that one memory has one
representation is the model's own form (log entry 2). -/
def Obligations.MemoryReadsBack : Prop :=
  ∀ m : List Host.Cell, Memory.wf m = true →
    (∀ a vs, Memory.wf (Memory.write m a vs) = true ∧
      ∀ b, Memory.get (Memory.write m a vs) b = if a ≤ b ∧ b < a + vs.length then vs.getD (b - a) 0 else Memory.get m b) ∧
    (∀ a n, Memory.wf (Memory.clear m a n) = true ∧
      ∀ b, Memory.get (Memory.clear m a n) b = if a ≤ b ∧ b < a + n then 0 else Memory.get m b) ∧
    (∀ a n, Memory.read m a n = (List.range n).map fun k => Memory.get m (a + k)) ∧
    (∀ a n x, leNat (Memory.read (Memory.write m a (leBytes n x)) a n) = x % 256 ^ n) ∧
    ∀ m2 : List Host.Cell, Memory.wf m2 = true → (∀ b, Memory.get m2 b = Memory.get m b) → m2 = m

/-- What a commit leaves alone (R76, R172): the frame of every instruction that commits with outputs and flags only. On its cell the set
goes and only its tiles, sets, records and counts change; in its context the sticky word of its own frame, the counts, and the sillage
walks; in memory that frame's table entry and two counters of the trace header; the rest of the device stays. A token for another device
may meet poison in the remote port table, which is logged (R389), and tokens of a frame that has ended are orphans (R144). -/
def Obligations.CommitFrame : Prop :=
  ∀ (s : State) (f : Firing) (outs : List Out) (cell1 : Cell) (placed : List Out) (fl : Flags),
    (s.cell f.cell).place outs = some (cell1, placed) →
    let t := s.committed f cell1 placed fl id
    let c := s.cell f.cell
    let d := t.cell f.cell
    let near : Prop := ∀ d ∈ f.outs0 ++ f.outs1, d.mode ≠ .remote
    t.sel = none ∧ t.dev = s.dev ∧ t.poison = s.poison ∧ t.w1 = s.w1 ∧ t.granules = s.granules ∧
    t.windows = s.windows ∧ t.posts = s.posts ∧ t.memops = s.memops ∧ t.walks = s.walks ∧ t.fills = s.fills ∧
    t.stlb = s.stlb ∧ t.bcasts = s.bcasts ∧ t.reqs = s.reqs ∧ t.due = s.due ∧ t.schedule = s.schedule ∧
    (near → t.vdevs = s.vdevs ∧ t.freezes = s.freezes ∧ t.fabOut = s.fabOut ∧ ∀ a, a ≠ f.asid → t.ctx a = s.ctx a) ∧
    (s.runsIn f = true → ∀ k, k ≠ f.cell → t.cell k = s.cell k) ∧
    d.findSet f.sid = none ∧ (∀ sid, sid ≠ f.sid → d.findSet sid = c.findSet sid) ∧
    d.entries = c.entries ∧ d.input = c.input ∧ d.accs = c.accs ∧ d.loops = c.loops ∧ d.rings = c.rings ∧ d.banks = c.banks ∧
    d.ops = c.ops ∧ d.parts = c.parts ∧ d.tlb = c.tlb ∧ d.breaks = c.breaks ∧ d.fbreaks = c.fbreaks ∧
    (∀ x, near → s.ctx f.asid = some x → ∃ y, t.ctx f.asid = some y ∧ y.cr = x.cr ∧ y.par = x.par ∧
      (s.runsIn f = true → y.pool = x.pool ∧ y.traps = x.traps) ∧ y.parked = x.parked ∧ y.ways = x.ways ∧ y.fired = x.fired + 1 ∧ (∀ i, i ≠ tagFrame f.tag → y.frame i = x.frame i) ∧
      (let fr := x.frame (tagFrame f.tag)
       y.frame (tagFrame f.tag) = if frameCurrent fr f.tag = true then { fr with flags := fr.flags ||| fl } else fr) ∧
      (∀ a, s.runsIn f = true → (fl ≠ 0 → ¬ inStore (x.cr.frtbase + 64 + 32 * tagFrame f.tag) 32 a) → ¬ inStore (x.cr.tracebase + 28) 4 a →
        ¬ inStore (x.cr.tracebase + 32) 2 a → s.MemoryCanonical → t.byteAt a = s.byteAt a))

/-- R374, R377, R378, R380, R382: a firing that traps leaves no output, issues nothing and changes no accumulator, ring, write-once word or
sticky word; its LIVE frame is PARKED, its record holds its operands and waits for an index, the parking is broadcast, and no set or
entry of the frame that is not parked, or running, stays on the cell. A frame taken for a child that a withdrawn SPAWN has not yet
made goes back (R151). In ENDING the trap is dropped and counted. -/
def Obligations.TrapParksItsFrame : Prop :=
  ∀ (s : State) (f : Firing) (t : Trap) (x : Ctx), s.ctx f.asid = some x →
    let fr := x.frame (tagFrame f.tag)
    let u := s.raise f t
    let c := s.cell f.cell
    let d := u.cell f.cell
    let args := ((c.findSet f.sid).map FSet.args).getD []
    let given (i : Nat) : Prop := ∃ q ∈ c.sets, c.heldChild q.sid = some i
    u.sel = none ∧ u.net = s.net ∧ u.memops = s.memops ∧ u.w1 = s.w1 ∧ u.poison = s.poison ∧ u.vdevs = s.vdevs ∧ u.fabOut = s.fabOut ∧
    d.findSet f.sid = none ∧ d.accs = c.accs ∧ d.rings = c.rings ∧ d.ops = c.ops ∧ d.banks = c.banks ∧
    (∀ a, a ≠ f.asid → u.ctx a = s.ctx a) ∧
    ∃ y, u.ctx f.asid = some y ∧ y.cr = x.cr ∧ y.par = x.par ∧
      (∀ i, (y.frame i).flags = (x.frame i).flags ∧ (y.frame i).gen = (x.frame i).gen ∧
        (i ≠ tagFrame f.tag → ¬ given i → (y.frame i).st = (x.frame i).st)) ∧
      (¬ given (tagFrame f.tag) → frameCurrent fr f.tag = false → y.traps = x.traps ∧ y.pool.orphans = x.pool.orphans + 1 ∧ u.bcasts = s.bcasts) ∧
      (¬ given (tagFrame f.tag) → frameCurrent fr f.tag = true → (y.frame (tagFrame f.tag)).st = .parked ∧
        ∃ r, y.traps = x.traps ++ [r] ∧ r.trap = { t.withCoord f with need := [] } ∧ r.kind = 1 ∧ r.cell = f.cell ∧ r.slot = f.slot ∧ r.tag = f.tag ∧
          r.word = f.word ∧ r.ops = f.ops ∧ r.args = args ∧ r.index = none ∧ r.pending = true ∧ r.esc = if fr.src = .handler then 3 else 0) ∧
      (¬ given (tagFrame f.tag) → fr.st = .live → fr.gen = tagGen f.tag →
        (let b : Bcast := { asid := f.asid, kind := .park (tagFrame f.tag) fr.gen.toNat (t.cls == 0x11), left := x.cr.region.filter (· != f.cell) }
         u.bcasts = s.bcasts ++ [b]) ∧
        (∀ e ∈ d.entries, e.ofFrame f.asid (tagFrame f.tag) fr.gen = true → e.parked = true) ∧
        (∀ q ∈ d.sets, q.ofFrame f.asid (tagFrame f.tag) fr.gen = true → q.running = true))

/-- The memory keeps its canonical form, and the lines listed as poisoned rise, through every step of every kind; so equal memories
are equal data in every state a run can reach. -/
def Obligations.StepKeepsMemoryCanonical : Prop :=
  ∀ s t : State, s.MemoryCanonical → s.poison.Pairwise (· < ·) → step s = .next t → t.MemoryCanonical ∧ t.poison.Pairwise (· < ·)
end

