-- ==== Sys2Proof/Laws/Memory.lean ====
section
/-! SUPPORT. Laws of byte memory: what a write and a clear leave at each address, that wide reads are made of byte
reads, and that every memory operation keeps the canonical form. -/

namespace Sys2Proof.Machine

namespace Memory

/-- The canonical form in words: addresses strictly rising, and no byte zero. -/
theorem wf_iff (m : List Host.Cell) :
    wf m = true ↔ m.Pairwise (fun p q => p.1 < q.1) ∧ ∀ p ∈ m, p.2 ≠ 0 := by
  induction m with
  | nil => simp [wf]
  | cons p t ih =>
    obtain ⟨a, v⟩ := p
    cases t with
    | nil => simp [wf]
    | cons q t =>
      obtain ⟨b, u⟩ := q
      simp only [wf, Bool.and_eq_true, decide_eq_true_eq, bne_iff_ne, ne_eq, ih]
      simp only [List.pairwise_cons, List.mem_cons, forall_eq_or_imp]
      constructor
      · rintro ⟨⟨hab, hv⟩, ⟨hb, hp⟩, hu, ht⟩
        exact ⟨⟨⟨hab, fun x hx => Nat.lt_trans hab (hb x hx)⟩, hb, hp⟩, hv, hu, ht⟩
      · rintro ⟨⟨⟨hab, _⟩, hb, hp⟩, hv, hu, ht⟩
        exact ⟨⟨hab, hv⟩, ⟨hb, hp⟩, hu, ht⟩

theorem cells_mem (a : Nat) (vs : List Byte) (p : Host.Cell) (h : p ∈ cells a vs) :
    a ≤ p.1 ∧ p.1 < a + vs.length ∧ p.2 ≠ 0 := by
  induction vs generalizing a with
  | nil => simp [cells] at h
  | cons v vs ih =>
    simp only [cells] at h
    split at h
    · have := ih (a + 1) h
      simp only [List.length_cons]
      exact ⟨by omega, by omega, this.2.2⟩
    · rcases List.mem_cons.mp h with rfl | h
      · simp only [List.length_cons]
        exact ⟨Nat.le_refl _, by omega, by assumption⟩
      · have := ih (a + 1) h
        simp only [List.length_cons]
        exact ⟨by omega, by omega, this.2.2⟩

theorem cells_pairwise (a : Nat) (vs : List Byte) : (cells a vs).Pairwise (fun p q => p.1 < q.1) := by
  induction vs generalizing a with
  | nil => simp [cells]
  | cons v vs ih =>
    simp only [cells]
    split
    · exact ih _
    · refine List.pairwise_cons.mpr ⟨fun q hq => ?_, ih _⟩
      have := cells_mem _ _ _ hq
      simp only; omega

/-- A write keeps the canonical form. -/
theorem wf_write {m : List Host.Cell} (h : wf m = true) (a : Nat) (vs : List Byte) : wf (write m a vs) = true := by
  rw [wf_iff] at h ⊢
  obtain ⟨hp, hz⟩ := h
  refine ⟨?_, ?_⟩
  · unfold write
    refine List.pairwise_append.mpr ⟨hp.filter _, List.pairwise_append.mpr ⟨cells_pairwise _ _, hp.filter _, ?_⟩, ?_⟩
    · intro p hp' q hq
      have h1 := cells_mem _ _ _ hp'
      have h2 := List.mem_filter.mp hq
      simp only [decide_eq_true_eq] at h2
      omega
    · intro p hp' q hq
      have h1 := List.mem_filter.mp hp'
      simp only [decide_eq_true_eq] at h1
      rcases List.mem_append.mp hq with hq | hq
      · have h2 := cells_mem _ _ _ hq
        omega
      · have h2 := List.mem_filter.mp hq
        simp only [decide_eq_true_eq] at h2
        omega
  · intro p hp'
    unfold write at hp'
    rcases List.mem_append.mp hp' with hq | hq
    · exact hz p (List.mem_of_mem_filter hq)
    · rcases List.mem_append.mp hq with hq | hq
      · exact (cells_mem _ _ _ hq).2.2
      · exact hz p (List.mem_of_mem_filter hq)

/-- A clear keeps the canonical form. -/
theorem wf_clear {m : List Host.Cell} (h : wf m = true) (a n : Nat) : wf (clear m a n) = true := by
  rw [wf_iff] at h ⊢
  exact ⟨h.1.filter _, fun p hp => h.2 p (List.mem_of_mem_filter hp)⟩

theorem look_append {α : Type} (k : Nat) (x y : List (Nat × α)) :
    look k (x ++ y) = (look k x).orElse fun _ => look k y := by
  induction x with
  | nil => simp [look]
  | cons p t ih => simp only [List.cons_append, look]; split <;> simp_all

theorem look_filter_key {α : Type} (k : Nat) (m : List (Nat × α)) (p : Nat → Bool) :
    look k (m.filter fun q => p q.1) = if p k then look k m else none := by
  induction m with
  | nil => simp [look]
  | cons q t ih =>
    simp only [List.filter_cons, look]
    by_cases hq : q.1 = k
    · subst hq
      by_cases hp : p q.1 = true
      · simp [hp, look]
      · simp_all
    · by_cases hp : p q.1 = true
      · simp [hp, look, hq, ih]
      · simp [hp, hq, ih]

theorem look_cells (a : Nat) (vs : List Byte) (b : Nat) :
    (look b (cells a vs)).getD 0 = if a ≤ b then vs.getD (b - a) 0 else 0 := by
  induction vs generalizing a with
  | nil => simp [cells, look]
  | cons v vs ih =>
    have tail : (look b (cells (a + 1) vs)).getD 0 = if a + 1 ≤ b then vs.getD (b - (a + 1)) 0 else 0 := ih (a + 1)
    rcases Nat.lt_trichotomy b a with hlt | rfl | hgt
    · have h1 : ¬ a ≤ b := by omega
      have h2 : ¬ a + 1 ≤ b := by omega
      have h3 : a ≠ b := by omega
      rw [if_neg h2] at tail
      simp only [cells]
      split <;> simp_all [look]
    · have h2 : ¬ b + 1 ≤ b := by omega
      rw [if_neg h2] at tail
      simp only [cells]
      split <;> simp_all [look]
    · have h1 : a ≤ b := by omega
      have h2 : a + 1 ≤ b := hgt
      have h3 : a ≠ b := by omega
      have h4 : b - a = (b - (a + 1)) + 1 := by omega
      rw [if_pos h2] at tail
      simp only [cells]
      split <;> simp_all [look]

/-- A byte after a write: the byte written, or the one that stood there. -/
theorem get_write (m : List Host.Cell) (a b : Nat) (vs : List Byte) :
    get (write m a vs) b = if a ≤ b ∧ b < a + vs.length then vs.getD (b - a) 0 else get m b := by
  have hA := look_filter_key b m fun x => decide (x < a)
  have hC := look_filter_key b m fun x => decide (a + vs.length ≤ x)
  have hB := look_cells a vs b
  unfold get write
  rw [look_append, look_append, hA, hC]
  by_cases h1 : b < a
  · have h2 : ¬ (a ≤ b ∧ b < a + vs.length) := by omega
    have h3 : ¬ a + vs.length ≤ b := by omega
    have h4 : ¬ a ≤ b := by omega
    rw [if_neg h4] at hB
    simp only [h1, decide_true, if_true, h2, if_false, h3, decide_false, Bool.false_eq_true]
    cases look b m with
    | some v => simp
    | none => cases hl : look b (cells a vs) <;> simp_all
  · have hab : a ≤ b := by omega
    rw [if_pos hab] at hB
    by_cases h5 : b < a + vs.length
    · have h6 : ¬ a + vs.length ≤ b := by omega
      rw [if_neg (by simp [h1]), if_neg (by simp [h6]), if_pos ⟨hab, h5⟩, ← hB]
      cases look b (cells a vs) <;> rfl
    · have h6 : a + vs.length ≤ b := by omega
      have h7 : vs.getD (b - a) 0 = 0 := by
        rw [List.getD_eq_getElem?_getD, List.getElem?_eq_none (by omega)]; rfl
      have h8 : look b (cells a vs) = none := by
        cases hl : look b (cells a vs) with
        | none => rfl
        | some v =>
          exfalso
          have hm : ∀ (l : List Host.Cell), look b l = some v → (b, v) ∈ l := by
            intro l
            induction l with
            | nil => simp [look]
            | cons q t ih =>
              obtain ⟨c, u⟩ := q
              simp only [look]
              split
              · intro h; simp_all
              · intro h; exact List.mem_cons_of_mem _ (ih h)
          have := cells_mem _ _ _ (hm _ hl)
          simp only at this
          omega
      have h9 : ¬ (a ≤ b ∧ b < a + vs.length) := by omega
      rw [if_neg (by simp [h1]), if_pos (by simp [h6]), if_neg h9, h8]
      rfl

/-- A byte after a clear. -/
theorem get_clear (m : List Host.Cell) (a n b : Nat) :
    get (clear m a n) b = if a ≤ b ∧ b < a + n then 0 else get m b := by
  have h := look_filter_key b m fun x => decide (x < a) || decide (a + n ≤ x)
  unfold get clear
  rw [h]
  by_cases h1 : b < a
  · have : ¬ (a ≤ b ∧ b < a + n) := by omega
    simp [h1, this]
  · by_cases h2 : a + n ≤ b
    · have : ¬ (a ≤ b ∧ b < a + n) := by omega
      simp [h2, this]
    · have : a ≤ b ∧ b < a + n := by omega
      simp [h1, h2, this]

theorem get_cons_ne {m : List Host.Cell} {b c : Nat} {v : Byte} (h : b ≠ c) : get ((b, v) :: m) c = get m c := by
  simp [get, look, h]

theorem get_below {m : List Host.Cell} {c : Nat} (h : ∀ p ∈ m, c < p.1) : get m c = 0 := by
  induction m with
  | nil => simp [get, look]
  | cons p t ih =>
    have h1 := h p (List.mem_cons_self ..)
    obtain ⟨b, v⟩ := p
    rw [get_cons_ne (by simp only at h1; omega)]
    exact ih fun q hq => h q (List.mem_cons_of_mem _ hq)

theorem bytes_eq (a n : Nat) (m : List Host.Cell) (hs : m.Pairwise fun p q => p.1 < q.1) (hl : ∀ p ∈ m, a ≤ p.1) :
    bytes a n m = (List.range n).map fun i => get m (a + i) := by
  induction n generalizing a m with
  | zero => simp [bytes]
  | succ n ih =>
    rw [List.range_succ_eq_map, List.map_cons, List.map_map]
    cases m with
    | nil => simp [bytes, ih (a + 1) [] (by simp) (by simp), get, look, Function.comp_def]
    | cons p t =>
      obtain ⟨b, v⟩ := p
      have hb := hl (b, v) (List.mem_cons_self ..)
      obtain ⟨h1, h2⟩ := List.pairwise_cons.mp hs
      simp only at hb h1
      simp only [bytes]
      split
      · rename_i hba
        subst hba
        rw [ih (b + 1) t h2 fun q hq => h1 q hq]
        simp only [Nat.add_zero, List.cons.injEq]
        refine ⟨by simp [get, look], List.map_congr_left fun i _ => ?_⟩
        rw [Function.comp_apply, get_cons_ne (by omega)]
        congr 1; omega
      · rename_i hba
        rw [ih (a + 1) ((b, v) :: t) hs (by
          intro q hq
          rcases List.mem_cons.mp hq with rfl | hq
          · simp only; omega
          · have := h1 q hq; omega)]
        simp only [Nat.add_zero, List.cons.injEq]
        refine ⟨(get_below ?_).symm, List.map_congr_left fun i _ => ?_⟩
        · intro q hq
          rcases List.mem_cons.mp hq with rfl | hq
          · simp only; omega
          · have := h1 q hq; omega
        · rw [Function.comp_apply]; congr 1; omega

theorem get_dropWhile (m : List Host.Cell) (a c : Nat) (h : a ≤ c) :
    get (m.dropWhile fun p => decide (p.1 < a)) c = get m c := by
  induction m with
  | nil => rfl
  | cons p t ih =>
    obtain ⟨b, v⟩ := p
    simp only [List.dropWhile_cons]
    split
    · rename_i hlt
      simp only [decide_eq_true_eq] at hlt
      rw [ih, get_cons_ne (by omega)]
    · rfl

/-- A wide read of canonical memory is the bytes read one by one. -/
theorem read_eq_get {m : List Host.Cell} (h : wf m = true) (a n : Nat) :
    read m a n = (List.range n).map fun i => get m (a + i) := by
  obtain ⟨hs, -⟩ := (wf_iff m).mp h
  have hd : (m.dropWhile fun p => decide (p.1 < a)).Pairwise fun p q => p.1 < q.1 :=
    hs.sublist (List.dropWhile_sublist _)
  have hl : ∀ p ∈ m.dropWhile (fun p => decide (p.1 < a)), a ≤ p.1 := by
    clear h
    induction m with
    | nil => simp
    | cons p t ih =>
      obtain ⟨h1, h2⟩ := List.pairwise_cons.mp hs
      simp only [List.dropWhile_cons]
      split
      · refine ih h2 (h2.sublist (List.dropWhile_sublist _))
      · rename_i hge
        simp only [decide_eq_true_eq, Nat.not_lt] at hge
        intro q hq
        rcases List.mem_cons.mp hq with rfl | hq
        · exact hge
        · have := h1 q hq; omega
  unfold read
  rw [bytes_eq a n _ hd hl]
  exact List.map_congr_left fun i _ => get_dropWhile m a _ (by omega)

end Memory

/-- Memory after a store keeps the canonical form. -/
theorem State.writeMem_wf {s : State} (h : Memory.wf s.mem = true) (a : Nat) (bs : List Byte) :
    Memory.wf (s.writeMem a bs).mem = true := Memory.wf_write h _ _

theorem State.writeNat_wf {s : State} (h : Memory.wf s.mem = true) (a n x : Nat) :
    Memory.wf (s.writeNat a n x).mem = true := State.writeMem_wf h _ _

/-- Memory at reset has the canonical form. -/
theorem State.reset_mem_wf : Memory.wf State.reset.mem = true := rfl

end Sys2Proof.Machine
end

