-- ==== Sys2Proof/Laws/State.lean ====
section
/-! SUPPORT. What each update of the state leaves alone, field by field, and what it changes. -/

namespace Sys2Proof.Machine

/-! ### setCell -/

@[simp] theorem State.setCell_dev (s : State) (c : Nat) (x : Cell) : (s.setCell c x).dev = s.dev := rfl
@[simp] theorem State.setCell_mem (s : State) (c : Nat) (x : Cell) : (s.setCell c x).mem = s.mem := rfl
@[simp] theorem State.setCell_poison (s : State) (c : Nat) (x : Cell) : (s.setCell c x).poison = s.poison := rfl
@[simp] theorem State.setCell_w1 (s : State) (c : Nat) (x : Cell) : (s.setCell c x).w1 = s.w1 := rfl
@[simp] theorem State.setCell_w1by (s : State) (c : Nat) (x : Cell) : (s.setCell c x).w1by = s.w1by := rfl
@[simp] theorem State.setCell_ctxs (s : State) (c : Nat) (x : Cell) : (s.setCell c x).ctxs = s.ctxs := rfl
@[simp] theorem State.setCell_vdevs (s : State) (c : Nat) (x : Cell) : (s.setCell c x).vdevs = s.vdevs := rfl
@[simp] theorem State.setCell_granules (s : State) (c : Nat) (x : Cell) : (s.setCell c x).granules = s.granules := rfl
@[simp] theorem State.setCell_scrubCmds (s : State) (c : Nat) (x : Cell) : (s.setCell c x).scrubCmds = s.scrubCmds := rfl
@[simp] theorem State.setCell_exported (s : State) (c : Nat) (x : Cell) : (s.setCell c x).exported = s.exported := rfl
@[simp] theorem State.setCell_windows (s : State) (c : Nat) (x : Cell) : (s.setCell c x).windows = s.windows := rfl
@[simp] theorem State.setCell_posts (s : State) (c : Nat) (x : Cell) : (s.setCell c x).posts = s.posts := rfl
@[simp] theorem State.setCell_freezes (s : State) (c : Nat) (x : Cell) : (s.setCell c x).freezes = s.freezes := rfl
@[simp] theorem State.setCell_net (s : State) (c : Nat) (x : Cell) : (s.setCell c x).net = s.net := rfl
@[simp] theorem State.setCell_xfers (s : State) (c : Nat) (x : Cell) : (s.setCell c x).xfers = s.xfers := rfl
@[simp] theorem State.setCell_nextXfer (s : State) (c : Nat) (x : Cell) : (s.setCell c x).nextXfer = s.nextXfer := rfl
@[simp] theorem State.setCell_memops (s : State) (c : Nat) (x : Cell) : (s.setCell c x).memops = s.memops := rfl
@[simp] theorem State.setCell_nextOp (s : State) (c : Nat) (x : Cell) : (s.setCell c x).nextOp = s.nextOp := rfl
@[simp] theorem State.setCell_walks (s : State) (c : Nat) (x : Cell) : (s.setCell c x).walks = s.walks := rfl
@[simp] theorem State.setCell_fills (s : State) (c : Nat) (x : Cell) : (s.setCell c x).fills = s.fills := rfl
@[simp] theorem State.setCell_farPages (s : State) (c : Nat) (x : Cell) : (s.setCell c x).farPages = s.farPages := rfl
@[simp] theorem State.setCell_invals (s : State) (c : Nat) (x : Cell) : (s.setCell c x).invals = s.invals := rfl
@[simp] theorem State.setCell_stlb (s : State) (c : Nat) (x : Cell) : (s.setCell c x).stlb = s.stlb := rfl
@[simp] theorem State.setCell_bcasts (s : State) (c : Nat) (x : Cell) : (s.setCell c x).bcasts = s.bcasts := rfl
@[simp] theorem State.setCell_reqs (s : State) (c : Nat) (x : Cell) : (s.setCell c x).reqs = s.reqs := rfl
@[simp] theorem State.setCell_fabTokens (s : State) (c : Nat) (x : Cell) : (s.setCell c x).fabTokens = s.fabTokens := rfl
@[simp] theorem State.setCell_fabReqs (s : State) (c : Nat) (x : Cell) : (s.setCell c x).fabReqs = s.fabReqs := rfl
@[simp] theorem State.setCell_fabOut (s : State) (c : Nat) (x : Cell) : (s.setCell c x).fabOut = s.fabOut := rfl
@[simp] theorem State.setCell_fabAsks (s : State) (c : Nat) (x : Cell) : (s.setCell c x).fabAsks = s.fabAsks := rfl
@[simp] theorem State.setCell_fabAnswers (s : State) (c : Nat) (x : Cell) : (s.setCell c x).fabAnswers = s.fabAnswers := rfl
@[simp] theorem State.setCell_orders (s : State) (c : Nat) (x : Cell) : (s.setCell c x).orders = s.orders := rfl
@[simp] theorem State.setCell_homeSeq (s : State) (c : Nat) (x : Cell) : (s.setCell c x).homeSeq = s.homeSeq := rfl
@[simp] theorem State.setCell_due (s : State) (c : Nat) (x : Cell) : (s.setCell c x).due = s.due := rfl
@[simp] theorem State.setCell_schedule (s : State) (c : Nat) (x : Cell) : (s.setCell c x).schedule = s.schedule := rfl
@[simp] theorem State.setCell_passed (s : State) (c : Nat) (x : Cell) : (s.setCell c x).passed = s.passed := rfl
@[simp] theorem State.setCell_tick (s : State) (c : Nat) (x : Cell) : (s.setCell c x).tick = s.tick := rfl
@[simp] theorem State.setCell_sel (s : State) (c : Nat) (x : Cell) : (s.setCell c x).sel = s.sel := rfl

/-! ### modCell -/

@[simp] theorem State.modCell_dev (s : State) (c : Nat) (g : Cell → Cell) : (s.modCell c g).dev = s.dev := rfl
@[simp] theorem State.modCell_mem (s : State) (c : Nat) (g : Cell → Cell) : (s.modCell c g).mem = s.mem := rfl
@[simp] theorem State.modCell_poison (s : State) (c : Nat) (g : Cell → Cell) : (s.modCell c g).poison = s.poison := rfl
@[simp] theorem State.modCell_w1 (s : State) (c : Nat) (g : Cell → Cell) : (s.modCell c g).w1 = s.w1 := rfl
@[simp] theorem State.modCell_w1by (s : State) (c : Nat) (g : Cell → Cell) : (s.modCell c g).w1by = s.w1by := rfl
@[simp] theorem State.modCell_ctxs (s : State) (c : Nat) (g : Cell → Cell) : (s.modCell c g).ctxs = s.ctxs := rfl
@[simp] theorem State.modCell_vdevs (s : State) (c : Nat) (g : Cell → Cell) : (s.modCell c g).vdevs = s.vdevs := rfl
@[simp] theorem State.modCell_granules (s : State) (c : Nat) (g : Cell → Cell) : (s.modCell c g).granules = s.granules := rfl
@[simp] theorem State.modCell_scrubCmds (s : State) (c : Nat) (g : Cell → Cell) : (s.modCell c g).scrubCmds = s.scrubCmds := rfl
@[simp] theorem State.modCell_exported (s : State) (c : Nat) (g : Cell → Cell) : (s.modCell c g).exported = s.exported := rfl
@[simp] theorem State.modCell_windows (s : State) (c : Nat) (g : Cell → Cell) : (s.modCell c g).windows = s.windows := rfl
@[simp] theorem State.modCell_posts (s : State) (c : Nat) (g : Cell → Cell) : (s.modCell c g).posts = s.posts := rfl
@[simp] theorem State.modCell_freezes (s : State) (c : Nat) (g : Cell → Cell) : (s.modCell c g).freezes = s.freezes := rfl
@[simp] theorem State.modCell_net (s : State) (c : Nat) (g : Cell → Cell) : (s.modCell c g).net = s.net := rfl
@[simp] theorem State.modCell_xfers (s : State) (c : Nat) (g : Cell → Cell) : (s.modCell c g).xfers = s.xfers := rfl
@[simp] theorem State.modCell_nextXfer (s : State) (c : Nat) (g : Cell → Cell) : (s.modCell c g).nextXfer = s.nextXfer := rfl
@[simp] theorem State.modCell_memops (s : State) (c : Nat) (g : Cell → Cell) : (s.modCell c g).memops = s.memops := rfl
@[simp] theorem State.modCell_nextOp (s : State) (c : Nat) (g : Cell → Cell) : (s.modCell c g).nextOp = s.nextOp := rfl
@[simp] theorem State.modCell_walks (s : State) (c : Nat) (g : Cell → Cell) : (s.modCell c g).walks = s.walks := rfl
@[simp] theorem State.modCell_fills (s : State) (c : Nat) (g : Cell → Cell) : (s.modCell c g).fills = s.fills := rfl
@[simp] theorem State.modCell_farPages (s : State) (c : Nat) (g : Cell → Cell) : (s.modCell c g).farPages = s.farPages := rfl
@[simp] theorem State.modCell_invals (s : State) (c : Nat) (g : Cell → Cell) : (s.modCell c g).invals = s.invals := rfl
@[simp] theorem State.modCell_stlb (s : State) (c : Nat) (g : Cell → Cell) : (s.modCell c g).stlb = s.stlb := rfl
@[simp] theorem State.modCell_bcasts (s : State) (c : Nat) (g : Cell → Cell) : (s.modCell c g).bcasts = s.bcasts := rfl
@[simp] theorem State.modCell_reqs (s : State) (c : Nat) (g : Cell → Cell) : (s.modCell c g).reqs = s.reqs := rfl
@[simp] theorem State.modCell_fabTokens (s : State) (c : Nat) (g : Cell → Cell) : (s.modCell c g).fabTokens = s.fabTokens := rfl
@[simp] theorem State.modCell_fabReqs (s : State) (c : Nat) (g : Cell → Cell) : (s.modCell c g).fabReqs = s.fabReqs := rfl
@[simp] theorem State.modCell_fabOut (s : State) (c : Nat) (g : Cell → Cell) : (s.modCell c g).fabOut = s.fabOut := rfl
@[simp] theorem State.modCell_fabAsks (s : State) (c : Nat) (g : Cell → Cell) : (s.modCell c g).fabAsks = s.fabAsks := rfl
@[simp] theorem State.modCell_fabAnswers (s : State) (c : Nat) (g : Cell → Cell) : (s.modCell c g).fabAnswers = s.fabAnswers := rfl
@[simp] theorem State.modCell_orders (s : State) (c : Nat) (g : Cell → Cell) : (s.modCell c g).orders = s.orders := rfl
@[simp] theorem State.modCell_homeSeq (s : State) (c : Nat) (g : Cell → Cell) : (s.modCell c g).homeSeq = s.homeSeq := rfl
@[simp] theorem State.modCell_due (s : State) (c : Nat) (g : Cell → Cell) : (s.modCell c g).due = s.due := rfl
@[simp] theorem State.modCell_schedule (s : State) (c : Nat) (g : Cell → Cell) : (s.modCell c g).schedule = s.schedule := rfl
@[simp] theorem State.modCell_passed (s : State) (c : Nat) (g : Cell → Cell) : (s.modCell c g).passed = s.passed := rfl
@[simp] theorem State.modCell_tick (s : State) (c : Nat) (g : Cell → Cell) : (s.modCell c g).tick = s.tick := rfl
@[simp] theorem State.modCell_sel (s : State) (c : Nat) (g : Cell → Cell) : (s.modCell c g).sel = s.sel := rfl

/-! ### setCtx -/

@[simp] theorem State.setCtx_dev (s : State) (a : Nat) (x : Ctx) : (s.setCtx a x).dev = s.dev := rfl
@[simp] theorem State.setCtx_mem (s : State) (a : Nat) (x : Ctx) : (s.setCtx a x).mem = s.mem := rfl
@[simp] theorem State.setCtx_poison (s : State) (a : Nat) (x : Ctx) : (s.setCtx a x).poison = s.poison := rfl
@[simp] theorem State.setCtx_w1 (s : State) (a : Nat) (x : Ctx) : (s.setCtx a x).w1 = s.w1 := rfl
@[simp] theorem State.setCtx_w1by (s : State) (a : Nat) (x : Ctx) : (s.setCtx a x).w1by = s.w1by := rfl
@[simp] theorem State.setCtx_cells (s : State) (a : Nat) (x : Ctx) : (s.setCtx a x).cells = s.cells := rfl
@[simp] theorem State.setCtx_vdevs (s : State) (a : Nat) (x : Ctx) : (s.setCtx a x).vdevs = s.vdevs := rfl
@[simp] theorem State.setCtx_granules (s : State) (a : Nat) (x : Ctx) : (s.setCtx a x).granules = s.granules := rfl
@[simp] theorem State.setCtx_scrubCmds (s : State) (a : Nat) (x : Ctx) : (s.setCtx a x).scrubCmds = s.scrubCmds := rfl
@[simp] theorem State.setCtx_exported (s : State) (a : Nat) (x : Ctx) : (s.setCtx a x).exported = s.exported := rfl
@[simp] theorem State.setCtx_windows (s : State) (a : Nat) (x : Ctx) : (s.setCtx a x).windows = s.windows := rfl
@[simp] theorem State.setCtx_posts (s : State) (a : Nat) (x : Ctx) : (s.setCtx a x).posts = s.posts := rfl
@[simp] theorem State.setCtx_freezes (s : State) (a : Nat) (x : Ctx) : (s.setCtx a x).freezes = s.freezes := rfl
@[simp] theorem State.setCtx_net (s : State) (a : Nat) (x : Ctx) : (s.setCtx a x).net = s.net := rfl
@[simp] theorem State.setCtx_xfers (s : State) (a : Nat) (x : Ctx) : (s.setCtx a x).xfers = s.xfers := rfl
@[simp] theorem State.setCtx_nextXfer (s : State) (a : Nat) (x : Ctx) : (s.setCtx a x).nextXfer = s.nextXfer := rfl
@[simp] theorem State.setCtx_memops (s : State) (a : Nat) (x : Ctx) : (s.setCtx a x).memops = s.memops := rfl
@[simp] theorem State.setCtx_nextOp (s : State) (a : Nat) (x : Ctx) : (s.setCtx a x).nextOp = s.nextOp := rfl
@[simp] theorem State.setCtx_walks (s : State) (a : Nat) (x : Ctx) : (s.setCtx a x).walks = s.walks := rfl
@[simp] theorem State.setCtx_fills (s : State) (a : Nat) (x : Ctx) : (s.setCtx a x).fills = s.fills := rfl
@[simp] theorem State.setCtx_farPages (s : State) (a : Nat) (x : Ctx) : (s.setCtx a x).farPages = s.farPages := rfl
@[simp] theorem State.setCtx_invals (s : State) (a : Nat) (x : Ctx) : (s.setCtx a x).invals = s.invals := rfl
@[simp] theorem State.setCtx_stlb (s : State) (a : Nat) (x : Ctx) : (s.setCtx a x).stlb = s.stlb := rfl
@[simp] theorem State.setCtx_bcasts (s : State) (a : Nat) (x : Ctx) : (s.setCtx a x).bcasts = s.bcasts := rfl
@[simp] theorem State.setCtx_reqs (s : State) (a : Nat) (x : Ctx) : (s.setCtx a x).reqs = s.reqs := rfl
@[simp] theorem State.setCtx_fabTokens (s : State) (a : Nat) (x : Ctx) : (s.setCtx a x).fabTokens = s.fabTokens := rfl
@[simp] theorem State.setCtx_fabReqs (s : State) (a : Nat) (x : Ctx) : (s.setCtx a x).fabReqs = s.fabReqs := rfl
@[simp] theorem State.setCtx_fabOut (s : State) (a : Nat) (x : Ctx) : (s.setCtx a x).fabOut = s.fabOut := rfl
@[simp] theorem State.setCtx_fabAsks (s : State) (a : Nat) (x : Ctx) : (s.setCtx a x).fabAsks = s.fabAsks := rfl
@[simp] theorem State.setCtx_fabAnswers (s : State) (a : Nat) (x : Ctx) : (s.setCtx a x).fabAnswers = s.fabAnswers := rfl
@[simp] theorem State.setCtx_orders (s : State) (a : Nat) (x : Ctx) : (s.setCtx a x).orders = s.orders := rfl
@[simp] theorem State.setCtx_homeSeq (s : State) (a : Nat) (x : Ctx) : (s.setCtx a x).homeSeq = s.homeSeq := rfl
@[simp] theorem State.setCtx_due (s : State) (a : Nat) (x : Ctx) : (s.setCtx a x).due = s.due := rfl
@[simp] theorem State.setCtx_schedule (s : State) (a : Nat) (x : Ctx) : (s.setCtx a x).schedule = s.schedule := rfl
@[simp] theorem State.setCtx_passed (s : State) (a : Nat) (x : Ctx) : (s.setCtx a x).passed = s.passed := rfl
@[simp] theorem State.setCtx_tick (s : State) (a : Nat) (x : Ctx) : (s.setCtx a x).tick = s.tick := rfl
@[simp] theorem State.setCtx_sel (s : State) (a : Nat) (x : Ctx) : (s.setCtx a x).sel = s.sel := rfl

/-! ### writeMem -/

@[simp] theorem State.writeMem_dev (s : State) (a : Nat) (bs : List Byte) : (s.writeMem a bs).dev = s.dev := rfl
@[simp] theorem State.writeMem_poison (s : State) (a : Nat) (bs : List Byte) : (s.writeMem a bs).poison = s.poison := rfl
@[simp] theorem State.writeMem_w1 (s : State) (a : Nat) (bs : List Byte) : (s.writeMem a bs).w1 = s.w1 := rfl
@[simp] theorem State.writeMem_w1by (s : State) (a : Nat) (bs : List Byte) : (s.writeMem a bs).w1by = s.w1by := rfl
@[simp] theorem State.writeMem_cells (s : State) (a : Nat) (bs : List Byte) : (s.writeMem a bs).cells = s.cells := rfl
@[simp] theorem State.writeMem_ctxs (s : State) (a : Nat) (bs : List Byte) : (s.writeMem a bs).ctxs = s.ctxs := rfl
@[simp] theorem State.writeMem_vdevs (s : State) (a : Nat) (bs : List Byte) : (s.writeMem a bs).vdevs = s.vdevs := rfl
@[simp] theorem State.writeMem_granules (s : State) (a : Nat) (bs : List Byte) : (s.writeMem a bs).granules = s.granules := rfl
@[simp] theorem State.writeMem_scrubCmds (s : State) (a : Nat) (bs : List Byte) : (s.writeMem a bs).scrubCmds = s.scrubCmds := rfl
@[simp] theorem State.writeMem_exported (s : State) (a : Nat) (bs : List Byte) : (s.writeMem a bs).exported = s.exported := rfl
@[simp] theorem State.writeMem_windows (s : State) (a : Nat) (bs : List Byte) : (s.writeMem a bs).windows = s.windows := rfl
@[simp] theorem State.writeMem_posts (s : State) (a : Nat) (bs : List Byte) : (s.writeMem a bs).posts = s.posts := rfl
@[simp] theorem State.writeMem_freezes (s : State) (a : Nat) (bs : List Byte) : (s.writeMem a bs).freezes = s.freezes := rfl
@[simp] theorem State.writeMem_net (s : State) (a : Nat) (bs : List Byte) : (s.writeMem a bs).net = s.net := rfl
@[simp] theorem State.writeMem_xfers (s : State) (a : Nat) (bs : List Byte) : (s.writeMem a bs).xfers = s.xfers := rfl
@[simp] theorem State.writeMem_nextXfer (s : State) (a : Nat) (bs : List Byte) : (s.writeMem a bs).nextXfer = s.nextXfer := rfl
@[simp] theorem State.writeMem_memops (s : State) (a : Nat) (bs : List Byte) : (s.writeMem a bs).memops = s.memops := rfl
@[simp] theorem State.writeMem_nextOp (s : State) (a : Nat) (bs : List Byte) : (s.writeMem a bs).nextOp = s.nextOp := rfl
@[simp] theorem State.writeMem_walks (s : State) (a : Nat) (bs : List Byte) : (s.writeMem a bs).walks = s.walks := rfl
@[simp] theorem State.writeMem_fills (s : State) (a : Nat) (bs : List Byte) : (s.writeMem a bs).fills = s.fills := rfl
@[simp] theorem State.writeMem_farPages (s : State) (a : Nat) (bs : List Byte) : (s.writeMem a bs).farPages = s.farPages := rfl
@[simp] theorem State.writeMem_invals (s : State) (a : Nat) (bs : List Byte) : (s.writeMem a bs).invals = s.invals := rfl
@[simp] theorem State.writeMem_stlb (s : State) (a : Nat) (bs : List Byte) : (s.writeMem a bs).stlb = s.stlb := rfl
@[simp] theorem State.writeMem_bcasts (s : State) (a : Nat) (bs : List Byte) : (s.writeMem a bs).bcasts = s.bcasts := rfl
@[simp] theorem State.writeMem_reqs (s : State) (a : Nat) (bs : List Byte) : (s.writeMem a bs).reqs = s.reqs := rfl
@[simp] theorem State.writeMem_fabTokens (s : State) (a : Nat) (bs : List Byte) : (s.writeMem a bs).fabTokens = s.fabTokens := rfl
@[simp] theorem State.writeMem_fabReqs (s : State) (a : Nat) (bs : List Byte) : (s.writeMem a bs).fabReqs = s.fabReqs := rfl
@[simp] theorem State.writeMem_fabOut (s : State) (a : Nat) (bs : List Byte) : (s.writeMem a bs).fabOut = s.fabOut := rfl
@[simp] theorem State.writeMem_fabAsks (s : State) (a : Nat) (bs : List Byte) : (s.writeMem a bs).fabAsks = s.fabAsks := rfl
@[simp] theorem State.writeMem_fabAnswers (s : State) (a : Nat) (bs : List Byte) : (s.writeMem a bs).fabAnswers = s.fabAnswers := rfl
@[simp] theorem State.writeMem_orders (s : State) (a : Nat) (bs : List Byte) : (s.writeMem a bs).orders = s.orders := rfl
@[simp] theorem State.writeMem_homeSeq (s : State) (a : Nat) (bs : List Byte) : (s.writeMem a bs).homeSeq = s.homeSeq := rfl
@[simp] theorem State.writeMem_due (s : State) (a : Nat) (bs : List Byte) : (s.writeMem a bs).due = s.due := rfl
@[simp] theorem State.writeMem_schedule (s : State) (a : Nat) (bs : List Byte) : (s.writeMem a bs).schedule = s.schedule := rfl
@[simp] theorem State.writeMem_passed (s : State) (a : Nat) (bs : List Byte) : (s.writeMem a bs).passed = s.passed := rfl
@[simp] theorem State.writeMem_tick (s : State) (a : Nat) (bs : List Byte) : (s.writeMem a bs).tick = s.tick := rfl
@[simp] theorem State.writeMem_sel (s : State) (a : Nat) (bs : List Byte) : (s.writeMem a bs).sel = s.sel := rfl

/-! ### setPoison -/

@[simp] theorem State.setPoison_dev (s : State) (a : Nat) : (s.setPoison a).dev = s.dev := rfl
@[simp] theorem State.setPoison_mem (s : State) (a : Nat) : (s.setPoison a).mem = s.mem := rfl
@[simp] theorem State.setPoison_w1 (s : State) (a : Nat) : (s.setPoison a).w1 = s.w1 := rfl
@[simp] theorem State.setPoison_w1by (s : State) (a : Nat) : (s.setPoison a).w1by = s.w1by := rfl
@[simp] theorem State.setPoison_cells (s : State) (a : Nat) : (s.setPoison a).cells = s.cells := rfl
@[simp] theorem State.setPoison_ctxs (s : State) (a : Nat) : (s.setPoison a).ctxs = s.ctxs := rfl
@[simp] theorem State.setPoison_vdevs (s : State) (a : Nat) : (s.setPoison a).vdevs = s.vdevs := rfl
@[simp] theorem State.setPoison_granules (s : State) (a : Nat) : (s.setPoison a).granules = s.granules := rfl
@[simp] theorem State.setPoison_scrubCmds (s : State) (a : Nat) : (s.setPoison a).scrubCmds = s.scrubCmds := rfl
@[simp] theorem State.setPoison_exported (s : State) (a : Nat) : (s.setPoison a).exported = s.exported := rfl
@[simp] theorem State.setPoison_windows (s : State) (a : Nat) : (s.setPoison a).windows = s.windows := rfl
@[simp] theorem State.setPoison_posts (s : State) (a : Nat) : (s.setPoison a).posts = s.posts := rfl
@[simp] theorem State.setPoison_freezes (s : State) (a : Nat) : (s.setPoison a).freezes = s.freezes := rfl
@[simp] theorem State.setPoison_net (s : State) (a : Nat) : (s.setPoison a).net = s.net := rfl
@[simp] theorem State.setPoison_xfers (s : State) (a : Nat) : (s.setPoison a).xfers = s.xfers := rfl
@[simp] theorem State.setPoison_nextXfer (s : State) (a : Nat) : (s.setPoison a).nextXfer = s.nextXfer := rfl
@[simp] theorem State.setPoison_memops (s : State) (a : Nat) : (s.setPoison a).memops = s.memops := rfl
@[simp] theorem State.setPoison_nextOp (s : State) (a : Nat) : (s.setPoison a).nextOp = s.nextOp := rfl
@[simp] theorem State.setPoison_walks (s : State) (a : Nat) : (s.setPoison a).walks = s.walks := rfl
@[simp] theorem State.setPoison_fills (s : State) (a : Nat) : (s.setPoison a).fills = s.fills := rfl
@[simp] theorem State.setPoison_farPages (s : State) (a : Nat) : (s.setPoison a).farPages = s.farPages := rfl
@[simp] theorem State.setPoison_invals (s : State) (a : Nat) : (s.setPoison a).invals = s.invals := rfl
@[simp] theorem State.setPoison_stlb (s : State) (a : Nat) : (s.setPoison a).stlb = s.stlb := rfl
@[simp] theorem State.setPoison_bcasts (s : State) (a : Nat) : (s.setPoison a).bcasts = s.bcasts := rfl
@[simp] theorem State.setPoison_reqs (s : State) (a : Nat) : (s.setPoison a).reqs = s.reqs := rfl
@[simp] theorem State.setPoison_fabTokens (s : State) (a : Nat) : (s.setPoison a).fabTokens = s.fabTokens := rfl
@[simp] theorem State.setPoison_fabReqs (s : State) (a : Nat) : (s.setPoison a).fabReqs = s.fabReqs := rfl
@[simp] theorem State.setPoison_fabOut (s : State) (a : Nat) : (s.setPoison a).fabOut = s.fabOut := rfl
@[simp] theorem State.setPoison_fabAsks (s : State) (a : Nat) : (s.setPoison a).fabAsks = s.fabAsks := rfl
@[simp] theorem State.setPoison_fabAnswers (s : State) (a : Nat) : (s.setPoison a).fabAnswers = s.fabAnswers := rfl
@[simp] theorem State.setPoison_orders (s : State) (a : Nat) : (s.setPoison a).orders = s.orders := rfl
@[simp] theorem State.setPoison_homeSeq (s : State) (a : Nat) : (s.setPoison a).homeSeq = s.homeSeq := rfl
@[simp] theorem State.setPoison_due (s : State) (a : Nat) : (s.setPoison a).due = s.due := rfl
@[simp] theorem State.setPoison_schedule (s : State) (a : Nat) : (s.setPoison a).schedule = s.schedule := rfl
@[simp] theorem State.setPoison_passed (s : State) (a : Nat) : (s.setPoison a).passed = s.passed := rfl
@[simp] theorem State.setPoison_tick (s : State) (a : Nat) : (s.setPoison a).tick = s.tick := rfl
@[simp] theorem State.setPoison_sel (s : State) (a : Nat) : (s.setPoison a).sel = s.sel := rfl

/-! ### clearPoison -/

@[simp] theorem State.clearPoison_dev (s : State) (a : Nat) : (s.clearPoison a).dev = s.dev := rfl
@[simp] theorem State.clearPoison_mem (s : State) (a : Nat) : (s.clearPoison a).mem = s.mem := rfl
@[simp] theorem State.clearPoison_w1 (s : State) (a : Nat) : (s.clearPoison a).w1 = s.w1 := rfl
@[simp] theorem State.clearPoison_w1by (s : State) (a : Nat) : (s.clearPoison a).w1by = s.w1by := rfl
@[simp] theorem State.clearPoison_cells (s : State) (a : Nat) : (s.clearPoison a).cells = s.cells := rfl
@[simp] theorem State.clearPoison_ctxs (s : State) (a : Nat) : (s.clearPoison a).ctxs = s.ctxs := rfl
@[simp] theorem State.clearPoison_vdevs (s : State) (a : Nat) : (s.clearPoison a).vdevs = s.vdevs := rfl
@[simp] theorem State.clearPoison_granules (s : State) (a : Nat) : (s.clearPoison a).granules = s.granules := rfl
@[simp] theorem State.clearPoison_scrubCmds (s : State) (a : Nat) : (s.clearPoison a).scrubCmds = s.scrubCmds := rfl
@[simp] theorem State.clearPoison_exported (s : State) (a : Nat) : (s.clearPoison a).exported = s.exported := rfl
@[simp] theorem State.clearPoison_windows (s : State) (a : Nat) : (s.clearPoison a).windows = s.windows := rfl
@[simp] theorem State.clearPoison_posts (s : State) (a : Nat) : (s.clearPoison a).posts = s.posts := rfl
@[simp] theorem State.clearPoison_freezes (s : State) (a : Nat) : (s.clearPoison a).freezes = s.freezes := rfl
@[simp] theorem State.clearPoison_net (s : State) (a : Nat) : (s.clearPoison a).net = s.net := rfl
@[simp] theorem State.clearPoison_xfers (s : State) (a : Nat) : (s.clearPoison a).xfers = s.xfers := rfl
@[simp] theorem State.clearPoison_nextXfer (s : State) (a : Nat) : (s.clearPoison a).nextXfer = s.nextXfer := rfl
@[simp] theorem State.clearPoison_memops (s : State) (a : Nat) : (s.clearPoison a).memops = s.memops := rfl
@[simp] theorem State.clearPoison_nextOp (s : State) (a : Nat) : (s.clearPoison a).nextOp = s.nextOp := rfl
@[simp] theorem State.clearPoison_walks (s : State) (a : Nat) : (s.clearPoison a).walks = s.walks := rfl
@[simp] theorem State.clearPoison_fills (s : State) (a : Nat) : (s.clearPoison a).fills = s.fills := rfl
@[simp] theorem State.clearPoison_farPages (s : State) (a : Nat) : (s.clearPoison a).farPages = s.farPages := rfl
@[simp] theorem State.clearPoison_invals (s : State) (a : Nat) : (s.clearPoison a).invals = s.invals := rfl
@[simp] theorem State.clearPoison_stlb (s : State) (a : Nat) : (s.clearPoison a).stlb = s.stlb := rfl
@[simp] theorem State.clearPoison_bcasts (s : State) (a : Nat) : (s.clearPoison a).bcasts = s.bcasts := rfl
@[simp] theorem State.clearPoison_reqs (s : State) (a : Nat) : (s.clearPoison a).reqs = s.reqs := rfl
@[simp] theorem State.clearPoison_fabTokens (s : State) (a : Nat) : (s.clearPoison a).fabTokens = s.fabTokens := rfl
@[simp] theorem State.clearPoison_fabReqs (s : State) (a : Nat) : (s.clearPoison a).fabReqs = s.fabReqs := rfl
@[simp] theorem State.clearPoison_fabOut (s : State) (a : Nat) : (s.clearPoison a).fabOut = s.fabOut := rfl
@[simp] theorem State.clearPoison_fabAsks (s : State) (a : Nat) : (s.clearPoison a).fabAsks = s.fabAsks := rfl
@[simp] theorem State.clearPoison_fabAnswers (s : State) (a : Nat) : (s.clearPoison a).fabAnswers = s.fabAnswers := rfl
@[simp] theorem State.clearPoison_orders (s : State) (a : Nat) : (s.clearPoison a).orders = s.orders := rfl
@[simp] theorem State.clearPoison_homeSeq (s : State) (a : Nat) : (s.clearPoison a).homeSeq = s.homeSeq := rfl
@[simp] theorem State.clearPoison_due (s : State) (a : Nat) : (s.clearPoison a).due = s.due := rfl
@[simp] theorem State.clearPoison_schedule (s : State) (a : Nat) : (s.clearPoison a).schedule = s.schedule := rfl
@[simp] theorem State.clearPoison_passed (s : State) (a : Nat) : (s.clearPoison a).passed = s.passed := rfl
@[simp] theorem State.clearPoison_tick (s : State) (a : Nat) : (s.clearPoison a).tick = s.tick := rfl
@[simp] theorem State.clearPoison_sel (s : State) (a : Nat) : (s.clearPoison a).sel = s.sel := rfl

/-! ### modCtx -/

@[simp] theorem State.modCtx_dev (s : State) (a : Nat) (g : Ctx → Ctx) : (s.modCtx a g).dev = s.dev := by unfold State.modCtx; split <;> rfl
@[simp] theorem State.modCtx_mem (s : State) (a : Nat) (g : Ctx → Ctx) : (s.modCtx a g).mem = s.mem := by unfold State.modCtx; split <;> rfl
@[simp] theorem State.modCtx_poison (s : State) (a : Nat) (g : Ctx → Ctx) : (s.modCtx a g).poison = s.poison := by unfold State.modCtx; split <;> rfl
@[simp] theorem State.modCtx_w1 (s : State) (a : Nat) (g : Ctx → Ctx) : (s.modCtx a g).w1 = s.w1 := by unfold State.modCtx; split <;> rfl
@[simp] theorem State.modCtx_w1by (s : State) (a : Nat) (g : Ctx → Ctx) : (s.modCtx a g).w1by = s.w1by := by unfold State.modCtx; split <;> rfl
@[simp] theorem State.modCtx_cells (s : State) (a : Nat) (g : Ctx → Ctx) : (s.modCtx a g).cells = s.cells := by unfold State.modCtx; split <;> rfl
@[simp] theorem State.modCtx_vdevs (s : State) (a : Nat) (g : Ctx → Ctx) : (s.modCtx a g).vdevs = s.vdevs := by unfold State.modCtx; split <;> rfl
@[simp] theorem State.modCtx_granules (s : State) (a : Nat) (g : Ctx → Ctx) : (s.modCtx a g).granules = s.granules := by unfold State.modCtx; split <;> rfl
@[simp] theorem State.modCtx_scrubCmds (s : State) (a : Nat) (g : Ctx → Ctx) : (s.modCtx a g).scrubCmds = s.scrubCmds := by unfold State.modCtx; split <;> rfl
@[simp] theorem State.modCtx_exported (s : State) (a : Nat) (g : Ctx → Ctx) : (s.modCtx a g).exported = s.exported := by unfold State.modCtx; split <;> rfl
@[simp] theorem State.modCtx_windows (s : State) (a : Nat) (g : Ctx → Ctx) : (s.modCtx a g).windows = s.windows := by unfold State.modCtx; split <;> rfl
@[simp] theorem State.modCtx_posts (s : State) (a : Nat) (g : Ctx → Ctx) : (s.modCtx a g).posts = s.posts := by unfold State.modCtx; split <;> rfl
@[simp] theorem State.modCtx_freezes (s : State) (a : Nat) (g : Ctx → Ctx) : (s.modCtx a g).freezes = s.freezes := by unfold State.modCtx; split <;> rfl
@[simp] theorem State.modCtx_net (s : State) (a : Nat) (g : Ctx → Ctx) : (s.modCtx a g).net = s.net := by unfold State.modCtx; split <;> rfl
@[simp] theorem State.modCtx_xfers (s : State) (a : Nat) (g : Ctx → Ctx) : (s.modCtx a g).xfers = s.xfers := by unfold State.modCtx; split <;> rfl
@[simp] theorem State.modCtx_nextXfer (s : State) (a : Nat) (g : Ctx → Ctx) : (s.modCtx a g).nextXfer = s.nextXfer := by unfold State.modCtx; split <;> rfl
@[simp] theorem State.modCtx_memops (s : State) (a : Nat) (g : Ctx → Ctx) : (s.modCtx a g).memops = s.memops := by unfold State.modCtx; split <;> rfl
@[simp] theorem State.modCtx_nextOp (s : State) (a : Nat) (g : Ctx → Ctx) : (s.modCtx a g).nextOp = s.nextOp := by unfold State.modCtx; split <;> rfl
@[simp] theorem State.modCtx_walks (s : State) (a : Nat) (g : Ctx → Ctx) : (s.modCtx a g).walks = s.walks := by unfold State.modCtx; split <;> rfl
@[simp] theorem State.modCtx_fills (s : State) (a : Nat) (g : Ctx → Ctx) : (s.modCtx a g).fills = s.fills := by unfold State.modCtx; split <;> rfl
@[simp] theorem State.modCtx_farPages (s : State) (a : Nat) (g : Ctx → Ctx) : (s.modCtx a g).farPages = s.farPages := by unfold State.modCtx; split <;> rfl
@[simp] theorem State.modCtx_invals (s : State) (a : Nat) (g : Ctx → Ctx) : (s.modCtx a g).invals = s.invals := by unfold State.modCtx; split <;> rfl
@[simp] theorem State.modCtx_stlb (s : State) (a : Nat) (g : Ctx → Ctx) : (s.modCtx a g).stlb = s.stlb := by unfold State.modCtx; split <;> rfl
@[simp] theorem State.modCtx_bcasts (s : State) (a : Nat) (g : Ctx → Ctx) : (s.modCtx a g).bcasts = s.bcasts := by unfold State.modCtx; split <;> rfl
@[simp] theorem State.modCtx_reqs (s : State) (a : Nat) (g : Ctx → Ctx) : (s.modCtx a g).reqs = s.reqs := by unfold State.modCtx; split <;> rfl
@[simp] theorem State.modCtx_fabTokens (s : State) (a : Nat) (g : Ctx → Ctx) : (s.modCtx a g).fabTokens = s.fabTokens := by unfold State.modCtx; split <;> rfl
@[simp] theorem State.modCtx_fabReqs (s : State) (a : Nat) (g : Ctx → Ctx) : (s.modCtx a g).fabReqs = s.fabReqs := by unfold State.modCtx; split <;> rfl
@[simp] theorem State.modCtx_fabOut (s : State) (a : Nat) (g : Ctx → Ctx) : (s.modCtx a g).fabOut = s.fabOut := by unfold State.modCtx; split <;> rfl
@[simp] theorem State.modCtx_fabAsks (s : State) (a : Nat) (g : Ctx → Ctx) : (s.modCtx a g).fabAsks = s.fabAsks := by unfold State.modCtx; split <;> rfl
@[simp] theorem State.modCtx_fabAnswers (s : State) (a : Nat) (g : Ctx → Ctx) : (s.modCtx a g).fabAnswers = s.fabAnswers := by unfold State.modCtx; split <;> rfl
@[simp] theorem State.modCtx_orders (s : State) (a : Nat) (g : Ctx → Ctx) : (s.modCtx a g).orders = s.orders := by unfold State.modCtx; split <;> rfl
@[simp] theorem State.modCtx_homeSeq (s : State) (a : Nat) (g : Ctx → Ctx) : (s.modCtx a g).homeSeq = s.homeSeq := by unfold State.modCtx; split <;> rfl
@[simp] theorem State.modCtx_due (s : State) (a : Nat) (g : Ctx → Ctx) : (s.modCtx a g).due = s.due := by unfold State.modCtx; split <;> rfl
@[simp] theorem State.modCtx_schedule (s : State) (a : Nat) (g : Ctx → Ctx) : (s.modCtx a g).schedule = s.schedule := by unfold State.modCtx; split <;> rfl
@[simp] theorem State.modCtx_passed (s : State) (a : Nat) (g : Ctx → Ctx) : (s.modCtx a g).passed = s.passed := by unfold State.modCtx; split <;> rfl
@[simp] theorem State.modCtx_tick (s : State) (a : Nat) (g : Ctx → Ctx) : (s.modCtx a g).tick = s.tick := by unfold State.modCtx; split <;> rfl
@[simp] theorem State.modCtx_sel (s : State) (a : Nat) (g : Ctx → Ctx) : (s.modCtx a g).sel = s.sel := by unfold State.modCtx; split <;> rfl

/-! ### setFrame -/

@[simp] theorem State.setFrame_dev (s : State) (a i : Nat) (x : Frame) : (s.setFrame a i x).dev = s.dev := by unfold State.setFrame; split <;> rfl
@[simp] theorem State.setFrame_poison (s : State) (a i : Nat) (x : Frame) : (s.setFrame a i x).poison = s.poison := by unfold State.setFrame; split <;> rfl
@[simp] theorem State.setFrame_w1 (s : State) (a i : Nat) (x : Frame) : (s.setFrame a i x).w1 = s.w1 := by unfold State.setFrame; split <;> rfl
@[simp] theorem State.setFrame_w1by (s : State) (a i : Nat) (x : Frame) : (s.setFrame a i x).w1by = s.w1by := by unfold State.setFrame; split <;> rfl
@[simp] theorem State.setFrame_cells (s : State) (a i : Nat) (x : Frame) : (s.setFrame a i x).cells = s.cells := by unfold State.setFrame; split <;> rfl
@[simp] theorem State.setFrame_vdevs (s : State) (a i : Nat) (x : Frame) : (s.setFrame a i x).vdevs = s.vdevs := by unfold State.setFrame; split <;> rfl
@[simp] theorem State.setFrame_granules (s : State) (a i : Nat) (x : Frame) : (s.setFrame a i x).granules = s.granules := by unfold State.setFrame; split <;> rfl
@[simp] theorem State.setFrame_scrubCmds (s : State) (a i : Nat) (x : Frame) : (s.setFrame a i x).scrubCmds = s.scrubCmds := by unfold State.setFrame; split <;> rfl
@[simp] theorem State.setFrame_exported (s : State) (a i : Nat) (x : Frame) : (s.setFrame a i x).exported = s.exported := by unfold State.setFrame; split <;> rfl
@[simp] theorem State.setFrame_windows (s : State) (a i : Nat) (x : Frame) : (s.setFrame a i x).windows = s.windows := by unfold State.setFrame; split <;> rfl
@[simp] theorem State.setFrame_posts (s : State) (a i : Nat) (x : Frame) : (s.setFrame a i x).posts = s.posts := by unfold State.setFrame; split <;> rfl
@[simp] theorem State.setFrame_freezes (s : State) (a i : Nat) (x : Frame) : (s.setFrame a i x).freezes = s.freezes := by unfold State.setFrame; split <;> rfl
@[simp] theorem State.setFrame_net (s : State) (a i : Nat) (x : Frame) : (s.setFrame a i x).net = s.net := by unfold State.setFrame; split <;> rfl
@[simp] theorem State.setFrame_xfers (s : State) (a i : Nat) (x : Frame) : (s.setFrame a i x).xfers = s.xfers := by unfold State.setFrame; split <;> rfl
@[simp] theorem State.setFrame_nextXfer (s : State) (a i : Nat) (x : Frame) : (s.setFrame a i x).nextXfer = s.nextXfer := by unfold State.setFrame; split <;> rfl
@[simp] theorem State.setFrame_memops (s : State) (a i : Nat) (x : Frame) : (s.setFrame a i x).memops = s.memops := by unfold State.setFrame; split <;> rfl
@[simp] theorem State.setFrame_nextOp (s : State) (a i : Nat) (x : Frame) : (s.setFrame a i x).nextOp = s.nextOp := by unfold State.setFrame; split <;> rfl
@[simp] theorem State.setFrame_walks (s : State) (a i : Nat) (x : Frame) : (s.setFrame a i x).walks = s.walks := by unfold State.setFrame; split <;> rfl
@[simp] theorem State.setFrame_fills (s : State) (a i : Nat) (x : Frame) : (s.setFrame a i x).fills = s.fills := by unfold State.setFrame; split <;> rfl
@[simp] theorem State.setFrame_farPages (s : State) (a i : Nat) (x : Frame) : (s.setFrame a i x).farPages = s.farPages := by unfold State.setFrame; split <;> rfl
@[simp] theorem State.setFrame_invals (s : State) (a i : Nat) (x : Frame) : (s.setFrame a i x).invals = s.invals := by unfold State.setFrame; split <;> rfl
@[simp] theorem State.setFrame_stlb (s : State) (a i : Nat) (x : Frame) : (s.setFrame a i x).stlb = s.stlb := by unfold State.setFrame; split <;> rfl
@[simp] theorem State.setFrame_bcasts (s : State) (a i : Nat) (x : Frame) : (s.setFrame a i x).bcasts = s.bcasts := by unfold State.setFrame; split <;> rfl
@[simp] theorem State.setFrame_reqs (s : State) (a i : Nat) (x : Frame) : (s.setFrame a i x).reqs = s.reqs := by unfold State.setFrame; split <;> rfl
@[simp] theorem State.setFrame_fabTokens (s : State) (a i : Nat) (x : Frame) : (s.setFrame a i x).fabTokens = s.fabTokens := by unfold State.setFrame; split <;> rfl
@[simp] theorem State.setFrame_fabReqs (s : State) (a i : Nat) (x : Frame) : (s.setFrame a i x).fabReqs = s.fabReqs := by unfold State.setFrame; split <;> rfl
@[simp] theorem State.setFrame_fabOut (s : State) (a i : Nat) (x : Frame) : (s.setFrame a i x).fabOut = s.fabOut := by unfold State.setFrame; split <;> rfl
@[simp] theorem State.setFrame_fabAsks (s : State) (a i : Nat) (x : Frame) : (s.setFrame a i x).fabAsks = s.fabAsks := by unfold State.setFrame; split <;> rfl
@[simp] theorem State.setFrame_fabAnswers (s : State) (a i : Nat) (x : Frame) : (s.setFrame a i x).fabAnswers = s.fabAnswers := by unfold State.setFrame; split <;> rfl
@[simp] theorem State.setFrame_orders (s : State) (a i : Nat) (x : Frame) : (s.setFrame a i x).orders = s.orders := by unfold State.setFrame; split <;> rfl
@[simp] theorem State.setFrame_homeSeq (s : State) (a i : Nat) (x : Frame) : (s.setFrame a i x).homeSeq = s.homeSeq := by unfold State.setFrame; split <;> rfl
@[simp] theorem State.setFrame_due (s : State) (a i : Nat) (x : Frame) : (s.setFrame a i x).due = s.due := by unfold State.setFrame; split <;> rfl
@[simp] theorem State.setFrame_schedule (s : State) (a i : Nat) (x : Frame) : (s.setFrame a i x).schedule = s.schedule := by unfold State.setFrame; split <;> rfl
@[simp] theorem State.setFrame_passed (s : State) (a i : Nat) (x : Frame) : (s.setFrame a i x).passed = s.passed := by unfold State.setFrame; split <;> rfl
@[simp] theorem State.setFrame_tick (s : State) (a i : Nat) (x : Frame) : (s.setFrame a i x).tick = s.tick := by unfold State.setFrame; split <;> rfl
@[simp] theorem State.setFrame_sel (s : State) (a i : Nat) (x : Frame) : (s.setFrame a i x).sel = s.sel := by unfold State.setFrame; split <;> rfl

/-! ### setPool -/

@[simp] theorem State.setPool_dev (s : State) (a : Nat) (p : Pool) : (s.setPool a p).dev = s.dev := by unfold State.setPool; split <;> rfl
@[simp] theorem State.setPool_poison (s : State) (a : Nat) (p : Pool) : (s.setPool a p).poison = s.poison := by unfold State.setPool; split <;> rfl
@[simp] theorem State.setPool_w1 (s : State) (a : Nat) (p : Pool) : (s.setPool a p).w1 = s.w1 := by unfold State.setPool; split <;> rfl
@[simp] theorem State.setPool_w1by (s : State) (a : Nat) (p : Pool) : (s.setPool a p).w1by = s.w1by := by unfold State.setPool; split <;> rfl
@[simp] theorem State.setPool_cells (s : State) (a : Nat) (p : Pool) : (s.setPool a p).cells = s.cells := by unfold State.setPool; split <;> rfl
@[simp] theorem State.setPool_vdevs (s : State) (a : Nat) (p : Pool) : (s.setPool a p).vdevs = s.vdevs := by unfold State.setPool; split <;> rfl
@[simp] theorem State.setPool_granules (s : State) (a : Nat) (p : Pool) : (s.setPool a p).granules = s.granules := by unfold State.setPool; split <;> rfl
@[simp] theorem State.setPool_scrubCmds (s : State) (a : Nat) (p : Pool) : (s.setPool a p).scrubCmds = s.scrubCmds := by unfold State.setPool; split <;> rfl
@[simp] theorem State.setPool_exported (s : State) (a : Nat) (p : Pool) : (s.setPool a p).exported = s.exported := by unfold State.setPool; split <;> rfl
@[simp] theorem State.setPool_windows (s : State) (a : Nat) (p : Pool) : (s.setPool a p).windows = s.windows := by unfold State.setPool; split <;> rfl
@[simp] theorem State.setPool_posts (s : State) (a : Nat) (p : Pool) : (s.setPool a p).posts = s.posts := by unfold State.setPool; split <;> rfl
@[simp] theorem State.setPool_freezes (s : State) (a : Nat) (p : Pool) : (s.setPool a p).freezes = s.freezes := by unfold State.setPool; split <;> rfl
@[simp] theorem State.setPool_net (s : State) (a : Nat) (p : Pool) : (s.setPool a p).net = s.net := by unfold State.setPool; split <;> rfl
@[simp] theorem State.setPool_xfers (s : State) (a : Nat) (p : Pool) : (s.setPool a p).xfers = s.xfers := by unfold State.setPool; split <;> rfl
@[simp] theorem State.setPool_nextXfer (s : State) (a : Nat) (p : Pool) : (s.setPool a p).nextXfer = s.nextXfer := by unfold State.setPool; split <;> rfl
@[simp] theorem State.setPool_memops (s : State) (a : Nat) (p : Pool) : (s.setPool a p).memops = s.memops := by unfold State.setPool; split <;> rfl
@[simp] theorem State.setPool_nextOp (s : State) (a : Nat) (p : Pool) : (s.setPool a p).nextOp = s.nextOp := by unfold State.setPool; split <;> rfl
@[simp] theorem State.setPool_walks (s : State) (a : Nat) (p : Pool) : (s.setPool a p).walks = s.walks := by unfold State.setPool; split <;> rfl
@[simp] theorem State.setPool_fills (s : State) (a : Nat) (p : Pool) : (s.setPool a p).fills = s.fills := by unfold State.setPool; split <;> rfl
@[simp] theorem State.setPool_farPages (s : State) (a : Nat) (p : Pool) : (s.setPool a p).farPages = s.farPages := by unfold State.setPool; split <;> rfl
@[simp] theorem State.setPool_invals (s : State) (a : Nat) (p : Pool) : (s.setPool a p).invals = s.invals := by unfold State.setPool; split <;> rfl
@[simp] theorem State.setPool_stlb (s : State) (a : Nat) (p : Pool) : (s.setPool a p).stlb = s.stlb := by unfold State.setPool; split <;> rfl
@[simp] theorem State.setPool_bcasts (s : State) (a : Nat) (p : Pool) : (s.setPool a p).bcasts = s.bcasts := by unfold State.setPool; split <;> rfl
@[simp] theorem State.setPool_reqs (s : State) (a : Nat) (p : Pool) : (s.setPool a p).reqs = s.reqs := by unfold State.setPool; split <;> rfl
@[simp] theorem State.setPool_fabTokens (s : State) (a : Nat) (p : Pool) : (s.setPool a p).fabTokens = s.fabTokens := by unfold State.setPool; split <;> rfl
@[simp] theorem State.setPool_fabReqs (s : State) (a : Nat) (p : Pool) : (s.setPool a p).fabReqs = s.fabReqs := by unfold State.setPool; split <;> rfl
@[simp] theorem State.setPool_fabOut (s : State) (a : Nat) (p : Pool) : (s.setPool a p).fabOut = s.fabOut := by unfold State.setPool; split <;> rfl
@[simp] theorem State.setPool_fabAsks (s : State) (a : Nat) (p : Pool) : (s.setPool a p).fabAsks = s.fabAsks := by unfold State.setPool; split <;> rfl
@[simp] theorem State.setPool_fabAnswers (s : State) (a : Nat) (p : Pool) : (s.setPool a p).fabAnswers = s.fabAnswers := by unfold State.setPool; split <;> rfl
@[simp] theorem State.setPool_orders (s : State) (a : Nat) (p : Pool) : (s.setPool a p).orders = s.orders := by unfold State.setPool; split <;> rfl
@[simp] theorem State.setPool_homeSeq (s : State) (a : Nat) (p : Pool) : (s.setPool a p).homeSeq = s.homeSeq := by unfold State.setPool; split <;> rfl
@[simp] theorem State.setPool_due (s : State) (a : Nat) (p : Pool) : (s.setPool a p).due = s.due := by unfold State.setPool; split <;> rfl
@[simp] theorem State.setPool_schedule (s : State) (a : Nat) (p : Pool) : (s.setPool a p).schedule = s.schedule := by unfold State.setPool; split <;> rfl
@[simp] theorem State.setPool_passed (s : State) (a : Nat) (p : Pool) : (s.setPool a p).passed = s.passed := by unfold State.setPool; split <;> rfl
@[simp] theorem State.setPool_tick (s : State) (a : Nat) (p : Pool) : (s.setPool a p).tick = s.tick := by unfold State.setPool; split <;> rfl
@[simp] theorem State.setPool_sel (s : State) (a : Nat) (p : Pool) : (s.setPool a p).sel = s.sel := by unfold State.setPool; split <;> rfl

/-! ### modPool -/

@[simp] theorem State.modPool_dev (s : State) (a : Nat) (g : Pool → Pool) : (s.modPool a g).dev = s.dev := by unfold State.modPool; split <;> simp
@[simp] theorem State.modPool_poison (s : State) (a : Nat) (g : Pool → Pool) : (s.modPool a g).poison = s.poison := by unfold State.modPool; split <;> simp
@[simp] theorem State.modPool_w1 (s : State) (a : Nat) (g : Pool → Pool) : (s.modPool a g).w1 = s.w1 := by unfold State.modPool; split <;> simp
@[simp] theorem State.modPool_w1by (s : State) (a : Nat) (g : Pool → Pool) : (s.modPool a g).w1by = s.w1by := by unfold State.modPool; split <;> simp
@[simp] theorem State.modPool_cells (s : State) (a : Nat) (g : Pool → Pool) : (s.modPool a g).cells = s.cells := by unfold State.modPool; split <;> simp
@[simp] theorem State.modPool_vdevs (s : State) (a : Nat) (g : Pool → Pool) : (s.modPool a g).vdevs = s.vdevs := by unfold State.modPool; split <;> simp
@[simp] theorem State.modPool_granules (s : State) (a : Nat) (g : Pool → Pool) : (s.modPool a g).granules = s.granules := by unfold State.modPool; split <;> simp
@[simp] theorem State.modPool_scrubCmds (s : State) (a : Nat) (g : Pool → Pool) : (s.modPool a g).scrubCmds = s.scrubCmds := by unfold State.modPool; split <;> simp
@[simp] theorem State.modPool_exported (s : State) (a : Nat) (g : Pool → Pool) : (s.modPool a g).exported = s.exported := by unfold State.modPool; split <;> simp
@[simp] theorem State.modPool_windows (s : State) (a : Nat) (g : Pool → Pool) : (s.modPool a g).windows = s.windows := by unfold State.modPool; split <;> simp
@[simp] theorem State.modPool_posts (s : State) (a : Nat) (g : Pool → Pool) : (s.modPool a g).posts = s.posts := by unfold State.modPool; split <;> simp
@[simp] theorem State.modPool_freezes (s : State) (a : Nat) (g : Pool → Pool) : (s.modPool a g).freezes = s.freezes := by unfold State.modPool; split <;> simp
@[simp] theorem State.modPool_net (s : State) (a : Nat) (g : Pool → Pool) : (s.modPool a g).net = s.net := by unfold State.modPool; split <;> simp
@[simp] theorem State.modPool_xfers (s : State) (a : Nat) (g : Pool → Pool) : (s.modPool a g).xfers = s.xfers := by unfold State.modPool; split <;> simp
@[simp] theorem State.modPool_nextXfer (s : State) (a : Nat) (g : Pool → Pool) : (s.modPool a g).nextXfer = s.nextXfer := by unfold State.modPool; split <;> simp
@[simp] theorem State.modPool_memops (s : State) (a : Nat) (g : Pool → Pool) : (s.modPool a g).memops = s.memops := by unfold State.modPool; split <;> simp
@[simp] theorem State.modPool_nextOp (s : State) (a : Nat) (g : Pool → Pool) : (s.modPool a g).nextOp = s.nextOp := by unfold State.modPool; split <;> simp
@[simp] theorem State.modPool_walks (s : State) (a : Nat) (g : Pool → Pool) : (s.modPool a g).walks = s.walks := by unfold State.modPool; split <;> simp
@[simp] theorem State.modPool_fills (s : State) (a : Nat) (g : Pool → Pool) : (s.modPool a g).fills = s.fills := by unfold State.modPool; split <;> simp
@[simp] theorem State.modPool_farPages (s : State) (a : Nat) (g : Pool → Pool) : (s.modPool a g).farPages = s.farPages := by unfold State.modPool; split <;> simp
@[simp] theorem State.modPool_invals (s : State) (a : Nat) (g : Pool → Pool) : (s.modPool a g).invals = s.invals := by unfold State.modPool; split <;> simp
@[simp] theorem State.modPool_stlb (s : State) (a : Nat) (g : Pool → Pool) : (s.modPool a g).stlb = s.stlb := by unfold State.modPool; split <;> simp
@[simp] theorem State.modPool_bcasts (s : State) (a : Nat) (g : Pool → Pool) : (s.modPool a g).bcasts = s.bcasts := by unfold State.modPool; split <;> simp
@[simp] theorem State.modPool_reqs (s : State) (a : Nat) (g : Pool → Pool) : (s.modPool a g).reqs = s.reqs := by unfold State.modPool; split <;> simp
@[simp] theorem State.modPool_fabTokens (s : State) (a : Nat) (g : Pool → Pool) : (s.modPool a g).fabTokens = s.fabTokens := by unfold State.modPool; split <;> simp
@[simp] theorem State.modPool_fabReqs (s : State) (a : Nat) (g : Pool → Pool) : (s.modPool a g).fabReqs = s.fabReqs := by unfold State.modPool; split <;> simp
@[simp] theorem State.modPool_fabOut (s : State) (a : Nat) (g : Pool → Pool) : (s.modPool a g).fabOut = s.fabOut := by unfold State.modPool; split <;> simp
@[simp] theorem State.modPool_fabAsks (s : State) (a : Nat) (g : Pool → Pool) : (s.modPool a g).fabAsks = s.fabAsks := by unfold State.modPool; split <;> simp
@[simp] theorem State.modPool_fabAnswers (s : State) (a : Nat) (g : Pool → Pool) : (s.modPool a g).fabAnswers = s.fabAnswers := by unfold State.modPool; split <;> simp
@[simp] theorem State.modPool_orders (s : State) (a : Nat) (g : Pool → Pool) : (s.modPool a g).orders = s.orders := by unfold State.modPool; split <;> simp
@[simp] theorem State.modPool_homeSeq (s : State) (a : Nat) (g : Pool → Pool) : (s.modPool a g).homeSeq = s.homeSeq := by unfold State.modPool; split <;> simp
@[simp] theorem State.modPool_due (s : State) (a : Nat) (g : Pool → Pool) : (s.modPool a g).due = s.due := by unfold State.modPool; split <;> simp
@[simp] theorem State.modPool_schedule (s : State) (a : Nat) (g : Pool → Pool) : (s.modPool a g).schedule = s.schedule := by unfold State.modPool; split <;> simp
@[simp] theorem State.modPool_passed (s : State) (a : Nat) (g : Pool → Pool) : (s.modPool a g).passed = s.passed := by unfold State.modPool; split <;> simp
@[simp] theorem State.modPool_tick (s : State) (a : Nat) (g : Pool → Pool) : (s.modPool a g).tick = s.tick := by unfold State.modPool; split <;> simp
@[simp] theorem State.modPool_sel (s : State) (a : Nat) (g : Pool → Pool) : (s.modPool a g).sel = s.sel := by unfold State.modPool; split <;> simp

/-! ### orFlags -/

@[simp] theorem State.orFlags_dev (s : State) (a : Nat) (t : Tag) (fl : Flags) : (s.orFlags a t fl).dev = s.dev := by simp only [State.orFlags]; split <;> (try split) <;> simp
@[simp] theorem State.orFlags_poison (s : State) (a : Nat) (t : Tag) (fl : Flags) : (s.orFlags a t fl).poison = s.poison := by simp only [State.orFlags]; split <;> (try split) <;> simp
@[simp] theorem State.orFlags_w1 (s : State) (a : Nat) (t : Tag) (fl : Flags) : (s.orFlags a t fl).w1 = s.w1 := by simp only [State.orFlags]; split <;> (try split) <;> simp
@[simp] theorem State.orFlags_w1by (s : State) (a : Nat) (t : Tag) (fl : Flags) : (s.orFlags a t fl).w1by = s.w1by := by simp only [State.orFlags]; split <;> (try split) <;> simp
@[simp] theorem State.orFlags_cells (s : State) (a : Nat) (t : Tag) (fl : Flags) : (s.orFlags a t fl).cells = s.cells := by simp only [State.orFlags]; split <;> (try split) <;> simp
@[simp] theorem State.orFlags_vdevs (s : State) (a : Nat) (t : Tag) (fl : Flags) : (s.orFlags a t fl).vdevs = s.vdevs := by simp only [State.orFlags]; split <;> (try split) <;> simp
@[simp] theorem State.orFlags_granules (s : State) (a : Nat) (t : Tag) (fl : Flags) : (s.orFlags a t fl).granules = s.granules := by simp only [State.orFlags]; split <;> (try split) <;> simp
@[simp] theorem State.orFlags_scrubCmds (s : State) (a : Nat) (t : Tag) (fl : Flags) : (s.orFlags a t fl).scrubCmds = s.scrubCmds := by simp only [State.orFlags]; split <;> (try split) <;> simp
@[simp] theorem State.orFlags_exported (s : State) (a : Nat) (t : Tag) (fl : Flags) : (s.orFlags a t fl).exported = s.exported := by simp only [State.orFlags]; split <;> (try split) <;> simp
@[simp] theorem State.orFlags_windows (s : State) (a : Nat) (t : Tag) (fl : Flags) : (s.orFlags a t fl).windows = s.windows := by simp only [State.orFlags]; split <;> (try split) <;> simp
@[simp] theorem State.orFlags_posts (s : State) (a : Nat) (t : Tag) (fl : Flags) : (s.orFlags a t fl).posts = s.posts := by simp only [State.orFlags]; split <;> (try split) <;> simp
@[simp] theorem State.orFlags_freezes (s : State) (a : Nat) (t : Tag) (fl : Flags) : (s.orFlags a t fl).freezes = s.freezes := by simp only [State.orFlags]; split <;> (try split) <;> simp
@[simp] theorem State.orFlags_net (s : State) (a : Nat) (t : Tag) (fl : Flags) : (s.orFlags a t fl).net = s.net := by simp only [State.orFlags]; split <;> (try split) <;> simp
@[simp] theorem State.orFlags_xfers (s : State) (a : Nat) (t : Tag) (fl : Flags) : (s.orFlags a t fl).xfers = s.xfers := by simp only [State.orFlags]; split <;> (try split) <;> simp
@[simp] theorem State.orFlags_nextXfer (s : State) (a : Nat) (t : Tag) (fl : Flags) : (s.orFlags a t fl).nextXfer = s.nextXfer := by simp only [State.orFlags]; split <;> (try split) <;> simp
@[simp] theorem State.orFlags_memops (s : State) (a : Nat) (t : Tag) (fl : Flags) : (s.orFlags a t fl).memops = s.memops := by simp only [State.orFlags]; split <;> (try split) <;> simp
@[simp] theorem State.orFlags_nextOp (s : State) (a : Nat) (t : Tag) (fl : Flags) : (s.orFlags a t fl).nextOp = s.nextOp := by simp only [State.orFlags]; split <;> (try split) <;> simp
@[simp] theorem State.orFlags_walks (s : State) (a : Nat) (t : Tag) (fl : Flags) : (s.orFlags a t fl).walks = s.walks := by simp only [State.orFlags]; split <;> (try split) <;> simp
@[simp] theorem State.orFlags_fills (s : State) (a : Nat) (t : Tag) (fl : Flags) : (s.orFlags a t fl).fills = s.fills := by simp only [State.orFlags]; split <;> (try split) <;> simp
@[simp] theorem State.orFlags_farPages (s : State) (a : Nat) (t : Tag) (fl : Flags) : (s.orFlags a t fl).farPages = s.farPages := by simp only [State.orFlags]; split <;> (try split) <;> simp
@[simp] theorem State.orFlags_invals (s : State) (a : Nat) (t : Tag) (fl : Flags) : (s.orFlags a t fl).invals = s.invals := by simp only [State.orFlags]; split <;> (try split) <;> simp
@[simp] theorem State.orFlags_stlb (s : State) (a : Nat) (t : Tag) (fl : Flags) : (s.orFlags a t fl).stlb = s.stlb := by simp only [State.orFlags]; split <;> (try split) <;> simp
@[simp] theorem State.orFlags_bcasts (s : State) (a : Nat) (t : Tag) (fl : Flags) : (s.orFlags a t fl).bcasts = s.bcasts := by simp only [State.orFlags]; split <;> (try split) <;> simp
@[simp] theorem State.orFlags_reqs (s : State) (a : Nat) (t : Tag) (fl : Flags) : (s.orFlags a t fl).reqs = s.reqs := by simp only [State.orFlags]; split <;> (try split) <;> simp
@[simp] theorem State.orFlags_fabTokens (s : State) (a : Nat) (t : Tag) (fl : Flags) : (s.orFlags a t fl).fabTokens = s.fabTokens := by simp only [State.orFlags]; split <;> (try split) <;> simp
@[simp] theorem State.orFlags_fabReqs (s : State) (a : Nat) (t : Tag) (fl : Flags) : (s.orFlags a t fl).fabReqs = s.fabReqs := by simp only [State.orFlags]; split <;> (try split) <;> simp
@[simp] theorem State.orFlags_fabOut (s : State) (a : Nat) (t : Tag) (fl : Flags) : (s.orFlags a t fl).fabOut = s.fabOut := by simp only [State.orFlags]; split <;> (try split) <;> simp
@[simp] theorem State.orFlags_fabAsks (s : State) (a : Nat) (t : Tag) (fl : Flags) : (s.orFlags a t fl).fabAsks = s.fabAsks := by simp only [State.orFlags]; split <;> (try split) <;> simp
@[simp] theorem State.orFlags_fabAnswers (s : State) (a : Nat) (t : Tag) (fl : Flags) : (s.orFlags a t fl).fabAnswers = s.fabAnswers := by simp only [State.orFlags]; split <;> (try split) <;> simp
@[simp] theorem State.orFlags_orders (s : State) (a : Nat) (t : Tag) (fl : Flags) : (s.orFlags a t fl).orders = s.orders := by simp only [State.orFlags]; split <;> (try split) <;> simp
@[simp] theorem State.orFlags_homeSeq (s : State) (a : Nat) (t : Tag) (fl : Flags) : (s.orFlags a t fl).homeSeq = s.homeSeq := by simp only [State.orFlags]; split <;> (try split) <;> simp
@[simp] theorem State.orFlags_due (s : State) (a : Nat) (t : Tag) (fl : Flags) : (s.orFlags a t fl).due = s.due := by simp only [State.orFlags]; split <;> (try split) <;> simp
@[simp] theorem State.orFlags_schedule (s : State) (a : Nat) (t : Tag) (fl : Flags) : (s.orFlags a t fl).schedule = s.schedule := by simp only [State.orFlags]; split <;> (try split) <;> simp
@[simp] theorem State.orFlags_passed (s : State) (a : Nat) (t : Tag) (fl : Flags) : (s.orFlags a t fl).passed = s.passed := by simp only [State.orFlags]; split <;> (try split) <;> simp
@[simp] theorem State.orFlags_tick (s : State) (a : Nat) (t : Tag) (fl : Flags) : (s.orFlags a t fl).tick = s.tick := by simp only [State.orFlags]; split <;> (try split) <;> simp
@[simp] theorem State.orFlags_sel (s : State) (a : Nat) (t : Tag) (fl : Flags) : (s.orFlags a t fl).sel = s.sel := by simp only [State.orFlags]; split <;> (try split) <;> simp

/-! ### progress -/

@[simp] theorem State.progress_dev (s : State) (a : Nat) : (s.progress a).dev = s.dev := by simp [State.progress]
@[simp] theorem State.progress_mem (s : State) (a : Nat) : (s.progress a).mem = s.mem := by simp [State.progress]
@[simp] theorem State.progress_poison (s : State) (a : Nat) : (s.progress a).poison = s.poison := by simp [State.progress]
@[simp] theorem State.progress_w1 (s : State) (a : Nat) : (s.progress a).w1 = s.w1 := by simp [State.progress]
@[simp] theorem State.progress_w1by (s : State) (a : Nat) : (s.progress a).w1by = s.w1by := by simp [State.progress]
@[simp] theorem State.progress_cells (s : State) (a : Nat) : (s.progress a).cells = s.cells := by simp [State.progress]
@[simp] theorem State.progress_vdevs (s : State) (a : Nat) : (s.progress a).vdevs = s.vdevs := by simp [State.progress]
@[simp] theorem State.progress_granules (s : State) (a : Nat) : (s.progress a).granules = s.granules := by simp [State.progress]
@[simp] theorem State.progress_scrubCmds (s : State) (a : Nat) : (s.progress a).scrubCmds = s.scrubCmds := by simp [State.progress]
@[simp] theorem State.progress_exported (s : State) (a : Nat) : (s.progress a).exported = s.exported := by simp [State.progress]
@[simp] theorem State.progress_windows (s : State) (a : Nat) : (s.progress a).windows = s.windows := by simp [State.progress]
@[simp] theorem State.progress_posts (s : State) (a : Nat) : (s.progress a).posts = s.posts := by simp [State.progress]
@[simp] theorem State.progress_freezes (s : State) (a : Nat) : (s.progress a).freezes = s.freezes := by simp [State.progress]
@[simp] theorem State.progress_net (s : State) (a : Nat) : (s.progress a).net = s.net := by simp [State.progress]
@[simp] theorem State.progress_xfers (s : State) (a : Nat) : (s.progress a).xfers = s.xfers := by simp [State.progress]
@[simp] theorem State.progress_nextXfer (s : State) (a : Nat) : (s.progress a).nextXfer = s.nextXfer := by simp [State.progress]
@[simp] theorem State.progress_memops (s : State) (a : Nat) : (s.progress a).memops = s.memops := by simp [State.progress]
@[simp] theorem State.progress_nextOp (s : State) (a : Nat) : (s.progress a).nextOp = s.nextOp := by simp [State.progress]
@[simp] theorem State.progress_walks (s : State) (a : Nat) : (s.progress a).walks = s.walks := by simp [State.progress]
@[simp] theorem State.progress_fills (s : State) (a : Nat) : (s.progress a).fills = s.fills := by simp [State.progress]
@[simp] theorem State.progress_farPages (s : State) (a : Nat) : (s.progress a).farPages = s.farPages := by simp [State.progress]
@[simp] theorem State.progress_invals (s : State) (a : Nat) : (s.progress a).invals = s.invals := by simp [State.progress]
@[simp] theorem State.progress_stlb (s : State) (a : Nat) : (s.progress a).stlb = s.stlb := by simp [State.progress]
@[simp] theorem State.progress_bcasts (s : State) (a : Nat) : (s.progress a).bcasts = s.bcasts := by simp [State.progress]
@[simp] theorem State.progress_reqs (s : State) (a : Nat) : (s.progress a).reqs = s.reqs := by simp [State.progress]
@[simp] theorem State.progress_fabTokens (s : State) (a : Nat) : (s.progress a).fabTokens = s.fabTokens := by simp [State.progress]
@[simp] theorem State.progress_fabReqs (s : State) (a : Nat) : (s.progress a).fabReqs = s.fabReqs := by simp [State.progress]
@[simp] theorem State.progress_fabOut (s : State) (a : Nat) : (s.progress a).fabOut = s.fabOut := by simp [State.progress]
@[simp] theorem State.progress_fabAsks (s : State) (a : Nat) : (s.progress a).fabAsks = s.fabAsks := by simp [State.progress]
@[simp] theorem State.progress_fabAnswers (s : State) (a : Nat) : (s.progress a).fabAnswers = s.fabAnswers := by simp [State.progress]
@[simp] theorem State.progress_orders (s : State) (a : Nat) : (s.progress a).orders = s.orders := by simp [State.progress]
@[simp] theorem State.progress_homeSeq (s : State) (a : Nat) : (s.progress a).homeSeq = s.homeSeq := by simp [State.progress]
@[simp] theorem State.progress_due (s : State) (a : Nat) : (s.progress a).due = s.due := by simp [State.progress]
@[simp] theorem State.progress_schedule (s : State) (a : Nat) : (s.progress a).schedule = s.schedule := by simp [State.progress]
@[simp] theorem State.progress_passed (s : State) (a : Nat) : (s.progress a).passed = s.passed := by simp [State.progress]
@[simp] theorem State.progress_tick (s : State) (a : Nat) : (s.progress a).tick = s.tick := by simp [State.progress]
@[simp] theorem State.progress_sel (s : State) (a : Nat) : (s.progress a).sel = s.sel := by simp [State.progress]

/-! ### gcTiles -/

@[simp] theorem State.gcTiles_dev (s : State) (c : Nat) : (s.gcTiles c).dev = s.dev := rfl
@[simp] theorem State.gcTiles_mem (s : State) (c : Nat) : (s.gcTiles c).mem = s.mem := rfl
@[simp] theorem State.gcTiles_poison (s : State) (c : Nat) : (s.gcTiles c).poison = s.poison := rfl
@[simp] theorem State.gcTiles_w1 (s : State) (c : Nat) : (s.gcTiles c).w1 = s.w1 := rfl
@[simp] theorem State.gcTiles_w1by (s : State) (c : Nat) : (s.gcTiles c).w1by = s.w1by := rfl
@[simp] theorem State.gcTiles_ctxs (s : State) (c : Nat) : (s.gcTiles c).ctxs = s.ctxs := rfl
@[simp] theorem State.gcTiles_vdevs (s : State) (c : Nat) : (s.gcTiles c).vdevs = s.vdevs := rfl
@[simp] theorem State.gcTiles_granules (s : State) (c : Nat) : (s.gcTiles c).granules = s.granules := rfl
@[simp] theorem State.gcTiles_scrubCmds (s : State) (c : Nat) : (s.gcTiles c).scrubCmds = s.scrubCmds := rfl
@[simp] theorem State.gcTiles_exported (s : State) (c : Nat) : (s.gcTiles c).exported = s.exported := rfl
@[simp] theorem State.gcTiles_windows (s : State) (c : Nat) : (s.gcTiles c).windows = s.windows := rfl
@[simp] theorem State.gcTiles_posts (s : State) (c : Nat) : (s.gcTiles c).posts = s.posts := rfl
@[simp] theorem State.gcTiles_freezes (s : State) (c : Nat) : (s.gcTiles c).freezes = s.freezes := rfl
@[simp] theorem State.gcTiles_net (s : State) (c : Nat) : (s.gcTiles c).net = s.net := rfl
@[simp] theorem State.gcTiles_xfers (s : State) (c : Nat) : (s.gcTiles c).xfers = s.xfers := rfl
@[simp] theorem State.gcTiles_nextXfer (s : State) (c : Nat) : (s.gcTiles c).nextXfer = s.nextXfer := rfl
@[simp] theorem State.gcTiles_memops (s : State) (c : Nat) : (s.gcTiles c).memops = s.memops := rfl
@[simp] theorem State.gcTiles_nextOp (s : State) (c : Nat) : (s.gcTiles c).nextOp = s.nextOp := rfl
@[simp] theorem State.gcTiles_walks (s : State) (c : Nat) : (s.gcTiles c).walks = s.walks := rfl
@[simp] theorem State.gcTiles_fills (s : State) (c : Nat) : (s.gcTiles c).fills = s.fills := rfl
@[simp] theorem State.gcTiles_farPages (s : State) (c : Nat) : (s.gcTiles c).farPages = s.farPages := rfl
@[simp] theorem State.gcTiles_invals (s : State) (c : Nat) : (s.gcTiles c).invals = s.invals := rfl
@[simp] theorem State.gcTiles_stlb (s : State) (c : Nat) : (s.gcTiles c).stlb = s.stlb := rfl
@[simp] theorem State.gcTiles_bcasts (s : State) (c : Nat) : (s.gcTiles c).bcasts = s.bcasts := rfl
@[simp] theorem State.gcTiles_reqs (s : State) (c : Nat) : (s.gcTiles c).reqs = s.reqs := rfl
@[simp] theorem State.gcTiles_fabTokens (s : State) (c : Nat) : (s.gcTiles c).fabTokens = s.fabTokens := rfl
@[simp] theorem State.gcTiles_fabReqs (s : State) (c : Nat) : (s.gcTiles c).fabReqs = s.fabReqs := rfl
@[simp] theorem State.gcTiles_fabOut (s : State) (c : Nat) : (s.gcTiles c).fabOut = s.fabOut := rfl
@[simp] theorem State.gcTiles_fabAsks (s : State) (c : Nat) : (s.gcTiles c).fabAsks = s.fabAsks := rfl
@[simp] theorem State.gcTiles_fabAnswers (s : State) (c : Nat) : (s.gcTiles c).fabAnswers = s.fabAnswers := rfl
@[simp] theorem State.gcTiles_orders (s : State) (c : Nat) : (s.gcTiles c).orders = s.orders := rfl
@[simp] theorem State.gcTiles_homeSeq (s : State) (c : Nat) : (s.gcTiles c).homeSeq = s.homeSeq := rfl
@[simp] theorem State.gcTiles_due (s : State) (c : Nat) : (s.gcTiles c).due = s.due := rfl
@[simp] theorem State.gcTiles_schedule (s : State) (c : Nat) : (s.gcTiles c).schedule = s.schedule := rfl
@[simp] theorem State.gcTiles_passed (s : State) (c : Nat) : (s.gcTiles c).passed = s.passed := rfl
@[simp] theorem State.gcTiles_tick (s : State) (c : Nat) : (s.gcTiles c).tick = s.tick := rfl
@[simp] theorem State.gcTiles_sel (s : State) (c : Nat) : (s.gcTiles c).sel = s.sel := rfl

/-! ### What an update leaves at its own key -/

theorem look_put {α : Type} (k j : Nat) (v : α) (m : List (Nat × α)) (h : m.Pairwise fun p q => p.1 < q.1) :
    look j (put k v m) = if j = k then some v else look j m := by
  induction m with
  | nil => simp only [put, look, eq_comm]
  | cons p t ih =>
    obtain ⟨a, u⟩ := p
    obtain ⟨h1, h2⟩ := List.pairwise_cons.mp h
    simp only [put]
    split
    · by_cases hj : k = j
      · subst hj; simp [look]
      · simp [look, hj, Ne.symm hj]
    · split
      · rename_i hk
        subst hk
        by_cases hj : k = j
        · subst hj; simp [look]
        · simp [look, hj, Ne.symm hj]
      · by_cases hj : a = j
        · subst hj
          have : ¬ a = k := fun e => by simp_all
          simp [look, this]
        · simp [look, hj, ih h2]

theorem look_put_self {α : Type} (k : Nat) (v : α) (m : List (Nat × α)) : look k (put k v m) = some v := by
  induction m with
  | nil => simp [put, look]
  | cons p t ih =>
    obtain ⟨a, u⟩ := p
    simp only [put]
    split
    · simp [look]
    · split
      · simp [look]
      · rename_i h1 h2
        have : ¬ a = k := fun e => h2 e.symm
        simp [look, this, ih]

theorem look_put_ne {α : Type} (k j : Nat) (v : α) (m : List (Nat × α)) (h : j ≠ k) :
    look j (put k v m) = look j m := by
  induction m with
  | nil => simp [put, look, Ne.symm h]
  | cons p t ih =>
    obtain ⟨a, u⟩ := p
    simp only [put]
    split
    · simp [look, Ne.symm h]
    · split
      · rename_i h2
        subst h2
        simp [look, Ne.symm h]
      · simp only [look]; split <;> simp_all

@[simp] theorem State.cell_setCell (s : State) (c : Nat) (x : Cell) : (s.setCell c x).cell c = x := by
  simp [State.cell, State.setCell, look_put_self]
theorem State.cell_setCell_ne (s : State) (c d : Nat) (x : Cell) (h : d ≠ c) : (s.setCell c x).cell d = s.cell d := by
  simp [State.cell, State.setCell, look_put_ne _ _ _ _ h]
@[simp] theorem State.cell_modCell (s : State) (c : Nat) (g : Cell → Cell) : (s.modCell c g).cell c = g (s.cell c) := by
  simp [State.modCell]
theorem State.cell_modCell_ne (s : State) (c d : Nat) (g : Cell → Cell) (h : d ≠ c) :
    (s.modCell c g).cell d = s.cell d := s.cell_setCell_ne c d _ h
@[simp] theorem State.ctx_setCtx (s : State) (a : Nat) (x : Ctx) : (s.setCtx a x).ctx a = some x := by
  simp [State.ctx, State.setCtx, look_put_self]
theorem State.ctx_setCtx_ne (s : State) (a b : Nat) (x : Ctx) (h : b ≠ a) : (s.setCtx a x).ctx b = s.ctx b := by
  simp [State.ctx, State.setCtx, look_put_ne _ _ _ _ h]
theorem State.ctx_modCtx (s : State) (a : Nat) (g : Ctx → Ctx) : (s.modCtx a g).ctx a = (s.ctx a).map g := by
  unfold State.modCtx
  split <;> simp_all
theorem State.ctx_modCtx_ne (s : State) (a b : Nat) (g : Ctx → Ctx) (h : b ≠ a) : (s.modCtx a g).ctx b = s.ctx b := by
  unfold State.modCtx
  split
  · exact s.ctx_setCtx_ne a b _ h
  · rfl

/-! ### Commit of a firing

Stated over what commitWith answers when nothing stops it, so that the meanings' lemmas cite it. -/

/-- A firing whose result tiles have been placed commits: the flags are ORed, the set retires, more happens, and the
outputs leave. -/
theorem State.commitWith_placed (s : State) (f : Firing) (c : Commit) (more : State → State) (cell1 : Cell) (outs : List Out)
    (hn : needLines f (newTiles c.outs) ≤ 2048) (hs : (s.runsIn f && s.badRemote f c.outs) = false)
    (hr : (s.cell f.cell).canReserve f.sid (newTiles c.outs) = true)
    (hp : (s.cell f.cell).place c.outs = some (cell1, outs)) :
    s.commitWith f c more =
      { (((more (((s.setCell f.cell cell1).orFlags f.asid f.tag c.flags).retire f)).sendOuts f (s.runsIn f) outs).gcTiles
          f.cell) with sel := none } := by
  unfold State.commitWith
  simp only [if_neg (Nat.not_lt.2 hn), hr, if_true, hp, hs, Bool.false_eq_true, if_false]

/-- Scalar outputs need no lines. -/
theorem Cell.place_scalars (c : Cell) (outs : List Out) (h : ∀ o ∈ outs, o.val.isTile = false) :
    c.place outs = some (c, outs) := by
  induction outs with
  | nil => rfl
  | cons o os ih =>
    have h1 := h o (List.mem_cons_self ..)
    have h2 := ih fun x hx => h x (List.mem_cons_of_mem _ hx)
    cases hv : o.val with
    | scalar v p e => simp only [Cell.place, hv, h2, Option.map_some]
    | tile hd d => simp [hv, Val.isTile] at h1

end Sys2Proof.Machine
end

