-- ==== Sys2Proof/Laws/Operands.lean ====
section
/-! SUPPORT. What the frame of an operator (R376) answers when nothing traps, said once: the meanings of the operators
are instances. -/

namespace Sys2Proof.Machine

/-- A firing whose outputs can leave commits. -/
theorem State.commitWith_fits {s : State} {f : Firing} {c : Commit} {cell1 : Cell} {placed : List Out}
    (more : State → State) (h : s.Fits f c.outs cell1 placed) :
    s.commitWith f c more = s.committed f cell1 placed c.flags more :=
  s.commitWith_placed f c more cell1 placed h.2.1 h.1 h.2.2.1 h.2.2.2

theorem State.commit_fits {s : State} {f : Firing} {c : Commit} {cell1 : Cell} {placed : List Out}
    (h : s.Fits f c.outs cell1 placed) : s.commit f c = s.committed f cell1 placed c.flags id :=
  State.commitWith_fits id h

theorem runFiring_selected {s : State} {f : Firing} (g : Firing → State) (h : s.sel = some f) :
    runFiring s g = .next (g f) := by
  simp [runFiring, h]

theorem runOp_selected {s : State} {f : Firing} (g : Firing → Env → Ex Commit) (h : s.sel = some f) :
    runOp s g = .next (s.settle f (g f (s.env f))) := by
  simp [runOp, h]

/-- An operator that computes its outputs commits. -/
theorem runOp_commits {s : State} {f : Firing} {g : Firing → Env → Ex Commit} {outs : List Out} {fl : Flags} {cell1 : Cell}
    {placed : List Out} (hg : g f (s.env f) = .ok ⟨outs, fl⟩) (h : s.Delivers f outs cell1 placed) :
    runOp s g = .next (s.committed f cell1 placed fl id) := by
  rw [runOp_selected g h.1, hg]
  exact congrArg _ (State.commit_fits (c := ⟨outs, fl⟩) h.2)

/-- A trap of a firing that would have made no new tile is raised at once. -/
theorem State.fail_bare {s : State} {f : Firing} {t : Trap} (h : t.need = []) : s.fail f t = s.raise f t := by
  simp [State.fail, h]

/-- A trap of a firing whose result lines can be reserved is raised (R84, R90). -/
theorem State.fail_reserved {s : State} {f : Firing} {t : Trap} (hn : needLines f t.need ≤ 2048)
    (hr : (s.cell f.cell).canReserve f.sid t.need = true) : s.fail f t = s.raise f { t with need := [] } := by
  by_cases h : t.need = []
  · rw [State.fail_bare h]
    congr 1
    obtain ⟨⟩ := t
    simp only at h
    subst h
    rfl
  · simp [State.fail, h, Nat.not_lt.2 hn, hr]

/-- An operator whose computation traps, with no new tile to make. -/
theorem runOp_traps {s : State} {f : Firing} {g : Firing → Env → Ex Commit} {t : Trap} (hg : g f (s.env f) = .error t)
    (h0 : t.need = []) (h : s.sel = some f) : runOp s g = .next (s.raise f t) := by
  rw [runOp_selected g h, hg]
  exact congrArg _ (State.fail_bare h0)

theorem checkKinds_ok {f : Firing} {a b c : Bool} (h : f.Kinds a b c) : checkKinds f a b c = .ok () := by
  have : (f.ops.any fun o => o.val.isTile != kindAt a b c o.port) = false := by
    rw [List.any_eq_false]
    intro o ho
    have := h o ho
    simp [this]
  simp only [checkKinds, this, trapIf, Bool.false_eq_true, if_false]

theorem checkKinds_error {f : Firing} {a b c : Bool} (h : ¬ f.Kinds a b c) : checkKinds f a b c = .error tBAD_OPERAND := by
  have : (f.ops.any fun o => o.val.isTile != kindAt a b c o.port) = true := by
    rw [List.any_eq_true]
    by_contra hn
    exact h fun o ho => by
      by_contra hne
      exact hn ⟨o, ho, by simpa using hne⟩
  simp only [checkKinds, this, trapIf, if_true]

theorem Firing.poisoned_clean {f : Firing} (h : f.Clean) : f.poisoned = false := by
  unfold Firing.poisoned
  rw [List.any_eq_false]
  intro o ho
  simp [h o ho]

theorem Firing.val_clean {f : Firing} (h : f.Clean) (p : Port) : (f.val p).poisoned = false := by
  unfold Firing.val Firing.opnd
  cases hf : f.ops.find? (fun o => o.port == p) with
  | none => rfl
  | some o => exact h o (List.mem_of_find?_eq_some hf)

theorem Firing.isPoisoned_clean {f : Firing} (h : f.Clean) (p : Port) : f.isPoisoned p = false := f.val_clean h p

theorem Firing.pz_clean {f : Firing} (h : f.Clean) (ps : List Port) : f.pz ps = 0 := by
  have : (f.ops.any fun o => ps.contains o.port && !o.lit && o.val.poisoned) = false := by
    rw [List.any_eq_false]
    intro o ho
    simp [h o ho]
  unfold Firing.pz
  rw [this]
  rfl

/-- A trap of the computation keeps the lines that it names itself. -/
@[simp] theorem withNeed_error {α : Type} (t : Trap) :
    withNeed (α := α) (resLines (.error t)) (.error t) = .error t := by
  simp [withNeed, resLines]

/-- The frame of R376 with nothing to trap. -/
theorem evalOp_ok {w : OpFields} {f : Firing} {e : Env} {a b c : Bool} {rs : List Res} {fl : ElemFlags} {t : Tag}
    (hk : f.Kinds a b c) (ht : outTag w f e = .ok t) :
    evalOp w f e (a, b, c) (.ok ()) false (.ok (rs, fl)) = .ok (Commit.ofRes t rs (orAll fl)) := by
  simp [evalOp, checkKinds_ok hk, ht, tagFlags, withNeed, Bind.bind, Except.bind, Pure.pure, Except.pure]

/-- The same for a floating operator none of whose flags is enabled in FPEN. -/
theorem evalOp_float_ok {w : OpFields} {f : Firing} {e : Env} {a b c : Bool} {rs : List Res} {fl : ElemFlags} {t : Tag}
    (hk : f.Kinds a b c) (ht : outTag w f e = .ok t) (hfp : firstElem (enabledFlags e.fpen) fl = none) :
    evalOp w f e (a, b, c) (.ok ()) true (.ok (rs, fl)) = .ok (Commit.ofRes t rs (orAll fl)) := by
  simp [evalOp, checkKinds_ok hk, ht, tagFlags, withNeed, Bind.bind, Except.bind, Pure.pure, Except.pure, fpCheck, hfp]

/-- An operator whose computation succeeds commits. -/
theorem commits_of_ok {i : Instr} {s : State} {f : Firing} {outs : List Out} {fl : Flags} {g : Firing → Env → Ex Commit}
    (hi : exec i s = runOp s g) (hg : g f (s.env f) = .ok ⟨outs, fl⟩) : Commits i s f outs fl := by
  intro c p hd
  rw [hi]; exact runOp_commits hg hd

/-- An operator whose computation ends in a trap takes it. -/
theorem traps_of_error {i : Instr} {s : State} {f : Firing} {t : Trap} {g : Firing → Env → Ex Commit}
    (hi : exec i s = runOp s g) (hg : g f (s.env f) = .error t) (h0 : t.need = []) : Traps i s f t := by
  intro h
  rw [hi]; exact runOp_traps hg h0 h

/-- The same once the lines of the tiles that it would have made are reserved. -/
theorem trapsWith_of_error {i : Instr} {s : State} {f : Firing} {t : Trap} {need : List Nat} {g : Firing → Env → Ex Commit}
    (hi : exec i s = runOp s g) (hg : g f (s.env f) = .error { t with need := need }) (h0 : t.need = []) :
    TrapsWith i s f need t := by
  intro hn hr h
  rw [hi, runOp_selected g h, hg]
  refine congrArg _ ((State.fail_reserved (t := { t with need := need }) hn hr).trans ?_)
  congr 1
  obtain ⟨⟩ := t
  simp only at h0
  subst h0
  rfl

end Sys2Proof.Machine
end

