-- ==== Sys2Proof/Laws/MemoryOps.lean ====
section
/-! SUPPORT. What issuing a memory operation can do, said once: every plan that passes the checks of R300 is issued. -/

namespace Sys2Proof.Machine

/-- Using a TLB entry leaves contexts, memory and the selected set alone. -/
theorem State.tlbTouch_frame (s : State) (c : Nat) (e : TlbEntry) : (s.tlbTouch c e).ctxs = s.ctxs ∧ (s.tlbTouch c e).mem = s.mem ∧ (s.tlbTouch c e).sel = s.sel := by
  unfold State.tlbTouch; split <;> simp [State.modCell, State.setCell]

theorem State.touched_frame (s : State) (f : Firing) (ts : List (Nat × TlbEntry)) : (s.touched f ts).ctxs = s.ctxs ∧ (s.touched f ts).mem = s.mem ∧ (s.touched f ts).sel = s.sel := by
  unfold State.touched
  induction ts generalizing s with
  | nil => simp
  | cons t ts ih => 
    have h := s.tlbTouch_frame f.cell t.2
    simp only [List.foldl]
    rw [(ih _).1, (ih _).2.1, (ih _).2.2, h.1, h.2.1, h.2.2]; simp

/-- A plan that passes R300, with the lines of its tile reserved (R84), is issued. -/
theorem State.runPlan_issues {s s1 : State} {f h : Firing} {w : OpFields} {p : Plan} {ts : List (Nat × TlbEntry)}
    (hn : needLines f p.room ≤ 2048) (hr : s.reserveRoom f p.room = some (s1, h)) (hi : s1.Issuable h p ts)
    (hc : (s1.touched h ts).CanCommit h) :
    s.runPlan f w (.ok p) = (s1.touched h ts).issued h
      ((s1.touched h ts).newOp h p (w.mod.extractLsb' 0 2) ts (accesses ts p.bad (cutAll p.spans))) := by
  obtain ⟨h1, h2, h3, h4, h5⟩ := hi
  obtain ⟨h6, h7⟩ := hc
  have h6' : ((s1.touched h ts).runsIn h && (s1.touched h ts).badRemote h
      [{ side := false, tag := h.tag, val := .scalar 0 false false, line := none },
       { side := true, tag := h.tag, val := .scalar 0 false false, line := none }]) = false := h6
  simp only [State.runPlan, if_neg (Nat.not_lt.2 hn), hr, h1, h2, h3, h4, h5, trapIf, bind, Except.bind, Bool.not_true,
    Bool.false_eq_true, if_false]
  change State.issue (s1.touched h ts) h
    ((s1.touched h ts).newOp h p (w.mod.extractLsb' 0 2) ts (accesses ts p.bad (cutAll p.spans))) = _
  generalize (s1.touched h ts).newOp h p (w.mod.extractLsb' 0 2) ts (accesses ts p.bad (cutAll p.spans)) = o
  unfold State.issue State.issued
  rw [h6']
  by_cases hp : o.phase = .accepting
  · simp only [Bool.false_eq_true, if_false, hp, beq_self_eq_true, if_true]; rfl
  · have hb : (o.phase == OpPhase.accepting) = false := by simpa using hp
    simp only [Bool.false_eq_true, if_false, hp, hb]
    rw [State.commitWith_fits (cell1 := _) (placed := [])]
    · rfl
    · exact ⟨by simp [State.badRemote], h7, by simp [newTiles, Cell.canReserve], rfl⟩

end Sys2Proof.Machine
end

