-- ==== Sys2Proof/Laws/Ops.lean ====
section
/-! SUPPORT. The shared operations, each said once: what it can answer, and which parts of the state it may change. A
lemma with Changes in its name writes the result as the old state with those fields alone replaced. -/

namespace Sys2Proof.Machine

/-! ### Every run of a selected firing answers a next state -/

theorem runOp_next (s : State) (g : Firing → Env → Ex Commit) : ∃ t, runOp s g = .next t := by
  unfold runOp; split <;> exact ⟨_, rfl⟩
theorem runFiring_next (s : State) (g : Firing → State) : ∃ t, runFiring s g = .next t := by
  unfold runFiring; split <;> exact ⟨_, rfl⟩
theorem runAcc_next (s : State) (g : State → Firing → Env → AccEx) : ∃ t, runAcc s g = .next t := runFiring_next _ _
theorem runMem_next (w : OpFields) (s : State) (g : State → Firing → Env → Ex Plan) : ∃ t, runMem w s g = .next t :=
  runFiring_next _ _
theorem runTensor_next (w : OpFields) (s : State) (g : State → Firing → Env → Ex Plan) : ∃ t, runTensor w s g = .next t :=
  runFiring_next _ _

/-! ### Inversion: what an operation can do -/

/-- A commit traps, freezes its virtual device, waits for lines, or takes place. -/
theorem State.commitWith_cases (s : State) (f : Firing) (c : Commit) (more : State → State) :
    s.commitWith f c more = s.raise f tBAD_OPERAND ∨ s.commitWith f c more = s.raiseRemote f (c.outs.flatMap f.dests) ∨
    s.commitWith f c more = s.noSpace f (newTiles c.outs) ∨
    ∃ cell1 placed, s.Fits f c.outs cell1 placed ∧ s.commitWith f c more = s.committed f cell1 placed c.flags more := by
  by_cases h1 : 2048 < needLines f (newTiles c.outs)
  · exact .inl (by simp only [State.commitWith, if_pos h1])
  by_cases h2 : (s.cell f.cell).canReserve f.sid (newTiles c.outs) = true
  · cases h3 : (s.cell f.cell).place c.outs with
    | none => exact .inr (.inr (.inl (by simp only [State.commitWith, if_neg h1, h2, if_true, h3])))
    | some p =>
      by_cases h4 : s.MaySend f c.outs
      · have hf : s.Fits f c.outs p.1 p.2 := ⟨h4, Nat.not_lt.1 h1, h2, h3⟩
        exact .inr (.inr (.inr ⟨p.1, p.2, hf, State.commitWith_fits more hf⟩))
      · have h5 : (s.runsIn f && s.badRemote f c.outs) = true := by simpa [State.MaySend] using h4
        exact .inr (.inl (by simp only [State.commitWith, if_neg h1, h2, if_true, h3, h5]))
  · exact .inr (.inr (.inl (by simp only [State.commitWith, if_neg h1, h2]; rfl)))

/-- A trap of a started firing is raised, gives way to BAD_OPERAND, or waits with its firing for lines. -/
theorem State.fail_cases (s : State) (f : Firing) (t : Trap) :
    s.fail f t = s.raise f { t with need := [] } ∨ s.fail f t = s.raise f tBAD_OPERAND ∨ s.fail f t = s.noSpace f t.need := by
  by_cases h1 : needLines f t.need ≤ 2048
  · by_cases h2 : (s.cell f.cell).canReserve f.sid t.need = true
    · exact .inl (State.fail_reserved h1 h2)
    · have h0 : t.need ≠ [] := fun h => h2 (by simp [h, Cell.canReserve])
      exact .inr (.inr (by simp [State.fail, h0, Nat.not_lt.2 h1, h2]))
  · by_cases h0 : t.need = []
    · have h2 : t = { t with need := [] } := by
        obtain ⟨⟩ := t
        simp only at h0
        subst h0
        rfl
      exact .inl ((State.fail_bare h0).trans (by rw [← h2]))
    · exact .inr (.inl (by simp [State.fail, h0, Nat.lt_of_not_le h1]))

/-- What a scalar or tile operator computed is committed, or its trap is taken. -/
theorem State.settle_cases (s : State) (f : Firing) (x : Ex Commit) :
    (∃ c, x = .ok c ∧ s.settle f x = s.commitWith f c id) ∨ ∃ t, x = .error t ∧ s.settle f x = s.fail f t := by
  cases x with
  | ok c => exact .inl ⟨c, rfl, rfl⟩
  | error t => exact .inr ⟨t, rfl, rfl⟩

/-- The same of an accumulator operator, which writes its shadow in the commit. -/
theorem State.settleAcc_cases (s : State) (f : Firing) (x : AccEx) :
    (∃ c n a, x = .ok (c, n, a) ∧
      s.settleAcc f x = s.commitWith f c fun st => st.modCell f.cell fun y => y.setAcc n a) ∨
    ∃ t, x = .error t ∧ s.settleAcc f x = s.fail f t := by
  cases x with
  | ok p => exact .inl ⟨p.1, p.2.1, p.2.2, rfl, rfl⟩
  | error t => exact .inr ⟨t, rfl, rfl⟩

/-- A step of an operator: nothing is selected, or the selected firing is settled. -/
theorem runOp_cases (s : State) (g : Firing → Env → Ex Commit) :
    (s.sel = none ∧ runOp s g = .next s) ∨
      ∃ f, s.sel = some f ∧ runOp s g = .next (s.settle f (g f (s.env f))) := by
  cases h : s.sel with
  | none => exact .inl ⟨rfl, by simp [runOp, h]⟩
  | some f => exact .inr ⟨f, rfl, runOp_selected g h⟩

theorem runFiring_cases (s : State) (g : Firing → State) :
    (s.sel = none ∧ runFiring s g = .next s) ∨ ∃ f, s.sel = some f ∧ runFiring s g = .next (g f) := by
  cases h : s.sel with
  | none => exact .inl ⟨rfl, by simp [runFiring, h]⟩
  | some f => exact .inr ⟨f, rfl, runFiring_selected g h⟩

/-! ### Which fields an operation may change -/

theorem State.modCell_Changes (s : State) (c : Nat) (g : Cell → Cell) : ∃ k, s.modCell c g = { s with cells := k } := ⟨_, rfl⟩
theorem State.setCtx_Changes (s : State) (a : Nat) (x : Ctx) : ∃ k, s.setCtx a x = { s with ctxs := k } := ⟨_, rfl⟩

theorem State.modCtx_Changes (s : State) (a : Nat) (g : Ctx → Ctx) : ∃ k, s.modCtx a g = { s with ctxs := k } := by
  unfold State.modCtx; split
  · exact ⟨_, rfl⟩
  · exact ⟨s.ctxs, rfl⟩

theorem State.writeMem_Changes (s : State) (a : Nat) (b : List Byte) : ∃ m, s.writeMem a b = { s with mem := m } := ⟨_, rfl⟩

theorem State.setFrame_Changes (s : State) (a i : Nat) (f : Frame) :
    ∃ m k, s.setFrame a i f = { s with mem := m, ctxs := k } := by
  unfold State.setFrame; split
  · exact ⟨s.mem, s.ctxs, rfl⟩
  · exact ⟨_, _, rfl⟩

theorem State.modPool_Changes (s : State) (a : Nat) (g : Pool → Pool) :
    ∃ m k, s.modPool a g = { s with mem := m, ctxs := k } := by
  unfold State.modPool State.setPool; split
  · exact ⟨s.mem, s.ctxs, rfl⟩
  · split
    · exact ⟨s.mem, s.ctxs, rfl⟩
    · exact ⟨_, _, rfl⟩

theorem State.orFlags_Changes (s : State) (a : Nat) (t : Tag) (fl : Flags) :
    ∃ m k, s.orFlags a t fl = { s with mem := m, ctxs := k } := by
  unfold State.orFlags; split
  · exact ⟨s.mem, s.ctxs, rfl⟩
  · dsimp only; split
    · exact State.setFrame_Changes ..
    · exact ⟨s.mem, s.ctxs, rfl⟩

theorem State.bumpTrace_Changes (s : State) (a off n : Nat) : ∃ m, s.bumpTrace a off n = { s with mem := m } := by
  unfold State.bumpTrace; split
  · exact ⟨s.mem, rfl⟩
  · dsimp only; split
    · exact ⟨s.mem, rfl⟩
    · exact ⟨_, rfl⟩

theorem State.sample_Changes (s : State) (f : Firing) (r : FireRec) :
    ∃ m k, s.sample f r = { s with mem := m, ctxs := k } := by
  unfold State.sample; split
  · exact ⟨s.mem, s.ctxs, rfl⟩
  · rename_i x _
    dsimp only
    split
    · split
      · split
        · obtain ⟨m, h⟩ := (s.setCtx f.asid { x with anchored := x.anchored + 1 }).bumpTrace_Changes f.asid 28 4
          rw [h]; exact ⟨_, _, rfl⟩
        · obtain ⟨m, h⟩ := (s.setCtx f.asid { x with anchored := x.anchored + 1 }).bumpTrace_Changes f.asid 32 2
          rw [h]
          obtain ⟨k, h⟩ := State.modCtx_Changes { s.setCtx f.asid { x with anchored := x.anchored + 1 } with mem := m } f.asid
            fun y => { y with walks := y.walks ++ [{ id := s.readNat (x.cr.tracebase + 32) 2, step := 0, depth := (x.sillage.extractLsb' 48 8).toNat, cell := f.cell, fr := r, ambig := false }] }
          exact ⟨m, k, h⟩
      · exact ⟨_, _, rfl⟩
    · exact ⟨s.mem, s.ctxs, rfl⟩

/-- A set's retirement: its cell, its context and two counters of the trace header. -/
theorem State.retire_Changes (s : State) (f : Firing) :
    ∃ m c k, s.retire f = { s with mem := m, cells := c, ctxs := k } := by
  unfold State.retire State.progress
  dsimp only
  obtain ⟨k1, h1⟩ := State.modCtx_Changes (s.modCell f.cell fun c =>
    { c.dropSet f.sid with
      records := (c.records ++ [s.fireRec f ((((s.cell f.cell).findSet f.sid).map FSet.args).getD [])]).drop (c.records.length + 1 - 1024)
      claim := if c.claim == some f.sid then none else c.claim
      fired := put f.asid ((look f.asid c.fired).getD 0 + 1) c.fired }) f.asid fun x => { x with fired := x.fired + 1 }
  rw [h1]
  generalize hs : ({ (s.modCell f.cell _) with ctxs := k1 } : State) = s2
  obtain ⟨m, k2, h2⟩ := s2.sample_Changes f (s.fireRec f ((((s.cell f.cell).findSet f.sid).map FSet.args).getD []))
  rw [h2]
  obtain ⟨k3, h3⟩ := State.modCtx_Changes { s2 with mem := m, ctxs := k2 } f.asid
    fun x => { x with wdog := 0, wdogStage := false, wdogSpilled := false }
  rw [h3, ← hs]
  exact ⟨m, _, k3, rfl⟩

theorem State.launchFlight_Changes (s : State) (f : Sender) (v : Val) (c : Nat) (ts : List Token) :
    ∃ n x k, s.launchFlight f v c ts = { s with net := n, xfers := x, nextXfer := k } := by
  unfold State.launchFlight
  split
  · exact ⟨_, s.xfers, s.nextXfer, rfl⟩
  · split
    · exact ⟨_, s.xfers, s.nextXfer, rfl⟩
    · exact ⟨_, _, _, rfl⟩

theorem State.sendTokens_Changes (s : State) (f : Sender) (v : Val) (ts : List Token) :
    ∃ n x k, s.sendTokens f v ts = { s with net := n, xfers := x, nextXfer := k } := by
  unfold State.sendTokens
  suffices h : ∀ (l : List Nat) (s : State), ∃ n x k,
      l.foldl (fun st c => st.launchFlight f v c (ts.filter fun t => t.cell == c)) s =
        { s with net := n, xfers := x, nextXfer := k } from h _ s
  intro l
  induction l with
  | nil => intro s; exact ⟨s.net, s.xfers, s.nextXfer, rfl⟩
  | cons c l ih =>
    intro s
    obtain ⟨n, x, k, h⟩ := s.launchFlight_Changes f v c (ts.filter fun t => t.cell == c)
    obtain ⟨n2, x2, k2, h2⟩ := ih { s with net := n, xfers := x, nextXfer := k }
    rw [List.foldl_cons, h, h2]
    exact ⟨n2, x2, k2, rfl⟩

/-- What holds of every step of a fold, and of several one after another, holds of the fold. -/
theorem foldl_rel {α β : Type} (R : β → β → Prop) (hr : ∀ b, R b b) (ht : ∀ a b c, R a b → R b c → R a c) (g : β → α → β)
    (h : ∀ b a, R b (g b a)) (l : List α) (b : β) : R b (l.foldl g b) := by
  induction l generalizing b with
  | nil => exact hr b
  | cons a l ih => exact ht _ _ _ (h b a) (ih _)

/-- Only memory changes. -/
def State.MemOnly (s t : State) : Prop := ∃ m, t = { s with mem := m }
theorem State.MemOnly.refl (s : State) : s.MemOnly s := ⟨s.mem, rfl⟩
theorem State.MemOnly.trans {s t u : State} (h : s.MemOnly t) (k : t.MemOnly u) : s.MemOnly u := by
  obtain ⟨m, rfl⟩ := h; obtain ⟨n, rfl⟩ := k; exact ⟨n, rfl⟩

theorem State.logPoison_Changes (s : State) (a x c l r : Nat) : s.MemOnly (s.logPoison a x c l r) := by
  unfold State.logPoison; split
  · exact State.MemOnly.refl _
  · dsimp only; split
    · exact State.MemOnly.refl _
    · split <;> exact ⟨_, rfl⟩

theorem State.logArea_Changes (s : State) (a p n c l : Nat) : s.MemOnly (s.logArea a p n c l) :=
  foldl_rel State.MemOnly State.MemOnly.refl (fun _ _ _ => State.MemOnly.trans) _
    (fun b x => by split; exacts [b.logPoison_Changes .., State.MemOnly.refl _]) _ s

theorem State.noteRpt_Changes (s : State) (a i c l : Nat) : s.MemOnly (s.noteRpt a i c l) := by
  unfold State.noteRpt; split
  · exact State.MemOnly.refl _
  · exact s.logArea_Changes ..

/-- Memory and contexts change. -/
def State.CtxOnly (s t : State) : Prop := ∃ m x, t = { s with mem := m, ctxs := x }
theorem State.CtxOnly.refl (s : State) : s.CtxOnly s := ⟨s.mem, s.ctxs, rfl⟩
theorem State.CtxOnly.trans {s t u : State} (h : s.CtxOnly t) (k : t.CtxOnly u) : s.CtxOnly u := by
  obtain ⟨m, x, rfl⟩ := h; obtain ⟨n, y, rfl⟩ := k; exact ⟨n, y, rfl⟩

theorem State.publishState_Changes (s : State) (a : Nat) : s.MemOnly (s.publishState a) := by
  unfold State.publishState; split
  · exact State.MemOnly.refl _
  · exact ⟨_, rfl⟩

/-- A freeze: the virtual device, its contexts, the record of the cause, and memory. -/
theorem State.freeze_Changes (s : State) (r : Freeze) :
    ∃ m x v, s.freeze r = { s with mem := m, ctxs := x, vdevs := v, freezes := s.freezes ++ [r] } := by
  unfold State.freeze
  extract_lets mine s1
  obtain ⟨m, h⟩ := foldl_rel State.MemOnly State.MemOnly.refl (fun _ _ _ => State.MemOnly.trans) State.publishState
    State.publishState_Changes mine s1
  rw [h]
  exact ⟨m, _, _, rfl⟩

/-- What sending may change: the mesh and the transfers; what is handed to the fabric; a poison log; and through a
destination that is not outbound, a freeze. -/
def State.Sends (s t : State) : Prop := ∃ m v z y n x k o,
  t = { s with mem := m, ctxs := v, vdevs := z, freezes := y, net := n, xfers := x, nextXfer := k, fabOut := o }
theorem State.Sends.refl (s : State) : s.Sends s :=
  ⟨s.mem, s.ctxs, s.vdevs, s.freezes, s.net, s.xfers, s.nextXfer, s.fabOut, rfl⟩
theorem State.Sends.trans {s t u : State} (h : s.Sends t) (k : t.Sends u) : s.Sends u := by
  obtain ⟨m, v, z, y, n, x, j, o, rfl⟩ := h
  obtain ⟨m, v, z, y, n, x, j, o, rfl⟩ := k
  exact ⟨m, v, z, y, n, x, j, o, rfl⟩

theorem State.sendRemote_Changes (s : State) (f : Sender) (t : Tag) (v : Val) (i : Nat) : s.Sends (s.sendRemote f t v i) := by
  unfold State.sendRemote
  extract_lets e s1
  obtain ⟨m, h⟩ : s.MemOnly s1 := s.noteRpt_Changes ..
  split
  · rw [h]; exact ⟨_, _, _, _, _, _, _, _, rfl⟩
  · obtain ⟨m2, x, v2, h2⟩ := State.freeze_Changes s1
      { cause := 2, vdev := s1.vdevOf f.asid, asid := some f.asid, cell := f.cell, slot := f.slot, tag := t, addr := 0 }
    rw [h2, h]
    exact ⟨_, _, _, _, _, _, _, _, rfl⟩

theorem State.sendFar_Changes (s : State) (f : Sender) (t : Tag) (v : Val) (ds : List Dest) : s.Sends (s.sendFar f t v ds) :=
  foldl_rel State.Sends State.Sends.refl (fun _ _ _ => State.Sends.trans) _ (fun b _ => b.sendRemote_Changes f t v _) _ s

theorem State.sendTokens_Sends (s : State) (f : Sender) (v : Val) (ts : List Token) : s.Sends (s.sendTokens f v ts) := by
  obtain ⟨n, x, k, h⟩ := s.sendTokens_Changes f v ts
  rw [h]
  exact ⟨s.mem, s.ctxs, s.vdevs, s.freezes, n, x, k, s.fabOut, rfl⟩

theorem State.send_Changes (s : State) (f : Sender) (t : Tag) (v : Val) (ds : List Dest) : s.Sends (s.send f t v ds) :=
  (s.sendTokens_Sends f v _).trans (State.sendFar_Changes ..)

theorem State.sendTagged_Changes (s : State) (f : Sender) (ts : List Tag) (v : Val) (ds : List Dest) :
    s.Sends (s.sendTagged f ts v ds) :=
  (s.sendTokens_Sends f v _).trans
    (foldl_rel State.Sends State.Sends.refl (fun _ _ _ => State.Sends.trans) _ (fun b t => b.sendFar_Changes f t v ds) _ _)

/-! ### Waits, parking, traps -/

/-- What taking a trap may change: memory, cells, contexts, requests, broadcasts, and grants that have become due. -/
def State.TrapSide (s t : State) : Prop := ∃ m k x q b d, t = { s with mem := m, cells := k, ctxs := x, reqs := q, bcasts := b, due := d }
theorem State.TrapSide.refl (s : State) : s.TrapSide s := ⟨s.mem, s.cells, s.ctxs, s.reqs, s.bcasts, s.due, rfl⟩
theorem State.TrapSide.trans {s t u : State} (h : s.TrapSide t) (k : t.TrapSide u) : s.TrapSide u := by
  obtain ⟨m, c, x, q, b, d, rfl⟩ := h
  obtain ⟨m, c, x, q, b, d, rfl⟩ := k
  exact ⟨m, c, x, q, b, d, rfl⟩
theorem State.MemOnly.traps {s t : State} (h : s.MemOnly t) : s.TrapSide t := by
  obtain ⟨m, rfl⟩ := h; exact ⟨m, s.cells, s.ctxs, s.reqs, s.bcasts, s.due, rfl⟩
theorem State.CtxOnly.traps {s t : State} (h : s.CtxOnly t) : s.TrapSide t := by
  obtain ⟨m, x, rfl⟩ := h; exact ⟨m, s.cells, x, s.reqs, s.bcasts, s.due, rfl⟩

theorem State.modCtx_CtxOnly (s : State) (a : Nat) (g : Ctx → Ctx) : s.CtxOnly (s.modCtx a g) := by
  obtain ⟨k, h⟩ := s.modCtx_Changes a g
  exact ⟨s.mem, k, h⟩
theorem State.modCell_traps (s : State) (c : Nat) (g : Cell → Cell) : s.TrapSide (s.modCell c g) :=
  ⟨s.mem, _, s.ctxs, s.reqs, s.bcasts, s.due, rfl⟩
theorem State.grantDue_traps (s : State) (a : Nat) : s.TrapSide (s.grantDue a) :=
  ⟨s.mem, s.cells, s.ctxs, s.reqs, s.bcasts, _, rfl⟩

theorem State.unallocFrame_Changes (s : State) (a i : Nat) : s.TrapSide (s.unallocFrame a i) := by
  unfold State.unallocFrame
  split
  · exact State.TrapSide.refl _
  · extract_lets f s1 s2
    have h1 : s.CtxOnly s1 := s.setFrame_Changes ..
    have h2 : s1.CtxOnly s2 := s1.modCtx_CtxOnly ..
    have h3 : s2.CtxOnly (s2.modPool a id) := s2.modPool_Changes ..
    exact ((h1.trans h2).trans h3).traps.trans (State.grantDue_traps ..)

theorem State.cancelWait_Changes (s : State) (a c i : Nat) : s.TrapSide (s.cancelWait a c i) := by
  unfold State.cancelWait
  extract_lets s1 g s2 s3 s4 s5
  have h1 : s.TrapSide s1 := s.modCell_traps ..
  have h2 : s1.TrapSide s2 := (s1.modCtx_CtxOnly ..).traps
  have h3 : s2.CtxOnly s3 := s2.modPool_Changes ..
  have h4 : s3.TrapSide s4 := by
    simp only [s4]; split
    exacts [s3.grantDue_traps a, State.TrapSide.refl _]
  have h5 : s4.TrapSide s5 := by
    simp only [s5]; split
    exacts [s4.unallocFrame_Changes .., State.TrapSide.refl _]
  obtain ⟨m, k, x, q, b, d, h⟩ := (((h1.trans h2).trans h3.traps).trans h4).trans h5
  rw [h]
  exact ⟨m, k, x, _, b, d, rfl⟩

theorem State.takeBlock_Changes (s : State) (a b : Nat) (t : State) (h : s.takeBlock a = some (b, t)) : s.CtxOnly t := by
  unfold State.takeBlock at h
  split at h
  · simp at h
  · split at h
    · simp at h
    · simp only [Option.some.injEq, Prod.mk.injEq] at h
      exact ⟨_, _, h.2.symm⟩

theorem State.storeBlock_Changes (s : State) (a b : Nat) (d : List Byte) : s.MemOnly (s.storeBlock a b d) := by
  unfold State.storeBlock; split
  · exact State.MemOnly.refl _
  · exact ⟨_, rfl⟩

theorem State.publishPark_Changes (s : State) (a : Nat) : s.MemOnly (s.publishPark a) := by
  unfold State.publishPark; split
  · exact State.MemOnly.refl _
  · split
    · exact State.MemOnly.refl _
    · exact ⟨_, rfl⟩

theorem State.tileBlock_Changes {s : State} {a c : Nat} {m : List (Nat × Nat)} {e : Entry} {r : Option Nat × List (Nat × Nat) × State}
    (h : s.tileBlock a c m e = some r) : s.CtxOnly r.2.2 := by
  unfold State.tileBlock at h
  split at h
  · cases h; exact State.CtxOnly.refl _
  · cases h; exact State.CtxOnly.refl _
  · split at h
    · cases h; exact State.CtxOnly.refl _
    · obtain ⟨p, h1, h2⟩ := Option.map_eq_some_iff.1 h
      have h3 := s.takeBlock_Changes a p.1 p.2 h1
      obtain ⟨n, h4⟩ := p.2.storeBlock_Changes a p.1 (by assumption)
      subst h2
      obtain ⟨m2, x2, h3⟩ := h3
      exact ⟨n, x2, by simp only; rw [h4, h3]⟩
    · cases h; exact State.CtxOnly.refl _

/-- A token put into the park area: memory and its context. -/
theorem State.parkEntry_Changes {s : State} {a c : Nat} {m : List (Nat × Nat)} {e : Entry} {r : State × List (Nat × Nat)}
    (h : s.parkEntry a c m e = some r) : s.CtxOnly r.1 := by
  unfold State.parkEntry at h
  simp only [Option.bind_eq_bind, Option.bind_eq_some_iff, Option.pure_def, Option.some.injEq] at h
  obtain ⟨x, -, i, -, p, hp, h⟩ := h
  subst h
  obtain ⟨m1, y1, h1⟩ := State.tileBlock_Changes hp
  obtain ⟨y2, h2⟩ := p.2.2.modCtx_Changes a fun y => { y with parked := y.parked ++
    [({ idx := i, entry := { e with parked := false, block := none }, cell := c, block := p.1 } : Stored)] }
  obtain ⟨m3, h3⟩ := State.publishPark_Changes ((p.2.2.modCtx a fun y => { y with parked := y.parked ++
    [({ idx := i, entry := { e with parked := false, block := none }, cell := c, block := p.1 } : Stored)] }).writeMem
      (x.parkAddr i) (Stored.toBytes { idx := i, entry := { e with parked := false, block := none }, cell := c, block := p.1 })) a
  exact ⟨m3, y2, by simp only; rw [h3, h2, h1]; rfl⟩

theorem State.setWay_Changes (s : State) (a : Nat) (w : Stored) : s.CtxOnly (s.setWay a w) := by
  unfold State.setWay; split
  · exact State.CtxOnly.refl _
  · exact ⟨_, _, rfl⟩

theorem State.freeWayAt_Changes (s : State) (a i : Nat) : s.CtxOnly (s.freeWayAt a i) := by
  unfold State.freeWayAt; split
  · exact State.CtxOnly.refl _
  · exact ⟨_, _, rfl⟩

theorem parkResident_Changes (a c : Nat) (p : State × List (Nat × Nat)) (e : Entry) : p.1.TrapSide (parkResident a c p e).1 := by
  unfold parkResident
  cases h : p.1.parkEntry a c p.2 e with
  | none =>
    exact State.modCell_traps p.1 c fun c => { c with entries := c.entries ++ [{ e with parked := true }] }
  | some r => exact (State.parkEntry_Changes h).traps

theorem parkWay_Changes (a : Nat) (p : State × List (Nat × Nat)) (w : Stored) : p.1.TrapSide (parkWay a p w).1 := by
  unfold parkWay
  split
  · rename_i s1 m h
    exact ((State.parkEntry_Changes h).trans (s1.freeWayAt_Changes ..)).traps
  · exact (p.1.setWay_Changes ..).traps

/-- Parking what a frame has on a cell. -/
theorem State.withdraw_Changes (s : State) (a i : Nat) (g : BitVec 4) (c : Nat) : s.TrapSide (s.withdraw a i g c) := by
  unfold State.withdraw
  extract_lets c0 sets es s1 s2 ws p1
  have h1 : s.TrapSide s1 := foldl_rel State.TrapSide State.TrapSide.refl (fun _ _ _ => State.TrapSide.trans) _
    (fun b (q : FSet) => b.cancelWait_Changes a c q.sid) _ s
  have h2 : s1.TrapSide s2 := s1.modCell_traps ..
  let R (p q : State × List (Nat × Nat)) : Prop := p.1.TrapSide q.1
  have h3 : s2.TrapSide p1.1 := foldl_rel R (fun p => State.TrapSide.refl p.1) (fun _ _ _ h k => State.TrapSide.trans h k) _
    (fun p e => parkResident_Changes a c p e) es (s2, [])
  have h4 : p1.1.TrapSide (ws.foldl (parkWay a) p1).1 := foldl_rel R (fun p => State.TrapSide.refl p.1)
    (fun _ _ _ h k => State.TrapSide.trans h k) _ (fun p w => parkWay_Changes a p w) ws p1
  exact (((h1.trans h2).trans h3).trans h4).trans (State.modCell_traps ..)

theorem State.clearBreak_Changes (s : State) (a i : Nat) (g : BitVec 4) (c : Nat) :
    ∃ k x, s.clearBreak a i g c = { s with cells := k, ctxs := x } := by
  unfold State.clearBreak
  obtain ⟨x, h⟩ := (s.modCell c fun c => { c with fbreaks := c.fbreaks.filter (· != (a, i, g.toNat)) }).modCtx_Changes a
    fun x => { x with fbreaks := x.fbreaks.filter (· != (i, g.toNat)) }
  rw [h]
  exact ⟨_, x, rfl⟩

theorem State.takeTrap_Changes (s : State) (a : Nat) (r : TrapRec) : s.TrapSide (s.takeTrap a r) := by
  unfold State.takeTrap
  split
  · exact State.TrapSide.refl _
  · rename_i x0 _
    extract_lets fr r1 s1 s2 brk s3 s4
    split
    · have h : s.CtxOnly (s.countOrphan a) := s.modPool_Changes ..
      exact h.traps.trans (State.modCell_traps ..)
    · have h1 : s.CtxOnly s1 := s.modCtx_CtxOnly ..
      split
      · have h2 : s1.CtxOnly s2 := s1.setFrame_Changes ..
        have h3 : s2.TrapSide s3 := ⟨s2.mem, s2.cells, s2.ctxs, s2.reqs, _, s2.due, rfl⟩
        have h4 : s3.TrapSide s4 := by
          simp only [s4]; split
          · obtain ⟨k, x, h⟩ := s3.clearBreak_Changes a (tagFrame r.tag) fr.gen r.cell
            rw [h]; exact ⟨s3.mem, k, x, s3.reqs, s3.bcasts, s3.due, rfl⟩
          · exact State.TrapSide.refl _
        exact ((((h1.trans h2).traps.trans h3).trans h4).trans (s4.withdraw_Changes ..))
      · exact h1.traps

/-- A context trap of no frame parks nothing: its record alone is added. -/
theorem State.takeTrap_context (s : State) (a : Nat) (r : TrapRec) (h : r.kind = 3) : s.CtxOnly (s.takeTrap a r) := by
  unfold State.takeTrap
  split
  · exact State.CtxOnly.refl _
  · simp only [h, bne_self_eq_false, Bool.false_and, Bool.false_eq_true, if_false]
    exact s.modCtx_CtxOnly ..

/-- Raising a trap: nothing leaves, and no operation is issued. -/
theorem State.raise_Changes (s : State) (f : Firing) (t : Trap) :
    ∃ m k x q b d, s.raise f t = { s with mem := m, cells := k, ctxs := x, reqs := q, bcasts := b, due := d, sel := none } := by
  unfold State.raise
  extract_lets args s1
  have h1 : s.TrapSide s1 := (s.cancelWait_Changes ..).trans (State.modCell_traps ..)
  obtain ⟨m, k, x, q, b, d, h⟩ := h1.trans (s1.takeTrap_Changes f.asid (s1.recOf f t args))
  change ∃ m k x q b d, ({ s1.takeTrap f.asid (s1.recOf f t args) with sel := none } : State) = _
  rw [h]
  exact ⟨m, k, x, q, b, d, rfl⟩

/-! ### What leaves with a commit -/

/-- What the outputs of a commit may change: what sending changes, and orphans on the cells they name. -/
def State.Leaves (s t : State) : Prop := ∃ m c v z y n x k o,
  t = { s with mem := m, cells := c, ctxs := v, vdevs := z, freezes := y, net := n, xfers := x, nextXfer := k, fabOut := o }
theorem State.Leaves.refl (s : State) : s.Leaves s :=
  ⟨s.mem, s.cells, s.ctxs, s.vdevs, s.freezes, s.net, s.xfers, s.nextXfer, s.fabOut, rfl⟩
theorem State.Leaves.trans {s t u : State} (h : s.Leaves t) (k : t.Leaves u) : s.Leaves u := by
  obtain ⟨m, c, v, z, y, n, x, j, o, rfl⟩ := h
  obtain ⟨m, c, v, z, y, n, x, j, o, rfl⟩ := k
  exact ⟨m, c, v, z, y, n, x, j, o, rfl⟩
theorem State.Sends.leaves {s t : State} (h : s.Sends t) : s.Leaves t := by
  obtain ⟨m, v, z, y, n, x, k, o, rfl⟩ := h; exact ⟨m, s.cells, v, z, y, n, x, k, o, rfl⟩
theorem State.CtxOnly.leaves {s t : State} (h : s.CtxOnly t) : s.Leaves t := by
  obtain ⟨m, x, rfl⟩ := h; exact ⟨m, s.cells, x, s.vdevs, s.freezes, s.net, s.xfers, s.nextXfer, s.fabOut, rfl⟩
theorem State.modCell_leaves (s : State) (c : Nat) (g : Cell → Cell) : s.Leaves (s.modCell c g) :=
  ⟨s.mem, _, s.ctxs, s.vdevs, s.freezes, s.net, s.xfers, s.nextXfer, s.fabOut, rfl⟩

theorem State.dropOrphan_Changes (s : State) (x : Ctx) (t : Token) : s.Leaves (s.dropOrphan x t) := by
  unfold State.dropOrphan
  extract_lets s1 s2
  have h1 : s.CtxOnly s1 := s.modPool_Changes ..
  have h2 : s1.CtxOnly s2 := by
    simp only [s2]; split
    · exact State.takeTrap_context _ _ _ rfl
    · exact State.CtxOnly.refl _
  exact (h1.trans h2).leaves.trans (State.modCell_leaves ..)

theorem State.orphanOuts_Changes (s : State) (f : Sender) (ts : List Tag) (v : Val) (ds : List Dest) :
    s.Leaves (s.orphanOuts f ts v ds) := by
  unfold State.orphanOuts
  split
  · exact State.Leaves.refl _
  · exact foldl_rel State.Leaves State.Leaves.refl (fun _ _ _ => State.Leaves.trans) _
      (fun b t => foldl_rel State.Leaves State.Leaves.refl (fun _ _ _ => State.Leaves.trans) _
        (fun b2 _ => b2.dropOrphan_Changes _ _) ds b) ts s

theorem State.sendGroup_Changes (s : State) (f : Firing) (live : Bool) (g : List Out) : s.Leaves (s.sendGroup f live g) := by
  unfold State.sendGroup
  extract_lets from_ toks
  split
  · clear_value toks
    have near : s.Leaves (g.head?.elim s fun o => s.sendTokens from_ o.val toks) := by
      cases g.head? with
      | none => exact State.Leaves.refl _
      | some o => rw [Option.elim_some]; exact (s.sendTokens_Sends from_ o.val toks).leaves
    exact near.trans (foldl_rel State.Leaves State.Leaves.refl (fun _ _ _ => State.Leaves.trans) _
      (fun b o => (b.sendFar_Changes from_ o.tag o.val (f.dests o)).leaves) g _)
  · have each : ∀ (b : State) (o : Out), b.Leaves (b.orphanOuts from_ [o.tag] o.val (f.dests o)) :=
      fun b o => State.orphanOuts_Changes b from_ [o.tag] o.val (f.dests o)
    exact foldl_rel State.Leaves State.Leaves.refl (fun _ _ _ => State.Leaves.trans) _ each g s

/-- Sending a firing's outputs changes what travels and what leaves the device, orphan counts and freezes. -/
theorem State.sendOuts_Changes (s : State) (f : Firing) (live : Bool) (outs : List Out) :
    s.Leaves (s.sendOuts f live outs) :=
  foldl_rel State.Leaves State.Leaves.refl (fun _ _ _ => State.Leaves.trans) _
    (fun b g => b.sendGroup_Changes f live g) _ s

/-- One output leaves by itself. -/
theorem State.sendOuts_one (s : State) (f : Firing) (o : Out) :
    s.sendOuts f true [o] = s.send (f.sender s) o.tag o.val (f.dests o) := by
  simp [State.sendOuts, State.sendGroup, joinOut, State.send]

/-- A commit with outputs and flags only: memory, cells, contexts, what travels, and a freeze by a destination that is not
outbound. -/
theorem State.committed_Changes (s : State) (f : Firing) (cell1 : Cell) (placed : List Out) (fl : Flags) :
    ∃ m c v z y n x k o, s.committed f cell1 placed fl id = { s with
      mem := m, cells := c, ctxs := v, vdevs := z, freezes := y, net := n, xfers := x, nextXfer := k, fabOut := o, sel := none } := by
  obtain ⟨m1, k1, h1⟩ := (s.setCell f.cell cell1).orFlags_Changes f.asid f.tag fl
  obtain ⟨m2, c2, k2, h2⟩ := State.retire_Changes ((s.setCell f.cell cell1).orFlags f.asid f.tag fl) f
  have h3 := State.sendOuts_Changes (((s.setCell f.cell cell1).orFlags f.asid f.tag fl).retire f) f (s.runsIn f) placed
  obtain ⟨m, c, v, z, y, n, x, k, o, h4⟩ := h3.trans (State.modCell_leaves _ f.cell _)
  unfold State.committed
  simp only [id]
  exact ⟨m, c, v, z, y, n, x, k, o, by rw [show State.gcTiles _ f.cell = _ from h4, h2, h1]; rfl⟩

/-- A held set: its cell and the order counter. -/
theorem State.hold_Changes (s : State) (f : Firing) (h : Hold) :
    ∃ k, s.hold f h = { s with cells := k, sel := none, orders := s.orders + 1 } := ⟨_, rfl⟩

/-! ### Operations and accesses -/

/-- An operation found under a number has that number. -/
theorem State.op_id {s : State} {n : Nat} {o : MemOp} (h : s.op n = some o) : o.id = n := by
  simpa using List.find?_some h

/-- The next access of an issued operation is applied at its home and then done. -/
theorem State.homeAccess_issued {s : State} {num k : Nat} {o : MemOp} {a : Access} (h : s.AtHome num k o a .issued) :
    s.homeAccess num k = (s.applyAccess o a).modOp num fun p =>
      { p with accs := p.accs.modify k fun x => { x with done := true } }.settle := by
  obtain ⟨h1, h2, h3, h4, h5⟩ := h
  simp [State.homeAccess, h1, h2, h3, h4, h5]

/-- The next access of an operation that waits for acceptance is accepted, refused or answered. -/
theorem State.homeAccess_accepting {s : State} {num k : Nat} {o : MemOp} {a : Access}
    (h : s.AtHome num k o a .accepting) :
    s.homeAccess num k = (s.acceptAccess o k a).modOp num fun p =>
      { p with accs := p.accs.modify k fun x => { x with done := true } }.settle := by
  obtain ⟨h1, h2, h3, h4, h5⟩ := h
  simp [State.homeAccess, h1, h2, h3, h4, h5]

/-! ### Operators with a condition before the tag action -/

theorem evalOp_pre_ok {w : OpFields} {f : Firing} {e : Env} {a b c : Bool} {pre : Ex Unit} {rs : List Res} {fl : ElemFlags}
    {t : Tag} (hk : f.Kinds a b c) (hp : pre = .ok ()) (ht : outTag w f e = .ok t) :
    evalOp w f e (a, b, c) pre false (.ok (rs, fl)) = .ok (Commit.ofRes t rs (orAll fl)) := by
  subst hp; exact evalOp_ok hk ht
theorem evalOp_pre_error {w : OpFields} {f : Firing} {e : Env} {a b c fp : Bool} {pre : Ex Unit} {r : Trap} {x}
    (hk : f.Kinds a b c) (hp : pre = .error r) : evalOp w f e (a, b, c) pre fp x = withNeed (resLines x) (.error r) := by
  subst hp; simp [evalOp, checkKinds_ok hk, Bind.bind, Except.bind]
theorem checkPoison_ok {f : Firing} {p : Port} {c : Nat} (h : f.isPoisoned p = false) : checkPoison f p c = .ok () := by
  simp [checkPoison, trapIf, h]
theorem checkPoison_error {f : Firing} {p : Port} {c : Nat} (h : f.isPoisoned p = true) :
    checkPoison f p c = .error (tPOISON c) := by
  simp [checkPoison, trapIf, h]

end Sys2Proof.Machine
end

