-- ==== Sys2Proof/Laws/ScalarInt.lean ====
section
/-! SUPPORT. What the shared frames of the scalar integer instructions answer, and the arithmetic of fit (R183). -/

namespace Sys2Proof.Machine

theorem evalInt_ok {w : OpFields} {f : Firing} {e : Env} {t : Tag} {y : Int} {fl : Flags}
    (hk : f.Scalars) (hc : f.Clean) (ht : outTag w f e = .ok t) :
    evalInt w f e (.ok ()) (.ok (y, fl)) = .ok ⟨[f.scalarOut t (payloadInt y)], fl⟩ := by
  unfold evalInt
  simp only [Except.map]
  rw [evalOp_ok hk ht]
  simp [Commit.ofRes, cleanFlags, Firing.poisoned_clean hc, orAll, Firing.scalarOut, scalarRes, res0, outD0]

theorem evalInt_error {w : OpFields} {f : Firing} {e : Env} {t : Tag} {r : Trap}
    (hk : f.Scalars) (ht : outTag w f e = .ok t) :
    evalInt w f e (.ok ()) (.error r) = .error r := by
  simp [evalInt, Except.map, evalOp, checkKinds_ok hk, ht, tagFlags, Bind.bind, Except.bind]

theorem evalNat_ok {w : OpFields} {f : Firing} {e : Env} {t : Tag} {y : Nat} {fl : Flags}
    (hk : f.Scalars) (hc : f.Clean) (ht : outTag w f e = .ok t) :
    evalNat w f e (.ok (y, fl)) = .ok ⟨[f.scalarOut t (BitVec.ofNat 64 y)], fl⟩ := by
  unfold evalNat
  simp only [Except.map]
  rw [evalOp_ok hk ht]
  simp [Commit.ofRes, cleanFlags, Firing.poisoned_clean hc, orAll, Firing.scalarOut, scalarRes, res0, outD0]

theorem fitOf_in {w : OpFields} {f : Firing} {fmt : Fmt} {x : Int} (h1 : intLo fmt ≤ x) (h2 : x ≤ intHi fmt) :
    fitOf w f fmt x = .ok (x, 0) := by
  simp [fitOf, fitPlain, fit, inRange, h1, h2]

theorem exactInt_eval {i : Instr} {f : Firing} {w : OpFields} {x : Int} (h : exactInt f i = some (w, x)) :
    ∃ g : Firing → Env → Ex Commit, (∀ s, exec i s = runOp s g) ∧
      ∀ e, g f e = evalInt w f e (.ok ()) (fitOf w f w.fmt x) := by
  cases i <;> simp [exactInt] at h
  case add w' => obtain ⟨rfl, rfl⟩ := h; exact ⟨evalAdd w', fun s => rfl, fun e => rfl⟩
  case sub w' => obtain ⟨rfl, rfl⟩ := h; exact ⟨evalSub w', fun s => rfl, fun e => rfl⟩
  case mul w' => obtain ⟨rfl, rfl⟩ := h; exact ⟨evalMul w', fun s => rfl, fun e => rfl⟩
  case mad w' => obtain ⟨rfl, rfl⟩ := h; exact ⟨evalMad w', fun s => rfl, fun e => rfl⟩
  case icvt w' => obtain ⟨rfl, rfl⟩ := h; exact ⟨evalIcvt w', fun s => rfl, fun e => rfl⟩
  case abs w' =>
    obtain ⟨h1, rfl, rfl⟩ := h
    exact ⟨evalAbs w', fun s => rfl, fun e => by simp [evalAbs, h1]⟩
  case neg w' =>
    obtain ⟨h1, rfl, rfl⟩ := h
    exact ⟨evalNeg w', fun s => rfl, fun e => by simp [evalNeg, h1]⟩

theorem wrap_cong (fmt : Fmt) (x : Int) : ((2 ^ width fmt : Nat) : Int) ∣ (x - wrapInt fmt x) := by
  have hpos : (0 : Int) < ((2 ^ width fmt : Nat) : Int) := by positivity
  have hn : ((wrapNat (width fmt) x : Nat) : Int) = x % ((2 ^ width fmt : Nat) : Int) := by
    unfold wrapNat; exact Int.toNat_of_nonneg (Int.emod_nonneg _ (by omega))
  have hlt : wrapNat (width fmt) x < 2 ^ width fmt := by
    have := Int.emod_lt_of_pos x hpos
    omega
  have hb : ((2 ^ width fmt : Nat) : Int) ∣ (x - x % ((2 ^ width fmt : Nat) : Int)) := Int.dvd_self_sub_emod
  unfold wrapInt readInt sint
  simp only [Nat.mod_eq_of_lt hlt]
  split
  · split
    · rw [hn]; exact hb
    · rw [hn]
      have : x - (x % ((2 ^ width fmt : Nat) : Int) - ((2 ^ width fmt : Nat) : Int)) = (x - x % ((2 ^ width fmt : Nat) : Int)) + ((2 ^ width fmt : Nat) : Int) := by ring
      rw [this]; exact Int.dvd_add hb (Int.dvd_refl _)
  · rw [hn]; exact hb

theorem wrap_range (fmt : Fmt) (x : Int) : intLo fmt ≤ wrapInt fmt x ∧ wrapInt fmt x ≤ intHi fmt := by
  have hw : 2 ^ width fmt = 2 * 2 ^ (width fmt - 1) := by cases fmt <;> rfl
  have hlt : wrapNat (width fmt) x % 2 ^ width fmt < 2 ^ width fmt := Nat.mod_lt _ (by positivity)
  unfold wrapInt readInt sint intLo intHi
  split
  · simp only; split <;> omega
  · omega

end Sys2Proof.Machine
end

