-- ==== Sys2Proof/Tests/Slice0.lean ====
section
/-! SUPPORT. The model's own tests: what the checks of WellFormed refuse, words written out from the encoding tables, and for
each statement a state and operands that meet its hypotheses. -/

namespace Sys2Proof.Tests

set_option Elab.async false

open Sys2Proof.Machine

/-! ### Fields -/

/-- Port a of slot 0x020 of cell 0x043. -/
def dst : Dest := { port := .to .a, mode := .fixed, cell := 0x043, sprA := 0, sprB := 0, slot := 0x020 }
/-- A link to record 0x7FF. -/
def link : Dest := { port := .link, mode := .producer, cell := 0, sprA := 0, sprB := 0, slot := 0x7FF }
/-- Plain fields: KEEP, no literal, one destination. -/
def fw (ar : Arity) (fmt : Fmt) : OpFields :=
  { var := 0, arity := ar, lit := none, ta := .keep, tw := 0, fmt := fmt, mod := 0, imm := 0, d0 := some dst, d1 := none }
def u (fmt : Fmt) : OpFields := fw .one fmt
def b (fmt : Fmt) : OpFields := fw .two fmt
def t (fmt : Fmt) : OpFields := fw .three fmt
/-- Port b literal. -/
def lb (fmt : Fmt) (imm : BitVec 32) : OpFields := { fw .one fmt with lit := some .b, imm := imm }

def allOk (l : List Instr) : Bool := l.all Instr.wf
def allBad (l : List Instr) : Bool := l.all fun i => !i.wf

/-! ### WellFormed: a legal operator of each kind, and one that each check refuses (R31 to R41, R53, and the tables) -/

theorem test_wf_plumbing : allOk [.pass (u .s32), .sync (t .handle), .switch (b .z32), .sel (t .f32), .const (lb .s32 1),
    .sink { u .handle with d0 := none }, .ends { u .bit with mod := 1 }, .iseos { u .handle with d0 := some link },
    .count { u .z32 with imm := 16 }] = true := by decide +kernel
theorem test_wf_plumbing_refused : allBad [.pass (b .s32), .pass (u .e4m3), .sync (u .s32), .switch (t .z32), .sel (b .f32),
    .const (u .s32), .sink (u .handle), .ends { u .bit with mod := 2 }, .iseos { u .handle with mod := 1 }, .count (u .z32),
    .pass { u .s32 with var := 1 }, .pass { u .s32 with tw := 1 }, .pass { u .s32 with imm := 1 },
    .pass { u .s32 with d0 := some link }, .pass { u .s32 with ta := .push, tw := 8 },
    .const (lb .f16 0x10000)] = true := by decide +kernel
theorem test_wf_destinations_refused : allBad [.pass { u .s32 with d0 := some { dst with sprA := 1 } },
    .pass { u .s32 with d0 := some { dst with mode := .producer } }, .pass { u .s32 with d1 := some { dst with mode := .remote } },
    .switch { b .z32 with d0 := some { link with mode := .fixed } }, .unpk { u .s32 with d1 := some link }] = true := by
  decide +kernel
theorem test_wf_loops : allOk [.lenter { u .z32 with ta := .push, tw := 1 }, .lnext { u .z32 with ta := .next, tw := 1 },
    .lexit { u .z32 with ta := .pop }, .ldone { u .z32 with ta := .pop, imm := 2047 }, .getcol { u .z32 with imm := 8 },
    .settag (lb .s32 0), .frameid (u .z64)] = true := by decide +kernel
theorem test_wf_loops_refused : allBad [.lenter (u .z32), .lnext (u .z32), .lexit { u .z32 with ta := .pop, imm := 2048 },
    .ldone { u .z32 with ta := .next }, .getcol { u .z32 with imm := 9 }, .getcol { u .z32 with imm := 8, mod := 1 },
    .settag { lb .s32 0 with ta := .push }, .frameid (u .s32)] = true := by decide +kernel
theorem test_wf_frames : allOk [.spawn (u .z64), .call (b .z64), .ret { u .s32 with ta := .ret }, .fend { b .z32 with d0 := none },
    .gang { lb .z32 4 with var := 1 }, .killf (u .z64)] = true := by decide +kernel
theorem test_wf_frames_refused : allBad [.spawn { u .z64 with var := 2 }, .spawn { u .z64 with imm := 1 },
    .call { b .z64 with d0 := some link }, .ret (u .s32), .fend (b .z32), .gang { b .z32 with d1 := some dst },
    .killf (u .s32)] = true := by decide +kernel
theorem test_wf_integer : allOk [.add (lb .s8 100), .sub { b .z64 with mod := 8 }, .mul { b .s16 with var := 1 }, .mulh (b .s32),
    .div (b .z8), .rem (b .s64), .and (b .z32), .or (b .z32), .xor (b .z32), .andn (b .z32), .shl (b .z32), .shr (b .z32),
    .sra (b .s32), .rotl (b .z32), .min (b .s8), .max (b .z8), .cmp { b .s32 with var := 7 }, .clz (u .z32), .popc (u .z32),
    .bext (lb .s32 0x0800), .bins (t .s32), .mad (t .s32), .addrc { b .s32 with imm := 7 }, .abs (u .f32), .neg (u .s32),
    .icvt { u .s8 with imm := 7 }, .mix (b .z64), .pack (b .z64), .unpk (u .s32)] = true := by decide +kernel
theorem test_wf_integer_refused : allBad [.add (b .f32), .add { b .s32 with var := 1, mod := 8 }, .sub { b .s32 with mod := 1 },
    .mul (t .s32), .mulh { b .s32 with mod := 8 }, .and { b .z32 with var := 1 }, .cmp { b .s32 with var := 8 }, .clz (b .z32),
    .popc { u .z32 with imm := 1 }, .bext (u .s32), .bins (b .s32), .mad (b .s32), .addrc { b .s32 with imm := 8 },
    .abs { u .f32 with mod := 8 }, .neg { u .s32 with mod := 4 }, .icvt { u .s8 with imm := 8 }, .mix (b .s64), .pack (b .s8),
    .unpk (u .z8)] = true := by decide +kernel
theorem test_wf_float : allOk [.fadd { b .f32 with mod := 13 }, .fsub (b .f16), .fmul (b .bf16), .ffma (t .f32), .fdiv (b .f32),
    .fsqrt (u .f32), .fmin { b .f32 with mod := 8 }, .fmax (b .f32), .fcmp { b .f32 with var := 7 }, .fcvt { u .e4m3 with imm := 8 },
    .fclass (u .e2m1), .ftoi { u .s32 with imm := 10 }, .itof { u .e2m1 with imm := 7 }] = true := by decide +kernel
theorem test_wf_float_refused : allBad [.fadd { b .f32 with mod := 6 }, .fsub (b .s32), .fmul (u .f32), .ffma (b .f32),
    .fdiv { b .f32 with var := 1 }, .fsqrt (b .f32), .fmin { b .f32 with mod := 1 }, .fcmp { b .f32 with var := 8 },
    .fcvt { u .e4m3 with imm := 0 }, .fclass { u .f32 with mod := 8 }, .ftoi { u .s32 with imm := 11 },
    .itof { u .a36 with imm := 4 }] = true := by decide +kernel
theorem test_wf_tiles : allOk [.vadd { b .f16 with mod := 8 }, .vsub (b .s8), .vmul (b .z32), .vfma (t .bf16), .vdiv (b .f32),
    .vmin (b .s32), .vmax (b .s32), .vabs (u .s32), .vneg (u .f32), .vsqrt (u .f32), .vrsq (u .f32), .vrcp (u .f32), .vexp2 (u .f32),
    .vlog2 (u .f32), .vtanh (u .f32), .vcvt { u .mx4 with imm := 8 }, .vscal (lb .f32 1), .vfill { u .s8 with imm := 0x7FFF },
    .vcmp (b .f32), .vmsel (t .bit), .vand (b .bit), .vor (b .s8), .vxor (b .z32), .vshf { b .z32 with var := 3 }, .vtran (u .e4m3),
    .vslic (lb .mx8e4 0), .vrowop { b .f32 with var := 4 }, .vcolop (b .s32)] = true := by decide +kernel
theorem test_wf_tiles_refused : allBad [.vadd (b .s64), .vsub { b .s8 with mod := 1 }, .vfma (t .s32), .vdiv (b .s32),
    .vmin { b .s32 with mod := 8 }, .vabs { u .f32 with mod := 8 }, .vsqrt (u .s32), .vcvt { u .mx4 with imm := 0x14 },
    .vcvt { u .f32 with imm := 8, var := 1 }, .vscal { b .s32 with var := 4 }, .vfill { u .s32 with imm := 0x7FFF },
    .vcmp { b .f32 with var := 8 }, .vmsel (b .bit), .vand (b .f32), .vshf { b .z32 with var := 4 }, .vtran (u .mx4), .vslic (b .handle),
    .vrowop { b .s32 with var := 5 }] = true := by decide +kernel
theorem test_wf_matrix : allOk [.mma (t .mx8e4), .mmas (t .mx8e5), .mmag (t .s4), .mcomp (u .mx8e4), .azero { u .z64 with imm := 0x3FFF },
    .adrain { u .bf16 with imm := 6, mod := 5 }, .aload { u .s32 with imm := 3 }, .aread (u .a36), .apatch (b .a36), .rsum { u .f16 with var := 3 },
    .rmax (u .s8), .rmin (u .s8), .rargx { u .f32 with var := 3 }, .topk { u .f32 with imm := 1023 }, .normk (u .bf16), .steer { b .mx4 with imm := 8 },
    .ordmrg (b .a36), .sort (u .z32), .partn { b .f32 with var := 1 }, .scan (u .f32)] = true := by decide +kernel
theorem test_wf_matrix_refused : allBad [.mma (t .f32), .mma { t .mx8e4 with mod := 8 }, .mmas (t .bf16), .mcomp (u .mx4),
    .azero { u .z64 with imm := 0x4000 }, .adrain { u .bf16 with imm := 7 }, .adrain { u .a36 with mod := 1 }, .aload { u .s32 with imm := 4 },
    .aread (u .f32), .apatch (u .a36), .rsum { u .f32 with var := 2 }, .rmax { u .s8 with var := 2 }, .rargx { u .f32 with mod := 8 },
    .topk { u .f32 with imm := 1024 }, .normk (u .s32), .steer (b .mx4), .ordmrg (b .handle), .sort (b .z32),
    .partn { b .f32 with var := 2 }] = true := by decide +kernel
theorem test_wf_memory : allOk [.ldt { u .handle with imm := 0xFFFF }, .stt (b .handle), .lds { u .f32 with mod := 10 }, .sts (b .s8), .gath (b .handle),
    .scat (t .handle), .pref (u .handle), .fence { u .s32 with mod := 2 }, .bput { u .handle with imm := 15 }, .bget (u .handle), .binit (u .z64),
    .atom { b .s8 with var := 8 }, .atom { b .f32 with var := 1 }, .cas (t .z64), .ared { b .handle with var := 2 }, .iput (b .z64), .itake (u .s64),
    .iclr (u .z64), .join (b .z32), .waitv { b .z8 with var := 7 }] = true := by decide +kernel
theorem test_wf_memory_refused : allBad [.ldt { u .handle with imm := 0x10000 }, .ldt { u .handle with mod := 3 }, .ldt { u .handle with mod := 12 },
    .stt (u .handle), .lds (u .bit), .sts (t .s8), .gath (u .handle), .scat (b .handle), .fence { u .s32 with mod := 3 },
    .bput { u .handle with imm := 16 }, .bget (u .z64), .binit (u .handle), .atom { b .s8 with var := 1 }, .atom { b .f32 with var := 10 },
    .cas (b .z64), .ared { b .handle with var := 3 }, .iput (b .z32), .itake (b .s64), .iclr (u .s64), .join (b .z64),
    .waitv { b .f32 with var := 0 }] = true := by decide +kernel
theorem test_wf_system : allOk [.trap { u .s32 with imm := 255 }, .park (u .z64), .resume (u .z64), .resume { b .s32 with var := 1, imm := 63 },
    .resume { t .s32 with var := 1, mod := 2 }, .trace (u .handle), .watch { b .z64 with imm := 7 }, .unwatch { u .s32 with imm := 8 },
    .flags { u .z32 with var := 1, mod := 1 }, .time { u .z64 with var := 1 }, .loadg { u .z32 with imm := 255 }, .swapg { u .s32 with mod := 1 },
    .drain (u .z64), .query { u .z64 with imm := 0xFFFF }, .xop 63 (t .mx4)] = true := by decide +kernel
theorem test_wf_system_refused : allBad [.trap { u .s32 with imm := 256 }, .park (u .s32), .resume { u .z64 with var := 3 },
    .resume { b .s32 with var := 1, mod := 2 }, .trace { u .s32 with imm := 0x10000 }, .watch { b .z64 with imm := 8 },
    .watch { b .z64 with imm := 0x30 }, .unwatch { u .s32 with imm := 9 }, .flags { u .z32 with var := 2 }, .time { u .z64 with var := 2 },
    .loadg { u .z32 with imm := 256 }, .swapg { u .s32 with mod := 2 }, .drain (u .z32), .query { u .z64 with imm := 0x10000 },
    .xop 0 { u .handle with lit := some .b }] = true := by decide +kernel

/-! ### Words written out from R30 and the encoding tables: W[127:96], IMM, D0, D1 -/

/-- ADD.s8 sat with literal 100, to port a of (0x043, 0x020) (09_ops_scalar). -/
theorem test_decode_add : decode 0x20060008_00000064_80430020_00000000#128 = .ok (.add { lb .s8 100 with mod := 8 }) := by
  decide +kernel
/-- ADD.s32 with literal 1 and record 0x7FF on the D1 side (03_assembly). -/
theorem test_decode_add_link : decode 0x20060040_00000001_80430020_F00007FF#128 = .ok (.add { lb .s32 1 with d1 := some link }) := by
  decide +kernel
/-- LNEXT, TA NEXT with w = 1 (06_ops_flow). -/
theorem test_decode_lnext : decode 0x11046250_00000000_80000001_00000000#128 = .ok (.lnext
    { u .z32 with ta := .next, tw := 1, d0 := some { dst with cell := 0, slot := 1 } }) := by decide +kernel
/-- An unassigned opcode, FANOUT as an operator, and a reserved format code (R50, R51). -/
theorem test_decode_refused : decode 0x0D040000_00000000_00000000_00000000#128 = .error .opcode ∧
    decode 0x07040000_00000000_00000000_00000000#128 = .error .opcode ∧
    decode 0x20040150_00000000_80430020_00000000#128 = .error .reserved := by decide +kernel
/-- sw of 06_ops_flow: OPC 0x03, ARITY 0b10, FMT z32, and a link on both sides. -/
theorem test_decode_switch : decode 0x03080050_00000000_F00007FF_F00007FE#128 = .ok (.switch
    { b .z32 with d0 := some link, d1 := some { link with slot := 0x7FE } }) := by decide +kernel
/-- CMP.lt.s32: VAR 2 in bits 119 to 116 (R187). -/
theorem test_decode_cmp : decode 0x30280040_00000000_80430020_00000000#128 = .ok (.cmp { b .s32 with var := 2 }) := by
  decide +kernel
/-- FFMA.f32 rm=rdn ftz (_, _, #1.0f): ARITY 0b10, LIT c, MOD 0b1010 (09_ops_scalar). -/
theorem test_decode_ffma : decode 0x430B008A_3F800000_80430020_00000000#128 = .ok (.ffma
    { b .f32 with lit := some .c, mod := 10, imm := 0x3F800000 }) := by decide +kernel
/-- SPAWN.z64: OPC 0x16. -/
theorem test_decode_spawn : decode 0x16040070_00000000_80430020_00000000#128 = .ok (.spawn (u .z64)) := by decide +kernel
/-- VADD.f32: OPC 0x50, ARITY 0b10, FMT 0x08. -/
theorem test_decode_vadd : decode 0x50080080_00000000_80430020_00000000#128 = .ok (.vadd (b .f32)) := by decide +kernel
/-- TOPK.f32 of k = IMM + 1: OPC 0x84 (11_ops_reduce_route). -/
theorem test_decode_topk : decode 0x84040080_00000007_80430020_00000000#128 = .ok (.topk { u .f32 with imm := 7 }) := by
  decide +kernel
/-- MMA.mx8e4: OPC 0x70, ARITY 0b11, FMT 0x0E (12_ops_matrix). -/
theorem test_decode_mma : decode 0x700C00E0_00000000_80430020_00000000#128 = .ok (.mma (t .mx8e4)) := by decide +kernel
/-- LDT: OPC 0x90, FMT handle, descriptor index in IMM. -/
theorem test_decode_ldt : decode 0x90040140_00000003_80430020_00000000#128 = .ok (.ldt { u .handle with imm := 3 }) := by
  decide +kernel
/-- ATOM.add.z64 with literal 1: OPC 0xA0, LIT b. -/
theorem test_decode_atom : decode 0xA0060070_00000001_80430020_00000000#128 = .ok (.atom (lb .z64 1)) := by decide +kernel
/-- PARK.z64: OPC 0xB1. -/
theorem test_decode_park : decode 0xB1040070_00000000_80430020_00000000#128 = .ok (.park (u .z64)) := by decide +kernel
/-- XOP5.f32: OPC 0b11 and the number. -/
theorem test_decode_xop : decode 0xC5040080_00000000_80430020_00000000#128 = .ok (.xop 5 (u .f32)) := by decide +kernel
/-- Encoding gives the worked word of 09_ops_scalar back. -/
theorem test_encode_add : encode (.add { lb .s8 100 with mod := 8 }) = some 0x20060008_00000064_80430020_00000000#128 := by
  decide +kernel
/-- A destination word with V = 0 and another bit set is rejected, and so is bit 11 (R36). -/
theorem test_dest_refused : decodeDest 0x00000001#32 = none ∧ decodeDest 0x80000800#32 = none := by decide +kernel
/-- The record of 06_ops_flow at 0x7FF; a record whose E0 links (R41). -/
theorem test_record : decodeRecord 0x80000003_80000004_00000000_00000000#128 = some
    [some { dst with cell := 0, slot := 3 }, some { dst with cell := 0, slot := 4 }, none, none] ∧
    decodeRecord 0xF0000003_80000004_00000000_00000000#128 = none := by decide +kernel
/-- The tag example of 02_encoding: PUSH, NEXT and POP with w = 2. -/
theorem test_tag_actions : push 0x1003218000000005#64 2 = .ok 0x1003428000000014#64 ∧
    next 0x1003428000000014#64 2 = .ok 0x1003428000000015#64 ∧
    pop 0x1003428000000015#64 2 = .ok 0x1003218000000005#64 := by decide +kernel

/-! ### A firing on a small state -/

def sc (v : Word64) : Val := .scalar v false false
/-- A poisoned scalar. -/
def bad (v : Word64) : Val := .scalar v true false
/-- A tile of zero bytes at line 0, or of the given ones. -/
def hd (fmt : Fmt) (rows cols : Nat) : Handle :=
  { fmt := fmt, rows := rows, cols := cols, valid := rows, line := 0, poison := 0, eos := false, disc := false, seq := 0 }
def tl (fmt : Fmt) (rows cols : Nat) : Val := .tile (hd fmt rows cols) (zeros (hd fmt rows cols).bytes)
def bytesTile (fmt : Fmt) (rows cols : Nat) (d : List Byte) : Val := .tile (hd fmt rows cols) (fitBytes (hd fmt rows cols).bytes d)

/-- Frame 0, GEN 0, DEPTH 1, FILL 3, colour 5. -/
def tag5 : Tag := 0x0000218000000005#64
def here : Dest := { dst with cell := 0, slot := 1 }
def opnd (p : Port) (v : Val) : Opnd := { port := p, lit := false, tok := { (default : Token) with payload := v.word }, val := v }
/-- A firing of set 0 on cell 0 with both sides sent to slot 1 of the same cell. -/
def fire (ops : List (Port × Val)) : Firing :=
  { cell := 0, sid := 0, asid := 0, slot := 0, tag := tag5, word := 0x01040040_00000000_80000001_00000000#128,
    ops := ops.map fun p => opnd p.1 p.2, outs0 := [here], outs1 := [here], nowatch := false, granted := false }
/-- The device with context 0, its frame 0 LIVE, and set 0 formed on cell 0. -/
def base : State := State.reset.placed 0x01040040_00000000_80000001_00000000#128
def on (f : Firing) : State := { base with sel := some f }

/-- Can the outputs leave? -/
def ready (s : State) (f : Firing) (outs : List Out) : Bool :=
  decide (s.sel = some f) && !(s.runsIn f && s.badRemote f outs) && decide (needLines f (newTiles outs) ≤ 2048) &&
    (s.cell f.cell).canReserve f.sid (newTiles outs) && ((s.cell f.cell).place outs).isSome
theorem ready_delivers {s : State} {f : Firing} {outs : List Out} (h : ready s f outs = true) :
    ∃ c p, s.Delivers f outs c p := by
  simp only [ready, Bool.and_eq_true, decide_eq_true_eq, Option.isSome_iff_exists] at h
  obtain ⟨⟨⟨⟨h1, h2⟩, h3⟩, h4⟩, ⟨c, p⟩, h5⟩ := h
  exact ⟨c, p, h1, (Bool.not_eq_true' _).mp h2, h3, h4, h5⟩

/-- The tag of the outputs under KEEP, and whether they can leave. -/
abbrev Leaves (w : OpFields) (f : Firing) (outs : List Out) : Prop :=
  outTag w f ((on f).env f) = .ok f.tag ∧ ready (on f) f outs = true

/-! ### Witnesses: scalar instructions -/

def f2 (x y : Word64) : Firing := fire [(.a, sc x), (.b, sc y)]

/-- 100 + 27 is the last s8 sum that fits; 100 + 28 leaves the range. -/
theorem witness_IntegerResults : exactInt (f2 100 27) (.add (b .s8)) = some (b .s8, 127) ∧ (f2 100 27).Scalars ∧
    (f2 100 27).Clean ∧ intLo .s8 ≤ 127 ∧ (127 : Int) ≤ intHi .s8 ∧
    Leaves (b .s8) (f2 100 27) [(f2 100 27).scalarOut tag5 127] ∧
    exactInt (f2 100 28) (.add { b .s8 with mod := 8 }) = some ({ b .s8 with mod := 8 }, 128) ∧ intHi .s8 < (128 : Int) ∧
    Leaves { b .s8 with mod := 8 } (f2 100 28) [(f2 100 28).scalarOut tag5 127] ∧
    Leaves (b .s8) (f2 100 28) [(f2 100 28).scalarOut tag5 (BitVec.ofInt 64 (-128))] := by decide +kernel
/-- 0x80 / -1, 7 / -2, 7 / 0. -/
theorem witness_DivideAndRemainder : intHi .s8 < ((f2 0x80 0xFF).int .s8 .a).tdiv ((f2 0x80 0xFF).int .s8 .b) ∧
    (f2 0x80 0xFF).int .s8 .b ≠ 0 ∧ Leaves (b .s8) (f2 0x80 0xFF) [(f2 0x80 0xFF).scalarOut tag5 127] ∧
    ((f2 7 0xFE).int .s8 .a).tdiv ((f2 7 0xFE).int .s8 .b) = -3 ∧ (f2 7 0).int .s8 .b = 0 := by decide +kernel
theorem witness_BitwiseShiftsAndFields : (f2 0x80 7).Scalars ∧ (f2 0x80 7).Clean ∧
    Leaves (b .z8) (f2 0x80 7) [(f2 0x80 7).scalarOut tag5 1] ∧ ({ b .s8 with var := 7 } : OpFields).var.toNat < 8 ∧
    ((f2 0x10 0).lane .z8 .a).getLsbD (8 - 1 - 3) = true := by decide +kernel
/-- A descriptor with p + L = w, one past it, and the first address past 54 bits. -/
theorem witness_BitwiseShiftsAndFields_descriptors : (f2 0xFF 0x0404).Scalars ∧ (f2 0xFF 0x0404).Clean ∧
    (0x0404#64 &&& 0xFFFFFFFFFFFF80C0#64 = 0 ∧ (0x0404#64).extractLsb' 8 7 ≠ 0 ∧ 4 + 4 ≤ width .s8) ∧
    width .s8 < ((0x0505#64).extractLsb' 0 6).toNat + ((0x0505#64).extractLsb' 8 7).toNat ∧
    Leaves (b .s8) (f2 0xFF 0x0404) [(f2 0xFF 0x0404).scalarOut tag5 (BitVec.ofInt 64 (-1))] ∧
    ((2 ^ 54 : Nat) : Int) ≤ ((f2 0x3FFFFFFFFFFFFF 1).num .a : Int) + (f2 0x3FFFFFFFFFFFFF 1).int .s32 .b ∧
    width .s32 = 2 * width (halfOf .s32) := by decide +kernel
/-- 1.0 / 3.0 in f32 rounds once and is inexact; 1.0 / 0.0 raises DZ. -/
theorem witness_FloatArithmetic : (exactFloat (f2 0x3F800000 0x40400000) (.fdiv (b .f32))).isSome = true ∧
    enabledBy ((on (f2 0x3F800000 0x40400000)).env (f2 0x3F800000 0x40400000)).fpen 63 = false ∧
    enabledBy 0xFF 63 = true ∧
    Leaves (b .f32) (f2 0x3F800000 0x40400000) [(f2 0x3F800000 0x40400000).scalarOut tag5 0x3EAAAAAB] ∧
    (deliver .f32 { rm := .rne, ftz := false, rnd := fun _ => 0 } 0 (fvDiv (readF .f32 false 0x3F800000) (readF .f32 false 0x40400000)).1).1 =
      0x3EAAAAAB ∧
    (fvDiv (.fin false 1 1) (.fin false 0 1)).2 = fDZ := by decide +kernel
theorem witness_FloatSelectCompareConvert : (f2 0x3F800000 0x40400000).Scalars ∧ (f2 0x3F800000 0x40400000).Clean ∧
    enabledBy ((on (f2 0x3F800000 0x40400000)).env (f2 0x3F800000 0x40400000)).fpen 63 = false ∧
    Leaves (b .f32) (f2 0x3F800000 0x40400000) [(f2 0x3F800000 0x40400000).scalarOut tag5 0x3F800000] := by decide +kernel
theorem witness_PoisonIsCarried : (fire [(.a, bad 1), (.b, sc 2)]).Scalars ∧ (fire [(.a, bad 1), (.b, sc 2)]).poisoned = true ∧
    Leaves (b .s32) (fire [(.a, bad 1), (.b, sc 2)]) [outD0 tag5 (bad 3) none] := by decide +kernel

/-! ### Witnesses: plumbing and tags -/

theorem witness_PlumbingPassesOn : (f2 1 1).Scalars ∧ (f2 1 1).isPoisoned .b = false ∧ ((f2 1 1).val .b).word ≠ 0 ∧
    ((f2 1 0).val .b).word = 0 ∧ (fire [(.a, sc 1), (.b, bad 1)]).isPoisoned .b = true ∧
    Leaves (b .z32) (f2 1 1) [(f2 1 1).passed .a false tag5] ∧ Leaves (b .z32) (f2 1 0) [(f2 1 0).passed .a true tag5] ∧
    (f2 1 1).ops.Pairwise (fun x y => x.port ≠ y.port) ∧
    outTag { lb .s32 3 with ta := .setin, tw := 1 } (f2 1 3) ((on (f2 1 3)).env (f2 1 3)) = .ok 0x0000218000000007#64 := by
  decide +kernel
/-- A full colour, an empty tag, the widest field. -/
theorem witness_TagActionsAndWords : tagOk tag5 = true ∧ tagOk 0 = true ∧ tagOk (mkTag 0 0 7 39 0) = true ∧
    tagDepth (mkTag 0 0 7 39 0) = 7 ∧ tagDepth (mkTag 0 0 6 39 0) ≠ 7 ∧ 39 < tagFill (mkTag 0 0 6 39 0) + 1 ∧
    tagDepth 0#64 = 0 ∧ tagFill tag5 = 3 ∧ tagDepth tag5 ≠ 0 ∧ (1 < tagDepth (mkTag 0 0 2 3 0) ∧ 3 - 3 < 2 - 1) ∧
    ({ u .z32 with imm := 3 } : OpFields).imm.toNat % 16 ≤ tagFill tag5 ∧ tagFill tag5 < 4 ∧
    tagOk 0x0000400000000000#64 = false ∧ Leaves (u .z32) (f2 1 0) [(f2 1 0).passed .a false 0] := by decide +kernel

/-! ### Witnesses: tiles -/

def fT (v : Val) : Firing := fire [(.a, v)]
def fTT (v x : Val) : Firing := fire [(.a, v), (.b, x)]

/-- VADD.s8 of two tiles of 1 by 4; a sum that overflows under no flag; a shape that is not the other's. -/
theorem witness_TileElementwise : (match tileSpec (fTT (tl .s8 1 4) (tl .s8 1 4)) ((on (fTT (tl .s8 1 4) (tl .s8 1 4))).env
      (fTT (tl .s8 1 4) (tl .s8 1 4))) (.vadd (b .s8)) with
      | some q => q.ok && Enc.shapeOk q.fmt q.rows q.cols && !q.fp &&
          decide ((fTT (tl .s8 1 4) (tl .s8 1 4)).Kinds q.tileA q.tileB q.tileC)
      | none => false) = true ∧
    (match tileSpec (fTT (tl .s8 1 4) (tl .s8 2 4)) ((on (fTT (tl .s8 1 4) (tl .s8 2 4))).env (fTT (tl .s8 1 4) (tl .s8 2 4)))
      (.vadd (b .s8)) with | some q => q.ok | none => true) = false ∧
    Leaves (b .s8) (fTT (tl .s8 1 4) (tl .s8 1 4))
      [(fTT (tl .s8 1 4) (tl .s8 1 4)).tileOut tag5 false .s8 1 4 1 0 (zeros 4)] := by decide +kernel
theorem witness_TileElementValues_place : isMX .f32 = false ∧ Enc.shapeOk .f32 64 8 = true ∧ (hd .f32 64 8).rows = 64 ∧
    (0x7F800000 : Nat) < 2 ^ width .f32 ∧ elemAt (hd .s8 1 2) (tileApply .s8 1 2 1 0 fun _ c => (c + 5, 0)).1 0 1 = 6 := by
  decide +kernel
theorem witness_TileReshape : (fTT (tl .s8 2 4) (sc 0x0)).Kinds true false false ∧
    Enc.shapeOk .s8 4 2 = true ∧ Leaves (u .s8) (fTT (tl .s8 2 4) (sc 0))
      [(fTT (tl .s8 2 4) (sc 0)).tileOut tag5 false .s8 4 2 4 0 (zeros 8)] ∧
    0 + (0 / 2 ^ 15 % 64 + 1) ≤ (hd .s8 2 4).rows ∧ 0 % windowStep .s8 = 0 ∧ 1 % windowStep .s8 = 0 ∧
    (fT (tl .f32 1 32)).handle .a = hd .f32 1 32 ∧ Enc.shapeOk .mx8e4 1 32 = true ∧ isMX .mx8e4 = true := by decide +kernel
theorem witness_RankPartitionMergeSteer : (fT (tl .f32 1 4)).Kinds true false false ∧
    ({ u .f32 with imm := 3 } : OpFields).imm.toNat % 1024 + 1 ≤ (hd .f32 1 4).cols ∧ Enc.shapeOk .z32 1 4 = true ∧
    Leaves { u .f32 with imm := 3 } (fT (tl .f32 1 4)) [(fT (tl .f32 1 4)).tileOut tag5 false .f32 1 4 1 0 (zeros 16)] ∧
    (fTT (tl .s8 32 4) (tl .s8 32 4)).Kinds true true false ∧ 32 + 32 ≤ 64 ∧ Enc.shapeOk .s8 64 4 = true ∧
    (fTT (tl .s8 2 4) (tl .z32 2 1)).Kinds true true false ∧
    (∀ i < 2, cellOf ((fTT (tl .s8 2 4) (tl .z32 2 1)).grid .b) i 0 < 2 ^ 3) ∧ tagDepth tag5 ≠ 0 ∧ 3 ≤ tagFill tag5 := by
  decide +kernel

/-! ### Witnesses: the matrix unit -/

/-- Accumulator 0 of cell 0, 2 by 2, owned by frame 0. -/
def acc0 : Acc := { owner := some (0, 0, 0), step := 7, rows := 2, cols := 2, poison := 0, data := List.replicate 4 0 }
def word0 : Word64 := accWord 0 7 0 0 0
def withAcc (f : Firing) : State := (on f).setAccAt f 0 acc0
def fM : Firing := fire [(.a, tl .bf16 2 4), (.b, tl .bf16 2 4), (.c, sc word0)]
theorem witness_MatrixMultiplyAndCompress : (withAcc fM).Owns fM .c 0 acc0 ∧ fM.Kinds true true false ∧
    (fM.handle .a).rows = acc0.rows ∧ (fM.handle .b).rows = acc0.cols ∧ (fM.handle .a).cols = (fM.handle .b).cols ∧
    ready (withAcc fM) fM [fM.accOut tag5 false 0 acc0] = true ∧ 21 * 64 / 32 = 42 ∧ Enc.shapeOk .z8 1 42 = true := by
  decide +kernel
def fD : Firing := fire [(.a, sc word0)]
/-- AZERO on a FREE accumulator; ADRAIN, AREAD and APATCH on one's own, with the widest window. -/
theorem witness_AccumulatorClaimDrainPatch : (((on fD).cell 0).acc 1).owner = none ∧ (withAcc fD).Owns fD .a 0 acc0 ∧
    acc0.rows % 2 ^ 1 = 0 ∧ tagDepth tag5 ≠ 0 ∧ 1 ≤ tagFill tag5 ∧ 0 + 2 ≤ acc0.rows ∧
    ready (withAcc fD) fD [fD.accOut tag5 true 0 acc0] = true ∧
    (withAcc fD).watches fD 2 (fun x => x % 2 ^ 11 == fD.cell && (x / 2 ^ 13 % 2 == 1 || x / 2 ^ 11 % 4 == 0)) = [] ∧
    (fTT (sc word0) (tl .a36 2 2)).Kinds false true false := by decide +kernel
theorem witness_Reaches : (withAcc fD).Reaches fD .a .patch 0 acc0 := by
  refine ⟨by decide, by decide, by decide +kernel, by decide, by decide, ?_⟩
  exact ⟨by decide, by decide, by decide, by decide +kernel, .inl ⟨by decide, by decide⟩⟩

/-! ### Witnesses: loops and frames -/

/-- The record of LENTER slot 2, base tag 0, two bits wide, colour 1 busy. -/
def loop0 : LoopRec :=
  { asid := 0, slot := 2, base := 0, w := 2, closing := false, nextc := 2, waiter := none, infl := 1, src := 0, claims := 1, busy := 2 }
def loopTag (c : Nat) : Tag := mkTag 0 0 1 2 (BitVec.ofNat 39 c)
def lf (c : Nat) : Firing := { fire [(.a, sc 9)] with tag := loopTag c }
def withLoop (s : State) (r : LoopRec) : State := s.modCell 0 fun c => { c with loops := [r] }
/-- A held set of the firing. -/
def heldBy (s : State) (f : Firing) (h : Hold) : State :=
  { s.modCell 0 (fun c => { c with sets := c.sets.map fun q => { q with hold := some h, snap := some f } }) with sel := none }
def ready2 (s : State) (f : Firing) (outs : List Out) : Bool := ready { s with sel := some f } f outs

theorem witness_LoopEnterAndWaiters : (lf 0).Kinds false false false ∧ push 0#64 2 = .ok (loopTag 0) ∧
    ((on (lf 0)).cell 0).loopShare 1 = some 0 ∧ ready (on (lf 0)) (lf 0) [(lf 0).passed .a false (loopTag 0)] = true ∧
    ((withLoop (on (lf 0)) loop0).cell 0).loops.any (fun l => l.asid == 0 && l.slot == 2 && l.base == 0) = true ∧
    (let s := withLoop (heldBy base (lf 1) .lnext) { loop0 with waiter := some (2, 0) }
     ((s.cell 0).findSet 0).any (fun q => q.snap == some (lf 1)) = true ∧ loop0.busy.getLsbD 2 = false ∧
       ready2 s (lf 1) [(lf 1).passed .a false (setInner (lf 1).tag 2 2)] = true) ∧
    (let s := heldBy base { lf 0 with tag := 0 } .lenter
     (s.cell 0).sets.length = 1 ∧ ((s.cell 0).openLoop 0 0 0 2).isSome = true) := by decide +kernel
/-- The last colour wraps to 0, which is free; a busy colour; a closing record. -/
theorem witness_LoopAdvanceRetireClose : (lf 3).Kinds false false false ∧ tagDepth (loopTag 3) ≠ 0 ∧ 2 ≤ tagFill (loopTag 3) ∧
    pop (loopTag 3) 2 = .ok 0 ∧ ((withLoop (on (lf 3)) loop0).cell 0).loopRec 0 2 0 = some loop0 ∧ (3 + 1) % 2 ^ 2 = 0 ∧
    loop0.busy.getLsbD 0 = false ∧ loop0.busy.getLsbD 1 = true ∧
    ready (withLoop (on (lf 3)) loop0) (lf 3) [(lf 3).passed .a false (setInner (loopTag 3) 2 0)] = true ∧
    ready (withLoop (on (lf 1)) loop0) (lf 1) [(lf 1).passed .a false 0] = true ∧
    ({ loop0 with closing := true } : LoopRec).infl = 1 := by decide +kernel
/-- What LoopAdvanceRetireClose asks of a word, a state and a record. -/
abbrev LoopHyps (w : OpFields) (s : State) (f : Firing) (base : Tag) (r : LoopRec) : Prop :=
  f.Kinds (w.fmt == .handle) false false ∧ tagDepth f.tag ≠ 0 ∧ w.tw.toNat + 1 ≤ tagFill f.tag ∧
    pop f.tag (w.tw.toNat + 1) = .ok base ∧ (s.cell f.cell).loopRec f.asid (w.imm.toNat % 2048) base = some r ∧
    r.w = w.tw.toNat + 1 ∧ r.base = base
def wl : OpFields := { u .z32 with imm := 2, tw := 1 }
/-- LNEXT from the last colour claims 0; from colour 0 it waits for 1; behind a waiter and in a closing record it is refused. -/
theorem witness_LoopAdvanceRetireClose_lnext : LoopHyps wl (withLoop (on (lf 3)) loop0) (lf 3) 0 loop0 ∧
    ready (withLoop (on (lf 3)) loop0) (lf 3) [(lf 3).passed .a false (setInner (loopTag 3) 2 0)] = true ∧
    loop0.closing = false ∧ loop0.busy.getLsbD 0 = false ∧
    LoopHyps wl (withLoop (on (lf 0)) loop0) (lf 0) 0 loop0 ∧ loop0.busy.getLsbD 1 = true ∧ loop0.waiter = none ∧ (on (lf 0)).sel = some (lf 0) ∧
    LoopHyps wl (withLoop (on (lf 0)) { loop0 with waiter := some (1, 5) }) (lf 0) 0 { loop0 with waiter := some (1, 5) } ∧
    LoopHyps wl (withLoop (on (lf 3)) { loop0 with closing := true }) (lf 3) 0 { loop0 with closing := true } := by decide +kernel
/-- LDONE of colour 1: with nobody waiting, with LNEXT waiting for it, as the last of a closing record; of colour 3, which is not in flight. -/
theorem witness_LoopAdvanceRetireClose_ldone : LoopHyps wl (withLoop (on (lf 1)) loop0) (lf 1) 0 loop0 ∧
    loop0.busy.getLsbD 1 = true ∧ loop0.closing = false ∧ (∀ q ∈ loop0.waiter, q.1 ≠ 1) ∧
    ready (withLoop (on (lf 1)) loop0) (lf 1) [(lf 1).passed .a false 0] = true ∧
    LoopHyps wl (withLoop (on (lf 1)) { loop0 with waiter := some (1, 5) }) (lf 1) 0 { loop0 with waiter := some (1, 5) } ∧
    ready (withLoop (on (lf 1)) { loop0 with waiter := some (1, 5) }) (lf 1) [(lf 1).passed .a false 0] = true ∧
    LoopHyps wl (withLoop (on (lf 1)) { loop0 with closing := true }) (lf 1) 0 { loop0 with closing := true } ∧ loop0.infl = 1 ∧
    ready (withLoop (on (lf 1)) { loop0 with closing := true }) (lf 1) [(lf 1).passed .a false 0] = true ∧
    LoopHyps wl (withLoop (on (lf 3)) loop0) (lf 3) 0 loop0 ∧ loop0.busy.getLsbD 3 = false := by decide +kernel
/-- LEXIT with a colour in flight, with none, with a waiting LNEXT, and of a closing record. -/
theorem witness_LoopAdvanceRetireClose_lexit : LoopHyps wl (withLoop (on (lf 3)) loop0) (lf 3) 0 loop0 ∧ loop0.infl ≠ 0 ∧
    ready (withLoop (on (lf 3)) loop0) (lf 3) [(lf 3).passed .a false 0] = true ∧
    LoopHyps wl (withLoop (on (lf 3)) { loop0 with infl := 0, busy := 0 }) (lf 3) 0 { loop0 with infl := 0, busy := 0 } ∧
    ready (withLoop (on (lf 3)) { loop0 with infl := 0, busy := 0 }) (lf 3) [(lf 3).passed .a false 0] = true ∧
    LoopHyps wl (withLoop (on (lf 3)) { loop0 with waiter := some (1, 5) }) (lf 3) 0 { loop0 with waiter := some (1, 5) } ∧
    ready (withLoop (on (lf 3)) { loop0 with waiter := some (1, 5) }) (lf 3) [(lf 3).passed .a false 0] = true ∧
    LoopHyps wl (withLoop (on (lf 3)) { loop0 with closing := true }) (lf 3) 0 { loop0 with closing := true } := by decide +kernel

/-- The context with 40 frames, g of them free in the general share. -/
def pooled (s : State) (g : Nat) : State :=
  s.modCtx 0 fun x => { x with pool := { x.pool with nframes := 40, dmax := 2, resv := 0, gfree := g, dfree := [] } }
def fS (op : BitVec 8) : Firing :=
  { f2 5 3 with word := op ++ 0x040070#24 ++ 0x00000000_80000001_00000000#96 }
theorem witness_SpawnAndCall : ((pooled (on (fS 0x16)) 8).ctx 0).any (fun x =>
      x.pool.shareFor 1 == some .general && x.lowestFree 1 (x.pool.nframes - 1) == some 1 && decide (1 ≤ x.pool.dmax)) = true ∧
    (fS 0x16).word.extractLsb' 120 8 = 0x16#8 ∧ (fS 0x16).word.extractLsb' 64 12 = 0 ∧ (fS 0x16).Kinds false false false ∧
    (pooled (on (fS 0x16)) 8).badDests 0 (fS 0x16).outs0 = false ∧
    ready (pooled (on (fS 0x16)) 8) (fS 0x16) [(fS 0x16).passed .a false (frameTag 0 1)] = true ∧
    ready (pooled (on (fS 0x17)) 8) (fS 0x17) [(fS 0x17).passed .a false (frameTag 0 1), (fS 0x17).passed .b true (frameTag 0 1)] = true ∧
    ((pooled (on (fS 0x16)) 0).ctx 0).any (fun x => x.pool.shareFor 1 == none) = true ∧
    ready (pooled (on (fS 0x16)) 0) (fS 0x16) [(fS 0x16).passed .a true tag5] = true := by decide +kernel
/-- Frame 0 is LIVE with GEN 0; frame 1 is FREE; frame 40 does not exist. -/
theorem witness_FramesEnd : ((pooled (on (fire [(.a, sc 0)])) 8).ctx 0).any (fun x =>
      (x.frame 0).st == .live && (x.frame 0).gen == 0 && (x.frame 1).st == .free && decide (x.pool.nframes ≤ 40)) = true ∧
    (fire [(.a, sc 0)]).Scalars ∧ (0#64).extractLsb' 20 44 = 0 ∧ (0x100000#64).extractLsb' 20 44 ≠ 0 ∧
    ready (pooled (on (fire [(.a, sc 0)])) 8) (fire [(.a, sc 0)]) [(fire [(.a, sc 0)]).scalarOut tag5 0] = true ∧
    outTag { u .s32 with ta := .ret } (fire [(.a, sc 0)]) ((on (fire [(.a, sc 0)])).env (fire [(.a, sc 0)])) = .ok 0 := by decide +kernel
/-- A gang of 3 of 8 free frames; of 23, the most the pool can hold; of 24; of 0. -/
theorem witness_GangAndFrameWaiters : (fS 0x1A).Kinds false false false ∧ ((fS 0x1A).val .b).word.toNat = 3 ∧
    ((pooled (on (fS 0x1A)) 8).ctx 0).any (fun x => x.pool.nframes - 17 - x.pool.resv * x.pool.dmax == 23 && x.gangWaits.isEmpty &&
      decide (3 ≤ x.pool.gfree)) = true ∧
    (State.allocGang (fS 0x1A) 3 3 (pooled (on (fS 0x1A)) 8) []).2 = [1, 2, 3] ∧
    ready (State.allocGang (fS 0x1A) 3 3 (pooled (on (fS 0x1A)) 8) []).1 (fS 0x1A) [] = true ∧
    (let s := (pooled (heldBy base (fS 0x16) .frame) 1).modCtx 0 fun x => { x with frameWaits := [{ cell := 0, sid := 0, depth := 1, n := 1 }] }
     (s.ctx 0).any (fun x => x.frameWaits.length == 1 && x.pool.shareFor 1 == some .general && x.lowestFree 1 39 == some 1) = true ∧
       ready2 s (fS 0x16) [(fS 0x16).passed .a false (frameTag 0 1)] = true) := by decide +kernel

/-! ### Witnesses: memory -/

/-- Virtual page 16 at physical 0x200000, readable and writable. -/
def entry : TlbEntry := { asid := 0, page := 16, size := 16, pa := 0x200000, attr := 0x0F }
/-- The page in the TLB of cell 0, and a descriptor of a 4 by 16 tensor of z8 there, read as tiles of 2 by 16. -/
def mapped (s : State) : State :=
  (s.modCell 0 fun c => { c with tlb := [entry] }).writeMem 0x4000
    (leBytes 8 0x100000 ++ leBytes 8 256 ++ leBytes 4 4 ++ leBytes 4 16 ++ leBytes 1 1 ++ leBytes 1 1 ++ leBytes 2 15 ++ leBytes 1 7)
def desc0 : Desc :=
  { base := 0x100000, rstride := 256, nrows := 4, ncols := 16, fmt := .z8, rows := 2, cols := 16, rd := true, wr := true, disc := false }
def readNeed : Need := { r := true, w := false, w1 := false, device := false }
/-- Row 3, column 0: one row of the tile lies in the tensor. -/
def fL : Firing := fire [(.a, sc 0x300000000)]
theorem witness_TileTransfersIssue : (mapped (on fL)).useDesc fL (u .handle) 0 true false = .ok desc0 ∧
    (mapped (on fL)).useDesc fL (u .handle) 0 false true = .ok desc0 ∧ fL.isPoisoned .a = false ∧ fL.Kinds false false false ∧
    min desc0.rows (desc0.nrows - 3) = 1 ∧ desc0.base % desc0.size = 0 ∧ desc0.rstride % desc0.size = 0 ∧
    (mapped (on fL)).translate fL (pagesOf (cutAll (desc0.spans 3 0 0))) = .ok [(0x100300, entry)] ∧
    (mapped (on fL)).rights ((mapped (on fL)).env fL) readNeed [(0x100300, entry)] = .ok () ∧
    (mapped (on fL)).CanCommit fL ∧ (fire [(.a, sc 0), (.b, tl .z8 2 16)]).Kinds false true false ∧
    Enc.shapeOk .z8 2 16 = true ∧ (fire [(.a, sc 0), (.b, tl .z32 2 1), (.c, tl .z8 2 16)]).Kinds false true true := by
  decide +kernel
/-- The last aligned word of the page. -/
def fE : Firing := f2 0x10FFFC 7
theorem witness_ScalarAccessAndPrefetch : fE.Scalars ∧ fE.isPoisoned .a = false ∧ 0x10FFFC % (width .z32 / 8) = 0 ∧
    outTag (u .z32) fE ((mapped (on fE)).env fE) = .ok tag5 ∧
    (mapped (on fE)).translate fE (pagesOf (cutAll [{ va := 0x10FFFC, off := 0, len := 4, row := 0 }])) = .ok [(0x10FFFC, entry)] ∧
    (mapped (on fE)).rights ((mapped (on fE)).env fE) readNeed [(0x10FFFC, entry)] = .ok () ∧ (mapped (on fE)).CanCommit fE := by
  decide +kernel
theorem witness_AtomicsIssue : fE.Scalars ∧ fE.isPoisoned .b = false ∧ ((fE.val .b).word).extractLsb' 0 32 ≠ 0 ∧
    (mapped (on fE)).rights ((mapped (on fE)).env fE) { r := true, w := true, w1 := false, device := false } [(0x10FFFC, entry)] = .ok () ∧
    (fire [(.a, sc 0), (.b, tl .z32 2 16)]).Kinds false true false ∧
    (∀ i < 2, rowPoisoned (hd .z32 2 16) i = false) := by decide +kernel
/-- Addresses 2^54, one that a walk refused, a page without the right, and a misaligned one. -/
theorem witness_AccessChecksInOrder : (f2 0x40000000000000 0).Scalars ∧ 2 ^ 54 ≤ (0x40000000000000#64).toNat ∧
    ((mapped (on fE)).modCell 0 fun c => { c with sets := c.sets.map fun q => { q with faults := [{ va := 16, cls := 10, code := 1 }] } }).faultOn fE 0x10FFFC =
      some { va := 16, cls := 10, code := 1 } ∧
    (mapped (on fE)).faultOn fE 0x10FFFC = none ∧ (mapped (on fE)).tlbLookup 0 0 0x10FFFC = some entry ∧
    isHost (entry.addr 0x10FFFC) = false ∧ (mapped (on fE)).isRemote (entry.addr 0x10FFFC) = false ∧
    entry.attr.getLsbD 2 = true ∧ entry.attr.getLsbD 5 = false ∧ entry.attr.getLsbD 6 = false ∧ 0x10FFFE % 4 ≠ 0 ∧
    0x10FFFC / 256 = (0x10FFFC + 4 - 1) / 256 ∧ (fire [(.a, sc 0x10FFFC), (.b, bad 7)]).isPoisoned .b = true := by decide +kernel

/-- Operation 3 of the firing: one access of n bytes at 0x200000. -/
def acc1 (n : Nat) : Access :=
  { va := 0x100000, pa := 0x200000, parts := [{ pa := 0x200000, off := 0, len := n }], rows := [0], bad := false, done := false, dup := false }
def op3 (kind : OpKind) (ph : OpPhase) : MemOp :=
  { (default : MemOp) with id := 3, firing := fE, otag := tag5, kind := kind, accs := [acc1 8], buf := zeros 8, phase := ph }
def withOp (o : MemOp) : State := { base with memops := [o], nextOp := 4 }
theorem witness_HomesApplyAccesses :
    (∀ kind ∈ [OpKind.atom 8 .z64 1, .atom 9 .z64 1, .atom 15 .z64 1, .cas .z64 0 1, .cas .z64 5 1, .join 1, .join 2, .load (hd .z8 1 8),
      .loadScalar .z64, .store, .pref, .ared 0 .f32], (withOp (op3 kind .issued)).AtHome 3 0 (op3 kind .issued) (acc1 8) .issued) ∧
    base.poisoned 0x200000 = false ∧ (base.setPoison 0x200010).poisoned 0x200000 = true ∧ base.readNat 0x200000 8 = 0 ∧
    (base.readNat 0x200000 4 + 1) % 2 ^ 32 = 1 := by decide +kernel
theorem witness_WriteOnceWords :
    (∀ kind ∈ [OpKind.iput 9, .itake, .iclr], (withOp (op3 kind .accepting)).AtHome 3 0 (op3 kind .accepting) (acc1 8) .accepting) ∧
    look (memKey 0x200000) base.w1 = none ∧ ((withOp (op3 .itake .accepting)).takeArena (op3 .itake .accepting) (acc1 8) 0x100000 0 1 0).isSome = true ∧
    look (memKey 0x200000) (put (memKey 0x200000) W1.full []) = some .full ∧
    look (memKey 0x200000) (put (memKey 0x200000) W1.deferred []) = some .deferred := by decide +kernel
theorem witness_AcceptanceThenCommit :
    (withOp (op3 (.waitv 0 .z64 0) .accepting)).AtHome 3 0 (op3 (.waitv 0 .z64 0) .accepting) (acc1 8) .accepting ∧
    cmpCond 0 0 0 0 0 = true ∧ cmpCond 0 0 7 0 7 = false ∧
    ((withOp (op3 (.waitv 0 .z64 7) .accepting)).takeArena (op3 (.waitv 0 .z64 7) .accepting) (acc1 8) 0x100000 7 2 56).isSome = true ∧
    (withOp (op3 (.ared 0 .f32) .accepting)).findKey (op3 (.ared 0 .f32) .accepting) (acc1 8) = none ∧
    (let o := { op3 .iclr .accepting with accs := [{ acc1 8 with done := true }] }
     (withOp o).op 3 = some o ∧ (∀ a ∈ o.accs, a.done = true) ∧ o.origin = none ∧ o.refusal = none ∧ needLines o.firing [] ≤ 2048) := by
  decide +kernel
theorem witness_OperationsFinish :
    (∀ kind ∈ [OpKind.load (hd .z8 1 8), .loadScalar .z64, .atom 0 .z64 1, .cas .z64 0 1, .waitv 0 .z64 0, .itake, .join 1, .store],
      (withOp (op3 kind .applied)).op 3 = some (op3 kind .applied)) ∧ (op3 .store .applied).origin = none ∧
    (let o := { op3 .store .issued with dev := some 5, deadline := 42, accs := [{ acc1 8 with pa := 5 * 2 ^ 39 }] }
     (withOp o).op 3 = some o ∧ (withOp o).isRemote (5 * 2 ^ 39) = true ∧ (withOp o).dev.time < o.deadline ∧
       frameCurrent ((withOp o).frameOf 0 tag5) tag5 = true) := by decide +kernel
/-- Operation 3 with one line on device 5, asked for until time 42. -/
def farOp (kind : OpKind) (ph : OpPhase) : MemOp :=
  { op3 kind ph with accs := [{ acc1 8 with pa := 5 * 2 ^ 39 }], deadline := 42 }
def reply0 (refused : Option (Nat × Nat)) : RemoteReply :=
  { acc := 0, refused := refused, listed := false, poison := false, data := [], flags := 0 }
/-- Performed: a load with lines kept, values, counts; flags for the frame and for HOMEFLAGS. -/
theorem witness_OperationsFinish_performed :
    (∀ kind ∈ [OpKind.load (hd .z8 1 8), .loadScalar .z64, .atom 0 .z64 1, .cas .z64 0 1, .waitv 0 .z64 0, .itake, .join 1, .store, .pref,
        .iclr, .ared 0 .f32, .iput 9],
      let o := { op3 kind .applied with firing := { fE with room := some 0 } }
      (withOp o).op 3 = some o ∧ o.phase = .applied ∧ o.origin = none ∧ o.firing.room = some 0 ∧ o.accs = [acc1 8]) ∧
    (op3 .store .applied).flags = 0 ∧ frameCurrent ((withOp (op3 .store .applied)).frameOf 0 tag5) tag5 = true := by decide +kernel
/-- An answer of device 5: to an issued load, to a waiting ITAKE, one that refuses a store, and a late one. -/
theorem witness_OperationsFinish_answered :
    (∀ o ∈ [farOp (.load (hd .z8 1 8)) .issued, farOp .itake .waiting, farOp .store .issued, farOp .store .abandoned],
      (withOp o).op 3 = some o ∧ o.accs[(reply0 none).acc]? = some { acc1 8 with pa := 5 * 2 ^ 39 }) ∧
    (withOp (farOp .store .issued)).isRemote (5 * 2 ^ 39) = true ∧ (acc1 8).done = false ∧ (reply0 none).refused = none ∧
    (reply0 (some (0x0B, 1))).refused = some (0x0B, 1) ∧ (farOp .store .issued).kind ≠ .pref := by decide +kernel
/-- Time 41 and time 42. -/
theorem witness_OperationsFinish_timeout :
    (let s := withOp (farOp .store .issued)
     s.op 3 = some (farOp .store .issued) ∧ s.dev.time < (farOp .store .issued).deadline) ∧
    (let s0 := withOp (farOp .store .issued)
     let s : State := { s0 with dev := { s0.dev with time := 42 } }
     s.op 3 = some (farOp .store .issued) ∧ (farOp .store .issued).deadline ≤ s.dev.time ∧
       (farOp .store .issued).accs = [] ++ { acc1 8 with pa := 5 * 2 ^ 39 } :: [] ∧ s.isRemote (5 * 2 ^ 39) = true) := by decide +kernel
/-- The leaf entry at 0x900000 has ZF set and CLM clear; its page lies at 0x300000. -/
def fill0 (on : Bool) : ZeroFill := { leaf := 0x900000, frame := 0x300000, asid := 0, w1 := false, filling := on }
theorem witness_ZeroFillOfAPage :
    (let s : State := { base.writeMem 0x900000 [0x81] with fills := [fill0 false] }
     s.fills[0]? = some (fill0 false) ∧ bitsOf (s.readNat 0x900000 8) 7 1 = 1 ∧ bitsOf (s.readNat 0x900000 8) 8 1 = 0 ∧
       (∀ y ∈ s.fills, y.filling = false) ∧ s.memops = [] ∧ s.isRemote 0x300000 = false) ∧
    bitsOf (base.readNat 0x900000 8) 7 1 = 0 ∧ (∃ y ∈ [fill0 false, fill0 true], y.filling = true ∧ y.leaf = 0x900000) := by
  decide +kernel
/-- A claim while its page fills; the first, of an entry with ZF; of one without; of one with CLM and no claim; the end of a fill. -/
def claims (e : List Byte) (fs : List ZeroFill) : State := { base.writeMem 0x900000 e with fills := fs }
theorem witness_ZeroFillOfAPage_claims :
    ((claims [0x81, 1] [fill0 true]).fills[0]? = some (fill0 true) ∧ (fill0 true).filling = true) ∧
    ((claims [0x81, 1] [fill0 false, fill0 true]).fills[0]? = some (fill0 false) ∧
      ∃ y ∈ (claims [0x81, 1] [fill0 false, fill0 true]).fills, y.filling = true ∧ y.leaf = (fill0 false).leaf) ∧
    (let s := claims [0x81, 0, 0x30] [fill0 false]
     (∀ y ∈ s.fills, y.filling = true → y.leaf ≠ 0x900000) ∧ bitsOf (s.readNat 0x900000 8) 8 1 = 0 ∧
       bitsOf (s.readNat 0x900000 8) 7 1 = 1 ∧ bitsOf (s.readNat 0x900000 8) 16 36 * 2 ^ 16 = 0x300000) ∧
    bitsOf ((claims [0x01] [fill0 false]).readNat 0x900000 8) 7 1 = 0 ∧ bitsOf ((claims [0x01] [fill0 false]).readNat 0x900000 8) 8 1 = 0 ∧
    bitsOf ((claims [0x81, 1] [fill0 false]).readNat 0x900000 8) 8 1 = 1 ∧
    (let s := claims [0x81, 1] [fill0 true]
     s.isRemote (fill0 true).frame = false ∧ (∀ o ∈ s.memops, o.listed = false)) := by decide +kernel

/-! ### Witnesses: FENCE, rings, debugging -/

def fF : Firing := { fire [(.a, sc 1)] with word := 0x97040070_00000000_80000001_00000000#128 }
theorem witness_FenceWaits : fF.Scalars ∧ ready (on fF) fF [fF.passed .a false tag5] = true ∧
    (withOp { op3 .store .issued with firing := fF }).memops.any (fun o => o.phase == .issued && o.origin.isNone && o.firing.cell == fF.cell &&
      tagFrame o.firing.tag == tagFrame fF.tag) = true ∧
    decodeSlot fF.word = some (.fence { u .z64 with d0 := some { here with slot := 1 } }) ∧
    ((heldBy base fF (.fence [3] [] 0)).cell 0).sets.any (fun q => q.hold == some (.fence [3] [] 0) && q.snap == some fF) = true ∧
    ready2 (heldBy base fF (.fence [3] [] 0)) fF [fF.passed .a false tag5] = true := by decide +kernel
/-- A ring of 2 slots of 4 lines from line 8; the last line that fits; one too many. -/
def cfg : Word64 := 0x101808
def fR (v : Val) : Firing := { fire [(.a, v)] with word := 0x98040140_00000000_80000001_00000000#128 }
def ring0 (n : Nat) : Ring :=
  { base := 8, slotl := 4, nslot := 2, head := 0, asid := 0, tiles := List.replicate n (hd .z8 1 4, zeros 4) }
def ringed (s : State) (n : Nat) : State := s.modCell 0 fun c => { c with rings := [(0, ring0 n)] }
theorem witness_RingsFillAndDrain : ringConfig 0 cfg = ring0 0 ∧ (base.cell 0).badRing 0 cfg (ring0 0) = false ∧
    (base.cell 0).badRing 0 0x10000000 (ringConfig 0 0x10000000) = true ∧ (fR (sc cfg)).Scalars ∧
    ready (on (fR (sc cfg))) (fR (sc cfg)) [(fR (sc cfg)).scalarOut tag5 2] = true ∧
    look 0 ((ringed base 1).cell 0).rings = some (ring0 1) ∧ (fR (tl .z8 1 4)).Kinds true false false ∧ ((fR (tl .z8 1 4)).handle .a).lines ≤ 4 ∧
    ready (ringed (on (fR (tl .z8 1 4))) 1) (fR (tl .z8 1 4)) [(fR (tl .z8 1 4)).scalarOut tag5 2] = true ∧
    (∀ x ∈ ((ringed base 1).cell 0).sets, x.hold ≠ some (.bput 0) ∧ x.hold ≠ some (.bget 0)) ∧ needLines (fR (tl .z8 1 4)) [] ≤ 2048 ∧
    (∃ x ∈ ((ringed (heldBy base (fR (tl .z8 1 4)) (.bput 0)) 1).cell 0).oldestHeld (.bput 0), x.snap = some (fR (tl .z8 1 4))) ∧
    (∃ x ∈ ((ringed (heldBy base (fR (sc 0)) (.bget 0)) 1).cell 0).oldestHeld (.bget 0), x.snap = some (fR (sc 0))) ∧
    ((ringed (heldBy base (fR (tl .z8 1 4)) (.bput 0)) 1).cell 0).ringWaiters (.bget 0) = [] := by decide +kernel
/-- Frame 0 names itself; frame 1 by one without the capability. -/
def weak (s : State) : State := s.modCtx 0 fun x => { x with par := { x.par with caps := 0 } }
theorem witness_RequestsReachTheDispatcher : (fire [(.a, sc 0)]).Scalars ∧ (fire [(.a, sc 0)]).isPoisoned .a = false ∧
    ((on (fire [(.a, sc 0)])).env (fire [(.a, sc 0)])).caps.getLsbD 0 = true ∧
    ((weak (on (fire [(.a, sc 1)]))).env (fire [(.a, sc 1)])).caps.getLsbD 0 = false ∧ (1#64).extractLsb' 20 44 = 0 ∧
    ((on (fire [(.a, sc 0)])).ctx 0).any (fun x => decide (1 < x.pool.nframes) && decide (0 < x.cr.trapn) &&
      !(on (f2 0 9)).watchBad x 0 (watchOf { b .z64 with imm := 0x20 } (f2 0 9))) = true ∧
    outTag (u .z64) (fire [(.a, sc 0)]) ((on (fire [(.a, sc 0)])).env (fire [(.a, sc 0)])) = .ok tag5 := by decide +kernel
def asks (f : Firing) (k : ReqKind) (sent : Bool) : State :=
  { heldBy base f .request with reqs := [{ kind := k, asid := 0, cell := 0, sid := 0, sent := sent }] }
def fW (op : BitVec 8) : Firing := { f2 0 9 with word := op ++ 0x040070#24 ++ 0x00000000_80000001_00000000#96 }
theorem witness_RequestsDecided : (asks (fW 0xB1) .park false).reqs[0]? = some { kind := .park, asid := 0, cell := 0, sid := 0, sent := false } ∧
    ((asks (fW 0xB1) .park false).cell 0).sets.any (fun q => q.snap == some (fW 0xB1)) = true ∧
    ready2 (asks (fW 0xB1) .park false) (fW 0xB1) [(fW 0xB1).scalarOut tag5 0] = true ∧
    (decodeSlot (fW 0xB6).word).isSome = true ∧ (decodeSlot (fW 0xB2).word).isSome = true ∧ (decodeSlot (fW 0xB5).word).isSome = true ∧
    (decodeSlot 0xB4080070_00000020_80000001_00000000#128).isSome = true ∧
    (asks (fW 0xB2) .resume false).resumeRec ((((asks (fW 0xB2) .resume false).ctx 0).getD default)) (fW 0xB2) = none ∧
    ready2 (asks (fW 0xB2) .resume false) (fW 0xB2) [(fW 0xB2).scalarOut tag5 1] = true ∧ (asks (fW 0xB5) .unwatch true).bcasts = [] := by
  decide +kernel
theorem witness_TraceTimeQueryAndSillage : (fire [(.a, sc 0)]).Scalars ∧ (fire [(.a, bad 0)]).isPoisoned .a = true ∧
    Leaves (u .z64) (fire [(.a, sc 0)]) [(fire [(.a, sc 0)]).scalarOut tag5 0] ∧
    ((on (fire [(.a, sc 0)])).ctx 0).any (fun x => decide (64 ≤ x.cr.tracesize) && x.cr.region.contains 0 && !x.cr.region.contains 1) = true ∧
    base.readNat (0x43000 + 8) 8 ≤ base.readNat 0x43000 8 ∧ base.memops = [] ∧
    ({ u .z64 with imm := 0x2005 } : OpFields).imm.toNat / 4096 % 16 = 2 ∧ ({ u .z64 with imm := 0x1013 } : OpFields).imm.toNat % 4096 = 0x10 + 3 := by
  decide +kernel

/-! ### Witnesses: planes and broadcasts -/

/-- An image with a stream that ends at once, segment 0, and one entry port, segment 1, with their SHA-384 measurements. -/
def image : List Byte :=
  leBytes 64 0x100000000000000000000000000000000070000010000000002000000024c4d4e49 ++
  leBytes 64 0x4fd41f8be9aa138ad00e8d0d88fd58da0611a4ecf353d3a195ae7fcfa5bca352569f7e8f7e9a42d600000000000000000000000000000004000000e000000002 ++
  leBytes 64 0x9388921e969e2f9631cf1592d80d717e90a675e0de4d28bb00000000000000000000000000000008000000f0000000080000000000000000ad51366f3cf63774 ++
  leBytes 64 0x80000001000000000000000000000000f000000000000000000000005a553d4513b1dba900612a8f04164dfd86790d79e5fc84f1
def imaged (s : State) : State :=
  { (s.writeMem 0x200000 image).modCtx 0 fun x => { x with cr := { x.cr with imagesize := 256 } } with
    stlb := [(0, [{ asid := 0, page := 0, size := 16, pa := 0x200000, attr := 0x1F }])] }
def asked (f : Firing) (o : PlaneOp) : State := (heldBy base f .request).modCtx 0 fun x => { x with planeOps := [o] }
def op1 (op : BitVec 8) : Firing := fS op
/-- Can the outputs leave the cell? -/
def fits (s : State) (f : Firing) (outs : List Out) : Bool := ready2 s f outs
theorem witness_PlaneOperationsDone :
    (match (imaged (asked (op1 0xB8) (.loadg 0 0))).fetchStream 0 0, (imaged (asked (op1 0xB8) (.loadg 0 0))).fetchStream 0 1 with
      | .ok s1 (.ok (g, m, ws)), .ok s2 (.error r) => g == 0 && ws.isEmpty && m.length == 48 && r == 1 &&
          fits s1 (op1 0xB8) [(op1 0xB8).scalarOut tag5 0] && fits s2 (op1 0xB8) [(op1 0xB8).scalarOut tag5 1]
      | _, _ => false) = true ∧
    ((asked (op1 0xBA) (.drain 0 0)).cell 0).sets.any (fun q => q.snap == some (op1 0xBA)) = true ∧
    (decodeSlot (op1 0xBA).word).isSome = true ∧ (asked (op1 0xBA) (.drain 0 0)).quiet 0 = true ∧
    (asked (op1 0xB8) (.loadg 0 0)).quiet 0 = false ∧ (decodeSlot (op1 0xB8).word).isSome = true ∧
    (let f : Firing := { f2 5 3 with word := 0xB9040070_00000000_80000001_00000000#128 }
     (decodeSlot f.word).isSome = true ∧ (asked f (.swapg 0 0)).quiet 0 = true ∧ (asked f (.swapg 0 0)).unformed 0 = 0 ∧
       fits (asked f (.swapg 0 0)) f [f.passed .a false tag5] = true) ∧
    (match (imaged (asked (op1 0x16) (.residency 0 0))).fetchGraph 0 0, (imaged (asked (op1 0x16) (.residency 0 0))).entryPorts 0 0,
        (imaged (asked (op1 0x16) (.residency 0 0))).fetchGraph 0 1 with
      | .ok _ (some []), .ok _ [d], .bad _ => d == here
      | _, _, _ => false) = true := by decide +kernel
/-- One broadcast of context 0 with cell 0 still to reach. -/
def told (k : BcastKind) : State := { base with bcasts := [{ asid := 0, kind := k, left := [0] }] }
def cmd0 : Cmd := { (default : Cmd) with fn := .vdev 0, arg0 := 0, cdest := none }
theorem witness_BroadcastsArrive :
    (((told (.park 0 0 false)).modCtx 0 fun x => { x with frames := [(0, { Frame.blank with st := .parked })] }).frameOf 0 (frameTag 0 0)).st = .parked ∧
    ((told (.park 0 0 false)).frameOf 0 (frameTag 0 0)).st = .live ∧ (told (.sweep 0 0)).away 0 = false ∧
    0 ∈ ((told (.flip true)).bcasts.map Bcast.left).flatten ∧ 1 ∉ ((told (.flip false)).bcasts.map Bcast.left).flatten ∧
    (((told (.frameBreak 0 0)).modCtx 0 fun x => { x with fbreaks := [(0, 0)] }).ctx 0).any (fun x => x.fbreaks.contains (0, 0)) = true ∧
    (told (.watch 0 none)).bcasts.length = 1 ∧ (told (.breakBit 0 2047 true cmd0)).away 0 = false := by decide +kernel

/-! ### Witnesses: attars -/

/-- XOP 0 bound to a routine of one word, MEND, on two scalar ports of z64, giving port a back as Q0 and Q1; its SHA-384 measurement. -/
def fX : Firing := { f2 5 3 with word := 0xC0080070_00000000_80000001_00000000#128 }
def mend : Nat := 0x87ffffc000000000
def bound (s : State) : State :=
  (s.writeMem 0x10000 (leBytes 4 0 ++ leBytes 4 0x80 ++ leBytes 2 1 ++ leBytes 1 0 ++ leBytes 1 1 ++ leBytes 1 2 ++ leBytes 1 3 ++ leBytes 1 7 ++
    leBytes 3 0 ++ leBytes 2 1 ++ leBytes 2 1 ++ leBytes 10 0 ++
    leBytes 48 0xbc88f0292da0133843bc34e7284474957d260bbebacb813ee25994bb48e9a3ee282002d9e66927f329bb839572f2181a)).writeMem
      0x11400 (leBytes 8 mend)
def banked (s : State) (st : BankSt) : State :=
  s.modCell 0 fun c => { c with banks := [{ asid := 0, xop := 0, words := [BitVec.ofNat 64 mend], pin := some 0, st := st }] }
theorem witness_AttarsRun : (on fX).binding 0 0 = none ∧ ((bound (on fX)).binding 0 0).any (fun e => e.admits (b .z64) && !e.admits (b .s8)) = true ∧
    (∀ x ∈ ((on fX).cell 0).sets, fX.sid ≤ x.sid) ∧ ((on fX).cell 0).banks.length < 16 ∧ ((on fX).cell 0).bankOf 0 0 = none ∧
    (match (bound (on fX)).binding 0 0 with
      | some e => (match evalXop e [BitVec.ofNat 64 mend] (b .z64) (banked (bound (on fX)) .resident) fX ((on fX).env fX) with
        | .ok (⟨outs, fl⟩, none) => outs == [fX.scalarOut tag5 5] && fl == 0 && fits (banked (bound (on fX)) .resident) fX outs
        | _ => false)
      | none => false) = true ∧
    (let s := banked (bound base) .loading
     ((s.cell 0).banks.filter fun y => y.st == .loading).length = 1 ∧ s.owns 0 0x11400 8 = true ∧
       (match s.binding 0 0 with
        | some e => decide (sha384 (s.readMem 0x11400 8) = e.meas) && attarCheck e [BitVec.ofNat 64 mend] true
        | none => false) = true) := by
  decide +kernel

/-! ### Witnesses: tokens, tiles, spilling -/

def tok0 (slot : Nat) (tag : Tag) (cgen : BitVec 4) : Token :=
  { (default : Token) with asid := 0, tag := tag, cgen := cgen, cell := 0, slot := slot, port := .a }
def lone (t : Token) : Flight := { toks := [t], tile := none, left := 0, line := none, xfer := none }
/-- Slot 0 of cell 0 holds PASS, slot 9 a record. -/
def sent (t : Token) : State :=
  { base.modCell 0 (fun c => { c with ops := c.ops ++ [(9, { word := 0, record := true })] }) with net := [lone t], sel := none }
def frame0 (st : FrameSt) (s : State) : State := s.modCtx 0 fun x => { x with frames := [(0, { Frame.blank with st := st, src := .root })] }
def entry0 (slot : Nat) (tag : Tag) : Entry := { tok := tok0 slot tag 0, arrive := 3, parked := false, res := false, block := none }
def stored0 (slot : Nat) : Stored := { idx := 0, entry := entry0 slot 0, cell := 0, block := none }
def packet (line : Option Nat) (left : Nat) : Flight :=
  { toks := [{ tok0 2 0 0 with isTile := true, payload := (hd .z32 8 16).word }], tile := some (zeros 512), left := left, line := line, xfer := none }
theorem witness_TokensAndPacketsArrive :
    ((sent (tok0 2 0 0)).ctx 0).any (fun x => x.dry == .none && (x.frame 0).st == .live && (x.frame 0).gen == 0 && !x.purgeWindow && !x.cr.orphanEn) = true ∧
    (((sent (tok0 2 0 0)).cell 0).part 0).any (fun p => p.cgen == 0) = true ∧
    (((sent (tok0 2 0 0)).cell 0).activeSlot 0 2).record = false ∧ (((sent (tok0 9 0 0)).cell 0).activeSlot 0 9).record = true ∧
    0 < (sent (tok0 2 0 0)).freeGeneral 0 ∧ (sent (tok0 2 0 0)).slotSpilled 0 0 2 = false ∧
    ((sent (tok0 2 0 0)).modCtx 0 fun x => { x with ways := [stored0 2] }).slotSpilled 0 0 2 = true ∧
    ((frame0 .parked (sent (tok0 2 0 0))).ctx 0).any (fun x => (x.frame 0).st == .parked) = true ∧
    (1 : BitVec 4) = 0 + 1 ∧ (15 : BitVec 4) ≠ 0 ∧ (15 : BitVec 4) ≠ 0 + 1 ∧
    ((sent (tok0 2 0 0)).modCtx 0 fun x => { x with purgeWindow := true, cr := { x.cr with orphanEn := true } }).away 0 = false ∧
    ((base.cell 0).claim.isNone && decide ((base.cell 0).reserved.length < 16) && (base.cell 0).freeRun (packet none 8).lines == some 0) = true ∧
    (packet none 8).lines = 8 ∧ (packet (some 0) 1).left ≤ 1 ∧ (packet none 8).asid = 0 ∧ (packet none 8).cell = 0 ∧
    (base.modCell 0 fun c => { c with claim := some 0 }).cgenAt 0 0 = 0 ∧ base.canAccept (tok0 2 0 0) = true := by decide +kernel
/-- Tiles of 8 lines at lines 0 to 2,039, and one entry whose tile is among them. -/
def full (s : State) : State := s.modCell 0 fun c => { c with
  tiles := [{ line := 0, lines := 2048, data := [] }], claim := some 7, claimNeed := [8]
  entries := [{ entry0 2 0 with tok := { tok0 2 0 0 with isTile := true, payload := (hd .z32 8 16).word } }] }
def heldIn (s : State) (t : Token) (why : InputWhy) : State :=
  s.modCell 0 fun c => { c with input := [{ flight := lone t, why := why }] }
/-- A formed set whose tile is in block 3. -/
def away0 (s : State) : State := s.modCell 0 fun c => { c with sets := c.sets.map fun q =>
  { q with args := [{ entry0 0 0 with tok := { tok0 0 0 0 with isTile := true, payload := (hd .z32 8 16).word }, block := some 3 }] } }
theorem witness_SpillingAndReturning : (heldIn base (tok0 2 0 0) .lookup).spilledKey (tok0 2 0 0) = [] ∧
    frameCurrent (base.frameOf 0 0) 0 = true ∧ (base.frameOf 0 0).st = .live ∧ frameCurrent ((frame0 .free base).frameOf 0 0) 0 = false ∧
    (let s := base.modCtx 0 fun x => { x with ways := [stored0 2] }
     firstStored (s.spilledOn 0) = some (0, stored0 2) ∧ 4 * s.occupied 0 < 3 * capacity 0 ∧ ((s.freeWayAt 0 0).comeBack 0 [] (entry0 2 0)).isSome = true) ∧
    ((full base).cell 0).fits ((full base).cell 0).claimNeed = false ∧ base.xfers = [] ∧ ((full base).cell 0).nextTile.isSome = true ∧
    (((full base).modCell 0 fun c => { c with entries := [], sets := c.sets.map fun q => { q with args := q.args.map fun e =>
      { e with tok := { e.tok with isTile := true } } } }).cell 0).victims.length = 1 ∧
    ((away0 base).cell 0).spilledSet.isSome = true ∧ ((away0 base).cell 0).freeRun 8 = some 0 ∧ (base.cell 0).claim = none ∧
    (Handle.ofWord (hd .z32 8 16).word).any (fun h => h.lines == 8) = true := by decide +kernel

/-! ### Witnesses: the watchdog, traps, walks, sweeps -/

theorem witness_WatchdogExpires :
    ((base.modCtx 0 fun x => { x with par := { x.par with watchdog := 10000 }, wdog := 420030 }).ctx 0).any
      (fun x => decide (42 * x.par.watchdog + cycleUnits base.dev.therm ≤ x.wdog) && !x.wdogStage) = true ∧
    ((base.modCtx 0 fun x => { x with par := { x.par with watchdog := 10000 }, wdog := 420029 }).ctx 0).any
      (fun x => decide (42 * x.par.watchdog + cycleUnits base.dev.therm ≤ x.wdog)) = false := by decide +kernel
/-- A BREAK record of frame 0, without an index or with index i. -/
def rec0 (i : Option Nat) : TrapRec :=
  { trap := tBREAK, kind := 1, cell := 0, slot := 0, tag := 0, time := 0, word := 0, ops := [], args := [], outs0 := [], outs1 := [], op := none,
    frozen := none, index := i, st := .delivered, pending := true, esc := 0 }
def trapped (rs : List TrapRec) (hfree : Nat) (vec : List (Nat × BitVec 32)) : State :=
  base.modCtx 0 fun x => { x with traps := rs, pool := { x.pool with hfree := hfree }, par := { x.par with trapvec := vec } }
theorem witness_TrapsRecordedAndDelivered :
    ((trapped [rec0 none] 16 []).ctx 0).any (fun x => x.traps.find? (fun q => q.index == none) == some (rec0 none) &&
      firstFree (x.traps.filterMap TrapRec.index) 0 x.cr.trapn == some 0) = true ∧
    ((trapped [rec0 (some 15), rec0 none] 16 []).ctx 0).any (fun x => firstFree (x.traps.filterMap TrapRec.index) 0 16 == some 0) = true ∧
    ((trapped [rec0 (some 0)] 16 [(0x11, 0x80000001)]).ctx 0).any (fun x =>
      x.traps.find? (fun q => q.waiting && x.escCode q == 0) == some (rec0 (some 0)) && !x.cr.frozen && decide (0 < x.pool.hfree) &&
      (x.lowestFree 1 (x.pool.nframes - 1)).isSome && (x.vector 0x11).isSome) = true ∧
    ((trapped [rec0 (some 0)] 16 []).ctx 0).any (fun x => (x.traps.find? (fun q => q.waiting && x.escCode q != 0)).isSome) = true := by
  decide +kernel
/-- What RequestsDecided asks of the request of a firing and its held set. -/
abbrev ReqHyps (s : State) (k : ReqKind) (sent : Bool) (f : Firing) (w : OpFields) (t : Tag) : Prop :=
  s.reqs[0]? = some { kind := k, asid := f.asid, cell := f.cell, sid := f.sid, sent := sent } ∧
    ((s.cell f.cell).findSet f.sid).bind FSet.firing = some f ∧ (s.cell f.cell).mayCommit f.asid = true ∧ (s.ctx f.asid).isSome ∧
    outTag w f (s.env f) = .ok t
/-- The fields of a slot word. -/
def fieldsOf (x : BitVec 128) : OpFields := (((decodeSlot x).bind opcodeOf).map Prod.snd).getD (u .z64)
/-- PARK of the firing's own frame, LIVE with GEN 0, and of GEN 1. -/
def fP (v : Word64) : Firing := { fire [(.a, sc v)] with word := 0xB1040070_00000000_80000001_00000000#128 }
theorem witness_RequestsDecided_park : ReqHyps (asks (fP 0) .park false) .park false (fP 0) (u .z64) tag5 ∧ (fP 0).Scalars ∧
    ((fP 0).val .a).word.extractLsb' 20 44 = 0 ∧ ((asks (fP 0) .park false).ctx 0).any (fun x => decide (0 < x.pool.nframes) &&
      (x.frame 0).st == .live && (x.frame 0).gen == 0) = true ∧ (fP 0).isPoisoned .a = false ∧
    fits (asks (fP 0) .park false) (fP 0) [(fP 0).scalarOut tag5 0] = true ∧
    ReqHyps (asks (fP 0x1000) .park false) .park false (fP 0x1000) (u .z64) tag5 ∧ ((fP 0x1000).val .a).word.extractLsb' 12 4 = 1 ∧
    fits (asks (fP 0x1000) .park false) (fP 0x1000) [(fP 0x1000).scalarOut tag5 1] = true := by decide +kernel
/-- FLAGS of the frame and FLAGS.CLR of the home flags. -/
def fFl (x : BitVec 128) : Firing := { fire [(.a, sc 0)] with word := x }
theorem witness_RequestsDecided_flags :
    (let f := fFl 0xB6040070_00000000_80000001_00000000#128
     let s := asks f .flags false
     ReqHyps s .flags false f (fieldsOf f.word) tag5 ∧ decodeSlot f.word = some (.flags (fieldsOf f.word)) ∧ f.Scalars ∧
       (fieldsOf f.word).mod.getLsbD 0 = false ∧ fits s f [f.scalarOut tag5 0] = true) ∧
    (let f := fFl 0xB6140071_00000000_80000001_00000000#128
     let s := asks f .flags false
     ReqHyps s .flags false f (fieldsOf f.word) tag5 ∧ decodeSlot f.word = some (.flags (fieldsOf f.word)) ∧
       (fieldsOf f.word).mod.getLsbD 0 = true ∧ (fieldsOf f.word).var = 1 ∧ fits (s.clearHomeFlags 0) f [f.scalarOut tag5 0] = true) ∧
    (let f := fFl 0xB6040071_00000000_80000001_00000000#128
     decodeSlot f.word = some (.flags (fieldsOf f.word)) ∧ (fieldsOf f.word).mod.getLsbD 0 = true ∧ (fieldsOf f.word).var ≠ 1) := by
  decide +kernel
/-- RESUME.REDO of index 0, class BREAK, frame 0: with the record open, and with none. -/
def fRe : Firing := { fire [(.a, sc 0x110000)] with word := 0xB2040070_00000000_80000001_00000000#128 }
theorem witness_RequestsDecided_resume :
    (let s := (frame0 .parked (asks fRe .resume false)).modCtx 0 fun x => { x with traps := [rec0 (some 0)] }
     ReqHyps s .resume false fRe (fieldsOf fRe.word) tag5 ∧ decodeSlot fRe.word = some (.resume (fieldsOf fRe.word)) ∧
       (s.ctx 0).any (fun x => resumeCheck (fieldsOf fRe.word) x fRe (s.env fRe) == .ok tag5 && (s.resumeRec x fRe).isSome) = true ∧
       fits s fRe [fRe.scalarOut tag5 0] = true) ∧
    (let s := asks fRe .resume false
     ReqHyps s .resume false fRe (fieldsOf fRe.word) tag5 ∧
       (s.ctx 0).any (fun x => resumeCheck (fieldsOf fRe.word) x fRe (s.env fRe) == .ok tag5 && (s.resumeRec x fRe).isNone) = true ∧
       fits s fRe [fRe.scalarOut tag5 1] = true) ∧
    (rec0 none).op = none ∧ (rec0 none).kind ≠ 3 ∧ (rec0 none).trap.cls ≠ 0x17 := by decide +kernel
/-- WATCH and UNWATCH before their broadcast, while a cell has not applied it, and after. -/
theorem witness_RequestsDecided_watch :
    (∀ p ∈ [((ReqKind.watch, 0xB4080070_00000020_80000001_00000000#128) : ReqKind × BitVec 128),
        (.unwatch, 0xB5040070_00000000_80000001_00000000#128)],
      let f : Firing := { f2 0 9 with word := p.2 }
      ReqHyps (asks f p.1 false) p.1 false f (fieldsOf p.2) tag5 ∧ (decodeSlot p.2).isSome = true ∧
        ReqHyps (asks f p.1 true) p.1 true f (fieldsOf p.2) tag5 ∧ (asks f p.1 true).bcasts = [] ∧
        fits (asks f p.1 true) f [f.passed .a false tag5] = true) ∧
    (told (.watch 0 none)).bcasts.any (fun b => b.asid == 0 && match b.kind with | .watch j _ => j == 0 | _ => false) = true := by
  decide +kernel
/-- A walk for virtual address 0; a large node at 0xA00000 whose first leaf is readable. -/
def walk0 (claim : Option Nat) : Walk := { asid := 0, va := 0, die := 0, waiters := [(0, 0)], claim := claim }
theorem witness_WalksAndSweepsEnd : ({ base with walks := [walk0 none] } : State).walks[0]? = some (walk0 none) ∧
    (walk0 (some 0)).claim.isSome = true ∧ (match base.walkNow 0 0 with | .fault _ _ none none => true | _ => false) = true ∧
    (match ((base.writeMem 0x800000 (leBytes 8 0xA00200)).writeMem 0xA00000 (leBytes 8 0x200005)).walkNow 0 0 with
      | .install _ => true | _ => false) = true ∧
    (let s := (frame0 .ending base).modCtx 0 fun x => { x with sweeps := [{ frame := 0, gen := 0 }], running := some { cmd := cmd0, arg := 0 } }
     (s.ctx 0).any (fun x => x.sweeps.find? (fun v => v.frame == 0) == some { frame := 0, gen := 0 }) = true ∧ s.sweeping 0 0 0 = false ∧
       ({ s with bcasts := [{ asid := 0, kind := .sweep 0 0, left := [0] }] } : State).sweeping 0 0 0 = true) := by decide +kernel

/-! ### Witnesses: launch, drydown, sillage -/

/-- A launch queued; the frame table and spill area have room for the default parameters (R59). -/
def launching (s : State) : State :=
  s.modCtx 0 fun x => { x with launches := [{ cmd := cmd0, arg := 5 }], cr := { x.cr with frtmax := 256, spillmax := 64 } }
/-- Nothing of context 0 runs: frame 0 is FREE. -/
def idle : State := frame0 .free base
theorem witness_LaunchApplied :
    ((launching idle).ctx 0).any (fun x => x.launches.length == 1 && (x.frame 0).st == .free && !x.cr.frozen && x.dry == .none && x.planeOps.isEmpty) = true ∧
    ((launching base).ctx 0).any (fun x => (x.frame 0).st == .live) = true ∧
    (match (launching idle).readHeader 0 with | .bad _ => true | _ => false) = true ∧
    (match (imaged (launching idle)).readHeader 0 with
      | .ok s1 (_, h) => h.ok 256 && !h.ok 255 && h.unsigned && (s1.ctx 0).any (fun x => !x.resident h &&
          (match State.readSegs 0 h.segs s1 with
            | .ok s2 segs => (match s2.loadPlan x segs with
              | some p => (match State.checkData 0 p.work s2 with | .ok _ () => true | _ => false) && p.entry == [here] &&
                  (State.applySegs 0 x p.work (s2.beforeLoad 0 x h.segs)).1
              | none => false)
            | _ => false)) &&
          (match State.readSegs 0 (h.segs.filter fun e => e.typ == tENTRY) s1 with
            | .ok _ segs => entriesOf 0 segs == some [here]
            | _ => false)
      | _ => false) = true ∧ (look 0 (launching idle).vdevs).any (fun v => v.unsignedOk) = true := by decide +kernel
/-- The image resident: its stream is in the active plane, measured, and ENTRY names a port. -/
theorem witness_LaunchApplied_resident : (match (imaged (launching idle)).readHeader 0 with
      | .ok s1 (_, h) => (s1.ctx 0).any fun x =>
          let p := { x.par with nmeas := 2, unsigned := true, imageid := BitVec.ofNat 128 (leNat h.imageid) }
          { x with mask0 := 1, par := p }.resident h
      | _ => false) = true := by decide +kernel
def dryAt (d : DrySt) : State := idle.modCtx 0 fun x => { x with dry := d, dryReason := 2, dryCmds := [cmd0] }
def sliced (n : Nat) : State :=
  let s := idle.modCtx 0 fun x => { x with cr := { x.cr with sliceper := 100, sliceoff := 10 }, sliceNo := n }
  { s with dev := { s.dev with time := 42 * 110 } }
theorem witness_DrydownAndRestore :
    (110 - 10) / 100 ≠ (0 : Nat) ∧ (sliced 0).dev.time / 42 = 110 ∧ ((sliced 1).ctx 0).any (fun x => x.sliceNo == 1) = true ∧
    (((sliced 0).modCtx 0 fun x => { x with dry := .saved, dryReason := 1 }).ctx 0).any (fun x => (sliced 0).restorable x) = true ∧
    (∀ b ∈ (dryAt .stopping).bcasts, b.asid = 0 → b.kind ≠ .stop) ∧ (told .stop).bcasts.any (fun b => b.asid == 0 && b.kind == .stop) = true ∧
    ((dryAt .performing).ctx 0).any (fun x => (dryAt .performing).performed 0 x && x.dry == .performing) = true ∧
    ((dryAt .performing).ctx 0).any (fun x => !({ dryAt .performing with walks := [walk0 none] } : State).performed 0 x) = true ∧
    (∀ f ∈ ((dryAt .finishing).cell 0).sets, (dryAt .finishing).stillRuns f = false) ∧
    ((dryAt .markers).net.any (fun f => f.toks.any fun t => t.asid == 0) = false ∧ ((dryAt .markers).save 0).isSome = true) ∧
    (((dryAt .markers).modCtx 0 fun x => { x with cr := { x.cr with spill := 0 } }).save 0).isNone = true ∧
    ({ dryAt .saved with net := [lone { tok0 2 0 0 with remote := true }] } : State).net.length = 1 ∧
    (State.writeInbox (dryAt .saved) 0 (lone { tok0 2 0 0 with remote := true }) none { tok0 2 0 0 with remote := true }).isSome = true ∧
    ((dryAt .saved).ctx 0).any (fun x => (dryAt .saved).restorable x && x.dry == .saved && x.dryReason != 1) = true ∧
    (((dryAt .saved).modCtx 0 fun x => { x with cr := { x.cr with frozen := true } }).ctx 0).any (fun x => !(dryAt .saved).restorable x) = true := by
  decide +kernel
/-- The save made, and abandoned for want of blocks; a restore in its two steps; the inbox full. -/
theorem witness_DrydownAndRestore_saves :
    ((dryAt .saving).ctx 0).any (fun x => x.dry == .saving && !x.lost) = true ∧ ((dryAt .saving).save 0).any (fun s => (s.ctx 0).isSome) = true ∧
    (((dryAt .saving).modCtx 0 fun x => { x with cr := { x.cr with spill := 0 } }).save 0).isNone = true ∧
    ((dryAt .markers).ctx 0).any (fun x => x.dry == .markers && !x.lost && (dryAt .markers).performed 0 x) = true ∧
    (dryAt .markers).net = [] ∧ ((dryAt .markers).cell 0).input = [] ∧
    ((dryAt .restoring).ctx 0).any (fun x => (dryAt .restoring).restorable x && x.dry == .restoring) = true ∧
    ((dryAt .resuming).ctx 0).any (fun x => (dryAt .resuming).restorable x && x.dry == .resuming) = true ∧
    ((dryAt .none).ctx 0).any (fun x => x.dry == .none) = true ∧ (sent (tok0 2 0 0)).away 0 = false ∧
    (let s := { dryAt .saved with net := [lone (tok0 2 0 0)] }
     s.away 0 = true ∧ s.net[0]? = some (lone (tok0 2 0 0)) ∧
       (State.writeInbox { s with net := s.net.eraseIdx 0 } 0 (lone (tok0 2 0 0)) none (tok0 2 0 0)).isSome = true) ∧
    (let s := ({ dryAt .saved with net := [lone (tok0 2 0 0)] } : State).modCtx 0 fun x => { x with cr := { x.cr with spill := 0 } }
     s.away 0 = true ∧
       (State.writeInbox { s with net := s.net.eraseIdx 0 } 0 (lone (tok0 2 0 0)) none (tok0 2 0 0)).isNone = true) := by decide +kernel
/-- Boundaries: none yet, the first one of a context on its cells, one chosen for its restore, one whose turn it is not. -/
theorem witness_DrydownAndRestore_slices :
    ((sliced 2).ctx 0).any (fun x => x.sliceNo == 2) = true ∧
    ((sliced 1).ctx 0).any (fun x => decide (x.sliceNo < 2) && x.dry == .none && !x.lost) = true ∧
    (let s := (sliced 1).modCtx 0 fun x => { x with dry := .saved, dryReason := 1 }
     let s0 := s.modCtx 0 fun x => { x with sliceNo := 2 }
     (s.ctx 0).any (fun x => decide (x.sliceNo < 2) && x.dry == .saved && x.dryReason == 1 && s0.restorable x && s0.turn 0 x) = true) ∧
    (let s := (sliced 1).modCtx 0 fun x => { x with dry := .saved, dryReason := 2 }
     (s.ctx 0).any (fun x => decide (x.sliceNo < 2) && x.dry == .saved && x.dryReason != 1) = true) := by decide +kernel
def fr0 : FireRec :=
  { tag := 0, slot := 4, asid := 0, ctime := 9, lport := .a, remote := false, inj := false, pcell := 0, pslot := 3, ptime := 8 }
def walk1 (step : Nat) (fr : FireRec) : SillageWalk := { id := 1, step := step, depth := 2, cell := 0, fr := fr, ambig := false }
def walking (w : SillageWalk) (rs : List FireRec) : State :=
  (base.modCtx 0 fun x => { x with walks := [w] }).modCell 0 fun c => { c with records := rs }
/-- A record that matches the producer fields of fr0. -/
def prod0 : FireRec := { fr0 with slot := 3, ctime := 8 }
theorem witness_TraceTimeQueryAndSillage_walk : (walking (walk1 0 fr0) [prod0]).allWalks[0]? = some (0, 0, walk1 0 fr0) ∧ 0 + 1 < (walk1 0 fr0).depth ∧
    ¬ 1 + 1 < (walk1 1 fr0).depth ∧ ({ fr0 with inj := true } : FireRec).inj = true ∧ ({ fr0 with remote := true } : FireRec).inj = false ∧
    (((walking (walk1 0 fr0) [prod0]).cell 0).records.filter fun r => r.asid == 0 && r.slot == fr0.pslot && r.ctime == fr0.ptime) = [prod0] ∧
    (((walking (walk1 0 fr0) []).cell 0).records.filter fun r => r.asid == 0 && r.slot == fr0.pslot && r.ctime == fr0.ptime) = [] := by
  decide +kernel
/-- The walk's end by depth, at an injected token, at a remote one, at no record; and its next step, with one match and with two. -/
theorem witness_TraceTimeQueryAndSillage_walk_steps :
    (∀ p ∈ [(walk1 1 fr0, [prod0]), (walk1 0 { fr0 with inj := true }, [prod0]), (walk1 0 { fr0 with remote := true }, [prod0]),
        (walk1 0 fr0, []), (walk1 0 fr0, [prod0]), (walk1 0 fr0, [prod0, prod0])],
      (walking p.1 p.2).allWalks[0]? = some (0, 0, p.1)) ∧
    (walk1 1 fr0).step + 1 = (walk1 1 fr0).depth ∧ (walk1 0 fr0).step + 1 < (walk1 0 fr0).depth ∧ fr0.inj = false ∧ fr0.remote = false := by
  decide +kernel

/-! ### Witnesses: the host's side -/

/-- Rings of 16 slots of the physical function. -/
def win0 : Window := { Window.empty with sqbase := 0x1000, sqsize := 16, cqbase := 0x2000, cqsize := 16 }
def hosted (s : State) : State := { s with windows := [(0, win0)] }
theorem witness_RegisterWindows : base.pageLive .pf = true ∧ base.pageLive (.vdev 0) = true ∧ base.dev.boot = .ready ∧
    ((hosted base).window .pf).enable = false ∧ (hosted base).ringsOk .pf win0 = true ∧ base.ringsOk .pf Window.empty = false ∧
    win0.sqsize ≠ 0 ∧ win0.cqsize ≠ 0 ∧ base.dev.devnumFixed = false ∧ (8190#64).toNat % 8192 ≠ 8191 ∧ 4096 / 4096 = 1 + 0 ∧ 8192 / 4096 ≠ 1 + 0 ∧
    (base.window .pf).room 3 = false ∧ ({ win0 with started := true } : Window).room 3 = true := by decide +kernel
def pf0 : Cmd := { (default : Cmd) with fn := .pf, cdest := none }
theorem witness_VirtualDevicesAndGranules : base.dev.boot = .ready ∧ pf0.fn = .pf ∧ pf0.cdest = none ∧ (0x1001 : Nat) % 4096 ≠ 0 ∧
    ¬ 2 ^ 39 < 2 ^ 39 - 4096 + 4096 ∧
    (parseVdev 0 (base.readMem (8191 * 2 ^ 39 + 4096) 4096)).isNone = true ∧
    (parseVdev 0 ((base.writeMem (8191 * 2 ^ 39 + 4096) [3, 0, 0, 0, 1, 0, 1, 0, 1, 0]).readMem (8191 * 2 ^ 39 + 4096) 4096)).any
      (fun p => p.1 == 3) = true ∧ (look 3 base.vdevs).isNone = true ∧ (look 0 base.vdevs).any (fun d => !d.frozen && d.qgran == 384) = true ∧
    (∀ p ∈ base.granules, p.2.owner = 0 → p.2.scrubbing = false) ∧ 383 + 1 ≤ 384 ∧ (look 383 base.granules).isNone = true ∧
    (base.granules.filter fun p => p.2.owner == 0).length + 1 ≤ 384 := by decide +kernel
/-- A context record at 0x50000: areas of the record in the manual's order, one cell, all its slots. -/
def record0 : State := [(8, 8, 0x800000), (16, 8, 0x2000000), (24, 4, 16), (32, 8, 0x2000), (40, 2, 17), (48, 8, 0x3000), (56, 8, 64), (64, 8, 0x4000),
    (72, 4, 16), (80, 8, 0x8000), (88, 8, 0x8000), (96, 8, 0x10000), (104, 8, 0x2000), (112, 8, 0x20000), (120, 4, 16), (128, 8, 0x40000),
    (136, 8, 0x1000), (144, 8, 0x41000), (152, 8, 0x1000), (160, 8, 0x42000), (168, 8, 0x43000), (176, 8, 0x1000), (448, 2, 4), (704, 2, 0),
    (706, 2, 2048)].foldl (fun st p => st.writeMem (0x50000 + p.1) (leBytes p.2.1 p.2.2)) base
theorem witness_ContextsCreatedAndDestroyed : (look 0 record0.vdevs).any (fun d => !d.frozen && d.qctx == 1024) = true ∧ 0x50000 % 4096 = 0 ∧
    record0.owns 0 0x50000 4096 = true ∧
    ((look 0 record0.vdevs).any fun d => record0.checkRec (recOfBytes 0x50000 0 (record0.readMem 0x50000 4096)) d (record0.readMem 0x50000 4096) == .ok) = true ∧
    ((look 0 record0.vdevs).any fun d => base.checkRec (recOfBytes 0x50000 0 (base.readMem 0x50000 4096)) d (base.readMem 0x50000 4096) == .refuse 1) = true ∧
    firstFree (record0.ctxs.map Prod.fst) 0 1024 = some 1 ∧ (record0.ctx 1).isNone = true ∧
    (idle.ctx 0).any (fun x => x.cr.vdev == 0 && !x.lost && x.frames.all (fun p => p.2.st == .free) && x.launches.isEmpty) = true ∧
    idle.busyCtx 0 = false ∧ (base.ctx 0).any (fun x => x.frames.any fun p => p.2.st != .free) = true := by decide +kernel
/-- An inbound pairing with device 7; an entry whose STATE is 3. -/
def pair7 : List Byte := leBytes 4 0x80000001 ++ leBytes 2 7 ++ leBytes 2 3 ++ leBytes 4 9 ++ leBytes 4 2
theorem witness_ContextCommands : (base.ctx 0).any (fun x => x.cr.vdev == 0 && !x.lost && x.dry == .none && decide (x.pool.nframes = 17)) = true ∧
    ¬ (2 ^ 20 ≤ 16 ∨ 17 ≤ 16 % 4096) ∧ (2 ^ 20 ≤ 17 ∨ 17 ≤ 17 % 4096) ∧
    (base.ctx 0).any (fun x => (x.frame 0).st == .live && (x.frame 0).gen == BitVec.ofNat 4 (0 / 4096) && (x.frame 16).st == .free) = true ∧
    (base.ctx 0).any (fun x => x.cr.region == [0] && sillageOk x 0x0001000100000000 && !sillageOk x 0) = true ∧
    0x107FF < 2 ^ 17 ∧ 0x107FF % 2 ^ 16 < 2048 ∧ base.owns 0 0x60000 4096 = true ∧ pairOk pair7 = true ∧ pairOk (zeros 12 ++ [3, 0, 0, 0]) = false ∧
    (base.ctx 0).any (fun x => (resolveArg x 0x2000F).isSome && (resolveArg x 0x20010).isNone && resolveArg x 0x20000 == some (0, .skip, false, 0)) = true ∧
    ((frame0 .parked (trapped [rec0 (some 0)] 16 [])).ctx 0).any (fun x =>
      ((frame0 .parked (trapped [rec0 (some 0)] 16 [])).openRec 0 x 0).isSome) = true ∧
    base.walks = [] ∧ base.memops = [] ∧ base.ownerOf 0 = some 0 ∧ (7 : Nat) ≤ 8190 := by decide +kernel
def fabTok : FabToken := { (default : FabToken) with dev := 7, asid := 3, key := 9, target := 0, dest := 0x80000001 }
def fabReq (pa : Nat) : FabRequest := { (default : FabRequest) with dev := 7, id := 1, asid := 3, pa := pa, op := .load [(0, 8)] }
def paired : State := { base.writeMem (0x42000 + 16 * 255) pair7 with
  fabTokens := [fabTok], exported := [{ granule := 0, asid := 0, dev := 7, far := 3, r := true, w := false }] }
theorem witness_FabricArrivals : paired.dev.boot = .ready ∧ (look 23 paired.dev.seqs).getD 0 = 0 ∧ paired.inbound fabTok = some 255 ∧
    base.inbound fabTok = none ∧ (decodeDest fabTok.dest).join.isSome = true ∧ (paired.exportFor (fabReq 0x3FFFFFF8)).isSome = true ∧
    (paired.exportFor (fabReq 0x40000000)).isNone = true ∧ (paired.exportFor { fabReq 0 with op := .store [(0, [1])] }).isNone = true := by decide +kernel
def fwOk : Firmware := { edOk := true, mlOk := true, version := Config.fusedVersion, trained := true, image := [] }
theorem witness_DeviceEvents : ({ base with dev := { base.dev with boot := .off } } : State).dev.boot = .off ∧ fwOk.edOk = true ∧
    ({ base with dev := { base.dev with boot := .recovery 2 } } : State).dev.boot = .recovery 2 ∧ base.isLocal 0 = true ∧ populated 0 = true ∧
    base.memops = [] ∧ ¬ (1000000 : Int) < 1000000 ∧ 1 < (((withAcc fM).cell 0).acc 0).rows := by decide +kernel

/-! ### Witnesses: encoding, steps, memory, frames -/

theorem witness_EncodingsRoundTrip : Instr.wf (.lnext { u .z32 with ta := .next, tw := 1 }) = true ∧
    (encode (.lnext { u .z32 with ta := .next, tw := 1 })).isSome = true ∧ (opcodeOf (.lnext (u .z32))).isSome = true ∧
    decode 0x20060008_00000064_80430020_00000000#128 = .ok (.add { lb .s8 100 with mod := 8 }) ∧
    (decodeDest 0x80430020).isSome = true ∧ (decodeRecord 0x80000003_80000004_00000000_00000000#128).isSome = true := by decide +kernel
/-- Slot 0's PASS selected; a word that decodes to nothing; a break bit; THAW in the first slot of a ring. -/
def nopped : State := (hosted { base with schedule := [] }).writeMem (8191 * 2 ^ 39 + 0x1000) [3, 1]
theorem witness_StepRunsTheDecodedInstruction : base.due = [] ∧ base.schedule.length = 1 ∧ ({ base with due := [.fire 0 .scalar] } : State).due.length = 1 ∧
    State.reset.enabled = [] ∧ ({ base with schedule := [] } : State).enabled ≠ [] ∧ (base.candidates 0 .scalar).length = 1 ∧
    (base.candidates 0 .scalar).any (fun q => !base.breakDue 0 q && (base.firingOf 0 q).2.isSome) = true ∧
    ((base.modCell 0 fun c => { c with breaks := [0] }).candidates 0 .scalar).any (fun q =>
      (base.modCell 0 fun c => { c with breaks := [0] }).breakDue 0 q) = true ∧
    ((State.reset.placed 0).candidates 0 .scalar).any (fun q => ((State.reset.placed 0).firingOf 0 q).2.isNone) = true ∧
    base.candidates 0 .vector = [] ∧
    (let s : State := { nopped with windows := [(0, { win0 with enable := true, started := true, sqtail := 1 })] }
     s.canTake .pf = true ∧ (s.slotAt .pf).ok = true ∧ (commandOf (s.slotAt .pf).code (s.slotAt .pf).cmd).isSome = true) := by decide +kernel
theorem witness_MemoryReadsBack : Memory.wf [] = true ∧ Memory.wf (Memory.write [] 5 [1, 0, 2]) = true ∧
    Memory.get (Memory.write [] 5 [1, 0, 2]) 7 = 2 ∧ Memory.get (Memory.write [] 5 [1, 0, 2]) 8 = 0 := by decide +kernel
theorem witness_CommitFrame : ((base.cell 0).place [(f2 1 1).scalarOut tag5 2]).isSome = true ∧ (base.ctx 0).isSome = true ∧
    ((base.ctx 0).any fun x => frameCurrent (x.frame 0) tag5) = true ∧ ¬ inStore (0x2000 + 64) 32 0x2000 ∧ base.MemoryCanonical := by
  refine ⟨by decide +kernel, by decide +kernel, by decide +kernel, ?_, by decide +kernel⟩
  unfold inStore; decide +kernel
theorem witness_TrapParksItsFrame : ((base.ctx 0).any fun x => frameCurrent (x.frame 0) tag5 && (x.frame 0).st == .live && (x.frame 0).gen == tagGen tag5) = true ∧
    ((frame0 .ending base).ctx 0).any (fun x => !frameCurrent (x.frame 0) tag5) = true := by decide +kernel
theorem witness_StepKeepsMemoryCanonical : base.MemoryCanonical ∧ base.poison.Pairwise (· < ·) ∧
    (match step base with | .next _ => true | _ => false) = true := by decide +kernel

/-! ### Witnesses: further clauses -/

/-- LDT: the lines of the tile are kept, then the plan may issue; STT, GATH and SCAT through the same page. -/
theorem witness_TileTransfersIssue_load : ((mapped (on fL)).reserveRoom fL [1]).map (fun p => (p.1.cells, p.2)) =
      some (((mapped (on fL)).modCell 0 fun c => { c with tiles := c.tiles ++ [{ line := 0, lines := 1, data := [] }], claim := none }).cells,
        { fL with room := some 0 }) ∧
    (hd .z8 2 16).lines = 1 ∧ needLines fL [1] ≤ 2048 ∧
    storePoison [(0x100300, entry)] (fun _ => false) (cutAll (desc0.spans 3 0 0)) = .ok () ∧
    watchTest ((mapped (on fL)).watches fL 0 fun x => x == 0) (rectangle 3 0 1 16) = .ok () ∧
    (mapped (on fL)).rights ((mapped (on fL)).env fL) { readNeed with r := false, w := true } [(0x100300, entry)] = .ok () := by decide +kernel
/-- LENTER waits for a record: two sets held, the older first. -/
theorem witness_LoopEnterAndWaiters_held :
    (let s := heldBy base { lf 0 with tag := 0 } .lenter
     (s.cell 0).sets.any (fun q => q.hold == some .lenter && q.firing == some { lf 0 with tag := 0 } && (s.cell 0).lenterCan q &&
       (s.cell 0).mayCommit q.asid) = true ∧ ready2 s { lf 0 with tag := 0 } [{ lf 0 with tag := 0 }.passed .a false (loopTag 0)] = true) ∧
    ((withLoop (heldBy base (lf 1) .lnext) { loop0 with waiter := some (2, 0) }).cell 0).heldFiring 0 = some (lf 1) := by decide +kernel
/-- A frame wait and a gang wait that can be served; what is set aside counts. -/
theorem witness_GangAndFrameWaiters_grants :
    (let wt : FrameWait := { cell := 0, sid := 0, depth := 1, n := 3 }
     let s := (pooled (heldBy base (fS 0x1A) .frame) 1).modCtx 0 fun x => { x with gangWaits := [wt], aside := 2 }
     s.waitFiring 0 wt = some (fS 0x1A) ∧ (s.ctx 0).any (fun x => x.dry == .none && decide (3 ≤ x.aside + x.pool.gfree)) = true ∧
       s.badDests 0 (fS 0x1A).outs0 = false ∧ ready2 s (fS 0x1A) [] = true) ∧
    (let wt : FrameWait := { cell := 0, sid := 0, depth := 1, n := 1 }
     ((pooled (heldBy base (fS 0x16) .frame) 1).modCtx 0 fun x => { x with frameWaits := [wt] }).waitFiring 0 wt = some (fS 0x16)) := by
  decide +kernel
/-- Words that no entry is left for; a poisoned line; a request that a home refuses. -/
theorem witness_WriteOnceWords_full :
    (let s := (withOp (op3 .itake .accepting)).modCtx 0 fun x => { x with cr := { x.cr with arenasize := 0 } }
     s.AtHome 3 0 (op3 .itake .accepting) (acc1 8) .accepting ∧ (s.takeArena (op3 .itake .accepting) (acc1 8) 0x100000 0 1 0).isNone = true) ∧
    ((withOp (op3 (.iput 9) .accepting)).setPoison 0x200000).poisoned 0x200000 = true ∧
    (let o := { op3 (.iput 9) .accepting with refusal := some (0x14, 0), accs := [{ acc1 8 with done := true }] }
     (withOp o).op 3 = some o ∧ o.origin = none) := by decide +kernel
theorem witness_FenceWaits_released : ((heldBy base fF (.fence [3] [] 0)).cell 0).heldFiring 0 = some fF ∧
    ((heldBy base fF (.fence [3] [] 0)).cell 0).mayCommit 0 = true ∧ (op3 .store .issued).pending = true ∧
    ({ heldBy base fF (.fence [3] [] 0) with memops := [op3 .store .issued] } : State).op 3 = some (op3 .store .issued) ∧
    (base.op 3).isNone = true := by decide +kernel
/-- A flip that has not reached its last cell; the same when it has; a SPAWN whose graph is resident. -/
theorem witness_PlaneOperationsDone_flip :
    (let f : Firing := { f2 5 3 with word := 0xB9040070_00000000_80000001_00000000#128 }
     let s := asked f (.flipping 0 0)
     decodeSlot f.word = some (.swapg (fieldsOf f.word)) ∧ ((s.cell 0).findSet 0).bind FSet.firing = some f ∧ s.bcasts = [] ∧
       fits s f [f.passed .a false tag5] = true ∧
       ∃ b ∈ ({ s with bcasts := [{ asid := 0, kind := .flip false, left := [0] }] } : State).bcasts, b.asid = 0 ∧ b.left ≠ [] ∧ b.kind = .flip false) ∧
    (let s := (imaged (asked (op1 0x16) (.residency 0 0))).modCell 0 fun c =>
       { c with sets := c.sets.map fun q => { q with hold := some (.residency 1) } }
     ((s.cell 0).findSet 0).any (fun q => q.hold == some (.residency 1) && q.firing == some (op1 0x16)) = true ∧
       (s.cell 0).mayCommit 0 = true) := by decide +kernel
/-- A BREAK's broadcast that has still to reach the cell keeps a later frame break from it. -/
theorem witness_BroadcastsArrive_order :
    (let s := { told (.frameBreak 0 0) with bcasts := [{ asid := 0, kind := .park 0 0 true, left := [] }, { asid := 0, kind := .frameBreak 0 0, left := [0] }] }
     ∀ b ∈ s.bcasts.take 1, b.asid = 0 → b.kind = .park 0 0 true → 0 ∉ b.left) ∧
    (∀ b ∈ (told (.watch 0 none)).bcasts.take 0, 0 ∉ b.left) ∧ ((told (.park 0 0 true)).frameOf 0 0).gen = BitVec.ofNat 4 0 := by
  decide +kernel
/-- A failed bank; a routine past its area; one in a granule of nobody, with the set that waits for it and without. -/
theorem witness_AttarsRun_loads :
    ((banked (bound (on fX)) .failed).cell 0).bankOf 0 0 = some { asid := 0, xop := 0, words := [BitVec.ofNat 64 mend], pin := some 0, st := .failed } ∧
    (let s := (banked (bound base) .loading).modCtx 0 fun x => { x with cr := { x.cr with attarsize := 5120 } }
     ((s.ctx 0).any fun x => (s.binding 0 0).any fun e => decide (x.cr.attarsize < 5120 + e.off + 8 * e.len)) = true) ∧
    (let s : State := { banked (bound base) .loading with granules := [] }
     (s.binding 0 0).isSome = true ∧ s.owns 0 0x11400 8 = false ∧ ((s.cell 0).findSet 0).isSome = true ∧ ((s.cell 0).findSet 9).isNone = true) := by
  decide +kernel
/-- The youngest entry gives way to a token that completes a set; a token for a parked frame with room; a cell of no entries. -/
theorem witness_TokensAndPacketsArrive_full :
    youngest [entry0 2 0, { entry0 3 0 with arrive := 9 }] = some { entry0 3 0 with arrive := 9 } ∧
    (let s := frame0 .parked (sent (tok0 2 0 0))
     let s0 : State := { s with net := [] }
     let e : Entry := { tok := tok0 2 0 0, arrive := (s.cell 0).arrivals.toNat, parked := false, res := false, block := none }
     ((s0.modCell 0 fun k => { k with arrivals := k.arrivals + 1 }).parkEntry 0 0 [] e).isSome = true) ∧
    (sent (tok0 9 0 0)).freeGeneral 1 ≠ 0 ∧ (({ sent (tok0 2 0 0) with net := [packet none 8] } : State).net[0]?.bind Flight.tile).isSome = true ∧
    ((base.cell 0).part 1).isNone = true := by decide +kernel
/-- A store in flight holds a virtual device's end back; none does once it has left. -/
theorem witness_VirtualDevicesAndGranules_ends :
    ((withOp (op3 .store .issued)).memops.any fun o => o.phase == .issued && (withOp (op3 .store .issued)).vdevOf o.firing.asid == 0) = true ∧
    base.memops = [] ∧ (look 0 base.vdevs).isSome = true := by decide +kernel
/-- An area of the record lies in a granule of another virtual device. -/
theorem witness_ContextsCreatedAndDestroyed_outside :
    (let s : State := { record0 with granules := put 1 { owner := 5, scrubbing := false } record0.granules }
     let m := (s.writeMem (0x50000 + 16) (leBytes 8 0x40000000)).readMem 0x50000 4096
     (look 0 s.vdevs).any (fun d => match s.checkRec (recOfBytes 0x50000 0 m) d m with | .outside => true | _ => false) = true) := by
  decide +kernel
/-- A break bit of a slot and cell outside; an export to be made and one to be withdrawn; an operation an invalidation waits for. -/
theorem witness_ContextCommands_more : 7 ∉ (base.ctx 0).elim [] (fun x => x.cr.region) ∧ 2 ^ 17 ≤ 0x20000 ∧ 2048 ≤ 0x10800 % 2 ^ 16 ∧
    (let b := leBytes 32 0x0007_0007
     numAt b 0 2 ≤ 8190 ∧ numAt b 2 2 < 1024 ∧ numAt b 4 1 < 8 ∧ numAt b 5 27 = 0 ∧ numAt b 4 1 % 2 = 0) ∧
    numAt (leBytes 32 0x03_0007_0007) 4 1 % 2 = 1 ∧ base.ownerOf (0 * 2 ^ 30) = some 0 ∧
    (op3 .store .issued).pending = true ∧ (walk0 none).mayHit { cmd := cmd0, asid := 0, lo := 0, len := 65536, ops := [3] } = true := by
  decide +kernel
/-- An ARED of device 7 reserved; its commit and its release; a commit of nothing. -/
theorem witness_FabricArrivals_reserved :
    (let o := { op3 (.ared 0 .f32) .waiting with origin := some (7, 1) }
     (withOp o).reservedOp 7 1 = some o ∧ (withOp o).reservedOp 7 2 = none) ∧
    (∀ k, (fabReq 0).op ≠ .commit k ∧ (fabReq 0).op ≠ .release k) := by
  refine ⟨by decide +kernel, fun k => ⟨?_, ?_⟩⟩ <;> intro h <;> cases h
/-- Frame 0's sweep waits for frame 1's. -/
theorem witness_WalksAndSweepsEnd_order :
    (let s := (frame0 .ending base).modCtx 0 fun x => { x with sweeps := [{ frame := 0, gen := 0 }, { frame := 1, gen := 0 }] }
     (s.ctx 0).any (fun x => x.sweeps.any fun v => v.frame != 0) = true) := by decide +kernel
/-- A child that a held SPAWN has not yet made; no destination on another device. -/
theorem witness_TrapParksItsFrame_given :
    (∃ q ∈ ((heldBy base (f2 1 1) (.residency 3)).cell 0).sets, ((heldBy base (f2 1 1) (.residency 3)).cell 0).heldChild q.sid = some 3) ∧
    (∀ q ∈ (base.cell 0).sets, (base.cell 0).heldChild q.sid = none) ∧ (∀ d ∈ (f2 1 1).outs0 ++ (f2 1 1).outs1, d.mode ≠ .remote) ∧
    base.runsIn (f2 1 1) = true := by decide +kernel
/-- A set not started; a thing passed over beyond the device's patience, and nothing beyond it. -/
theorem witness_StepRunsTheDecodedInstruction_fair : (base.candidates 0 .scalar).all (fun q => q.snap == none && q.firing == none) = true ∧
    ((heldBy base (f2 1 1) .request).cell 0).sets.any (fun q => q.firing == some (f2 1 1)) = true ∧
    base.ageOf (.fire 0 .scalar) = 0 ∧ (unitOf 0 (isCompute 0)).isSome = true := by decide +kernel

/-! ### Witnesses: clauses on waiting, order and other devices -/

/-- 1/3 lies between two f32 magnitudes; 2^127 is held; 2^128 is above the largest finite one. -/
theorem witness_RoundingPicksTheNeighbour :
    (match decodeF .f32 0x3EAAAAAA, decodeF .f32 0x3EAAAAAB with
      | .fin _ p q, .fin _ r t => decide (3 * p < q) && decide (t < 3 * r) | _, _ => false) = true ∧
    0x3EAAAAAA < maxFinite .f32 false ∧
    (match decodeF .f32 0x7F000000 with | .fin _ p q => decide (p = 2 ^ 127 * q) | _ => false) = true ∧
    (match decodeF .f32 (maxFinite .f32 false) with | .fin _ p q => decide (p < 2 ^ 128 * q) | _ => false) = true := by decide +kernel
/-- ABS of -1.0; FFMA of 1, 1 and 1; DIV by a poisoned divisor and a poisoned infinity. -/
theorem witness_FloatSelectCompareConvert_signs : (fire [(.a, sc 0xBF800000)]).Scalars ∧ (fire [(.a, sc 0xBF800000)]).Clean ∧
    Leaves (u .f32) (fire [(.a, sc 0xBF800000)]) [(fire [(.a, sc 0xBF800000)]).scalarOut tag5 0x3F800000] ∧
    (let f := fire [(.a, sc 0x3F800000), (.b, sc 0x3F800000), (.c, sc 0x3F800000)]
     f.Scalars ∧ f.Clean ∧ (exactFloat f (.ffma (t .f32))).isSome = true ∧ Leaves (t .f32) f [f.scalarOut tag5 0x40000000]) := by decide +kernel
theorem witness_PoisonIsCarried_divisor :
    (let f := fire [(.a, sc 7), (.b, bad 2)]
     f.Scalars ∧ f.poisoned = true ∧ Leaves (b .s32) f [outD0 tag5 (bad 0) none]) ∧
    (let f := fire [(.a, bad 0), (.b, sc 0x7F800000)]
     f.Scalars ∧ f.poisoned = true ∧ Leaves (b .f32) f [outD0 tag5 (bad 0) none]) := by decide +kernel
/-- Graph 0, which is resident, has written slot 1, which D0 names: the target of a GANG. -/
def grown (s : State) : State := s.modCtx 0 fun x => { x with wrote := [(x.active, 0, [(0, 1)])] }
/-- A GANG that commits, that waits for frames, for its graph, and one deeper than DMAX. -/
theorem witness_GangAndFrameWaiters_waits :
    (let s := grown (pooled (on (fS 0x1A)) 8)
     s.gangResident (fS 0x1A) = true ∧ (s.runsIn (fS 0x1A) && s.badDests 0 (fS 0x1A).outs0) = false ∧
       ready (State.allocGang (fS 0x1A) 3 3 s []).1 (fS 0x1A) [] = true ∧ (s.ctx 0).any (fun x =>
         decide (3 ≤ x.pool.nframes - 17 - x.pool.resv * x.pool.dmax) && decide ((s.env (fS 0x1A)).frame.depth + 1 ≤ x.pool.dmax)) = true) ∧
    ((pooled (on (fS 0x1A)) 2).ctx 0).any (fun x => decide (x.pool.gfree < 3)) = true ∧ (pooled (on (fS 0x1A)) 8).gangResident (fS 0x1A) = false ∧
    (((pooled (on (fS 0x1A)) 8).modPool 0 fun p => { p with dmax := 0 }).ctx 0).any (fun x =>
      decide (x.pool.dmax < ((on (fS 0x1A)).env (fS 0x1A)).frame.depth + 1)) = true ∧ (fS 0x1A).isPoisoned .b = false ∧
    (let wt : FrameWait := { cell := 0, sid := 0, depth := 1, n := 3 }
     (grown ((pooled (heldBy base (fS 0x1A) .frame) 1).modCtx 0 fun x => { x with gangWaits := [wt], aside := 2 })).gangResident (fS 0x1A) = true) := by
  decide +kernel
/-- A page of host memory; one that a walk answered with a freeze; an atomic across the end of its word. -/
theorem witness_AccessChecksInOrder_atomics :
    (wordAccess fE (.atom (b .z32))).any (fun q => q.ea == 0x10FFFC && q.len == 4 && decide (q.ea % q.len = 0)) = true ∧
    (wordAccess fE (.iput (b .z64))).any (fun q => q.need.device && decide (q.ea % q.len ≠ 0)) = true ∧ fE.room = none ∧
    0x10FFFC / 65536 = (0x10FFFC + 4 - 1) / 65536 ∧ isHost ({ entry with pa := 8191 * 2 ^ 39 }.addr 0x10FFFC) = true ∧
    ((mapped (on fE)).env fE).caps.getLsbD 3 = true ∧
    (let s := (mapped (on fE)).modCell 0 fun c =>
       { c with tlb := [{ entry with pa := 8191 * 2 ^ 39, attr := 0x2F }], sets := c.sets.map fun q => { q with faults := [{ va := 16, cls := 11, code := 3, freeze := some 5 }] } }
     s.faultOn fE 0x10FFFC = some { va := 16, cls := 11, code := 3, freeze := some 5 }) := by decide +kernel
/-- A LAUNCH that is about to be applied; a BRKSET that has not reached its cell. -/
theorem witness_ContextCommands_waits :
    ((launching idle).ctx 0).any (fun x => (launching idle).earlierCmd 0x16 0 x && !(launching idle).earlierCmd 0x12 0 x && x.cr.vdev == 0 &&
      !x.lost && x.dry == .none) = true ∧
    ((told (.breakBit 0 3 true cmd0)).ctx 0).any (fun x => (told (.breakBit 0 3 true cmd0)).earlierCmd 0x12 0 x) = true ∧
    (base.ctx 0).any (fun x => !base.earlierCmd 0x13 0 x && !base.earlierCmd 0x12 0 x) = true := by decide +kernel
/-- Two tokens of one link; two requests for one line; an ARED of device 7 whose key is held, being applied, and none. -/
theorem witness_FabricArrivals_order :
    (let s : State := { paired with fabTokens := [fabTok, fabTok], fabReqs := [fabReq 0, fabReq 8] }
     (∃ v ∈ s.fabTokens.take 1, v.port = fabTok.port) ∧ (∃ q ∈ s.fabReqs.take 1, q.port = (fabReq 8).port ∧ q.pa / 256 = (fabReq 8).pa / 256)) ∧
    (let r : FabRequest := { fabReq 0x200000 with op := .commit 1, va := 0x100000, slot := fE.slot, tag := fE.tag }
     let o := { op3 (.ared 0 .f32) .waiting with origin := some (7, 1) }
     (withOp o).keyedOps r = [o] ∧ o.fresh = true ∧ ((withOp o).memops.map MemOp.id).Nodup ∧ base.keyedOps r = [] ∧
       (∃ p ∈ (withOp { o with phase := .issued }).keyedOps r, p.phase = .issued) ∧ base.reservedOp 7 1 = none) := by decide +kernel
/-- A tile of a formed set at the line hit, one in a ring slot, a cell of the context, and the steps at which a boot fails. -/
theorem witness_DeviceEvents_errors :
    (let s := base.modCell 0 fun c => { c with sets := c.sets.map fun q =>
       { q with args := [{ entry0 0 0 with tok := { tok0 0 0 0 with isTile := true, payload := (hd .z32 8 16).word } }] } }
     (s.cell 0).sets.any (fun q => q.args.any fun o => o.block.isNone && o.tok.isTile &&
       (Handle.ofWord o.tok.payload).any fun e => decide (e.line ≤ 7 ∧ 7 < e.line + e.lines)) = true) ∧
    (((ringed base 1).cell 0).rings.map fun p => p.2.tiles.length) = [1] ∧
    (base.ctx 0).any (fun x => x.cr.region.contains 0 && !x.lost && x.dryCmds.isEmpty) = true ∧ ((base.cell 0).part 0).isSome = true ∧
    (dryAt .saved).ctx 0 ≠ none ∧ ({ fwOk with mlOk := false } : Firmware).mlOk = false ∧ ({ fwOk with trained := false } : Firmware).trained = false := by
  decide +kernel
/-- A freeze record to be told, with room for its three entries; virtual device 31 owns page 32. -/
theorem witness_RegisterWindows_frozen :
    (({ hosted base with freezes := [{ cause := 1, vdev := 0, asid := none, cell := 0, slot := 0, tag := 0, addr := 0 }] } : State).freezes[0]?).isSome = true ∧
    (∀ d, Fn.vdev 31 = .vdev d → d < 32) := by
  refine ⟨by decide +kernel, fun d h => ?_⟩
  cases h; decide
/-- Indices that the tables of R159 do not list, and a scope that they do not. -/
theorem witness_TraceTimeQueryAndSillage_unlisted :
    (∀ i ∈ [2, 0x14, 0x21], 1 < i ∧ i ≠ 0x20 ∧ (i < 0x10 ∨ 0x13 < i)) ∧ ({ u .z64 with imm := 0x3000 } : OpFields).imm.toNat / 4096 % 16 = 3 ∧
    ({ u .z64 with imm := 0x2006 } : OpFields).imm.toNat % 4096 = 6 := by decide +kernel
/-- A ring of another context; a tile of 8 lines for slots of 4. -/
theorem witness_RingsFillAndDrain_refused : ({ ring0 1 with asid := 5 } : Ring).asid ≠ (fR (sc 0)).asid ∧
    (fR (tl .z32 8 16)).Kinds true false false ∧ (ring0 1).slotl < ((fR (tl .z32 8 16)).handle .a).lines := by decide +kernel
/-- A firing that started before the FENCE and still waits for its walk; one of another frame does not count. -/
theorem witness_FenceWaits_started :
    (let s := base.modCell 0 fun c => { c with sets := c.sets ++ c.sets.map fun q => { q with sid := 7, tag := fF.tag, hold := some .walk, snap := some fE } }
     s.unissued fF = [7] ∧ s.unissued { fF with tag := mkTag 0 1 0 0 0 } = [] ∧ s.stillIssuing 0 [7] = [7] ∧ base.stillIssuing 0 [7] = []) := by
  decide +kernel
/-- A page of device 5 whose 256 lines are asked for; all answered; one refused. -/
theorem witness_ZeroFillOfAPage_far :
    (let p : FarPage := { id := 9, asid := 0, left := [3], refused := false, leaf := some 0x900000 }
     let s : State := { claims [0x81, 1] [{ fill0 true with frame := 5 * 2 ^ 39 }] with farPages := [p] }
     (∃ q ∈ s.farPages.filter fun p => p.leaf == some 0x900000, q.left ≠ []) ∧ (s.op 9).isNone = true ∧ s.isRemote (5 * 2 ^ 39) = true ∧
       (∃ q ∈ ({ s with farPages := [{ p with left := [], refused := true }] } : State).farPages, q.refused = true)) ∧
    base.checkTarget (base.vdevOf 0) 0x300000 65536 = .ok () ∧
    (match base.checkTarget (base.vdevOf 0) (383 * 2 ^ 30) 65536 with | .error (.fault ..) => true | _ => false) = true := by decide +kernel
/-- A load whose lines on other devices are still to be performed, all performed, and one refused. -/
theorem witness_LaunchApplied_far :
    (let p : FarPage := { id := 9, asid := 0, left := [0], refused := false, leaf := none }
     let s := (launching idle).modCtx 0 fun x => { x with launches := [{ cmd := cmd0, arg := 5, ports := some (7, [here]) }] }
     (s.ctx 0).any (fun x => x.launchReady && x.launches.any fun l => l.ports == some (7, [here])) = true ∧
       (∃ q ∈ ({ s with farPages := [p] } : State).farPages, q.asid = 0 ∧ q.leaf = none ∧ q.left ≠ []) ∧
       (∃ q ∈ ({ s with farPages := [{ p with left := [], refused := true }] } : State).farPages, q.left = [] ∧ q.refused = true)) := by decide +kernel
/-- The value of an ITAKE listed on device 5 comes before its firing has committed; a line answered too late. -/
theorem witness_OperationsFinish_early :
    (let o : MemOp := { farOp .itake .accepting with accs := [{ acc1 8 with pa := 5 * 2 ^ 39, done := true }], listed := true }
     (withOp o).op 3 = some o ∧ o.accs[(reply0 none).acc]? = some { acc1 8 with pa := 5 * 2 ^ 39, done := true } ∧ (reply0 none).listed = false) ∧
    ({ farOp .store .abandoned with late := [0] } : MemOp).late.contains (reply0 none).acc = true := by decide +kernel
/-- The zeros of a fill from another device, at the home of their line. -/
theorem witness_HomesApplyAccesses_zero : (withOp (op3 .zeroLine .issued)).AtHome 3 0 (op3 .zeroLine .issued) (acc1 8) .issued := by decide +kernel
/-- A set whose routine no bank holds is the first that waits for one. -/
theorem witness_AttarsRun_first : (let s := bound (State.reset.placed fX.word)
    s.cells.any fun p => (s.firstLoad p.1).any fun y => y.2 == 0 && y.1.slot == 0 && (s.cell p.1).banks.isEmpty) = true := by decide +kernel
/-- A set that has formed keeps its cell from flipping; a stop waits for the flip sent before it. -/
theorem witness_BroadcastsArrive_waits :
    (∃ q ∈ ((told (.flip false)).cell 0).sets, q.asid = 0 ∧ q.hold = none ∧ q.snap = none) ∧ ((told (.flip false)).cell 0).stops.contains 0 = false ∧
    (({ told .stop with bcasts := [{ asid := 0, kind := .flip false, left := [0] }, { asid := 0, kind := .stop, left := [0] }] } : State).flipBefore
      1 0 0) = true := by decide +kernel
/-- A firing of the cell that runs keeps its space claim from spilling. -/
theorem witness_SpillingAndReturning_runs : (∀ q ∈ ((full base).cell 0).sets, q.begun = false) ∧
    (∃ q ∈ ((full (heldBy base fE .walk)).cell 0).sets, q.begun = true) := by decide +kernel
/-- A watchdog expired; one that expires in 5 cycles; a token that stays on its cell. -/
theorem witness_StepRunsTheDecodedInstruction_forced :
    (let s (w : Nat) : State := { base.modCtx 0 fun x => { x with par := { x.par with watchdog := 10000 }, wdog := w } with schedule := [] }
     ((s 420030).ctxs.find? fun p => (s 420030).expired p.2).isSome = true ∧ (s 419880).forced = none ∧ (s 419880).due = [] ∧
       (s 419880).untilExpiry 100 = some 5 ∧ (s 419880).untilExpiry 4 = none) ∧
    (let s : State := { base with net := [lone (tok0 2 0 0)] }
     s.localArrival = some (.event (.tokenArrival 0)) ∧ s.away 0 = false ∧ ∀ p ∈ s.ctxs, s.expired p.2 = false) ∧
    base.forced = none := by decide +kernel

/-! ### Witnesses: values of selections, tiles and micro-operations; the later clauses -/

/-- A signalling NaN beside 1.0, two NaNs, the two zeros, a subnormal flushed; the largest fields of a classified value. -/
theorem witness_FloatSelectCompareConvert_values :
    (∀ x ∈ [0x7F800001, 0x7FC00000, 0, 0x80000000, 0x80000001, 0x3F800000, 2 ^ 32 - 1], x < 2 ^ width .f32) ∧ Enc.Fmt.isF .f32 = true ∧
    (readF .f32 false 0x7F800001).isSig = true ∧ (readF .f32 false 0x7FC00000).isSig = false ∧ (readF .f32 false 0x3F800000).isNan = false ∧
    (readF .f32 false 0x80000000).under (readF .f32 false 0) = true ∧ (readF .f32 false 0x80000000).less (readF .f32 false 0) = false ∧
    isSubnormal .f32 0x80000001 = true ∧ (readF .f32 false 0).under (readF .f32 false 0) = false ∧
    (255 < 2 ^ 8 ∧ 2 ^ 23 - 1 < 2 ^ 23 ∧ 254 + 1 ≠ 2 ^ 8 ∧ 2 ^ 22 ≤ 2 ^ 23 - 1 ∧ (15 < 2 ^ 4 ∧ 7 < 2 ^ 3) ∧ 3 < 2 ^ 2) := by decide +kernel
/-- Rows of one, two and three elements: the tree, the greatest and the least; a sum that RSUM widens; NORMK of an infinity and of -0. -/
theorem witness_TileElementValues_rows : Enc.Fmt.isF .f16 = true ∧ Enc.Fmt.isInt .s8 = true ∧ treeWidth 1 0 = 1 ∧ treeWidth 2 1 = 1 ∧ treeWidth 3 2 = 1 ∧
    ({ u .s8 with mod := 8 } : OpFields).mod.getLsbD 3 = true ∧
    (let v := [0x7C01, 0x8000, 0, 0x0000, 0x7E00]
     (∀ x ∈ v, x < 2 ^ width .f16) ∧ (decodeF .f16 0x7C01).isSig = true ∧
       (∀ k < v.length, (decodeF .f16 (v.getD 2 0)).under (decodeF .f16 (v.getD k 0)) = false) ∧
       (∀ k < 2, (decodeF .f16 (v.getD k 0)).isNan = true ∨ (decodeF .f16 (v.getD k 0)).under (decodeF .f16 (v.getD 2 0)) = true)) ∧
    (∀ k < 2, (decodeF .f32 ([0x7FC00000, 0x7FC00000].getD k 0)).isNan = true) ∧
    (let v := [0x80, 0x7F, 0x7F, 5]
     (∀ k < v.length, readInt .s8 (v.getD k 0) ≤ readInt .s8 (v.getD 1 0)) ∧ (∀ k < 1, readInt .s8 (v.getD k 0) < readInt .s8 (v.getD 1 0)) ∧
       (∀ k < v.length, readInt .s8 (v.getD 0 0) ≤ readInt .s8 (v.getD k 0))) ∧
    (readF .f32 false (treeSum .f32 .rne false (fun _ _ => 0) [0x7F800000, 0]).1).isInf = true ∧
    (2 : Nat) * 1 ≠ 0 ∧ 128 * 1 ≤ 128 ∧ 256 * 1 < 257 ∧ 16 * 3 ≤ 48 := by decide +kernel

def mw (mop : Mop) (dst sa sb sc : Reg) (mf rnd imm : Nat) : MicroWord :=
  { mop := mop, dst := dst, sa := sa, sb := sb, sc := sc, mf := BitVec.ofNat 4 mf, rnd := BitVec.ofNat 3 rnd, imm := BitVec.ofNat 31 imm }
/-- Every micro-operation, in each of its destinations and formats that MicroOperations tells apart. -/
theorem witness_MicroOperations_words : (∀ p ∈ [
    mw .mnop .z .z .z .z 0 0 0, mw .mimm (.m 15) .z .z .z 0 0 (2 ^ 31 - 1), mw .mimm (.q 7) .z .z .z 1 0 (2 ^ 31 - 1), mw .mimm (.ac 3) .z .z .z 2 0 9,
    mw .mimm (.lc 1) .z .z .z 2 0 9, mw .mimm .mk .z .z .z 2 0 64, mw .mmov (.m 0) (.m 1) .z .z 0 0 0, mw .mmov (.m 0) .mk .z .z 0 0 0,
    mw .mmov .mk (.m 1) .z .z 0 0 0, mw .mmov (.q 0) (.ac 1) .z .z 0 0 0, mw .mmov (.ac 0) (.lc 1) .z .z 0 0 0, mw .mmov (.lc 0) (.q 1) .z .z 0 0 0,
    mw .mbcst (.m 0) (.m 1) .z .z 0 0 63, mw .mbcst (.m 0) (.q 1) .z .z 0 0 0, mw .mldr (.m 0) (.ac 3) .z .z 15 0 0, mw .mstr (.ac 3) (.m 0) .z .z 15 7 0,
    mw .mstep (.ac 0) .z .z .z 0 0 (2 ^ 31 - 1), mw .madd (.m 0) .z (.q 1) .z 0 5 0, mw .madd (.m 0) (.m 1) (.m 2) .z 1 0 0,
    mw .msub (.m 0) (.m 1) (.m 2) .z 2 0 0, mw .mmul (.m 0) (.m 1) (.m 2) .z 0 7 0, mw .mfma (.m 0) (.m 1) (.m 2) (.m 3) 0 0 0,
    mw .mmin (.m 0) (.m 1) (.m 2) .z 0 0 0, mw .mmax (.m 0) (.m 1) (.m 2) .z 2 0 0, mw .mabs (.m 0) (.m 1) .z .z 0 0 0, mw .mneg (.m 0) (.m 1) .z .z 1 0 0,
    mw .mrcp (.m 0) (.m 1) .z .z 0 0 0, mw .mrsq (.m 0) (.m 1) .z .z 0 0 0, mw .mexp2 (.m 0) (.m 1) .z .z 0 0 0, mw .mlog2 (.m 0) (.m 1) .z .z 0 0 0,
    mw .mcvt (.m 0) (.m 1) .z .z 0 7 10, mw .mcvt (.m 0) (.m 1) .z .z 10 0 0, mw .mcmp .mk (.m 1) (.m 2) .z 0 0 7, mw .mcmp .mk (.m 1) (.m 2) .z 1 0 6,
    mw .msel (.m 0) (.m 1) (.m 2) .z 0 0 0, mw .mand (.m 0) (.m 1) (.m 2) .z 0 0 0, mw .mor (.m 0) (.m 1) (.m 2) .z 0 0 0,
    mw .mxor (.m 0) (.m 1) (.m 2) .z 0 0 0, mw .mshl (.m 0) (.m 1) .z .z 1 0 31, mw .mshr (.m 0) (.m 1) (.m 2) .z 2 0 0,
    mw .mlut (.m 0) (.m 1) .z .z 0 0 (9 + 256 * 6), mw .mred (.q 0) (.m 1) .z .z 0 7 0, mw .mred (.q 0) (.m 1) .z .z 1 0 1,
    mw .mred (.q 0) (.m 1) .z .z 2 0 2, mw .mqop (.q 7) (.q 0) .z .z 1 0 (9 + 16 * (2 ^ 27 - 1)), mw .mqop (.ac 0) (.q 0) (.lc 1) .z 2 0 8,
    mw .mqop (.lc 0) (.ac 0) (.ac 1) .z 2 0 0, mw .mloop (.lc 1) .z .z .z 0 0 9, mw .mbrnz .z .mk .z .z 0 0 0, mw .mtrap .z .z .z .z 0 0 255,
    mw .mend .z .z .z .z 0 0 0, mw .macc (.m 0) (.q 1) .z .z 0 7 0, mw .macc (.m 0) (.q 1) .z .z 1 0 0, mw .maccw .z (.m 0) (.q 1) .z 0 0 0,
    mw .maccw .z (.m 0) (.q 1) .z 1 0 0], microOk 10 16 p = true) ∧ 10 ≤ 256 := by decide +kernel
/-- A firing with port a bound to a tile of 2 by 4, a result of its shape and an accumulator of 2 by 2, and its registers. -/
def view0 : View := { fmt := .f16, cols := 4, valid := 2, grid := [[0, 1, 2, 3], [4, 5, 6, 7]] }
def menv : RunEnv :=
  { raw := List.replicate 18 0, code := 10, ports := [some view0, none, none], result := some view0, acc := some acc0, mod := 8,
    rand := fun _ => 0, fpen := 0, poisoned := true }
def mrun (k : BitVec 64) : Run :=
  { m := List.replicate 16 (List.replicate 64 1), q := [0, 1, 2, 3, 4, 5, 6, 7], ac := [0x00010003, 0x10000000, 0x20000000, 0x30010002],
    lc := [1, 2], mask := k, mpc := 0, used := 0, n := 0, flags := 0, grid := view0.grid, shadow := List.replicate 4 0, groups := 0 }
/-- Tiles there and not there, the result, rows of the accumulator in and out of it, no lane, one and three on, counters at 0, 1 and 2. -/
theorem witness_MicroOperations_state : attarFmt view0.fmt = true ∧ (menv.ports[0]?).join.isSome = true ∧ (menv.ports[1]?).join.isNone = true ∧
    ([Reg.ac 0, .ac 1, .ac 3].map fun x => (mrun 0).scal x / 2 ^ 28 % 4) = [0, 1, 3] ∧ menv.result.isSome = true ∧
    ({ menv with acc := none } : RunEnv).acc.isNone = true ∧ (mrun 0).scal (.q 1) < acc0.rows ∧ acc0.rows ≤ (mrun 0).scal (.q 2) ∧
    acc0.rows * acc0.cols ≤ (mrun 0).shadow.length ∧ ((List.range 64).filter (mrun 0).mask.getLsbD) = [] ∧
    ((List.range 64).filter (mrun 0x20).mask.getLsbD) = [5] ∧ ((List.range 64).filter (mrun 0x8000000000000003).mask.getLsbD) = [0, 1, 63] ∧
    ([Reg.lc 0, .lc 1, .q 0].map (mrun 0).scal) = [1, 2, 0] ∧ (mrun 0).m.length = 16 ∧
    (3 / 2 ^ 16 % 64 < view0.valid ∧ (mrun 0).scal (.ac 0) % 512 + 1 ≤ view0.cols) := by decide +kernel
/-- Lines of another device asked for until time 42. -/
def farPage (left : List Nat) (leaf : Option Nat) : FarPage := { id := 9, asid := 0, left := left, refused := false, leaf := leaf, deadline := 42 }
def at42 (s : State) : State := { s with dev := { s.dev with time := 42 } }
/-- A load behind a DRAIN; at the head of the queue; behind nothing. Lines still open, and then too late. -/
theorem witness_LaunchApplied_queue :
    (let s (l : List PlaneOp) := (imaged (launching idle)).modCtx 0 fun x => { x with planeOps := l }
     ((s [.drain 0 0]).ctx 0).any (fun x => !x.planeOps.contains .launch && !x.planeOps.isEmpty) = true ∧
       ((s [.launch, .drain 0 0]).ctx 0).any (fun x => x.planeOps.head? == some .launch && x.launches.length == 1) = true ∧
       ((s [.drain 0 0, .launch]).ctx 0).any (fun x => x.planeOps.contains .launch && x.planeOps.head? != some .launch) = true ∧
       (match (s [.drain 0 0]).readHeader 0 with
        | .ok s1 (_, h) => h.ok 256 && (s1.ctx 0).any fun x => !x.resident h
        | _ => false) = true) ∧
    (let s := (launching idle).modCtx 0 fun x => { x with planeOps := [.launch], launches := [{ cmd := cmd0, arg := 5, ports := some (7, [here]) }] }
     let t : State := { s with farPages := [farPage [0] none] }
     (s.ctx 0).any (fun x => x.launchReady) = true ∧ (∃ q ∈ t.farPages, q.late = false ∧ q.left ≠ [] ∧ t.dev.time < q.deadline) ∧
       (∀ q ∈ (at42 t).farPages, ¬ (at42 t).dev.time < q.deadline) ∧
       (∀ q ∈ ({ t with farPages := [farPage [] none] } : State).farPages, q.refused = false ∧ q.late = false ∧ q.left = [])) := by decide +kernel
/-- A page of device 5: its lines open, its time over, a line come too late; one that answers a line, and one of a fill given up. -/
theorem witness_ZeroFillOfAPage_late :
    (let s (p : FarPage) : State := { claims [0x81, 1] [{ fill0 true with frame := 5 * 2 ^ 39 }] with farPages := [p] }
     let p := farPage [3] (some 0x900000)
     (∃ q ∈ (s p).farPages.filter fun p => p.leaf == some 0x900000 && !p.gone, q.late = false ∧ q.left ≠ [] ∧ (s p).dev.time < q.deadline) ∧
       (∃ q ∈ (at42 (s p)).farPages, q.refused = false ∧ q.left ≠ [] ∧ ¬ (at42 (s p)).dev.time < q.deadline) ∧
       (∃ q ∈ (s { p with left := [], late := true }).farPages, q.refused = false ∧ q.late = true) ∧
       (s p).op 9 = none ∧ (s p).farPages.find? (fun q => q.id == 9 && q.left.contains 3) = some p ∧
       (s { p with gone := true }).farPages.find? (fun q => q.id == 9 && q.left.contains 3) = some { p with gone := true } ∧
       (s p).farPages.find? (fun q => q.id == 9 && q.left.contains 4) = none) := by decide +kernel
/-- An answer at time 42 to an operation that had until then: it runs out first, and stays for its record. -/
theorem witness_OperationsFinish_overdue :
    (∀ o ∈ [farOp .store .issued, { farOp .itake .accepting with listed := true }],
      (at42 (withOp o)).op 3 = some o ∧ o.deadline ≤ (at42 (withOp o)).dev.time ∧
        (match exec (.remoteTimeout 3) (at42 (withOp o)) with | .next t => (t.op 3).isSome | _ => false) = true) ∧
    (∀ o ∈ [farOp .itake .waiting, farOp .store .abandoned], (at42 (withOp o)).op 3 = some o ∧ (o.phase = .waiting ∨ o.phase = .abandoned)) := by
  decide +kernel
/-- The last word of the page misses its size by two bytes and runs into the next page, which is mapped, is not, and lies above 2^54. -/
def fX2 (a : Word64) : Firing := f2 a 7
theorem witness_AccessChecksInOrder_crossing :
    (let s := (mapped (on (fX2 0x10FFFE))).modCell 0 fun c => { c with tlb := [entry, { entry with page := 17, pa := 0x210000 }] }
     (wordAccess (fX2 0x10FFFE) (.atom (b .z32))).any (fun q => q.ea == 0x10FFFE && q.len == 4 && decide (q.ea % q.len ≠ 0) &&
       decide (q.ea / 65536 ≠ (q.ea + q.len - 1) / 65536) && decide ((q.ea / 65536 + 1) * 65536 < 2 ^ 54)) = true ∧
       s.faultOn (fX2 0x10FFFE) 0x10FFFE = none ∧ s.faultOn (fX2 0x10FFFE) 0x110000 = none ∧ s.tlbLookup 0 0 0x10FFFE = some entry ∧
       (s.tlbLookup 0 0 0x110000).isSome = true ∧ s.sel = some (fX2 0x10FFFE)) ∧
    (2 ^ 54 - 2 < 2 ^ 54 ∧ 2 ^ 54 ≤ ((2 ^ 54 - 2) / 65536 + 1) * 65536) ∧ (2 ^ 54 - 2) / 65536 ≠ (2 ^ 54 - 2 + 4 - 1) / 65536 ∧
    (wordAccess (fX2 0x3FFFFFFFFFFFFE) (.atom (b .z32))).any (fun q => q.ea == 2 ^ 54 - 2 && q.len == 4) = true := by decide +kernel
/-- RESOLVE.REDO with operands, .SKIP, .SUBST with a scalar for D0 and with a tile, a gang of class 0x17 left out; a record that no longer stands. -/
def rec1 : TrapRec := { rec0 (some 0) with word := 0x01040040_00000000_80000001_00000000#128, args := [entry0 0 0] }
theorem witness_ContextCommands_resolve :
    (let s := frame0 .parked (trapped [rec1] 16 [])
     (s.ctx 0).any (fun x => s.openRec 0 x 0 == some rec1 && resolveArg x 0 == some (0, .redo, false, 0) && resolveArg x 0x40000 == some (0, .redo, true, 0) &&
         resolveArg x 0x3F010000 == some (0, .subst, false, 0x3F) && resolveArg x 0x20000 == some (0, .skip, false, 0) &&
         (s.openRec 0 x 1).isNone && (resolveArg x 1).isSome) = true ∧
       rec1.kind ≠ 3 ∧ rec1.op = none ∧ rec1.trap.cls ≠ 0x17 ∧ rec1.args ≠ [] ∧ (recWord rec1).isSome = true ∧ s.wordSide 0 rec1 = none ∧
       (s.outKinds 0 rec1)[0]? = some false ∧ (s.outKinds 0 rec1)[1]? ≠ some false ∧ s.owns 0 0x60000 64 = true ∧ s.poisoned 0x60000 = false ∧
       s.owns 0 (2 ^ 39) 64 = false ∧
       (let t := (s.writeMem 0x60000 (leBytes 8 9 ++ zeros 8 ++ [13])).writeMem 0x60020 (leBytes 8 9 ++ zeros 8 ++ [1])
        t.readMem 0x60000 32 = leBytes 8 9 ++ zeros 8 ++ leBytes 1 (1 + 4 + 8) ++ zeros 15 ∧ s.readMem 0x60020 32 = zeros 32 ∧
          t.readMem 0x60020 32 = leBytes 8 9 ++ zeros 8 ++ leBytes 1 1 ++ zeros 15)) ∧
    ({ rec1 with kind := 3 } : TrapRec).kind = 3 := by decide +kernel
/-- A completion token for context 0; for one that is not; for a port c; for a context of virtual device 5; and the entry that it follows. -/
def tokCmd (a : BitVec 10) (e : Dest) : Cmd := { cmd0 with cdest := some e, casid := a }
theorem witness_ContextCommands_token :
    (let c := tokCmd 0 here
     c.cdest = some here ∧ here.mode = .fixed ∧ here.port = .to .a ∧ (base.ctx 0).any (fun y => y.cr.vdev == 0) = true ∧
       (base.ctx 9).isNone = true ∧ ({ here with port := .to .c } : Dest).port ≠ .to .b) ∧
    (let s := base.modCtx 0 fun x => { x with cr := { x.cr with vdev := 5 } }
     (s.ctx 0).any (fun y => y.cr.vdev != 0) = true) ∧
    (let p : Post := { fn := .vdev 0, id := 7, status := 0, cmd := 0x16, values := [1], token := some (0, here, 0), asid := some 0, done := true, waits := [] }
     let s : State := { base with posts := [p], windows := [(1, { win0 with started := true })] }
     s.posts = [p] ∧ p.done = true ∧ p.waits = [] ∧ s.pageLive p.fn = true ∧ (s.window p.fn).room p.values.length = true ∧ (s.ctx 0).isSome) := by
  decide +kernel
/-- The four throttle steps. -/
theorem witness_DeviceEvents_thermal : ∀ k ∈ [0, 1, 2, 3],
    ({ base with dev := { base.dev with therm := k } } : State).dev.therm ≤ 3 := by decide +kernel
/-- A WATCH with the capability and without it. -/
theorem witness_RequestsReachTheDispatcher_watch : (on (f2 0 9)).ctx 0 ≠ none ∧ (f2 0 9).Scalars ∧ (f2 0 9).isPoisoned .b = false ∧
    ((on (f2 0 9)).env (f2 0 9)).caps.getLsbD 0 = true ∧ ((weak (on (f2 0 9))).env (f2 0 9)).caps.getLsbD 0 = false ∧
    ((weak (on (f2 0 9))).ctx 0).any (fun x => !(weak (on (f2 0 9))).watchBad x 0 (watchOf { b .z64 with imm := 0x20 } (f2 0 9))) = true := by
  decide +kernel
/-- A flip waits for an operation that has been issued and for a firing that walks; while its context dries down a listed one does not hold it. -/
theorem witness_BroadcastsArrive_flips :
    (let o := op3 .store .issued
     let s : State := { told (.flip false) with memops := [o] }
     s.memops = [o] ∧ o.firing.asid = 0 ∧ o.firing.cell = 0 ∧ o.origin = none ∧ o.phase ≠ .abandoned ∧ o.listed = false) ∧
    (let o := { op3 .itake .waiting with listed := true }
     let s := (told (.flip false)).modCtx 0 fun x => { x with dry := .stopping }
     (o.listed = true ∧ o.phase ≠ .accepting ∧ (s.ctx 0).any (fun x => x.dry != .none) = true)) ∧
    (∃ q ∈ ((heldBy (told (.flip false)) fE .walk).cell 0).sets, q.asid = 0 ∧ q.walking = true) := by decide +kernel
/-- Frame 0 ends while the handler in frame 1 still acts, and while no handler does. -/
theorem witness_WalksAndSweepsEnd_handler :
    (let s := (base.modCtx 0 fun x => { x with frames := [(0, { Frame.blank with st := .ending, src := .root }), (1, { Frame.blank with st := .live, src := .handler })],
                                               sweeps := [{ frame := 0, gen := 0 }] })
     let t := s.modCell 0 fun c => { c with sets := c.sets.map fun q => { q with tag := frameTag 0 1 } }
     t.frameActs 0 1 0 (fun _ _ => true) = true ∧ ({ s with cells := [] } : State).frameActs 0 1 0 (fun _ _ => true) = false) := by decide +kernel

/-! ### One step from reset with a word placed; its operands are zero -/

/-- The payloads sent, and class and code of the traps raised. -/
def stepped (w : Nat) : List Word64 × List (Nat × Nat) :=
  match step (State.reset.withFetchWord 128 w) with
  | .next s => ((s.net.flatMap Flight.toks).map Token.payload, ((s.ctx 0).map fun x => x.traps.map fun r => (r.trap.cls, r.trap.code)).getD [])
  | _ => ([], [])
/-- 0 + 100. -/
theorem test_step_add : stepped 0x20060000_00000064_80000001_00000000 = ([100], []) := by decide +kernel
/-- 0 - 1 in z8 is 255 (R178). -/
theorem test_step_sub_wraps : stepped 0x21060010_00000001_80000001_00000000 = ([0xFF], []) := by decide +kernel
/-- 0 / 0 is -1; DIV.trapv raises INT_EXCEPT code 2 (R181, R185). -/
theorem test_step_div_zero : stepped 0x24060040_00000000_80000001_00000000 = ([0xFFFFFFFFFFFFFFFF], []) := by decide +kernel
theorem test_step_div_trapv : stepped 0x24160040_00000000_80000001_00000000 = ([], [(0x0E, 2)]) := by decide +kernel
/-- An XOP that nothing binds is ILLEGAL_OP (R252). -/
theorem test_step_xop_unbound : stepped 0xC0040070_00000000_80000001_00000000 = ([], [(1, 0)]) := by decide +kernel
/-- A load through an empty page table waits for its walk: nothing is sent and nothing is raised. -/
theorem test_step_load_walks : stepped 0x92040070_00000000_80000001_00000000 = ([], []) := by decide +kernel
/-- FDIV.f32 of 0 by 0 is the canonical NaN, and raises nothing while FPEN is 0 (R163, R173). -/
theorem test_step_fdiv_zero : stepped 0x44060080_00000000_80000001_00000000 = ([0x7FC00000], []) := by decide +kernel
/-- A pool of 17 frames has none to give: SPAWN waits (R100, R108). -/
theorem test_step_spawn_waits : stepped 0x16040070_00000000_80000001_00000000 = ([], []) := by decide +kernel
/-- CMP.eq of zeros gives 1. -/
theorem test_step_cmp : stepped 0x30060040_00000000_80000001_00000000 = ([1], []) := by decide +kernel
end Sys2Proof.Tests
end

section
namespace Sys2Proof.Machine

/-! ## What memory reads back (R8, R21, R281) -/

namespace Memory

theorem wf_cons {a : Nat} {v : Byte} {t : List Host.Cell} :
    wf ((a, v) :: t) = true ↔ (∀ p ∈ t, a < p.1) ∧ v ≠ 0 ∧ wf t = true := by
  simp only [wf_iff, List.pairwise_cons, List.forall_mem_cons]
  tauto

@[simp] theorem get_nil (b : Nat) : get [] b = 0 := rfl

@[simp] theorem get_cons_self (a : Nat) (v : Byte) (t : List Host.Cell) : get ((a, v) :: t) a = v := by
  simp [get, look]

/-- Two memories that agree, and whose rests lie above one first address, have rests that agree. -/
theorem get_tail_eq {a : Nat} {v u : Byte} {t r : List Host.Cell} (ht : ∀ p ∈ t, a < p.1) (hr : ∀ p ∈ r, a < p.1)
    (h : ∀ b, get ((a, v) :: t) b = get ((a, u) :: r) b) (b : Nat) : get t b = get r b := by
  by_cases hb : a = b
  · subst hb
    rw [get_below ht, get_below hr]
  · rw [← get_cons_ne hb, h b, get_cons_ne hb]

/-- A memory whose first byte is not zero does not read as one that lies wholly above that byte. -/
theorem not_above_of_get_eq {a : Nat} {v : Byte} {t r : List Host.Cell} (hv : v ≠ 0)
    (h : ∀ b, get ((a, v) :: t) b = get r b) : ¬ ∀ p ∈ r, a < p.1 := fun hr =>
  hv (by rw [← get_cons_self a v t, h a, get_below hr])

/-- The first address of a memory is at least that of a canonical memory which reads the same. -/
theorem first_le_of_get_eq {a b : Nat} {v u : Byte} {t r : List Host.Cell} (hv : v ≠ 0) (hr : ∀ p ∈ r, b < p.1)
    (h : ∀ c, get ((a, v) :: t) c = get ((b, u) :: r) c) : b ≤ a := by
  by_contra hlt
  refine not_above_of_get_eq hv h fun p hp => ?_
  rcases List.mem_cons.mp hp with rfl | hp
  · exact Nat.lt_of_not_le hlt
  · exact (Nat.lt_of_not_le hlt).trans (hr p hp)

/-- Canonical memories that read the same everywhere are the same list: their first entries agree, and so do the rests. -/
theorem eq_of_get_eq {m r : List Host.Cell} (hm : wf m = true) (hr : wf r = true) (h : ∀ b, get m b = get r b) : m = r := by
  induction m generalizing r with
  | nil =>
    cases r with
    | nil => rfl
    | cons q r =>
      obtain ⟨-, hu, -⟩ := wf_cons.mp hr
      exact absurd (by simp) (not_above_of_get_eq hu fun b => (h b).symm)
  | cons p t ih =>
    obtain ⟨a, v⟩ := p
    obtain ⟨hat, hv, ht⟩ := wf_cons.mp hm
    cases r with
    | nil => exact absurd (by simp) (not_above_of_get_eq hv h)
    | cons q r =>
      obtain ⟨b, u⟩ := q
      obtain ⟨hbr, hu, hwr⟩ := wf_cons.mp hr
      obtain rfl : a = b :=
        Nat.le_antisymm (first_le_of_get_eq hu hat fun c => (h c).symm) (first_le_of_get_eq hv hbr h)
      have hvu : v = u := by simpa using h a
      rw [hvu, ih ht hwr (get_tail_eq hat hbr h)]

/-- What was written is read back. -/
theorem read_write_same {m : List Host.Cell} (h : wf m = true) (a : Nat) (vs : List Byte) :
    read (write m a vs) a vs.length = vs := by
  rw [read_eq_get (wf_write h a vs)]
  refine List.ext_getElem (by simp) fun k hk hv => ?_
  simp [get_write, hv]

end Memory

@[simp] theorem length_leBytes (n x : Nat) : (leBytes n x).length = n := by
  induction n generalizing x with
  | zero => rfl
  | succ n ih => simp [leBytes, ih]

/-- The n bytes of a number, least significant first, stand for the number modulo 2 ^ (8 * n) (R8). -/
theorem leNat_leBytes (n x : Nat) : leNat (leBytes n x) = x % 256 ^ n := by
  induction n generalizing x with
  | zero => simp [leBytes, leNat, Nat.mod_one]
  | succ n ih =>
    calc leNat (leBytes (n + 1) x) = x % 256 + 256 * (x / 256 % 256 ^ n) := by simp [leBytes, leNat, ih]
      _ = x % 256 ^ (n + 1) := by rw [pow_succ', Nat.mod_mul]

/-- Settles O57: a write and a clear byte by byte, wide reads made of byte reads, and two canonical memories compared entry by entry. -/
theorem memoryReadsBack : Obligations.MemoryReadsBack := by
  unfold Obligations.MemoryReadsBack
  intro m hm
  refine ⟨fun a vs => ⟨Memory.wf_write hm a vs, fun b => Memory.get_write m a b vs⟩,
    fun a n => ⟨Memory.wf_clear hm a n, fun b => Memory.get_clear m a n b⟩, Memory.read_eq_get hm, fun a n x => ?_,
    fun m2 hm2 h => Memory.eq_of_get_eq hm2 hm h⟩
  have hread := Memory.read_write_same hm a (leBytes n x)
  rw [length_leBytes] at hread
  rw [hread, leNat_leBytes]

end Sys2Proof.Machine
end

section
namespace Sys2Proof.Machine

/-! ## What comes next (R3, R95) -/

theorem step_of_act {s s1 : State} {a : Act} (h : s.nextAct = (some a, s1)) : step s = finishOutcome (s1.act exec a) := by
  rw [step, h]

theorem step_of_wait {s s1 : State} (h : s.nextAct = (none, s1)) : step s = .next s1.finish := by
  rw [step, h]

theorem State.nextAct_due {s : State} {a : Act} {t : List Act} (h : s.due = a :: t) :
    s.nextAct = (some a, { s with due := t }) := by
  simp only [State.nextAct, h]

theorem State.nextAct_forced {s : State} {a : Act} (hd : s.due = []) (hf : s.forced = some a) : s.nextAct = (some a, s) := by
  simp only [State.nextAct, hd, hf]

theorem State.nextAct_scheduled {s : State} {c : Cue} {t : List Cue} (hd : s.due = []) (hf : s.forced = none)
    (hs : s.schedule = c :: t) : s.nextAct = s.afterTime c.dt (some c.what) { s with schedule := t }
      fun n => { s with schedule := { c with dt := n } :: t } := by
  simp only [State.nextAct, hd, hf, hs]

theorem State.nextAct_free {s : State} (hd : s.due = []) (hf : s.forced = none) (hs : s.schedule = []) :
    s.nextAct = s.afterTime s.freeCycles (s.choose s.enabled) (s.passOver s.enabled (s.choose s.enabled)) fun _ => s := by
  simp only [State.nextAct, hd, hf, hs]

theorem State.afterTime_acts {s : State} {dt : Nat} (h : s.untilExpiry dt = none) (a : Option Act) (rest : State)
    (later : Nat → State) : s.afterTime dt a rest later = (a, rest.advance dt) := by
  simp only [State.afterTime, h]

theorem State.afterTime_stops {s : State} {dt k : Nat} (h : s.untilExpiry dt = some k) (a : Option Act) (rest : State)
    (later : Nat → State) : s.afterTime dt a rest later = (none, (later (dt - k)).advance k) := by
  simp only [State.afterTime, h]

theorem State.untilExpiry_le {s : State} {dt k : Nat} (h : s.untilExpiry dt = some k) : k ≤ dt := by
  simpa using (Option.filter_eq_some_iff.mp h).2

theorem State.forced_of_expired {s : State} {p : Nat × Ctx} (h : (s.ctxs.find? fun p => s.expired p.2) = some p) :
    s.forced = some (.event (if p.2.wdogStage then .watchdogSecondExpiry p.1 else .watchdogFirstExpiry p.1)) := by
  simp only [State.forced, State.expiry, h, Option.map_some, Option.orElse_some]

theorem State.expiry_eq_none {s : State} (h : ∀ p ∈ s.ctxs, s.expired p.2 = false) : s.expiry = none := by
  simpa [State.expiry] using h

/-- A lone scalar token to its own cell, of a context that is not away, stays there (R17). -/
theorem Flight.staysOn_of_own {s : State} {f : Flight} {k : Token} (ht : f.toks = [k]) (htile : f.tile = none)
    (hfar : f.far = none) (hcell : k.pcell = k.cell) (hrem : k.remote = false) (hinj : k.inj = false)
    (haway : s.away k.asid = false) : f.staysOn s = true := by
  simp [Flight.staysOn, ht, htile, hfar, hcell, hrem, hinj, haway]

/-- The first token that stays on its cell is the one that arrives. -/
theorem State.localArrival_first {s : State} {n : Nat} {f : Flight} (hn : s.net[n]? = some f) (hf : f.staysOn s = true)
    (hbefore : ∀ g ∈ s.net.take n, g.staysOn s = false) : s.localArrival = some (.event (.tokenArrival n)) := by
  have hfirst : (s.net.findIdx? fun f => f.staysOn s) = some n := by
    obtain ⟨hlt, hget⟩ := List.getElem?_eq_some_iff.mp hn
    refine List.findIdx?_eq_some_iff_getElem.mpr ⟨hlt, by rw [hget]; exact hf, fun j hj => ?_⟩
    rw [hbefore _ (List.mem_take_iff_getElem.mpr ⟨j, by omega, rfl⟩)]
    exact Bool.false_ne_true
  simp only [State.localArrival, hfirst, Option.map_some]

/-! ### Fairness (R3) -/

/-- The thing passed over more often, of the one found so far and the next. -/
def State.older (s : State) (b : Option Act) (a : Act) : Option Act :=
  match b with
  | some c => if s.ageOf c < s.ageOf a then some a else some c
  | none => some a

theorem State.overdue_eq (s : State) (l : List Act) :
    s.overdue l = (l.foldl s.older none).filter fun a => decide (Config.patience < s.ageOf a) := rfl

/-- The fold of overdue ends with one of the things, and none has been passed over more often. -/
theorem State.foldl_older (s : State) (l : List Act) (c : Act) :
    ∃ a ∈ c :: l, l.foldl s.older (some c) = some a ∧ ∀ b ∈ c :: l, s.ageOf b ≤ s.ageOf a := by
  induction l generalizing c with
  | nil => exact ⟨c, by simp, rfl, by simp⟩
  | cons d l ih =>
    rw [List.foldl_cons, State.older]
    split
    case isTrue hlt =>
      obtain ⟨a, ha, hfold, hmax⟩ := ih d
      refine ⟨a, List.mem_cons_of_mem _ ha, hfold, List.forall_mem_cons.mpr ⟨?_, hmax⟩⟩
      exact hlt.le.trans (hmax d List.mem_cons_self)
    case isFalse hge =>
      obtain ⟨a, ha, hfold, hmax⟩ := ih c
      obtain ⟨hc, hl⟩ := List.forall_mem_cons.mp hmax
      refine ⟨a, ?_, hfold, List.forall_mem_cons.mpr ⟨hc, List.forall_mem_cons.mpr ⟨?_, hl⟩⟩⟩
      · exact (List.mem_cons.mp ha).elim (fun h => h ▸ List.mem_cons_self)
          fun h => List.mem_cons_of_mem _ (List.mem_cons_of_mem _ h)
      · exact (Nat.le_of_not_lt hge).trans hc

/-- Of things that may happen one has been passed over most often; it is overdue when that exceeds the patience. -/
theorem State.overdue_cases (s : State) {l : List Act} (hl : l ≠ []) :
    ∃ a ∈ l, (∀ b ∈ l, s.ageOf b ≤ s.ageOf a) ∧ s.overdue l = if Config.patience < s.ageOf a then some a else none := by
  cases l with
  | nil => exact absurd rfl hl
  | cons c l =>
    obtain ⟨a, ha, hfold, hmax⟩ := s.foldl_older l c
    refine ⟨a, ha, hmax, ?_⟩
    rw [State.overdue_eq, List.foldl_cons, show s.older none c = some c from rfl, hfold]
    simp [Option.filter_some]

theorem State.overdue_isSome {s : State} {l : List Act} {b : Act} (hb : b ∈ l) (hp : Config.patience < s.ageOf b) :
    (s.overdue l).isSome = true := by
  obtain ⟨a, -, hmax, hod⟩ := s.overdue_cases (List.ne_nil_of_mem hb)
  rw [hod, if_pos (hp.trans_le (hmax b hb))]
  rfl

theorem State.choose_nil (s : State) : s.choose [] = none := rfl

/-- The choice falls on one of the things that may happen, and on one passed over most often once any is overdue. -/
theorem State.choose_fair (s : State) {l : List Act} (hl : l ≠ []) :
    ∃ a ∈ l, s.choose l = some a ∧ ∀ b ∈ l, Config.patience < s.ageOf b → s.ageOf b ≤ s.ageOf a := by
  obtain ⟨a, ha, hmax, hod⟩ := s.overdue_cases hl
  by_cases hp : Config.patience < s.ageOf a
  · exact ⟨a, ha, by rw [State.choose, hod, if_pos hp, Option.orElse_some], fun b hb _ => hmax b hb⟩
  · have hlt : Config.pick s.tick % l.length < l.length := Nat.mod_lt _ (List.length_pos_iff.mpr hl)
    refine ⟨_, List.getElem_mem hlt, ?_, fun b hb hpb => absurd (hpb.trans_le (hmax b hb)) hp⟩
    rw [State.choose, hod, if_neg hp, Option.orElse_none, List.getElem?_eq_getElem hlt]

/-- A cycle passes before what is overdue, and when the steps have outrun the cycles. -/
theorem State.one_le_freeCycles {s : State}
    (h : (s.overdue s.enabled).isSome = true ∨ (Config.patience + 1) * (s.dev.cycles + 1) ≤ s.tick) : 1 ≤ s.freeCycles := by
  rw [State.freeCycles, if_pos (by simpa using h)]
  exact Nat.le_max_left _ _

theorem State.passOver_nil (s : State) : s.passOver [] none = { s with passed := [] } := rfl

/-! ### The steps -/

theorem step_due {s : State} {a : Act} {t : List Act} (h : s.due = a :: t) :
    step s = finishOutcome (State.act exec { s with due := t } a) := step_of_act (State.nextAct_due h)

theorem step_expiry {s : State} {p : Nat × Ctx} (hd : s.due = []) (h : (s.ctxs.find? fun p => s.expired p.2) = some p) :
    step s = finishOutcome (State.act exec s
      (.event (if p.2.wdogStage then .watchdogSecondExpiry p.1 else .watchdogFirstExpiry p.1))) :=
  step_of_act (State.nextAct_forced hd (State.forced_of_expired h))

theorem step_localArrival {s : State} {n : Nat} {f : Flight} (hd : s.due = []) (hx : ∀ p ∈ s.ctxs, s.expired p.2 = false)
    (hn : s.net[n]? = some f) (hbefore : ∀ g ∈ s.net.take n, g.staysOn s = false) (hf : f.staysOn s = true) :
    step s = finishOutcome (State.act exec s (.event (.tokenArrival n))) := by
  refine step_of_act (State.nextAct_forced hd ?_)
  rw [State.forced, State.expiry_eq_none hx, Option.orElse_none, State.localArrival_first hn hf hbefore]

section
variable {s : State} (hd : s.due = []) (hf : s.forced = none)
include hd hf

theorem step_scheduled {c : Cue} {t : List Cue} (hs : s.schedule = c :: t) (hu : s.untilExpiry c.dt = none) :
    step s = finishOutcome (State.act exec (State.advance { s with schedule := t } c.dt) c.what) :=
  step_of_act ((State.nextAct_scheduled hd hf hs).trans (State.afterTime_acts hu _ _ _))

theorem step_scheduled_stops {c : Cue} {t : List Cue} {k : Nat} (hs : s.schedule = c :: t)
    (hu : s.untilExpiry c.dt = some k) :
    step s = .next (State.advance { s with schedule := { c with dt := c.dt - k } :: t } k).finish :=
  step_of_wait ((State.nextAct_scheduled hd hf hs).trans (State.afterTime_stops hu _ _ _))

theorem step_free_stops {k : Nat} (hs : s.schedule = []) (hu : s.untilExpiry s.freeCycles = some k) :
    step s = .next (s.advance k).finish :=
  step_of_wait ((State.nextAct_free hd hf hs).trans (State.afterTime_stops hu _ _ _))

theorem step_idle (hs : s.schedule = []) (hu : s.untilExpiry s.freeCycles = none) (he : s.enabled = []) :
    step s = .next (State.advance { s with passed := [] } s.freeCycles).finish := by
  refine step_of_wait ((State.nextAct_free hd hf hs).trans ?_)
  rw [State.afterTime_acts hu, he, State.choose_nil, State.passOver_nil]

/-- A free step does a thing that may happen: one passed over most often, and not before a cycle has passed, once any is overdue. -/
theorem step_free (hs : s.schedule = []) (hu : s.untilExpiry s.freeCycles = none) (he : s.enabled ≠ []) :
    ∃ a ∈ s.enabled, step s = finishOutcome (State.act exec ((s.passOver s.enabled (some a)).advance s.freeCycles) a) ∧
      ∀ b ∈ s.enabled, Config.patience < s.ageOf b → s.ageOf b ≤ s.ageOf a ∧ 1 ≤ s.freeCycles := by
  obtain ⟨a, ha, hchoose, hfair⟩ := s.choose_fair he
  refine ⟨a, ha, step_of_act ?_, fun b hb hp =>
    ⟨hfair b hb hp, State.one_le_freeCycles (.inl (State.overdue_isSome hb hp))⟩⟩
  rw [State.nextAct_free hd hf hs, State.afterTime_acts hu, hchoose]

end

/-! ## What a firing and a command run (R42, R53, R90, R398, R456, R458) -/

theorem decodeSlot_eq_some {x : BitVec 128} {i : Instr} : decodeSlot x = some i ↔ decode x = .ok i := by
  unfold decodeSlot
  split <;> simp_all

theorem decodeSlot_error {x : BitVec 128} {e : Reject} (h : decode x = .error e) : decodeSlot x = none := by
  rw [decodeSlot, h]

theorem FSet.firing_of_unselected {q : FSet} (h : q.snap = none) : q.firing = none := by
  simp [FSet.firing, h]

/-- What a firing reads at selection is its set's key and its slot's word. -/
theorem State.firingOf_reads (s : State) (cell : Nat) (q : FSet) : (s.firingOf cell q).1.cell = cell ∧
    (s.firingOf cell q).1.word = ((s.cell cell).activeSlot q.asid q.slot).word ∧ (s.firingOf cell q).1.asid = q.asid ∧
    (s.firingOf cell q).1.tag = q.tag ∧ (s.firingOf cell q).1.slot = q.slot := ⟨rfl, rfl, rfl, rfl, rfl⟩

/-- The operator of a selected firing is what its slot's word decodes to. -/
theorem State.firingOf_decodes {s : State} {cell : Nat} {q : FSet} {i : Instr} (h : (s.firingOf cell q).2 = some i) :
    decode (s.firingOf cell q).1.word = .ok i := by
  rw [← decodeSlot_eq_some]
  by_cases hrec : ((s.cell cell).activeSlot q.asid q.slot).record = true
  · simp [State.firingOf, hrec] at h
  · simp only [State.firingOf, if_neg hrec, Option.ite_none_right_eq_some] at h
    exact h.2

/-- A word that decodes to nothing leaves its firing without an operator. -/
theorem State.no_operator_of_error {s : State} {cell : Nat} {q : FSet} {f : Firing} {i : Option Instr} {e : Reject}
    (hf : s.firingOf cell q = (f, i)) (he : decode f.word = .error e) : i = none := by
  cases i with
  | none => rfl
  | some k =>
    have hk : decode (s.firingOf cell q).1.word = .ok k := State.firingOf_decodes (by rw [hf])
    rw [hf, he] at hk
    exact nomatch hk

section
variable {s : State} {f : Firing}

/-- The state in which break_ tries the operator: the flags of the firing's frame are clear. -/
def State.unflagged (s : State) (f : Firing) : State :=
  s.modCtx f.asid fun x => { x with frames := put (tagFrame f.tag) { s.frameOf f.asid f.tag with flags := 0 } x.frames }

theorem State.operate_illegal (s : State) (f : Firing) : s.operate exec f none = .next (s.raise f tILLEGAL_OP) := by
  simp only [State.operate, ite_self]

theorem State.operate_runs (s : State) {i : Instr} (hu : (unitOf (f.word.extractLsb' 120 8).toNat (isCompute f.cell)).isSome) :
    s.operate exec f (some i) = exec i { s with sel := some f } := by
  simp only [State.operate, if_pos hu]

/-- An operator that starts once the flags are clear gives way to BREAK (R376). -/
theorem State.break_raises {i : Option Instr} {t : State} (h : (s.unflagged f).operate exec f i = .next t) (hsel : t.sel = none) :
    s.break_ exec f i = .next (s.raise f { tBREAK with flags := s.flagsLeft t f }) := by
  rw [State.unflagged] at h
  simp only [State.break_, h, hsel, Option.isSome_none, Bool.false_eq_true, if_false]

/-- A set that its unit could not have started is not broken (R90). -/
theorem State.break_passes {i : Option Instr} {t : State} (h : (s.unflagged f).operate exec f i = .next t) (hsel : t.sel ≠ none) :
    s.break_ exec f i = s.operate exec f i := by
  rw [State.unflagged] at h
  simp only [State.break_, h, Option.isSome_iff_ne_none.mpr hsel, if_true]

end

theorem State.start_held {s : State} {cell : Nat} {q : FSet} {g : Firing} {i : Instr} (hq : q.firing = some g)
    (hd : decode g.word = .ok i) : s.start exec cell q = exec i { s with sel := some g } := by
  simp only [State.start, hq, decodeSlot_eq_some.mpr hd, Option.bind_some, Option.map_some]

theorem State.start_selected {s : State} {cell : Nat} {q : FSet} (hq : q.snap = none) :
    s.start exec cell q = if s.breakDue cell q then s.break_ exec (s.firingOf cell q).1 (s.firingOf cell q).2
      else s.operate exec (s.firingOf cell q).1 (s.firingOf cell q).2 := by
  simp only [State.start, FSet.firing_of_unselected hq, Option.bind_none]

section
variable {s : State} {cell : Nat} {q : FSet} {f : Firing} {i : Option Instr} (hq : q.snap = none)
  (hf : s.firingOf cell q = (f, i))
include hq hf

theorem State.start_unbroken (hb : s.breakDue cell q = false) : s.start exec cell q = s.operate exec f i := by
  rw [State.start_selected hq, hf, hb]
  rfl

theorem State.start_broken (hb : s.breakDue cell q = true) : s.start exec cell q = s.break_ exec f i := by
  rw [State.start_selected hq, hf, hb]
  rfl

theorem State.start_illegal {e : Reject} (hb : s.breakDue cell q = false) (he : decode f.word = .error e) :
    s.start exec cell q = .next (s.raise f tILLEGAL_OP) := by
  rw [State.start_unbroken hq hf hb, State.no_operator_of_error hf he, State.operate_illegal]

theorem State.start_illegal_broken {e : Reject} (hb : s.breakDue cell q = true) (he : decode f.word = .error e) :
    ∃ fl, s.start exec cell q = .next (s.raise f { tBREAK with flags := fl }) := by
  rw [State.start_broken hq hf hb, State.no_operator_of_error hf he]
  exact ⟨_, State.break_raises (State.operate_illegal _ f) rfl⟩

end

section
variable {s t : State} {cell : Nat} {q : FSet} {f : Firing} {k : Instr} (hq : q.snap = none)
  (hf : s.firingOf cell q = (f, some k)) (hu : (unitOf (f.word.extractLsb' 120 8).toNat (isCompute cell)).isSome)
include hq hf hu

theorem State.start_runs (hb : s.breakDue cell q = false) : s.start exec cell q = exec k { s with sel := some f } := by
  obtain ⟨hcell, -⟩ := s.firingOf_reads cell q
  rw [hf] at hcell
  rw [State.start_unbroken hq hf hb, State.operate_runs s (by rwa [hcell])]

/-- A break is raised only for a firing whose operator would have started (R90, R376). -/
theorem State.start_breaks (hb : s.breakDue cell q = true) (ht : exec k { s.unflagged f with sel := some f } = .next t) :
    (t.sel = none → ∃ fl, s.start exec cell q = .next (s.raise f { tBREAK with flags := fl })) ∧
    (t.sel ≠ none → s.start exec cell q = exec k { s with sel := some f }) := by
  obtain ⟨hcell, -⟩ := s.firingOf_reads cell q
  rw [hf] at hcell
  have hu : (unitOf (f.word.extractLsb' 120 8).toNat (isCompute f.cell)).isSome := by rwa [hcell]
  have htry : (s.unflagged f).operate exec f (some k) = .next t := (State.operate_runs _ hu).trans ht
  rw [State.start_broken hq hf hb]
  exact ⟨fun hsel => ⟨_, State.break_raises htry hsel⟩,
    fun hsel => (State.break_passes htry hsel).trans (State.operate_runs s hu)⟩

end

theorem State.fireFirst_starts {s t : State} {cell : Nat} {u : UnitKind} {q : FSet} (rest : List FSet)
    (h : s.start exec cell q = .next t) (hsel : t.sel = none) : State.fireFirst exec cell u (q :: rest) s =
      .next (t.afterStart cell u q ((s.cell cell).activeSlot q.asid q.slot).word (unitCycles s (s.firingOf cell q).1)
        ((rest.filter (s.wouldStart exec cell)).map FSet.sid)) := by
  simp only [State.fireFirst, h, hsel, Option.isSome_none, Bool.false_eq_true, if_false]

theorem State.fireFirst_passes {s t : State} {cell : Nat} {u : UnitKind} {q : FSet} (rest : List FSet)
    (h : s.start exec cell q = .next t) (hsel : t.sel ≠ none) :
    State.fireFirst exec cell u (q :: rest) s = State.fireFirst exec cell u rest { t with sel := none } := by
  simp only [State.fireFirst, h, Option.isSome_iff_ne_none.mpr hsel, if_true]

theorem State.act_fire (s : State) (cell : Nat) (u : UnitKind) :
    State.act exec s (.fire cell u) = State.fireFirst exec cell u (s.candidates cell u) s := rfl

/-- A unit fires its preferred candidate, or passes it over when its result lines cannot be reserved (R87, R90, R91). -/
theorem State.act_fire_first {s t : State} {cell : Nat} {u : UnitKind} {q : FSet} {rest : List FSet} {f : Firing} {i : Instr}
    (hc : s.candidates cell u = q :: rest) (hq : q.snap = none) (hb : s.breakDue cell q = false)
    (hf : s.firingOf cell q = (f, some i)) (hu : (unitOf (f.word.extractLsb' 120 8).toNat (isCompute cell)).isSome)
    (ht : exec i { s with sel := some f } = .next t) : decode f.word = .ok i ∧
      (t.sel = none → State.act exec s (.fire cell u) =
        .next (t.afterStart cell u q f.word (unitCycles s f) ((rest.filter (s.wouldStart exec cell)).map FSet.sid))) ∧
      (t.sel ≠ none → State.act exec s (.fire cell u) = State.fireFirst exec cell u rest { t with sel := none }) := by
  have hstart : s.start exec cell q = .next t := (State.start_runs hq hf hu hb).trans ht
  have hdec : decode (s.firingOf cell q).1.word = .ok i := State.firingOf_decodes (by rw [hf])
  obtain ⟨-, hword, -⟩ := s.firingOf_reads cell q
  rw [State.act_fire, hc]
  refine ⟨by rwa [hf] at hdec, fun hsel => ?_, State.fireFirst_passes rest hstart⟩
  rw [State.fireFirst_starts rest hstart hsel, ← hword, hf]

/-- A well-formed slot runs its command's event; one that must wait stays at the head of its ring (R456, R458). -/
theorem State.act_command {s t : State} {fn : Fn} {i : Instr} (hc : s.canTake fn = true) (hok : (s.slotAt fn).ok = true)
    (hi : commandOf (s.slotAt fn).code (s.slotAt fn).cmd = some i) (ht : exec i s = .next t) :
    State.act exec s (.command fn) = .next (if t.posts = s.posts then s else t.popSlot fn) := by
  simp [State.act, State.takeCommand, hc, hi, hok, ht]

/-- Settles O55: a lemma for each thing that may come next, for the start of a selected set, and for a command. -/
theorem stepRunsTheDecodedInstruction : Obligations.StepRunsTheDecodedInstruction := by
  unfold Obligations.StepRunsTheDecodedInstruction
  intro s
  refine ⟨fun a t => step_due, fun p => step_expiry, ?own, ?timed, fun h => State.one_le_freeCycles (.inr h), fun i => rfl,
    fun cell q g i => State.start_held, ?started, fun cell u q rest i f t => State.act_fire_first, ?nothing,
    fun fn i t => State.act_command⟩
  case own =>
    intro n f k hd hx hn hbefore ht htile hfar hcell hrem hinj haway
    exact step_localArrival hd hx hn hbefore (Flight.staysOn_of_own ht htile hfar hcell hrem hinj haway)
  case timed =>
    intro hd hf
    exact ⟨fun c t hs => ⟨step_scheduled hd hf hs, fun k hu => ⟨State.untilExpiry_le hu, step_scheduled_stops hd hf hs hu⟩⟩,
      fun k => step_free_stops hd hf, fun hs hu => ⟨step_idle hd hf hs hu, step_free hd hf hs hu⟩⟩
  case started =>
    intro cell q f i hq hf
    obtain ⟨-, hword, hasid, htag, hslot⟩ := s.firingOf_reads cell q
    rw [hf] at hword hasid htag hslot
    refine ⟨hword, hasid, htag, hslot, fun e => State.start_illegal hq hf, fun e => State.start_illegal_broken hq hf, ?_⟩
    rintro k t hb rfl hu ht
    exact State.start_breaks hq hf hu hb ht
  case nothing =>
    intro cell u hc
    rw [State.act_fire, hc, State.fireFirst]

end Sys2Proof.Machine
end

section
namespace Sys2Proof.Machine

/-! ## Canonical states (O60): memory as strictly rising entries without a zero byte, the poisoned lines rising -/

/-- Memory and the list of poisoned lines are in canonical form. -/
def State.Canonical (s : State) : Prop := s.MemoryCanonical ∧ s.poison.Pairwise (· < ·)

/-- The next state that an outcome gives, if it gives one, is canonical. -/
def CanonicalNext : Host.Outcome State Fault Refusal → Prop
  | .next t => t.Canonical
  | _ => True

/-- A meaning of instructions that leads from canonical states to canonical states. -/
def KeepsCanonical (exec : Instr → State → Host.Outcome State Fault Refusal) : Prop :=
  ∀ i s, s.Canonical → CanonicalNext (exec i s)

/-- The state in a value that may be missing, at the place π, is canonical. -/
def CanonicalIn {α : Type} (π : α → State) (o : Option α) : Prop := ∀ p, o = some p → (π p).Canonical

/-- The state that a read through a translation leaves is canonical. -/
def Fetched.Canonical {α : Type} : Fetched α → Prop
  | .ok s _ => s.Canonical
  | .wait s => s.Canonical
  | .bad s => s.Canonical

theorem Fetched.Canonical.ok {α : Type} {s : State} {x : α} (h : s.Canonical) : (Fetched.ok s x).Canonical := h

theorem Fetched.Canonical.wait {α : Type} {s : State} (h : s.Canonical) : (Fetched.wait s : Fetched α).Canonical := h

theorem Fetched.Canonical.bad {α : Type} {s : State} (h : s.Canonical) : (Fetched.bad s : Fetched α).Canonical := h

theorem Fetched.Canonical.ite {α : Type} {c : Prop} [Decidable c] {p q : Fetched α} (hp : p.Canonical) (hq : q.Canonical) :
    (if c then p else q).Canonical := by
  split
  exacts [hp, hq]

theorem Fetched.Canonical.of_ok {α : Type} {p : Fetched α} {s : State} {x : α} (h : p.Canonical) (e : p = .ok s x) :
    s.Canonical := by
  subst e; exact h

theorem Fetched.Canonical.of_wait {α : Type} {p : Fetched α} {s : State} (h : p.Canonical) (e : p = .wait s) : s.Canonical := by
  subst e; exact h

theorem Fetched.Canonical.of_bad {α : Type} {p : Fetched α} {s : State} (h : p.Canonical) (e : p = .bad s) : s.Canonical := by
  subst e; exact h

theorem CanonicalNext.next {t : State} (h : t.Canonical) : CanonicalNext (.next t) := h

theorem CanonicalNext.of_ite {c : Prop} [Decidable c] {o p : Host.Outcome State Fault Refusal} (ho : CanonicalNext o)
    (hp : CanonicalNext p) : CanonicalNext (if c then o else p) := by
  split
  exacts [ho, hp]

theorem CanonicalIn.none {α : Type} {π : α → State} : CanonicalIn π Option.none := nofun

theorem CanonicalIn.some {α : Type} {π : α → State} {p : α} (h : (π p).Canonical) : CanonicalIn π (Option.some p) :=
  fun _ e => Option.some.inj e ▸ h

theorem CanonicalIn.unless {α : Type} {π : α → State} {c : Prop} [Decidable c] {o : Option α} (h : CanonicalIn π o) :
    CanonicalIn π (if c then Option.none else o) := by
  split
  exacts [.none, h]

theorem CanonicalIn.map {α β : Type} {π : α → State} {ρ : β → State} {o : Option α} {f : α → β}
    (h : CanonicalIn π o) (hf : ∀ p, (π p).Canonical → (ρ (f p)).Canonical) : CanonicalIn ρ (o.map f) := by
  rintro q e
  obtain ⟨p, hp, rfl⟩ := Option.map_eq_some_iff.mp e
  exact hf p (h p hp)

theorem CanonicalIn.bind {α β : Type} {π : α → State} {ρ : β → State} {o : Option α} {f : α → Option β}
    (h : CanonicalIn π o) (hf : ∀ p, (π p).Canonical → CanonicalIn ρ (f p)) : CanonicalIn ρ (o.bind f) := by
  rintro q e
  obtain ⟨p, hp, hq⟩ := Option.bind_eq_some_iff.mp e
  exact hf p (h p hp) q hq

theorem CanonicalIn.getD {α : Type} {π : α → State} {o : Option α} {d : α} (h : CanonicalIn π o) (hd : (π d).Canonical) :
    (π (o.getD d)).Canonical := by
  cases o with
  | none => exact hd
  | some p => exact h p rfl

theorem CanonicalIn.foldlM {α : Type} {g : State → α → Option State} {l : List α} {s : State} (h : s.Canonical)
    (hg : ∀ t x, t.Canonical → CanonicalIn id (g t x)) : CanonicalIn id (l.foldlM g s) := by
  induction l generalizing s with
  | nil => exact .some h
  | cons x l ih => exact .bind (hg s x h) fun _ ht => ih ht

/-- A choice made from a value without a state. -/
theorem CanonicalIn.of_map {α β : Type} {ρ : β → State} {o : Option α} {f : α → β} (hf : ∀ p, (ρ (f p)).Canonical) :
    CanonicalIn ρ (o.map f) := by
  rintro q e
  obtain ⟨p, -, rfl⟩ := Option.map_eq_some_iff.mp e
  exact hf p

theorem CanonicalIn.of_bind {α β : Type} {ρ : β → State} {o : Option α} {f : α → Option β}
    (hf : ∀ p, CanonicalIn ρ (f p)) : CanonicalIn ρ (o.bind f) := by
  rintro q e
  obtain ⟨p, -, hq⟩ := Option.bind_eq_some_iff.mp e
  exact hf p q hq

namespace State.Canonical

variable {s t : State}

theorem of_fst {α : Type} {p : State × α} {x : α} (h : p.1.Canonical) (e : p = (t, x)) : t.Canonical := by
  subst e; exact h

theorem of_snd {α : Type} {p : α × State} {x : α} (h : p.2.Canonical) (e : p = (x, t)) : t.Canonical := by
  subst e; exact h

/-- What every step of a fold keeps, the fold keeps. -/
theorem foldl {α : Type} {g : State → α → State} {l : List α} (h : s.Canonical)
    (hg : ∀ t, t.Canonical → ∀ x, (g t x).Canonical) : (l.foldl g s).Canonical := by
  induction l generalizing s with
  | nil => exact h
  | cons x l ih => exact ih (hg s h x)

theorem foldl_fst {α β : Type} {g : State × β → α → State × β} {l : List α} {p : State × β} (h : p.1.Canonical)
    (hg : ∀ q x, q.1.Canonical → (g q x).1.Canonical) : (l.foldl g p).1.Canonical := by
  induction l generalizing p with
  | nil => exact h
  | cons x l ih => exact ih (hg p x h)

theorem elim {α : Type} {o : Option α} {g : α → State} (h : s.Canonical) (hg : ∀ x, (g x).Canonical) :
    (o.elim s g).Canonical := by
  cases o with
  | none => exact h
  | some x => exact hg x

theorem ite {c : Prop} [Decidable c] (h : s.Canonical) (ht : t.Canonical) : (if c then s else t).Canonical := by
  split
  exacts [h, ht]

theorem writeMem {a bs} (h : s.Canonical) : (s.writeMem a bs).Canonical := ⟨State.writeMem_wf h.1 _ _, h.2⟩

theorem zeroMem {a n} (h : s.Canonical) : (s.zeroMem a n).Canonical := ⟨Memory.wf_clear h.1 _ _, h.2⟩

end State.Canonical

theorem mem_insertNat {a b : Nat} {l : List Nat} (h : b ∈ insertNat a l) : b = a ∨ b ∈ l := by
  induction l with
  | nil => simpa [insertNat] using h
  | cons c l ih =>
    unfold insertNat at h
    split at h
    · simpa using h
    · split at h
      · exact .inr h
      · rcases List.mem_cons.mp h with rfl | h
        · exact .inr List.mem_cons_self
        · exact (ih h).imp_right (List.mem_cons_of_mem _)

/-- An address that joins a rising list leaves it rising. -/
theorem pairwise_insertNat {a : Nat} {l : List Nat} (h : l.Pairwise (· < ·)) : (insertNat a l).Pairwise (· < ·) := by
  induction l with
  | nil => simp [insertNat]
  | cons b l ih =>
    obtain ⟨hb, hl⟩ := List.pairwise_cons.mp h
    unfold insertNat
    split
    · next hab => exact List.pairwise_cons.mpr ⟨List.forall_mem_cons.mpr ⟨hab, fun c hc => hab.trans (hb c hc)⟩, h⟩
    · split
      · exact h
      · refine List.pairwise_cons.mpr ⟨fun c hc => ?_, ih hl⟩
        rcases mem_insertNat hc with rfl | hc
        · omega
        · exact hb c hc

theorem Memory.wf_filter {m : List Host.Cell} (h : wf m = true) (p : Host.Cell → Bool) : wf (m.filter p) = true := by
  obtain ⟨hp, hz⟩ := (wf_iff m).mp h
  exact (wf_iff _).mpr ⟨hp.filter p, fun q hq => hz q (List.mem_of_mem_filter hq)⟩

namespace State.Canonical

variable {s t : State}

theorem setPoison {a} (h : s.Canonical) : (s.setPoison a).Canonical := ⟨h.1, pairwise_insertNat h.2⟩

theorem clearPoison {a} (h : s.Canonical) : (s.clearPoison a).Canonical := ⟨h.1, h.2.filter _⟩

theorem zeroLines {a n} (h : s.Canonical) : (s.zeroLines a n).Canonical := ⟨Memory.wf_clear h.1 _ _, h.2.filter _⟩

end State.Canonical
end Sys2Proof.Machine
end

section
namespace Sys2Proof.Machine

/-! ## Every function of a step leads from canonical states to canonical states (O60) -/

namespace State.Canonical

variable {s : State}

/-! ### Access to the parts of the state -/

theorem setCell {c x} (h : s.Canonical) : (s.setCell c x).Canonical := h

theorem modCell {c f} (h : s.Canonical) : (s.modCell c f).Canonical := h.setCell

theorem setCtx {a x} (h : s.Canonical) : (s.setCtx a x).Canonical := h

theorem modCtx {a f} (h : s.Canonical) : (s.modCtx a f).Canonical := by
  unfold State.modCtx
  split
  exacts [h.setCtx, h]

theorem writeNat {a n x} (h : s.Canonical) : (s.writeNat a n x).Canonical := h.writeMem

theorem setFrame {a i f} (h : s.Canonical) : (s.setFrame a i f).Canonical := by
  unfold State.setFrame
  split
  exacts [h, h.setCtx.writeMem]

theorem setPool {a p} (h : s.Canonical) : (s.setPool a p).Canonical := by
  unfold State.setPool
  split
  exacts [h, h.setCtx.writeMem]

theorem modPool {a f} (h : s.Canonical) : (s.modPool a f).Canonical := by
  unfold State.modPool
  split
  exacts [h, h.setPool]

theorem orFlags {a t fl} (h : s.Canonical) : (s.orFlags a t fl).Canonical := .ite h (.ite h.setFrame h)

theorem countOrphan {a} (h : s.Canonical) : (s.countOrphan a).Canonical := h.modPool

theorem progress {a} (h : s.Canonical) : (s.progress a).Canonical := h.modCtx

theorem markBlock {x b on} (h : s.Canonical) : (s.markBlock x b on).Canonical := h.writeMem

theorem takeBlock {asid} (h : s.Canonical) : CanonicalIn (·.2) (s.takeBlock asid) := by
  unfold State.takeBlock
  split
  · exact .none
  · split
    exacts [.none, .some h.setCtx.markBlock]

theorem freeBlock {asid b} (h : s.Canonical) : (s.freeBlock asid b).Canonical := by
  unfold State.freeBlock
  split
  exacts [h, h.setCtx.markBlock]

theorem storeBlock {asid b data} (h : s.Canonical) : (s.storeBlock asid b data).Canonical := by
  unfold State.storeBlock
  split
  exacts [h, h.writeMem]

theorem logPoison {asid addr cell slot src} (h : s.Canonical) : (s.logPoison asid addr cell slot src).Canonical := by
  unfold State.logPoison
  split
  exacts [h, .ite h (.writeNat (.ite h h.writeMem))]

theorem logArea {asid pa n cell slot} (h : s.Canonical) : (s.logArea asid pa n cell slot).Canonical :=
  h.foldl fun _ ht _ => .ite ht.logPoison ht

theorem noteBlock {asid cell slot b n} (h : s.Canonical) : (s.noteBlock asid cell slot b n).Canonical := by
  unfold State.noteBlock
  split
  exacts [h, h.logArea]

theorem noteStored {asid pa w} (h : s.Canonical) : (s.noteStored asid pa w).Canonical := h.logArea

theorem noteWay {asid w} (h : s.Canonical) : (s.noteWay asid w).Canonical := by
  unfold State.noteWay
  split
  exacts [h, h.noteStored]

theorem publishPark {asid} (h : s.Canonical) : (s.publishPark asid).Canonical := by
  unfold State.publishPark
  split
  exacts [h, .ite h h.writeNat]

theorem gcTiles {c} (h : s.Canonical) : (s.gcTiles c).Canonical := h.modCell

/-! ### Named operations: sending, waits, parking, traps, spilling, arrival, commits -/

theorem publishState {a} (h : s.Canonical) : (s.publishState a).Canonical := by
  unfold State.publishState
  split
  exacts [h, h.writeMem]

theorem freeze {r} (h : s.Canonical) : (s.freeze r).Canonical := .foldl h fun _ ht _ => ht.publishState

theorem noteRpt {asid i cell slot} (h : s.Canonical) : (s.noteRpt asid i cell slot).Canonical := by
  unfold State.noteRpt
  split
  exacts [h, h.logArea]

theorem sendRemote {f tag v i} (h : s.Canonical) : (s.sendRemote f tag v i).Canonical := .ite h.noteRpt h.noteRpt.freeze

theorem launchFlight {f v cell toks} (h : s.Canonical) : (s.launchFlight f v cell toks).Canonical := by
  unfold State.launchFlight
  split
  exacts [h, .ite h h]

theorem sendTokens {f v toks} (h : s.Canonical) : (s.sendTokens f v toks).Canonical := h.foldl fun _ ht _ => ht.launchFlight

theorem sendFar {f tag v ds} (h : s.Canonical) : (s.sendFar f tag v ds).Canonical := h.foldl fun _ ht _ => ht.sendRemote

theorem send {f tag v ds} (h : s.Canonical) : (s.send f tag v ds).Canonical := h.sendTokens.sendFar

theorem sendTagged {f tags v ds} (h : s.Canonical) : (s.sendTagged f tags v ds).Canonical :=
  h.sendTokens.foldl fun _ ht _ => ht.sendFar

theorem publishRec {asid r} (h : s.Canonical) : (s.publishRec asid r).Canonical := by
  unfold State.publishRec
  split
  · extract_lets s1
    have h1 : s1.Canonical := h.writeMem
    split
    exacts [h1.writeMem, h1]
  · exact h

theorem modTraps {asid p g} (h : s.Canonical) : (s.modTraps asid p g).Canonical := h.modCtx

theorem grantDue {asid} (h : s.Canonical) : (s.grantDue asid).Canonical := h

theorem unallocFrame {asid i} (h : s.Canonical) : (s.unallocFrame asid i).Canonical := by
  unfold State.unallocFrame
  split
  exacts [h, h.setFrame.modCtx.modPool.grantDue]

theorem cancelWait {asid cell sid} (h : s.Canonical) : (s.cancelWait asid cell sid).Canonical := by
  unfold State.cancelWait
  extract_lets s1 headGang s2 s3 s4 s5
  have h1 : s1.Canonical := h.modCell
  have h2 : s2.Canonical := h1.modCtx
  have h3 : s3.Canonical := h2.modPool
  have h4 : s4.Canonical := .ite h3.grantDue h3
  have h5 : s5.Canonical := by
    unfold s5
    split
    exacts [h4.unallocFrame, h4]
  exact h5

theorem setWay {asid w} (h : s.Canonical) : (s.setWay asid w).Canonical := by
  unfold State.setWay
  split
  exacts [h, h.setCtx.writeMem]

theorem freeWayAt {asid i} (h : s.Canonical) : (s.freeWayAt asid i).Canonical := by
  unfold State.freeWayAt
  split
  exacts [h, h.setCtx.writeMem]

theorem tileBlock {asid cell m e} (h : s.Canonical) : CanonicalIn (·.2.2) (s.tileBlock asid cell m e) := by
  unfold State.tileBlock
  split
  · exact .some h
  · exact .some h
  · split
    · exact .some h
    · exact .map h.takeBlock fun _ h1 => h1.storeBlock
    · exact .some h

theorem parkEntry {asid cell m e} (h : s.Canonical) : CanonicalIn (·.1) (s.parkEntry asid cell m e) :=
  .of_bind fun _ => .of_bind fun _ => .bind h.tileBlock fun _ h1 => .some h1.modCtx.writeMem.publishPark

theorem parkResident {p : State × List (Nat × Nat)} {asid cell e} (h : p.1.Canonical) :
    (Machine.parkResident asid cell p e).1.Canonical :=
  h.parkEntry.getD h.modCell

theorem parkWay {p : State × List (Nat × Nat)} {asid w} (h : p.1.Canonical) : (Machine.parkWay asid p w).1.Canonical := by
  unfold Machine.parkWay
  split
  · rename_i s1 _ e
    have h1 : s1.Canonical := h.parkEntry _ e
    exact h1.freeWayAt
  · exact h.setWay

theorem withdraw {asid frame gen cell} (h : s.Canonical) : (s.withdraw asid frame gen cell).Canonical := by
  unfold State.withdraw
  extract_lets c sets es s1 s2 ws p1
  have h2 : s2.Canonical := (h.foldl fun _ ht _ => ht.cancelWait).modCell
  have hp : p1.1.Canonical := .foldl_fst h2 fun _ _ hq => hq.parkResident
  exact (hp.foldl_fst fun _ _ hq => hq.parkWay).gcTiles

theorem clearBreak {asid frame gen cell} (h : s.Canonical) : (s.clearBreak asid frame gen cell).Canonical := h.modCell.modCtx

theorem takeTrap {asid r} (h : s.Canonical) : (s.takeTrap asid r).Canonical := by
  unfold State.takeTrap
  split
  · exact h
  · refine .ite h.countOrphan.gcTiles ?_
    extract_lets r1 s1 s2 brk s3 s4
    have h1 : s1.Canonical := h.modCtx
    have h2 : s2.Canonical := h1.setFrame
    have h3 : s3.Canonical := h2
    have h4 : s4.Canonical := .ite h3.clearBreak h3
    exact .ite h4.withdraw h1

theorem raise {f t} (h : s.Canonical) : (s.raise f t).Canonical := h.cancelWait.modCell.takeTrap

theorem raiseFrozen {f t r} (h : s.Canonical) : (s.raiseFrozen f t r).Canonical := h.freeze.cancelWait.modCell.takeTrap

theorem raiseCause {f cause addr} (h : s.Canonical) : (s.raiseCause f cause addr).Canonical := h.raiseFrozen

theorem spillFull {asid cell e} (h : s.Canonical) : (s.spillFull asid cell e).Canonical := h.takeTrap

theorem spill {cell e} (h : s.Canonical) : (s.spill cell e).Canonical := by
  unfold State.spill
  extract_lets asid
  split
  · exact h
  · split
    · exact h.spillFull
    · extract_lets write
      have hw {t : State} {b} (ht : t.Canonical) : (write t b).Canonical := ht.modCtx.writeMem.progress
      split
      · exact hw h
      · exact hw h
      · split
        · exact hw h
        · split
          · exact h.spillFull
          · rename_i s1 e1
            have h1 : s1.Canonical := h.tileBlock _ e1
            exact (hw h1).gcTiles

theorem enter {t res parked} (h : s.Canonical) : (s.enter t res parked).Canonical := h.modCell.progress

theorem spillToken {t parked} (h : s.Canonical) : (s.spillToken t parked).Canonical := h.modCell.spill

theorem parkArrival {t} (h : s.Canonical) : (s.parkArrival t).Canonical := by
  unfold State.parkArrival
  extract_lets e
  split
  · rename_i s1 _ e1
    have h1 : s1.Canonical := h.modCell.parkEntry _ e1
    exact h1.gcTiles.progress
  · split
    exacts [h.enter, h.spillToken]

theorem holdAtInput {t why} (h : s.Canonical) : (s.holdAtInput t why).Canonical := h.modCell

theorem spillEntry {cell e} (h : s.Canonical) : (s.spillEntry cell e).Canonical := h.modCell.spill

theorem acceptOver {t n} (h : s.Canonical) : (State.acceptOver t n s).Canonical := by
  induction n generalizing s with
  | zero => exact h.holdAtInput
  | succ n ih =>
    unfold State.acceptOver
    split
    · split
      · exact h.holdAtInput
      · extract_lets s1 fr
        have h1 : s1.Canonical := h.spillEntry
        split
        · exact h1.parkArrival
        · split
          exacts [h1.enter, ih h1]
    · exact h.spillToken

theorem acceptToken {t} (h : s.Canonical) : (s.acceptToken t).Canonical := by
  unfold State.acceptToken
  split
  exacts [h.enter, h.acceptOver]

theorem tokenTrap {kind t tr held} (h : s.Canonical) : (s.tokenTrap kind t tr held).Canonical := h.takeTrap

theorem dropOrphan {x t} (h : s.Canonical) : (s.dropOrphan x t).Canonical := .gcTiles (.ite h.countOrphan.tokenTrap h.countOrphan)

theorem arriveFrame {t} (h : s.Canonical) : (s.arriveFrame t).Canonical := by
  unfold State.arriveFrame
  split
  exacts [h.gcTiles, .ite h.dropOrphan (.ite h.parkArrival (.ite h.tokenTrap (.ite h.holdAtInput h.acceptToken)))]

theorem countPurged {asid n} (h : s.Canonical) : (s.countPurged asid n).Canonical := by
  unfold State.countPurged
  split
  exacts [h, h.setCtx.writeMem]

theorem arrive {t} (h : s.Canonical) : (s.arrive t).Canonical := by
  unfold State.arrive
  split
  exacts [.ite h.arriveFrame (.ite h.holdAtInput (.ite h.countPurged.gcTiles h.tokenTrap.gcTiles)), h.gcTiles]

theorem releaseBlock {asid b} (h : s.Canonical) : (s.releaseBlock asid b).Canonical := .ite h h.freeBlock

theorem clearPark {asid frame gen} (h : s.Canonical) : (s.clearPark asid frame gen).Canonical := by
  unfold State.clearPark
  split
  exacts [h, (h.setCtx.foldl fun _ ht _ => ht.writeMem).publishPark]

theorem endFrame {asid i} (h : s.Canonical) : (s.endFrame asid i).Canonical := by
  unfold State.endFrame
  split
  · exact h
  · extract_lets f mine dead s2 closed s3 s4 s5 s6 s7
    have h2 : s2.Canonical := h.clearPark.foldl fun _ ht _ => ht.releaseBlock
    have h3 : s3.Canonical := h2.foldl fun _ ht _ => ht.publishRec
    have h5 : s5.Canonical := h3.modCtx.setFrame
    have h6 : s6.Canonical := h5
    have h7 : s7.Canonical := h6.foldl fun _ ht _ => ht.releaseBlock
    exact h7.foldl fun _ ht _ => ht.gcTiles

theorem endNamed {asid i gen} (h : s.Canonical) : (s.endNamed asid i gen).Canonical := by
  unfold State.endNamed
  split
  exacts [h, .ite h.endFrame h]

theorem endOwn {asid i gen} (h : s.Canonical) : (s.endOwn asid i gen).Canonical := by
  unfold State.endOwn
  split
  exacts [h, .ite h.endFrame h]

theorem bumpTrace {asid off n} (h : s.Canonical) : (s.bumpTrace asid off n).Canonical := by
  unfold State.bumpTrace
  split
  exacts [h, .ite h h.writeNat]

theorem sample {f r} (h : s.Canonical) : (s.sample f r).Canonical := by
  unfold State.sample
  split
  exacts [h, .ite (.ite (.ite h.setCtx.bumpTrace h.setCtx.bumpTrace.modCtx) h.setCtx) h]

theorem retire {f} (h : s.Canonical) : (s.retire f).Canonical := h.modCell.modCtx.sample.progress

theorem orphanOuts {f tags v ds} (h : s.Canonical) : (s.orphanOuts f tags v ds).Canonical := by
  unfold State.orphanOuts
  split
  exacts [h, h.foldl fun _ ht _ => ht.foldl fun _ h1 _ => h1.dropOrphan]

theorem sendSide {f live tags v ds} (h : s.Canonical) : (s.sendSide f live tags v ds).Canonical := .ite h.sendTagged h.orphanOuts

theorem sendGroup {f live g} (h : s.Canonical) : (s.sendGroup f live g).Canonical :=
  .ite (.foldl (.elim h fun _ => h.sendTokens) fun _ ht _ => ht.sendFar) (h.foldl fun _ ht _ => ht.orphanOuts)

theorem sendOuts {f live outs} (h : s.Canonical) : (s.sendOuts f live outs).Canonical := h.foldl fun _ ht _ => ht.sendGroup

theorem noSpace {f need} (h : s.Canonical) : (s.noSpace f need).Canonical := h.modCell

theorem raiseRemote {f ds} (h : s.Canonical) : (s.raiseRemote f ds).Canonical := by
  unfold State.raiseRemote
  refine .raiseCause ?_
  split
  exacts [h.noteRpt, h]

/-- What a commit does more (`more`) has to keep canonical form; changes of cells and queues do so by computation. -/
theorem commitWith {f c more} (h : s.Canonical)
    (hm : ∀ t, t.Canonical → (more t).Canonical := by exact fun _ ht => ht) : (s.commitWith f c more).Canonical := by
  unfold State.commitWith
  extract_lets need
  split
  · exact h.raise
  · split
    · exact h.noSpace
    · refine .ite h.raiseRemote ?_
      extract_lets s1 s2 u
      have h1 : s1.Canonical := h.setCell.orFlags
      have h2 : s2.Canonical := hm _ h1.retire
      have hu : u.Canonical := h2.sendOuts.gcTiles
      exact hu

theorem commit {f c} (h : s.Canonical) : (s.commit f c).Canonical := h.commitWith

theorem fail {f t} (h : s.Canonical) : (s.fail f t).Canonical := .ite h.raise (.ite h.raise (.ite h.raise h.noSpace))

theorem hold {f v} (h : s.Canonical) : (s.hold f v).Canonical := by
  unfold State.hold
  extract_lets u
  have hu : u.Canonical := h.modCell
  exact hu

theorem rejoin {asid cell b l} (h : s.Canonical) : (s.rejoin asid cell b l).Canonical :=
  (h.modCell.foldl fun _ ht _ => ht.setWay).releaseBlock

theorem seatTile {asid cell m e} (h : s.Canonical) : CanonicalIn (·.2.2) (s.seatTile asid cell m e) := by
  unfold State.seatTile
  split
  · split
    · exact .some h
    · split
      · exact .none
      · exact .of_map fun _ => h.noteBlock.modCell.rejoin
  · exact .some h

theorem seatEntry {cell e res} (h : s.Canonical) : (s.seatEntry cell e res).Canonical := h.modCell

theorem comeBack {cell m e} (h : s.Canonical) : CanonicalIn (·.1) (s.comeBack cell m e) :=
  .of_bind fun _ => .bind h.seatTile fun _ h1 => .some h1.seatEntry

theorem returnParked {p : State × List (Nat × Nat)} {asid x} (h : p.1.Canonical) :
    (State.returnParked asid p x).1.Canonical := by
  unfold State.returnParked
  extract_lets m cell e0 s e
  have hs : s.Canonical := h.modCell
  split
  · split
    · rename_i e1
      have h1 := hs.parkEntry _ e1
      exact h1
    · exact hs.modCell
    · exact hs.spill
  · exact CanonicalIn.getD (π := Prod.fst) (.unless hs.comeBack) hs.spill

theorem unmarkWays {asid frame gen} (h : s.Canonical) : (s.unmarkWays asid frame gen).Canonical := h.modCtx

theorem notePark {asid i gen} (h : s.Canonical) : (s.notePark asid i gen).Canonical := by
  unfold State.notePark
  split
  exacts [h, h.foldl fun _ ht _ => ht.noteStored]

theorem unpark {asid i} (h : s.Canonical) : (s.unpark asid i).Canonical := by
  unfold State.unpark
  split
  · exact h
  · extract_lets f
    split
    · rename_i s2 s3 _
      have h2 : s2.Canonical := h.notePark.setFrame.clearPark.unmarkWays
      have h3 : s3.Canonical := h2
      exact .foldl_fst h3 fun _ _ hp => hp.returnParked
    · exact h

theorem closeRec {asid r} (h : s.Canonical) : (s.closeRec asid r).Canonical := by
  unfold State.closeRec
  extract_lets s1 s2 s3
  have h2 : s2.Canonical := h.publishRec.modCtx
  have h3 : s3.Canonical := h2.foldl fun _ ht _ => ht.releaseBlock
  exact .ite h3.unpark.gcTiles h3.gcTiles

/-! ### Firings that are settled, tokens and packets that arrive, spilled entries, the stall watchdog -/

theorem settle {f a} (h : s.Canonical) : (s.settle f a).Canonical := by
  unfold State.settle
  split
  exacts [h.commit, h.fail]

theorem runOp {g} (h : s.Canonical) : CanonicalNext (Machine.runOp s g) := by
  unfold Machine.runOp
  split
  exacts [h, h.settle]

theorem runFiring {g} (h : s.Canonical) (hg : ∀ f, (g f).Canonical) : CanonicalNext (Machine.runFiring s g) := by
  unfold Machine.runFiring
  split
  exacts [h, hg _]

theorem execTokenArrival {n} (h : s.Canonical) : CanonicalNext (Machine.execTokenArrival n s) := by
  unfold Machine.execTokenArrival
  refine .next ?_
  split
  exacts [.ite h (.progress (.arrive h)), h]

theorem takeInput {cell n} (h : s.Canonical) : (s.takeInput cell n).Canonical := h.modCell

theorem assembled {f l} (h : s.Canonical) : (s.assembled f l).Canonical := by
  unfold State.assembled
  extract_lets c s1 toks s2
  have h1 : s1.Canonical := h.modCell
  have h2 : s2.Canonical := h1
  refine h2.foldl fun st ht t => ?_
  split
  exacts [.arrive ht, ht]

theorem packetAt {n f l} (h : s.Canonical) : (s.packetAt n f l).Canonical := .ite (.assembled h) h

theorem holdFlight {n f why} (h : s.Canonical) : (s.holdFlight n f why).Canonical := .modCell h

theorem firstPacket {n f} (h : s.Canonical) : (s.firstPacket n f).Canonical := by
  unfold State.firstPacket
  split
  exacts [h.modCell.packetAt, h.holdFlight]

theorem packet {n f} (h : s.Canonical) : (s.packet n f).Canonical := by
  unfold State.packet
  extract_lets s1
  have h1 : s1.Canonical := by
    unfold s1
    split
    · exact h.packetAt
    · split
      exacts [h, .ite h.holdFlight (.ite (.foldl h fun _ ht _ => ht.arrive) h.firstPacket)]
  exact h1.progress

theorem execPacketArrival {n} (h : s.Canonical) : CanonicalNext (Machine.execPacketArrival n s) := by
  unfold Machine.execPacketArrival
  refine .next ?_
  split
  exacts [.ite h h.packet, h]

theorem execOutgoingTransferDone {n} (h : s.Canonical) : CanonicalNext (Machine.execOutgoingTransferDone n s) := by
  unfold Machine.execOutgoingTransferDone
  refine .next ?_
  split
  exacts [h, .ite h (.gcTiles h)]

theorem execHeldTokenAccept {cell n} (h : s.Canonical) : CanonicalNext (Machine.execHeldTokenAccept cell n s) := by
  unfold Machine.execHeldTokenAccept
  refine .next ?_
  split
  · exact h
  · split
    · exact h
    · split
      · exact .ite h.takeInput.arriveFrame.progress h
      · split
        · extract_lets s1
          have h1 : s1.Canonical := h.takeInput
          exact .packet h1
        · exact h
      · exact h

theorem execCgenHoldRelease {cell n} (h : s.Canonical) : CanonicalNext (Machine.execCgenHoldRelease cell n s) := by
  unfold Machine.execCgenHoldRelease
  refine .next ?_
  split
  · exact h
  · split
    · exact h
    · extract_lets s1
      have h1 : s1.Canonical := h.takeInput
      split
      exacts [h1.arrive.progress, .packet h1]

theorem bringBack {asid w} (h : s.Canonical) : CanonicalIn id (s.bringBack asid w) :=
  .map h.noteWay.freeWayAt.comeBack fun _ h1 => h1.gcTiles.progress

theorem makeRoom {cell e} (h : s.Canonical) : CanonicalIn id (s.makeRoom cell e) :=
  .of_map fun _ => h.spillEntry

theorem roomFor {w} (h : s.Canonical) : (s.roomFor w).Canonical := .ite h (h.makeRoom.getD h)

theorem bringKey {t n} (h : s.Canonical) : (State.bringKey t n s).Canonical := by
  induction n generalizing s with
  | zero => exact h
  | succ n ih =>
    unfold State.bringKey
    split
    · exact h
    · extract_lets s1
      have h1 : s1.Canonical := h.roomFor
      split
      · rename_i s2 e
        split at e
        · exact ih (h1.bringBack _ e)
        · cases e
      · exact h1

theorem execSpillLookup {cell n} (h : s.Canonical) : CanonicalNext (Machine.execSpillLookup cell n s) := by
  unfold Machine.execSpillLookup
  refine .next ?_
  split
  · exact h
  · split
    · exact h
    · split
      · extract_lets s1
        have h1 : s1.Canonical := h.bringKey
        exact .ite (.ite h1.takeInput.acceptToken h1.takeInput.arriveFrame) h1
      · exact h

theorem execRefill {cell} (h : s.Canonical) : CanonicalNext (Machine.execRefill cell s) := by
  unfold Machine.execRefill
  refine .next ?_
  split
  exacts [h, .ite (h.bringBack.getD h) h]

theorem drainQueue {cell n q k} (h : s.Canonical) : (State.drainQueue cell n q k s).Canonical := by
  induction k generalizing s with
  | zero => exact h
  | succ k ih =>
    unfold State.drainQueue
    split
    · exact h
    · split
      exacts [h, ih h.spillEntry]

theorem parks {cell n k} (h : s.Canonical) : (State.parks cell n k s).Canonical := by
  induction k generalizing s with
  | zero => exact h
  | succ k ih =>
    unfold State.parks
    split
    · exact h
    · split
      exacts [h, ih h.drainQueue]

theorem breakSet {cell x e} (h : s.Canonical) : (s.breakSet cell x e).Canonical := h.cancelWait.modCell.spillFull

theorem spillSet {cell x m es} (h : s.Canonical) : (State.spillSet cell x m es s).Canonical := by
  induction es generalizing m s with
  | nil => exact h.gcTiles
  | cons e es ih =>
    unfold State.spillSet
    split
    · exact ih h
    · split
      · exact h.breakSet
      · rename_i s1 e1
        have h1 : s1.Canonical := h.tileBlock _ e1
        exact ih h1.modCell

theorem execSpaceClaimSpill {cell} (h : s.Canonical) : CanonicalNext (Machine.execSpaceClaimSpill cell s) := by
  unfold Machine.execSpaceClaimSpill
  extract_lets c
  refine .next ?_
  split
  · exact h
  · split
    exacts [h.spillEntry, h.spillSet.progress, h]

theorem execSpilledSetReturn {cell} (h : s.Canonical) : CanonicalNext (Machine.execSpilledSetReturn cell s) := by
  unfold Machine.execSpilledSetReturn
  refine .next ?_
  split
  · refine .foldl_fst h fun p e hp => ?_
    split
    · rename_i st e1
      split at e1
      · have ht : st.Canonical := hp.seatTile _ e1
        exact ht.progress
      · cases e1
    · exact hp
  · exact h

theorem execWatchdogFirstExpiry {asid} (h : s.Canonical) : CanonicalNext (Machine.execWatchdogFirstExpiry asid s) := by
  unfold Machine.execWatchdogFirstExpiry
  refine .next ?_
  split
  · exact h
  · split
    · exact h
    · extract_lets s1
      have h1 : s1.Canonical := by
        unfold s1
        refine h.foldl fun st ht c => ?_
        split
        exacts [ht.parks, ht]
      exact h1.modCtx

theorem writeDump {asid x d} (h : s.Canonical) : (s.writeDump asid x d).Canonical := h.writeMem

theorem execWatchdogSecondExpiry {asid} (h : s.Canonical) : CanonicalNext (Machine.execWatchdogSecondExpiry asid s) := by
  unfold Machine.execWatchdogSecondExpiry
  refine .next ?_
  split
  exacts [h, .ite h h.writeDump.modCtx.takeTrap]

/-! ### Accumulators, and the start of a formed set -/

theorem settleAcc {f a} (h : s.Canonical) : (s.settleAcc f a).Canonical := by
  unfold State.settleAcc
  split
  exacts [h.commitWith fun _ ht => ht.modCell, h.fail]

theorem runAcc {g} (h : s.Canonical) : CanonicalNext (Machine.runAcc s g) := h.runFiring fun _ => h.settleAcc

theorem operate {exec f i} (h : s.Canonical) (hx : KeepsCanonical exec) : CanonicalNext (s.operate exec f i) := by
  unfold State.operate
  split
  exacts [h.raise, hx _ _ h]

/-- The trial run with the flags cleared only decides whether the firing is raised: the state goes on from `s`. -/
theorem break_ {exec f i} (h : s.Canonical) (hx : KeepsCanonical exec) : CanonicalNext (s.break_ exec f i) := by
  unfold State.break_
  extract_lets clear
  split
  · split
    exacts [h.operate hx, h.raise]
  · trivial
  · trivial

theorem start {exec id st} (h : s.Canonical) (hx : KeepsCanonical exec) : CanonicalNext (s.start exec id st) := by
  unfold State.start
  split
  · exact hx _ _ h
  · split
    exact CanonicalNext.of_ite (h.break_ hx) (h.operate hx)

/-! ### Page walks and TLBs -/

theorem tlbTouch {cell e} (h : s.Canonical) : (s.tlbTouch cell e).Canonical := .ite h.modCell h

theorem tlbFill {die cells e} (h : s.Canonical) : (s.tlbFill die cells e).Canonical := .foldl h fun _ ht _ => ht.modCell

theorem requestWalk {f va} (h : s.Canonical) : (s.requestWalk f va).Canonical := .ite h (.ite h h)

theorem wakeWalkers {die} (h : s.Canonical) : (s.wakeWalkers die).Canonical := h

theorem endWalk {w} (h : s.Canonical) : (s.endWalk w).Canonical := .wakeWalkers h

theorem walkDone {w} (h : s.Canonical) : (s.walkDone w).Canonical := by
  unfold State.walkDone
  split
  · exact h.tlbFill.endWalk
  · extract_lets prefs rest s1
    have h1 : s1.Canonical := h.foldl fun _ ht _ => ht.modCell
    exact .ite h1.endWalk h1
  · extract_lets who slot s1 addr
    have h1 : s1.Canonical := by
      unfold s1
      split
      exacts [h.logPoison, h]
    refine .endWalk (h1.foldl fun st ht p => ?_)
    split
    · exact ht
    · extract_lets told
      have htold {c t} (hc : t.Canonical) : (told c t).Canonical := hc.modCell
      split
      exacts [htold ht, htold ht.freeze]

theorem execPageWalkDone {n} (h : s.Canonical) : CanonicalNext (Machine.execPageWalkDone n s) := by
  unfold Machine.execPageWalkDone
  refine .next ?_
  split
  exacts [.ite h.walkDone h, h]

/-! ### Attars -/

theorem noteBinding {asid n cell slot} (h : s.Canonical) : (s.noteBinding asid n cell slot).Canonical := by
  unfold State.noteBinding
  split
  exacts [h, .ite h h.logArea]

theorem measure {asid meas} (h : s.Canonical) : (s.measure asid meas).Canonical := by
  unfold State.measure
  split
  exacts [h, h.setCtx.writeMem]

theorem bankLoaded {cell n} (h : s.Canonical) : (Machine.bankLoaded s cell n).Canonical := by
  unfold Machine.bankLoaded
  split
  · exact h
  · extract_lets fail s1
    have hf {t} (ht : t.Canonical) : (fail t).Canonical := ht.modCell
    have h1 : s1.Canonical := h.noteBinding
    split
    · extract_lets pa data raw s2
      have h2 : s2.Canonical := h1.logArea
      split
      · exact hf h1
      · split
        · split
          exacts [h1.modCell.raiseCause, hf h1.freeze]
        · exact .ite h2.measure.modCell (hf h2)
    · exact h.modCell

theorem execAttarBankLoad {cell n} (h : s.Canonical) : CanonicalNext (Machine.execAttarBankLoad cell n s) := h.bankLoaded

theorem runXop {f b k w} (h : s.Canonical) : (s.runXop f b k w).Canonical := by
  unfold State.runXop
  extract_lets s1
  have h1 : s1.Canonical := by
    unfold s1
    split
    exacts [h.fail, h.commit, h.commitWith fun _ ht => ht.modCell]
  exact .ite h1 h1.modCell

theorem execXop {n w} (h : s.Canonical) : CanonicalNext (Machine.execXop n w s) := by
  unfold Machine.execXop
  refine h.runFiring fun _ => ?_
  extract_lets s0
  have h0 : s0.Canonical := h.noteBinding
  split
  · exact h0.raise
  · split
    · exact h0.raise
    · split
      · split
        exacts [h, h0.modCell.raise, .ite h.runXop h0.runXop]
      · split
        exacts [h.setCell, h]

/-! ### Load streams and reads of an image -/

theorem applyStream {asid plane g ws} (h : s.Canonical) : (s.applyStream asid plane g ws).Canonical := by
  unfold State.applyStream
  extract_lets s1 at_ s2
  have h1 : s1.Canonical := h.foldl fun _ ht _ => ht.modCell
  have h2 : s2.Canonical := h1.modCtx
  split
  exacts [.ite (h2.foldl fun _ ht _ => .ite ht.modCell ht) h2, h2]

theorem clearPlane {asid plane} (h : s.Canonical) : (s.clearPlane asid plane).Canonical := by
  unfold State.clearPlane
  split
  exacts [h, (h.foldl fun _ ht _ => ht.modCell).modCtx]

theorem dispatchPage {asid va fresh} (h : s.Canonical) : (s.dispatchPage asid va fresh).Canonical := by
  unfold State.dispatchPage
  split
  · exact h
  · split
    · exact h
    · split
      · exact h.tlbFill
      · exact .wait (.ite h h)
      · extract_lets s1
        have h1 : s1.Canonical := by
          unfold s1
          split
          exacts [h.logPoison, h]
        refine .bad ?_
        split
        exacts [h1.freeze, h1]

theorem logImage {asid va pa n} (h : s.Canonical) : (s.logImage asid va pa n).Canonical :=
  h.foldl fun _ ht _ => .ite ht.logPoison ht

theorem readParts {asid l} (h : s.Canonical) : (State.readParts asid l s).Canonical := by
  induction l generalizing s with
  | nil => exact h
  | cons p t ih =>
    unfold State.readParts
    split
    · rename_i e
      exact h.dispatchPage.of_wait e
    · rename_i e
      exact h.dispatchPage.of_bad e
    · rename_i e
      have h1 := h.dispatchPage.of_ok e
      refine .ite h1 ?_
      extract_lets s2
      have h2 : s2.Canonical := .ite h1 h1.logImage
      split
      · rename_i e2
        exact (ih h2).of_ok e2
      · rename_i e2
        exact (ih h2).of_wait e2
      · rename_i e2
        exact (ih h2).of_bad e2

theorem readImage {asid off n} (h : s.Canonical) : (s.readImage asid off n).Canonical := by
  unfold State.readImage
  split
  · exact h
  · split
    exacts [h, h.readParts]

theorem readHeader {asid} (h : s.Canonical) : (s.readHeader asid).Canonical := by
  unfold State.readHeader
  split
  · rename_i e
    exact h.readImage.of_wait e
  · rename_i e
    exact h.readImage.of_bad e
  · rename_i e
    have h1 := h.readImage.of_ok e
    split
    · rename_i e1
      exact h1.readImage.of_wait e1
    · rename_i e1
      exact h1.readImage.of_bad e1
    · rename_i e1
      exact h1.readImage.of_ok e1

theorem readSegs {asid l} (h : s.Canonical) : (State.readSegs asid l s).Canonical := by
  induction l generalizing s with
  | nil => exact h
  | cons p t ih =>
    unfold State.readSegs
    split
    · rename_i e
      exact h.readImage.of_wait e
    · rename_i e
      exact h.readImage.of_bad e
    · rename_i e
      have h1 := h.readImage.of_ok e
      split
      · rename_i e2
        exact (ih h1).of_ok e2
      · rename_i e2
        exact (ih h1).of_wait e2
      · rename_i e2
        exact (ih h1).of_bad e2

theorem entryPorts {asid k} (h : s.Canonical) : (s.entryPorts asid k).Canonical := by
  unfold State.entryPorts
  split
  · rename_i e
    exact h.readHeader.of_wait e
  · rename_i e
    exact h.readHeader.of_bad e
  · rename_i e
    have h1 := h.readHeader.of_ok e
    split
    · exact h1
    · split
      · rename_i e1
        exact h1.readSegs.of_wait e1
      · rename_i e1
        exact h1.readSegs.of_bad e1
      · rename_i e1
        have h2 := h1.readSegs.of_ok e1
        split
        · split
          exacts [h2, h2]
        · exact h2

/-! ### Frame instructions -/

theorem liveFrame {asid i b} (h : s.Canonical) : (s.liveFrame asid i b).Canonical := by
  unfold State.liveFrame
  split
  exacts [h, h.setFrame.setPool]

theorem allocFrame {asid b} (h : s.Canonical) : CanonicalIn (·.2) (s.allocFrame asid b) :=
  .of_bind fun _ => .of_map fun _ => h.liveFrame

theorem waitFrame {f v depth n} (h : s.Canonical) : (s.waitFrame f v depth n).Canonical := h.hold.modCtx

theorem askResidency {f child} (h : s.Canonical) : (s.askResidency f child).Canonical := h.hold.modCtx

theorem spawnCommit {f child} (h : s.Canonical) : (Machine.spawnCommit s f child).Canonical := h.modCtx.commit

theorem spawnGrant {f share} (h : s.Canonical) : (Machine.spawnGrant s f share).Canonical := by
  unfold Machine.spawnGrant
  split
  · exact h.raiseRemote
  · split
    · rename_i s1 _ e _
      have h1 : s1.Canonical := h.allocFrame _ e
      extract_lets k
      split
      · exact h1.spawnCommit
      · split
        · split
          · rename_i e1
            exact (h1.entryPorts.of_ok e1).spawnCommit
          · rename_i e1
            exact (h1.entryPorts.of_wait e1).askResidency
          · rename_i e1
            exact (h1.entryPorts.of_bad e1).unallocFrame.raise
        · exact h1.askResidency
    · exact h

theorem tryFallback {f} (h : s.Canonical) : (Machine.tryFallback s f).Canonical := h.commit

theorem askFrame {f isTry} (h : s.Canonical) : (Machine.askFrame s f isTry).Canonical := by
  unfold Machine.askFrame
  split
  · exact h
  · extract_lets d
    split
    · exact .ite h.tryFallback h.raise
    · split
      exacts [h.spawnGrant, .ite h.tryFallback h.waitFrame]

theorem doSpawn {w f} (h : s.Canonical) : (Machine.doSpawn w s f).Canonical := by
  unfold Machine.doSpawn
  split
  exacts [h.raise, h.askFrame]

theorem doCall {w f} (h : s.Canonical) : (Machine.doCall w s f).Canonical := by
  unfold Machine.doCall
  split
  exacts [h.raise, h.askFrame]

theorem execHeldFrameGrant {asid} (h : s.Canonical) : CanonicalNext (Machine.execHeldFrameGrant asid s) := by
  unfold Machine.execHeldFrameGrant
  refine .next ?_
  split
  · exact h
  · split
    · exact h
    · split
      · exact h
      · split
        exacts [h.spawnGrant, h]

theorem allocGang {f n k is} (h : s.Canonical) : (State.allocGang f n k s is).1.Canonical := by
  induction k generalizing s is with
  | zero => exact h
  | succ k ih =>
    unfold State.allocGang
    split
    · exact h
    · rename_i s1 e
      have h1 : s1.Canonical := h.allocFrame _ e
      exact ih h1

theorem setAside {asid n} (h : s.Canonical) : (s.setAside asid n).Canonical := h.modCtx.modPool

theorem gangCommit {f n} (h : s.Canonical) : (Machine.gangCommit s f n).Canonical := by
  unfold Machine.gangCommit
  split
  · exact h.raiseRemote
  · extract_lets s0 live
    have h0 : s0.Canonical := h.modCtx
    split
    rename_i e
    exact (h0.allocGang.of_fst e).commitWith fun _ ht => ht.sendSide.foldl fun _ h1 _ => h1.sendSide

theorem doGang {w f} (h : s.Canonical) : (Machine.doGang w s f).Canonical := by
  unfold Machine.doGang
  extract_lets pre
  clear_value pre
  split
  · exact h.raise
  · split
    · exact h
    · exact .ite h.raise (.ite (.ite h.tryFallback h.raise)
        (.ite (.ite h.gangCommit h.waitFrame.setAside) (.ite h.tryFallback h.waitFrame)))

theorem execGangGrant {asid} (h : s.Canonical) : CanonicalNext (Machine.execGangGrant asid s) := by
  unfold Machine.execGangGrant
  refine .next ?_
  split
  · exact h
  · split
    · exact h
    · split
      · split
        exacts [h, h.modCtx.modPool.gangCommit.grantDue]
      · exact h

theorem doRet {w f} (h : s.Canonical) : (Machine.doRet w s f).Canonical := by
  unfold Machine.doRet
  split
  exacts [h.fail, h.commitWith fun _ ht => ht.endOwn]

theorem doFend {w f} (h : s.Canonical) : (Machine.doFend w s f).Canonical := by
  unfold Machine.doFend
  split
  exacts [h.raise, h.commitWith fun _ ht => ht.endOwn]

theorem doKillf {x f} (h : s.Canonical) : (Machine.doKillf x s f).Canonical := by
  unfold Machine.doKillf
  split
  · exact h
  · split
    exacts [h.raise, h.commitWith fun _ ht => ht.endNamed]

/-! ### What homes do, and the replies and answers of memory operations -/

theorem modOp {id g} (h : s.Canonical) : (s.modOp id g).Canonical := h

theorem dropOp {id} (h : s.Canonical) : (s.dropOp id).Canonical := h

theorem logOp {o a src} (h : s.Canonical) : (s.logOp o a src).Canonical := .ite h.modOp h.logPoison

theorem takeArena {o a va value kind info} (h : s.Canonical) : CanonicalIn (·.2) (s.takeArena o a va value kind info) := by
  unfold State.takeArena
  split
  · exact .none
  · refine .of_map fun e => ?_
    extract_lets u
    have hu : u.Canonical := h.writeMem
    exact hu

theorem freeArena {e} (h : s.Canonical) : (s.freeArena e).Canonical := h.writeMem

theorem answerOp {o bytes bad} (h : s.Canonical) : (s.answerOp o bytes bad).Canonical := by
  unfold State.answerOp
  extract_lets s1 s2
  have h1 : s1.Canonical := by
    unfold s1
    split
    exacts [h.freeArena, h]
  have h2 : s2.Canonical := by
    unfold s2
    split
    exacts [h1.logOp, h1]
  exact h2.modOp

theorem retest {pa} (h : s.Canonical) : (s.retest pa).Canonical := by
  unfold State.retest
  extract_lets bad
  refine h.foldl fun st ht o => ?_
  split
  exacts [.ite (.ite ht.answerOp ht) ht, ht]

theorem retestAll (h : s.Canonical) : s.retestAll.Canonical := by
  unfold State.retestAll
  refine h.foldl fun st ht o => ?_
  split
  exacts [.ite ht.retest ht, ht]

theorem homeWrite {pa bs} (h : s.Canonical) : (s.homeWrite pa bs).Canonical := h.writeMem.retest

theorem applyStore {o a} (h : s.Canonical) : (s.applyStore o a).Canonical := by
  unfold State.applyStore
  extract_lets s1 s2
  have h1 : s1.Canonical := h.foldl fun _ ht _ => ht.writeMem
  have h2 : s2.Canonical := .ite h1.setPoison (.ite h1.clearPoison h1)
  exact h2.retest

theorem reducePart {o var fmt p} (h : s.Canonical) : (s.reducePart o var fmt p).1.Canonical :=
  .foldl_fst h fun _ _ hq => hq.writeNat

theorem applyAccess {o a} (h : s.Canonical) : (s.applyAccess o a).Canonical := by
  unfold State.applyAccess
  extract_lets bad old unapplied
  have hu {bytes side} : (unapplied bytes side).Canonical := h.logOp.modOp
  split
  · exact .modOp (.ite h.logOp h)
  · exact .modOp (.ite h.logOp h)
  · exact h.applyStore
  · exact .ite hu h.homeWrite.modOp
  · exact .ite hu (.modOp (.ite h.homeWrite h))
  · exact .ite hu (.ite h.homeWrite.modOp h.homeWrite.modOp)
  · refine .ite h.logOp (.modOp (.retest ?_))
    exact .foldl_fst h fun _ _ hq => hq.reducePart
  · exact h.zeroLines.retest
  · exact h
  · exact h
  · exact h
  · exact h
  · exact h

theorem refuse {o cls code} (h : s.Canonical) : (s.refuse o cls code).Canonical := h.modOp

theorem noteArena {o a} (h : s.Canonical) : (s.noteArena o a).Canonical := by
  unfold State.noteArena
  split
  exacts [h, h.logArea]

theorem listOp {o a value kind info} (h : s.Canonical) : (s.listOp o a value kind info).Canonical := by
  unfold State.listOp
  extract_lets s1
  have h1 : s1.Canonical := h.noteArena
  split
  · exact h1.refuse
  · rename_i s2 e
    have h2 : s2.Canonical := h1.takeArena _ e
    exact h2.modOp

theorem setWord {pa w asid} (h : s.Canonical) : (s.setWord pa w asid).Canonical := h

theorem clearWords {p} (h : s.Canonical) : (s.clearWords p).Canonical := h

theorem acceptAccess {o k a} (h : s.Canonical) : (s.acceptAccess o k a).Canonical := by
  unfold State.acceptAccess
  generalize o.kind = kind
  cases kind with
  | iput v =>
    refine .ite h.logOp (.ite h.refuse ?_)
    extract_lets s1 ts s2 u
    have h2 : s2.Canonical := h.writeMem.setWord.foldl fun _ ht _ => ht.answerOp
    have hu : u.Canonical := h2.retest
    exact hu
  | itake => exact .ite h.answerOp (.ite h.listOp.setWord h.listOp)
  | iclr => exact .ite h.logOp (.ite h.refuse h.clearWords)
  | waitv cond fmt b => exact .ite h.answerOp h.listOp
  | ared op fmt =>
    refine .ite h.noteArena.modOp ?_
    split
    · exact h.noteArena.refuse.modOp
    · rename_i e
      exact h.noteArena.takeArena _ e
  | _ => exact h

theorem homeAccess {id k} (h : s.Canonical) : (s.homeAccess id k).Canonical := by
  unfold State.homeAccess
  split
  · exact h
  · split
    exacts [h, .ite h (.modOp (.ite h.acceptAccess h.applyAccess))]

theorem execHomeAccess {op acc} (h : s.Canonical) : CanonicalNext (Machine.execHomeAccess op acc s) := h.homeAccess

theorem ask {o} (h : s.Canonical) : (s.ask o).Canonical := h

theorem askPage {asid pa va n cell leaf op} (h : s.Canonical) : (s.askPage asid pa va n cell leaf op).Canonical := h

theorem giveUp {which} (h : s.Canonical) : (s.giveUp which).Canonical := h

theorem farAnswer {id r} (h : s.Canonical) : (s.farAnswer id r).Canonical := by
  unfold State.farAnswer
  split
  exacts [h, .ite (.countOrphan h) h]

theorem releaseKeys {o} (h : s.Canonical) : (s.releaseKeys o).Canonical := by
  unfold State.releaseKeys
  split
  · refine h.foldl fun st ht p => ?_
    extract_lets a
    split
    · exact ht
    · split
      · exact ht
      · split
        exacts [ht.freeArena, ht]
  · exact h

theorem acceptanceReply {id} (h : s.Canonical) : (s.acceptanceReply id).Canonical := by
  unfold State.acceptanceReply
  split
  · exact h
  · split
    · exact h
    · split
      · extract_lets ans u
        have hu : u.Canonical := h.releaseKeys.dropOp
        exact hu
      · extract_lets ans u s1
        have hu : u.Canonical := h.modOp
        have h1 : s1.Canonical := h.modOp
        exact .ite hu (.ite h1 h1)
      · exact h.releaseKeys.dropOp.raise
      · exact h.commitWith fun _ ht => .ite ht.modOp.ask ht.modOp

theorem execAcceptanceReply {op} (h : s.Canonical) : CanonicalNext (Machine.execAcceptanceReply op s) := h.acceptanceReply

theorem sendFresh {f tag v ds} (h : s.Canonical) : (s.sendFresh f tag v ds).Canonical := by
  unfold State.sendFresh
  split
  exacts [h.send, .foldl h fun _ ht _ => ht.sendRemote]

theorem orHomeFlags {asid fl} (h : s.Canonical) : (s.orHomeFlags asid fl).Canonical := by
  unfold State.orHomeFlags
  split
  exacts [h, h.setCtx.writeMem]

theorem opFlags {o} (h : s.Canonical) : (s.opFlags o).Canonical := .ite h (.ite h.orFlags h.orHomeFlags)

theorem deliverResult {o side v} (h : s.Canonical) : (s.deliverResult o side v).Canonical := by
  unfold State.deliverResult
  extract_lets f ds answer toks
  split
  exacts [h.modCell.send.gcTiles, .sendFar h, h.sendFresh]

theorem finishOp {o} (h : s.Canonical) : (s.finishOp o).Canonical := by
  unfold State.finishOp
  split
  · extract_lets ans u
    have hu : u.Canonical := h.dropOp
    exact hu
  · exact h.dropOp.opFlags.deliverResult.progress

theorem abandon {o} (h : s.Canonical) : (s.abandon o).Canonical := h.modOp.gcTiles

theorem refusedLate {o a cls code} (h : s.Canonical) : (s.refusedLate o a cls code).Canonical := h.abandon.takeTrap

theorem dropSpent {id} (h : s.Canonical) : (s.dropSpent id).Canonical := by
  unfold State.dropSpent
  split
  exacts [h, .ite h.dropOp h]

theorem remoteAnswer {o r} (h : s.Canonical) : (s.remoteAnswer o r).Canonical := by
  unfold State.remoteAnswer
  split
  · exact h
  · split
    · exact h
    · split
      · exact .modOp (.ite h.logOp h)
      · split
        · exact .modOp (.ite h.logOp h)
        · split
          · exact h
          · split
            · exact h.countOrphan.modOp.dropSpent
            · split
              exacts [.ite h.refuse.modOp (.ite h.modOp h.modOp.refusedLate), .modOp (.ite h.logOp h)]

theorem dropWaiting {o} (h : s.Canonical) : (s.dropWaiting o).Canonical := by
  unfold State.dropWaiting
  split
  exacts [h.modCell.gcTiles, h]

theorem remoteTimeout {id} (h : s.Canonical) : (s.remoteTimeout id).Canonical := by
  unfold State.remoteTimeout
  split
  · exact h
  · split
    exacts [h, .ite h (.takeTrap (.ite h.abandon h.abandon.dropWaiting))]

theorem answerInTime {o r} (h : s.Canonical) : (s.answerInTime o r).Canonical := by
  unfold State.answerInTime
  extract_lets s1
  have h1 : s1.Canonical := h.remoteTimeout
  split
  exacts [h1.remoteAnswer, h1]

theorem opPerformed {id reply} (h : s.Canonical) : (s.opPerformed id reply).Canonical := by
  unfold State.opPerformed
  split
  · split
    exacts [h.farAnswer, h]
  · extract_lets s1
    have h1 : s1.Canonical := by
      unfold s1
      split
      exacts [h.answerInTime, h]
    split
    exacts [.ite h1.finishOp h1, h1]

theorem execMemoryOpPerformed {op reply} (h : s.Canonical) : CanonicalNext (Machine.execMemoryOpPerformed op reply s) :=
  h.opPerformed

theorem execRemoteTimeout {op} (h : s.Canonical) : CanonicalNext (Machine.execRemoteTimeout op s) := h.remoteTimeout

theorem claimAnswered {leaf} (h : s.Canonical) : (s.claimAnswered leaf).Canonical := h

theorem askZeros {z} (h : s.Canonical) : (s.askZeros z).Canonical := h.askPage

theorem failClaim {leaf cls code freeze aux} (h : s.Canonical) : (s.failClaim leaf cls code freeze aux).Canonical :=
  .foldl h fun _ ht _ => (ht.foldl fun _ h1 _ => h1.modCell).endWalk

theorem zeroClaim {n} (h : s.Canonical) : (s.zeroClaim n).Canonical := by
  unfold State.zeroClaim
  split
  · exact h
  · split
    · exact h
    · split
      · exact h
      · extract_lets e z1 s1 s2 u
        have h1 : s1.Canonical := h.writeNat
        have h2 : s2.Canonical := .ite h1.askZeros h1
        have hu : u.Canonical := h2.retest
        split
        · exact h.failClaim
        · split
          · exact h.claimAnswered
          · split
            exacts [h.failClaim, hu]

theorem execZeroClaim {n} (h : s.Canonical) : CanonicalNext (Machine.execZeroClaim n s) := h.zeroClaim

theorem zeroPage {frame} (h : s.Canonical) : (s.zeroPage frame).Canonical := by
  unfold State.zeroPage
  split
  · exact h
  · extract_lets a out s1
    have h1 : s1.Canonical := h.zeroLines
    refine h1.foldl fun st ht o => ?_
    split
    exacts [.ite ht.retest ht, ht]

theorem zeroFillDone {n} (h : s.Canonical) : (s.zeroFillDone n).Canonical := by
  unfold State.zeroFillDone
  split
  · exact h
  · refine .ite h ?_
    extract_lets refused late s1 e e1 s2
    have h2 : s2.Canonical := h.giveUp.zeroPage.homeWrite
    exact .ite h2.failClaim (.ite h2.failClaim h2.claimAnswered)

theorem execZeroFillDone {n} (h : s.Canonical) : CanonicalNext (Machine.execZeroFillDone n s) := h.zeroFillDone

/-! ### Memory instructions -/

theorem readDesc {f w} (h : s.Canonical) : (s.readDesc f w).Canonical := by
  unfold State.readDesc
  split
  exacts [.ite h.logPoison h, h]

theorem addOp {o} (h : s.Canonical) : (s.addOp o).Canonical := .ask h

theorem issue {f o} (h : s.Canonical) : (s.issue f o).Canonical :=
  .ite h.raiseRemote (.ite h.hold.addOp (h.commitWith fun _ ht => ht.addOp))

theorem awaitWalks {f vas} (h : s.Canonical) : (s.awaitWalks f vas).Canonical := h.hold.foldl fun _ ht _ => ht.requestWalk

theorem reserveRoom {f need} (h : s.Canonical) : CanonicalIn (·.1) (s.reserveRoom f need) := by
  unfold State.reserveRoom
  split
  · split
    exacts [.of_map fun _ => h.modCell, .none]
  · exact .some h

theorem failLoad {f t} (h : s.Canonical) : (s.failLoad f t).Canonical := .ite h.raise.gcTiles h.fail

theorem runPlan {f w a} (h : s.Canonical) : (s.runPlan f w a).Canonical := by
  unfold State.runPlan
  split
  · exact h.failLoad
  · extract_lets ps
    split
    · exact h.raise
    · split
      · exact h.noSpace
      · rename_i s1 _ e
        have h1 : s1.Canonical := h.reserveRoom _ e
        split
        · exact h1.failLoad
        · exact h1.raiseFrozen.gcTiles
        · exact h1.awaitWalks
        · extract_lets s2
          have h2 : s2.Canonical := h1.foldl fun _ ht _ => ht.tlbTouch
          split
          exacts [h2.failLoad, h2.issue]

theorem runTensor {w plan} (h : s.Canonical) : CanonicalNext (Machine.runTensor w s plan) :=
  h.runFiring fun _ => .ite h.runPlan h.readDesc.runPlan

theorem runMem {w plan} (h : s.Canonical) : CanonicalNext (Machine.runMem w s plan) := h.runFiring fun _ => h.runPlan

theorem doPref {w f} (h : s.Canonical) : (Machine.doPref w s f).Canonical := by
  unfold Machine.doPref
  split
  · exact h.raise
  · extract_lets open' ts accs p s1
    have h1 : s1.Canonical := h.foldl fun _ ht _ => ht.tlbTouch
    split
    exacts [h.awaitWalks, h1.issue]

theorem execPref {w} (h : s.Canonical) : CanonicalNext (Machine.execPref w s) := h.runFiring fun _ => h.readDesc.doPref

theorem atScope {ids scope} (h : s.Canonical) : (s.atScope ids scope).Canonical := h

theorem doFence {w f} (h : s.Canonical) : (Machine.doFence w s f).Canonical := by
  unfold Machine.doFence
  split
  exacts [h.raise, .ite h.commit h.atScope.hold]

theorem execFenceRelease {cell sid} (h : s.Canonical) : CanonicalNext (Machine.execFenceRelease cell sid s) := by
  unfold Machine.execFenceRelease
  refine .next ?_
  split
  · exact h
  · split
    · split
      · split
        exacts [h.settle, h]
      · exact h
    · exact h

/-! ### After a trap: records, delivery, resolution -/

theorem setRecord {asid i r} (h : s.Canonical) : (s.setRecord asid i r).Canonical := h.modTraps.publishRec

theorem execTrapRecordWrite {asid} (h : s.Canonical) : CanonicalNext (Machine.execTrapRecordWrite asid s) := by
  unfold Machine.execTrapRecordWrite
  refine .next ?_
  split
  · exact h
  · split
    exacts [h.modCtx.publishRec, h]

theorem execTrapDelivery {asid} (h : s.Canonical) : CanonicalNext (Machine.execTrapDelivery asid s) := by
  unfold Machine.execTrapDelivery
  refine .next ?_
  split
  · exact h
  · split
    · exact h
    · split
      · exact h
      · extract_lets b
        split
        · rename_i s1 _ e _
          have h1 : s1.Canonical := h.allocFrame _ e
          exact h1.setFrame.modTraps.send
        · exact h

theorem execHandlerFault {asid} (h : s.Canonical) : CanonicalNext (Machine.execHandlerFault asid s) := by
  unfold Machine.execHandlerFault
  refine .next ?_
  split
  · exact h
  · split
    exacts [h.setRecord, h]

theorem reached {n cell} (h : s.Canonical) : (s.reached n cell).Canonical := h

theorem execParkingBroadcastArrival {n cell} (h : s.Canonical) :
    CanonicalNext (Machine.execParkingBroadcastArrival n cell s) := by
  unfold Machine.execParkingBroadcastArrival
  refine .next ?_
  split
  · refine .ite h ?_
    extract_lets g s1 s2
    have h2 : s2.Canonical := .ite h.reached.modCell h.reached
    exact .ite h2.withdraw h2
  · exact h

theorem sendFrom {f home tag v ds} (h : s.Canonical) : (s.sendFrom f home tag v ds).Canonical :=
  h.sendTokens.foldl fun _ ht _ => ht.sendRemote

theorem sendSub {asid r q w side a} (h : s.Canonical) : (s.sendSub asid r q w side a).Canonical := by
  unfold State.sendSub
  split
  · exact h
  · extract_lets ds d f tag
    split
    exacts [h.modCell.send, h.sendFrom]

theorem sendSubs {asid r q w} (h : s.Canonical) : (s.sendSubs asid r q w).Canonical := by
  unfold State.sendSubs
  split
  exacts [.ite h.sendFrom h.sendSub.sendSub, h.sendSub.sendSub]

theorem forgetOp {o} (h : s.Canonical) : (s.forgetOp o).Canonical := .ite h.dropWaiting.abandon.dropOp h.dropWaiting.abandon

theorem refuseAgain {o q} (h : s.Canonical) : (s.refuseAgain o q).Canonical := by
  unfold State.refuseAgain
  extract_lets f s1 s2 u
  have h1 : s1.Canonical := by
    unfold s1
    split
    exacts [.ite h h, h]
  have h2 : s2.Canonical := by
    unfold s2
    split
    exacts [h1.freeze, h1]
  exact h2.takeTrap

theorem reissue {o} (h : s.Canonical) : (s.reissue o).Canonical := by
  unfold State.reissue
  extract_lets held
  clear_value held
  split
  · exact h.refuseAgain
  · extract_lets s1 s2
    have h1 : s1.Canonical := h
    have h2 : s2.Canonical := by
      unfold s2
      split
      exacts [h1.modCell, h1]
    exact h2.ask

theorem reform {asid r nowatch} (h : s.Canonical) : (s.reform asid r nowatch).Canonical := .ite h h.modCell

theorem applyForm {asid r q} (h : s.Canonical) : (s.applyForm asid r q).Canonical := by
  unfold State.applyForm
  split
  · exact h.reissue
  · extract_lets s1
    have h1 : s1.Canonical := by
      unfold s1
      split
      exacts [h.deliverResult.orFlags, h.orFlags]
    exact h1.forgetOp
  · exact h.forgetOp
  · exact .ite (h.foldl fun _ ht _ => ht.spill) h.reform
  · extract_lets s1
    have h1 : s1.Canonical := by
      unfold s1
      split
      exacts [h.sendSubs, h]
    exact h1.orFlags
  · exact h

theorem resolve {asid r q} (h : s.Canonical) : (s.resolve asid r q).2.Canonical := by
  unfold State.resolve
  split
  exacts [h.applyForm.closeRec.progress, h]

/-! ### The loader and LAUNCH_APPLY -/

theorem await {c code} (h : s.Canonical) : (s.await c code).Canonical := h

theorem complete {c code status value} (h : s.Canonical) : (s.complete c code status value).Canonical := h

theorem publishRecord {asid} (h : s.Canonical) : (s.publishRecord asid).Canonical := by
  unfold State.publishRecord
  split
  exacts [h, h.writeMem.writeMem.writeMem.writeMem.writeMem.writeMem.writeMem.writeMem]

theorem layoutSpill {asid mib} (h : s.Canonical) : (s.layoutSpill asid mib).Canonical := by
  unfold State.layoutSpill
  split
  exacts [h, .ite h.setCtx.zeroMem h.setCtx.zeroMem.writeMem]

theorem applyParams {asid p} (h : s.Canonical) : (s.applyParams asid p).Canonical := by
  unfold State.applyParams
  split
  · exact h
  · extract_lets s1 s2
    have h1 : s1.Canonical := .ite h h.layoutSpill
    exact .ite h1.modCtx h1.modCtx.setPool

theorem checkPages {asid l} (h : s.Canonical) : (State.checkPages asid l s).Canonical := by
  induction l generalizing s with
  | nil => exact h
  | cons p t ih =>
    unfold State.checkPages
    split
    · exact h
    · rename_i e
      exact h.dispatchPage.of_bad e
    · rename_i e
      have h1 := h.dispatchPage.of_ok e
      exact .ite h1 (ih h1)

theorem checkData {asid l} (h : s.Canonical) : (State.checkData asid l s).Canonical := by
  induction l generalizing s with
  | nil => exact h
  | cons p t ih =>
    unfold State.checkData
    split
    · split
      · rename_i e
        have h1 := h.checkPages.of_ok e
        exact ih h1
      · rename_i e
        exact h.checkPages.of_wait e
      · rename_i e
        exact h.checkPages.of_bad e
    · exact ih h

theorem storeLines {pa d} (h : s.Canonical) : (s.storeLines pa d).Canonical :=
  h.foldl fun _ ht _ => .retest (.ite ht.writeMem.clearPoison ht.writeMem)

theorem askStores {asid va pa d} (h : s.Canonical) : (s.askStores asid va pa d).Canonical := h.askPage

theorem writeData {asid l d} (h : s.Canonical) : (State.writeData asid l d s).2.Canonical := by
  induction l generalizing d s with
  | nil => exact h
  | cons p t ih =>
    unfold State.writeData
    split
    · rename_i e
      exact h.dispatchPage.of_wait e
    · rename_i e
      exact h.dispatchPage.of_bad e
    · rename_i e
      have h1 := h.dispatchPage.of_ok e
      exact ih (.ite h1.askStores h1.storeLines)

theorem writeDescs {x l} (h : s.Canonical) : (s.writeDescs x l).Canonical := h.zeroMem.foldl fun _ ht _ => ht.writeMem

theorem applySeg {asid x w} (h : s.Canonical) : (s.applySeg asid x w).2.Canonical := by
  cases w with
  | params p => exact h.applyParams
  | stream g ws => exact h.applyStream
  | attar d => exact h.writeMem
  | desc l => exact h.writeDescs
  | data a d => exact h.writeData
  | handlers l => exact h.modCtx
  | nothing => exact h

theorem applySegs {asid x l} (h : s.Canonical) : (State.applySegs asid x l s).2.Canonical := by
  induction l generalizing s with
  | nil => exact h
  | cons p t ih =>
    unfold State.applySegs
    split
    · rename_i e
      exact ih (h.measure.applySeg.of_snd e)
    · rename_i e
      exact h.measure.applySeg.of_snd e

theorem beforeLoad {asid x segs} (h : s.Canonical) : (s.beforeLoad asid x segs).Canonical := by
  unfold State.beforeLoad
  extract_lets has s1 s2 s3 s4 s5
  have h2 : s2.Canonical := h.clearPlane.foldl fun _ ht _ => ht.modCell
  have h3 : s3.Canonical := .ite h2 h2.applyParams
  have h4 : s4.Canonical := .ite h3 h3.writeDescs
  have h5 : s5.Canonical := .ite h4 h4.zeroMem
  exact .ite h5 h5.modCtx

theorem rejectLaunch {asid l} (h : s.Canonical) : (s.rejectLaunch asid l).Canonical := h.modCtx.complete

theorem startLaunch {asid l ds} (h : s.Canonical) : (s.startLaunch asid l ds).Canonical := by
  unfold State.startLaunch
  extract_lets s1 b s2
  have h1 : s1.Canonical := h.modCtx
  have h2 : s2.Canonical := h1.liveFrame
  split
  exacts [h2, h2.send.progress]

theorem setImage {asid id} (h : s.Canonical) : (s.setImage asid id).Canonical := h.modCtx.publishRecord

theorem loaded {asid l id ds} (h : s.Canonical) : (s.loaded asid l id ds).Canonical :=
  .ite h.modCtx (.ite h.giveUp.rejectLaunch h.giveUp.setImage.startLaunch)

theorem applyImage {asid x l v} (h : s.Canonical) : (s.applyImage asid x l v).Canonical := by
  unfold State.applyImage
  split
  · rename_i e
    exact h.readSegs.of_wait e
  · rename_i e
    exact (h.readSegs.of_bad e).rejectLaunch
  · rename_i e
    have h1 := h.readSegs.of_ok e
    split
    · exact h1.rejectLaunch
    · split
      · rename_i e1
        exact h1.checkData.of_wait e1
      · rename_i e1
        exact (h1.checkData.of_bad e1).rejectLaunch
      · rename_i e1
        have h2 := h1.checkData.of_ok e1
        split
        rename_i e2
        have h3 := h2.beforeLoad.applySegs.of_snd e2
        exact .ite h3.modCtx.publishRecord.loaded h3.modCtx.publishRecord.giveUp.rejectLaunch

theorem loadImage {asid x l table v} (h : s.Canonical) : (s.loadImage asid x l table v).Canonical := by
  unfold State.loadImage
  split
  · exact h.rejectLaunch
  · split
    · rename_i e
      exact (Fetched.Canonical.ite (.ok h) h.readImage).of_wait e
    · rename_i e
      exact ((Fetched.Canonical.ite (.ok h) h.readImage).of_bad e).rejectLaunch
    · rename_i e
      have h1 := (Fetched.Canonical.ite (.ok h) h.readImage).of_ok e
      exact .ite h1.rejectLaunch h1.applyImage

theorem execLaunchApply {asid} (h : s.Canonical) : CanonicalNext (Machine.execLaunchApply asid s) := by
  unfold Machine.execLaunchApply
  refine .next ?_
  split
  · exact h
  · split
    · exact h
    · split
      · exact h
      · split
        · exact h.loaded
        · split
          · rename_i e
            exact h.readHeader.of_wait e
          · rename_i e
            exact (h.readHeader.of_bad e).rejectLaunch
          · rename_i e
            have h1 := h.readHeader.of_ok e
            split
            · exact h1.rejectLaunch
            · split
              · split
                · rename_i e1
                  exact h1.readSegs.of_wait e1
                · rename_i e1
                  exact (h1.readSegs.of_bad e1).rejectLaunch
                · rename_i e1
                  have h2 := h1.readSegs.of_ok e1
                  split
                  exacts [h2.startLaunch, h2.rejectLaunch]
              · exact .ite h1.modCtx.loadImage h1.modCtx

/-! ### Trap and debug instructions -/

theorem request {f k} (h : s.Canonical) : (s.request f k).Canonical := by
  unfold State.request
  extract_lets s1
  have h1 : s1.Canonical := h.hold
  exact h1

/-- The effects of a decided request, before its commit and after it, have to keep canonical form. -/
theorem decideReq {n f pre c more} (h : s.Canonical)
    (hp : ∀ t, t.Canonical → (pre t).Canonical)
    (hm : ∀ t, t.Canonical → (more t).Canonical) : (s.decideReq n f pre c more).Canonical :=
  .ite h.raiseRemote (.commitWith (hp _ h) hm)

theorem refuseReq {f t} (h : s.Canonical) : (s.refuseReq f t).Canonical := h.raise

theorem doPark {x f} (h : s.Canonical) : (Machine.doPark x s f).Canonical := by
  unfold Machine.doPark
  split
  · exact h
  · split
    exacts [h.raise, h.request]

theorem setBreak {asid i g} (h : s.Canonical) : (s.setBreak asid i g).Canonical := by
  unfold State.setBreak
  split
  · exact h
  · extract_lets u
    have hu : u.Canonical := h.setCtx
    exact hu

theorem execParkDecided {n} (h : s.Canonical) : CanonicalNext (Machine.execParkDecided n s) := by
  unfold Machine.execParkDecided
  refine .next ?_
  split
  · exact h
  · split
    · exact h
    · split
      exacts [h.refuseReq, h.decideReq (fun _ ht => ht) (fun _ ht => .ite ht.setBreak ht)]

theorem execFrameBreakArrival {n cell} (h : s.Canonical) : CanonicalNext (Machine.execFrameBreakArrival n cell s) := by
  unfold Machine.execFrameBreakArrival
  refine .next ?_
  split
  exacts [.ite h (.ite h.reached.modCell h.reached), h]

theorem doResume {w f} (h : s.Canonical) : (Machine.doResume w s f).Canonical := by
  unfold Machine.doResume
  split
  · exact h
  · split
    exacts [h.raise, h.request]

theorem execResumeDecided {n} (h : s.Canonical) : CanonicalNext (Machine.execResumeDecided n s) := by
  unfold Machine.execResumeDecided
  refine .next ?_
  split
  · exact h
  · split
    · split
      · exact h.refuseReq
      · extract_lets q
        split
        exacts [h.decideReq (fun _ ht => ht) (fun _ ht => ht), h.decideReq (fun _ ht => ht) (fun _ ht => ht.resolve)]
    · exact h

theorem appendTrace {asid rec} (h : s.Canonical) : (s.appendTrace asid rec).Canonical := by
  unfold State.appendTrace
  split
  exacts [h, .ite h (.ite h.homeWrite.homeWrite h.homeWrite)]

theorem doTrace {w f} (h : s.Canonical) : (Machine.doTrace w s f).Canonical := by
  unfold Machine.doTrace
  split
  exacts [h.raise, h.commitWith fun _ ht => ht.appendTrace]

theorem noteWatch {f v} (h : s.Canonical) : (s.noteWatch f v).Canonical := by
  unfold State.noteWatch
  split
  exacts [h.logArea, h]

theorem doWatch {w f} (h : s.Canonical) : (Machine.doWatch w s f).Canonical := by
  unfold Machine.doWatch
  split
  · exact h
  · extract_lets s1
    have h1 : s1.Canonical := .ite h.noteWatch h
    split
    exacts [h1.raise, h1.request]

theorem doUnwatch {w f} (h : s.Canonical) : (Machine.doUnwatch w s f).Canonical := by
  unfold Machine.doUnwatch
  split
  exacts [h.raise, h.request]

theorem armWatch {asid slots v} (h : s.Canonical) : (s.armWatch asid slots v).Canonical := by
  unfold State.armWatch
  split
  · exact h
  · extract_lets kept u
    have hu : u.Canonical := h.setCtx
    exact hu

theorem stepArm {n r f slots v tag} (h : s.Canonical) : (s.stepArm n r f slots v tag).Canonical := by
  unfold State.stepArm
  split
  · exact .armWatch h
  · split
    · exact h
    · split
      exacts [h.refuseReq, h.decideReq (fun _ ht => ht) (fun _ ht => ht)]

theorem execWatchArmApplied {n} (h : s.Canonical) : CanonicalNext (Machine.execWatchArmApplied n s) := by
  unfold Machine.execWatchArmApplied
  refine .next ?_
  split
  · exact h
  · split
    exacts [h.stepArm, h]

theorem execUnwatchApplied {n} (h : s.Canonical) : CanonicalNext (Machine.execUnwatchApplied n s) := by
  unfold Machine.execUnwatchApplied
  refine .next ?_
  split
  · exact h
  · split
    exacts [h.stepArm, h]

theorem execWatchArmArrival {n cell} (h : s.Canonical) : CanonicalNext (Machine.execWatchArmArrival n cell s) := by
  unfold Machine.execWatchArmArrival
  refine .next ?_
  split
  exacts [.ite h h.reached.modCell, h]

theorem doFlags {w f} (h : s.Canonical) : (Machine.doFlags w s f).Canonical := by
  unfold Machine.doFlags
  split
  exacts [h.raise, h.request]

theorem clearHomeFlags {asid} (h : s.Canonical) : (s.clearHomeFlags asid).Canonical := by
  unfold State.clearHomeFlags
  split
  exacts [h, h.setCtx.writeMem]

theorem execFlagsDecided {n} (h : s.Canonical) : CanonicalNext (Machine.execFlagsDecided n s) := by
  unfold Machine.execFlagsDecided
  refine .next ?_
  split
  · exact h
  · split
    · split
      exacts [h.refuseReq, h.decideReq (fun _ ht => .ite ht (.ite ht.clearHomeFlags ht.setFrame)) (fun _ ht => ht)]
    · exact h

/-! ### Plane instructions, residency and sweeps -/

theorem askPlane {f o} (h : s.Canonical) : (s.askPlane f o).Canonical := h.hold.modCtx

theorem popPlane {asid} (h : s.Canonical) : (s.popPlane asid).Canonical := h.modCtx

theorem decidePlane {f pre c more} (h : s.Canonical)
    (hp : ∀ t, t.Canonical → (pre t).Canonical)
    (hm : ∀ t, t.Canonical → (more t).Canonical) : (s.decidePlane f pre c more).Canonical :=
  .ite h.raiseRemote (.commitWith (hp _ h.popPlane) hm)

theorem doLoadg {w f} (h : s.Canonical) : (Machine.doLoadg w s f).Canonical := by
  unfold Machine.doLoadg
  split
  exacts [h.raise, h.askPlane]

theorem fetchStream {asid i} (h : s.Canonical) : (s.fetchStream asid i).Canonical := by
  unfold State.fetchStream
  split
  · rename_i e
    exact h.readHeader.of_wait e
  · rename_i e
    exact h.readHeader.of_bad e
  · rename_i e _
    have h1 := h.readHeader.of_ok e
    split
    · exact h1
    · split
      · exact h1
      · split
        · rename_i e1
          exact h1.readImage.of_wait e1
        · rename_i e1
          exact h1.readImage.of_bad e1
        · rename_i e1
          have h2 := h1.readImage.of_ok e1
          split
          · exact h2
          · split
            exacts [h2, h2]
  · rename_i e _
    exact h.readHeader.of_ok e

theorem loadgEnd {f active tag r} (h : s.Canonical) : (s.loadgEnd f active tag r).Canonical := by
  unfold State.loadgEnd
  extract_lets status load
  refine h.decidePlane (fun t ht => ?_) fun _ ht => ht
  unfold load
  split
  exacts [ht, ht.measure.applyStream]

theorem execLoadgApply {asid} (h : s.Canonical) : CanonicalNext (Machine.execLoadgApply asid s) := by
  unfold Machine.execLoadgApply
  refine .next ?_
  split
  · split
    · exact h
    · exact h.raise
    · split
      · rename_i e
        exact h.fetchStream.of_wait e
      · rename_i e
        exact h.fetchStream.of_bad e
      · rename_i e
        exact (h.fetchStream.of_ok e).loadgEnd
  · exact h

theorem doDrain {w f} (h : s.Canonical) : (Machine.doDrain w s f).Canonical := by
  unfold Machine.doDrain
  split
  exacts [h.raise, h.askPlane]

theorem execDrainQuiescent {asid} (h : s.Canonical) : CanonicalNext (Machine.execDrainQuiescent asid s) := by
  unfold Machine.execDrainQuiescent
  refine .next ?_
  split
  · split
    · exact h
    · split
      exacts [h, h.raise, h.decidePlane (fun _ ht => ht) (fun _ ht => ht)]
  · exact h

theorem doSwapg {w f} (h : s.Canonical) : (Machine.doSwapg w s f).Canonical := by
  unfold Machine.doSwapg
  split
  exacts [h.raise, h.askPlane]

theorem purgePark {asid} (h : s.Canonical) : (s.purgePark asid).Canonical := by
  unfold State.purgePark
  split
  · exact h
  · extract_lets s1 s2
    have h1 : s1.Canonical := h.setCtx.foldl fun _ ht _ => ht.writeMem
    have h2 : s2.Canonical := h1.foldl fun _ ht _ => ht.releaseBlock
    exact h2.publishPark.countPurged

theorem purgeCell {asid cell} (h : s.Canonical) : (s.purgeCell asid cell).Canonical := by
  unfold State.purgeCell
  extract_lets es ws s1 s2 s3
  have h2 : s2.Canonical := h.modCell.foldl fun _ ht _ => ht.freeWayAt
  have h3 : s3.Canonical := h2.foldl fun _ ht _ => ht.releaseBlock
  exact h3.gcTiles.countPurged

theorem flipCell {asid cell} (h : s.Canonical) : (s.flipCell asid cell).Canonical := h.modCell

theorem flip {f purge} (h : s.Canonical) : (s.flip f purge).Canonical := by
  unfold State.flip
  split
  exacts [h, .modCell (.ite h.setCtx.purgePark h.setCtx)]

theorem decideSwapg {f} (h : s.Canonical) : (Machine.decideSwapg s f).Canonical := by
  unfold Machine.decideSwapg
  split
  exacts [h, h.raise, .ite h.raise (.ite h.raiseRemote h.flip)]

theorem endSwapg {f} (h : s.Canonical) : (Machine.endSwapg s f).Canonical := by
  unfold Machine.endSwapg
  split
  exacts [h.decidePlane (fun _ ht => ht) (fun _ ht => ht), h]

theorem execSwapgFlip {asid} (h : s.Canonical) : CanonicalNext (Machine.execSwapgFlip asid s) := by
  unfold Machine.execSwapgFlip
  refine .next ?_
  split
  exacts [.ite h h.decideSwapg, .ite h h.endSwapg, .ite h h.popPlane, h]

theorem execPlaneFlipArrival {n cell} (h : s.Canonical) : CanonicalNext (Machine.execPlaneFlipArrival n cell s) := by
  unfold Machine.execPlaneFlipArrival
  refine .next ?_
  split
  exacts [.ite h (.flipCell (.ite h.reached.purgeCell h.reached)), h]

theorem failResidency {f} (h : s.Canonical) : (s.failResidency f).Canonical := h.raise

theorem fetchGraph {asid k} (h : s.Canonical) : (s.fetchGraph asid k).Canonical := by
  unfold State.fetchGraph
  split
  · rename_i e
    exact h.readHeader.of_wait e
  · rename_i e
    exact h.readHeader.of_bad e
  · rename_i e _
    exact h.readHeader.of_ok e
  · rename_i e _
    have h1 := h.readHeader.of_ok e
    split
    · exact h1
    · split
      · exact h1
      · split
        · rename_i e1
          exact h1.readImage.of_wait e1
        · rename_i e1
          exact h1.readImage.of_bad e1
        · rename_i e1
          have h2 := h1.readImage.of_ok e1
          split
          · exact h2
          · split
            exacts [h2, h2]

theorem execResidencyApplyDone {asid} (h : s.Canonical) : CanonicalNext (Machine.execResidencyApplyDone asid s) := by
  unfold Machine.execResidencyApplyDone
  refine .next ?_
  split
  · split
    · split
      · rename_i e
        exact h.fetchGraph.of_wait e
      · rename_i e
        exact (h.fetchGraph.of_bad e).failResidency
      · rename_i e
        have h1 := h.fetchGraph.of_ok e
        split
        · rename_i e1
          exact h1.entryPorts.of_wait e1
        · rename_i e1
          exact (h1.entryPorts.of_bad e1).failResidency
        · rename_i e1
          have h2 := h1.entryPorts.of_ok e1
          split
          · exact h2.raiseRemote
          · extract_lets s3
            have h3 : s3.Canonical := by
              unfold s3
              split
              exacts [h2.applyStream, h2]
            exact h3.popPlane.spawnCommit
    · exact h
  · exact h

/-- The sweep clears keys of the deferred arena by a write of zero bytes, which takes their entries out of memory. -/
theorem sweepHomes {asid fr gen here} (h : s.Canonical) : (s.sweepHomes asid fr gen here).Canonical := by
  unfold State.sweepHomes
  extract_lets mine gone s1 takes s2
  have h1 : s1.Canonical := by
    refine h.foldl fun st ht o => ?_
    extract_lets st1
    have hst : st1.Canonical := by
      unfold st1
      split
      exacts [ht.freeArena, ht]
    exact .ite hst.modOp hst.dropOp
  have h2 : s2.Canonical := h1.clearWords
  split
  · exact h2
  · exact h2.foldl fun _ ht _ => .ite ⟨Memory.wf_write ht.1 _ _, ht.2⟩ ht

theorem sweepCell {asid fr gen cell} (h : s.Canonical) : (s.sweepCell asid fr gen cell).Canonical := by
  unfold State.sweepCell
  extract_lets gone s1 old s2 ws s3 blocks s4 s5
  have h2 : s2.Canonical := (h.foldl fun _ ht _ => ht.cancelWait).modCell
  have h3 : s3.Canonical := h2.foldl fun _ ht _ => ht.freeWayAt
  have h4 : s4.Canonical := h3.foldl fun _ ht _ => ht.releaseBlock
  have h5 : s5.Canonical := h4.sweepHomes.gcTiles
  clear_value s5
  exact h5

theorem execSweepBroadcastArrival {n cell} (h : s.Canonical) : CanonicalNext (Machine.execSweepBroadcastArrival n cell s) := by
  unfold Machine.execSweepBroadcastArrival
  refine .next ?_
  split
  exacts [.ite h (.ite h.reached.sweepCell h.reached.sweepHomes), h]

theorem execSweepComplete {asid frame} (h : s.Canonical) : CanonicalNext (Machine.execSweepComplete asid frame s) := by
  unfold Machine.execSweepComplete
  refine .next ?_
  split
  · exact h
  · split
    · exact h
    · split
      · exact h
      · extract_lets f s2 s3 s4
        have h2 : s2.Canonical := h.unallocFrame
        have h3 : s3.Canonical := h2.setFrame
        have h4 : s4.Canonical := h3.modPool.modCtx
        split
        exacts [h4.complete.progress, h4.progress]

/-! ### The sillage walk, time slices and drydown -/

theorem walkStep {asid w} (h : s.Canonical) : (s.walkStep asid w).1.Canonical := by
  unfold State.walkStep
  extract_lets fr s1 k stop
  have h1 : s1.Canonical := h.appendTrace
  have hs {reason} : (stop reason).1.Canonical := h1.appendTrace
  split
  · exact hs
  · split
    · exact hs
    · split
      · exact hs
      · split
        exacts [hs, h1]

theorem execSillageWalkStep {n} (h : s.Canonical) : CanonicalNext (Machine.execSillageWalkStep n s) := by
  unfold Machine.execSillageWalkStep
  refine .next ?_
  split
  · exact h
  · split
    rename_i e
    exact (h.walkStep.of_fst e).modCtx

theorem abandonWalks {asid} (h : s.Canonical) : (s.abandonWalks asid).Canonical := by
  unfold State.abandonWalks
  split
  exacts [h, (h.foldl fun _ ht _ => ht.appendTrace).modCtx]

theorem execBreakBitApplied {n cell} (h : s.Canonical) : CanonicalNext (Machine.execBreakBitApplied n cell s) := by
  unfold Machine.execBreakBitApplied
  refine .next ?_
  split
  exacts [.ite h h.reached.modCell.complete, h]

theorem setDstate {asid v} (h : s.Canonical) : (s.setDstate asid v).Canonical := by
  unfold State.setDstate
  split
  exacts [h, .ite h h.writeMem]

theorem writeDryHeader {asid dstate tsaved ntok nblk dirblk} (h : s.Canonical) :
    (s.writeDryHeader asid dstate tsaved ntok nblk dirblk).Canonical := by
  unfold State.writeDryHeader
  split
  · exact h
  · refine .ite h ?_
    extract_lets head slots s1 s2
    have h2 : s2.Canonical := h.zeroMem.writeMem.foldl fun _ ht _ => ht.writeMem
    exact h2.foldl fun _ ht _ => ht.writeMem

theorem startDrydown {asid reason} (h : s.Canonical) : (s.startDrydown asid reason).Canonical := by
  unfold State.startDrydown
  split
  · exact h
  · extract_lets s1 s2
    have h1 : s1.Canonical := h.setCtx
    have h2 : s2.Canonical := h1
    exact h2.setDstate.writeMem.abandonWalks

theorem execSliceBoundary {asid} (h : s.Canonical) : CanonicalNext (Machine.execSliceBoundary asid s) := by
  unfold Machine.execSliceBoundary
  refine .next ?_
  split
  exacts [h, .ite h (.ite h.setCtx.startDrydown (.ite h.setCtx.modCtx h.setCtx))]

theorem execStopBroadcastArrival {n cell} (h : s.Canonical) : CanonicalNext (Machine.execStopBroadcastArrival n cell s) := by
  unfold Machine.execStopBroadcastArrival
  refine .next ?_
  split
  exacts [.ite h h.reached.modCell, h]

theorem dryStep {asid x x1 ready} (h : s.Canonical) : (s.dryStep asid x x1 ready).Canonical := by
  unfold State.dryStep
  split
  exacts [h, .ite h.setCtx h]

theorem execDrydownStopAcknowledged {asid} (h : s.Canonical) : CanonicalNext (Machine.execDrydownStopAcknowledged asid s) :=
  h.dryStep

theorem execDrydownFinished {asid} (h : s.Canonical) : CanonicalNext (Machine.execDrydownFinished asid s) := by
  unfold Machine.execDrydownFinished
  refine .next ?_
  split
  exacts [h, .ite h.setCtx.abandonWalks h]

theorem execDrydownPerformed {asid} (h : s.Canonical) : CanonicalNext (Machine.execDrydownPerformed asid s) := h.dryStep

theorem saveBlock {asid pieces} (h : s.Canonical) : CanonicalIn (·.2) (s.saveBlock asid pieces) := by
  unfold State.saveBlock
  split
  · rename_i s1 _ e _
    have h1 : s1.Canonical := h.takeBlock _ e
    exact .some (h1.zeroMem.foldl fun _ ht _ => ht.writeMem)
  · exact .none

theorem saveBlocks {asid l} (h : s.Canonical) : CanonicalIn (·.2) (State.saveBlocks asid l s) := by
  induction l generalizing s with
  | nil => exact .some h
  | cons o t ih =>
    cases o with
    | none => exact .map (ih h) fun _ h1 => h1
    | some p => exact .bind h.saveBlock fun _ h1 => .bind (ih h1) fun _ h2 => .some h2

theorem saveTile {asid cell done e} (h : s.Canonical) : CanonicalIn (·.2.2) (s.saveTile asid cell done e) := by
  unfold State.saveTile
  split
  exacts [.some h, h.tileBlock]

theorem saveEntries {asid cell l done} (h : s.Canonical) : CanonicalIn (·.1) (State.saveEntries asid cell l done s) := by
  induction l generalizing done s with
  | nil => exact .some h
  | cons e es ih => exact .bind h.saveTile fun _ h1 => .of_bind fun _ => .of_bind fun _ => ih h1.setCtx.writeMem

theorem saveResident {asid cell l done} (h : s.Canonical) : CanonicalIn id (State.saveResident asid cell l done s) := by
  induction l generalizing done s with
  | nil => exact .some h
  | cons w ws ih => exact .bind h.saveTile fun _ h1 => ih h1.setWay

theorem saveCell {asid cell} (h : s.Canonical) : CanonicalIn id (s.saveCell asid cell) := by
  unfold State.saveCell
  refine .of_bind fun x => ?_
  refine .bind (h.foldl fun _ ht _ => ht.cancelWait).saveEntries fun _ h1 => ?_
  refine .bind h1.saveResident fun _ h2 => ?_
  refine .bind h2.saveBlocks fun _ h3 => ?_
  exact .bind h3.saveBlock fun _ h4 => .some h4.modCtx.modCell.gcTiles

theorem saveCells {asid l} (h : s.Canonical) : CanonicalIn id (State.saveCells asid l s) := by
  induction l generalizing s with
  | nil => exact .some h
  | cons c cs ih => exact .bind h.saveCell fun _ h1 => ih h1

theorem save {asid} (h : s.Canonical) : CanonicalIn id (s.save asid) := by
  unfold State.save
  refine .of_bind fun x => ?_
  split
  · exact .none
  · refine .bind h.setCtx.saveCells fun _ h1 => .of_bind fun y => .bind h1.saveBlock fun _ h2 => ?_
    exact .some (h2.modCtx.foldl fun _ ht _ => ht.releaseBlock).writeDryHeader

theorem releaseCells {asid x} (h : s.Canonical) : (s.releaseCells asid x).Canonical := by
  unfold State.releaseCells
  refine h.foldl fun st ht c => ?_
  extract_lets st1
  have ht1 : st1.Canonical := ht.modCell
  exact ht1

theorem letGo {asid cell} (h : s.Canonical) : (s.letGo asid cell).Canonical := by
  unfold State.letGo
  extract_lets c mine out u
  have hu : u.Canonical := h.modCell
  exact .gcTiles hu

theorem disassemble {f} (h : s.Canonical) : (s.disassemble f).Canonical := by
  unfold State.disassemble
  split
  exacts [h.modCell, h]

theorem openInbox {asid} (h : s.Canonical) : (s.openInbox asid).Canonical :=
  .foldl (h.modCtx.foldl fun _ ht _ => ht.disassemble) fun _ ht _ => ht.letGo

theorem execDrydownMarkersArrived {asid} (h : s.Canonical) : CanonicalNext (Machine.execDrydownMarkersArrived asid s) := by
  unfold Machine.execDrydownMarkersArrived
  refine .next ?_
  split
  exacts [h, .ite h h.openInbox]

theorem inboxTile {asid o} (h : s.Canonical) : CanonicalIn (·.2) (s.inboxTile asid o) := by
  cases o with
  | none => exact .some h
  | some d => exact h.saveBlock.map (π := Prod.snd) fun _ h1 => h1

theorem writeInbox {asid f tblk t} (h : s.Canonical) : CanonicalIn id (s.writeInbox asid f tblk t) := by
  unfold State.writeInbox
  refine .of_bind fun x => ?_
  extract_lets n far entry bytes write
  have hw : ∀ p, p.2.Canonical → CanonicalIn id (write p) := fun p h1 =>
    .some (State.Canonical.ite h1.writeMem h1).writeMem.modCtx.writeMem.writeMem
  split
  · exact .bind (.map h.saveBlock fun _ h1 => h1) hw
  · exact CanonicalIn.bind (CanonicalIn.some h) hw

theorem inboxFlight {f} (h : s.Canonical) : CanonicalIn id (s.inboxFlight f) :=
  .bind h.inboxTile fun _ h1 => .foldlM h1 fun _ _ ht => ht.writeInbox

theorem execInboxWrite {n} (h : s.Canonical) : CanonicalNext (Machine.execInboxWrite n s) := by
  unfold Machine.execInboxWrite
  refine .next ?_
  split
  · exact h
  · rename_i f _
    have hf : CanonicalIn id _ := State.Canonical.inboxFlight (s := { s with net := s.net.eraseIdx n }) (f := f) h
    exact .ite h (hf.getD h)

theorem placeHeld {cell l} (h : s.Canonical) : (State.placeHeld cell l s).2.Canonical := by
  induction l generalizing s with
  | nil => exact h
  | cons t ts ih =>
    unfold State.placeHeld
    split
    · exact ih h
    · exact ih h.modCell

theorem restoreHeld {asid cell ts} (h : s.Canonical) : (s.restoreHeld asid cell ts).Canonical := by
  unfold State.restoreHeld
  split
  rename_i e
  exact (h.placeHeld.of_snd e).modTraps

theorem restoreCell {x asid im} (h : s.Canonical) : (s.restoreCell x asid im).Canonical :=
  .foldl (.ite h.modCell h.modCell.restoreHeld) fun _ ht _ => ht.freeBlock

theorem seatDisc {asid cell e} (h : s.Canonical) : CanonicalIn (·.2) (s.seatDisc asid cell e) := by
  unfold State.seatDisc
  split
  · split
    exacts [.some h.modCell, .map h.saveBlock fun _ h1 => h1]
  · exact .some h

theorem renumber {cell e} (h : s.Canonical) : (s.renumber cell e).2.Canonical := h.modCell

theorem returnWay {p : State × List (Nat × Nat)} {asid w} (h : p.1.Canonical) : (State.returnWay asid p w).1.Canonical := by
  unfold State.returnWay
  split
  rename_i s1 e
  have h1 : s1.Canonical := h.renumber.of_snd e
  split
  · rename_i s2 e2
    have h2 : s2.Canonical := h1.seatDisc _ e2
    exact .returnParked h2
  · exact h1.spillFull

theorem returnWays {asid cell} (h : s.Canonical) : (s.returnWays asid cell).Canonical := by
  unfold State.returnWays
  split
  · exact h
  · extract_lets ws s1 s2
    have h1 : s1.Canonical := h.foldl fun _ ht _ => ht.noteWay.freeWayAt
    have h2 : s2.Canonical := .foldl_fst h1 fun _ _ hp => hp.returnWay
    exact (h2.foldl fun _ ht _ => ht.releaseBlock).gcTiles

theorem returnInbox {p : State × List (Nat × Nat)} {asid e} (h : p.1.Canonical) : (State.returnInbox asid p e).1.Canonical := by
  unfold State.returnInbox
  extract_lets s t q
  have hs : s.Canonical := h.modCtx
  have hq : q.1.Canonical := by
    unfold q
    split
    · split
      rename_i s1 e1
      have h1 : s1.Canonical := hs.renumber.of_snd e1
      exact .returnParked h1
    · split
      · extract_lets f s1
        have h1 : s1.Canonical := hs.noteBlock
        exact .packet h1
      · exact hs.arrive
  exact .elim hq fun _ => hq.releaseBlock

theorem emptyInbox {asid x} (h : s.Canonical) : (s.emptyInbox asid x).Canonical :=
  .foldl_fst (h.modCtx.foldl fun _ ht _ => ht.freeBlock) fun _ _ hp => hp.returnInbox

theorem abandonSave {asid} (h : s.Canonical) : (s.abandonSave asid).Canonical := by
  unfold State.abandonSave
  split
  · exact h
  · extract_lets s1 s2 told s3
    have h1 : s1.Canonical := h.foldl fun _ ht _ => ht.modCell
    have h2 : s2.Canonical := h1.modCtx.setDstate
    have h3 : s3.Canonical := ((h2.emptyInbox.foldl fun _ ht _ => ht.complete).progress).grantDue
    exact h3

theorem endSave {asid now} (h : s.Canonical) : (s.endSave asid now).Canonical := by
  unfold State.endSave
  split
  · exact h
  · extract_lets s1 s2 s3
    have h1 : s1.Canonical := h.releaseCells.foldl fun _ ht _ => ht.modCell
    have h3 : s3.Canonical := h1.modCtx.setDstate.writeMem
    exact h3.foldl fun _ ht _ => ht.complete

theorem execDrydownSaved {asid} (h : s.Canonical) : CanonicalNext (Machine.execDrydownSaved asid s) := by
  unfold Machine.execDrydownSaved
  refine .next ?_
  split
  · exact h
  · split
    · exact h
    · split
      · rename_i s1 e
        have h1 : s1.Canonical := h.save _ e
        exact h1.endSave
      · exact h.abandonSave

theorem restore {asid x} (h : s.Canonical) : (s.restore asid x).Canonical := by
  unfold State.restore
  extract_lets s1 s2 s3 s4
  have h1 : s1.Canonical := h.foldl fun _ ht _ => ht.restoreCell
  have h3 : s3.Canonical := h1.modCtx.foldl fun _ ht _ => ht.freeBlock
  have h4 : s4.Canonical := h3.foldl fun _ ht _ => ht.returnWays
  exact h4.emptyInbox.writeDryHeader.progress

theorem execContextRestore {asid} (h : s.Canonical) : CanonicalNext (Machine.execContextRestore asid s) := by
  unfold Machine.execContextRestore
  refine .next ?_
  split
  exacts [h, .ite h (.ite h.setCtx.setDstate (.ite h.restore h))]

/-! ### The host's registers, completions and aperture -/

theorem setWindow {fn w} (h : s.Canonical) : (s.setWindow fn w).Canonical := h

theorem modWindow {fn g} (h : s.Canonical) : (s.modWindow fn g).Canonical := .ite h.setWindow h

theorem execRingEnable {fn} (h : s.Canonical) : CanonicalNext (Machine.execRingEnable fn s) := h.modWindow

theorem execRingDisable {fn} (h : s.Canonical) : CanonicalNext (Machine.execRingDisable fn s) := h.modWindow

theorem execSqtail {fn value} (h : s.Canonical) : CanonicalNext (Machine.execSqtail fn value s) := h.modWindow

theorem execCqhead {fn value} (h : s.Canonical) : CanonicalNext (Machine.execCqhead fn value s) := h.modWindow

theorem execDevnum {value} (h : s.Canonical) : CanonicalNext (Machine.execDevnum value s) := .ite h h

theorem writeReg {fn reg v} (h : s.Canonical) : CanonicalNext (s.writeReg fn reg v) := by
  unfold State.writeReg
  split
  · exact h.modWindow
  · split
    · split
      exacts [h.execRingEnable, h.execRingDisable]
    · split
      · exact h.execSqtail
      · split
        · exact h.execCqhead
        · split
          exacts [h.execDevnum, h]

theorem execRegisterWrite {caller off value} (h : s.Canonical) :
    CanonicalNext (Machine.execRegisterWrite caller off value s) := by
  unfold Machine.execRegisterWrite
  split
  · exact h.freeze
  · split
    exacts [h.writeReg, h]

theorem writeEntries {fn p k l} (h : s.Canonical) : (s.writeEntries fn p k l).Canonical := by
  induction l generalizing k s with
  | nil => exact h
  | cons v vs ih => exact ih h.writeMem.setWindow

theorem completionToken {p} (h : s.Canonical) : (s.completionToken p).Canonical := by
  unfold State.completionToken
  split
  · exact h
  · split
    exacts [h.send, h]

theorem flushFrom {kept l} (h : s.Canonical) : (State.flushFrom kept l s).Canonical := by
  induction l generalizing kept s with
  | nil => exact h
  | cons p t ih =>
    unfold State.flushFrom
    exact .ite (ih h) (.ite (ih h.writeEntries.completionToken) (ih h))

theorem flushPosts (h : s.Canonical) : s.flushPosts.Canonical := h.flushFrom

theorem execFreezeNotification {n} (h : s.Canonical) : CanonicalNext (Machine.execFreezeNotification n s) := by
  unfold Machine.execFreezeNotification
  refine .next ?_
  split
  exacts [h, .ite h h]

theorem tellPf {code value} (h : s.Canonical) : (s.tellPf code value).Canonical := h

theorem apertureWrite {fn off d} (h : s.Canonical) : (s.apertureWrite fn off d).Canonical :=
  h.foldl fun _ ht _ => .ite ht.storeLines ht

theorem execHostApertureAccess {fn what} (h : s.Canonical) : CanonicalNext (Machine.execHostApertureAccess fn what s) := by
  unfold Machine.execHostApertureAccess
  refine .next ?_
  split
  · exact h
  · exact .ite h.apertureWrite h
  · split
    exacts [h.freeze, h]

/-! ### Commands for virtual devices, granules, translations and debugging -/

theorem freezeSender {c code v cause asid} (h : s.Canonical) : (s.freezeSender c code v cause asid).Canonical := h.freeze.complete

/-- A command that the physical function alone may send: its effect has to keep canonical form. -/
theorem pfCommand {code c act} (h : s.Canonical) (ha : ∀ t, t.Canonical → (act t).Canonical) :
    (s.pfCommand code c act).Canonical := by
  unfold State.pfCommand
  split
  · exact h
  · split
    exacts [h.freezeSender, .ite h.complete (ha _ h)]

theorem anyCommand {code c act} (h : s.Canonical) (ha : ∀ t, t.Canonical → (act t).Canonical) :
    (s.anyCommand code c act).Canonical :=
  .ite h (.ite h.freezeSender (.ite h.complete (ha _ h)))

theorem ctxCommand {code c act} (h : s.Canonical)
    (ha : ∀ a x t, t.Canonical → (act a x t).Canonical) : (s.ctxCommand code c act).Canonical := by
  unfold State.ctxCommand
  refine h.anyCommand fun t ht => ?_
  extract_lets a
  split
  · exact ht.complete
  · exact .ite ht.freezeSender (.ite ht (.ite ht.complete (ha _ _ _ ht)))

theorem execVdevCreate {c} (h : s.Canonical) : CanonicalNext (Machine.execVdevCreate c s) := by
  unfold Machine.execVdevCreate
  refine .next (h.pfCommand fun t ht => ?_)
  extract_lets a u
  split
  · exact ht.complete
  · split
    exacts [ht.complete, .ite ht.complete (.complete ht)]

theorem dropTraffic {a} (h : s.Canonical) : (s.dropTraffic a).Canonical := h

theorem destroyCtx {a} (h : s.Canonical) : (s.destroyCtx a).Canonical := by
  unfold State.destroyCtx
  split
  · exact h
  · extract_lets s0 s1 s2 end_ s3
    have h0 : s0.Canonical := h.foldl fun _ ht _ => ht.disassemble
    have h1 : s1.Canonical := h0.foldl fun _ ht _ => .ite ht.modCell ht
    have h2 : s2.Canonical := h1.dropTraffic
    have h3 : s3.Canonical := h2
    refine h3.foldl fun st ht c => ?_
    extract_lets u
    have hu : u.Canonical := ht.gcTiles
    exact hu

theorem destroyVdev {v} (h : s.Canonical) : (s.destroyVdev v).Canonical := h.foldl fun _ ht _ => ht.destroyCtx

theorem execVdevDestroy {c} (h : s.Canonical) : CanonicalNext (Machine.execVdevDestroy c s) :=
  h.pfCommand fun _ ht => .ite ht.complete (.ite ht ht.destroyVdev.complete)

theorem execThaw {c} (h : s.Canonical) : CanonicalNext (Machine.execThaw c s) := by
  unfold Machine.execThaw
  refine .next (h.pfCommand fun t ht => ?_)
  extract_lets v mine
  split
  exacts [ht.complete, .ite ht.complete (.complete (.foldl ht fun _ ht _ => ht.modCtx.publishState.progress))]

theorem execGranule {c} (h : s.Canonical) : CanonicalNext (Machine.execGranule c s) := by
  unfold Machine.execGranule
  refine .next (h.pfCommand fun t ht => ?_)
  extract_lets v first n gs new held s1 u
  have h1 : s1.Canonical := ht
  have hu : u.Canonical := h1.await
  split
  exacts [ht.complete, .ite ht.complete (.ite ht.complete (.ite ht.complete (.ite h1.complete hu)))]

theorem scrubGranule {g} (h : s.Canonical) : (s.scrubGranule g).Canonical :=
  ⟨Memory.wf_clear h.1 _ _, h.2.filter _⟩

theorem execGranuleScrubComplete {g} (h : s.Canonical) : CanonicalNext (Machine.execGranuleScrubComplete g s) := by
  unfold Machine.execGranuleScrubComplete
  refine .next ?_
  split
  exacts [h, .ite h (.foldl h.scrubGranule fun _ ht _ => ht.complete)]

theorem execLaunch {c} (h : s.Canonical) : CanonicalNext (Machine.execLaunch c s) := h.ctxCommand fun _ _ _ ht => ht.setCtx.await

theorem execPreempt {c} (h : s.Canonical) : CanonicalNext (Machine.execPreempt c s) := by
  unfold Machine.execPreempt
  refine .next (h.ctxCommand fun a x t ht => ?_)
  split
  exacts [ht.startDrydown.modCtx.await, ht.complete, ht.setCtx.complete, ht.setCtx.setDstate.complete, ht.setCtx.await]

theorem execTlbInval {c} (h : s.Canonical) : CanonicalNext (Machine.execTlbInval c s) := h.ctxCommand fun _ _ _ ht => .await ht

theorem execTlbInvalComplete {n} (h : s.Canonical) : CanonicalNext (Machine.execTlbInvalComplete n s) := by
  unfold Machine.execTlbInvalComplete
  refine .next ?_
  split
  exacts [h, .ite h (.complete h)]

theorem execKillfr {c} (h : s.Canonical) : CanonicalNext (Machine.execKillfr c s) :=
  h.ctxCommand fun _ _ _ ht => .ite ht.complete ht.endNamed.complete

theorem execBrkset {c} (h : s.Canonical) : CanonicalNext (Machine.execBrkset c s) :=
  h.ctxCommand fun _ _ _ ht => .ite ht.complete (.await ht)

theorem execSillage {c} (h : s.Canonical) : CanonicalNext (Machine.execSillage c s) :=
  h.ctxCommand fun _ _ _ ht => .ite ht.complete ht.setCtx.complete

theorem execQuote {c} (h : s.Canonical) : CanonicalNext (Machine.execQuote c s) :=
  h.ctxCommand fun _ _ _ ht => .ite ht.complete ht.storeLines.complete

theorem execPair {c} (h : s.Canonical) : CanonicalNext (Machine.execPair c s) :=
  h.ctxCommand fun _ _ _ ht => .ite ht.complete ht.homeWrite.complete

theorem execExportGranules {c} (h : s.Canonical) : CanonicalNext (Machine.execExportGranules c s) := by
  unfold Machine.execExportGranules
  refine .next (h.ctxCommand fun a x t ht => ?_)
  extract_lets b dev far fl n gs rest s1 s2 ops
  have h1 : s1.Canonical := ht
  have h2 : s2.Canonical := State.Canonical.complete (s := { t with exported := rest }) ht
  exact .ite ht.complete (.ite ht.freezeSender (.ite h1.complete h2))

/-! ### Contexts created and destroyed, RESOLVE -/

theorem wipe {a n} (h : s.Canonical) : (s.wipe a n).Canonical :=
  ⟨h.zeroMem.1, h.2.filter _⟩

theorem writeAreas {r} (h : s.Canonical) : (s.writeAreas r).Canonical := by
  unfold State.writeAreas
  extract_lets s1 s2
  have h1 : s1.Canonical := h.foldl fun _ ht _ => ht.wipe
  have h2 : s2.Canonical := .ite h1 h1.writeMem
  exact .ite h2 h2.writeMem

theorem emptyWords {asid v} (h : s.Canonical) : (s.emptyWords asid v).Canonical := h

theorem makeCtx {asid r} (h : s.Canonical) : (s.makeCtx asid r).Canonical := by
  unfold State.makeCtx
  extract_lets x u s0 s1 s2 s3 dev s4
  have hu : u.Canonical := h.emptyWords
  have h0 : s0.Canonical := hu
  have h2 : s2.Canonical := h0.writeAreas.setCtx.foldl fun _ ht _ => ht.modCell
  have h3 : s3.Canonical := h2.layoutSpill.modPool
  have h4 : s4.Canonical := h3
  exact h4.publishRecord

theorem execCtxCreate {c} (h : s.Canonical) : CanonicalNext (Machine.execCtxCreate c s) := by
  unfold Machine.execCtxCreate
  refine .next (h.anyCommand fun t ht => ?_)
  extract_lets a b
  split
  · exact ht.complete
  · split
    · exact ht.complete
    · split
      · exact ht.freezeSender
      · extract_lets r
        split
        · exact ht.complete
        · exact ht.freezeSender
        · split
          exacts [ht.complete, ht.makeCtx.complete]

theorem execCtxDestroy {c} (h : s.Canonical) : CanonicalNext (Machine.execCtxDestroy c s) :=
  h.ctxCommand fun _ _ _ ht => .ite ht.complete ht.destroyCtx.complete

theorem seat {cell v} (h : s.Canonical) : CanonicalIn (·.2) (s.seat cell v) := by
  unfold State.seat
  split
  exacts [.of_map fun _ => h.modCell, .some h]

theorem doResolve {c a r q bad} (h : s.Canonical) : (s.doResolve c a r q bad).Canonical := by
  unfold State.doResolve
  split
  · split
    · exact h.complete
    · split
      · exact h
      · rename_i e
        obtain ⟨p, hp, hq⟩ := Option.bind_eq_some_iff.mp e
        obtain ⟨p2, hp2, e2⟩ := Option.map_eq_some_iff.mp hq
        cases e2
        have h1 := h.seat p hp
        have h2 := h1.seat p2 hp2
        exact h2.resolve.gcTiles.complete
  · exact h.complete

theorem execResolve {c} (h : s.Canonical) : CanonicalNext (Machine.execResolve c s) := by
  unfold Machine.execResolve
  refine .next (h.ctxCommand fun a x t ht => ?_)
  split
  · exact ht.complete
  · extract_lets blk p
    clear_value blk
    split
    · exact ht.complete
    · exact ht.freezeSender
    · split
      exacts [ht.complete, ht.doResolve]

/-! ### Goarnoc Fabric -/

theorem execFlitReceive {port seq crcOk body} (h : s.Canonical) :
    CanonicalNext (Machine.execFlitReceive port seq crcOk body s) := by
  unfold Machine.execFlitReceive
  refine .next ?_
  extract_lets want u s1
  have h1 : s1.Canonical := h
  split
  · exact h
  · split
    exacts [h1, h1, h1]

theorem enterFabric {t x i d} (h : s.Canonical) : (s.enterFabric t x i d).Canonical := h

theorem execFabricTokenArrival {n} (h : s.Canonical) : CanonicalNext (Machine.execFabricTokenArrival n s) := by
  unfold Machine.execFabricTokenArrival
  refine .next ?_
  split
  · exact h
  · split
    · exact h
    · extract_lets s1
      have h1 : s1.Canonical := h
      split
      exacts [h1.noteRpt.enterFabric, h1.tellPf]

theorem commitFar {n k r} (h : s.Canonical) : (s.commitFar n k r).Canonical := by
  unfold State.commitFar
  extract_lets s1 ops ready
  have h1 : s1.Canonical := h
  split
  · exact h
  · split
    exacts [.modOp h1, h1]

theorem execRemoteRequestArrival {n} (h : s.Canonical) : CanonicalNext (Machine.execRemoteRequestArrival n s) := by
  unfold Machine.execRemoteRequestArrival
  refine .next ?_
  split
  · exact h
  · split
    · exact h
    · extract_lets s1
      have h1 : s1.Canonical := h
      split
      · exact h.commitFar
      · split
        exacts [h1.releaseKeys.dropOp, h1]
      · split
        exacts [h1, h1]

/-! ### The physical device -/

/-- A scrub keeps the entries of the bytes that it does not reach, and no line stays poisoned. -/
theorem scrubbed {d} (h : s.Canonical) : (s.scrubbed d).Canonical :=
  ⟨Memory.wf_filter h.1 _, .nil⟩

theorem bootWith {fw time} (h : s.Canonical) : (s.bootWith fw time).Canonical := by
  unfold State.bootWith
  extract_lets m
  split
  exacts [h.scrubbed, h.scrubbed]

theorem execPowerOn {fw} (h : s.Canonical) : CanonicalNext (Machine.execPowerOn fw s) := .ite h (.bootWith h)

theorem execFirmwareUpdate {fw} (h : s.Canonical) : CanonicalNext (Machine.execFirmwareUpdate fw s) := by
  unfold Machine.execFirmwareUpdate
  refine .next ?_
  split
  exacts [h.bootWith, h]

theorem resetDevice (h : s.Canonical) : s.resetDevice.Canonical := h.scrubbed

theorem execDeviceReset (h : s.Canonical) : CanonicalNext (Machine.execDeviceReset s) := .ite h.resetDevice h

theorem execPowerOff (h : s.Canonical) : CanonicalNext (Machine.execPowerOff s) := h.scrubbed

theorem execThermalStepChange {die stack} (h : s.Canonical) : CanonicalNext (Machine.execThermalStepChange die stack s) := h

theorem execPtpMessage {offset} (h : s.Canonical) : CanonicalNext (Machine.execPtpMessage offset s) := .ite h (.ite h (.ite h h))

theorem execPtpfree (h : s.Canonical) : CanonicalNext (Machine.execPtpfree s) := .ite h h

theorem execCorrectedError (h : s.Canonical) : CanonicalNext (Machine.execCorrectedError s) := h

theorem spoilLine {cell line} (h : s.Canonical) : (s.spoilLine cell line).Canonical := by
  unfold State.spoilLine
  extract_lets s1
  have h1 : s1.Canonical := h.modCell
  exact h1

theorem loseState {cell asid} (h : s.Canonical) : (s.loseState cell asid).Canonical := by
  unfold State.loseState
  split
  · exact h
  · split
    · exact h
    · extract_lets s1 s2 s3
      have h1 : s1.Canonical := h.setCtx
      have h2 : s2.Canonical := .ite (.abandonWalks h1) h1
      have h3 : s3.Canonical := h2.modCtx.foldl fun _ ht _ => ht.complete
      exact h3.tellPf

theorem execUncorrectableError {x} (h : s.Canonical) : CanonicalNext (Machine.execUncorrectableError x s) := by
  unfold Machine.execUncorrectableError
  refine .next ?_
  split
  exacts [.ite h.setPoison.retest h, h.spoilLine, h.modCell, h.modCell, h.modCell, h, h.loseState, .ite h.resetDevice h]

/-! ### Submission rings, the firing of a unit, time -/

theorem popSlot {fn} (h : s.Canonical) : (s.popSlot fn).Canonical := h.modWindow

theorem refuseSlot {fn k} (h : s.Canonical) : (s.refuseSlot fn k).Canonical := (h.anyCommand fun _ ht => ht.complete).popSlot

theorem takeCommand {exec fn} (h : s.Canonical) (hx : KeepsCanonical exec) : CanonicalNext (s.takeCommand exec fn) := by
  unfold State.takeCommand
  split
  · exact h
  · extract_lets k
    split
    · exact h.refuseSlot
    · split
      · exact h.refuseSlot
      · rename_i i _ _
        have hi := hx i s h
        split
        · rename_i s1 e
          have h1 : s1.Canonical := by rwa [e] at hi
          exact .next (.ite h h1.popSlot)
        · trivial
        · trivial

theorem afterStart {id u st word keeps passed} (h : s.Canonical) : (s.afterStart id u st word keeps passed).Canonical :=
  h.modCell.progress

/-- The formed sets are tried in order, until one of them keeps the unit. -/
theorem fireFirst {exec id u l} (h : s.Canonical) (hx : KeepsCanonical exec) :
    CanonicalNext (State.fireFirst exec id u l s) := by
  induction l generalizing s with
  | nil => exact h
  | cons st rest ih =>
    unfold State.fireFirst
    have hs := h.start (id := id) (st := st) hx
    split
    · rename_i s1 e
      have h1 : s1.Canonical := by rwa [e] at hs
      split
      · exact ih h1
      · exact h1.afterStart
    · trivial
    · trivial

theorem fireUnit {exec cell u} (h : s.Canonical) (hx : KeepsCanonical exec) : CanonicalNext (s.fireUnit exec cell u) :=
  h.fireFirst hx

theorem advance {dt} (h : s.Canonical) : (s.advance dt).Canonical := by
  unfold State.advance
  split
  · exact h
  · split
    exact h

theorem passOver {l a} (h : s.Canonical) : (s.passOver l a).Canonical := h

theorem act {exec a} (h : s.Canonical) (hx : KeepsCanonical exec) : CanonicalNext (s.act exec a) := by
  cases a with
  | fire c u => exact h.fireUnit hx
  | command fn => exact h.takeCommand hx
  | event i => exact hx i s h

theorem finish (h : s.Canonical) : s.finish.Canonical := h.flushPosts.retestAll

end State.Canonical

theorem CanonicalNext.finishOutcome {o : Host.Outcome State Fault Refusal} (h : CanonicalNext o) :
    CanonicalNext (Machine.finishOutcome o) := by
  cases o with
  | next s => exact State.Canonical.finish h
  | fault r => trivial
  | refused r => trivial

namespace State.Canonical

variable {s : State}

theorem afterTime {rest : State} {dt a later} (hr : rest.Canonical) (hl : ∀ n, (later n).Canonical) :
    (s.afterTime dt a rest later).2.Canonical := by
  unfold State.afterTime
  split
  exacts [(hl _).advance, hr.advance]

theorem nextAct (h : s.Canonical) : s.nextAct.2.Canonical := by
  unfold State.nextAct
  split
  · exact h
  · split
    · exact h
    · exact afterTime h fun _ => h
    · exact afterTime h.passOver fun _ => h

/-! ### Loop instructions -/

theorem lenterGo {f w t} (h : s.Canonical) : (Machine.lenterGo s f w t).Canonical := by
  unfold Machine.lenterGo
  split
  exacts [h.hold, h.commitWith fun _ ht => ht.modCell]

theorem doLenter {w f} (h : s.Canonical) : (Machine.doLenter w s f).Canonical := by
  unfold Machine.doLenter
  split
  exacts [h.raise, h.lenterGo]

theorem claimColour {f r n} (h : s.Canonical) : (Machine.claimColour s f r n).Canonical := h.commitWith fun _ ht => ht.modCell

theorem doLnext {w f} (h : s.Canonical) : (Machine.doLnext w s f).Canonical := by
  unfold Machine.doLnext
  split
  exacts [h.raise, .ite h.raise (.ite (h.commitWith fun _ ht => ht.modCell) (.ite h.raise h.hold.modCell))]

theorem freeLoop {cell r} (h : s.Canonical) : (s.freeLoop cell r).Canonical := by
  unfold State.freeLoop
  extract_lets s1
  have h1 : s1.Canonical := h.modCell
  exact h1

theorem doLdone {w f} (h : s.Canonical) : (Machine.doLdone w s f).Canonical := by
  unfold Machine.doLdone
  split
  · exact h.raise
  · split
    · exact h.raise
    · extract_lets r1
      refine h.commitWith fun t ht => ?_
      split
      · exact ht.freeLoop
      · extract_lets st1
        have ht1 : st1.Canonical := ht.modCell
        exact .ite ht1 ht1

theorem evictWaiter {cell r} (h : s.Canonical) : (Machine.evictWaiter s cell r).Canonical := by
  unfold Machine.evictWaiter
  split
  · exact h
  · split
    exacts [h, h.raise]

theorem doLexit {w f} (h : s.Canonical) : (Machine.doLexit w s f).Canonical := by
  unfold Machine.doLexit
  split
  exacts [h.raise, .ite h.raise (h.commitWith fun _ ht => .evictWaiter (.ite ht.freeLoop ht.modCell))]

theorem execHeldLnextRelease {cell n} (h : s.Canonical) : CanonicalNext (Machine.execHeldLnextRelease cell n s) := by
  unfold Machine.execHeldLnextRelease
  refine .next ?_
  split
  · exact h
  · split
    · exact h
    · split
      · exact h
      · split
        exacts [h, h.claimColour]

theorem execHeldLenterGrant {cell} (h : s.Canonical) : CanonicalNext (Machine.execHeldLenterGrant cell s) := by
  unfold Machine.execHeldLenterGrant
  extract_lets c
  refine .next ?_
  split
  · exact h
  · extract_lets width
    split
    exacts [h, h.lenterGo]

/-! ### Rings of a store cell -/

theorem doBinit {w f} (h : s.Canonical) : (Machine.doBinit w s f).Canonical := by
  unfold Machine.doBinit
  extract_lets v r
  split
  exacts [h.raise, h.commitWith fun _ ht => ht.modCell]

theorem bputGo {f tag r} (h : s.Canonical) : (Machine.bputGo s f tag r).Canonical := by
  unfold Machine.bputGo
  extract_lets r1
  refine h.commitWith fun t ht => ?_
  extract_lets st1
  have ht1 : st1.Canonical := ht.modCell
  exact .ite ht1 ht1

theorem doBput {w f} (h : s.Canonical) : (Machine.doBput w s f).Canonical := by
  unfold Machine.doBput
  split
  exacts [h.raise, .ite h.hold h.bputGo]

theorem bgetGo {f tag r} (h : s.Canonical) : (Machine.bgetGo s f tag r).Canonical := by
  unfold Machine.bgetGo
  split
  exacts [h, h.commitWith fun _ ht => .ite ht.modCell.sendFresh ht.modCell.orphanOuts]

theorem doBget {w f} (h : s.Canonical) : (Machine.doBget w s f).Canonical := by
  unfold Machine.doBget
  split
  exacts [h.raise, .ite h.raiseRemote (.ite h.hold h.bgetGo)]

theorem execBputRelease {cell ring} (h : s.Canonical) : CanonicalNext (Machine.execBputRelease cell ring s) := by
  unfold Machine.execBputRelease
  refine .next ?_
  split
  · exact h
  · split
    · exact h
    · split
      exacts [h.raise, .ite h h.bputGo]

theorem execBgetRelease {cell ring} (h : s.Canonical) : CanonicalNext (Machine.execBgetRelease cell ring s) := by
  unfold Machine.execBgetRelease
  refine .next ?_
  split
  · exact h
  · split
    · exact h
    · split
      exacts [h.raise, h.bgetGo]

end State.Canonical

/-- Every instruction leads from canonical states to canonical states: operators settle a firing, commands and events have
lemmas of their own. -/
theorem keepsCanonical_exec : KeepsCanonical exec := by
  intro i s h
  cases i with
  | pass _ | sync _ | switch _ | sel _ | const _ | sink _ | ends _ | iseos _ | count _ | getcol _ | settag _ | frameid _
  | add _ | sub _ | mul _ | mulh _ | div _ | rem _ | and _ | or _ | xor _ | andn _ | shl _ | shr _ | sra _ | rotl _ | min _
  | max _ | cmp _ | clz _ | popc _ | bext _ | bins _ | mad _ | addrc _ | abs _ | neg _ | icvt _ | mix _ | pack _ | unpk _
  | fadd _ | fsub _ | fmul _ | ffma _ | fdiv _ | fsqrt _ | fmin _ | fmax _ | fcmp _ | fcvt _ | fclass _ | ftoi _ | itof _
  | vadd _ | vsub _ | vmul _ | vfma _ | vdiv _ | vmin _ | vmax _ | vabs _ | vneg _ | vsqrt _ | vrsq _ | vrcp _ | vexp2 _
  | vlog2 w | vtanh _ | vcvt _ | vscal _ | vfill _ | vcmp _ | vmsel _ | vand _ | vor _ | vxor _ | vshf _ | vtran _ | vslic _
  | vrowop _ | vcolop _ | mcomp _ | rsum _ | rmax _ | rmin _ | rargx _ | topk _ | normk _ | steer _ | ordmrg _ | sort _
  | partn _ | scan _ | trap _ | time _ | query _ => exact h.runOp
  | mma _ | mmas _ | mmag _ | azero _ | adrain _ | aload _ | aread _ | apatch _ => exact h.runAcc
  | lds _ | sts _ | atom _ | cas _ | iput _ | itake _ | iclr _ | join _ | waitv _ => exact h.runMem
  | ldt _ | stt _ | gath _ | scat _ | ared _ => exact h.runTensor
  | lenter _ => exact h.runFiring fun _ => h.doLenter
  | lnext _ => exact h.runFiring fun _ => h.doLnext
  | lexit _ => exact h.runFiring fun _ => h.doLexit
  | ldone _ => exact h.runFiring fun _ => h.doLdone
  | spawn _ => exact h.runFiring fun _ => h.doSpawn
  | call _ => exact h.runFiring fun _ => h.doCall
  | ret _ => exact h.runFiring fun _ => h.doRet
  | fend _ => exact h.runFiring fun _ => h.doFend
  | gang _ => exact h.runFiring fun _ => h.doGang
  | killf _ => exact h.runFiring fun _ => h.doKillf
  | fence _ => exact h.runFiring fun _ => h.doFence
  | bput _ => exact h.runFiring fun _ => h.doBput
  | bget _ => exact h.runFiring fun _ => h.doBget
  | binit _ => exact h.runFiring fun _ => h.doBinit
  | park _ => exact h.runFiring fun _ => h.doPark
  | resume _ => exact h.runFiring fun _ => h.doResume
  | trace _ => exact h.runFiring fun _ => h.doTrace
  | watch _ => exact h.runFiring fun _ => h.doWatch
  | unwatch _ => exact h.runFiring fun _ => h.doUnwatch
  | flags _ => exact h.runFiring fun _ => h.doFlags
  | loadg _ => exact h.runFiring fun _ => h.doLoadg
  | swapg _ => exact h.runFiring fun _ => h.doSwapg
  | drain _ => exact h.runFiring fun _ => h.doDrain
  | pref _ => exact h.execPref
  | xop _ _ => exact h.execXop
  | attarBankLoad _ _ => exact h.execAttarBankLoad
  | tokenArrival _ => exact h.execTokenArrival
  | heldTokenAccept _ _ => exact h.execHeldTokenAccept
  | cgenHoldRelease _ _ => exact h.execCgenHoldRelease
  | packetArrival _ => exact h.execPacketArrival
  | spillLookup _ _ => exact h.execSpillLookup
  | refill _ => exact h.execRefill
  | spaceClaimSpill _ => exact h.execSpaceClaimSpill
  | spilledSetReturn _ => exact h.execSpilledSetReturn
  | watchdogFirstExpiry _ => exact h.execWatchdogFirstExpiry
  | watchdogSecondExpiry _ => exact h.execWatchdogSecondExpiry
  | heldLnextRelease _ _ => exact h.execHeldLnextRelease
  | heldLenterGrant _ => exact h.execHeldLenterGrant
  | heldFrameGrant _ => exact h.execHeldFrameGrant
  | gangGrant _ => exact h.execGangGrant
  | residencyApplyDone _ => exact h.execResidencyApplyDone
  | sweepComplete _ _ => exact h.execSweepComplete
  | launchApply _ => exact h.execLaunchApply
  | loadgApply _ => exact h.execLoadgApply
  | drainQuiescent _ => exact h.execDrainQuiescent
  | swapgFlip _ => exact h.execSwapgFlip
  | fenceRelease _ _ => exact h.execFenceRelease
  | bputRelease _ _ => exact h.execBputRelease
  | bgetRelease _ _ => exact h.execBgetRelease
  | homeAccess _ _ => exact h.execHomeAccess
  | acceptanceReply _ => exact h.execAcceptanceReply
  | memoryOpPerformed _ _ => exact h.execMemoryOpPerformed
  | remoteTimeout _ => exact h.execRemoteTimeout
  | pageWalkDone _ => exact h.execPageWalkDone
  | zeroClaim _ => exact h.execZeroClaim
  | zeroFillDone _ => exact h.execZeroFillDone
  | tlbInvalComplete _ => exact h.execTlbInvalComplete
  | parkingBroadcastArrival _ _ => exact h.execParkingBroadcastArrival
  | trapRecordWrite _ => exact h.execTrapRecordWrite
  | trapDelivery _ => exact h.execTrapDelivery
  | handlerFault _ => exact h.execHandlerFault
  | parkDecided _ => exact h.execParkDecided
  | resumeDecided _ => exact h.execResumeDecided
  | watchArmApplied _ => exact h.execWatchArmApplied
  | unwatchApplied _ => exact h.execUnwatchApplied
  | flagsDecided _ => exact h.execFlagsDecided
  | sillageWalkStep _ => exact h.execSillageWalkStep
  | breakBitApplied _ _ => exact h.execBreakBitApplied
  | sliceBoundary _ => exact h.execSliceBoundary
  | drydownStopAcknowledged _ => exact h.execDrydownStopAcknowledged
  | drydownFinished _ => exact h.execDrydownFinished
  | drydownPerformed _ => exact h.execDrydownPerformed
  | drydownMarkersArrived _ => exact h.execDrydownMarkersArrived
  | drydownSaved _ => exact h.execDrydownSaved
  | inboxWrite _ => exact h.execInboxWrite
  | contextRestore _ => exact h.execContextRestore
  | sqtail _ _ => exact h.execSqtail
  | cqhead _ _ => exact h.execCqhead
  | ringEnable _ => exact h.execRingEnable
  | ringDisable _ => exact h.execRingDisable
  | devnum _ => exact h.execDevnum
  | registerWrite _ _ _ => exact h.execRegisterWrite
  | vdevCreate _ => exact h.execVdevCreate
  | vdevDestroy _ => exact h.execVdevDestroy
  | thaw _ => exact h.execThaw
  | granule _ => exact h.execGranule
  | ctxCreate _ => exact h.execCtxCreate
  | ctxDestroy _ => exact h.execCtxDestroy
  | launch _ => exact h.execLaunch
  | preempt _ => exact h.execPreempt
  | tlbInval _ => exact h.execTlbInval
  | resolve _ => exact h.execResolve
  | killfr _ => exact h.execKillfr
  | brkset _ => exact h.execBrkset
  | sillage _ => exact h.execSillage
  | quote _ => exact h.execQuote
  | pair _ => exact h.execPair
  | exportGranules _ => exact h.execExportGranules
  | freezeNotification _ => exact h.execFreezeNotification
  | hostApertureAccess _ _ => exact h.execHostApertureAccess
  | flitReceive _ _ _ _ => exact h.execFlitReceive
  | fabricTokenArrival _ => exact h.execFabricTokenArrival
  | remoteRequestArrival _ => exact h.execRemoteRequestArrival
  | ptpMessage _ => exact h.execPtpMessage
  | powerOn _ => exact h.execPowerOn
  | deviceReset => exact h.execDeviceReset
  | firmwareUpdate _ => exact h.execFirmwareUpdate
  | thermalStepChange _ _ => exact h.execThermalStepChange
  | correctedError => exact h.execCorrectedError
  | uncorrectableError _ => exact h.execUncorrectableError
  | sweepBroadcastArrival _ _ => exact h.execSweepBroadcastArrival
  | planeFlipArrival _ _ => exact h.execPlaneFlipArrival
  | frameBreakArrival _ _ => exact h.execFrameBreakArrival
  | watchArmArrival _ _ => exact h.execWatchArmArrival
  | stopBroadcastArrival _ _ => exact h.execStopBroadcastArrival
  | outgoingTransferDone _ => exact h.execOutgoingTransferDone
  | granuleScrubComplete _ => exact h.execGranuleScrubComplete
  | ptpfree => exact h.execPtpfree
  | powerOff => exact h.execPowerOff

namespace State.Canonical

variable {s : State}

theorem step (h : s.Canonical) : CanonicalNext (Machine.step s) := by
  unfold Machine.step
  split
  · rename_i s1 e
    have h1 : s1.Canonical := h.nextAct.of_snd e
    exact (h1.act keepsCanonical_exec).finishOutcome
  · rename_i s1 e
    have h1 : s1.Canonical := h.nextAct.of_snd e
    exact h1.finish

end State.Canonical

/-- Settles O60: every function that makes up a step leads from canonical states to canonical states, so a step does. -/
theorem stepKeepsMemoryCanonical : Obligations.StepKeepsMemoryCanonical := by
  unfold Obligations.StepKeepsMemoryCanonical
  intro s t hm hp hs
  have h : CanonicalNext (step s) := State.Canonical.step ⟨hm, hp⟩
  rw [hs] at h
  exact h

end Sys2Proof.Machine
end

section
namespace Sys2Proof

/-! ## Words of operators, destinations and records (O53, O52) -/

/-! ### The codes of the fields (R30, R33, R36, R50) -/

@[simp] theorem decodeArity_encodeArity (a : Arity) : decodeArity (encodeArity a) = some a := by cases a <;> rfl

@[simp] theorem decodeLit_encodeLit (l : Option Port) : decodeLit (encodeLit l) = l := by
  rcases l with _ | _ | _ | _ <;> rfl

@[simp] theorem decodeTa_encodeTa (t : TagAct) : decodeTa (encodeTa t) = some t := by cases t <;> rfl

@[simp] theorem decodeDestPort_encodeDestPort (p : DestPort) : decodeDestPort (encodeDestPort p) = p := by
  rcases p with ⟨⟨⟩⟩ | _ <;> rfl

@[simp] theorem decodeDestMode_encodeDestMode (m : DestMode) : decodeDestMode (encodeDestMode m) = m := by cases m <;> rfl

@[simp] theorem Enc.Fmt.ofNat_code (f : Fmt) : Enc.Fmt.ofNat (Enc.Fmt.code f).toNat = some f := by cases f <;> rfl

theorem encodeArity_of_decodeArity {x : BitVec 2} {a : Arity} (h : decodeArity x = some a) : encodeArity a = x :=
  (by decide : ∀ x : BitVec 2, ∀ a ∈ decodeArity x, encodeArity a = x) x a h

@[simp] theorem encodeLit_decodeLit (x : BitVec 2) : encodeLit (decodeLit x) = x := by
  revert x; decide

theorem encodeTa_of_decodeTa {x : BitVec 3} {t : TagAct} (h : decodeTa x = some t) : encodeTa t = x :=
  (by decide : ∀ x : BitVec 3, ∀ t ∈ decodeTa x, encodeTa t = x) x t h

@[simp] theorem encodeDestPort_decodeDestPort (x : BitVec 2) : encodeDestPort (decodeDestPort x) = x := by
  revert x; decide

@[simp] theorem encodeDestMode_decodeDestMode (x : BitVec 2) : encodeDestMode (decodeDestMode x) = x := by
  revert x; decide

theorem Enc.Fmt.code_of_ofNat {x : BitVec 5} {f : Fmt} (h : Enc.Fmt.ofNat x.toNat = some f) : Enc.Fmt.code f = x :=
  (by decide : ∀ x : BitVec 5, ∀ f ∈ Enc.Fmt.ofNat x.toNat, Enc.Fmt.code f = x) x f h

/-! ### Destination words (R36) -/

theorem decodeDest_zero : decodeDest 0 = some none := by decide

theorem decodeDest_encodeDest (d : Option Dest) : decodeDest (encodeDest d) = some d := by
  cases d with
  | none => exact decodeDest_zero
  | some d =>
    simp (disch := omega) only [decodeDest, encodeDest, BitVec.extractLsb'_append_eq_of_le,
      BitVec.extractLsb'_append_eq_of_add_le]
    simp

/-- A destination word is the eight fields it is cut into. -/
theorem destWord_eq_append (x : BitVec 32) :
    x.extractLsb' 31 1 ++ x.extractLsb' 29 2 ++ x.extractLsb' 27 2 ++ x.extractLsb' 16 11 ++ x.extractLsb' 14 2 ++
      x.extractLsb' 12 2 ++ x.extractLsb' 11 1 ++ x.extractLsb' 0 11 = x := by
  simp (disch := omega) only [BitVec.extractLsb'_append_extractLsb'_eq_extractLsb']
  exact BitVec.extractLsb'_eq_self

theorem encodeDest_of_decodeDest {x : BitVec 32} {d : Option Dest} (h : decodeDest x = some d) : encodeDest d = x := by
  have hx := destWord_eq_append x
  unfold decodeDest at h
  split at h
  case isTrue =>
    split at h <;> cases h
    case isTrue hx => exact hx.symm
  case isFalse hv =>
    split at h <;> cases h
    case isFalse hr =>
      rw [(BitVec.eq_zero_or_eq_one _).resolve_left hv, (BitVec.eq_zero_or_eq_one _).resolve_right hr] at hx
      simpa only [encodeDest, encodeDestPort_decodeDestPort, encodeDestMode_decodeDestMode] using hx

theorem decodeDest_eq_some {x : BitVec 32} {d : Option Dest} : decodeDest x = some d ↔ x = encodeDest d :=
  ⟨fun h => (encodeDest_of_decodeDest h).symm, fun h => h ▸ decodeDest_encodeDest d⟩

/-! ### The fields of an operator word (R30) -/

/-- The fields of a word are accepted when each of its five coded fields is. -/
theorem decodeFields_eq_ok {x : BitVec 128} {w : OpFields} : decodeFields x = .ok w ↔
    decodeArity (x.extractLsb' 114 2) = some w.arity ∧ decodeTa (x.extractLsb' 109 3) = some w.ta ∧
      Enc.Fmt.ofNat (x.extractLsb' 100 5).toNat = some w.fmt ∧ decodeDest (x.extractLsb' 32 32) = some w.d0 ∧
      decodeDest (x.extractLsb' 0 32) = some w.d1 ∧ x.extractLsb' 116 4 = w.var ∧ decodeLit (x.extractLsb' 112 2) = w.lit ∧
      x.extractLsb' 105 4 = w.tw ∧ x.extractLsb' 96 4 = w.mod ∧ x.extractLsb' 64 32 = w.imm := by
  unfold decodeFields
  constructor
  · intro h
    split at h <;> cases h
    exact ⟨‹_›, ‹_›, ‹_›, ‹_›, ‹_›, rfl, rfl, rfl, rfl, rfl⟩
  · rintro ⟨har, hta, hf, h0, h1, hvar, hlit, htw, hmod, himm⟩
    rw [har, hta, hf, h0, h1, hvar, hlit, htw, hmod, himm]

theorem decodeFields_append_encodeFields (c : BitVec 8) (w : OpFields) : decodeFields (c ++ encodeFields w) = .ok w := by
  rw [decodeFields_eq_ok]
  simp (disch := omega) only [encodeFields, BitVec.extractLsb'_append_eq_of_le, BitVec.extractLsb'_append_eq_of_add_le]
  simp [decodeDest_encodeDest]

/-- An operator word is its opcode and the ten fields it is cut into. -/
theorem operatorWord_eq_append (x : BitVec 128) :
    x.extractLsb' 120 8 ++ (x.extractLsb' 116 4 ++ x.extractLsb' 114 2 ++ x.extractLsb' 112 2 ++ x.extractLsb' 109 3 ++
      x.extractLsb' 105 4 ++ x.extractLsb' 100 5 ++ x.extractLsb' 96 4 ++ x.extractLsb' 64 32 ++ x.extractLsb' 32 32 ++
      x.extractLsb' 0 32) = x := by
  simp (disch := omega) only [BitVec.extractLsb'_append_extractLsb'_eq_extractLsb']
  exact BitVec.extractLsb'_eq_self

theorem opcode_append_encodeFields {x : BitVec 128} {w : OpFields} (h : decodeFields x = .ok w) :
    x.extractLsb' 120 8 ++ encodeFields w = x := by
  obtain ⟨har, hta, hf, h0, h1, hvar, hlit, htw, hmod, himm⟩ := decodeFields_eq_ok.mp h
  conv_rhs => rw [← operatorWord_eq_append x]
  rw [encodeFields, encodeArity_of_decodeArity har, encodeTa_of_decodeTa hta, Enc.Fmt.code_of_ofNat hf,
    encodeDest_of_decodeDest h0, encodeDest_of_decodeDest h1, ← hvar, ← hlit, encodeLit_decodeLit, ← htw, ← hmod, ← himm]

/-! ### Opcodes (R51, R52) -/

theorem ofOpcode_xop (n : BitVec 6) (w : OpFields) : ofOpcode (0b11#2 ++ n) w = some (.xop n w) := by
  rw [ofOpcode, if_pos BitVec.extractLsb'_append_eq_left, BitVec.extractLsb'_append_eq_right]

theorem ofOpcode_of_opcodeOf {i : Instr} {c : BitVec 8} {w : OpFields} (h : opcodeOf i = some (c, w)) :
    ofOpcode c w = some i := by
  cases i <;> cases h
  case xop n => exact ofOpcode_xop n w
  all_goals rfl

theorem ofOpcode_isSome {i : Instr} {c : BitVec 8} {w : OpFields} (h : opcodeOf i = some (c, w)) (v : OpFields) :
    (ofOpcode c v).isSome = true := by
  cases i <;> cases h
  case xop n => rw [ofOpcode_xop]; rfl
  all_goals rfl

theorem opcodeOf_of_ofOpcode {i : Instr} {c : BitVec 8} {w : OpFields} (h : ofOpcode c w = some i) :
    opcodeOf i = some (c, w) := by
  unfold ofOpcode at h
  split at h
  case isTrue hc =>
    cases h
    simp only [opcodeOf]
    rw [← hc, BitVec.extractLsb'_append_extractLsb']
  case isFalse =>
    split at h
    all_goals cases h
    all_goals
      rename_i hn
      exact congrArg (fun c => some (c, w)) (BitVec.eq_of_toNat_eq hn.symm)

/-! ### Operator words (R53) -/

theorem encode_eq_some {i : Instr} {x : BitVec 128} :
    encode i = some x ↔ ∃ c w, opcodeOf i = some (c, w) ∧ c ++ encodeFields w = x := by
  simp only [encode, Option.map_eq_some_iff, Prod.exists]

theorem decode_eq_ok {x : BitVec 128} {i : Instr} : decode x = .ok i ↔
    ∃ w, decodeFields x = .ok w ∧ ofOpcode (x.extractLsb' 120 8) w = some i ∧ i.wf = true := by
  unfold decode
  constructor
  · intro h
    split at h
    case h_1 => cases h
    case h_2 =>
      split at h
      case h_1 => cases h
      case h_2 w hw =>
        split at h
        case h_1 k hk =>
          split at h <;> cases h
          case isTrue hwf => exact ⟨w, hw, hk, hwf⟩
        case h_2 => cases h
  · rintro ⟨w, hw, hi, hwf⟩
    obtain ⟨k, hk⟩ := Option.isSome_iff_exists.mp (ofOpcode_isSome (opcodeOf_of_ofOpcode hi) default)
    simp only [hk, hw, hi, hwf, if_true]

theorem decode_of_encode {i : Instr} {x : BitVec 128} (hwf : i.wf = true) (h : encode i = some x) : decode x = .ok i := by
  obtain ⟨c, w, hi, rfl⟩ := encode_eq_some.mp h
  refine decode_eq_ok.mpr ⟨w, decodeFields_append_encodeFields c w, ?_, hwf⟩
  rw [BitVec.extractLsb'_append_eq_left]
  exact ofOpcode_of_opcodeOf hi

theorem encode_of_decode {i : Instr} {x : BitVec 128} (h : decode x = .ok i) : i.wf = true ∧ encode i = some x := by
  obtain ⟨w, hw, hi, hwf⟩ := decode_eq_ok.mp h
  exact ⟨hwf, encode_eq_some.mpr ⟨_, w, opcodeOf_of_ofOpcode hi, opcode_append_encodeFields hw⟩⟩

/-! ### FANOUT records (R40, R41) -/

theorem decodeDestOk_eq_some {x : BitVec 32} {d : Option Dest} :
    decodeDestOk x = some d ↔ x = encodeDest d ∧ Enc.destOptOk d = true := by
  unfold decodeDestOk
  constructor
  · intro h
    split at h
    case h_1 e he =>
      split at h <;> cases h
      case isTrue hd => exact ⟨decodeDest_eq_some.mp he, hd⟩
    case h_2 => cases h
  · rintro ⟨rfl, hd⟩
    rw [decodeDest_encodeDest]
    exact if_pos hd

/-- A record is the four words it is cut into. -/
theorem recordWord_eq_append (x : BitVec 128) :
    x.extractLsb' 96 32 ++ x.extractLsb' 64 32 ++ x.extractLsb' 32 32 ++ x.extractLsb' 0 32 = x := by
  simp (disch := omega) only [BitVec.extractLsb'_append_extractLsb'_eq_extractLsb']
  exact BitVec.extractLsb'_eq_self

theorem recordWords_eq {x : BitVec 128} {a b c d : BitVec 32} : recordWords x = [a, b, c, d] ↔ x = a ++ b ++ c ++ d := by
  constructor
  · intro h
    simp only [recordWords, List.cons.injEq, and_true] at h
    obtain ⟨rfl, rfl, rfl, rfl⟩ := h
    exact (recordWord_eq_append x).symm
  · rintro rfl
    simp (disch := omega) only [recordWords, BitVec.extractLsb'_append_eq_of_le, BitVec.extractLsb'_append_eq_of_add_le]
    simp

/-- The words of a record are accepted when each is. -/
theorem mapM_recordWords {x : BitVec 128} {e0 e1 e2 e3 : Option Dest} :
    (recordWords x).mapM decodeDestOk = some [e0, e1, e2, e3] ↔
      x = encodeDest e0 ++ encodeDest e1 ++ encodeDest e2 ++ encodeDest e3 ∧ ∀ e ∈ [e0, e1, e2, e3], Enc.destOptOk e = true := by
  rw [← recordWords_eq]
  simp only [recordWords, List.mapM_cons, List.mapM_nil, Option.pure_def, Option.bind_eq_bind, Option.bind_some,
    Option.bind_eq_some_iff, decodeDestOk_eq_some, Option.some.injEq, exists_exists_and_eq_and,
    exists_exists_and_exists_and_eq_and, List.cons.injEq, exists_eq_right_right, and_true, ↓existsAndEq, List.forall_mem_cons,
    List.not_mem_nil, false_imp_iff, implies_true]
  tauto

theorem decodeRecord_cases {x : BitVec 128} {l : List (Option Dest)} (h : decodeRecord x = some l) :
    ∃ e0 e1 e2 e3, l = [e0, e1, e2, e3] ∧ (recordWords x).mapM decodeDestOk = some l ∧
      [e0, e1, e2].all Enc.notLink = true := by
  unfold decodeRecord at h
  split at h
  case h_1 e0 e1 e2 e3 hm =>
    split at h <;> cases h
    case isTrue hl => exact ⟨e0, e1, e2, e3, rfl, hm, hl⟩
  case h_2 => cases h

theorem length_of_decodeRecord {x : BitVec 128} {l : List (Option Dest)} (h : decodeRecord x = some l) : l.length = 4 := by
  obtain ⟨e0, e1, e2, e3, rfl, -, -⟩ := decodeRecord_cases h
  rfl

theorem decodeRecord_eq_some {x : BitVec 128} {e0 e1 e2 e3 : Option Dest} : decodeRecord x = some [e0, e1, e2, e3] ↔
    x = encodeDest e0 ++ encodeDest e1 ++ encodeDest e2 ++ encodeDest e3 ∧
      (∀ e ∈ [e0, e1, e2, e3], Enc.destOptOk e = true) ∧ ∀ e ∈ [e0, e1, e2], Enc.notLink e = true := by
  rw [← and_assoc, ← mapM_recordWords, ← List.all_eq_true]
  constructor
  · intro h
    obtain ⟨_, _, _, _, ⟨⟩, hm, hl⟩ := decodeRecord_cases h
    exact ⟨hm, hl⟩
  · rintro ⟨hm, hl⟩
    simp only [decodeRecord, hm, hl, if_true]

/-! ### The obligations -/

/-- Settles O53: reading and writing are inverse on fields, words of operators, destination words and records. -/
theorem encodingsRoundTrip : Obligations.EncodingsRoundTrip := by
  unfold Obligations.EncodingsRoundTrip
  refine ⟨fun i x => decode_of_encode, fun i hi => ?_, fun i x => encode_of_decode, decodeDest_encodeDest,
    fun x d => encodeDest_of_decodeDest, fun x l => length_of_decodeRecord, fun x e0 e1 e2 e3 => decodeRecord_eq_some⟩
  obtain ⟨⟨c, w⟩, h⟩ := Option.isSome_iff_exists.mp hi
  exact ⟨_, encode_eq_some.mpr ⟨c, w, h, rfl⟩⟩

/-- Settles O52: the accepted words are those that their operators' fields make; the rejected ones are evaluated. -/
theorem wordsDecode : Obligations.WordsDecode := by
  unfold Obligations.WordsDecode
  refine ⟨decode_of_encode ?_ ?_, decode_of_encode ?_ ?_, decode_of_encode ?_ ?_, ?_, ?_, ?_⟩
  all_goals decide

end Sys2Proof
end

section
namespace Sys2Proof.Machine

/-! ## Tokens and tiles arriving at cells (O39) -/

/-! ### Frames and shares of the matching store (R78, R105) -/

theorem frameCurrent_iff {f : Frame} {t : Tag} :
    frameCurrent f t = true ↔ f.gen = tagGen t ∧ (f.st = .live ∨ f.st = .parked) := by
  simp [frameCurrent, and_comm]

theorem State.frameOf_of_ctx {s : State} {a : Nat} {x : Ctx} (h : s.ctx a = some x) (t : Tag) :
    s.frameOf a t = x.frame (tagFrame t) := by
  rw [State.frameOf, h]

theorem State.isHandler_of_live {s : State} {a : Nat} {x : Ctx} {t : Tag} (h : s.ctx a = some x)
    (hsrc : (x.frame (tagFrame t)).src = .handler) (hgen : (x.frame (tagFrame t)).gen = tagGen t)
    (hst : (x.frame (tagFrame t)).st = .live) : s.isHandler a t = true := by
  rw [State.isHandler, State.frameOf_of_ctx h, hsrc, frameCurrent_iff.mpr ⟨hgen, .inl hst⟩]
  rfl

section
variable {s : State} {cell asid : Nat} {tag : Tag}

theorem State.shareOf_general (h : 0 < s.freeGeneral cell) : s.shareOf cell asid tag = some false := if_pos h

theorem State.shareOf_of_no_general (h : s.freeGeneral cell = 0) :
    s.shareOf cell asid tag = if s.isHandler asid tag && 0 < s.freeHandler cell then some true else none :=
  if_neg (by omega)

theorem State.shareOf_handler (h : s.freeGeneral cell = 0) (hh : s.isHandler asid tag = true) (hf : 0 < s.freeHandler cell) :
    s.shareOf cell asid tag = some true := by
  simp [State.shareOf_of_no_general h, hh, hf]

theorem State.shareOf_full (h : s.freeGeneral cell = 0) (hf : (s.frameOf asid tag).src ≠ .handler ∨ s.freeHandler cell = 0) :
    s.shareOf cell asid tag = none := by
  rw [State.shareOf_of_no_general h, State.isHandler]
  rcases hf with hf | hf <;> simp [hf]

end

/-! ### A token in the matching store (R76, R79) -/

section
variable {s : State} {t : Token}

theorem State.acceptToken_enters {res : Bool} (h : s.shareOf t.cell t.asid t.tag = some res) :
    s.acceptToken t = s.enter t res := by
  rw [State.acceptToken, h]

variable (hfull : s.shareOf t.cell t.asid t.tag = none)
include hfull

theorem State.acceptToken_spills (hc : (s.cell t.cell).completes t = false) : s.acceptToken t = s.spillToken t false := by
  rw [State.acceptToken, hfull]
  simp [State.acceptOver, hc]

theorem State.acceptToken_waits (hc : (s.cell t.cell).completes t = true) (he : (s.cell t.cell).entries = []) :
    s.acceptToken t = s.holdAtInput t .entries := by
  rw [State.acceptToken, hfull]
  simp [State.acceptOver, hc, he, youngest]

/-- A token that completes a set takes the place of the youngest entry, in whatever share is free then. -/
theorem State.acceptToken_replaces {v : Entry} {res : Bool} (hc : (s.cell t.cell).completes t = true)
    (hv : youngest (s.cell t.cell).entries = some v) (hlive : ((s.spillEntry t.cell v).frameOf t.asid t.tag).st = .live)
    (hres : (s.spillEntry t.cell v).shareOf t.cell t.asid t.tag = some res) :
    s.acceptToken t = (s.spillEntry t.cell v).enter t res := by
  rw [State.acceptToken, hfull]
  simp [State.acceptOver, hc, hv, hlive, hres]

end

/-! ### A token for a PARKED frame (R105, R381) -/

/-- The token as an entry with the next arrival number. -/
def State.asEntry (s : State) (t : Token) : Entry :=
  { tok := t, arrive := (s.cell t.cell).arrivals.toNat, parked := false, res := false, block := none }

/-- The token put into the park area, if there is room; it has used an arrival number. -/
def State.parkToken (s : State) (t : Token) : Option (State × List (Nat × Nat)) :=
  (s.modCell t.cell fun c => { c with arrivals := c.arrivals + 1 }).parkEntry t.asid t.cell [] (s.asEntry t)

section
variable {s : State} {t : Token}

theorem State.parkArrival_parks {s1 : State} {m : List (Nat × Nat)} (h : s.parkToken t = some (s1, m)) :
    s.parkArrival t = (s1.gcTiles t.cell).progress t.asid := by
  unfold State.parkToken State.asEntry at h
  simp only [State.parkArrival, h]

theorem State.parkArrival_enters {res : Bool} (h : s.parkToken t = none) (hr : s.shareOf t.cell t.asid t.tag = some res) :
    s.parkArrival t = s.enter t res true := by
  unfold State.parkToken State.asEntry at h
  simp only [State.parkArrival, h, hr]

theorem State.parkArrival_spills (h : s.parkToken t = none) (hr : s.shareOf t.cell t.asid t.tag = none) :
    s.parkArrival t = s.spillToken t true := by
  unfold State.parkToken State.asEntry at h
  simp only [State.parkArrival, h, hr]

end

/-! ### From the frame on (R42, R80, R105) -/

theorem State.dropOrphan_counts {s : State} {x : Ctx} {t : Token} (h : x.cr.orphanEn = false) :
    s.dropOrphan x t = (s.countOrphan t.asid).gcTiles t.cell := by
  simp [State.dropOrphan, h]

theorem State.dropOrphan_traps {s : State} {x : Ctx} {t : Token} (h : x.cr.orphanEn = true) :
    s.dropOrphan x t = ((s.countOrphan t.asid).tokenTrap 3 t (trapOf 0x09 0) false).gcTiles t.cell := by
  simp [State.dropOrphan, h]

section
variable {s : State} {t : Token} {x : Ctx} (hx : s.ctx t.asid = some x)
include hx

theorem State.arriveFrame_orphan
    (h : ¬ ((x.frame (tagFrame t.tag)).gen = tagGen t.tag ∧
      ((x.frame (tagFrame t.tag)).st = .live ∨ (x.frame (tagFrame t.tag)).st = .parked))) :
    s.arriveFrame t = s.dropOrphan x t := by
  rw [← frameCurrent_iff, Bool.not_eq_true] at h
  simp [State.arriveFrame, hx, h]

variable (hgen : (x.frame (tagFrame t.tag)).gen = tagGen t.tag)
include hgen

theorem State.arriveFrame_parked (hst : (x.frame (tagFrame t.tag)).st = .parked) : s.arriveFrame t = s.parkArrival t := by
  simp [State.arriveFrame, hx, frameCurrent, hst, hgen]

variable (hst : (x.frame (tagFrame t.tag)).st = .live)
include hst

theorem State.arriveFrame_record (hr : ((s.cell t.cell).activeSlot t.asid t.slot).record = true) :
    s.arriveFrame t = s.tokenTrap 1 t tILLEGAL_OP true := by
  simp [State.arriveFrame, hx, frameCurrent, hst, hgen, hr]

variable (hr : ((s.cell t.cell).activeSlot t.asid t.slot).record = false)
include hr

theorem State.arriveFrame_waits (hw : s.slotSpilled t.asid t.cell t.slot = true) :
    s.arriveFrame t = s.holdAtInput t .lookup := by
  simp [State.arriveFrame, hx, frameCurrent, hst, hgen, hr, hw]

theorem State.arriveFrame_accepts (hw : s.slotSpilled t.asid t.cell t.slot = false) :
    s.arriveFrame t = s.acceptToken t := by
  simp [State.arriveFrame, hx, frameCurrent, hst, hgen, hr, hw]

end

/-! ### Generations (R158) -/

section
variable {s : State} {t : Token} {x : Ctx} {p : Part} (hx : s.ctx t.asid = some x) (hp : (s.cell t.cell).part t.asid = some p)
include hx hp

theorem State.arrive_current (h : t.cgen = p.cgen) : s.arrive t = s.arriveFrame t := by
  simp [State.arrive, hx, hp, h]

theorem State.arrive_ahead (h : t.cgen = p.cgen + 1) : s.arrive t = s.holdAtInput t .flip := by
  simp [State.arrive, hx, hp, h]

variable (h : t.cgen ≠ p.cgen) (h1 : t.cgen ≠ p.cgen + 1)
include h h1

theorem State.arrive_purged (hw : x.purgeWindow = true) : s.arrive t = (s.countPurged t.asid 1).gcTiles t.cell := by
  simp only [State.arrive, hx, hp, h, h1, hw, if_false, if_true]

theorem State.arrive_stray (hw : x.purgeWindow = false) :
    s.arrive t = (s.tokenTrap 3 t (trapOf 0x08 2) false).gcTiles t.cell := by
  simp only [State.arrive, hx, hp, h, h1, hw, Bool.false_eq_true, if_false]

end

theorem exec_tokenArrival {s : State} {n : Nat} {f : Flight} {t : Token} (hn : s.net[n]? = some f) (ht : f.toks = [t])
    (htile : f.tile = none) (ha : s.away t.asid = false) :
    exec (.tokenArrival n) s = .next ((State.arrive { s with net := s.net.eraseIdx n } t).progress t.asid) := by
  obtain ⟨toks, tile, left, line, xfer, far⟩ := f
  obtain rfl : toks = [t] := ht
  obtain rfl : tile = none := htile
  show execTokenArrival n s = _
  simp only [execTokenArrival, hn, ha, Bool.false_eq_true, if_false]

/-! ### Packets (R83, R84) -/

theorem Cell.assemble_isSome {c : Cell} {n : Nat} :
    (c.assemble n).isSome = true ↔ c.claim = none ∧ c.reserved.length < 16 ∧ (c.freeRun n).isSome = true := by
  unfold Cell.assemble
  by_cases hr : c.reserved.length < 16
  · cases c.claim <;> simp [hr, Nat.not_le.mpr hr]
  · simp [hr, Nat.le_of_not_lt hr]

theorem Cell.assemble_eq_none {c : Cell} {n : Nat} :
    c.assemble n = none ↔ c.claim.isSome = true ∨ 16 ≤ c.reserved.length ∨ c.freeRun n = none := by
  rw [← Option.not_isSome_iff_eq_none, Cell.assemble_isSome]
  simp only [not_and_or, Nat.not_lt, Option.not_isSome_iff_eq_none, ← ne_eq, Option.ne_none_iff_isSome]

theorem Cell.assemble_of_free {c : Cell} {n : Nat} (hc : c.claim = none) (hr : c.reserved.length < 16) :
    c.assemble n = c.freeRun n := by
  simp [Cell.assemble, hc, hr]

section
variable {s : State} {n : Nat} {f : Flight}

theorem State.packetAt_more (l : Nat) (h : 2 ≤ f.left) :
    s.packetAt n f l = { s with net := s.net.set n { f with left := f.left - 1, line := some l } } := if_neg (by omega)

theorem State.packetAt_last (l : Nat) (h : f.left ≤ 1) :
    s.packetAt n f l = State.assembled { s with net := s.net.eraseIdx n } f l := if_pos h

theorem State.packet_letIn {l : Nat} (h : f.line = some l) : s.packet n f = (s.packetAt n f l).progress f.asid := by
  simp only [State.packet, h]

theorem State.firstPacket_reserves {l : Nat} (h : (s.cell f.cell).assemble f.lines = some l) :
    s.firstPacket n f = (s.modCell f.cell fun x => { x with reserved := x.reserved ++ [(l, f.lines)] }).packetAt n f l := by
  rw [State.firstPacket, h]

theorem State.firstPacket_waits (h : (s.cell f.cell).assemble f.lines = none) : s.firstPacket n f = s.holdFlight n f .space := by
  rw [State.firstPacket, h]

variable (hl : f.line = none)
include hl

theorem State.packet_nowhere (hp : (s.cell f.cell).part f.asid = none) :
    s.packet n f = State.progress { s with net := s.net.eraseIdx n } f.asid := by
  simp only [State.packet, hl, hp]

variable {p : Part} (hp : (s.cell f.cell).part f.asid = some p)
include hp

theorem State.packet_ahead (h : ∃ t ∈ f.toks, t.cgen = p.cgen + 1) :
    s.packet n f = (s.holdFlight n f .flip).progress f.asid := by
  have h : (f.toks.any fun t => t.cgen == p.cgen + 1) = true := by simpa using h
  simp only [State.packet, hl, hp, h, if_true]

theorem State.packet_current (h : ∀ t ∈ f.toks, t.cgen = p.cgen) :
    s.packet n f = (s.firstPacket n f).progress f.asid := by
  have hnext : (f.toks.any fun t => t.cgen == p.cgen + 1) = false := by
    simpa using fun t ht => h t ht ▸ (by decide : ∀ g : BitVec 4, g ≠ g + 1) p.cgen
  have h : (f.toks.any fun t => t.cgen != p.cgen) = false := by simpa using h
  simp only [State.packet, hl, hp, hnext, h, Bool.false_eq_true, if_false]

variable (hnext : ∀ t ∈ f.toks, t.cgen ≠ p.cgen + 1)
include hnext

theorem State.packet_stray (h : ∃ t ∈ f.toks, t.cgen ≠ p.cgen) :
    s.packet n f = (f.toks.foldl State.arrive { s with net := s.net.eraseIdx n }).progress f.asid := by
  have hnext : (f.toks.any fun t => t.cgen == p.cgen + 1) = false := by simpa using hnext
  have h : (f.toks.any fun t => t.cgen != p.cgen) = true := by simpa using h
  simp only [State.packet, hl, hp, hnext, h, Bool.false_eq_true, if_false, if_true]

end

theorem exec_packetArrival {s : State} {n : Nat} {f : Flight} {d : List Byte} (hn : s.net[n]? = some f) (ht : f.tile = some d)
    (ha : s.away f.asid = false) : exec (.packetArrival n) s = .next (s.packet n f) := by
  show execPacketArrival n s = _
  simp [execPacketArrival, hn, ht, ha]

/-! ### What waits at an input (R79, R83, R158) -/

/-- A packet that leaves the input arrives again, as the last flight of the network. -/
def State.packetAgain (s : State) (cell n : Nat) (f : Flight) : State :=
  State.packet { s.takeInput cell n with net := s.net ++ [f] } s.net.length f

/-- What is held for a flip stays at the input: it is away, or has another reason, or a token is still ahead. -/
def State.staysForFlip (s : State) (cell : Nat) (h : Held) : Bool :=
  s.away h.flight.asid || h.why != .flip || h.flight.toks.any fun t => t.cgen == s.cgenAt cell t.asid + 1

section
variable {s : State} {c n : Nat} {h : Held} (ha : s.away h.flight.asid = false)
include ha

theorem State.staysForFlip_iff :
    s.staysForFlip c h = true ↔ h.why ≠ .flip ∨ ∃ t ∈ h.flight.toks, t.cgen = s.cgenAt c t.asid + 1 := by
  simp [State.staysForFlip, ha]

theorem State.not_staysForFlip (hw : h.why = .flip) (hf : ¬ ∃ t ∈ h.flight.toks, t.cgen = s.cgenAt c t.asid + 1) :
    s.staysForFlip c h = false := by
  rw [← Bool.not_eq_true, State.staysForFlip_iff ha]
  exact not_or_intro (not_not_intro hw) hf

variable (hn : (s.cell c).input[n]? = some h)
include hn

theorem exec_heldTokenAccept_entries {t : Token} (hw : h.why = .entries) (ht : h.flight.toks = [t]) :
    exec (.heldTokenAccept c n) s =
      .next (if s.canAccept t then ((s.takeInput c n).arriveFrame t).progress t.asid else s) := by
  show execHeldTokenAccept c n s = _
  simp only [execHeldTokenAccept, hn, ha, hw, ht, Bool.false_eq_true, if_false]

theorem exec_heldTokenAccept_space (hw : h.why = .space) : exec (.heldTokenAccept c n) s =
    .next (if ((s.cell c).assemble h.flight.lines).isSome then s.packetAgain c n h.flight else s) := by
  show execHeldTokenAccept c n s = _
  simp only [execHeldTokenAccept, hn, ha, hw, Bool.false_eq_true, if_false]
  rfl

end

section
variable {s : State} {c n : Nat} {h : Held} (hn : (s.cell c).input[n]? = some h)
include hn

theorem exec_cgenHoldRelease_stays (hf : s.staysForFlip c h = true) : exec (.cgenHoldRelease c n) s = .next s := by
  unfold State.staysForFlip at hf
  show execCgenHoldRelease c n s = _
  simp only [execCgenHoldRelease, hn, hf, if_true]

variable (hf : s.staysForFlip c h = false)
include hf

theorem exec_cgenHoldRelease_token {t : Token} (htile : h.flight.tile = none) (ht : h.flight.toks = [t]) :
    exec (.cgenHoldRelease c n) s = .next (((s.takeInput c n).arrive t).progress t.asid) := by
  unfold State.staysForFlip at hf
  show execCgenHoldRelease c n s = _
  simp only [execCgenHoldRelease, hn, hf, htile, Bool.false_eq_true, if_false]
  rw [ht]

theorem exec_cgenHoldRelease_packet (htile : h.flight.tile.isSome = true) :
    exec (.cgenHoldRelease c n) s = .next (s.packetAgain c n h.flight) := by
  obtain ⟨d, hd⟩ := Option.isSome_iff_exists.mp htile
  unfold State.staysForFlip at hf
  show execCgenHoldRelease c n s = _
  simp only [execCgenHoldRelease, hn, hf, hd, Bool.false_eq_true, if_false]
  rfl

end

/-! ### Outgoing transfers (R85) -/

/-- The flight belongs to transfer i, its first packet has not been let in, and packets are behind it. -/
def Flight.blocks (i : Nat) (f : Flight) : Prop := f.xfer = some i ∧ f.line = none ∧ 1 < f.left

/-- Packets of transfer i have not left: their first waits in the network or at an input. -/
def State.unsent (s : State) (i : Nat) : Prop :=
  (∃ f ∈ s.net, f.blocks i) ∨ ∃ p ∈ s.cells, ∃ h ∈ p.2.input, h.flight.blocks i

section
variable {s : State} {n : Nat} {x : Xfer} (hn : s.xfers[n]? = some x)
include hn

theorem exec_outgoingTransferDone_waits (h : s.unsent x.id) : exec (.outgoingTransferDone n) s = .next s := by
  show execOutgoingTransferDone n s = _
  simp only [execOutgoingTransferDone, hn]
  rw [if_pos (by simpa [State.unsent, Flight.blocks, and_assoc] using h)]

theorem exec_outgoingTransferDone_frees (h : ¬ s.unsent x.id) : exec (.outgoingTransferDone n) s =
    .next (State.gcTiles { s with xfers := s.xfers.eraseIdx n } x.cell) := by
  show execOutgoingTransferDone n s = _
  simp only [execOutgoingTransferDone, hn]
  rw [if_neg (by simpa [State.unsent, Flight.blocks, and_assoc] using h)]

end

/-! ### The obligation -/

/-- Settles O39: an arriving token, an arriving packet, what waits at an input and a finished transfer each by the
lemmas of its case. -/
theorem tokensAndPacketsArrive : Obligations.TokensAndPacketsArrive := by
  unfold Obligations.TokensAndPacketsArrive
  refine ⟨?token, ?packet, ?held, ?transfer⟩
  case token =>
    intro s n fl t x p hn htoks htile hx haway hp s0 c fr runs plain e waits joins gives full
    have hx : s0.ctx t.asid = some x := hx
    have hp : (s0.cell t.cell).part t.asid = some p := hp
    have arrives {st : State} (h : s0.arrive t = st) : gives st := h ▸ exec_tokenArrival hn htoks htile haway
    have current {st : State} (hg : t.cgen = p.cgen) (h : s0.arriveFrame t = st) : gives st :=
      arrives ((State.arrive_current hx hp hg).trans h)
    have accepts {st : State} (h : plain) (hst : s0.acceptToken t = st) : gives st := by
      obtain ⟨hg, hlive, hgen, hrec, hspill⟩ := h
      exact current hg ((State.arriveFrame_accepts hx hgen hlive hrec hspill).trans hst)
    have noShare (h : full) : s0.shareOf t.cell t.asid t.tag = none := by
      obtain ⟨hgeneral, hhandler⟩ := h
      exact State.shareOf_full hgeneral (State.frameOf_of_ctx hx t.tag ▸ hhandler)
    refine ⟨?general, ?handler, ?spills, ?waits, ?replaces, ?lookup, ?record, ?orphan, ?orphanTrap, ?parked, ?flip, ?purged,
      ?stray⟩
    case general => exact fun h hfree => accepts h (State.acceptToken_enters (State.shareOf_general hfree))
    case handler =>
      intro h hgeneral hsrc hfree
      obtain ⟨-, hlive, hgen, -, -⟩ := id h
      have hhandler : s0.isHandler t.asid t.tag = true := State.isHandler_of_live hx hsrc hgen hlive
      exact accepts h (State.acceptToken_enters (State.shareOf_handler hgeneral hhandler hfree))
    case spills => exact fun h hfull hc => accepts h (State.acceptToken_spills (noShare hfull) hc)
    case waits => exact fun h hfull hc he => accepts h (State.acceptToken_waits (noShare hfull) hc he)
    case replaces =>
      intro h hfull hc v res hv s1 hlive hres
      exact accepts h (State.acceptToken_replaces (noShare hfull) hc hv hlive hres)
    case lookup => exact fun hg hst hgen hrec hspill => current hg (State.arriveFrame_waits hx hgen hst hrec hspill)
    case record => exact fun hg hst hgen hrec => current hg (State.arriveFrame_record hx hgen hst hrec)
    case orphan =>
      exact fun hg hruns ho => current hg ((State.arriveFrame_orphan hx hruns).trans (State.dropOrphan_counts ho))
    case orphanTrap =>
      exact fun hg hruns ho => current hg ((State.arriveFrame_orphan hx hruns).trans (State.dropOrphan_traps ho))
    case parked =>
      intro hg hst hgen put'
      have parks {st : State} (h : s0.parkArrival t = st) : gives st :=
        current hg ((State.arriveFrame_parked hx hgen hst).trans h)
      exact ⟨fun s1 m hput => parks (State.parkArrival_parks hput),
        fun hput hfree => parks (State.parkArrival_enters hput (State.shareOf_general hfree)),
        fun hput hfull => parks (State.parkArrival_spills hput (noShare hfull))⟩
    case flip => exact fun hg => arrives (State.arrive_ahead hx hp hg)
    case purged => exact fun hg hnext hw => arrives (State.arrive_purged hx hp hg hnext hw)
    case stray => exact fun hg hnext hw => arrives (State.arrive_stray hx hp hg hnext hw)
  case packet =>
    intro s n f d hn htile haway c k gives waits
    have arrives {st : State} (h : s.packet n f = st.progress f.asid) : gives st :=
      (exec_packetArrival hn htile haway).trans (congrArg _ h)
    refine ⟨?more, ?last, ?nowhere, fun p hl hp => ⟨?flip, ?stray, fun hg => ⟨?reserves, ?noRun⟩⟩⟩
    case more =>
      intro l hl hleft
      refine arrives ((State.packet_letIn hl).trans ?_)
      rw [State.packetAt_more l hleft, ← hl]
    case last => exact fun l hl hleft => arrives ((State.packet_letIn hl).trans (by rw [State.packetAt_last l hleft]))
    case nowhere => exact fun hl hp => arrives (State.packet_nowhere hl hp)
    case flip => exact fun hahead => arrives (State.packet_ahead hl hp hahead)
    case stray => exact fun hnext hstray => arrives (State.packet_stray hl hp hnext hstray)
    case reserves =>
      intro l hleft hclaim hres hrun
      rw [← Cell.assemble_of_free hclaim hres] at hrun
      exact arrives ((State.packet_current hl hp hg).trans
        (by rw [State.firstPacket_reserves hrun, State.packetAt_more l hleft]; rfl))
    case noRun =>
      intro hfull
      have hrun : (s.cell f.cell).assemble f.lines = none := Cell.assemble_eq_none.mpr hfull
      exact arrives ((State.packet_current hl hp hg).trans (by rw [State.firstPacket_waits hrun]; rfl))
  case held =>
    intro s c n h hn s0 haway again ahead
    refine ⟨?token, ?packet, ?stays, ?entries, ?space⟩
    case token =>
      exact fun t hw hahead htoks htile => exec_cgenHoldRelease_token hn (State.not_staysForFlip haway hw hahead) htile htoks
    case packet =>
      exact fun hw hahead htile => exec_cgenHoldRelease_packet hn (State.not_staysForFlip haway hw hahead) htile
    case stays => exact fun hw => exec_cgenHoldRelease_stays hn ((State.staysForFlip_iff haway).mpr hw)
    case entries =>
      intro t hw htoks
      have hexec := exec_heldTokenAccept_entries haway hn hw htoks
      exact ⟨fun hc => hexec.trans (by rw [if_pos hc]; rfl), fun hc => hexec.trans (by rw [if_neg (by simp [hc])])⟩
    case space =>
      intro hw run free
      have hexec := exec_heldTokenAccept_space haway hn hw
      exact ⟨fun hfree => hexec.trans (by rw [if_pos (Cell.assemble_isSome.mpr hfree)]; rfl),
        fun hfree => hexec.trans (by rw [if_neg fun h => hfree (Cell.assemble_isSome.mp h)])⟩
  case transfer =>
    intro s n x hn waits held
    exact ⟨exec_outgoingTransferDone_waits hn, exec_outgoingTransferDone_frees hn⟩

end Sys2Proof.Machine
end

section
namespace Sys2Proof.Machine

/-! ## The oldest queued launch (O44) -/

/-! ### A context that exists stays in place -/

@[simp] theorem State.ctx_writeMem (s : State) (pa : Nat) (d : List Byte) (a : Nat) : (s.writeMem pa d).ctx a = s.ctx a := by
  simp [State.ctx]

theorem State.isSome_ctx_modCtx {s : State} {a : Nat} (g : Ctx → Ctx) (h : (s.ctx a).isSome = true) :
    ((s.modCtx a g).ctx a).isSome = true := by
  simpa [State.ctx_modCtx] using h

theorem State.isSome_ctx_setFrame {s : State} {a : Nat} (i : Nat) (f : Frame) (h : (s.ctx a).isSome = true) :
    ((s.setFrame a i f).ctx a).isSome = true := by
  unfold State.setFrame
  split
  · exact h
  · simp

theorem State.isSome_ctx_setPool {s : State} {a : Nat} (p : Pool) (h : (s.ctx a).isSome = true) :
    ((s.setPool a p).ctx a).isSome = true := by
  unfold State.setPool
  split
  · exact h
  · simp

theorem State.isSome_ctx_liveFrame {s : State} {a : Nat} (i : Nat) (b : Birth) (h : (s.ctx a).isSome = true) :
    ((s.liveFrame a i b).ctx a).isSome = true := by
  unfold State.liveFrame
  split
  · exact h
  · exact State.isSome_ctx_setPool _ (State.isSome_ctx_setFrame _ _ h)

@[simp] theorem State.ctx_publishRecord (s : State) (a b : Nat) : (s.publishRecord a).ctx b = s.ctx b := by
  unfold State.publishRecord
  split
  · rfl
  · simp only [State.ctx_writeMem]

theorem State.isSome_ctx_setImage {s : State} {a : Nat} (id : BitVec 128) (h : (s.ctx a).isSome = true) :
    ((s.setImage a id).ctx a).isSome = true := by
  simpa [State.setImage, State.ctx_modCtx] using h

/-! ### When the launch can be applied (R150, R153) -/

theorem Ctx.launchReady_iff {x : Ctx} {l : LaunchReq} {rest : List LaunchReq} (hl : x.launches = l :: rest) :
    x.launchReady = true ↔ (x.frame 0).st = .free ∧ x.cr.frozen = false ∧ x.dry = .none ∧
      (.launch ∈ x.planeOps → x.planeOps.head? = some .launch) := by
  simp [Ctx.launchReady, hl, and_assoc, imp_iff_not_or]

theorem Ctx.askLoad_behind {x : Ctx} (h : x.planeOps ≠ []) (hn : .launch ∉ x.planeOps) :
    x.askLoad.planeOps.head? ≠ some .launch := by
  obtain ⟨p, ps, hp⟩ := List.exists_cons_of_ne_nil h
  have hne : p ≠ .launch := by rintro rfl; simp [hp] at hn
  rw [Ctx.askLoad, if_neg (by simpa using hn)]
  simp [hp, hne]

/-- The load of a launch that is ready is the first of the plane operations once it has joined an empty queue, or has
already joined. -/
theorem Ctx.askLoad_first {x : Ctx} (hready : .launch ∈ x.planeOps → x.planeOps.head? = some .launch)
    (h : x.planeOps = [] ∨ .launch ∈ x.planeOps) : x.askLoad.planeOps.head? = some .launch := by
  rcases h with h | h
  · simp [Ctx.askLoad, h]
  · simpa [Ctx.askLoad, h] using hready h

/-! ### Frame 0 becomes LIVE (R150) -/

/-- The launch has left the queue and runs, and frame 0 is LIVE; its tokens have not been sent. -/
def State.rootLive (s : State) (asid : Nat) (l : LaunchReq) : State :=
  (s.modCtx asid fun x =>
    { x with launches := x.launches.tail, running := some l, pool := { x.pool with maxd := 0 }
             planeOps := x.planeOps.filter (· != .launch) }).liveFrame asid 0
    { share := .root, depth := 0, parent := 0, pgen := 0, rettag := none, gsize := 0, rank := 0 }

theorem State.startLaunch_sends {s : State} {asid : Nat} (l : LaunchReq) (ds : List Dest) (h : (s.ctx asid).isSome = true) :
    ∃ y, (s.rootLive asid l).ctx asid = some y ∧
      s.startLaunch asid l ds =
        ((s.rootLive asid l).send (y.injector asid) (frameTag (y.frame 0).gen 0) (.scalar l.arg false false) ds).progress asid := by
  have hroot : ((s.rootLive asid l).ctx asid).isSome = true := State.isSome_ctx_liveFrame _ _ (State.isSome_ctx_modCtx _ h)
  obtain ⟨y, hy⟩ := Option.isSome_iff_exists.mp hroot
  refine ⟨y, hy, ?_⟩
  have htag : (s.rootLive asid l).childTag asid 0 = frameTag (y.frame 0).gen 0 := by rw [State.childTag, hy]
  rw [← htag]
  unfold State.rootLive at hy ⊢
  simp only [State.startLaunch, hy]

/-! ### Writes of DATA to other devices (R74, R328) -/

/-- Lines of the request are still to be answered, and may yet be in time. -/
def FarPage.Awaited (now : Nat) (p : FarPage) : Prop := p.late = false ∧ p.left ≠ [] ∧ now < p.deadline

/-- Every line of the request has been performed, and in time. -/
def FarPage.Performed (p : FarPage) : Prop := p.refused = false ∧ p.late = false ∧ p.left = []

theorem FarPage.waits_iff {p : FarPage} {asid now : Nat} (h : p.ofLoad asid = true) : p.waits now = true ↔ p.Awaited now := by
  obtain ⟨-, hgone⟩ : _ ∧ p.gone = false := by simpa [FarPage.ofLoad] using h
  simp [FarPage.waits, FarPage.Awaited, hgone, and_assoc]

theorem FarPage.fails_iff {p : FarPage} : (p.refused || p.timedOut) = true ↔ ¬ p.Performed := by
  simp only [FarPage.timedOut, FarPage.Performed, Bool.or_eq_true, Bool.not_eq_true', List.isEmpty_eq_false_iff, not_and_or,
    Bool.not_eq_false]

section
variable {s : State} {asid : Nat} (l : LaunchReq) (id : BitVec 128) (ds : List Dest)

theorem State.loaded_waits (h : ∃ p ∈ s.farPages, p.ofLoad asid = true ∧ p.Awaited s.dev.time) :
    s.loaded asid l id ds = s.modCtx asid fun x => { x with launches := { l with ports := some (id, ds) } :: x.launches.tail } := by
  obtain ⟨p, hp, hmine, hopen⟩ := h
  refine if_pos (List.any_eq_true.mpr ⟨p, List.mem_filter.mpr ⟨hp, hmine⟩, ?_⟩)
  exact (FarPage.waits_iff hmine).mpr hopen

variable (hopen : ∀ p ∈ s.farPages, p.ofLoad asid = true → ¬ p.Awaited s.dev.time)
include hopen

theorem State.loaded_answered : s.loaded asid l id ds =
    if (s.farPages.filter (FarPage.ofLoad asid)).any fun p => p.refused || p.timedOut then
      (s.giveUp (FarPage.ofLoad asid)).rejectLaunch asid l
    else ((s.giveUp (FarPage.ofLoad asid)).setImage asid id).startLaunch asid l ds := by
  refine if_neg fun h => ?_
  obtain ⟨p, hp, hwaits⟩ := List.any_eq_true.mp h
  obtain ⟨hp, hmine⟩ := List.mem_filter.mp hp
  exact hopen p hp hmine ((FarPage.waits_iff hmine).mp hwaits)

theorem State.loaded_rejects (h : ∃ p ∈ s.farPages, p.ofLoad asid = true ∧ ¬ p.Performed) :
    s.loaded asid l id ds = (s.giveUp (FarPage.ofLoad asid)).rejectLaunch asid l := by
  obtain ⟨p, hp, hmine, hbad⟩ := h
  rw [State.loaded_answered l id ds hopen, if_pos]
  exact List.any_eq_true.mpr ⟨p, List.mem_filter.mpr ⟨hp, hmine⟩, FarPage.fails_iff.mpr hbad⟩

theorem State.loaded_starts (h : ∀ p ∈ s.farPages, p.ofLoad asid = true → p.Performed) :
    s.loaded asid l id ds = ((s.giveUp (FarPage.ofLoad asid)).setImage asid id).startLaunch asid l ds := by
  rw [State.loaded_answered l id ds hopen, if_neg]
  intro hfails
  obtain ⟨p, hp, hbad⟩ := List.any_eq_true.mp hfails
  obtain ⟨hp, hmine⟩ := List.mem_filter.mp hp
  exact FarPage.fails_iff.mp hbad (h p hp hmine)

end

/-! ### Segments checked and applied (R74, steps 3 to 5) -/

/-- UNSIGNED gathered over the loads, and the context record written (R75, R351). -/
def State.noteUnsigned (s : State) (asid : Nat) (h : Header) : State :=
  (s.modCtx asid fun y => { y with par := { y.par with unsigned := y.par.unsigned || h.unsigned } }).publishRecord asid

section
variable {s s1 : State} {asid : Nat} {x : Ctx} {l : LaunchReq} {h : Header}

theorem State.applyImage_unread (hsegs : State.readSegs asid h.segs s = .bad s1) :
    s.applyImage asid x l h = s1.rejectLaunch asid l := by
  simp only [State.applyImage, hsegs]

variable {segs : List (SegEntry × List Byte)} (hsegs : State.readSegs asid h.segs s = .ok s1 segs)
include hsegs

theorem State.applyImage_unplanned (hplan : s1.loadPlan x segs = none) :
    s.applyImage asid x l h = s1.rejectLaunch asid l := by
  simp only [State.applyImage, hsegs, hplan]

variable {p : LoadPlan} (hplan : s1.loadPlan x segs = some p)
include hplan

theorem State.applyImage_unmapped {s2 : State} (hdata : State.checkData asid p.work s1 = .bad s2) :
    s.applyImage asid x l h = s2.rejectLaunch asid l := by
  simp only [State.applyImage, hsegs, hplan, hdata]

variable {s2 s3 : State} (hdata : State.checkData asid p.work s1 = .ok s2 ())
include hdata

theorem State.applyImage_faults (happly : State.applySegs asid x p.work (s2.beforeLoad asid x h.segs) = (false, s3)) :
    s.applyImage asid x l h = ((s3.noteUnsigned asid h).giveUp (FarPage.ofLoad asid)).rejectLaunch asid l := by
  simp [State.applyImage, State.noteUnsigned, hsegs, hplan, hdata, happly]

theorem State.applyImage_applies (happly : State.applySegs asid x p.work (s2.beforeLoad asid x h.segs) = (true, s3)) :
    s.applyImage asid x l h =
      (s3.noteUnsigned asid h).loaded asid l (BitVec.ofNat 128 (leNat h.imageid)) p.entry := by
  simp [State.applyImage, State.noteUnsigned, hsegs, hplan, hdata, happly]

end

/-! ### Signatures and policy (R74, step 2; R75) -/

/-- What decides whether the image may be loaded, and the state after it has been read: the policy of the virtual device for
an unsigned image, the signatures for another. -/
def State.Vets (s : State) (asid : Nat) (v : Vdev) (table : List Byte) (h : Header) (s1 : State) (sig : List Byte)
    (allowed : Bool) : Prop :=
  (h.unsigned = true ∧ s1 = s ∧ allowed = v.unsignedOk) ∨
    (h.unsigned = false ∧ s.readImage asid h.sigoff 3392 = .ok s1 sig ∧ allowed = verified v table sig)

theorem State.loadImage_vetted {s s1 : State} {asid : Nat} {x : Ctx} {l : LaunchReq} {table sig : List Byte} {h : Header}
    {v : Vdev} {allowed : Bool} (hv : look x.cr.vdev s.vdevs = some v) (hvet : s.Vets asid v table h s1 sig allowed) :
    s.loadImage asid x l table h = if allowed then s1.applyImage asid x l h else s1.rejectLaunch asid l := by
  rcases hvet with ⟨hu, rfl, rfl⟩ | ⟨hu, hread, rfl⟩
  case inl => cases hallowed : v.unsignedOk <;> simp [State.loadImage, hv, hu, hallowed]
  case inr => cases hallowed : verified v table sig <;> simp [State.loadImage, hv, hu, hread, hallowed]

/-! ### LAUNCH_APPLY (R150) -/

section
variable {s : State} {asid : Nat} {x : Ctx} {l : LaunchReq} {rest : List LaunchReq} (hx : s.ctx asid = some x)
  (hl : x.launches = l :: rest)
include hx hl

theorem exec_launchApply_stays (hready : ¬ x.launchReady = true) : exec (.launchApply asid) s = .next s := by
  show execLaunchApply asid s = _
  simp [execLaunchApply, hx, hl, hready]

variable (hready : x.launchReady = true)
include hready

theorem exec_launchApply_loaded {id : BitVec 128} {ds : List Dest} (hports : l.ports = some (id, ds)) :
    exec (.launchApply asid) s = .next (s.loaded asid { l with ports := none } id ds) := by
  show execLaunchApply asid s = _
  simp [execLaunchApply, hx, hl, hready, hports]

variable (hports : l.ports = none)
include hports

theorem exec_launchApply_headerUnread {s1 : State} (hhead : s.readHeader asid = .bad s1) :
    exec (.launchApply asid) s = .next (s1.rejectLaunch asid l) := by
  show execLaunchApply asid s = _
  simp [execLaunchApply, hx, hl, hready, hports, hhead]

variable {s1 : State} {table : List Byte} {h : Header} (hhead : s.readHeader asid = .ok s1 (table, h))
include hhead

theorem exec_launchApply_headerBad (hok : h.ok x.cr.imagesize = false) :
    exec (.launchApply asid) s = .next (s1.rejectLaunch asid l) := by
  show execLaunchApply asid s = _
  simp [execLaunchApply, hx, hl, hready, hports, hhead, hok]

variable (hok : h.ok x.cr.imagesize = true)
include hok

theorem exec_launchApply_resident (hres : x.resident h = true) {s2 : State} {segs : List (SegEntry × List Byte)} {d : Dest}
    {ds : List Dest} (hsegs : State.readSegs asid (h.segs.filter fun e => e.typ == tENTRY) s1 = .ok s2 segs)
    (hentry : entriesOf 0 segs = some (d :: ds)) :
    exec (.launchApply asid) s = .next (s2.startLaunch asid l (d :: ds)) := by
  show execLaunchApply asid s = _
  simp [execLaunchApply, hx, hl, hready, hports, hhead, hok, hres, hsegs, hentry]

variable (hres : x.resident h = false)
include hres

theorem exec_launchApply_queues (hne : x.planeOps ≠ []) (hn : .launch ∉ x.planeOps) :
    exec (.launchApply asid) s = .next (s1.modCtx asid Ctx.askLoad) := by
  have hbehind := Ctx.askLoad_behind hne hn
  show execLaunchApply asid s = _
  simp [execLaunchApply, hx, hl, hready, hports, hhead, hok, hres, hbehind]

theorem exec_launchApply_loads (hturn : x.planeOps = [] ∨ .launch ∈ x.planeOps) :
    exec (.launchApply asid) s = .next ((s1.modCtx asid Ctx.askLoad).loadImage asid x l table h) := by
  obtain ⟨-, -, -, hplane⟩ := (Ctx.launchReady_iff hl).mp hready
  have hfirst := Ctx.askLoad_first hplane hturn
  show execLaunchApply asid s = _
  simp [execLaunchApply, hx, hl, hready, hports, hhead, hok, hres, hfirst]

theorem exec_launchApply_vetted (hturn : x.planeOps = [] ∨ .launch ∈ x.planeOps) {v : Vdev} {s2 : State} {sig : List Byte}
    {allowed : Bool} (hv : look x.cr.vdev s1.vdevs = some v)
    (hvet : (s1.modCtx asid Ctx.askLoad).Vets asid v table h s2 sig allowed) :
    exec (.launchApply asid) s = .next (if allowed then s2.applyImage asid x l h else s2.rejectLaunch asid l) := by
  have hv : look x.cr.vdev (s1.modCtx asid Ctx.askLoad).vdevs = some v := by rw [State.modCtx_vdevs, hv]
  rw [exec_launchApply_loads hx hl hready hports hhead hok hres hturn, State.loadImage_vetted hv hvet]

end

/-! ### The obligation -/

/-- Settles O44: the launch that is not ready, the one whose DATA is awaited, the refused header, the resident image and the
image that is loaded, each by the lemma of its case. -/
theorem launchApplied : Obligations.LaunchApplied := by
  unfold Obligations.LaunchApplied
  intro s asid x l rest hx hl ready fresh asks rejected started mine answered open' good loaded
  have hready : x.launchReady = true ↔ ready := Ctx.launchReady_iff hl
  have starts {st : State} (ds : List Dest) (hst : (st.ctx asid).isSome = true) :
      started st ds (st.startLaunch asid { l with ports := none } ds) := State.startLaunch_sends _ ds hst
  have loads {st : State} (id : BitVec 128) (ds : List Dest) (hst : (st.ctx asid).isSome = true) :
      loaded st id ds (st.loaded asid { l with ports := none } id ds) := by
    refine ⟨State.loaded_waits _ id ds, fun hopen => ⟨State.loaded_rejects _ id ds hopen, fun hgood => ?_⟩⟩
    rw [State.loaded_starts _ id ds hopen hgood]
    exact starts ds (State.isSome_ctx_setImage id hst)
  have unported (hports : l.ports = none) : { l with ports := none } = l := by rw [← hports]
  refine ⟨?stays, ?awaited, ?headerUnread, ?headerBad, ?resident, ?image⟩
  case stays => exact fun hwait => exec_launchApply_stays hx hl (mt hready.mp hwait)
  case awaited =>
    intro h id ds hports
    exact ⟨_, exec_launchApply_loaded hx hl (hready.mpr h) hports, loads id ds (by simp [hx])⟩
  case headerUnread => exact fun ⟨h, hports⟩ s1 hhead => exec_launchApply_headerUnread hx hl (hready.mpr h) hports hhead
  case headerBad =>
    exact fun ⟨h, hports⟩ s1 table hd hhead hok => exec_launchApply_headerBad hx hl (hready.mpr h) hports hhead hok
  case resident =>
    intro ⟨h, hports⟩ s1 table hd s2 segs d ds hhead hok hres hsegs hentry hs2
    have begun := starts (d :: ds) hs2
    rw [unported hports] at begun
    exact ⟨_, exec_launchApply_resident hx hl (hready.mpr h) hports hhead hok hres hsegs hentry, begun⟩
  case image =>
    intro ⟨h, hports⟩ s1 table hd v s2 sig allowed hhead hok hres
    refine ⟨exec_launchApply_queues hx hl (hready.mpr h) hports hhead hok hres, ?_⟩
    intro hturn hv queued (hvet : queued.Vets asid v table hd s2 sig allowed)
    have runs := exec_launchApply_vetted hx hl (hready.mpr h) hports hhead hok hres hturn hv hvet
    have applies (ha : allowed = true) {u : State} (hu : s2.applyImage asid x l hd = u) :
        exec (.launchApply asid) s = .next u := by rw [runs, if_pos ha, hu]
    refine ⟨?refused, ?unread, fun s3 segs ha hsegs => ⟨?unplanned, fun p hplan => ⟨?unmapped, ?applied⟩⟩⟩
    case refused => exact fun ha => by rw [runs, ha]; rfl
    case unread => exact fun s3 ha hsegs => applies ha (State.applyImage_unread hsegs)
    case unplanned => exact fun hplan => applies ha (State.applyImage_unplanned hsegs hplan)
    case unmapped => exact fun s4 hdata => applies ha (State.applyImage_unmapped hsegs hplan hdata)
    case applied =>
      intro s4 s5 done hdata happly hs5 s6
      have hs6 : (s6.ctx asid).isSome = true := by simpa [s6, State.ctx_modCtx] using hs5
      refine ⟨?fails, ?finishes⟩
      case fails =>
        rintro rfl
        exact applies ha (State.applyImage_faults hsegs hplan hdata happly)
      case finishes =>
        rintro rfl
        have finished := loads (BitVec.ofNat 128 (leNat hd.imageid)) p.entry hs6
        rw [unported hports] at finished
        exact ⟨_, applies ha (State.applyImage_applies hsegs hplan hdata happly), finished⟩

end Sys2Proof.Machine
end

section
namespace Sys2Proof.Machine

/-! ## The two expiries of the watchdog (R94 to R97) -/

/-- Parks's rule on a cell for the first packet held at its input, where one is (R86, R95). -/
def State.parkHeld (s : State) (c : Nat) : State :=
  match (s.cell c).heldPacket with
  | some p => State.parks c p.lines (s.cell c).entries.length s
  | none => s

/-- The trap record of a second expiry: DEADLOCK, or TAG_STARVE where a loop instruction waits, against the oldest resident
entry (R97). -/
def State.stallRec (s : State) (asid : Nat) (x : Ctx) : TrapRec :=
  let who := oldestCell (s.residentEntries asid)
  contextTrap s
    { trapOf (if (s.dump asid x).waits.any fun w => w.kind == 1 || w.kind == 2 then 0x04 else 0x07) 0 with addr := x.cr.dumpbase }
    ((who.map Prod.fst).getD 0) ((who.map fun p => p.2.tok.slot).getD 0) ((who.map fun p => p.2.tok.tag).getD 0)

section
variable {s : State} {asid : Nat} {x : Ctx} (hx : s.ctx asid = some x)
include hx

/-- Neither expiry acts before the count has reached its period. -/
theorem exec_watchdog_early (h : s.expired x = false) :
    exec (.watchdogFirstExpiry asid) s = .next s ∧ exec (.watchdogSecondExpiry asid) s = .next s := by
  constructor
  · show execWatchdogFirstExpiry asid s = _
    simp [execWatchdogFirstExpiry, hx, h]
  · show execWatchdogSecondExpiry asid s = _
    simp [execWatchdogSecondExpiry, hx, h]

theorem exec_watchdogFirstExpiry_spills (h : s.expired x = true) (hstage : x.wdogStage = false) :
    exec (.watchdogFirstExpiry asid) s =
      .next (let spilled := (s.heldCells asid).foldl State.parkHeld s
        spilled.modCtx asid fun y =>
          { y with wdog := x.sinceExpiry, wdogStage := true, wdogSpilled := decide (s.wayCount < spilled.wayCount) }) := by
  show execWatchdogFirstExpiry asid s = _
  simp only [execWatchdogFirstExpiry, hx, h, hstage, Bool.not_true, Bool.or_self, Bool.false_eq_true, if_false]
  rfl

/-- The first expiry comes once: the second is next. -/
theorem exec_watchdogFirstExpiry_again (hstage : x.wdogStage = true) : exec (.watchdogFirstExpiry asid) s = .next s := by
  show execWatchdogFirstExpiry asid s = _
  simp [execWatchdogFirstExpiry, hx, hstage]

/-- The second expiry comes after the first. -/
theorem exec_watchdogSecondExpiry_first (hstage : x.wdogStage = false) : exec (.watchdogSecondExpiry asid) s = .next s := by
  show execWatchdogSecondExpiry asid s = _
  simp [execWatchdogSecondExpiry, hx, hstage]

theorem exec_watchdogSecondExpiry_traps (h : s.expired x = true) (hstage : x.wdogStage = true) :
    exec (.watchdogSecondExpiry asid) s =
      .next (((s.writeDump asid x (s.dump asid x)).modCtx asid fun y => { y with wdog := 0, wdogStage := false }).takeTrap asid
        (s.stallRec asid x)) := by
  show execWatchdogSecondExpiry asid s = _
  simp [execWatchdogSecondExpiry, hx, h, hstage, State.stallRec]

end

/-- Settles O41: each expiry before its time, in the other's stage, and when it is due. -/
theorem watchdogExpires : Obligations.WatchdogExpires := by
  unfold Obligations.WatchdogExpires
  intro s asid x hx due spilled who dump starve
  have hdue : s.expired x = true ↔ due := by simp [State.expired, due]
  refine ⟨?early, ?first, ?again, ?notYet, ?second⟩
  case early => exact fun h => exec_watchdog_early hx (by simpa [← hdue] using h)
  case first => exact fun h hstage => exec_watchdogFirstExpiry_spills hx (hdue.mpr h) hstage
  case again => exact exec_watchdogFirstExpiry_again hx
  case notYet => exact exec_watchdogSecondExpiry_first hx
  case second => exact fun h hstage => exec_watchdogSecondExpiry_traps hx (hdue.mpr h) hstage

end Sys2Proof.Machine
end

section
namespace Sys2Proof.Machine

/-! ## Spilled entries coming back, and the space claim (R80, R82, R86, R87) -/

/-! ### Lookup of a held token's key (R80) -/

section
variable {s : State} {c n : Nat} {h : Held} {t : Token} (hn : (s.cell c).input[n]? = some h) (hw : h.why = .lookup)
  (ht : h.flight.toks = [t]) (ha : s.away t.asid = false)
include hn hw ht ha

theorem exec_spillLookup : exec (.spillLookup c n) s =
    .next (let s1 := s.bringKey t (s.spilledKey t).length
      if (s1.spilledKey t).isEmpty then
        let s2 := s1.takeInput c n
        if frameCurrent (s2.frameOf t.asid t.tag) t.tag && (s2.frameOf t.asid t.tag).st == .live then s2.acceptToken t
        else s2.arriveFrame t
      else s1) := by
  have ha : s.away h.flight.asid = false := by simpa [Flight.asid, ht] using ha
  show execSpillLookup c n s = _
  simp only [execSpillLookup, hn, ha, hw, ht, Bool.false_eq_true, if_false]

end

/-! ### The refill (R80) -/

theorem firstStored_eq_none {l : List (Nat × Stored)} (h : firstStored l = none) : l = [] := by
  cases l with
  | nil => rfl
  | cons x t =>
    simp only [firstStored] at h
    split at h
    · split at h <;> cases h
    · cases h

/-- The refill takes the lowest arrival number. -/
theorem firstStored_le {l : List (Nat × Stored)} {p : Nat × Stored} (h : firstStored l = some p) :
    ∀ v ∈ l, p.2.entry.arrive ≤ v.2.entry.arrive := by
  induction l generalizing p with
  | nil => cases h
  | cons x t ih =>
    simp only [firstStored] at h
    cases hf : firstStored t with
    | none =>
      simp only [hf, Option.some.injEq] at h
      subst h
      simp [firstStored_eq_none hf]
    | some y =>
      have hle := ih hf
      simp only [hf] at h
      split at h
      all_goals
        obtain rfl := Option.some.inj h
        intro v hv
        rcases List.mem_cons.mp hv with rfl | hv
        · omega
        · have := hle v hv
          omega

section
variable {s : State} {c asid : Nat} {w : Stored} (hf : firstStored (s.spilledOn c) = some (asid, w))
include hf

theorem exec_refill : exec (.refill c) s = .next (if s.refills c then (s.bringBack asid w).getD s else s) := by
  show execRefill c s = _
  simp only [execRefill, hf]

theorem exec_refill_stays (h : s.refills c = false ∨ s.bringBack asid w = none) : exec (.refill c) s = .next s := by
  rw [exec_refill hf]
  rcases h with h | h <;> simp [h]

theorem exec_refill_returns {s1 : State} (h : s.refills c = true) (hb : s.bringBack asid w = some s1) :
    exec (.refill c) s = .next s1 := by
  simp [exec_refill hf, h, hb]

end

/-! ### The space claim (R87) -/

/-- A claim that does not fit spills for itself once no firing of the cell runs and nothing of it is on its way out. -/
def State.claimSpills (s : State) (c : Nat) : Prop :=
  (s.cell c).claim.isSome = true ∧ (s.cell c).fits (s.cell c).claimNeed = false ∧ (∀ q ∈ (s.cell c).sets, q.begun = false) ∧
    ∀ x ∈ s.xfers, x.cell ≠ c

/-- The condition as the model tests it. -/
theorem State.claimSpills_iff {s : State} {c : Nat} : s.claimSpills c ↔
    ((s.cell c).claim.isNone || (s.cell c).fits (s.cell c).claimNeed || (s.cell c).sets.any FSet.begun ||
      s.xfers.any fun x => x.cell == c) = false := by
  simp [State.claimSpills, and_assoc, Option.isSome_iff_ne_none]

theorem exec_spaceClaimSpill_waits {s : State} {c : Nat} (h : ¬ s.claimSpills c) : exec (.spaceClaimSpill c) s = .next s := by
  rw [State.claimSpills_iff, Bool.not_eq_false] at h
  show execSpaceClaimSpill c s = _
  simp only [execSpaceClaimSpill, h, if_true]

section
variable {s : State} {c : Nat} (h : s.claimSpills c)
include h

theorem exec_spaceClaimSpill_tile {e : Entry} (he : (s.cell c).nextTile = some e) :
    exec (.spaceClaimSpill c) s = .next (s.spillEntry c e) := by
  rw [State.claimSpills_iff] at h
  show execSpaceClaimSpill c s = _
  simp only [execSpaceClaimSpill, h, he, Bool.false_eq_true, if_false]

variable (he : (s.cell c).nextTile = none)
include he

theorem exec_spaceClaimSpill_set {v : FSet} {rest : List FSet} (hv : (s.cell c).victims = v :: rest) :
    exec (.spaceClaimSpill c) s = .next ((State.spillSet c v [] v.args s).progress v.asid) := by
  rw [State.claimSpills_iff] at h
  show execSpaceClaimSpill c s = _
  simp only [execSpaceClaimSpill, h, he, hv, Bool.false_eq_true, if_false]

theorem exec_spaceClaimSpill_none (hv : (s.cell c).victims = []) : exec (.spaceClaimSpill c) s = .next s := by
  rw [State.claimSpills_iff] at h
  show execSpaceClaimSpill c s = _
  simp only [execSpaceClaimSpill, h, he, hv, Bool.false_eq_true, if_false]

end

/-! ### A spilled set's tiles return (R87) -/

/-- The older of the set at hand and the next one. -/
def olderSet (b : Option FSet) (x : FSet) : Option FSet :=
  match b with
  | some y => if x.formedAt < y.formedAt then some x else some y
  | none => some x

theorem olderSet_le {b : Option FSet} {x : FSet} : ∃ q, olderSet b x = some q ∧ q.formedAt ≤ x.formedAt ∧
    ∀ y, b = some y → q.formedAt ≤ y.formedAt := by
  unfold olderSet
  cases b with
  | none => exact ⟨x, rfl, Nat.le_refl _, nofun⟩
  | some y =>
    by_cases hlt : x.formedAt < y.formedAt
    · exact ⟨x, if_pos hlt, Nat.le_refl _, fun z hz => by cases hz; omega⟩
    · exact ⟨y, if_neg hlt, by omega, fun z hz => by cases hz; omega⟩

/-- The oldest of the sets, and of the one at hand. -/
theorem foldl_olderSet_le {l : List FSet} {b : Option FSet} {q : FSet} (h : l.foldl olderSet b = some q) :
    (∀ y ∈ l, q.formedAt ≤ y.formedAt) ∧ ∀ y, b = some y → q.formedAt ≤ y.formedAt := by
  induction l generalizing b with
  | nil =>
    obtain rfl : b = some q := h
    exact ⟨nofun, fun y hy => by cases hy; exact Nat.le_refl _⟩
  | cons x l ih =>
    obtain ⟨r, hr, hrx, hrb⟩ := olderSet_le (b := b) (x := x)
    obtain ⟨hl, hq⟩ := ih h
    have hqr := hq r hr
    refine ⟨fun y hy => ?_, fun y hy => hqr.trans (hrb y hy)⟩
    rcases List.mem_cons.mp hy with rfl | hy
    · exact hqr.trans hrx
    · exact hl y hy

theorem Cell.spilledSet_le {c : Cell} {q : FSet} (h : c.spilledSet = some q) :
    ∀ y ∈ c.sets, (∃ e ∈ y.args, e.block.isSome = true) → q.formedAt ≤ y.formedAt := fun y hy he =>
  (foldl_olderSet_le (b := none) h).1 y (List.mem_filter.mpr ⟨hy, List.any_eq_true.mpr he⟩)

/-- One tile of a spilled set comes back, if lines are free for it. -/
def returnTile (asid c : Nat) (p : State × List (Nat × Nat)) (e : Entry) : State × List (Nat × Nat) :=
  if e.block.isSome then
    match p.1.seatTile asid c p.2 e with
    | some (_, m, st) => (st.progress asid, m)
    | none => p
  else p

theorem exec_spilledSetReturn_stays {s : State} {c : Nat} (h : (s.cell c).claim.isSome = true ∨ (s.cell c).spilledSet = none) :
    exec (.spilledSetReturn c) s = .next s := by
  show execSpilledSetReturn c s = _
  cases hc : (s.cell c).claim with
  | some k => simp only [execSpilledSetReturn, hc]
  | none =>
    have hq : (s.cell c).spilledSet = none := by simpa [hc] using h
    simp only [execSpilledSetReturn, hc, hq]

section
variable {s : State} {c : Nat} {q : FSet} (hc : (s.cell c).claim = none)
include hc

theorem exec_spilledSetReturn (hq : (s.cell c).spilledSet = some q) :
    exec (.spilledSetReturn c) s = .next (q.args.foldl (returnTile q.asid c) (s, [])).1 := by
  show execSpilledSetReturn c s = _
  simp only [execSpilledSetReturn, hc, hq]
  refine congrArg (fun g => Host.Outcome.next (q.args.foldl g (s, [])).1) (funext fun p => funext fun e => ?_)
  unfold returnTile
  cases e.block <;> rfl

/-- A tile in a block takes the lowest free run of lines. -/
theorem returnTile_seats {asid b l : Nat} {e : Entry} {h : Handle} (hb : e.block = some b) (hh : Handle.ofWord e.tok.payload = some h)
    (hl : (s.cell c).freeRun h.lines = some l) : (returnTile asid c (s, []) e).1 =
      ((((s.noteBlock asid c e.tok.slot b h.bytes).modCell c fun k =>
        { k with tiles := k.tiles ++ [{ line := l, lines := h.lines, data := s.loadBlock asid b h.bytes }] }).rejoin asid c b
          l).progress asid) := by
  simp [returnTile, State.seatTile, hb, hh, look, hc, hl]

end

/-! ### The obligation -/

/-- Settles O40: the lookup of a key, the refill, the space claim and the return of a set, each by the lemmas of its case. -/
theorem spillingAndReturning : Obligations.SpillingAndReturning := by
  unfold Obligations.SpillingAndReturning
  intro s c
  refine ⟨?lookup, ?refill, ?claim, ?noClaim, exec_spilledSetReturn_stays, ?returns⟩
  case lookup =>
    intro n h t hn hw ht ha s1 s2
    have hexec := exec_spillLookup hn hw ht ha
    refine ⟨fun hk => ?_, fun hk => ⟨fun hcur hst => ?_, fun hf => ?_⟩⟩
    · rw [hexec]
      exact congrArg _ (if_neg (by simpa using hk))
    · rw [hexec]
      exact congrArg _ ((if_pos (by simpa using hk)).trans (if_pos (by simpa using ⟨hcur, hst⟩)))
    · have hno : ¬ (frameCurrent (s2.frameOf t.asid t.tag) t.tag && (s2.frameOf t.asid t.tag).st == .live) = true := by
        rw [Bool.and_eq_true, not_and_or]
        simpa using hf
      rw [hexec]
      exact congrArg _ ((if_pos (by simpa using hk)).trans (if_neg hno))
  case refill =>
    intro asid w hf back
    have hback : s.bringBack asid w = back.map fun p => (p.1.gcTiles w.cell).progress asid := rfl
    refine ⟨firstStored_le hf, fun h => exec_refill_stays hf ?_, fun s1 m hlow hb => exec_refill_returns hf ?_ ?_⟩
    · simpa [State.refills, hback] using h
    · simpa [State.refills] using hlow
    · rw [hback, hb]
      rfl
  case claim =>
    intro hclaim hfits hrun hout
    have h : s.claimSpills c := ⟨hclaim, hfits, hrun, hout⟩
    exact ⟨fun e => exec_spaceClaimSpill_tile h, fun v rest he => exec_spaceClaimSpill_set h he, exec_spaceClaimSpill_none h⟩
  case noClaim =>
    intro h
    refine exec_spaceClaimSpill_waits fun ⟨hclaim, hfits, hrun, hout⟩ => ?_
    rcases h with h | h | ⟨q, hq, h⟩ | ⟨x, hx, h⟩
    · simp [h] at hclaim
    · simp [h] at hfits
    · simp [hrun q hq] at h
    · exact hout x hx h
  case returns =>
    intro q hc hq
    have hexec := exec_spilledSetReturn hc hq
    refine ⟨Cell.spilledSet_le hq, hexec, fun e b h l hargs hb hh hl => ?_⟩
    rw [hexec, hargs]
    exact congrArg _ (returnTile_seats hc hb hh hl)

end Sys2Proof.Machine
end

section
namespace Sys2Proof.Machine

/-! ## Tile transfers (R292, R300, R301, R306, R309 to R311) -/

/-! ### The descriptor that a firing reads (R306) -/

/-- The firing with its descriptor differs from the firing in nothing else. -/
theorem State.withDesc_eq (s : State) (f : Firing) (w : OpFields) : ∃ b, s.withDesc f w = { f with desc := b } := by
  unfold State.withDesc
  split
  · split
    · exact ⟨_, rfl⟩
    · exact ⟨f.desc, rfl⟩
  · exact ⟨f.desc, rfl⟩

/-! ### A tensor plan that passes its checks is issued (R292, R300) -/

/-- An issued firing is no longer selected: it has committed, or waits for its homes. -/
theorem State.issued_sel (s : State) (f : Firing) (o : MemOp) : (s.issued f o).sel = none := by
  unfold State.issued
  split <;> rfl

theorem issues_of_plan {i : Instr} {w : OpFields} {s : State} {f : Firing} {p : Plan} {plan : State → Firing → Env → Ex Plan}
    (hi : exec i s = runTensor w s plan) (hp : plan s (s.withDesc f w) (s.env (s.withDesc f w)) = .ok p) :
    Issues i s (s.readDesc f w) f (s.withDesc f w) w p := by
  intro ts s1 h hsel hn hr hiss hc
  have hrun := State.runPlan_issues (w := w) hn hr hiss hc
  rw [hi, runTensor, runFiring_selected _ hsel]
  simp only [hp, hrun, State.issued_sel, Option.isSome_none, Bool.false_eq_true, if_false]

/-! ### The plans (R309 to R311) -/

/-- The plan of a transfer over rows of descriptor d; st: it stores. -/
def tensorPlan (w : OpFields) (s : State) (f : Firing) (t : Tag) (d : Desc) (st : Bool) (kind : OpKind) (spans : List Span)
    (bad : Nat → Bool) (coords : List (Nat × Nat)) (buf : List Byte) (n : Nat) : Plan :=
  { tag := t, kind := kind, spans := spans, need := { r := !st, w := st, w1 := false, device := false },
    aligned := d.aligned, base := d.base, bad := bad, watch := s.watchTensor f w (if st then 1 else 0) coords, buf := buf,
    count := n, accept := false }

/-- The same of a load into a tile of handle h. -/
def loadPlan (w : OpFields) (s : State) (f : Firing) (t : Tag) (d : Desc) (h : Handle) (spans : List Span)
    (coords : List (Nat × Nat)) : Plan :=
  tensorPlan w s f t d false (.load h) spans noBad coords (zeros h.bytes) 0

theorem Desc.fits_iff {d : Desc} {h : Handle} : d.fits h = true ↔ h.fmt = d.fmt ∧ h.rows = d.rows ∧ h.cols = d.cols := by
  simp [Desc.fits, and_assoc]

theorem needIndex_ok {f : Firing} (hf : (f.handle .b).fmt = .z32) (hc : (f.handle .b).cols = 1) : needIndex f = .ok () := by
  simp only [Firing.handle] at hf hc
  simp [needIndex, trapIf, hf, hc]

theorem indexPoison_ok {f : Firing} {n : Nat} (h : ∀ i < n, rowPoisoned (f.handle .b) i = false) : indexPoison f n = .ok () := by
  simp only [Firing.handle] at h
  have h : (List.range n).any (rowPoisoned (f.tile .b).1) = false := by simpa using h
  simp [indexPoison, trapIf, h]

section
variable {w : OpFields} {s : State} {f : Firing} {e : Env} {t : Tag} {d : Desc} (hp : f.isPoisoned .a = false)
  (ht : outTag w f e = .ok t)
include hp ht

theorem planLdt_ok (hk : f.Kinds false false false) (hd : s.useDesc f w f.col0 true false = .ok d) :
    planLdt w s f e = .ok (loadPlan w s f t d (d.handle d.rows (d.extent f.row0) f.row0)
      (d.rowsFrom f.row0 f.col0 (d.extent f.row0)) (rectangle f.row0 f.col0 (d.extent f.row0) d.cols)) := by
  simp only [planLdt, checkKinds_ok hk, hd, checkPoison_ok hp, ht, withNeed, bind, Except.bind]
  rfl

theorem planStt_ok (hk : f.Kinds false true false) (hd : s.useDesc f w f.col0 false true = .ok d)
    (hfit : d.fits (f.handle .b) = true) : planStt w s f e =
      .ok (let m := min (f.handle .b).valid (d.extent f.row0)
        tensorPlan w s f t d true .store (d.rowsFrom f.row0 f.col0 m) (rowPoisoned (f.handle .b))
          (rectangle f.row0 f.col0 m d.cols) (f.tile .b).2 m) := by
  simp only [Firing.handle] at hfit
  simp only [planStt, checkKinds_ok hk, hd, checkPoison_ok hp, ht, trapIf, hfit, Bool.not_true, Bool.false_eq_true, if_false,
    bind, Except.bind]
  rfl

variable (hf : (f.handle .b).fmt = .z32) (hc : (f.handle .b).cols = 1)
include hf hc

theorem planGath_ok (hk : f.Kinds false true false) (hd : s.useDesc f w f.col0 true false = .ok d)
    (hshape : Enc.shapeOk d.fmt (f.handle .b).rows d.cols = true)
    (hbad : ∀ i < (f.handle .b).valid, rowPoisoned (f.handle .b) i = false) : planGath w s f e =
      .ok (let at' := targets f d (f.handle .b).valid
        loadPlan w s f t d (d.handle (f.handle .b).rows (f.handle .b).valid 0) (targetSpans d f.col0 at')
          (targetCoords d f.col0 at')) := by
  have hidx := indexPoison_ok hbad
  simp only [Firing.handle] at hshape hidx
  simp only [planGath, checkKinds_ok hk, needIndex_ok hf hc, hd, checkPoison_ok hp, hidx, ht, trapIf, hshape, withNeed,
    Bool.not_true, Bool.false_eq_true, if_false, bind, Except.bind]
  rfl

theorem planScat_ok (hk : f.Kinds false true true) (hd : s.useDesc f w f.col0 false true = .ok d)
    (hfit : d.fits (f.handle .c) = true)
    (hbad : ∀ i < min (f.handle .b).valid (f.handle .c).valid, rowPoisoned (f.handle .b) i = false) : planScat w s f e =
      .ok (let at' := targets f d (min (f.handle .b).valid (f.handle .c).valid)
        tensorPlan w s f t d true .store (targetSpans d f.col0 at') (rowPoisoned (f.handle .c)) (targetCoords d f.col0 at')
          (f.tile .c).2 at'.length) := by
  have hidx := indexPoison_ok hbad
  simp only [Firing.handle] at hfit hidx
  simp only [planScat, checkKinds_ok hk, needIndex_ok hf hc, hd, checkPoison_ok hp, hidx, ht, trapIf, hfit,
    Bool.not_true, Bool.false_eq_true, if_false, bind, Except.bind]
  rfl

end

/-- Settles O21: a transfer's plan is computed by the lemma of its instruction, and a plan that passes R300 is issued. -/
theorem tileTransfersIssue : Obligations.TileTransfersIssue := by
  unfold Obligations.TileTransfersIssue
  intro w s f t d hp ht g r0 c0 b c whole at' h plan load n m k scattered
  obtain ⟨bytes, hg⟩ : ∃ bytes, g = { f with desc := bytes } := s.withDesc_eq f w
  have issues {i : Instr} {p : Plan} {eval : State → Firing → Env → Ex Plan} (hi : exec i s = runTensor w s eval)
      (he : eval s { f with desc := bytes } (s.env f) = .ok p) :
      Issues i s (s.readDesc f w) f { f with desc := bytes } w p := by
    have hrun := issues_of_plan (f := f) (p := p) hi
    rw [show s.withDesc f w = _ from hg] at hrun
    exact hrun he
  rw [hg]
  refine ⟨?ldt, ?stt, ?gath, ?scat⟩
  case ldt => exact fun hk hd => issues rfl (planLdt_ok hp ht hk hd)
  case stt =>
    intro hk hd hfmt hrows hcols
    exact issues rfl (planStt_ok hp ht hk hd (Desc.fits_iff.mpr ⟨hfmt, hrows, hcols⟩))
  case gath =>
    intro hk hfmt hcols hd hshape hbad
    exact issues rfl (planGath_ok hp ht hfmt hcols hk hd hshape hbad)
  case scat =>
    intro hk hfmt hcols hd hcfmt hcrows hccols hbad
    exact issues rfl (planScat_ok hp ht hfmt hcols hk hd (Desc.fits_iff.mpr ⟨hcfmt, hcrows, hccols⟩) hbad)

end Sys2Proof.Machine
end

section
namespace Sys2Proof.Machine

/-! ## Tiles made element by element (R200 to R206, R208 to R210, R212 to R215, R222 to R224, R227) -/

/-! ### What an operator computes for a result tile -/

/-- The outcome that R200 to R202 give for a tile of the kind q. -/
def TileSpec.eval (q : TileSpec) (f : Firing) (e : Env) : Ex Commit :=
  evalTile q.w f e (q.tileA, q.tileB, q.tileC) (trapIf (!q.ok) tBAD_OPERAND) q.fp q.fmt q.rows q.cols q.valid q.poison q.elem

/-- Lines of each tile that the operator makes (R84). -/
def TileSpec.need (q : TileSpec) : List Nat := [tileLines q.fmt q.rows q.cols]

theorem trapIf_seq (p q : Bool) (t : Trap) : (trapIf p t *> trapIf q t) = trapIf (p || q) t := by
  cases p <;> rfl

section
variable {f : Firing} {w : OpFields} {fmt : Fmt} {fp : Bool}

/-- R200 for two tiles: formats, and the shape that the second must have. -/
theorem needTwo (x y : Fmt) (rows cols : Nat) : (needFmt f .a x *> needFmt f .b y *> needShape f .b rows cols) =
    trapIf (!((f.handle .a).fmt == x && (f.handle .b).fmt == y && (f.handle .b).rows == rows && (f.handle .b).cols == cols))
      tBAD_OPERAND := by
  simp only [needFmt, needShape, trapIf_seq, bne, Bool.not_and, Bool.or_assoc]

/-- R200 for three tiles of one shape. -/
theorem needThree (x y z : Fmt) (rows cols : Nat) :
    (needFmt f .a x *> needFmt f .b y *> needFmt f .c z *> needShape f .b rows cols *> needShape f .c rows cols) =
    trapIf (!((f.handle .a).fmt == x && (f.handle .b).fmt == y && (f.handle .c).fmt == z && (f.handle .b).rows == rows &&
      (f.handle .b).cols == cols && (f.handle .c).rows == rows && (f.handle .c).cols == cols)) tBAD_OPERAND := by
  simp only [needFmt, needShape, trapIf_seq, bne, Bool.not_and, Bool.or_assoc]

variable {e : Env}

theorem tilesOfTwo_eval (op : Nat → Nat → Nat → Nat × Flags) : (tilesOfTwo f w fmt fp op).eval f e =
    evalTile w f e (true, true, false)
      (needFmt f .a w.fmt *> needFmt f .b w.fmt *> needShape f .b (f.handle .a).rows (f.handle .a).cols) fp fmt
      (f.handle .a).rows (f.handle .a).cols (min (f.handle .a).valid (f.handle .b).valid)
      ((f.handle .a).poison ||| (f.handle .b).poison)
      (fun i j => op (i * (f.handle .a).cols + j) (cellOf (f.grid .a) i j) (cellOf (f.grid .b) i j)) := by
  rw [needTwo]
  rfl

theorem tilesOfThree_eval (op : Nat → Nat → Nat → Nat → Nat × Flags) : (tilesOfThree f w fmt fp op).eval f e =
    evalTile w f e (true, true, true)
      (needFmt f .a fmt *> needFmt f .b w.fmt *> needFmt f .c w.fmt *> needShape f .b (f.handle .a).rows (f.handle .a).cols *>
        needShape f .c (f.handle .a).rows (f.handle .a).cols) fp w.fmt
      (f.handle .a).rows (f.handle .a).cols (min (f.handle .a).valid (min (f.handle .b).valid (f.handle .c).valid))
      ((f.handle .a).poison ||| (f.handle .b).poison ||| (f.handle .c).poison)
      (fun i j => op (i * (f.handle .a).cols + j) (cellOf (f.grid .a) i j) (cellOf (f.grid .b) i j)
        (cellOf (f.grid .c) i j)) := by
  rw [needThree]
  rfl

theorem tileOfOne_eval (more : BitVec 8) (op : Nat → Nat → Nat × Flags) : (tileOfOne f w more fp op).eval f e =
    evalTile w f e (true, false, false) (needFmt f .a w.fmt) fp w.fmt (f.handle .a).rows (f.handle .a).cols
      (f.handle .a).valid ((f.handle .a).poison ||| more)
      (fun i j => op (i * (f.handle .a).cols + j) (cellOf (f.grid .a) i j)) := rfl

/-- An operator of one tile. -/
theorem evalOne_eq (op : Round → Nat → Nat → Nat × Flags) :
    evalOne w f e op = (tileOfOne f w 0 (fpOf w) (op (rounding w f e))).eval f e := by
  have hnone : (f.handle .a).poison ||| 0 = (f.handle .a).poison := BitVec.or_zero
  rw [tileOfOne_eval, hnone]
  rfl

/-- An operator of R206 over two tiles. -/
theorem evalTwo_eq (var : Nat) :
    evalTwo w f e var = (tilesOfTwo f w w.fmt (fpOf w) fun i => elemOp w (rounding w f e) var i).eval f e :=
  (tilesOfTwo_eval fun i => elemOp w (rounding w f e) var i).symm

/-- Two tiles combined bit for bit. -/
theorem evalLogic_eq (op : Nat → Nat → Nat) :
    evalLogic w f e op = (tilesOfTwo f w w.fmt false fun _ x y => (op x y, 0)).eval f e :=
  (tilesOfTwo_eval fun _ x y => (op x y, 0)).symm

/-- An operator that takes the greatest or least element of each row, or of the valid rows of each column. -/
theorem evalPick_eq (op : List Nat → Nat × Flags) :
    evalPick w f e fp fmt op = (reduction f w fmt fp true fun _ => op).eval f e := by
  unfold evalPick reduction isCol
  split <;> rfl

theorem evalRsum_eq : evalRsum w f e = (reduction f w (sumFmt w) (fpOf w) false fun i xs =>
    sumOf w (rounding w f e) (isWide w) i xs).eval f e := by
  unfold evalRsum reduction isCol
  split <;> rfl

theorem length_grid (p : Port) : (f.grid p).length = (f.handle p).rows := by
  simp [Firing.grid, gridIn, Firing.handle]

theorem normkRow_nil (ro : Round) (i : Nat) : normkRow w ro i [] = [] := by
  simp [normkRow]

/-- A row of NORMK's result is that of the operand's row. -/
theorem normkRows_getD (ro : Round) (i : Nat) :
    ((List.range (f.handle .a).rows).map fun i => normkRow w ro (i * (f.handle .a).cols) ((f.grid .a).getD i [])).getD i [] =
      normkRow w ro (i * (f.handle .a).cols) ((f.grid .a).getD i []) := by
  by_cases hi : i < (f.handle .a).rows
  · simp [List.getD_eq_getElem?_getD, hi]
  · have hg : (f.grid .a).getD i [] = [] := by simp [List.getD_eq_getElem?_getD, length_grid, Nat.le_of_not_lt hi]
    rw [hg, normkRow_nil]
    simp [List.getD_eq_getElem?_getD, hi]

end

/-- Each of these instructions runs the operator that R200 to R202 give for its tile. -/
theorem exec_eq_tileSpec {i : Instr} {f : Firing} {e : Env} {q : TileSpec} (h : tileSpec f e i = some q) :
    ∃ g, (∀ s, exec i s = runOp s g) ∧ g f e = q.eval f e := by
  cases i with
  | vadd w | vsub w | vmul w | vdiv w | vmin w | vmax w =>
    obtain rfl := Option.some.inj h
    exact ⟨_, fun _ => rfl, evalTwo_eq _⟩
  | vand w | vor w | vxor w =>
    obtain rfl := Option.some.inj h
    exact ⟨_, fun _ => rfl, evalLogic_eq _⟩
  | vcmp w =>
    obtain rfl := Option.some.inj h
    exact ⟨evalVcmp w, fun _ => rfl, by rw [tilesOfTwo_eval]; rfl⟩
  | vfma w | vmsel w =>
    obtain rfl := Option.some.inj h
    exact ⟨_, fun _ => rfl, by rw [tilesOfThree_eval]; rfl⟩
  | vabs w | vneg w | vsqrt w | vrsq w | vrcp w | vexp2 w | vlog2 w | vtanh w =>
    obtain rfl := Option.some.inj h
    exact ⟨_, fun _ => rfl, evalOne_eq _⟩
  | vscal w | vshf w =>
    obtain rfl := Option.some.inj h
    exact ⟨_, fun _ => rfl, by rw [tileOfOne_eval]; rfl⟩
  | vfill w =>
    obtain rfl := Option.some.inj h
    refine ⟨_, fun _ => rfl, ?_⟩
    simp only [evalVfill, Enc.immField, Nat.pow_zero, Nat.div_one]
    rfl
  | vrowop w | vcolop w =>
    obtain rfl := Option.some.inj h
    refine ⟨_, fun _ => rfl, ?_⟩
    simp only [evalVrowop, evalVcolop, needTwo]
    rfl
  | rsum w =>
    obtain rfl := Option.some.inj h
    exact ⟨_, fun _ => rfl, evalRsum_eq⟩
  | rmax w | rmin w | rargx w =>
    obtain rfl := Option.some.inj h
    exact ⟨_, fun _ => rfl, evalPick_eq _⟩
  | scan w =>
    obtain rfl := Option.some.inj h
    exact ⟨_, fun _ => rfl, rfl⟩
  | normk w =>
    obtain rfl := Option.some.inj h
    refine ⟨_, fun _ => rfl, ?_⟩
    simp only [evalNormk, normkRows_getD]
    rfl
  | _ => cases h

/-! ### What comes of it (R84, R87, R173, R202) -/

theorem resLines_tile (f : Firing) (q : TileSpec) (data : List Byte) (fl : ElemFlags) :
    resLines (.ok ([res0 (tileRes f q.fmt q.rows q.cols q.valid q.poison data)], fl)) = q.need := rfl

section
variable {q : TileSpec} {f : Firing} {e : Env} {t : Tag} (hk : f.Kinds q.tileA q.tileB q.tileC)
include hk

/-- R200 comes before the tag and the elements. -/
theorem TileSpec.eval_bad (h : q.ok = false ∨ Enc.shapeOk q.fmt q.rows q.cols = false) :
    q.eval f e = .error { tBAD_OPERAND with need := q.need } := by
  have hpre : (trapIf (!q.ok) tBAD_OPERAND *> needFits q.fmt q.rows q.cols) = .error tBAD_OPERAND := by
    rw [needFits, trapIf_seq]
    rcases h with h | h <;> simp [trapIf, h]
  exact evalOp_pre_error hk hpre

variable (ht : outTag q.w f e = .ok t) (hok : q.ok = true) (hshape : Enc.shapeOk q.fmt q.rows q.cols = true)
include ht hok hshape

/-- What is left after R200: the tag, the elements and their flags. -/
theorem TileSpec.eval_checked {r : List Byte × ElemFlags}
    (hr : tileApply q.fmt q.rows q.cols q.valid q.poison q.elem = r) : q.eval f e =
      withNeed q.need ((if q.fp then fpCheck e.fpen r.2 else .ok (orAll r.2)).map fun fl =>
        ⟨[f.tileOut t false q.fmt q.rows q.cols q.valid q.poison r.1], fl⟩) := by
  have hpre : (trapIf (!q.ok) tBAD_OPERAND *> needFits q.fmt q.rows q.cols) = .ok () := by
    rw [needFits, trapIf_seq]
    simp [trapIf, hok, hshape]
  simp only [TileSpec.eval, evalTile, evalOp, checkKinds_ok hk, hpre, ht, tagFlags, resLines_tile, hr, bind, Except.bind]
  split <;> rfl

theorem TileSpec.eval_ok {r : List Byte × ElemFlags} (hr : tileApply q.fmt q.rows q.cols q.valid q.poison q.elem = r)
    (hfp : q.fp = true → firstElem (enabledFlags e.fpen) r.2 = none) : q.eval f e =
      .ok ⟨[f.tileOut t false q.fmt q.rows q.cols q.valid q.poison r.1], orAll r.2⟩ := by
  rw [TileSpec.eval_checked hk ht hok hshape hr]
  by_cases hq : q.fp = true
  · simp [hq, fpCheck, hfp hq, withNeed, Except.map]
  · simp [hq, withNeed, Except.map]

theorem TileSpec.eval_fp {r : List Byte × ElemFlags} {k : Nat}
    (hr : tileApply q.fmt q.rows q.cols q.valid q.poison q.elem = r) (hq : q.fp = true)
    (hfirst : firstElem (enabledFlags e.fpen) r.2 = some k) : q.eval f e =
      .error { trapOf 0x0D (fpCode (orAll r.2 &&& enabledFlags e.fpen)) with
        elem := k, flags := orAll r.2, need := q.need } := by
  rw [TileSpec.eval_checked hk ht hok hshape hr]
  simp [hq, fpCheck, hfirst, withNeed, Except.map, trapOf]

end

/-- Whatever an operator answers for its tile, its lines are those of that tile. -/
theorem TileSpec.eval_need {q : TileSpec} {f : Firing} {e : Env} {t : Tag} (hk : f.Kinds q.tileA q.tileB q.tileC)
    (ht : outTag q.w f e = .ok t) :
    (∃ c, q.eval f e = .ok c ∧ newTiles c.outs = q.need) ∨ ∃ r, q.eval f e = .error r ∧ r.need = q.need := by
  by_cases hgood : q.ok = true ∧ Enc.shapeOk q.fmt q.rows q.cols = true
  · obtain ⟨hok, hshape⟩ := hgood
    by_cases hq : q.fp = true
    · cases hfirst : firstElem (enabledFlags e.fpen) (tileApply q.fmt q.rows q.cols q.valid q.poison q.elem).2 with
      | none => exact .inl ⟨_, TileSpec.eval_ok hk ht hok hshape rfl fun _ => hfirst, rfl⟩
      | some k => exact .inr ⟨_, TileSpec.eval_fp hk ht hok hshape rfl hq hfirst, rfl⟩
    · exact .inl ⟨_, TileSpec.eval_ok hk ht hok hshape rfl fun h => absurd h hq, rfl⟩
  · refine .inr ⟨_, TileSpec.eval_bad hk ?_, rfl⟩
    simpa only [Bool.not_eq_true] using not_and_or.mp hgood

/-- A firing whose tiles no cell could hold together raises BAD_OPERAND, whether it would have committed or trapped (R87). -/
theorem State.settle_tooLarge {s : State} {f : Firing} {x : Ex Commit} {need : List Nat} (hn : 2048 < needLines f need)
    (h0 : need ≠ []) (hx : (∃ c, x = .ok c ∧ newTiles c.outs = need) ∨ ∃ r, x = .error r ∧ r.need = need) :
    s.settle f x = s.raise f tBAD_OPERAND := by
  rcases hx with ⟨c, rfl, rfl⟩ | ⟨r, rfl, rfl⟩
  · exact if_pos hn
  · simp [State.settle, State.fail, h0, hn]

/-- Settles O10: the instruction runs the operator of its tile, which commits, traps on a flag or on R200, or cannot be held. -/
theorem tileElementwise : Obligations.TileElementwise := by
  unfold Obligations.TileElementwise
  intro i s f t q hq hk ht r need
  obtain ⟨g, hexec, hg⟩ := exec_eq_tileSpec hq
  refine ⟨?commits, ?fp, ?bad, ?tooLarge⟩
  case commits =>
    exact fun hok hshape hfp => commits_of_ok (hexec s) (hg.trans (TileSpec.eval_ok hk ht hok hshape rfl hfp))
  case fp =>
    intro hok hshape hfp k hfirst
    exact trapsWith_of_error (hexec s) (hg.trans (TileSpec.eval_fp hk ht hok hshape rfl hfp hfirst)) rfl
  case bad => exact fun h => trapsWith_of_error (hexec s) (hg.trans (TileSpec.eval_bad hk h)) rfl
  case tooLarge =>
    intro hn hsel
    rw [hexec, runOp_selected g hsel, hg]
    exact congrArg _ (State.settle_tooLarge hn (List.cons_ne_nil _ _) (TileSpec.eval_need hk ht))

end Sys2Proof.Machine
end

section
namespace Sys2Proof.Machine

/-! ## What a commit leaves alone (R76, R144, R172, R389) -/

/-! ### Reading what was not written -/

theorem State.cell_congr {s t : State} (h : t.cells = s.cells) (k : Nat) : t.cell k = s.cell k := by
  rw [State.cell, h, State.cell]

theorem State.ctx_congr {s t : State} (h : t.ctxs = s.ctxs) (a : Nat) : t.ctx a = s.ctx a := by
  rw [State.ctx, h, State.ctx]

theorem State.byteAt_congr {s t : State} (h : t.mem = s.mem) (a : Nat) : t.byteAt a = s.byteAt a := by
  rw [State.byteAt, h, State.byteAt]

theorem State.byteAt_writeMem {s : State} {a b : Nat} {bs : List Byte} (h : ¬ inStore a bs.length b) :
    (s.writeMem a bs).byteAt b = s.byteAt b :=
  (Memory.get_write ..).trans (if_neg h)

theorem Frame.length_toBytes (f : Frame) : f.toBytes.length = 32 := by
  simp [Frame.toBytes, zeros]

/-! ### The sticky word (R172) -/

@[simp] theorem Ctx.frame_put (x : Ctx) (i : Nat) (f : Frame) : ({ x with frames := put i f x.frames } : Ctx).frame i = f := by
  simp [Ctx.frame, look_put_self]

theorem Ctx.frame_put_ne (x : Ctx) {i j : Nat} (f : Frame) (h : j ≠ i) :
    ({ x with frames := put i f x.frames } : Ctx).frame j = x.frame j := by
  simp [Ctx.frame, look_put_ne _ _ _ _ h]

/-- The context with the flags in the sticky word of the tag's frame, where that is an activation still running. -/
def Ctx.withSticky (x : Ctx) (t : Tag) (fl : Flags) : Ctx :=
  let fr := x.frame (tagFrame t)
  if fl ≠ 0 ∧ frameCurrent fr t = true then { x with frames := put (tagFrame t) { fr with flags := fr.flags ||| fl } x.frames }
  else x

theorem Ctx.withSticky_eq (x : Ctx) (t : Tag) (fl : Flags) : ∃ l, x.withSticky t fl = { x with frames := l } := by
  unfold Ctx.withSticky
  dsimp only
  split
  · exact ⟨_, rfl⟩
  · exact ⟨x.frames, rfl⟩

theorem Ctx.frame_withSticky_ne (x : Ctx) {t : Tag} (fl : Flags) {i : Nat} (h : i ≠ tagFrame t) :
    (x.withSticky t fl).frame i = x.frame i := by
  unfold Ctx.withSticky
  dsimp only
  split
  · exact x.frame_put_ne _ h
  · rfl

theorem Ctx.frame_withSticky (x : Ctx) (t : Tag) (fl : Flags) : (x.withSticky t fl).frame (tagFrame t) =
    let fr := x.frame (tagFrame t)
    if frameCurrent fr t = true then { fr with flags := fr.flags ||| fl } else fr := by
  unfold Ctx.withSticky
  by_cases hc : frameCurrent (x.frame (tagFrame t)) t = true
  · by_cases hf : fl = 0
    · subst hf
      have hor : (x.frame (tagFrame t)).flags ||| 0 = (x.frame (tagFrame t)).flags := BitVec.or_zero
      rw [if_neg fun h => h.1 rfl, if_pos hc, hor]
    · rw [if_pos ⟨hf, hc⟩, Ctx.frame_put]
      simp [hc]
  · simp [hc]

section
variable {s : State} {a : Nat} {x : Ctx} (hx : s.ctx a = some x)
include hx

theorem State.setFrame_eq (i : Nat) (f : Frame) : s.setFrame a i f =
    (s.setCtx a { x with frames := put i f x.frames }).writeMem (x.cr.frtbase + 64 + 32 * i) f.toBytes := by
  rw [State.setFrame, hx]

theorem State.orFlags_eq (t : Tag) (fl : Flags) : s.orFlags a t fl =
    let fr := x.frame (tagFrame t)
    if fl ≠ 0 ∧ frameCurrent fr t = true then s.setFrame a (tagFrame t) { fr with flags := fr.flags ||| fl } else s := by
  unfold State.orFlags
  dsimp only
  rw [State.frameOf_of_ctx hx]
  by_cases hf : fl = 0
  · rw [if_pos hf, if_neg fun h => h.1 hf]
  · rw [if_neg hf]
    exact if_congr (by simp only [ne_eq, hf, not_false_eq_true, true_and]) rfl rfl

theorem State.ctx_orFlags (t : Tag) (fl : Flags) : (s.orFlags a t fl).ctx a = some (x.withSticky t fl) := by
  rw [State.orFlags_eq hx]
  unfold Ctx.withSticky
  dsimp only
  split
  · rw [State.setFrame_eq hx]
    simp
  · exact hx

theorem State.byteAt_orFlags {t : Tag} {fl : Flags} {b : Nat}
    (h : fl ≠ 0 → ¬ inStore (x.cr.frtbase + 64 + 32 * tagFrame t) 32 b) : (s.orFlags a t fl).byteAt b = s.byteAt b := by
  rw [State.orFlags_eq hx]
  dsimp only
  split
  · rename_i hc
    rw [State.setFrame_eq hx]
    exact State.byteAt_writeMem (by rw [Frame.length_toBytes]; exact h hc.1)
  · rfl

end

theorem State.ctx_orFlags_ne (s : State) {a b : Nat} (t : Tag) (fl : Flags) (h : b ≠ a) :
    (s.orFlags a t fl).ctx b = s.ctx b := by
  cases hx : s.ctx a with
  | none => simp [State.orFlags, State.setFrame, hx]
  | some x =>
    rw [State.orFlags_eq hx]
    dsimp only
    split
    · rw [State.setFrame_eq hx, State.ctx_writeMem, State.ctx_setCtx_ne _ _ _ _ h]
    · rfl

/-! ### The sillage sample and the counts (R428, R429, R159) -/

theorem State.byteAt_bumpTrace {s : State} {a off n b : Nat} {x : Ctx} (hx : s.ctx a = some x)
    (h : ¬ inStore (x.cr.tracebase + off) n b) : (s.bumpTrace a off n).byteAt b = s.byteAt b := by
  unfold State.bumpTrace
  rw [hx]
  dsimp only
  split
  · rfl
  · exact State.byteAt_writeMem (by rwa [length_leBytes])

theorem State.ctx_bumpTrace (s : State) (a off n b : Nat) : (s.bumpTrace a off n).ctx b = s.ctx b := by
  obtain ⟨m, h⟩ := s.bumpTrace_Changes a off n
  rw [h]
  rfl

/-- A sample changes the anchors and the walks of its context, and two counters of the trace header. -/
theorem State.sample_leaves {s : State} {f : Firing} (r : FireRec) {x : Ctx} (hx : s.ctx f.asid = some x) :
    (∃ n l, (s.sample f r).ctx f.asid = some { x with anchored := n, walks := l }) ∧
    (∀ b, b ≠ f.asid → (s.sample f r).ctx b = s.ctx b) ∧
    ∀ b, ¬ inStore (x.cr.tracebase + 28) 4 b → ¬ inStore (x.cr.tracebase + 32) 2 b → (s.sample f r).byteAt b = s.byteAt b := by
  unfold State.sample
  rw [hx]
  dsimp only
  split
  · split
    · split
      · refine ⟨⟨x.anchored + 1, x.walks, ?_⟩, fun b hb => ?_, fun b h28 _ => ?_⟩
        · rw [State.ctx_bumpTrace, State.ctx_setCtx]
        · rw [State.ctx_bumpTrace, State.ctx_setCtx_ne _ _ _ _ hb]
        · exact State.byteAt_bumpTrace (State.ctx_setCtx ..) h28
      · refine ⟨⟨_, _, (State.ctx_modCtx ..).trans (congrArg _ ((State.ctx_bumpTrace ..).trans (State.ctx_setCtx ..)))⟩,
          fun b hb => ?_, fun b _ h32 => ?_⟩
        · rw [State.ctx_modCtx_ne _ _ _ _ hb, State.ctx_bumpTrace, State.ctx_setCtx_ne _ _ _ _ hb]
        · rw [State.byteAt_congr (State.modCtx_mem ..)]
          exact State.byteAt_bumpTrace (State.ctx_setCtx ..) h32
    · exact ⟨⟨x.anchored + 1, x.walks, State.ctx_setCtx ..⟩, fun b hb => State.ctx_setCtx_ne _ _ _ _ hb, fun _ _ _ => rfl⟩
  · exact ⟨⟨x.anchored, x.walks, hx⟩, fun _ _ => rfl, fun _ _ _ => rfl⟩

theorem State.ctx_sample_ne (s : State) (f : Firing) (r : FireRec) {b : Nat} (h : b ≠ f.asid) :
    (s.sample f r).ctx b = s.ctx b := by
  cases hx : s.ctx f.asid with
  | none => simp [State.sample, hx]
  | some x => exact (State.sample_leaves r hx).2.1 b h

@[simp] theorem State.sample_cells (s : State) (f : Firing) (r : FireRec) : (s.sample f r).cells = s.cells := by
  obtain ⟨m, k, h⟩ := s.sample_Changes f r
  rw [h]

/-- The cell from which the firing's set has gone. -/
def Firing.retireOn (f : Firing) (r : FireRec) (c : Cell) : Cell :=
  { c.dropSet f.sid with
    records := (c.records ++ [r]).drop (c.records.length + 1 - 1024)
    claim := if c.claim == some f.sid then none else c.claim
    fired := put f.asid ((look f.asid c.fired).getD 0 + 1) c.fired }

/-- The state in which the set has gone and the firing is counted. -/
def State.counted (s : State) (f : Firing) (r : FireRec) : State :=
  (s.modCell f.cell (f.retireOn r)).modCtx f.asid fun x => { x with fired := x.fired + 1 }

theorem State.retire_eq (s : State) (f : Firing) : ∃ r, s.retire f = ((s.counted f r).sample f r).progress f.asid := ⟨_, rfl⟩

theorem State.ctx_counted (s : State) (f : Firing) (r : FireRec) :
    (s.counted f r).ctx f.asid = (s.ctx f.asid).map fun x => { x with fired := x.fired + 1 } := by
  rw [State.counted, State.ctx_modCtx, State.ctx_congr (State.modCell_ctxs ..)]

theorem State.ctx_retire_ne (s : State) (f : Firing) {b : Nat} (h : b ≠ f.asid) : (s.retire f).ctx b = s.ctx b := by
  obtain ⟨r, hr⟩ := s.retire_eq f
  rw [hr, State.progress, State.ctx_modCtx_ne _ _ _ _ h, State.ctx_sample_ne _ _ _ h, State.counted,
    State.ctx_modCtx_ne _ _ _ _ h, State.ctx_congr (State.modCell_ctxs ..)]

/-- In its context a retirement counts the firing, samples it, and sets the watchdog back. -/
theorem State.ctx_retire {s : State} {f : Firing} {x : Ctx} (hx : s.ctx f.asid = some x) : ∃ n l, (s.retire f).ctx f.asid =
    some { x with fired := x.fired + 1, anchored := n, walks := l, wdog := 0, wdogStage := false, wdogSpilled := false } := by
  obtain ⟨r, hr⟩ := s.retire_eq f
  have hcount := s.ctx_counted f r
  rw [hx] at hcount
  obtain ⟨⟨n, l, h⟩, -, -⟩ := State.sample_leaves r hcount
  exact ⟨n, l, by rw [hr, State.progress, State.ctx_modCtx, h]; rfl⟩

theorem State.byteAt_retire {s : State} {f : Firing} {x : Ctx} (hx : s.ctx f.asid = some x) {b : Nat}
    (h28 : ¬ inStore (x.cr.tracebase + 28) 4 b) (h32 : ¬ inStore (x.cr.tracebase + 32) 2 b) :
    (s.retire f).byteAt b = s.byteAt b := by
  obtain ⟨r, hr⟩ := s.retire_eq f
  have hcount := s.ctx_counted f r
  rw [hx] at hcount
  calc (s.retire f).byteAt b = ((s.counted f r).sample f r).byteAt b := by
        rw [hr]; exact State.byteAt_congr (State.modCtx_mem ..) b
    _ = (s.counted f r).byteAt b := (State.sample_leaves r hcount).2.2 b h28 h32
    _ = s.byteAt b := State.byteAt_congr (State.modCtx_mem ..) b

/-- On its cell the set goes, its record is written and the counts rise; no other cell changes. -/
theorem State.cell_retire (s : State) (f : Firing) : (∃ r, (s.retire f).cell f.cell = f.retireOn r (s.cell f.cell)) ∧
    ∀ k, k ≠ f.cell → (s.retire f).cell k = s.cell k := by
  obtain ⟨r, hr⟩ := s.retire_eq f
  have hcells : (s.retire f).cells = (s.modCell f.cell (f.retireOn r)).cells := by
    rw [hr, State.progress, State.modCtx_cells, State.sample_cells, State.counted, State.modCtx_cells]
  exact ⟨⟨r, by rw [State.cell_congr hcells, State.cell_modCell]⟩,
    fun k hk => by rw [State.cell_congr hcells, State.cell_modCell_ne _ _ _ _ hk]⟩

/-! ### The outputs (R36 to R39, R84, R144) -/

/-- Only what travels on the mesh changes. -/
def State.Travels (s t : State) : Prop := ∃ n x k, t = { s with net := n, xfers := x, nextXfer := k }
theorem State.Travels.refl (s : State) : s.Travels s := ⟨s.net, s.xfers, s.nextXfer, rfl⟩
theorem State.Travels.trans {s t u : State} (h : s.Travels t) (k : t.Travels u) : s.Travels u := by
  obtain ⟨n, x, j, rfl⟩ := h; obtain ⟨n, x, j, rfl⟩ := k; exact ⟨n, x, j, rfl⟩

/-- With no destination on another device nothing is handed to the fabric. -/
theorem State.sendFar_near {s : State} {f : Sender} {t : Tag} {v : Val} {ds : List Dest} (h : ∀ d ∈ ds, d.mode ≠ .remote) :
    s.sendFar f t v ds = s := by
  have hnone : (ds.filter fun d => d.mode == .remote) = [] := by simpa using h
  rw [State.sendFar, hnone, List.foldl_nil]

theorem Firing.dests_subset {f : Firing} {o : Out} {d : Dest} (h : d ∈ f.dests o) : d ∈ f.outs0 ++ f.outs1 := by
  unfold Firing.dests at h
  split at h
  · exact List.mem_append_right _ h
  · exact List.mem_append_left _ h

theorem State.sendGroup_live (s : State) (f : Firing) (g : List Out) : s.sendGroup f true g =
    g.foldl (fun st o => st.sendFar (f.sender s) o.tag o.val (f.dests o)) (g.head?.elim s fun o =>
      s.sendTokens (f.sender s) o.val (g.flatMap fun o => s.tokensTo (f.sender s) o.tag o.val (f.dests o))) := rfl

theorem State.sendGroup_Sends (s : State) (f : Firing) (g : List Out) : s.Sends (s.sendGroup f true g) := by
  rw [State.sendGroup_live]
  refine State.Sends.trans ?_ (foldl_rel State.Sends State.Sends.refl (fun _ _ _ => State.Sends.trans) _
    (fun b o => b.sendFar_Changes (f.sender s) o.tag o.val (f.dests o)) g _)
  cases g.head? with
  | none => exact State.Sends.refl _
  | some o => exact s.sendTokens_Sends ..

theorem State.sendGroup_near {f : Firing} (h : ∀ d ∈ f.outs0 ++ f.outs1, d.mode ≠ .remote) (s : State) (g : List Out) :
    s.Travels (s.sendGroup f true g) := by
  rw [State.sendGroup_live]
  refine State.Travels.trans ?_ (foldl_rel State.Travels State.Travels.refl (fun _ _ _ => State.Travels.trans) _
    (fun b o => by rw [State.sendFar_near fun d hd => h d (Firing.dests_subset hd)]; exact State.Travels.refl b) g _)
  cases g.head? with
  | none => exact State.Travels.refl _
  | some o => exact s.sendTokens_Changes ..

theorem State.sendOuts_Sends (s : State) (f : Firing) (outs : List Out) : s.Sends (s.sendOuts f true outs) :=
  foldl_rel State.Sends State.Sends.refl (fun _ _ _ => State.Sends.trans) _ (fun b g => b.sendGroup_Sends f g) _ s

theorem State.sendOuts_near {f : Firing} (h : ∀ d ∈ f.outs0 ++ f.outs1, d.mode ≠ .remote) (s : State) (outs : List Out) :
    s.Travels (s.sendOuts f true outs) :=
  foldl_rel State.Travels State.Travels.refl (fun _ _ _ => State.Travels.trans) _ (State.sendGroup_near h) _ s

/-! ### Tokens of a frame that has ended (R105, R144) -/

/-- Only tiles of cells change. -/
def State.TilesOnly (s t : State) : Prop := ∀ k, ∃ ts, t.cell k = { s.cell k with tiles := ts }
theorem State.TilesOnly.of_cells {s t : State} (h : t.cells = s.cells) : s.TilesOnly t := fun k =>
  ⟨(s.cell k).tiles, State.cell_congr h k⟩
theorem State.TilesOnly.trans {s t u : State} (h : s.TilesOnly t) (g : t.TilesOnly u) : s.TilesOnly u := fun k => by
  obtain ⟨ts, h⟩ := h k
  obtain ⟨us, g⟩ := g k
  exact ⟨us, by rw [g, h]⟩

theorem State.gcTiles_TilesOnly (s : State) (c : Nat) : s.TilesOnly (s.gcTiles c) := fun k => by
  by_cases hk : k = c
  · subst hk
    exact ⟨_, State.cell_modCell ..⟩
  · exact ⟨(s.cell k).tiles, State.cell_modCell_ne _ _ _ _ hk⟩

/-- What orphans of context a change: its pool and its traps, and tiles. -/
structure State.Orphans (a : Nat) (s t : State) : Prop where
  tiles : s.TilesOnly t
  vdevs : t.vdevs = s.vdevs
  freezes : t.freezes = s.freezes
  fabOut : t.fabOut = s.fabOut
  others : ∀ b, b ≠ a → t.ctx b = s.ctx b
  own : ∀ x, s.ctx a = some x → ∃ p l, t.ctx a = some { x with pool := p, traps := l }

theorem State.Orphans.refl (a : Nat) (s : State) : s.Orphans a s where
  tiles := .of_cells rfl
  vdevs := rfl
  freezes := rfl
  fabOut := rfl
  others _ _ := rfl
  own x hx := ⟨x.pool, x.traps, hx⟩

theorem State.Orphans.trans {a : Nat} {s t u : State} (h : s.Orphans a t) (g : t.Orphans a u) : s.Orphans a u where
  tiles := h.tiles.trans g.tiles
  vdevs := g.vdevs.trans h.vdevs
  freezes := g.freezes.trans h.freezes
  fabOut := g.fabOut.trans h.fabOut
  others b hb := (g.others b hb).trans (h.others b hb)
  own x hx := by
    obtain ⟨p, l, hp⟩ := h.own x hx
    obtain ⟨q, m, hq⟩ := g.own _ hp
    exact ⟨q, m, hq⟩

theorem State.modPool_Orphans (s : State) (a : Nat) (g : Pool → Pool) : s.Orphans a (s.modPool a g) where
  tiles := .of_cells (State.modPool_cells ..)
  vdevs := State.modPool_vdevs ..
  freezes := State.modPool_freezes ..
  fabOut := State.modPool_fabOut ..
  others b hb := by
    unfold State.modPool State.setPool
    cases hx : s.ctx a with
    | none => rfl
    | some x => rw [State.ctx_writeMem, State.ctx_setCtx_ne _ _ _ _ hb]
  own x hx := by
    unfold State.modPool State.setPool
    simp only [hx, State.ctx_writeMem, State.ctx_setCtx]
    exact ⟨_, _, rfl⟩

/-- A context trap adds its record to its context's. -/
theorem State.takeTrap_record (s : State) (a : Nat) (r : TrapRec) (h : r.kind = 3) :
    ∃ l, s.takeTrap a r = s.modCtx a fun y => { y with traps := y.traps ++ l } := by
  unfold State.takeTrap
  cases hx : s.ctx a with
  | none => exact ⟨[], by simp [State.modCtx, hx]⟩
  | some x =>
    simp only [h, bne_self_eq_false, Bool.false_and, Bool.false_eq_true, if_false]
    exact ⟨_, rfl⟩

theorem State.takeTrap_Orphans (s : State) (a : Nat) (r : TrapRec) (h : r.kind = 3) : s.Orphans a (s.takeTrap a r) := by
  obtain ⟨l, hl⟩ := s.takeTrap_record a r h
  rw [hl]
  exact { tiles := .of_cells (State.modCtx_cells ..), vdevs := State.modCtx_vdevs .., freezes := State.modCtx_freezes ..,
          fabOut := State.modCtx_fabOut .., others := fun b hb => State.ctx_modCtx_ne _ _ _ _ hb,
          own := fun x hx => ⟨x.pool, x.traps ++ l, by rw [State.ctx_modCtx, hx]; rfl⟩ }

section
variable {a : Nat}

/-- A fold of steps that change only what orphans change. -/
theorem State.foldl_Orphans {α : Type} {g : State → α → State} (h : ∀ (s : State) (x : α), s.Orphans a (g s x)) (l : List α) (s : State) :
    s.Orphans a (l.foldl g s) :=
  foldl_rel (State.Orphans a) (State.Orphans.refl a) (fun _ _ _ => State.Orphans.trans) g h l s

theorem State.dropOrphan_Orphans {t : Token} (h : t.asid = a) (s : State) (x : Ctx) : s.Orphans a (s.dropOrphan x t) := by
  subst h
  have hcount : s.Orphans t.asid (s.countOrphan t.asid) := s.modPool_Orphans ..
  have hgc (u : State) : u.Orphans t.asid (u.gcTiles t.cell) := { State.Orphans.refl t.asid u with tiles := u.gcTiles_TilesOnly _ }
  cases ho : x.cr.orphanEn with
  | false => rw [State.dropOrphan_counts ho]; exact hcount.trans (hgc _)
  | true => rw [State.dropOrphan_traps ho]; exact (hcount.trans (State.takeTrap_Orphans _ _ _ rfl)).trans (hgc _)

theorem State.orphanOuts_Orphans {f : Sender} (h : f.asid = a) (s : State) (ts : List Tag) (v : Val) (ds : List Dest) :
    s.Orphans a (s.orphanOuts f ts v ds) := by
  unfold State.orphanOuts
  split
  · exact State.Orphans.refl _ _
  · rename_i x _
    exact State.foldl_Orphans (fun b t => State.foldl_Orphans (fun u d => State.dropOrphan_Orphans (t := u.token ..) h u x) ds b)
      ts s

theorem State.sendGroup_Orphans {f : Firing} (h : f.asid = a) (s : State) (g : List Out) :
    s.Orphans a (s.sendGroup f false g) := by
  have each (u : State) (o : Out) : u.Orphans a (u.orphanOuts (f.sender s) [o.tag] o.val (f.dests o)) :=
    State.orphanOuts_Orphans h u [o.tag] o.val (f.dests o)
  exact State.foldl_Orphans each g s

theorem State.sendOuts_Orphans {f : Firing} (h : f.asid = a) (s : State) (outs : List Out) :
    s.Orphans a (s.sendOuts f false outs) :=
  State.foldl_Orphans (State.sendGroup_Orphans h) _ s

end

/-! ### The commit -/

/-- Result tiles change only the tiles of their cell. -/
theorem Cell.place_tiles {outs placed : List Out} {c c1 : Cell} (h : c.place outs = some (c1, placed)) :
    ∃ ts, c1 = { c with tiles := ts } := by
  induction outs generalizing c placed with
  | nil =>
    cases h
    exact ⟨c1.tiles, rfl⟩
  | cons o os ih =>
    unfold Cell.place at h
    split at h
    · split at h
      · cases h
      · obtain ⟨⟨c2, r⟩, hp, h⟩ := Option.map_eq_some_iff.mp h
        cases h
        obtain ⟨ts, rfl⟩ := ih hp
        exact ⟨ts, rfl⟩
    · obtain ⟨⟨c2, r⟩, hp, h⟩ := Option.map_eq_some_iff.mp h
      cases h
      exact ih hp

/-- The state before the outputs leave: result tiles placed, flags ORed, the set retired. -/
def State.retired (s : State) (f : Firing) (cell1 : Cell) (fl : Flags) : State :=
  ((s.setCell f.cell cell1).orFlags f.asid f.tag fl).retire f

theorem State.committed_eq (s : State) (f : Firing) (cell1 : Cell) (placed : List Out) (fl : Flags) :
    s.committed f cell1 placed fl id =
      { (((s.retired f cell1 fl).sendOuts f (s.runsIn f) placed).gcTiles f.cell) with sel := none } := rfl

section
variable {s : State} {f : Firing} {cell1 : Cell} {fl : Flags}

theorem State.ctx_retired_ne {a : Nat} (h : a ≠ f.asid) : (s.retired f cell1 fl).ctx a = s.ctx a := by
  rw [State.retired, State.ctx_retire_ne _ _ h, State.ctx_orFlags_ne _ _ _ h]
  rfl

theorem State.cell_retired_ne {k : Nat} (h : k ≠ f.cell) : (s.retired f cell1 fl).cell k = s.cell k := by
  rw [State.retired, (State.cell_retire _ f).2 k h, State.cell_congr (State.orFlags_cells ..), State.cell_setCell_ne _ _ _ _ h]

theorem State.cell_retired : ∃ r, (s.retired f cell1 fl).cell f.cell = f.retireOn r cell1 := by
  obtain ⟨r, hr⟩ := (State.cell_retire ((s.setCell f.cell cell1).orFlags f.asid f.tag fl) f).1
  rw [State.cell_congr (State.orFlags_cells ..), State.cell_setCell] at hr
  exact ⟨r, hr⟩

variable {x : Ctx} (hx : s.ctx f.asid = some x)
include hx

theorem State.ctx_retired : ∃ n l, (s.retired f cell1 fl).ctx f.asid = some { x.withSticky f.tag fl with
    fired := (x.withSticky f.tag fl).fired + 1, anchored := n, walks := l, wdog := 0, wdogStage := false,
    wdogSpilled := false } :=
  State.ctx_retire (State.ctx_orFlags (s := s.setCell f.cell cell1) hx f.tag fl)

theorem State.byteAt_retired {b : Nat} (hfl : fl ≠ 0 → ¬ inStore (x.cr.frtbase + 64 + 32 * tagFrame f.tag) 32 b)
    (h28 : ¬ inStore (x.cr.tracebase + 28) 4 b) (h32 : ¬ inStore (x.cr.tracebase + 32) 2 b) :
    (s.retired f cell1 fl).byteAt b = s.byteAt b := by
  have hy := State.ctx_orFlags (s := s.setCell f.cell cell1) hx f.tag fl
  obtain ⟨l, hl⟩ := x.withSticky_eq f.tag fl
  rw [hl] at hy
  rw [State.retired, State.byteAt_retire hy h28 h32, State.byteAt_orFlags (s := s.setCell f.cell cell1) hx hfl]
  rfl

end

section
variable {s : State} {f : Firing} {placed : List Out}

/-- Sending changes no cell but for the tiles that orphans leave. -/
theorem State.sendOuts_TilesOnly (live : Bool) : s.TilesOnly (s.sendOuts f live placed) := by
  cases live with
  | true =>
    obtain ⟨m, v, z, y, n, x, k, o, h⟩ := s.sendOuts_Sends f placed
    rw [h]
    exact .of_cells rfl
  | false => exact (State.sendOuts_Orphans rfl s placed).tiles

/-- With no destination on another device, sending changes what orphans of its context change, and what travels. -/
theorem State.sendOuts_near_Orphans (h : ∀ d ∈ f.outs0 ++ f.outs1, d.mode ≠ .remote) (live : Bool) :
    s.Orphans f.asid (s.sendOuts f live placed) := by
  cases live with
  | true =>
    obtain ⟨n, x, k, h⟩ := State.sendOuts_near h s placed
    rw [h]
    exact { State.Orphans.refl f.asid s with }
  | false => exact State.sendOuts_Orphans rfl s placed

end

/-! ### The frame of a commit -/

theorem Cell.findSet_dropSet (c : Cell) (sid : Nat) : (c.dropSet sid).findSet sid = none := by
  simp [Cell.findSet, Cell.dropSet]

theorem Cell.findSet_dropSet_ne (c : Cell) {sid k : Nat} (h : k ≠ sid) : (c.dropSet sid).findSet k = c.findSet k := by
  unfold Cell.findSet Cell.dropSet
  rw [List.find?_filter]
  refine congrArg (fun p => c.sets.find? p) (funext fun q => ?_)
  by_cases hq : q.sid = k
  · simp [hq, h]
  · simp [hq]

section
variable {s : State} {f : Firing} {outs : List Out} {cell1 : Cell} {placed : List Out} {fl : Flags}

theorem State.retired_Changes (s : State) (f : Firing) (cell1 : Cell) (fl : Flags) :
    ∃ m c k, s.retired f cell1 fl = { s with mem := m, cells := c, ctxs := k } := by
  obtain ⟨m1, k1, h1⟩ := (s.setCell f.cell cell1).orFlags_Changes f.asid f.tag fl
  obtain ⟨m2, c2, k2, h2⟩ := State.retire_Changes ((s.setCell f.cell cell1).orFlags f.asid f.tag fl) f
  exact ⟨m2, c2, k2, by rw [State.retired, h2, h1]; rfl⟩

/-- On the cell of a commit the set goes; its tiles, records and counts change. -/
theorem State.cell_committed (h : (s.cell f.cell).place outs = some (cell1, placed)) :
    ∃ r ts, (s.committed f cell1 placed fl id).cell f.cell = { f.retireOn r (s.cell f.cell) with tiles := ts } := by
  obtain ⟨ts1, h1⟩ := Cell.place_tiles h
  obtain ⟨r, hr⟩ := State.cell_retired (s := s) (f := f) (cell1 := cell1) (fl := fl)
  obtain ⟨ts, hts⟩ := ((State.sendOuts_TilesOnly (s := s.retired f cell1 fl) (f := f) (placed := placed) (s.runsIn f)).trans
    (State.gcTiles_TilesOnly _ f.cell)) f.cell
  rw [hr] at hts
  exact ⟨r, ts, hts.trans (by rw [h1]; rfl)⟩

/-- No other cell changes while the firing's frame still runs. -/
theorem State.cell_committed_ne (hr : s.runsIn f = true) {k : Nat} (hk : k ≠ f.cell) :
    (s.committed f cell1 placed fl id).cell k = s.cell k := by
  have hsent : ((s.retired f cell1 fl).sendOuts f true placed).cells = (s.retired f cell1 fl).cells := by
    obtain ⟨m, v, z, y, n, x, j, o, h⟩ := (s.retired f cell1 fl).sendOuts_Sends f placed
    rw [h]
  calc (s.committed f cell1 placed fl id).cell k
      = (((s.retired f cell1 fl).sendOuts f true placed).gcTiles f.cell).cell k := by rw [State.committed_eq, hr]; rfl
    _ = ((s.retired f cell1 fl).sendOuts f true placed).cell k := State.cell_modCell_ne _ _ _ _ hk
    _ = (s.retired f cell1 fl).cell k := State.cell_congr hsent k
    _ = s.cell k := State.cell_retired_ne hk

theorem State.ctx_committed_sent {a : Nat} : (s.committed f cell1 placed fl id).ctx a =
    ((s.retired f cell1 fl).sendOuts f (s.runsIn f) placed).ctx a := by
  refine State.ctx_congr ?_ a
  rw [State.committed_eq]
  dsimp only [State.gcTiles_ctxs]

/-- With no destination on another device a commit changes, of the parts that are not cells or memory, its own context. -/
theorem State.committed_near (h : ∀ d ∈ f.outs0 ++ f.outs1, d.mode ≠ .remote) :
    let t := s.committed f cell1 placed fl id
    t.vdevs = s.vdevs ∧ t.freezes = s.freezes ∧ t.fabOut = s.fabOut ∧ ∀ a, a ≠ f.asid → t.ctx a = s.ctx a := by
  intro t
  have hsent := State.sendOuts_near_Orphans (s := s.retired f cell1 fl) (placed := placed) h (s.runsIn f)
  obtain ⟨m, c, k, hret⟩ := s.retired_Changes f cell1 fl
  have ht : t = _ := s.committed_eq f cell1 placed fl
  rw [ht]
  dsimp only [State.gcTiles_vdevs, State.gcTiles_freezes, State.gcTiles_fabOut]
  rw [hsent.vdevs, hsent.freezes, hsent.fabOut]
  exact ⟨by rw [hret], by rw [hret], by rw [hret], fun a ha =>
    State.ctx_committed_sent.trans ((hsent.others a ha).trans (State.ctx_retired_ne ha))⟩

/-- Its own context: sticky word, counts, walks and watchdog, and, where its frame had ended, what orphans change. -/
theorem State.ctx_committed (h : ∀ d ∈ f.outs0 ++ f.outs1, d.mode ≠ .remote) {x : Ctx} (hx : s.ctx f.asid = some x) :
    ∃ n l p tr, (s.runsIn f = true → p = x.pool ∧ tr = x.traps) ∧
      (s.committed f cell1 placed fl id).ctx f.asid = some { x.withSticky f.tag fl with
        fired := x.fired + 1, anchored := n, walks := l, wdog := 0, wdogStage := false, wdogSpilled := false, pool := p,
        traps := tr } := by
  obtain ⟨n, l, hret⟩ := State.ctx_retired (cell1 := cell1) (fl := fl) hx
  obtain ⟨frs, hfrs⟩ := x.withSticky_eq f.tag fl
  rw [hfrs] at hret
  rw [hfrs]
  cases hr : s.runsIn f with
  | true =>
    have hsent : ((s.retired f cell1 fl).sendOuts f true placed).ctxs = (s.retired f cell1 fl).ctxs := by
      obtain ⟨net, xfers, next, hsent⟩ := State.sendOuts_near h (s.retired f cell1 fl) placed
      rw [hsent]
    refine ⟨n, l, x.pool, x.traps, fun _ => ⟨rfl, rfl⟩, ?_⟩
    rw [State.ctx_committed_sent, hr, State.ctx_congr hsent, hret]
  | false =>
    obtain ⟨p, tr, hown⟩ := (State.sendOuts_near_Orphans (placed := placed) h (s.runsIn f)).own _ hret
    exact ⟨n, l, p, tr, nofun, State.ctx_committed_sent.trans hown⟩

/-- In memory a commit of a running frame writes its table entry, when it has flags, and two counters of the trace header. -/
theorem State.byteAt_committed (h : ∀ d ∈ f.outs0 ++ f.outs1, d.mode ≠ .remote) {x : Ctx} (hx : s.ctx f.asid = some x)
    (hr : s.runsIn f = true) {b : Nat} (hfl : fl ≠ 0 → ¬ inStore (x.cr.frtbase + 64 + 32 * tagFrame f.tag) 32 b)
    (h28 : ¬ inStore (x.cr.tracebase + 28) 4 b) (h32 : ¬ inStore (x.cr.tracebase + 32) 2 b) :
    (s.committed f cell1 placed fl id).byteAt b = s.byteAt b := by
  have hsent : ((s.retired f cell1 fl).sendOuts f true placed).mem = (s.retired f cell1 fl).mem := by
    obtain ⟨net, xfers, next, hsent⟩ := State.sendOuts_near h (s.retired f cell1 fl) placed
    rw [hsent]
  rw [State.committed_eq, hr]
  exact (State.byteAt_congr hsent b).trans (State.byteAt_retired hx hfl h28 h32)

end

/-- Settles O58: the parts that no commit changes, the cells, the other contexts, its own context, and memory. -/
theorem commitFrame : Obligations.CommitFrame := by
  unfold Obligations.CommitFrame
  intro s f outs cell1 placed fl hplace t c d near
  obtain ⟨m, cs, v, z, y, n, xs, k, o, hchanges⟩ := s.committed_Changes f cell1 placed fl
  have same {α : Type} (π : State → α) {v : α} (h : π _ = v) : π t = v := (congrArg π hchanges).trans h
  obtain ⟨r, ts, hcell⟩ := State.cell_committed (fl := fl) hplace
  have kept {α : Type} (π : Cell → α) (h : π _ = π c) : π d = π c := (congrArg π hcell).trans h
  refine ⟨same State.sel rfl, same State.dev rfl, same State.poison rfl, same State.w1 rfl, same State.granules rfl,
    same State.windows rfl, same State.posts rfl, same State.memops rfl, same State.walks rfl, same State.fills rfl,
    same State.stlb rfl, same State.bcasts rfl, same State.reqs rfl, same State.due rfl, same State.schedule rfl,
    State.committed_near, fun hr k => State.cell_committed_ne hr, ?gone, ?sets,
    kept Cell.entries rfl, kept Cell.input rfl, kept Cell.accs rfl, kept Cell.loops rfl, kept Cell.rings rfl,
    kept Cell.banks rfl, kept Cell.ops rfl, kept Cell.parts rfl, kept Cell.tlb rfl, kept Cell.breaks rfl,
    kept Cell.fbreaks rfl, ?ctx⟩
  case gone => exact (congrArg (Cell.findSet · f.sid) hcell).trans (c.findSet_dropSet f.sid)
  case sets => exact fun sid hsid => (congrArg (Cell.findSet · sid) hcell).trans (c.findSet_dropSet_ne hsid)
  case ctx =>
    intro x hnear hx
    obtain ⟨n, l, p, tr, hpool, hy⟩ := State.ctx_committed (cell1 := cell1) (placed := placed) (fl := fl) hnear hx
    obtain ⟨frs, hfrs⟩ := x.withSticky_eq f.tag fl
    have hother := fun i => x.frame_withSticky_ne (t := f.tag) fl (i := i)
    have hown := x.frame_withSticky f.tag fl
    rw [hfrs] at hy hother hown
    exact ⟨_, hy, rfl, rfl, hpool, rfl, rfl, rfl, hother, hown, fun a hr hfl h28 h32 _ =>
      State.byteAt_committed hnear hx hr hfl h28 h32⟩

end Sys2Proof.Machine
end

section
namespace Sys2Proof.Machine

/-! ## Loops (R110 to R112, R131 to R133) -/

/-! ### A firing that acts on the state itself -/

section
variable {i : Instr} {s : State} {f : Firing} {g : Firing → State} (hi : exec i s = runFiring s g)
include hi

theorem commitsWith_of_firing {outs : List Out} {fl : Flags} {more : State → State}
    (hg : g f = s.commitWith f ⟨outs, fl⟩ more) : CommitsWith i s f outs fl more := by
  intro cell1 placed h
  rw [hi, runFiring_selected g h.1, hg]
  exact congrArg _ (State.commitWith_fits more h.2)

theorem traps_of_firing {t : Trap} (hg : g f = s.raise f t) : Traps i s f t := by
  intro h
  rw [hi, runFiring_selected g h, hg]

end

theorem carry_eq (f : Firing) (t : Tag) : carry f t = ⟨[f.passed .a false t], 0⟩ := rfl

/-! ### A record is opened, or its LENTER waits (R110, R111) -/

section
variable {c : Cell} {asid slot w : Nat} {base : Tag}

theorem Cell.isSome_loopRec : (c.loopRec asid slot base).isSome =
    c.loops.any fun l => l.asid == asid && l.slot == slot && l.base == base := by
  rw [Bool.eq_iff_iff, Cell.loopRec, List.find?_isSome, List.any_eq_true]

theorem Cell.openLoop_opens {src : Nat} (hfree : (c.loopRec asid slot base).isSome = false)
    (hsrc : c.loopShare (tagDepth base + 1) = some src) : c.openLoop asid slot base w =
      some { asid := asid, slot := slot, base := base, w := w, closing := false, nextc := 1 % 2 ^ w, waiter := none, infl := 1,
             src := src, claims := 1, busy := 1 } := by
  simp [Cell.openLoop, hfree, hsrc]

theorem Cell.openLoop_eq_none : c.openLoop asid slot base w = none ↔
    (c.loopRec asid slot base).isSome = true ∨ c.loopShare (tagDepth base + 1) = none := by
  unfold Cell.openLoop
  cases (c.loopRec asid slot base).isSome <;> simp

end

section
variable {s : State} {f : Firing} {w : Nat} {t : Tag}

theorem lenterGo_opens {r : LoopRec} (h : (s.cell f.cell).openLoop f.asid f.slot f.tag w = some r) :
    lenterGo s f w t = s.commitWith f ⟨[f.passed .a false t], 0⟩ fun st =>
      st.modCell f.cell fun c => { c with loops := c.loops ++ [r] } := by
  rw [lenterGo, h, carry_eq]

theorem lenterGo_waits (h : (s.cell f.cell).openLoop f.asid f.slot f.tag w = none) :
    lenterGo s f w t = s.hold f .lenter := by
  rw [lenterGo, h]

theorem doLenter_ok {w : OpFields} (hk : f.Kinds (w.fmt == .handle) false false) (ht : push f.tag (w.tw.toNat + 1) = .ok t) :
    doLenter w s f = lenterGo s f (w.tw.toNat + 1) t := by
  have hk : checkKinds f (dataTile w) false false = .ok () := checkKinds_ok hk
  simp [doLenter, hk, ht, Bind.bind, Except.bind]

end

/-! ### The oldest of the sets that wait -/

theorem mem_of_longest {p : FSet → Bool} {l : List FSet} {y : FSet} (h : longest p l = some y) : y ∈ l ∧ p y = true := by
  induction l generalizing y with
  | nil => cases h
  | cons x t ih =>
    simp only [longest] at h
    split at h
    next hx =>
      split at h
      next z hz =>
        obtain ⟨hmem, hp⟩ := ih hz
        split at h <;> cases h
        · exact ⟨List.mem_cons_of_mem _ hmem, hp⟩
        · exact ⟨List.mem_cons_self .., hx⟩
      next => cases h; exact ⟨List.mem_cons_self .., hx⟩
    next =>
      obtain ⟨hmem, hp⟩ := ih h
      exact ⟨List.mem_cons_of_mem _ hmem, hp⟩

/-- The set that began to wait before all others that p picks, and of several that began together the first, is the one. -/
theorem longest_eq {p : FSet → Bool} {q : FSet} {older newer : List FSet} (hq : p q = true)
    (holder : ∀ y ∈ older, p y = true → q.since < y.since) (hnewer : ∀ y ∈ newer, p y = true → q.since ≤ y.since) :
    longest p (older ++ q :: newer) = some q := by
  induction older with
  | nil =>
    simp only [List.nil_append, longest, hq, if_true]
    cases h : longest p newer with
    | none => rfl
    | some y =>
      obtain ⟨hmem, hy⟩ := mem_of_longest h
      have hle := hnewer y hmem hy
      simp [Nat.not_lt.mpr hle]
  | cons x t ih =>
    obtain ⟨hx, ht⟩ := List.forall_mem_cons.mp holder
    simp only [List.cons_append, longest, ih ht]
    split
    next hp => simp [hx hp]
    next => rfl

/-! ### The releases of waiting loop instructions (R111, R112) -/

theorem exec_heldLnextRelease {s : State} {cell n sid c : Nat} {r : LoopRec} {f : Firing} (hn : (s.cell cell).loops[n]? = some r)
    (hw : r.waiter = some (c, sid)) (hopen : r.closing = false) (hfree : r.busy.getLsbD c = false)
    (hmay : (s.cell cell).mayCommit r.asid = true) (hf : (s.cell cell).heldFiring sid = some f) :
    exec (.heldLnextRelease cell n) s = .next (claimColour s f r c) := by
  show execHeldLnextRelease cell n s = _
  simp only [execHeldLnextRelease, hn, hw, hopen, hfree, hmay, hf, Bool.not_true, Bool.or_self, Bool.false_eq_true, if_false]

theorem exec_heldLenterGrant {s : State} {cell : Nat} {q : FSet} {f : Firing} {t : Tag}
    (hq : longest (s.cell cell).lenterCan (s.cell cell).sets = some q) (hf : q.firing = some f)
    (ht : push f.tag ((f.word.extractLsb' 105 4).toNat + 1) = .ok t) : exec (.heldLenterGrant cell) s =
      .next (let s1 := lenterGo s f ((f.word.extractLsb' 105 4).toNat + 1) t
        { s1 with due := s1.due ++ [.event (.heldLenterGrant cell)] }) := by
  show execHeldLenterGrant cell s = _
  simp only [execHeldLenterGrant, hq, Option.bind_some, hf, ht]

theorem Cell.lenterCan_of_opens {c : Cell} {q : FSet} {f : Firing} {r : LoopRec} (hh : q.hold = some .lenter)
    (hmay : c.mayCommit q.asid = true) (hf : q.firing = some f)
    (hr : c.openLoop f.asid f.slot f.tag ((f.word.extractLsb' 105 4).toNat + 1) = some r) : c.lenterCan q = true := by
  simp only [Cell.lenterCan, hh, hmay, hf, hr, beq_self_eq_true, Bool.and_self, Option.isSome_some]

/-- Settles O16: LENTER by whether its record can be opened, and each release of a wait. -/
theorem loopEnterAndWaiters : Obligations.LoopEnterAndWaiters := by
  unfold Obligations.LoopEnterAndWaiters
  refine ⟨?enter, fun s cell => ⟨?lnext, ?lenter⟩⟩
  case enter =>
    intro w s f t c v taken opened hk ht
    have htaken : (c.loopRec f.asid f.slot f.tag).isSome = taken := Cell.isSome_loopRec
    refine ⟨fun hfree src hsrc => ?_, fun hwait hsel => ?_⟩
    · have hopen : c.openLoop f.asid f.slot f.tag v = some (opened src) := Cell.openLoop_opens (htaken.trans hfree) hsrc
      exact commitsWith_of_firing (g := doLenter w s) rfl ((doLenter_ok hk ht).trans (lenterGo_opens hopen))
    · have hnone : c.openLoop f.asid f.slot f.tag v = none := Cell.openLoop_eq_none.mpr (htaken ▸ hwait)
      exact (runFiring_selected (doLenter w s) hsel).trans
        (congrArg _ ((doLenter_ok hk ht).trans (lenterGo_waits hnone)))
  case lnext =>
    rintro n sid c r f cell1 placed hn hw hopen hfree hmay hf rfl outs hfits
    rw [exec_heldLnextRelease hn hw hopen hfree hmay hf]
    exact congrArg _ (State.commitWith_fits (c := carry f (setInner f.tag r.w c)) _ hfits)
  case lenter =>
    rintro q older newer f r t cell1 placed hsets hh hf rfl hmay holder hnewer v hr ht hfits s1
    have hcan := Cell.lenterCan_of_opens hh hmay hf hr
    have hq : longest (s.cell f.cell).lenterCan (s.cell f.cell).sets = some q := hsets ▸ longest_eq hcan holder hnewer
    have hgo : lenterGo s f v t = s1 := (lenterGo_opens hr).trans (State.commitWith_fits _ hfits)
    rw [exec_heldLenterGrant hq hf ht, hgo]

end Sys2Proof.Machine
end

section
namespace Sys2Proof.Machine

/-! ### Colours claimed, retired, and the record's end (R112, R132, R133) -/

theorem findLoop_ok {c : Cell} {f : Firing} {slot w : Nat} {base : Tag} {r : LoopRec} (hd : tagDepth f.tag ≠ 0)
    (hw : w ≤ tagFill f.tag) (hp : pop f.tag w = .ok base) (hr : c.loopRec f.asid slot base = some r) (hrw : r.w = w) :
    findLoop c f slot w = .ok (r, inner f.tag w) := by
  simp [findLoop, hd, Nat.not_lt.mpr hw, hp, hr, hrw, Bind.bind, Except.bind, Pure.pure, Except.pure]

theorem loopArgs_ok {w : OpFields} {s : State} {f : Firing} {base : Tag} {r : LoopRec}
    (hk : f.Kinds (w.fmt == .handle) false false) (hd : tagDepth f.tag ≠ 0) (hw : w.tw.toNat + 1 ≤ tagFill f.tag)
    (hp : pop f.tag (w.tw.toNat + 1) = .ok base) (hr : (s.cell f.cell).loopRec f.asid (w.imm.toNat % 2048) base = some r)
    (hrw : r.w = w.tw.toNat + 1) : loopArgs w s f = .ok (r, inner f.tag (w.tw.toNat + 1)) := by
  have hk : checkKinds f (dataTile w) false false = .ok () := checkKinds_ok hk
  simp only [loopArgs, hk, findLoop_ok hd hw hp hr hrw, Bind.bind, Except.bind]

theorem evictWaiter_none {s : State} {cell : Nat} {r : LoopRec} (h : r.waiter = none) : evictWaiter s cell r = s := by
  rw [evictWaiter, h]

theorem evictWaiter_some {s : State} {cell n sid : Nat} {r : LoopRec} (h : r.waiter = some (n, sid)) : evictWaiter s cell r =
    match ((s.cell cell).findSet sid).bind FSet.snap with
    | some g => s.raise g tBAD_OPERAND
    | none => s := by
  rw [evictWaiter, h]
  dsimp only
  cases ((s.cell cell).findSet sid).bind FSet.snap <;> rfl

section
variable {w : OpFields} {s : State} {f : Firing} {r : LoopRec} {c : Nat} (h : loopArgs w s f = .ok (r, c))
include h

/-! LNEXT, by the next colour -/

theorem doLnext_refuses (hbad : r.closing = true ∨ (r.busy.getLsbD ((c + 1) % 2 ^ r.w) = true ∧ r.waiter.isSome = true)) :
    doLnext w s f = s.raise f tBAD_OPERAND := by
  rcases hbad with hclosing | ⟨hbusy, hwaiter⟩
  · simp [doLnext, h, hclosing]
  · simp [doLnext, h, hbusy, hwaiter]

variable (hopen : r.closing = false)

section
include hopen

theorem doLnext_claims (hfree : r.busy.getLsbD ((c + 1) % 2 ^ r.w) = false) :
    doLnext w s f = s.commitWith f ⟨[f.passed .a false (setInner f.tag r.w ((c + 1) % 2 ^ r.w))], 0⟩ fun st =>
      st.modCell f.cell fun k => k.setLoop
        { r with busy := r.busy ||| (1#256 <<< ((c + 1) % 2 ^ r.w)), infl := r.infl + 1, claims := r.claims + 1,
                 nextc := ((c + 1) % 2 ^ r.w + 1) % 2 ^ r.w } := by
  simp only [doLnext, h, hopen, hfree, Bool.false_eq_true, if_false, Bool.not_false, if_true, carry_eq]

theorem doLnext_waits (hbusy : r.busy.getLsbD ((c + 1) % 2 ^ r.w) = true) (hwaiter : r.waiter = none) :
    doLnext w s f =
      (s.hold f .lnext).modCell f.cell fun k => k.setLoop { r with waiter := some ((c + 1) % 2 ^ r.w, f.sid) } := by
  simp [doLnext, h, hopen, hbusy, hwaiter]

end

/-! LDONE, by what is left of the record -/

theorem doLdone_refuses (hfree : r.busy.getLsbD c = false) : doLdone w s f = s.raise f tBAD_OPERAND := by
  simp [doLdone, h, hfree]

section
variable (hbusy : r.busy.getLsbD c = true)
include hbusy

theorem doLdone_frees (hclosing : r.closing = true) (hlast : r.infl = 1) :
    doLdone w s f = s.commitWith f ⟨[f.passed .a false r.base], 0⟩ fun st =>
      { st.modCell f.cell (fun k => k.dropLoop r) with due := st.due ++ [.event (.heldLenterGrant f.cell)] } := by
  simp only [doLdone, h, hbusy, hclosing, hlast, Bool.not_true, Bool.false_eq_true, if_false, Bool.true_and, Nat.sub_self,
    decide_true, if_true, carry_eq]
  rfl

variable (hleft : r.closing = false ∨ 1 < r.infl)
include hleft

theorem doLdone_retires (hwaiter : ∀ q ∈ r.waiter, q.1 ≠ c) :
    doLdone w s f = s.commitWith f ⟨[f.passed .a false r.base], 0⟩ fun st =>
      st.modCell f.cell fun k => k.setLoop { r with busy := r.busy &&& ~~~(1#256 <<< c), infl := r.infl - 1 } := by
  have hstays : (r.closing && decide (r.infl - 1 = 0)) = false := by simpa [imp_iff_not_or, Nat.sub_eq_zero_iff_le] using hleft
  have hnone : (r.waiter.any fun q => q.1 == c) = false := by
    cases hw : r.waiter with
    | none => rfl
    | some q => simpa using hwaiter q hw
  simp only [doLdone, h, hbusy, hstays, hnone, Bool.not_true, Bool.false_eq_true, if_false, carry_eq]

theorem doLdone_releases {sid : Nat} (hwaiter : r.waiter = some (c, sid)) :
    doLdone w s f = s.commitWith f ⟨[f.passed .a false r.base], 0⟩ fun st =>
      let r1 : LoopRec := { r with busy := r.busy &&& ~~~(1#256 <<< c), infl := r.infl - 1 }
      let st1 := st.modCell f.cell fun k => k.setLoop r1
      { st1 with due := st1.due ++ [.event (.heldLnextRelease f.cell ((st1.cell f.cell).loopIndex r1))] } := by
  have hstays : (r.closing && decide (r.infl - 1 = 0)) = false := by simpa [imp_iff_not_or, Nat.sub_eq_zero_iff_le] using hleft
  simp only [doLdone, h, hbusy, hstays, hwaiter, Option.any_some, beq_self_eq_true, Bool.not_true, Bool.false_eq_true, if_false,
    if_true, carry_eq]

end

/-! LEXIT -/

theorem doLexit_refuses (hclosing : r.closing = true) : doLexit w s f = s.raise f tBAD_OPERAND := by
  simp [doLexit, h, hclosing]

include hopen

section
variable (hwaiter : r.waiter = none)
include hwaiter

theorem doLexit_frees (hidle : r.infl = 0) : doLexit w s f = s.commitWith f ⟨[f.passed .a false r.base], 0⟩ fun st =>
    { st.modCell f.cell (fun k => k.dropLoop r) with due := st.due ++ [.event (.heldLenterGrant f.cell)] } := by
  simp only [doLexit, h, hopen, hidle, evictWaiter_none hwaiter, Bool.false_eq_true, if_false, if_true, carry_eq]
  rfl

theorem doLexit_closes (hinfl : r.infl ≠ 0) : doLexit w s f = s.commitWith f ⟨[f.passed .a false r.base], 0⟩ fun st =>
    st.modCell f.cell fun k => k.setLoop { r with closing := true, waiter := none } := by
  simp only [doLexit, h, hopen, hinfl, evictWaiter_none hwaiter, Bool.false_eq_true, if_false, carry_eq]

end

theorem doLexit_evicts {n sid : Nat} (hwaiter : r.waiter = some (n, sid)) (hinfl : r.infl ≠ 0) :
    doLexit w s f = s.commitWith f ⟨[f.passed .a false r.base], 0⟩ fun st =>
      let st1 := st.modCell f.cell fun k => k.setLoop { r with closing := true, waiter := none }
      match ((st1.cell f.cell).findSet sid).bind FSet.snap with
      | some g => st1.raise g tBAD_OPERAND
      | none => st1 := by
  simp only [doLexit, h, hopen, hinfl, evictWaiter_some hwaiter, Bool.false_eq_true, if_false, carry_eq]

end

/-- Settles O17: the record found, then LNEXT, LDONE and LEXIT each by what the record says. -/
theorem loopAdvanceRetireClose : Obligations.LoopAdvanceRetireClose := by
  unfold Obligations.LoopAdvanceRetireClose
  intro w s f base r v colour n claim retired hk hd hw hp hr hrw hbase
  have h : loopArgs w s f = .ok (r, colour) := loopArgs_ok hk hd hw hp hr hrw
  subst hbase
  have hn : n = (colour + 1) % 2 ^ r.w := by rw [hrw]
  have hv : v = r.w := hrw.symm
  clear_value n v colour
  subst hn hv
  refine ⟨?claims, ?waits, ?lnextBad, ?retires, ?releases, ?last, ?ldoneBad, ?closes, ?idle, ?evicts, ?lexitBad⟩
  case claims => exact fun hopen hfree => commitsWith_of_firing (g := doLnext w s) rfl (doLnext_claims h hopen hfree)
  case waits =>
    exact fun hopen hbusy hwaiter hsel =>
      (runFiring_selected (doLnext w s) hsel).trans (congrArg _ (doLnext_waits h hopen hbusy hwaiter))
  case lnextBad => exact fun hbad => traps_of_firing (g := doLnext w s) rfl (doLnext_refuses h hbad)
  case retires =>
    exact fun hbusy hleft hwaiter => commitsWith_of_firing (g := doLdone w s) rfl (doLdone_retires h hbusy hleft hwaiter)
  case releases =>
    exact fun sid hbusy hleft hwaiter => commitsWith_of_firing (g := doLdone w s) rfl (doLdone_releases h hbusy hleft hwaiter)
  case last =>
    exact fun hbusy hclosing hlast => commitsWith_of_firing (g := doLdone w s) rfl (doLdone_frees h hbusy hclosing hlast)
  case ldoneBad => exact fun hfree => traps_of_firing (g := doLdone w s) rfl (doLdone_refuses h hfree)
  case closes =>
    exact fun hopen hinfl hwaiter => commitsWith_of_firing (g := doLexit w s) rfl (doLexit_closes h hopen hwaiter hinfl)
  case idle =>
    exact fun hopen hidle hwaiter => commitsWith_of_firing (g := doLexit w s) rfl (doLexit_frees h hopen hwaiter hidle)
  case evicts =>
    exact fun _ sid hopen hinfl hwaiter =>
      commitsWith_of_firing (g := doLexit w s) rfl (doLexit_evicts h hopen hwaiter hinfl)
  case lexitBad => exact fun hclosing => traps_of_firing (g := doLexit w s) rfl (doLexit_refuses h hclosing)

end Sys2Proof.Machine
end

section
namespace Sys2Proof.Machine

/-! ## Frames taken: SPAWN, CALL and GANG, and the grants of those that wait (R101, R108, R109, R137 to R139) -/

/-! ### A frame granted -/

/-- The context no longer lists a wait of the firing for a frame. -/
def State.dropFrameWait (s : State) (f : Firing) : State :=
  s.modCtx f.asid fun x => { x with frameWaits := x.frameWaits.filter fun w => !(w.cell == f.cell && w.sid == f.sid) }

theorem State.childTag_eq {s : State} {a : Nat} (i : Nat) (h : (s.ctx a).isSome = true) :
    s.childTag a i = frameTag (((s.ctx a).map fun y => (y.frame i).gen).getD 0) i := by
  obtain ⟨x, hx⟩ := Option.isSome_iff_exists.mp h
  simp [State.childTag, hx]

theorem entryOf_spawn {f : Firing} (hop : f.word.extractLsb' 120 8 = 0x16#8) (hentry : f.word.extractLsb' 64 12 = 0) :
    entryOf f = 0 := by
  rw [entryOf, if_pos hop, hentry]
  rfl

theorem entryOf_call {f : Firing} (hop : f.word.extractLsb' 120 8 = 0x17#8) : entryOf f = 0 := by
  rw [entryOf, hop, if_neg (by decide)]

theorem childDests_spawn {f : Firing} (hop : f.word.extractLsb' 120 8 = 0x16#8) : childDests f = f.outs0 := by
  rw [childDests, hop, if_neg (by decide)]

theorem childDests_call {f : Firing} (hop : f.word.extractLsb' 120 8 = 0x17#8) : childDests f = f.outs0 ++ f.outs1 :=
  if_pos hop

section
variable {s : State} {f : Firing}

theorem spawnCommit_spawn (child : Nat) (hop : f.word.extractLsb' 120 8 = 0x16#8) : spawnCommit s f child =
    (s.dropFrameWait f).commit f ⟨[f.passed .a false (s.childTag f.asid child)], 0⟩ := by
  have hcall : ¬ f.word.extractLsb' 120 8 = 0x17#8 := by rw [hop]; decide
  simp only [spawnCommit, hcall, if_false, decide_false, Bool.false_and, Bool.false_eq_true]
  rfl

theorem spawnCommit_call (child : Nat) (hop : f.word.extractLsb' 120 8 = 0x17#8) (hside : f.outs1 ≠ []) :
    spawnCommit s f child = (s.dropFrameWait f).commit f
      ⟨[f.passed .a false (s.childTag f.asid child), f.passed .b true (s.childTag f.asid child)], 0⟩ := by
  have hside : f.outs1.isEmpty = false := by simpa using hside
  simp only [spawnCommit, hop, hside, Bool.and_false, if_true, if_false, Bool.false_eq_true]
  rfl

theorem spawnCommit_call_bare (child : Nat) (hop : f.word.extractLsb' 120 8 = 0x17#8) (hside : f.outs1 = []) :
    spawnCommit s f child =
      (s.dropFrameWait f).commit f ⟨[f.passed .a false (s.childTag f.asid child)], f.pz [.b]⟩ := by
  simp only [spawnCommit, hop, hside, List.isEmpty_nil, Bool.and_self, decide_true, if_true, List.append_nil]
  rfl

/-- A frame from a share for a child in the firing's own graph: it becomes LIVE, and the firing commits. -/
theorem spawnGrant_own {x : Ctx} {sh : Share} {i : Nat} (hx : s.ctx f.asid = some x)
    (hi : x.lowestFree 1 (x.pool.nframes - 1) = some i) (hbad : (s.runsIn f && s.badDests f.asid (childDests f)) = false)
    (hentry : entryOf f = 0) :
    spawnGrant s f sh = spawnCommit (s.liveFrame f.asid i (childBirth f (s.env f) sh 0 0)) f i := by
  simp only [spawnGrant, hbad, State.allocFrame, hx, hi, hentry, Option.bind_some, Option.map_some, Bool.false_eq_true, if_false,
    if_true]

/-- The same for SPAWN, with its one token under the new frame's tag. -/
theorem spawnGrant_spawn {x : Ctx} {sh : Share} {i : Nat} (hx : s.ctx f.asid = some x)
    (hi : x.lowestFree 1 (x.pool.nframes - 1) = some i) (hop : f.word.extractLsb' 120 8 = 0x16#8)
    (hentry : f.word.extractLsb' 64 12 = 0) (hbad : (s.runsIn f && s.badDests f.asid f.outs0) = false) :
    let s1 := s.liveFrame f.asid i (childBirth f (s.env f) sh 0 0)
    spawnGrant s f sh = (s1.dropFrameWait f).commit f
      ⟨[f.passed .a false (frameTag (((s1.ctx f.asid).map fun y => (y.frame i).gen).getD 0) i)], 0⟩ := by
  intro s1
  have hs1 : (s1.ctx f.asid).isSome = true := State.isSome_ctx_liveFrame i _ (by rw [hx]; rfl)
  rw [spawnGrant_own hx hi (childDests_spawn hop ▸ hbad) (entryOf_spawn hop hentry), spawnCommit_spawn i hop,
    State.childTag_eq i hs1]

end

/-! ### What SPAWN and CALL answer to the pool (R108) -/

section
variable {s : State} {f : Firing} {x : Ctx} (hx : s.ctx f.asid = some x)
include hx

theorem askFrame_grants {sh : Share} (isTry : Bool) (hd : (s.env f).frame.depth + 1 ≤ x.pool.dmax)
    (hsh : x.pool.shareFor ((s.env f).frame.depth + 1) = some sh) : askFrame s f isTry = spawnGrant s f sh := by
  simp only [askFrame, hx, if_neg (Nat.not_lt.mpr hd), hsh]

theorem askFrame_fallsBack
    (hnone : x.pool.dmax < (s.env f).frame.depth + 1 ∨ x.pool.shareFor ((s.env f).frame.depth + 1) = none) :
    askFrame s f true = tryFallback s f := by
  by_cases hd : x.pool.dmax < (s.env f).frame.depth + 1
  · simp only [askFrame, hx, if_pos hd, if_true]
  · simp only [askFrame, hx, if_neg hd, hnone.resolve_left hd, if_true]

theorem askFrame_tooDeep (hd : x.pool.dmax < (s.env f).frame.depth + 1) :
    askFrame s f false = s.raise f tFRAME_DEPTH := by
  simp only [askFrame, hx, if_pos hd, Bool.false_eq_true, if_false]

theorem askFrame_waits (hd : (s.env f).frame.depth + 1 ≤ x.pool.dmax)
    (hnone : x.pool.shareFor ((s.env f).frame.depth + 1) = none) :
    askFrame s f false = s.waitFrame f .frame ((s.env f).frame.depth + 1) 1 := by
  simp only [askFrame, hx, if_neg (Nat.not_lt.mpr hd), hnone, Bool.false_eq_true, if_false]

end

theorem doSpawn_ok {w : OpFields} {s : State} {f : Firing} (hk : f.Kinds (w.fmt == .handle) false false) :
    doSpawn w s f = askFrame s f (w.var == 1) := by
  have hk : checkKinds f (dataTile w) false false = .ok () := checkKinds_ok hk
  simp only [doSpawn, hk]

theorem doCall_ok {w : OpFields} {s : State} {f : Firing} (hk : f.Kinds (w.fmt == .handle) (w.fmt == .handle) false) :
    doCall w s f = askFrame s f false := by
  have hk : checkKinds f (dataTile w) (dataTile w) false = .ok () := checkKinds_ok hk
  simp only [doCall, hk]

/-- Settles O18: the frame that is granted by the instruction that takes it, and what each form does without one. -/
theorem spawnAndCall : Obligations.SpawnAndCall := by
  unfold Obligations.SpawnAndCall
  refine ⟨?granted, ?without⟩
  case granted =>
    intro w s f x sh i fr birth s1 s2 t d hsel hx hd hsh hi
    have htag : s1.childTag f.asid i = t := State.childTag_eq i (State.isSome_ctx_liveFrame i birth (by rw [hx]; rfl))
    have calls (hop : f.word.extractLsb' 120 8 = 0x17#8) (hk : f.Kinds d d false)
        (hbad : (s.runsIn f && s.badDests f.asid (f.outs0 ++ f.outs1)) = false) : doCall w s f = spawnCommit s1 f i := by
      rw [← childDests_call hop] at hbad
      rw [doCall_ok hk, askFrame_grants hx _ hd hsh]
      exact spawnGrant_own hx hi hbad (entryOf_call hop)
    refine ⟨?spawn, ?call, ?callBare⟩
    case spawn =>
      intro hop hentry hk hbad cell1 placed ⟨_, hfits⟩
      have hgo : doSpawn w s f = s2.commit f ⟨[f.passed .a false t], 0⟩ := by
        rw [doSpawn_ok hk, askFrame_grants hx _ hd hsh]
        exact spawnGrant_spawn hx hi hop hentry hbad
      exact (runFiring_selected (doSpawn w s) hsel).trans (congrArg _ (hgo.trans (State.commit_fits hfits)))
    case call =>
      intro hop hk hbad hside cell1 placed ⟨_, hfits⟩
      have hgo : doCall w s f = s2.commit f ⟨[f.passed .a false t, f.passed .b true t], 0⟩ := by
        rw [calls hop hk hbad, spawnCommit_call i hop hside, htag]
        rfl
      exact (runFiring_selected (doCall w s) hsel).trans (congrArg _ (hgo.trans (State.commit_fits hfits)))
    case callBare =>
      intro hop hk hbad hside cell1 placed ⟨_, hfits⟩
      have hgo : doCall w s f = s2.commit f ⟨[f.passed .a false t], f.pz [.b]⟩ := by
        rw [calls hop hk hbad, spawnCommit_call_bare i hop hside, htag]
        rfl
      exact (runFiring_selected (doCall w s) hsel).trans (congrArg _ (hgo.trans (State.commit_fits hfits)))
  case without =>
    intro w s f x depth d wait held hx
    have plain {w : OpFields} (hvar : w.var ≠ 1) (hk : f.Kinds (w.fmt == .handle) false false) : doSpawn w s f = askFrame s f false := by
      rw [doSpawn_ok hk, beq_false_of_ne hvar]
    refine ⟨?try_, ?deepSpawn, ?deepCall, ?waitSpawn, ?waitCall⟩
    case try_ =>
      intro hvar hk hnone
      refine commitsWith_of_firing (g := doSpawn w s) rfl ?_
      rw [doSpawn_ok hk, hvar]
      exact askFrame_fallsBack hx hnone
    case deepSpawn =>
      exact fun hvar hk hd => traps_of_firing (g := doSpawn w s) rfl ((plain hvar hk).trans (askFrame_tooDeep hx hd))
    case deepCall =>
      exact fun hk hd => traps_of_firing (g := doCall w s) rfl ((doCall_ok hk).trans (askFrame_tooDeep hx hd))
    case waitSpawn =>
      exact fun hvar hk hd hnone hsel => (runFiring_selected (doSpawn w s) hsel).trans
        (congrArg _ ((plain hvar hk).trans (askFrame_waits hx hd hnone)))
    case waitCall =>
      exact fun hk hd hnone hsel => (runFiring_selected (doCall w s) hsel).trans
        (congrArg _ ((doCall_ok hk).trans (askFrame_waits hx hd hnone)))

/-! ### GANG (R109, R139) -/

/-- The context no longer lists a wait of the firing for a gang. -/
def State.dropGangWait (s : State) (f : Firing) : State :=
  s.modCtx f.asid fun x => { x with gangWaits := x.gangWaits.filter fun w => !(w.cell == f.cell && w.sid == f.sid) }

/-- The gang's members are allocated, and the firing commits with what they are sent. -/
theorem gangCommit_fits {s : State} {f : Firing} {n : Nat} {cell1 : Cell} {placed : List Out}
    (hbad : (s.runsIn f && s.badDests f.asid f.outs0) = false) :
    let members := State.allocGang f n n (s.dropGangWait f) []
    members.1.Fits f [] cell1 placed →
      gangCommit s f n = members.1.committed f cell1 placed 0 (gangSends f (s.runsIn f) members.2) := by
  intro members hfits
  rw [gangCommit, hbad, if_neg Bool.false_ne_true]
  exact State.commitWith_fits (c := ⟨[], 0⟩) _ hfits

section
variable {w : OpFields} {s : State} {f : Firing} (hk : f.Kinds (w.fmt == .handle) false false)
include hk

theorem doGang_none (hn : (f.val .b).word.toNat = 0) : doGang w s f = s.raise f tBAD_OPERAND := by
  have hk : checkKinds f (dataTile w) false false = .ok () := checkKinds_ok hk
  simp only [doGang, hk, gangSize, hn, trapIf, Bind.bind, Except.bind, beq_self_eq_true, if_true]

variable (hn : (f.val .b).word.toNat ≠ 0)
include hn

theorem doGang_poisoned (hp : f.isPoisoned .b = true) : doGang w s f = s.raise f (tPOISON 2) := by
  have hk : checkKinds f (dataTile w) false false = .ok () := checkKinds_ok hk
  simp only [doGang, hk, gangSize, beq_false_of_ne hn, trapIf, checkPoison_error hp, Bind.bind, Except.bind, Bool.false_eq_true,
    if_false]

variable (hp : f.isPoisoned .b = false) {x : Ctx} (hx : s.ctx f.asid = some x)
include hp hx

theorem doGang_asks : doGang w s f =
    let n := (f.val .b).word.toNat
    let d := (s.env f).frame.depth + 1
    if x.pool.nframes - 17 - x.pool.resv * x.pool.dmax < n then s.raise f tGANG_TOO_LARGE
    else if x.pool.dmax < d then (if w.var == 1 then tryFallback s f else s.raise f tFRAME_DEPTH)
    else if n ≤ x.pool.gfree && x.gangWaits.isEmpty then
      if s.gangResident f then gangCommit s f n else (s.waitFrame f .gang d n).setAside f.asid n
    else if w.var == 1 then tryFallback s f else s.waitFrame f .gang d n := by
  have hk : checkKinds f (dataTile w) false false = .ok () := checkKinds_ok hk
  simp only [doGang, hk, gangSize, beq_false_of_ne hn, trapIf, checkPoison_ok hp, hx, Bind.bind, Except.bind, Bool.false_eq_true,
    if_false] <;> rfl

theorem doGang_tooLarge (hfit : x.pool.nframes - 17 - x.pool.resv * x.pool.dmax < (f.val .b).word.toNat) :
    doGang w s f = s.raise f tGANG_TOO_LARGE := by
  rw [doGang_asks hk hn hp hx]
  exact if_pos hfit

variable (hfit : (f.val .b).word.toNat ≤ x.pool.nframes - 17 - x.pool.resv * x.pool.dmax)
include hfit

theorem doGang_tooDeep (hd : x.pool.dmax < (s.env f).frame.depth + 1) :
    doGang w s f = if w.var == 1 then tryFallback s f else s.raise f tFRAME_DEPTH := by
  rw [doGang_asks hk hn hp hx]
  exact (if_neg (Nat.not_lt.mpr hfit)).trans (if_pos hd)

variable (hd : (s.env f).frame.depth + 1 ≤ x.pool.dmax)
include hd

theorem doGang_short (hshort : x.pool.gfree < (f.val .b).word.toNat ∨ x.gangWaits ≠ []) : doGang w s f =
    if w.var == 1 then tryFallback s f else s.waitFrame f .gang ((s.env f).frame.depth + 1) (f.val .b).word.toNat := by
  have hshort : ¬ (decide ((f.val .b).word.toNat ≤ x.pool.gfree) && x.gangWaits.isEmpty) = true := by
    simpa [imp_iff_not_or] using hshort
  rw [doGang_asks hk hn hp hx]
  exact (if_neg (Nat.not_lt.mpr hfit)).trans ((if_neg (Nat.not_lt.mpr hd)).trans (if_neg hshort))

theorem doGang_has (hfree : (f.val .b).word.toNat ≤ x.pool.gfree) (hfirst : x.gangWaits = []) : doGang w s f =
    if s.gangResident f then gangCommit s f (f.val .b).word.toNat
    else (s.waitFrame f .gang ((s.env f).frame.depth + 1) (f.val .b).word.toNat).setAside f.asid (f.val .b).word.toNat := by
  have hhas : (decide ((f.val .b).word.toNat ≤ x.pool.gfree) && x.gangWaits.isEmpty) = true := by simp [hfree, hfirst]
  rw [doGang_asks hk hn hp hx]
  exact (if_neg (Nat.not_lt.mpr hfit)).trans ((if_neg (Nat.not_lt.mpr hd)).trans (if_pos hhas))

end

/-! ### Grants -/

section
variable {s : State} {asid : Nat} {x : Ctx} {wt : FrameWait} {f : Firing} {rest : List FrameWait} (hx : s.ctx asid = some x)
  (hdry : x.dry = .none) (hf : s.waitFiring asid wt = some f)
include hx hdry hf

theorem exec_heldFrameGrant {older : List FrameWait} {sh : Share} (hw : x.frameWaits = older ++ wt :: rest)
    (holder : ∀ v ∈ older, x.pool.shareFor v.depth = none ∨ s.waitFiring asid v = none) (hsh : x.pool.shareFor wt.depth = some sh) :
    exec (.heldFrameGrant asid) s =
      .next { spawnGrant s f sh with due := (spawnGrant s f sh).due ++ [.event (.heldFrameGrant asid)] } := by
  have hskip : ∀ v ∈ older, ¬ ((x.pool.shareFor v.depth).isSome && (s.waitFiring asid v).isSome) = true := by
    intro v hv
    rcases holder v hv with h | h <;> simp [h]
  have hfind : (x.frameWaits.find? fun v => (x.pool.shareFor v.depth).isSome && (s.waitFiring asid v).isSome) = some wt := by
    rw [hw, List.find?_append, List.find?_eq_none.mpr hskip]
    simp [hsh, hf]
  show execHeldFrameGrant asid s = _
  simp only [execHeldFrameGrant, hx, hdry, bne_self_eq_false, hfind, hf, hsh, Bool.false_eq_true, if_false]

theorem exec_gangGrant (hw : x.gangWaits = wt :: rest) (hn : wt.n ≤ x.aside + x.pool.gfree) (hres : s.gangResident f = true) :
    exec (.gangGrant asid) s = .next ((gangCommit ((s.modCtx asid fun y => { y with aside := 0 }).modPool asid fun p =>
      { p with gfree := p.gfree + x.aside }) f wt.n).grantDue asid) := by
  show execGangGrant asid s = _
  simp only [execGangGrant, hx, hw, hdry, hn, hf, Option.filter_some, hres, beq_self_eq_true, decide_true, Bool.and_self, if_true]

end

/-- Settles O20: GANG by what it finds wrong or the pool holds, and the grant of each kind of wait. -/
theorem gangAndFrameWaiters : Obligations.GangAndFrameWaiters := by
  unfold Obligations.GangAndFrameWaiters
  refine ⟨?gang, ?grants⟩
  case gang =>
    intro w s f x d n depth s0 members fits wait waits hx hk
    refine ⟨?none, ?poisoned, ?tooLarge, ?tooDeep, ?waits, ?setsAside, ?commits, ?fallsBack⟩
    case none => exact fun hn => traps_of_firing (g := doGang w s) rfl (doGang_none hk hn)
    case poisoned => exact fun hn hp => traps_of_firing (g := doGang w s) rfl (doGang_poisoned hk hn hp)
    case tooLarge => exact fun hn hp hfit => traps_of_firing (g := doGang w s) rfl (doGang_tooLarge hk hn hp hx hfit)
    case tooDeep =>
      intro hn hp hfit hd
      have hgo := doGang_tooDeep hk hn hp hx hfit hd
      refine ⟨fun hvar => commitsWith_of_firing (g := doGang w s) rfl (hgo.trans ?_),
        fun hvar => traps_of_firing (g := doGang w s) rfl (hgo.trans ?_)⟩
      · rw [hvar]; rfl
      · rw [beq_false_of_ne hvar]; rfl
    case waits =>
      intro hn hp hfit hd hshort hvar hsel
      refine (runFiring_selected (doGang w s) hsel).trans (congrArg _ ((doGang_short hk hn hp hx hfit hd hshort).trans ?_))
      rw [beq_false_of_ne hvar]; rfl
    case setsAside =>
      intro hn hp hfit hd hfree hfirst hres hsel
      refine (runFiring_selected (doGang w s) hsel).trans (congrArg _ ((doGang_has hk hn hp hx hfit hd hfree hfirst).trans ?_))
      rw [hres]; rfl
    case commits =>
      intro hn hp hfit hd hfree hfirst hres hbad cell1 placed hsel ⟨_, hfits⟩
      refine (runFiring_selected (doGang w s) hsel).trans (congrArg _ ((doGang_has hk hn hp hx hfit hd hfree hfirst).trans ?_))
      rw [if_pos hres]
      exact gangCommit_fits hbad hfits
    case fallsBack =>
      intro hn hp hfit hd hshort hvar
      refine commitsWith_of_firing (g := doGang w s) rfl ((doGang_short hk hn hp hx hfit hd hshort).trans ?_)
      rw [hvar]; rfl
  case grants =>
    rintro s asid x f wt older rest cell1 placed hx hdry rfl hcell hsid hf rid fr
    refine ⟨?frame, ?gang⟩
    case frame =>
      intro sh i hw holder hsh hi hop hentry hbad s1 t hfits s2
      have hgo : spawnGrant s f sh = s2 := (spawnGrant_spawn hx hi hop hentry hbad).trans (State.commit_fits hfits)
      rw [exec_heldFrameGrant hx hdry hf hw holder hsh, hgo]
    case gang =>
      intro hw hn hres s0 members hbad hfits
      rw [exec_gangGrant hx hdry hf hw hn hres]
      exact congrArg (fun st : State => Host.Outcome.next (st.grantDue f.asid)) (gangCommit_fits hbad hfits)

end Sys2Proof.Machine
end

section
namespace Sys2Proof.Machine

/-! ## Frames ended: RET, FEND and KILLF (R102, R103, R140 to R143) -/

/-! ### The three instructions -/

section
variable {w : OpFields} {s : State} {f : Firing}

theorem doRet_ok {t : Tag} (hk : f.Kinds (w.fmt == .handle) false false) (ht : outTag w f (s.env f) = .ok t) :
    doRet w s f = s.commitWith f ⟨[f.passed .a false t], 0⟩ fun st => st.endOwn f.asid (tagFrame f.tag) (tagGen f.tag) := by
  have hk : f.Kinds (dataTile w) false false := hk
  rw [doRet, evalOp_ok hk ht]
  rfl

theorem doFend_ok (hk : f.Kinds (w.fmt == .handle) (w.fmt == .handle) (w.fmt == .handle)) : doFend w s f =
    s.commitWith f ⟨[], f.pz [.a, .b, .c]⟩ fun st => st.endOwn f.asid (tagFrame f.tag) (tagGen f.tag) := by
  have hk : checkKinds f (dataTile w) (dataTile w) (dataTile w) = .ok () := checkKinds_ok hk
  simp only [doFend, hk]

end

section
variable {x : Ctx} {f : Firing} (hk : f.Scalars)
include hk

theorem frameOperand_ok (hv : ((f.val .a).word).extractLsb' 20 44 = 0) (hi : (((f.val .a).word).extractLsb' 0 12).toNat < x.pool.nframes)
    (hp : f.isPoisoned .a = false) :
    frameOperand x f = .ok ((((f.val .a).word).extractLsb' 0 12).toNat, ((f.val .a).word).extractLsb' 12 4) := by
  simp only [frameOperand, checkKinds_ok hk, hv, Nat.not_le.mpr hi, checkPoison_ok hp, trapIf, bne_self_eq_false, decide_false,
    Bool.or_self, Bool.false_eq_true, if_false, Bind.bind, Except.bind, Pure.pure, Except.pure]

theorem frameOperand_error
    (h : ((f.val .a).word).extractLsb' 20 44 ≠ 0 ∨ x.pool.nframes ≤ (((f.val .a).word).extractLsb' 0 12).toNat) :
    frameOperand x f = .error tBAD_OPERAND := by
  have hbad : (((f.val .a).word).extractLsb' 20 44 != 0 || decide (x.pool.nframes ≤ (((f.val .a).word).extractLsb' 0 12).toNat)) =
      true := by simpa using h
  simp only [frameOperand, checkKinds_ok hk, hbad, trapIf, if_true, Bind.bind, Except.bind]

end

/-- The test that KILLF makes of the frame it names. -/
theorem Frame.runs_iff {fr : Frame} {g : BitVec 4} :
    ((fr.st == .live || fr.st == .parked) && fr.gen == g) = true ↔ (fr.st = .live ∨ fr.st = .parked) ∧ fr.gen = g := by
  simp

section
variable {s : State} {f : Firing} {x : Ctx} (hx : s.ctx f.asid = some x)
include hx

theorem doKillf_ok (w : OpFields) {i : Nat} {g : BitVec 4} (h : frameOperand x f = .ok (i, g)) : doKillf w s f =
    s.commitWith f ⟨[f.scalarOut f.tag
      (if ((x.frame i).st == .live || (x.frame i).st == .parked) && (x.frame i).gen == g then 0 else 1)], 0⟩ fun st =>
        st.endNamed f.asid i g := by
  simp only [doKillf, hx, h]
  rfl

theorem doKillf_error (w : OpFields) {t : Trap} (h : frameOperand x f = .error t) : doKillf w s f = s.raise f t := by
  simp only [doKillf, hx, h]

end

/-! ### What the end of a frame leaves alone -/

/-- The context keeps its frames and its sweeps, and no broadcast is sent or delivered. -/
structure State.KeepsFrames (a : Nat) (s t : State) : Prop where
  bcasts : t.bcasts = s.bcasts
  own : ∀ x, s.ctx a = some x → ∃ y, t.ctx a = some y ∧ y.frames = x.frames ∧ y.sweeps = x.sweeps

theorem State.markBlock_Changes (s : State) (x : Ctx) (b : Nat) (on : Bool) : s.MemOnly (s.markBlock x b on) := ⟨_, rfl⟩

theorem State.publishRec_Changes (s : State) (a : Nat) (r : TrapRec) : s.MemOnly (s.publishRec a r) := by
  unfold State.publishRec
  split
  · dsimp only
    split <;> exact ⟨_, rfl⟩
  · exact State.MemOnly.refl s

namespace State.KeepsFrames

variable {a : Nat} {s t u : State}

theorem refl (a : Nat) (s : State) : s.KeepsFrames a s := ⟨rfl, fun x hx => ⟨x, hx, rfl, rfl⟩⟩

theorem trans (h : s.KeepsFrames a t) (g : t.KeepsFrames a u) : s.KeepsFrames a u where
  bcasts := g.bcasts.trans h.bcasts
  own x hx := by
    obtain ⟨y, hy, hframes, hsweeps⟩ := h.own x hx
    obtain ⟨z, hz, gframes, gsweeps⟩ := g.own y hy
    exact ⟨z, hz, gframes.trans hframes, gsweeps.trans hsweeps⟩

theorem of_memOnly (h : s.MemOnly t) : s.KeepsFrames a t := by
  obtain ⟨m, rfl⟩ := h
  exact ⟨rfl, fun x hx => ⟨x, hx, rfl, rfl⟩⟩

theorem foldl {α : Type} {g : State → α → State} (h : ∀ (s : State) (x : α), s.KeepsFrames a (g s x)) (l : List α) (s : State) :
    s.KeepsFrames a (l.foldl g s) :=
  foldl_rel (State.KeepsFrames a) (refl a) (fun _ _ _ => trans) g h l s

theorem setCtx {x y : Ctx} (hx : s.ctx a = some x) (hframes : y.frames = x.frames) (hsweeps : y.sweeps = x.sweeps) :
    s.KeepsFrames a (s.setCtx a y) where
  bcasts := rfl
  own z hz := by
    obtain rfl : z = x := Option.some.inj (hz.symm.trans hx)
    exact ⟨y, s.ctx_setCtx a y, hframes ▸ rfl, hsweeps⟩

theorem gcTiles (a : Nat) (s : State) (c : Nat) : s.KeepsFrames a (s.gcTiles c) :=
  ⟨rfl, fun x hx => ⟨x, hx, rfl, rfl⟩⟩

theorem freeBlock (a b : Nat) (s : State) : s.KeepsFrames a (s.freeBlock a b) := by
  unfold State.freeBlock
  split
  · exact refl a s
  next x hx =>
    have hfreed := setCtx (y := { x with blocks := x.blocks.filter (· != b) }) hx rfl rfl
    exact hfreed.trans (of_memOnly (State.markBlock_Changes ..))

theorem releaseBlock (a b : Nat) (s : State) : s.KeepsFrames a (s.releaseBlock a b) := by
  unfold State.releaseBlock
  split
  · exact refl a s
  · exact freeBlock a b s

theorem clearPark (a : Nat) (s : State) (i : Nat) (g : BitVec 4) : s.KeepsFrames a (s.clearPark a i g) := by
  unfold State.clearPark
  split
  · exact refl a s
  next x hx =>
    have hcleared := setCtx (y := { x with parked := x.parked.filter fun w => !w.entry.ofFrame a i g }) hx rfl rfl
    have hzeroed := foldl (a := a) (g := fun st (w : Stored) => st.writeMem (x.parkAddr w.idx) (zeros 64))
      (fun st _ => of_memOnly (st.writeMem_Changes ..)) (x.parked.filter fun w => w.entry.ofFrame a i g)
    exact (hcleared.trans (hzeroed _)).trans (of_memOnly (State.publishPark_Changes ..))

end State.KeepsFrames

/-! ### The end of a frame (R102, R103) -/

theorem look_map_of_key {α : Type} {g : Nat × α → Nat × α} (hg : ∀ p, (g p).1 = p.1) (k : Nat) (m : List (Nat × α)) :
    look k (m.map g) = (look k m).map fun v => (g (k, v)).2 := by
  induction m with
  | nil => rfl
  | cons p t ih =>
    obtain ⟨j, v⟩ := p
    rw [List.map_cons, show g (j, v) = (j, (g (j, v)).2) from Prod.ext (hg _) rfl]
    by_cases h : j = k
    · subst h; simp [look]
    · simp [look, h, ih]

/-- A handler frame whose record has been closed holds none, unless it is frame i itself (R387). -/
def loosened (i : Nat) (closed : List TrapRec) (p : Nat × Frame) : Nat × Frame :=
  if p.1 != i && p.2.record.isSome && closed.any (fun r => r.index == p.2.record) then (p.1, { p.2 with record := none }) else p

theorem loosened_fst (i : Nat) (closed : List TrapRec) (p : Nat × Frame) : (loosened i closed p).1 = p.1 := by
  unfold loosened; split <;> rfl

theorem loosened_runs (i : Nat) (closed : List TrapRec) (p : Nat × Frame) :
    (loosened i closed p).2.st = p.2.st ∧ (loosened i closed p).2.gen = p.2.gen := by
  unfold loosened; split <;> exact ⟨rfl, rfl⟩

theorem Ctx.frame_loosened {x y : Ctx} {i : Nat} {closed : List TrapRec} (h : y.frames = x.frames.map (loosened i closed))
    (j : Nat) : (y.frame j).st = (x.frame j).st ∧ (y.frame j).gen = (x.frame j).gen := by
  rw [Ctx.frame, Ctx.frame, h, look_map_of_key (loosened_fst i closed)]
  cases look j x.frames with
  | none => exact ⟨rfl, rfl⟩
  | some f => exact loosened_runs i closed (j, f)

theorem State.endFrame_ending {s : State} {a i : Nat} {x : Ctx} (hx : s.ctx a = some x) :
    ∃ y, (s.endFrame a i).ctx a = some y ∧ (y.frame i).st = .ending ∧ (y.frame i).gen = (x.frame i).gen ∧
      y.sweeps = x.sweeps ++ [{ frame := i, gen := (x.frame i).gen }] ∧
      (∀ j, j ≠ i → (y.frame j).st = (x.frame j).st ∧ (y.frame j).gen = (x.frame j).gen) ∧
      (s.endFrame a i).bcasts =
        s.bcasts ++ [{ asid := a, kind := .sweep i (x.frame i).gen.toNat, left := x.cr.sweepCells }] := by
  generalize ht : s.endFrame a i = t
  unfold State.endFrame at ht
  rw [hx] at ht
  dsimp -zeta only at ht
  extract_lets f mine dead s2 closed s3 s4 s5 s6 s7 at ht
  have h2 : s.KeepsFrames a s2 :=
    (State.KeepsFrames.clearPark ..).trans (State.KeepsFrames.foldl (fun st b => .releaseBlock a b st) _ _)
  have h3 : s2.KeepsFrames a s3 := State.KeepsFrames.foldl (fun st _ => .of_memOnly (st.publishRec_Changes ..)) _ _
  have h7 : s6.KeepsFrames a s7 := State.KeepsFrames.foldl (fun st b => .releaseBlock a b st) _ _
  have h8 : s7.KeepsFrames a t := ht ▸ State.KeepsFrames.foldl (fun st c => .gcTiles a st c) _ _
  obtain ⟨y3, hy3, hframes3, hsweeps3⟩ := (h2.trans h3).own x hx
  obtain ⟨y4, hy4, hframes4, hsweeps4⟩ : ∃ y4, s4.ctx a = some y4 ∧ y4.frames = x.frames.map (loosened i closed) ∧
      y4.sweeps = x.sweeps ++ [{ frame := i, gen := f.gen }] :=
    ⟨_, (State.ctx_modCtx ..).trans (congrArg _ hy3), hframes3 ▸ rfl, hsweeps3 ▸ rfl⟩
  have hkept := Ctx.frame_loosened hframes4
  have h5 : s5 = _ := State.setFrame_eq hy4 i _
  have hy6 : s6.ctx a = some { y4 with frames := put i { f with st := .ending } y4.frames } := by
    show s5.ctx a = _
    rw [h5, State.ctx_writeMem, State.ctx_setCtx]
  have hbcasts : s5.bcasts = s.bcasts := by
    rw [State.setFrame_bcasts, State.modCtx_bcasts, h3.bcasts, h2.bcasts]
  obtain ⟨y, hy, hframes, hsweeps⟩ := (h7.trans h8).own _ hy6
  have hframe (j : Nat) : y.frame j = ({ y4 with frames := put i { f with st := .ending } y4.frames } : Ctx).frame j := by
    rw [Ctx.frame, hframes, Ctx.frame]
  refine ⟨y, hy, ?_, ?_, hsweeps.trans hsweeps4, fun j hj => ?_, ?_⟩
  · rw [hframe, Ctx.frame_put]
  · rw [hframe, Ctx.frame_put]
  · rw [hframe, Ctx.frame_put_ne _ _ hj]
    exact hkept j
  · rw [(h7.trans h8).bcasts, ← hbcasts]

theorem State.endNamed_runs {s : State} {a i : Nat} {x : Ctx} (hx : s.ctx a = some x)
    (hruns : (x.frame i).st = .live ∨ (x.frame i).st = .parked) : s.endNamed a i (x.frame i).gen = s.endFrame a i := by
  simp [State.endNamed, hx, hruns]

/-- Settles O19: each instruction by its operands, and the end of a frame by what it keeps of the context. -/
theorem framesEnd : Obligations.FramesEnd := by
  unfold Obligations.FramesEnd
  refine ⟨?instructions, ?ends⟩
  case instructions =>
    intro w s f t x d own v i g hit hx
    refine ⟨?ret, ?fend, ?hits, ?misses, ?bad⟩
    case ret => exact fun hk ht => commitsWith_of_firing (g := doRet w s) rfl (doRet_ok hk ht)
    case fend => exact fun hk => commitsWith_of_firing (g := doFend w s) rfl (doFend_ok hk)
    case hits =>
      intro hk hv hi hp hhit
      have hgo := doKillf_ok hx w (frameOperand_ok hk hv hi hp)
      rw [if_pos (Frame.runs_iff.mpr hhit)] at hgo
      exact commitsWith_of_firing (g := doKillf w s) rfl hgo
    case misses =>
      intro hk hv hi hp hmiss
      have hgo := doKillf_ok hx w (frameOperand_ok hk hv hi hp)
      rw [if_neg fun h => hmiss (Frame.runs_iff.mp h)] at hgo
      exact commitsWith_of_firing (g := doKillf w s) rfl hgo
    case bad =>
      exact fun hk hbad => traps_of_firing (g := doKillf w s) rfl (doKillf_error hx w (frameOperand_error hk hbad))
  case ends =>
    intro s asid i x hx hruns
    rw [State.endNamed_runs hx hruns]
    exact State.endFrame_ending hx

end Sys2Proof.Machine
end

section
namespace Sys2Proof.Machine

/-! ## Broadcasts reaching cells (R103, R158, R380, R398, R405, R411, R430, R473) -/

/-- The n-th broadcast, for the cells left, has been told to one of them; it is gone with the last. -/
def State.told (s : State) (n cell : Nat) (left : List Nat) : State :=
  let l := s.bcasts.modify n fun b => { b with left := b.left.filter fun d => d != cell }
  { s with bcasts := if (left.filter fun d => d != cell).isEmpty then l.eraseIdx n else l }

section
variable {s : State} {n c asid : Nat} {left : List Nat}

theorem State.reached_eq {k : BcastKind} (hn : s.bcasts[n]? = some { asid := asid, kind := k, left := left }) (c : Nat) :
    s.reached n c = s.told n c left := by
  simp only [State.reached, State.told, List.getElem?_modify_eq, hn, Option.map_eq_map, Option.map_some]

@[simp] theorem State.ctx_told (s : State) (n c : Nat) (left : List Nat) (a : Nat) : (s.told n c left).ctx a = s.ctx a := rfl

@[simp] theorem State.frameOf_told (s : State) (n c : Nat) (left : List Nat) (a : Nat) (t : Tag) :
    (s.told n c left).frameOf a t = s.frameOf a t := rfl

/-! ### Parking (R380) -/

section
variable {fr gen : Nat} {clear : Bool} (hn : s.bcasts[n]? = some { asid := asid, kind := .park fr gen clear, left := left })
include hn

theorem exec_parkingBroadcastArrival_absent (hc : c ∉ left) : exec (.parkingBroadcastArrival n c) s = .next s := by
  show execParkingBroadcastArrival n c s = _
  simp [execParkingBroadcastArrival, hn, hc]

/-- The cell on which a BREAK's own broadcast has cleared its frame break (R398). -/
def State.breakCleared (s : State) (c asid fr gen : Nat) (clear : Bool) : State :=
  if clear then s.modCell c fun y => { y with fbreaks := y.fbreaks.filter (· != (asid, fr, gen)) } else s

theorem exec_parkingBroadcastArrival (hc : c ∈ left) : exec (.parkingBroadcastArrival n c) s =
    .next (let g := BitVec.ofNat 4 gen
      let s2 := (s.told n c left).breakCleared c asid fr gen clear
      let f := s.frameOf asid (frameTag g fr)
      if f.st == .parked && f.gen == g then s2.withdraw asid fr g c else s2) := by
  show execParkingBroadcastArrival n c s = _
  have hc : left.contains c = true := by simpa using hc
  simp only [execParkingBroadcastArrival, hn, hc, State.reached_eq hn, Bool.not_true, Bool.false_eq_true, if_false]
  cases clear <;> rfl

end

/-! ### Sweeps (R103, R473) -/

theorem exec_sweepBroadcastArrival {fr gen : Nat} (hn : s.bcasts[n]? = some { asid := asid, kind := .sweep fr gen, left := left })
    (hc : c ∈ left) (ha : s.away asid = false) : exec (.sweepBroadcastArrival n c) s =
      .next (let s1 := s.told n c left
        if (s1.region asid).contains c then s1.sweepCell asid fr (BitVec.ofNat 4 gen) c
        else s1.sweepHomes asid fr (BitVec.ofNat 4 gen) (· == c)) := by
  have hc : left.contains c = true := by simpa using hc
  show execSweepBroadcastArrival n c s = _
  simp only [execSweepBroadcastArrival, hn, hc, ha, State.reached_eq hn, Bool.not_true, Bool.or_self, Bool.false_eq_true, if_false]

/-! ### Flips (R157, R158) -/

theorem State.drying_iff : s.drying asid = true ↔ ∃ x, s.ctx asid = some x ∧ x.dry ≠ .none := by
  simp [State.drying, Option.any_eq_true]

/-- A set that has formed on the cell and can still start, or an operation that one has issued, holds the flip. -/
theorem State.flipHeld_iff : s.flipHeld asid c = true ↔
    (∃ q ∈ (s.cell c).sets, q.asid = asid ∧
      (q.walking = true ∨ ((s.cell c).stops.contains asid = false ∧ q.hold = none ∧ q.snap = none))) ∨
    ∃ o ∈ s.memops, o.firing.asid = asid ∧ o.firing.cell = c ∧ o.origin = none ∧ o.phase ≠ .abandoned ∧
      ¬ (o.listed = true ∧ o.phase ≠ .accepting ∧ ∃ x, s.ctx asid = some x ∧ x.dry ≠ .none) := by
  rw [← State.drying_iff]
  simp [State.flipHeld, Cell.flipWaits, and_assoc, or_assoc, imp_iff_not_or]

section
variable {purge : Bool} (hn : s.bcasts[n]? = some { asid := asid, kind := .flip purge, left := left }) (hc : c ∈ left)
include hn

theorem exec_planeFlipArrival_held (hheld : s.flipHeld asid c = true) : exec (.planeFlipArrival n c) s = .next s := by
  show execPlaneFlipArrival n c s = _
  simp only [execPlaneFlipArrival, hn, hheld, Bool.or_true, if_true]

include hc

theorem exec_planeFlipArrival (hheld : s.flipHeld asid c = false) : exec (.planeFlipArrival n c) s =
    .next ((if purge then (s.told n c left).purgeCell asid c else s.told n c left).flipCell asid c) := by
  have hc : left.contains c = true := by simpa using hc
  show execPlaneFlipArrival n c s = _
  simp only [execPlaneFlipArrival, hn, hc, hheld, State.reached_eq hn, Bool.not_true, Bool.or_self, Bool.false_eq_true, if_false]

end

/-! ### Broadcasts that come in the dispatcher's order (R398, R405, R411, R430) -/

/-- The parking broadcast of a BREAK, which clears the frame break. -/
def BcastKind.clears (fr gen : Nat) : BcastKind → Bool
  | .park i g clear => clear && i == fr && g == gen
  | _ => false
/-- An arm or a clear of the watch slot. -/
def BcastKind.arms (slot : Nat) : BcastKind → Bool
  | .watch j _ => j == slot
  | _ => false
def BcastKind.flips : BcastKind → Bool
  | .flip _ => true
  | _ => false
/-- A change of the break bit. -/
def BcastKind.changes (cell slot : Nat) : BcastKind → Bool
  | .breakBit d k _ _ => d == cell && k == slot
  | _ => false

theorem BcastKind.clears_iff {fr gen : Nat} {k : BcastKind} : k.clears fr gen = true ↔ k = .park fr gen true := by
  cases k <;> simp [BcastKind.clears, and_assoc, and_comm, and_left_comm]

theorem BcastKind.arms_iff {slot : Nat} {k : BcastKind} : k.arms slot = true ↔ ∃ u, k = .watch slot u := by
  cases k <;> simp [BcastKind.arms]

theorem BcastKind.flips_iff {k : BcastKind} : k.flips = true ↔ ∃ p, k = .flip p := by
  cases k <;> simp [BcastKind.flips]

theorem BcastKind.changes_iff {cell slot : Nat} {k : BcastKind} : k.changes cell slot = true ↔ ∃ u y, k = .breakBit cell slot u y := by
  cases k <;> simp [BcastKind.changes]

/-- A broadcast of the context of these kinds, sent before the n-th, is still to reach the cell. -/
def State.behind (s : State) (n c asid : Nat) (q : BcastKind → Bool) : Bool :=
  (s.bcasts.take n).any fun b => b.asid == asid && b.left.contains c && q b.kind

theorem State.not_behind {q : BcastKind → Bool} (h : ∀ b ∈ s.bcasts.take n, b.asid = asid → q b.kind = true → c ∉ b.left) :
    s.behind n c asid q = false := by
  rw [State.behind, List.any_eq_false]
  intro b hb hbehind
  obtain ⟨⟨ha, hleft⟩, hq⟩ : (b.asid = asid ∧ c ∈ b.left) ∧ q b.kind = true := by simpa using hbehind
  exact h b hb ha hq hleft

section
variable {fr gen : Nat} {x : Ctx} (hn : s.bcasts[n]? = some { asid := asid, kind := .frameBreak fr gen, left := left }) (hc : c ∈ left)
  (hfirst : ∀ b ∈ s.bcasts.take n, b.asid = asid → b.kind = .park fr gen true → c ∉ b.left) (hx : s.ctx asid = some x)
include hn hc hfirst hx

theorem exec_frameBreakArrival : exec (.frameBreakArrival n c) s =
    .next (let t := frameTag (BitVec.ofNat 4 gen) fr
      if x.fbreaks.contains (fr, gen) && frameCurrent (s.frameOf asid t) t then
        (s.told n c left).modCell c fun y => { y with fbreaks := y.fbreaks.filter (· != (asid, fr, gen)) ++ [(asid, fr, gen)] }
      else s.told n c left) := by
  have hc : left.contains c = true := by simpa using hc
  have hbehind : s.behind n c asid (BcastKind.clears fr gen) = false :=
    State.not_behind fun b hb ha hk => hfirst b hb ha (BcastKind.clears_iff.mp hk)
  have hgoes : (!left.contains c || s.behind n c asid (BcastKind.clears fr gen)) = false := by rw [hc, hbehind]; rfl
  show execFrameBreakArrival n c s = _
  simp only [execFrameBreakArrival, hn]
  refine (congrArg _ (if_neg (Bool.not_eq_true _ ▸ hgoes))).trans ?_
  simp only [State.reached_eq hn, State.ctx_told, State.frameOf_told, hx, Option.map_some, Option.getD_some]

end

theorem exec_watchArmArrival {k : Nat} {v : Option Watch}
    (hn : s.bcasts[n]? = some { asid := asid, kind := .watch k v, left := left }) (hc : c ∈ left)
    (hfirst : ∀ b ∈ s.bcasts.take n, b.asid = asid → (∃ u, b.kind = .watch k u) → c ∉ b.left) :
    exec (.watchArmArrival n c) s = .next ((s.told n c left).modCell c fun y =>
      { y with watch := y.watch.filter (fun p => !(p.1 == asid && p.2.slot == k)) ++
          (v.elim [] fun u => [(asid, u)]) }) := by
  have hc : left.contains c = true := by simpa using hc
  have hbehind : s.behind n c asid (BcastKind.arms k) = false :=
    State.not_behind fun b hb ha hk => hfirst b hb ha (BcastKind.arms_iff.mp hk)
  have hgoes : (!left.contains c || s.behind n c asid (BcastKind.arms k)) = false := by rw [hc, hbehind]; rfl
  show execWatchArmArrival n c s = _
  simp only [execWatchArmArrival, hn]
  refine (congrArg _ (if_neg (Bool.not_eq_true _ ▸ hgoes))).trans ?_
  rw [State.reached_eq hn]
  cases v with
  | none => simp only [Option.elim_none, List.append_nil]
  | some u => rfl

theorem exec_stopBroadcastArrival (hn : s.bcasts[n]? = some { asid := asid, kind := .stop, left := left }) (hc : c ∈ left)
    (hfirst : ∀ b ∈ s.bcasts.take n, b.asid = asid → (∃ p, b.kind = .flip p) → c ∉ b.left) :
    exec (.stopBroadcastArrival n c) s =
      .next ((s.told n c left).modCell c fun y => { y with stops := insertNat asid y.stops }) := by
  have hc : left.contains c = true := by simpa using hc
  have hbehind : s.behind n c asid BcastKind.flips = false :=
    State.not_behind fun b hb ha hk => hfirst b hb ha (BcastKind.flips_iff.mp hk)
  have hflip : s.flipBefore n c asid = (s.behind n c asid BcastKind.flips && (s.ctx asid).any fun x => !x.cr.frozen && !x.lost) := rfl
  rw [hbehind, Bool.false_and] at hflip
  show execStopBroadcastArrival n c s = _
  simp only [execStopBroadcastArrival, hn, hc, hflip, State.reached_eq hn, Bool.not_true, Bool.or_self, Bool.false_eq_true, if_false]

theorem exec_breakBitApplied {slot : Nat} {on : Bool} {cmd : Cmd}
    (hn : s.bcasts[n]? = some { asid := asid, kind := .breakBit c slot on cmd, left := left }) (hc : c ∈ left)
    (ha : s.away asid = false)
    (hfirst : ∀ b ∈ s.bcasts.take n, b.asid = asid → ∀ u y, b.kind ≠ .breakBit c slot u y) :
    exec (.breakBitApplied n c) s = .next (((s.told n c left).modCell c fun y =>
      { y with breaks := if on then insertNat slot y.breaks else y.breaks.filter (fun d => d != slot) }).complete cmd 0x17 0 0) := by
  have hc : left.contains c = true := by simpa using hc
  have hnone : ((s.bcasts.take n).any fun b => b.asid == asid && b.kind.changes c slot) = false := by
    rw [List.any_eq_false]
    intro b hb hchange
    obtain ⟨hmine, hk⟩ : b.asid = asid ∧ b.kind.changes c slot = true := by simpa using hchange
    obtain ⟨u, y, hk⟩ := BcastKind.changes_iff.mp hk
    exact hfirst b hb hmine u y hk
  have hgoes : (!left.contains c || ((s.bcasts.take n).any fun b => b.asid == asid && b.kind.changes c slot) || s.away asid) = false := by
    rw [hc, hnone, ha]; rfl
  show execBreakBitApplied n c s = _
  simp only [execBreakBitApplied, hn]
  refine (congrArg _ (if_neg (Bool.not_eq_true _ ▸ hgoes))).trans ?_
  rw [State.reached_eq hn]

end

/-- Settles O36: each kind of broadcast by the lemma of its arrival. -/
theorem broadcastsArrive : Obligations.BroadcastsArrive := by
  unfold Obligations.BroadcastsArrive
  intro s n asid c left sent rest told s1
  refine ⟨?park, ?sweep, ?flip, ?frameBreak, ?watch, ?stop, ?breakBit⟩
  case park =>
    intro fr gen clear hn
    refine ⟨exec_parkingBroadcastArrival_absent hn, ?_⟩
    intro g s2 f
    refine ⟨fun hc hst hgen => ?_, fun hc hother => ?_⟩
    · refine (exec_parkingBroadcastArrival hn hc).trans (congrArg _ (if_pos ?_))
      simp [hst, hgen, f, g]
    · refine (exec_parkingBroadcastArrival hn hc).trans (congrArg _ (if_neg ?_))
      simpa [imp_iff_not_or] using hother
  case sweep => exact fun fr gen hn hc ha => exec_sweepBroadcastArrival hn hc ha
  case flip =>
    intro purge hn hc drying waits
    refine ⟨fun h => exec_planeFlipArrival_held hn (State.flipHeld_iff.mpr h), fun h => exec_planeFlipArrival hn hc ?_⟩
    exact Bool.eq_false_iff.mpr fun hheld => h (State.flipHeld_iff.mp hheld)
  case frameBreak =>
    intro fr gen x hn hc hfirst hx t stands
    have hexec := exec_frameBreakArrival hn hc hfirst hx
    have hstands : (x.fbreaks.contains (fr, gen) && frameCurrent (s.frameOf asid t) t) = true ↔ stands := by
      simp [stands]
    exact ⟨fun h => hexec.trans (congrArg _ (if_pos (hstands.mpr h))),
      fun h => hexec.trans (congrArg _ (if_neg fun hs => h (hstands.mp hs)))⟩
  case watch =>
    intro k v hn hc hfirst
    have hexec := exec_watchArmArrival hn hc hfirst
    cases v <;> exact hexec
  case stop => exact fun hn hc hfirst => exec_stopBroadcastArrival hn hc hfirst
  case breakBit => exact fun slot on cmd hn hc ha hfirst => exec_breakBitApplied hn hc ha hfirst

end Sys2Proof.Machine
end

section
namespace Sys2Proof.Machine

/-! ## Walks and sweeps that end (R103, R361, R362, R365, R389) -/

/-! ### Page walks (R361, R362, R365) -/

theorem Cell.findSet_modSet (c : Cell) (sid k : Nat) {g : FSet → FSet} (hg : ∀ x, (g x).sid = x.sid) :
    (c.modSet sid g).findSet k = (c.findSet k).map fun x => if x.sid == sid then g x else x := by
  have hsid (x : FSet) : (if x.sid == sid then g x else x).sid = x.sid := by split <;> simp only [hg]
  unfold Cell.findSet Cell.modSet
  rw [List.find?_map]
  congr 2
  funext x
  rw [Function.comp_apply, hsid]

/-- The poisoned line that a walk has met is logged for the first set that waits for it (log entry 38). -/
def State.noteWalk (s : State) (w : Walk) (line : Option Nat) : State :=
  let who := w.waiters.headD (0, 0)
  match line with
  | some a => s.logPoison w.asid a who.1 ((((s.cell who.1).findSet who.2).map FSet.slot).getD 0) 3
  | none => s

theorem State.noteWalk_Changes (s : State) (w : Walk) (line : Option Nat) : s.MemOnly (s.noteWalk w line) := by
  cases line with
  | none => exact State.MemOnly.refl s
  | some a => exact State.logPoison_Changes ..

/-- A waiting set, where it is still there, is told the walk's fault. -/
def State.tellFault (va cls code : Nat) (fz : Option Nat) (s : State) (p : Nat × Nat) : State :=
  if ((s.cell p.1).findSet p.2).isNone then s
  else s.modCell p.1 fun c => c.modSet p.2 fun x => x.fail va cls code fz

/-- The fault freezes nothing at once: it freezes nothing, or none of the sets is a PREF (R312, R362). -/
def State.NoPrefFreezes (s : State) (l : List (Nat × Nat)) (fz : Option Nat) : Prop :=
  fz = none ∨ ∀ p ∈ l, ∀ x, (s.cell p.1).findSet p.2 = some x → x.isPref = false

theorem State.tellFault_isPref {va cls code : Nat} {fz : Option Nat} {s : State} {p q : Nat × Nat} {x : FSet}
    (h : ((State.tellFault va cls code fz s p).cell q.1).findSet q.2 = some x) :
    ∃ y, (s.cell q.1).findSet q.2 = some y ∧ x.isPref = y.isPref := by
  unfold State.tellFault at h
  split at h
  · exact ⟨x, h, rfl⟩
  · by_cases hcell : q.1 = p.1
    · rw [hcell, State.cell_modCell, Cell.findSet_modSet _ _ _ (by exact fun _ => rfl), ← hcell] at h
      obtain ⟨y, hy, rfl⟩ := Option.map_eq_some_iff.mp h
      refine ⟨y, hy, ?_⟩
      split <;> rfl
    · rw [State.cell_modCell_ne _ _ _ _ hcell] at h
      exact ⟨x, h, rfl⟩

theorem State.NoPrefFreezes.tellFault {s : State} {l : List (Nat × Nat)} {fz : Option Nat} (h : s.NoPrefFreezes l fz)
    (va cls code : Nat) (p : Nat × Nat) : (State.tellFault va cls code fz s p).NoPrefFreezes l fz := by
  refine h.imp id fun h q hq x hx => ?_
  obtain ⟨y, hy, hpref⟩ := State.tellFault_isPref hx
  rw [hpref, h q hq y hy]

section
variable {s : State} {n : Nat} {w : Walk}

theorem exec_pageWalkDone_claimed (hn : s.walks[n]? = some w) (hc : w.claim.isSome = true) :
    exec (.pageWalkDone n) s = .next s := by
  show execPageWalkDone n s = _
  simp only [execPageWalkDone, hn, Option.isNone_eq_false_iff.mpr hc, Bool.false_eq_true, if_false]

theorem exec_pageWalkDone (hn : s.walks[n]? = some w) (hc : w.claim = none) :
    exec (.pageWalkDone n) s = .next (s.walkDone w) := by
  show execPageWalkDone n s = _
  simp only [execPageWalkDone, hn, hc, Option.isNone_none, if_true]

theorem State.walkDone_installs {e : TlbEntry} (h : s.walkNow w.asid w.va = .install e) :
    s.walkDone w = (s.tlbFill w.die (w.waiters.map Prod.fst) e).endWalk w := by
  rw [State.walkDone, h]

theorem State.walkDone_faults {cls code : Nat} {fz line : Option Nat} (h : s.walkNow w.asid w.va = .fault cls code fz line)
    (hpref : s.NoPrefFreezes w.waiters fz) :
    s.walkDone w = (w.waiters.foldl (State.tellFault w.va cls code fz) (s.noteWalk w line)).endWalk w := by
  have hnoted : (s.noteWalk w line).NoPrefFreezes w.waiters fz := by
    obtain ⟨m, hm⟩ := s.noteWalk_Changes w line
    rw [hm]
    exact hpref
  rw [State.walkDone, h]
  refine congrArg (State.endWalk · w) (List.foldl_rel (r := fun st u => st = u ∧ u.NoPrefFreezes w.waiters fz)
    ⟨rfl, hnoted⟩ fun p hp st u hu => ?_).1
  obtain ⟨rfl, hst⟩ := hu
  refine ⟨?_, hst.tellFault w.va cls code p⟩
  unfold State.tellFault
  cases hfind : (st.cell p.1).findSet p.2 with
  | none => rfl
  | some x =>
    have hnone : (if x.isPref = true then fz else none) = none := by
      rcases hst with rfl | hst
      · exact ite_self none
      · rw [hst p hp x hfind]; rfl
    simp only [hnone, Option.isNone_some, Bool.false_eq_true, if_false]

end

/-! ### Sweeps (R103) -/

theorem State.ctx_modPool (s : State) (a : Nat) (g : Pool → Pool) :
    (s.modPool a g).ctx a = (s.ctx a).map fun x => { x with pool := g x.pool } := by
  unfold State.modPool State.setPool
  cases h : s.ctx a with
  | none => exact h
  | some x => simp only [State.ctx_writeMem, State.ctx_setCtx, Option.map_some]

theorem State.ctx_setFrame {s : State} {a : Nat} {x : Ctx} (hx : s.ctx a = some x) (i : Nat) (f : Frame) :
    (s.setFrame a i f).ctx a = some { x with frames := put i f x.frames } := by
  rw [State.setFrame_eq hx, State.ctx_writeMem, State.ctx_setCtx]

/-- What the giving back of a frame to its share leaves as it was: the frames, and the sweeps with their count. -/
structure Ctx.KeepsSweeps (x y : Ctx) : Prop where
  frames : y.frames = x.frames
  sweeps : y.sweeps = x.sweeps
  count : y.pool.sweeps = x.pool.sweeps

theorem Ctx.giveGeneral_KeepsSweeps (x : Ctx) (k : Nat) : x.KeepsSweeps (x.giveGeneral k) := by
  unfold Ctx.giveGeneral
  cases x.gangWaits <;> exact ⟨rfl, rfl, rfl⟩

/-- A frame of the share is given back to it (R151). -/
def Ctx.giveBack (f : Frame) (x : Ctx) : Ctx :=
  match f.src with
  | .general => x.giveGeneral 1
  | .depth =>
    { x with pool := { x.pool with dfree := x.pool.dfree.set f.depth (x.pool.dfree.getD f.depth 0 + 1) } }
  | .handler => { x with pool := { x.pool with hfree := x.pool.hfree + 1 } }
  | .root => x

theorem Ctx.giveBack_KeepsSweeps (f : Frame) (x : Ctx) : x.KeepsSweeps (x.giveBack f) := by
  unfold Ctx.giveBack
  cases f.src with
  | general => exact x.giveGeneral_KeepsSweeps 1
  | depth | handler | root => exact ⟨rfl, rfl, rfl⟩

/-- A frame that goes back to its share is FREE, and no other frame changes (R103, R151). -/
theorem State.ctx_unallocFrame {s : State} {a : Nat} {x : Ctx} (hx : s.ctx a = some x) (i : Nat) :
    (s.unallocFrame a i).ctx a =
      some (Ctx.giveBack (x.frame i) { x with frames := put i { x.frame i with st := .free } x.frames }) := by
  have hgrant : s.unallocFrame a i = (((s.setFrame a i { x.frame i with st := .free }).modCtx a
      (Ctx.giveBack (x.frame i))).modPool a id).grantDue a := by
    rw [State.unallocFrame, hx]
    rfl
  rw [hgrant]
  refine (State.ctx_modPool _ a id).trans ?_
  rw [State.ctx_modCtx, State.ctx_setFrame hx]
  rfl

/-- The sweep of a frame has ended: the frame is FREE with the next GEN, and the sweep is counted (R103). -/
def State.sweepEnded (s : State) (asid i : Nat) (f : Frame) : State :=
  (((s.unallocFrame asid i).setFrame asid i { f with st := .free, gen := f.gen + 1, flags := 0, record := none }).modPool
    asid fun p => { p with sweeps := p.sweeps + 1 }).modCtx asid fun y =>
      { y with sweeps := y.sweeps.filter fun v => v.frame != i
               fbreaks := y.fbreaks.filter fun b => b.1 != i
               running := if i = 0 then none else y.running }

/-- What the end of a frame's sweep makes of its context (R103). -/
structure Ctx.SweepEnded (x : Ctx) (i : Nat) (y : Ctx) : Prop where
  free : (y.frame i).st = .free
  gen : (y.frame i).gen = (x.frame i).gen + 1
  count : y.pool.sweeps = x.pool.sweeps + 1
  others : ∀ j, j ≠ i → y.frame j = x.frame j
  sweeps : y.sweeps = x.sweeps.filter (fun v => v.frame != i)
  running : i = 0 → y.running = none

theorem State.ctx_sweepEnded {s : State} {a : Nat} {x : Ctx} (hx : s.ctx a = some x) (i : Nat) :
    ∃ y, (s.sweepEnded a i (x.frame i)).ctx a = some y ∧ x.SweepEnded i y := by
  have hgiven := State.ctx_unallocFrame hx i
  obtain ⟨hframes, hsweeps, hcount⟩ :=
    Ctx.giveBack_KeepsSweeps (x.frame i) { x with frames := put i { x.frame i with st := .free } x.frames }
  generalize Ctx.giveBack (x.frame i) { x with frames := put i { x.frame i with st := .free } x.frames } = z
    at hgiven hframes hsweeps hcount
  unfold State.sweepEnded
  rw [State.ctx_modCtx, State.ctx_modPool, State.ctx_setFrame hgiven]
  refine ⟨_, rfl, ?_⟩
  have hi := z.frame_put i { x.frame i with st := .free, gen := (x.frame i).gen + 1, flags := 0, record := none }
  exact {
    free := congrArg Frame.st hi
    gen := congrArg Frame.gen hi
    count := congrArg (· + 1) hcount
    others := fun j hj => (z.frame_put_ne _ hj).trans (by
      have hz : z.frame j = ({ x with frames := z.frames } : Ctx).frame j := rfl
      rw [hz, hframes]
      exact x.frame_put_ne _ hj)
    sweeps := congrArg (List.filter fun v => v.frame != i) hsweeps
    running := fun h => if_pos h }

section
variable {s : State} {asid i : Nat} {x : Ctx} {w : Sweep} (hx : s.ctx asid = some x)
  (hw : x.sweeps.find? (fun v => v.frame == i) = some w)
include hx hw

theorem exec_sweepComplete_waits (h : s.sweeping asid i w.gen = true ∨
    (i = 0 ∧ ((∃ v ∈ x.sweeps, v.frame ≠ 0) ∨ s.handlerActs asid x = true))) :
    exec (.sweepComplete asid i) s = .next s := by
  show execSweepComplete asid i s = _
  have htest : (s.sweeping asid i w.gen || (i == 0 && (x.sweeps.any (fun v => v.frame != 0) || s.handlerActs asid x))) = true := by
    simpa using h
  simp only [execSweepComplete, hx, hw, htest, if_true]

theorem exec_sweepComplete_ends (h : ¬ (s.sweeping asid i w.gen = true ∨
    (i = 0 ∧ ((∃ v ∈ x.sweeps, v.frame ≠ 0) ∨ s.handlerActs asid x = true)))) :
    exec (.sweepComplete asid i) s = .next (((if i = 0 then x.running else none).elim (s.sweepEnded asid i (x.frame i)) fun l =>
      (s.sweepEnded asid i (x.frame i)).complete l.cmd 0x12 0 ((x.frame i).flags.zeroExtend 64)).progress asid) := by
  show execSweepComplete asid i s = _
  have htest : ¬ (s.sweeping asid i w.gen || (i == 0 && (x.sweeps.any (fun v => v.frame != 0) || s.handlerActs asid x))) = true := by
    simpa using h
  unfold execSweepComplete
  simp only [hx, hw, if_neg htest]
  cases (if i = 0 then x.running else none) <;> rfl

end

/-- The completion of a command stands among the posts; only its token may differ. -/
theorem exists_mem_settlePost (p : Post) (l : List Post) : ∃ tk, { p with token := tk } ∈ settlePost p l := by
  induction l with
  | nil => exact ⟨p.token, List.mem_singleton_self p⟩
  | cons q l ih =>
    unfold settlePost
    split
    · exact ⟨_, List.mem_cons_self ..⟩
    · obtain ⟨tk, htk⟩ := ih
      exact ⟨tk, List.mem_cons_of_mem q htk⟩

theorem State.handlerActs_iff {s : State} {asid : Nat} {x : Ctx} : s.handlerActs asid x = true ↔
    ∃ p ∈ x.frames, p.2.src = .handler ∧ p.2.st = .live ∧ s.frameActs asid p.1 p.2.gen (fun _ _ => true) = true := by
  simp only [State.handlerActs, List.any_eq_true, Bool.and_eq_true, beq_iff_eq, and_assoc]

theorem State.mem_complete (s : State) (c : Cmd) (code status : BitVec 8) (value : Word64) :
    ∃ tk, { cmdPost c code status value true with token := tk } ∈ (s.complete c code status value).posts :=
  exists_mem_settlePost ..

/-- An event of R94 resets the watchdog, and what the end of a sweep is about stays. -/
theorem Ctx.SweepEnded.progress {s : State} {a i : Nat} {x y : Ctx} (h : x.SweepEnded i y) (hy : s.ctx a = some y) :
    ∃ z, (s.progress a).ctx a = some z ∧ x.SweepEnded i z := by
  refine ⟨_, (State.ctx_modCtx s a _).trans (congrArg _ hy), ?_⟩
  obtain ⟨hfree, hgen, hcount, hothers, hsweeps, hrunning⟩ := h
  exact ⟨hfree, hgen, hcount, hothers, hsweeps, hrunning⟩

/-- Settles O43: while no PREF freezes, the telling of each waiter is `State.tellFault`, and what the end of a sweep does
to its context is `Ctx.SweepEnded`, which the completion of the launch leaves alone. -/
theorem walksAndSweepsEnd : Obligations.WalksAndSweepsEnd := by
  unfold Obligations.WalksAndSweepsEnd
  refine ⟨fun s n w hn => ⟨exec_pageWalkDone_claimed hn, fun hc e he => ?_, fun hc cls code fz line hf hpref => ?_⟩,
    fun s asid i x w hx hw => ?_⟩
  · rw [exec_pageWalkDone hn hc, State.walkDone_installs he]
  · rw [exec_pageWalkDone hn hc, State.walkDone_faults hf hpref]
    rfl
  · dsimp only
    rw [← State.handlerActs_iff]
    refine ⟨exec_sweepComplete_waits hx hw, fun h => ?_⟩
    obtain ⟨z, hz, hended⟩ := State.ctx_sweepEnded hx i
    rw [exec_sweepComplete_ends hx hw h]
    generalize s.sweepEnded asid i (x.frame i) = st at hz
    have hctx : ((if i = 0 then x.running else none).elim st fun l =>
        st.complete l.cmd 0x12 0 ((x.frame i).flags.zeroExtend 64)).ctx asid = some z := by
      cases (if i = 0 then x.running else none) <;> exact hz
    obtain ⟨y, hy, hfree, hgen, hcount, hothers, hsweeps, hrunning⟩ := hended.progress hctx
    refine ⟨_, y, rfl, hy, hfree, hgen, hcount, fun j hj => ?_, hsweeps, fun hi l hl => ⟨hrunning hi, ?_⟩⟩
    · rw [hothers j hj]
      exact ⟨rfl, rfl⟩
    · obtain ⟨tk, htk⟩ := st.mem_complete l.cmd 0x12 0 ((x.frame i).flags.zeroExtend 64)
      rw [if_pos hi, hl, State.progress_posts]
      exact ⟨_, htk, rfl, rfl, rfl, rfl, rfl, rfl⟩

end Sys2Proof.Machine
end

section
namespace Sys2Proof.Machine

/-! ## Plumbing (R114 to R130) -/

/-! ### What passes on, and what is dropped (R116) -/

@[simp] theorem orAll_one (k : Nat) (fl : Flags) : orAll [(k, fl)] = fl := BitVec.zero_or

/-- A copy that is passed on makes no new tile (R116). -/
@[simp] theorem resLines_copyOf (v : Val) (side eos : Bool) (fl : ElemFlags) : resLines (.ok ([copyOf v side eos], fl)) = [] := by
  cases v <;> rfl

@[simp] theorem withNeed_nil {α : Type} (x : Ex α) : withNeed [] x = x := by
  cases x with
  | ok _ => rfl
  | error r =>
    have hneed : (if r.need.isEmpty then [] else r.need) = r.need := by cases r.need <;> rfl
    rw [withNeed, hneed]

section
variable {w : OpFields} {f : Firing} {e : Env} {t : Tag} {a b c : Bool} {pre : Ex Unit} {rs : List Res}

/-- An operator whose one flag stands for the whole firing: PZ of the poison that it drops. -/
theorem evalOp_flags {fl : Flags} (hk : f.Kinds a b c) (hp : pre = .ok ()) (ht : outTag w f e = .ok t) :
    evalOp w f e (a, b, c) pre false (.ok (rs, [(0, fl)])) = .ok (Commit.ofRes t rs fl) := by
  rw [evalOp_pre_ok hk hp ht, orAll_one]

/-- An operator that passes a copy on reserves no line for the trap of what it checks first. -/
theorem evalOp_copy_error {r : Trap} {v : Val} {side eos : Bool} {fl : ElemFlags} (hk : f.Kinds a b c)
    (hp : pre = .error r) : evalOp w f e (a, b, c) pre false (.ok ([copyOf v side eos], fl)) = .error r := by
  rw [evalOp_pre_error hk hp, resLines_copyOf, withNeed_nil]

end

/-! ### Control values and triggers (R115, R126) -/

theorem Firing.truth_true {f : Firing} {p : Port} (h : (f.val p).word ≠ 0) : f.truth p = true := bne_iff_ne.mpr h

theorem Firing.truth_false {f : Firing} {p : Port} (h : (f.val p).word = 0) : f.truth p = false := by
  rw [Firing.truth, h]
  rfl

/-- An operand is what its port holds when no other operand has that port. -/
theorem Firing.val_of_mem {f : Firing} (hports : f.ops.Pairwise fun x y => x.port ≠ y.port) {o : Opnd} (ho : o ∈ f.ops) :
    f.val o.port = o.val := by
  have hfind : f.opnd o.port = some o := by
    unfold Firing.opnd
    generalize f.ops = ops at hports ho
    induction ops with
    | nil => cases ho
    | cons x xs ih =>
      obtain ⟨hx, hxs⟩ := List.pairwise_cons.mp hports
      rcases List.mem_cons.mp ho with rfl | ho
      · exact List.find?_cons_of_pos (beq_self_eq_true _)
      · rw [List.find?_cons_of_neg (by simpa using hx o ho)]
        exact ih hxs ho
  rw [Firing.val, hfind]
  rfl

/-- CONST's trigger may be a token of either kind (R126). -/
theorem Firing.kinds_of_trigger {f : Firing} (hsc : ∀ o ∈ f.ops, o.port ≠ .a → o.val.isTile = false)
    (hports : f.ops.Pairwise fun x y => x.port ≠ y.port) : f.Kinds (f.val .a).isTile false false := by
  intro o ho
  have hval := Firing.val_of_mem hports ho
  cases hp : o.port with
  | a => rw [← hval, hp]; rfl
  | b => exact hsc o ho (by simp [hp])
  | c => exact hsc o ho (by simp [hp])

/-! ### SEL, by its predicate (R125) -/

section
variable {w : OpFields} {f : Firing} {e : Env} {t : Tag}
  (hk : f.Kinds false (w.fmt == .handle) (w.fmt == .handle))
include hk

theorem evalSel_true (ht : outTag w f e = .ok t) (hp : f.isPoisoned .a = false) (hv : (f.val .a).word ≠ 0) :
    evalSel w f e = .ok ⟨[f.passed .b false t], f.pz [.c]⟩ := by
  rw [evalSel, Firing.truth_true hv]
  exact evalOp_flags hk (checkPoison_ok hp) ht

theorem evalSel_false (ht : outTag w f e = .ok t) (hp : f.isPoisoned .a = false) (hv : (f.val .a).word = 0) :
    evalSel w f e = .ok ⟨[f.passed .c false t], f.pz [.b]⟩ := by
  rw [evalSel, Firing.truth_false hv]
  exact evalOp_flags hk (checkPoison_ok hp) ht

theorem evalSel_poisoned (hp : f.isPoisoned .a = true) : evalSel w f e = .error (tPOISON 2) := by
  unfold evalSel
  split <;> exact evalOp_copy_error hk (checkPoison_error hp)

end

/-! ### SWITCH, by its predicate (R124) -/

section
variable {w : OpFields} {f : Firing} {e : Env} {t : Tag} (hk : f.Kinds (w.fmt == .handle) false false)
include hk

theorem evalSwitch_true (ht : outTag w f e = .ok t) (hp : f.isPoisoned .b = false) (hv : (f.val .b).word ≠ 0) :
    evalSwitch w f e = .ok ⟨[f.passed .a false t], 0⟩ := by
  rw [evalSwitch, Firing.truth_true hv]
  exact evalOp_pre_ok hk (checkPoison_ok hp) ht

theorem evalSwitch_false (ht : outTag w f e = .ok t) (hp : f.isPoisoned .b = false) (hv : (f.val .b).word = 0) :
    evalSwitch w f e = .ok ⟨[f.passed .a true t], 0⟩ := by
  rw [evalSwitch, Firing.truth_false hv]
  exact evalOp_pre_ok hk (checkPoison_ok hp) ht

theorem evalSwitch_poisoned (hp : f.isPoisoned .b = true) : evalSwitch w f e = .error (tPOISON 2) :=
  evalOp_copy_error hk (checkPoison_error hp)

/-! ### PASS, by its tag action (R122) -/

theorem evalPass_setin (ht : outTag w f e = .ok t) (hta : w.ta = .setin) :
    evalPass w f e = .ok ⟨[f.copyOut .a false t (f.val .a).eos], 0⟩ := by
  rw [evalPass, if_pos (beq_iff_eq.mpr hta)]
  exact evalOp_ok hk ht

theorem evalPass_other (ht : outTag w f e = .ok t) (hta : w.ta ≠ .setin) : evalPass w f e = .ok ⟨[f.passed .a false t], 0⟩ := by
  rw [evalPass, if_neg (by simpa using hta)]
  exact evalOp_ok hk ht

end

/-- Settles O8: an operator that passes its first check commits with what it passes on, its flag the PZ of the poison that
it drops; SWITCH and SEL turn on their predicate. -/
theorem plumbingPassesOn : Obligations.PlumbingPassesOn := by
  unfold Obligations.PlumbingPassesOn
  intro w s f t ht d pz
  refine ⟨?pass, ?passSetin, ?sync, ?switchTrue, ?switchFalse, ?switchPoisoned, ?selTrue, ?selFalse, ?selPoisoned, ?const,
    ?sink, ?ends, ?iseos, ?count⟩
  case pass => exact fun hk hta => commits_of_ok rfl (evalPass_other hk ht hta)
  case passSetin => exact fun hk hta => commits_of_ok rfl (evalPass_setin hk ht hta)
  case sync => exact fun hk => commits_of_ok (g := evalSync w) rfl (evalOp_flags hk rfl ht)
  case switchTrue => exact fun hk hp hv => commits_of_ok rfl (evalSwitch_true hk ht hp hv)
  case switchFalse => exact fun hk hp hv => commits_of_ok rfl (evalSwitch_false hk ht hp hv)
  case switchPoisoned => exact fun hk hp => traps_of_error rfl (evalSwitch_poisoned hk hp) rfl
  case selTrue => exact fun hk hp hv => commits_of_ok rfl (evalSel_true hk ht hp hv)
  case selFalse => exact fun hk hp hv => commits_of_ok rfl (evalSel_false hk ht hp hv)
  case selPoisoned => exact fun hk hp => traps_of_error rfl (evalSel_poisoned hk hp) rfl
  case const =>
    exact fun hsc hports => commits_of_ok (g := evalConst w) rfl (evalOp_flags (Firing.kinds_of_trigger hsc hports) rfl ht)
  case sink => exact fun hk => commits_of_ok (g := evalSink w) rfl (evalOp_flags hk rfl ht)
  case ends => exact fun hk => commits_of_ok (g := evalEnds w) rfl (evalOp_ok hk ht)
  case iseos => exact fun hk => commits_of_ok (g := evalIseos w) rfl (evalOp_ok hk ht)
  case count => exact fun hk => commits_of_ok (g := evalCount w) rfl (evalOp_ok hk ht)

end Sys2Proof.Machine
end

section
namespace Sys2Proof.Machine

/-! ## Tags (R43 to R45, R134, R135, R142) -/

/-! ### The fields of a tag (R43, R44) -/

theorem tagOk_iff {t : Tag} : tagOk t = true ↔
    (tagDepth t = 0 ↔ tagFill t = 0) ∧ tagDepth t ≤ tagFill t ∧ tagFill t ≤ 39 ∧ (tagColour t).toNat < 2 ^ tagFill t := by
  simp only [tagOk, Bool.and_eq_true, decide_eq_true_eq, and_assoc]

theorem tagDepth_lt (t : Tag) : tagDepth t < 2 ^ 3 := (t.extractLsb' 45 3).isLt

theorem tagFrame_lt (t : Tag) : tagFrame t < 2 ^ 12 := (t.extractLsb' 48 12).isLt

theorem fields_mkTag (gen : BitVec 4) (frame depth fill : Nat) (colour : BitVec 39) :
    tagGen (mkTag gen frame depth fill colour) = gen ∧ tagFrame (mkTag gen frame depth fill colour) = frame % 2 ^ 12 ∧
      tagDepth (mkTag gen frame depth fill colour) = depth % 2 ^ 3 ∧
      tagFill (mkTag gen frame depth fill colour) = fill % 2 ^ 6 ∧
      tagColour (mkTag gen frame depth fill colour) = colour := by
  simp (disch := omega) only [mkTag, tagGen, tagFrame, tagDepth, tagFill, tagColour, BitVec.extractLsb'_append_eq_of_le,
    BitVec.extractLsb'_append_eq_of_add_le]
  simp

/-- A tag action leaves GEN and FRAME of t, and the fields d, f and c, in a tag u that meets R44. -/
def TagBecomes (t : Tag) (d f c : Nat) (u : Tag) : Prop :=
  tagGen u = tagGen t ∧ tagFrame u = tagFrame t ∧ tagDepth u = d ∧ tagFill u = f ∧ (tagColour u).toNat = c ∧ tagOk u = true

theorem mkTag_becomes {t : Tag} {d f : Nat} {colour : BitVec 39} (hd : d < 2 ^ 3) (h0 : d = 0 ↔ f = 0) (hdf : d ≤ f) (hf : f ≤ 39)
    (hc : colour.toNat < 2 ^ f) :
    TagBecomes t d f colour.toNat (mkTag (tagGen t) (tagFrame t) d f colour) := by
  obtain ⟨hgen, hframe, hdepth, hfill, hcolour⟩ := fields_mkTag (tagGen t) (tagFrame t) d f colour
  rw [Nat.mod_eq_of_lt (tagFrame_lt t)] at hframe
  rw [Nat.mod_eq_of_lt hd] at hdepth
  rw [Nat.mod_eq_of_lt (by omega)] at hfill
  refine ⟨hgen, hframe, hdepth, hfill, by rw [hcolour], tagOk_iff.mpr ?_⟩
  rw [hdepth, hfill, hcolour]
  exact ⟨h0, hdf, hf, hc⟩

/-! ### Numbers below 2 ^ f, as stacks of fields of w bits -/

/-- The innermost field replaced, what stands above it kept. -/
theorem setField_lt {c f w x : Nat} (hc : c < 2 ^ f) (hw : w ≤ f) : c - c % 2 ^ w + x % 2 ^ w < 2 ^ f := by
  obtain ⟨k, hk⟩ : 2 ^ w ∣ c - c % 2 ^ w := Nat.dvd_sub_mod c
  have hpow : 2 ^ f = 2 ^ w * 2 ^ (f - w) := by rw [← Nat.pow_add, Nat.add_sub_cancel' hw]
  have hx : x % 2 ^ w < 2 ^ w := Nat.mod_lt _ (Nat.two_pow_pos w)
  have hlt : k < 2 ^ (f - w) := by
    refine Nat.lt_of_mul_lt_mul_left (a := 2 ^ w) ?_
    omega
  calc c - c % 2 ^ w + x % 2 ^ w < 2 ^ w * (k + 1) := by rw [hk, Nat.mul_succ]; omega
    _ ≤ 2 ^ f := by rw [hpow]; exact Nat.mul_le_mul_left _ hlt

theorem pushField_lt {c f w : Nat} (hc : c < 2 ^ f) : c * 2 ^ w < 2 ^ (f + w) := by
  rw [Nat.pow_add]
  exact Nat.mul_lt_mul_of_pos_right hc (Nat.two_pow_pos w)

theorem popField_lt {c f w : Nat} (hc : c < 2 ^ f) (hw : w ≤ f) : c / 2 ^ w < 2 ^ (f - w) := by
  rw [Nat.div_lt_iff_lt_mul (Nat.two_pow_pos w), ← Nat.pow_add, Nat.sub_add_cancel hw]
  exact hc

/-! ### What a tag action makes of a tag that meets R44 (R45) -/

/-- POP of a field of w bits would leave a tag that breaks R44. -/
def PopBreaks (t : Tag) (w : Nat) : Prop :=
  tagDepth t = 0 ∨ tagFill t < w ∨ (tagDepth t = 1 ∧ tagFill t ≠ w) ∨
    (1 < tagDepth t ∧ tagFill t - w < tagDepth t - 1)

section
variable {t : Tag} {w : Nat}

theorem push_deep (h : tagDepth t = 7) : push t w = .error (tTAG_OVERFLOW 1) := if_pos h

theorem push_full (hd : tagDepth t ≠ 7) (hf : 39 < tagFill t + w) : push t w = .error (tTAG_OVERFLOW 2) := by
  rw [push, if_neg hd, if_pos hf]

theorem pop_under (h : PopBreaks t w) : pop t w = .error (tTAG_OVERFLOW 3) := by
  unfold PopBreaks at h
  by_cases hnone : tagDepth t = 0 ∨ tagFill t < w
  · exact if_pos (by simpa using hnone)
  · have hleft : (tagDepth t - 1 = 0 ∧ tagFill t - w ≠ 0) ∨ (tagDepth t - 1 ≠ 0 ∧ tagFill t - w < tagDepth t - 1) := by omega
    rw [pop, if_neg (by simpa using hnone)]
    exact if_pos (by simpa using hleft)

theorem next_under (h : tagDepth t = 0 ∨ tagFill t < w) : next t w = .error (tTAG_OVERFLOW 3) := if_pos (by simpa using h)

theorem setin_under {b : Option Val} {ret : Tag} (h : tagDepth t = 0 ∨ tagFill t < w) :
    tagAct .setin w t b ret = .error (tTAG_OVERFLOW 3) := if_pos (by simpa using h)

section
variable (hd : tagDepth t ≠ 0) (hw : w ≤ tagFill t)
include hd hw

theorem next_sets : next t w = .ok (setInner t w (inner t w + 1)) := if_neg (by simpa using ⟨hd, hw⟩)

theorem setin_sets {v : Word64} {eos : Bool} {ret : Tag} :
    tagAct .setin w t (some (.scalar v false eos)) ret = .ok (setInner t w v.toNat) := if_neg (by simpa using ⟨hd, hw⟩)

theorem setin_poisoned {v : Word64} {eos : Bool} {ret : Tag} :
    tagAct .setin w t (some (.scalar v true eos)) ret = .error (tPOISON 2) := if_neg (by simpa using ⟨hd, hw⟩)

end

variable (ht : tagOk t = true)
include ht

theorem push_becomes (h1 : 1 ≤ w) (hd : tagDepth t ≠ 7) (hf : tagFill t + w ≤ 39) : ∃ u, push t w = .ok u ∧
    TagBecomes t (tagDepth t + 1) (tagFill t + w) ((tagColour t).toNat * 2 ^ w) u := by
  obtain ⟨-, hdf, -, hc⟩ := tagOk_iff.mp ht
  have hlt := tagDepth_lt t
  have hcolour : (tagColour t <<< w).toNat = (tagColour t).toNat * 2 ^ w := by
    rw [BitVec.toNat_shiftLeft, Nat.shiftLeft_eq]
    exact Nat.mod_eq_of_lt ((pushField_lt hc).trans_le (Nat.pow_le_pow_right (by decide) hf))
  refine ⟨_, by rw [push, if_neg hd, if_neg (Nat.not_lt.mpr hf)], ?_⟩
  rw [← hcolour]
  exact mkTag_becomes (by omega) (by omega) (by omega) hf (hcolour ▸ pushField_lt hc)

theorem pop_becomes (h : ¬ PopBreaks t w) : ∃ u, pop t w = .ok u ∧
    TagBecomes t (tagDepth t - 1) (tagFill t - w) ((tagColour t).toNat / 2 ^ w) u := by
  unfold PopBreaks at h
  obtain ⟨-, -, hf, hc⟩ := tagOk_iff.mp ht
  have hlt := tagDepth_lt t
  have hcolour : (tagColour t >>> w).toNat = (tagColour t).toNat / 2 ^ w := by
    rw [BitVec.toNat_ushiftRight, Nat.shiftRight_eq_div_pow]
  have hsome : ¬ (tagDepth t = 0 ∨ tagFill t < w) := by omega
  have hleft : ¬ ((tagDepth t - 1 = 0 ∧ tagFill t - w ≠ 0) ∨ (tagDepth t - 1 ≠ 0 ∧ tagFill t - w < tagDepth t - 1)) := by omega
  refine ⟨_, by rw [pop, if_neg (by simpa using hsome)]; exact if_neg (by simpa using hleft), ?_⟩
  rw [← hcolour]
  exact mkTag_becomes (by omega) (by omega) (by omega) (by omega) (hcolour ▸ popField_lt hc (by omega))

theorem setInner_becomes (hw : w ≤ tagFill t) (x : Nat) : TagBecomes t (tagDepth t) (tagFill t)
    ((tagColour t).toNat - (tagColour t).toNat % 2 ^ w + x % 2 ^ w) (setInner t w x) := by
  obtain ⟨h0, hdf, hf, hc⟩ := tagOk_iff.mp ht
  have hlt := setField_lt (x := x) hc hw
  have hcolour := Nat.mod_eq_of_lt (hlt.trans_le (Nat.pow_le_pow_right (by decide) hf))
  rw [← BitVec.toNat_ofNat] at hcolour
  have hmade := mkTag_becomes (t := t) (tagDepth_lt t) h0 hdf hf (hcolour.symm ▸ hlt)
  rwa [hcolour] at hmade

end

/-! ### GETCOL, SETTAG and FRAMEID (R134, R135, R142) -/

section
variable {w : OpFields} {f : Firing} {e : Env} {t : Tag}

section
variable (hk : f.Scalars) (ht : outTag w f e = .ok t)
include hk ht

theorem evalGetcol_all (hm : w.mod.getLsbD 0 = true) :
    evalGetcol w f e = .ok ⟨[f.scalarOut t (trunc w.fmt ((tagColour f.tag).zeroExtend 64))], f.pz [.a]⟩ := by
  rw [evalGetcol, if_pos hm]
  exact evalOp_flags hk rfl ht

variable (hm : w.mod.getLsbD 0 = false)
include hm

theorem evalGetcol_field (hd : tagDepth f.tag ≠ 0) (hn : w.imm.toNat % 16 ≤ tagFill f.tag) : evalGetcol w f e =
    .ok ⟨[f.scalarOut t (trunc w.fmt (BitVec.ofNat 64 (inner f.tag (w.imm.toNat % 16))))], f.pz [.a]⟩ := by
  rw [evalGetcol, if_neg (Bool.not_eq_true _ ▸ hm), if_neg (by simpa using ⟨hd, hn⟩)]
  exact evalOp_flags hk rfl ht

theorem evalGetcol_under (hn : tagDepth f.tag = 0 ∨ tagFill f.tag < w.imm.toNat % 16) :
    evalGetcol w f e = .error { tTAG_OVERFLOW 3 with flags := f.pz [.a] } := by
  rw [evalGetcol, if_neg (Bool.not_eq_true _ ▸ hm), if_pos (by simpa using hn)]
  simp [evalOp, checkKinds_ok hk, ht, tagFlags, bind, Except.bind]

end

/-- The tag that SETTAG makes of the firing's and of port b's word (R135). -/
def Firing.setTag (f : Firing) : Tag := f.tag.extractLsb' 48 16 ++ (f.val .b).word.extractLsb' 0 48

variable (hk : f.Kinds (w.fmt == .handle) false false) (hp : f.isPoisoned .b = false)
include hk hp

theorem evalSettag_wide (hhigh : (f.val .b).word.extractLsb' 48 16 ≠ 0) : evalSettag w f e = .error tBAD_OPERAND := by
  have hk : checkKinds f (dataTile w) false false = .ok () := checkKinds_ok hk
  simp only [evalSettag, hk, checkPoison_ok hp, trapIf, bne_iff_ne.mpr hhigh, if_true, bind, Except.bind]

/-- With the upper bits of port b's word clear, only R44 is left to meet. -/
theorem evalSettag_narrow (hhigh : (f.val .b).word.extractLsb' 48 16 = 0) : evalSettag w f e =
    (trapIf (!tagOk f.setTag) (tTAG_OVERFLOW 4)).map fun _ => ⟨[f.passed .a false f.setTag], 0⟩ := by
  have hk : checkKinds f (dataTile w) false false = .ok () := checkKinds_ok hk
  simp only [evalSettag, hk, checkPoison_ok hp, hhigh, bind, Except.bind]
  rfl

end

/-! ### The obligation -/

/-- Settles O9: a tag is changed through `mkTag`, whose fields meet R44 as the numbers of `push_becomes`, `pop_becomes` and
`setInner_becomes` do; GETCOL and SETTAG go by the condition that each checks. -/
theorem tagActionsAndWords : Obligations.TagActionsAndWords := by
  unfold Obligations.TagActionsAndWords
  refine ⟨fun t w b ret ht h1 _ => ?_, fun w s f t => ?_⟩
  · intro ends fails d fill c under
    refine ⟨rfl, rfl, push_deep, push_full, push_becomes ht h1, pop_under, pop_becomes ht,
      fun h => ⟨next_under h, setin_under h⟩, fun hd hw => ⟨?next, ?setin, ?poisoned⟩⟩
    case next => exact ⟨_, next_sets hd hw, setInner_becomes ht hw _⟩
    case setin =>
      rintro v e rfl
      exact ⟨_, setin_sets hd hw, setInner_becomes ht hw _⟩
    case poisoned =>
      rintro v e rfl
      exact setin_poisoned hd hw
  · intro pz cut n b t2 word
    refine ⟨?all, ?field, ?under, ?replaced, ?wide, ?broken, ?frameid⟩
    case all => exact fun hk ht hm => commits_of_ok rfl (evalGetcol_all hk ht hm)
    case field => exact fun hk ht hm hd hn => commits_of_ok rfl (evalGetcol_field hk ht hm hd hn)
    case under => exact fun hk ht hm hn => traps_of_error rfl (evalGetcol_under hk ht hm hn) rfl
    case replaced =>
      intro hk hp hhigh hok
      refine commits_of_ok (g := evalSettag w) rfl ?_
      rw [evalSettag_narrow hk hp hhigh, show tagOk f.setTag = true from hok]
      rfl
    case wide => exact fun hk hp hhigh => traps_of_error rfl (evalSettag_wide hk hp hhigh) rfl
    case broken =>
      intro hk hp hhigh hbad
      refine traps_of_error (g := evalSettag w) rfl ?_ rfl
      rw [evalSettag_narrow hk hp hhigh, show tagOk f.setTag = false from hbad]
      rfl
    case frameid => exact fun hk ht => commits_of_ok (g := evalFrameid w) rfl (evalOp_flags hk rfl ht)

end Sys2Proof.Machine
end

section
namespace Sys2Proof.Machine

/-! ## Requests to the dispatcher (R153 to R157, R389, R395 to R407) -/

/-! ### The checks that come before a request -/

section
variable {w : OpFields} {f : Firing} {e : Env} {t : Tag}

theorem evalTrap_eq (hk : f.Kinds (w.fmt == .handle) false false) (ht : outTag w f e = .ok t) :
    evalTrap w f e = .error (trapOf 0x12 (w.imm.toNat % 256)) := by
  have hk : checkKinds f (dataTile w) false false = .ok () := checkKinds_ok hk
  simp only [evalTrap, hk, ht, bind, Except.bind, tSOFT]

theorem resumeCheck_ok {x : Ctx} (hk : f.Kinds false (w.fmt == .handle) (w.mod.getLsbD 1)) (hv : (f.val .a).word.extractLsb' 51 13 = 0)
    (hi : ((f.val .a).word.extractLsb' 0 16).toNat < x.cr.trapn) (hp : f.isPoisoned .a = false) (ht : outTag w f e = .ok t) :
    resumeCheck w x f e = .ok t := by
  have hk : checkKinds f false (dataTile w) (w.mod.getLsbD 1) = .ok () := checkKinds_ok hk
  have hword : f.word' .a = (f.val .a).word := rfl
  simp only [resumeCheck, hk, hword, hv, dwIndex, Nat.not_le.mpr hi, checkPoison_ok hp, ht, trapIf, bne_self_eq_false,
    decide_false, Bool.or_self, Bool.false_eq_true, if_false, bind, Except.bind]

/-- WATCH and UNWATCH come as far as the test of DEBUG (R403, R406). -/
theorem watchCheck_eq {s : State} {x : Ctx} (hk : f.Scalars) (hw : s.watchBad x f.asid (watchOf w f) = false)
    (ha : f.isPoisoned .a = false) (hb : f.isPoisoned .b = false) (ht : outTag w f e = .ok t) :
    watchCheck w s x f e = trapIf (!e.debug) (tACCESS 4 0) *> .ok t := by
  simp only [watchCheck, checkKinds_ok hk, hw, ha, hb, ht, trapIf, Bool.or_self, Bool.false_eq_true, if_false, bind, Except.bind]
  rfl

theorem unwatchCheck_eq (hk : f.Scalars) (ht : outTag w f e = .ok t) :
    unwatchCheck w f e = trapIf (!e.debug) (tACCESS 4 0) *> .ok t := by
  simp only [unwatchCheck, checkKinds_ok hk, ht, bind, Except.bind]
  rfl

theorem needsDebug_ok {x : Ex Tag} (hd : e.debug = true) : trapIf (!e.debug) (tACCESS 4 0) *> x = x := by
  rw [hd]; rfl

theorem needsDebug_error {x : Ex Tag} (hd : ¬ e.debug = true) :
    trapIf (!e.debug) (tACCESS 4 0) *> x = .error (tACCESS 4 0) := by
  rw [Bool.eq_false_iff.mpr hd]; rfl

theorem flagsCheck_ok (hk : f.Scalars) (ht : outTag w f e = .ok t) : flagsCheck w f e = .ok t := by
  simp only [flagsCheck, checkKinds_ok hk, ht, bind, Except.bind]

theorem askCheck_ok {s : State} {tile : Bool} (hk : f.Kinds tile false false) (ht : outTag w f (s.env f) = .ok t) :
    askCheck w s f tile = .ok () := by
  simp only [askCheck, checkKinds_ok hk, ht, bind, Except.bind, pure, Except.pure]

/-- A PARK names its own frame, or DEBUG lets it name any (R398). -/
theorem parkTarget_ok {x : Ctx} {i : Nat} {g : BitVec 4} (h : frameOperand x f = .ok (i, g))
    (hmay : (i = tagFrame f.tag ∧ g = tagGen f.tag) ∨ e.debug = true) : parkTarget x f e = .ok (i, g) := by
  have hmay : (!(i == tagFrame f.tag && g == tagGen f.tag) && !e.debug) = false := by simpa [or_iff_not_imp_left] using hmay
  simp only [parkTarget, h, hmay, trapIf, Bool.false_eq_true, if_false, bind, Except.bind, pure, Except.pure]

theorem parkTarget_error {x : Ctx} {i : Nat} {g : BitVec 4} (h : frameOperand x f = .ok (i, g))
    (hown : ¬ (i = tagFrame f.tag ∧ g = tagGen f.tag)) (hd : ¬ e.debug = true) : parkTarget x f e = .error (tACCESS 4 0) := by
  have hother : (!(i == tagFrame f.tag && g == tagGen f.tag) && !e.debug) = true := by simpa using ⟨not_and_or.mp hown, Bool.eq_false_iff.mpr hd⟩
  simp only [parkTarget, h, hother, trapIf, if_true, bind, Except.bind]

end

/-! ### Each instruction -/

section
variable {s : State} {f : Firing} {x : Ctx} (hx : s.ctx f.asid = some x)
include hx

theorem doPark_asks (w : OpFields) {p : Nat × BitVec 4} (h : parkTarget x f (s.env f) = .ok p) : doPark w s f = s.request f .park := by
  simp only [doPark, hx, h]

theorem doPark_refuses (w : OpFields) {r : Trap} (h : parkTarget x f (s.env f) = .error r) : doPark w s f = s.raise f r := by
  simp only [doPark, hx, h]

theorem doResume_asks {w : OpFields} {t : Tag} (h : resumeCheck w x f (s.env f) = .ok t) : doResume w s f = s.request f .resume := by
  simp only [doResume, hx, h]

section
variable {w : OpFields} (hk : f.Scalars)
include hk

/-- Scalars let WATCH read its descriptor, whose poisoned line is logged before the request or the trap (R389). -/
theorem doWatch_asks {t : Tag} (h : watchCheck w s x f (s.env f) = .ok t) :
    doWatch w s f = (s.noteWatch f (watchOf w f)).request f .watch := by
  have hok : (checkKinds f false false false).isOk = true := by rw [checkKinds_ok hk]; rfl
  simp only [doWatch, hx, h, hok, if_true]

theorem doWatch_refuses {r : Trap} (h : watchCheck w s x f (s.env f) = .error r) :
    doWatch w s f = (s.noteWatch f (watchOf w f)).raise f r := by
  have hok : (checkKinds f false false false).isOk = true := by rw [checkKinds_ok hk]; rfl
  simp only [doWatch, hx, h, hok, if_true]

end

end

/-- Settles O32: each instruction passes its own checks, and then holds its firing and asks. -/
theorem requestsReachTheDispatcher : Obligations.RequestsReachTheDispatcher := by
  unfold Obligations.RequestsReachTheDispatcher
  intro w s f x t hsel hx ht v asked planned debug named own d
  have run {i : Instr} {g : Firing → State} {u : State} (hi : exec i s = runFiring s g) (hg : g f = u) : exec i s = .next u :=
    hi.trans ((runFiring_selected g hsel).trans (congrArg _ hg))
  refine ⟨?trap, ?park, ?refused, ?resume, ?watch, ?unwatch, ?flags, ?planes, ?swapg⟩
  case trap => exact fun hk => traps_of_error rfl (evalTrap_eq hk ht) rfl hsel
  case park =>
    rintro hk ⟨hv, hi, hp⟩ hmay
    exact run rfl (doPark_asks hx w (parkTarget_ok (frameOperand_ok hk hv hi hp) hmay))
  case refused =>
    rintro hk ⟨hv, hi, hp⟩ hown hdebug
    exact run rfl (doPark_refuses hx w (parkTarget_error (frameOperand_ok hk hv hi hp) hown hdebug))
  case resume => exact fun hk hv hi hp => run rfl (doResume_asks hx (resumeCheck_ok hk hv hi hp ht))
  case watch =>
    intro hk hw ha hb met
    have hcheck := watchCheck_eq hk hw ha hb ht
    exact ⟨fun hd => run rfl (doWatch_asks hx hk (hcheck.trans (needsDebug_ok hd))),
      fun hd => run rfl (doWatch_refuses hx hk (hcheck.trans (needsDebug_error hd)))⟩
  case unwatch =>
    intro hk
    have hcheck := unwatchCheck_eq hk ht
    refine ⟨fun hd => run (g := doUnwatch w s) rfl ?_, fun hd => run (g := doUnwatch w s) rfl ?_⟩
    · rw [doUnwatch, hcheck.trans (needsDebug_ok hd)]; rfl
    · rw [doUnwatch, hcheck.trans (needsDebug_error hd)]
  case flags =>
    intro hk
    refine run (g := doFlags w s) rfl ?_
    rw [doFlags, flagsCheck_ok hk ht]; rfl
  case planes =>
    intro hk
    have hcheck := askCheck_ok (s := s) hk ht
    refine ⟨run (g := doLoadg w s) rfl ?_, run (g := doDrain w s) rfl ?_⟩
    · rw [doLoadg, hcheck]; rfl
    · rw [doDrain, hcheck]; rfl
  case swapg =>
    intro hk
    have hcheck := askCheck_ok (s := s) (tile := dataTile w) hk ht
    refine run (g := doSwapg w s) rfl ?_
    rw [doSwapg, hcheck]; rfl

end Sys2Proof.Machine
end

section
namespace Sys2Proof.Machine

/-! ## Plane operations at the head of the queue (R151, R154, R156 to R158) -/

/-- The firing's word is that of an operator with these fields. -/
theorem State.planeWord_eq {f : Firing} {i : Instr} {c : BitVec 8} {w : OpFields} (hd : decodeSlot f.word = some i)
    (hi : opcodeOf i = some (c, w)) (s : State) : s.planeWord f = some (w, outTag w f (s.env f)) := by
  rw [State.planeWord, hd, Option.bind_some, hi, Option.map_some]

/-- The operation takes effect and its firing commits. -/
theorem State.decidePlane_fits {s : State} {f : Firing} {pre : State → State} {c : Commit} {cell1 : Cell} {placed : List Out}
    (hmay : s.MaySend f c.outs) (hfits : (pre (s.popPlane f.asid)).Fits f c.outs cell1 placed) :
    s.decidePlane f pre c id = (pre (s.popPlane f.asid)).committed f cell1 placed c.flags id := by
  have hmay : (s.runsIn f && s.badRemote f c.outs) = false := hmay
  rw [State.decidePlane, hmay]
  exact State.commitWith_fits id hfits

/-- The same of an operation whose effect is to come off the queue. -/
theorem State.decidePlane_commits {s : State} {f : Firing} {c : Commit} {cell1 : Cell} {placed : List Out}
    (hmay : s.MaySend f c.outs) (hfits : (s.popPlane f.asid).Fits f c.outs cell1 placed) :
    s.decidePlane f id c id = (s.popPlane f.asid).committed f cell1 placed c.flags id :=
  State.decidePlane_fits (pre := id) hmay hfits

section
variable {s : State} {f : Firing} {t : Tag} {active : Bool} {cell1 : Cell} {placed : List Out}

theorem State.loadgEnd_error {r : Nat} (hmay : s.MaySend f [f.scalarOut t (BitVec.ofNat 64 r)])
    (hfits : (s.popPlane f.asid).Fits f [f.scalarOut t (BitVec.ofNat 64 r)] cell1 placed) :
    s.loadgEnd f active t (.error r) = (s.popPlane f.asid).committed f cell1 placed (f.pz [.a]) id :=
  State.decidePlane_commits (c := ⟨[f.scalarOut t (BitVec.ofNat 64 r)], f.pz [.a]⟩) hmay hfits

theorem State.loadgEnd_ok {g : Nat} {m : List Byte} {ws : List SlotWrite} (hmay : s.MaySend f [f.scalarOut t 0])
    (hfits : (((s.popPlane f.asid).measure f.asid m).applyStream f.asid (!active) g ws).Fits f [f.scalarOut t 0] cell1 placed) :
    s.loadgEnd f active t (.ok (g, m, ws)) = (((s.popPlane f.asid).measure f.asid m).applyStream f.asid (!active) g ws).committed
      f cell1 placed (f.pz [.a]) id :=
  State.decidePlane_fits (pre := fun st => (st.measure f.asid m).applyStream f.asid (!active) g ws)
    (c := ⟨[f.scalarOut t 0], f.pz [.a]⟩) hmay hfits

end

theorem State.flipPending_iff {s : State} {asid : Nat} : s.flipPending asid = true ↔
    ∃ b ∈ s.bcasts, b.asid = asid ∧ b.left ≠ [] ∧ ∃ p, b.kind = .flip p := by
  show (s.bcasts.any fun b => b.asid == asid && !b.left.isEmpty && b.kind.flips) = true ↔ _
  simp only [List.any_eq_true, Bool.and_eq_true, beq_iff_eq, Bool.not_eq_true', List.isEmpty_eq_false_iff, BcastKind.flips_iff,
    and_assoc]

/-- A DRAIN or SWAPG waits: the region is not quiet, or a drydown has begun. -/
theorem State.waitsQuiet_iff {s : State} {asid : Nat} {x : Ctx} (hx : s.ctx asid = some x) :
    (!s.quiet asid || s.drying asid) = true ↔ s.quiet asid = false ∨ x.dry ≠ .none := by
  simp [State.drying, hx]

section
variable {s : State} {asid : Nat} {x : Ctx} {q : FSet} {f : Firing} {rest : List PlaneOp} (hx : s.ctx asid = some x)
  (hq : (s.cell f.cell).findSet f.sid = some q) (hf : q.firing = some f)
include hx hq hf

theorem State.planeHead_eq {o : PlaneOp} (hplane : x.planeOps = o :: rest) (hat : o.at = some (f.cell, f.sid)) :
    s.planeHead asid = some (o, f) := by
  simp only [State.planeHead, hx, hplane, hat, Cell.heldFiring, hq, hf, Option.bind_some, List.head?_cons, Option.map_some]

/-! ### LOADG (R154) -/

theorem exec_loadgApply {w : OpFields} {t : Tag} {s1 : State} {r : Except Nat (Nat × List Byte × List SlotWrite)}
    (hplane : x.planeOps = .loadg f.cell f.sid :: rest) (hd : decodeSlot f.word = some (.loadg w))
    (ht : outTag w f (s.env f) = .ok t) (hr : s.fetchStream asid (w.imm.toNat % 256) = .ok s1 r) :
    exec (.loadgApply asid) s = .next (s1.loadgEnd f x.active t r) := by
  show execLoadgApply asid s = _
  simp only [execLoadgApply, State.planeHead_eq hx hq hf hplane rfl, hx, State.planeWord_eq hd rfl, ht, hr]

/-! ### DRAIN (R156) -/

theorem exec_drainQuiescent {w : OpFields} {t : Tag} (hplane : x.planeOps = .drain f.cell f.sid :: rest)
    (hd : decodeSlot f.word = some (.drain w)) (ht : outTag w f (s.env f) = .ok t) : exec (.drainQuiescent asid) s =
      .next (if !s.quiet asid || s.drying asid then s
        else s.decidePlane f id ⟨[f.scalarOut t (s.drainWord asid)], f.pz [.a]⟩ id) := by
  show execDrainQuiescent asid s = _
  simp only [execDrainQuiescent, State.planeHead_eq hx hq hf hplane rfl, State.planeWord_eq hd rfl, ht]
  rfl

/-! ### SWAPG (R157) -/

theorem exec_swapgFlip (hplane : x.planeOps = .swapg f.cell f.sid :: rest) : exec (.swapgFlip asid) s =
    .next (if !s.quiet asid || s.drying asid then s else decideSwapg s f) := by
  show execSwapgFlip asid s = _
  simp only [execSwapgFlip, State.planeHead_eq hx hq hf hplane rfl, hx, hplane, Option.bind_some, List.head?_cons]

theorem exec_swapgFlip_flipping (hplane : x.planeOps = .flipping f.cell f.sid :: rest) : exec (.swapgFlip asid) s =
    .next (if s.flipPending asid then s else endSwapg s f) := by
  show execSwapgFlip asid s = _
  simp only [execSwapgFlip, State.planeHead_eq hx hq hf hplane rfl, hx, hplane, Option.bind_some, List.head?_cons]

/-! ### Residency (R151) -/

section
variable {child : Nat} (hplane : x.planeOps = .residency f.cell f.sid :: rest) (hhold : q.hold = some (.residency child))
include hplane hhold

theorem exec_residencyApplyDone_bad {s1 : State} (hg : s.fetchGraph asid (entryOf f) = .bad s1) :
    exec (.residencyApplyDone asid) s = .next (s1.raise f tBAD_OPERAND) := by
  have hchild : (s.cell f.cell).heldChild f.sid = some child := by simp only [Cell.heldChild, hq, hhold, Option.bind_some]
  show execResidencyApplyDone asid s = _
  simp only [execResidencyApplyDone, State.planeHead_eq hx hq hf hplane rfl, hx, hchild, hg]
  rfl

theorem exec_residencyApplyDone {s1 s2 : State} {ws : Option (List SlotWrite)} {ds : List Dest}
    (hg : s.fetchGraph asid (entryOf f) = .ok s1 ws) (he : s1.entryPorts asid (entryOf f) = .ok s2 ds)
    (hmay : (s2.runsIn f && s2.badDests asid f.outs0) = false) : exec (.residencyApplyDone asid) s =
      .next (spawnCommit ((ws.elim s2 (s2.applyStream asid x.active (entryOf f))).popPlane asid) { f with outs0 := f.outs0 ++ ds }
        child) := by
  have hchild : (s.cell f.cell).heldChild f.sid = some child := by simp only [Cell.heldChild, hq, hhold, Option.bind_some]
  show execResidencyApplyDone asid s = _
  simp only [execResidencyApplyDone, State.planeHead_eq hx hq hf hplane rfl, hx, hchild, hg, he, hmay, Bool.false_eq_true, if_false]
  cases ws <;> rfl

end

end

section
variable {s : State} {f : Firing} {w : OpFields} {t : Tag} (hd : decodeSlot f.word = some (.swapg w))
  (ht : outTag w f (s.env f) = .ok t)
include hd ht

/-- Tokens that the swap would leave behind raise STRAY_TOKEN, unless it purges them. -/
theorem decideSwapg_stray (hleft : s.unformed f.asid + s.parkedCount f.asid ≠ 0) (hpurge : w.mod.getLsbD 0 = false) :
    decideSwapg s f = s.raise f (trapOf 0x08 1) := by
  have hstray : (s.unformed f.asid + s.parkedCount f.asid != 0 && !w.mod.getLsbD 0) = true := by
    rw [bne_iff_ne.mpr hleft, hpurge]; rfl
  simp only [decideSwapg, State.planeWord_eq hd rfl, ht, hstray, if_true]

theorem decideSwapg_flips (hgo : s.unformed f.asid + s.parkedCount f.asid = 0 ∨ w.mod.getLsbD 0 = true)
    (hmay : s.MaySend f [f.passed .a false t]) : decideSwapg s f = s.flip f (w.mod.getLsbD 0) := by
  have hclean : (s.unformed f.asid + s.parkedCount f.asid != 0 && !w.mod.getLsbD 0) = false := by
    rcases hgo with h | h <;> simp [h]
  have hmay : (s.runsIn f && s.badRemote f (Commit.ofRes t [passOn f .a false] 0).outs) = false := hmay
  simp only [decideSwapg, State.planeWord_eq hd rfl, ht, hclean, hmay, Bool.false_eq_true, if_false]

theorem endSwapg_eq : endSwapg s f = s.decidePlane f id ⟨[f.passed .a false t], 0⟩ id := by
  simp only [endSwapg, State.planeWord_eq hd rfl, ht]
  rfl

end

/-- Settles O35: what the head of the queue does, by the lemma of each operation, and the commit of its firing. -/
theorem planeOperationsDone : Obligations.PlaneOperationsDone := by
  unfold Obligations.PlaneOperationsDone
  rintro s asid x q f w t rest hx rfl hq hf ht popped word flipped
  refine ⟨fun hplane hd => ?loadg, fun hplane hd => ?drain, fun hplane hd => ?swapg, fun hplane hd => ?flipping,
    fun child hplane hhold => ?residency⟩
  case loadg =>
    exact ⟨fun s1 r hr => fun hmay cell1 placed hfits => (exec_loadgApply hx hq hf hplane hd ht hr).trans
        (congrArg _ (State.loadgEnd_error hmay hfits)),
      fun s1 g m ws hr => fun hmay cell1 placed hfits => (exec_loadgApply hx hq hf hplane hd ht hr).trans
        (congrArg _ (State.loadgEnd_ok hmay hfits))⟩
  case drain =>
    rw [exec_drainQuiescent hx hq hf hplane hd ht]
    refine ⟨fun h => congrArg _ (if_pos ((State.waitsQuiet_iff hx).mpr h)), fun hquiet hdry hmay cell1 placed hfits => ?_⟩
    rw [if_neg fun h => ((State.waitsQuiet_iff hx).mp h).elim (by simp [hquiet]) (· hdry)]
    exact congrArg _ (State.decidePlane_commits hmay hfits)
  case swapg =>
    intro purge
    rw [exec_swapgFlip hx hq hf hplane]
    have hgoes (hquiet : s.quiet f.asid = true) (hdry : x.dry = .none) : ¬ (!s.quiet f.asid || s.drying f.asid) = true :=
      fun h => ((State.waitsQuiet_iff hx).mp h).elim (by simp [hquiet]) (· hdry)
    refine ⟨fun h => congrArg _ (if_pos ((State.waitsQuiet_iff hx).mpr h)), fun hquiet hdry hleft hpurge => ?_,
      fun hquiet hdry hgo hmay => ?_⟩
    · rw [if_neg (hgoes hquiet hdry), decideSwapg_stray hd ht hleft hpurge]
    · rw [if_neg (hgoes hquiet hdry), decideSwapg_flips hd ht hgo hmay]
      simp only [State.flip, hx, hplane, List.tail_cons]
      rfl
  case flipping =>
    intro moving
    rw [exec_swapgFlip_flipping hx hq hf hplane]
    refine ⟨fun h => congrArg _ (if_pos (State.flipPending_iff.mpr h)), fun h hmay cell1 placed hfits => ?_⟩
    rw [if_neg fun hp => h (State.flipPending_iff.mp hp), endSwapg_eq hd ht]
    exact congrArg _ (State.decidePlane_commits hmay hfits)
  case residency =>
    exact ⟨fun s1 hg => exec_residencyApplyDone_bad hx hq hf hplane hhold hg,
      fun s1 s2 ds hg he hmay => exec_residencyApplyDone (ws := none) hx hq hf hplane hhold hg he hmay,
      fun s1 s2 ws ds hg he hmay => exec_residencyApplyDone (ws := some ws) hx hq hf hplane hhold hg he hmay⟩

end Sys2Proof.Machine
end

section
namespace Sys2Proof.Machine

/-! ## Arrivals from other devices (R158, R298, R304, R460, R462) -/

/-! ### Flits (R460) -/

/-- What a flit that is taken delivers. -/
def State.deliver (s : State) (port : Nat) : FlitBody → State
  | .idle => s
  | .token t => { s with fabTokens := s.fabTokens ++ [{ t with port := port }] }
  | .request r => { s with fabReqs := s.fabReqs ++ [{ r with port := port }] }

section
variable {s : State} {port seq : Nat} {crc : Bool} {body : FlitBody}

theorem exec_flitReceive_drops (h : crc = false ∨ seq ≠ (look port s.dev.seqs).getD 0) :
    exec (.flitReceive port seq crc body) s = .next s := by
  show execFlitReceive port seq crc body s = _
  refine congrArg _ (if_pos ?_)
  rcases h with rfl | h <;> simp [*]

theorem exec_flitReceive_takes (hport : port < 24) (hboot : s.dev.boot = .ready) (hcrc : crc = true)
    (hseq : seq = (look port s.dev.seqs).getD 0) : exec (.flitReceive port seq crc body) s =
      .next (State.deliver { s with dev := { s.dev with seqs := put port ((look port s.dev.seqs).getD 0 + 1) s.dev.seqs } } port body) := by
  show execFlitReceive port seq crc body s = _
  refine congrArg _ ((if_neg ?_).trans ?_)
  · simp [Nat.not_le.mpr hport, hboot, hcrc, hseq]
  · cases body <;> rfl

end

/-! ### Tokens (R158, R462) -/

section
variable {s : State} {n : Nat} {t : FabToken} (hn : s.fabTokens[n]? = some t)
include hn

theorem exec_fabricTokenArrival_waits (h : ∃ u ∈ s.fabTokens.take n, u.port = t.port) :
    exec (.fabricTokenArrival n) s = .next s := by
  have h : ((s.fabTokens.take n).any fun u => u.port == t.port) = true := by simpa using h
  show execFabricTokenArrival n s = _
  simp only [execFabricTokenArrival, hn, h, if_true]

variable (hfirst : ∀ u ∈ s.fabTokens.take n, u.port ≠ t.port)
include hfirst

theorem exec_fabricTokenArrival_refused (h : s.inbound t = none) : exec (.fabricTokenArrival n) s =
    .next (State.tellPf { s with fabTokens := s.fabTokens.eraseIdx n } 0x83 (FabWord t)) := by
  have hfirst : ((s.fabTokens.take n).any fun u => u.port == t.port) = false := by simpa using hfirst
  show execFabricTokenArrival n s = _
  simp only [execFabricTokenArrival, hn, hfirst, h, Bool.false_eq_true, if_false]

theorem exec_fabricTokenArrival_enters {i : Nat} {x : Ctx} {d : Dest} (hi : s.inbound t = some i) (hx : s.ctx t.target = some x)
    (hd : (decodeDest t.dest).join = some d) : exec (.fabricTokenArrival n) s =
      .next ((State.noteRpt { s with fabTokens := s.fabTokens.eraseIdx n } t.target i (portCell t.port) 0).enterFabric t x i d) := by
  have hfirst : ((s.fabTokens.take n).any fun u => u.port == t.port) = false := by simpa using hfirst
  show execFabricTokenArrival n s = _
  simp only [execFabricTokenArrival, hn, hfirst, hi, hx, hd, Bool.false_eq_true, if_false]

end

/-- The entry that allows a token is inbound and names the token's sender, key and destination. -/
theorem State.inbound_pairs {s : State} {t : FabToken} {i : Nat} (h : s.inbound t = some i) :
    let e := s.rpt t.target i
    e.state = 2 ∧ e.fdev = t.dev ∧ e.fasid = t.asid ∧ e.key = t.key ∧ e.fdest = t.dest := by
  unfold State.inbound at h
  split at h
  · cases h
  · simpa [and_assoc] using List.find?_some h

/-- The token enters the mesh as one flight from its port's cell. -/
theorem State.enterFabric_net (s : State) (t : FabToken) (x : Ctx) (i : Nat) (d : Dest) :
    ∃ g, (s.enterFabric t x i d).net = s.net ++ [g] ∧ g.far = some (t.dev, t.fcell, t.fslot) ∧
      ∃ k, g.toks = [k] ∧ k.asid = t.target ∧ k.tag = t.tag ∧ k.payload = t.payload ∧ k.slot = d.slot.toNat ∧
        k.cell = destTarget d (portCell t.port) t.tag ∧ k.port = portOf d.port ∧ k.remote = true :=
  ⟨_, rfl, rfl, _, rfl, rfl, rfl, rfl, rfl, rfl, rfl, rfl⟩

theorem State.noteRpt_net (s : State) (a i c l : Nat) : (s.noteRpt a i c l).net = s.net := by
  obtain ⟨m, hm⟩ := s.noteRpt_Changes a i c l
  rw [hm]

/-! ### Requests for memory (R298, R304, R462) -/

section
variable {s : State} {n k : Nat} {r : FabRequest}

/-- The answer to a request that asks for no data. -/
def answerTo (r : FabRequest) (refused : Option (Nat × Nat)) : FabAnswer :=
  { dev := r.dev, id := r.id, reply := { refused := refused, listed := false, poison := false, data := [], flags := 0 } }

theorem State.commitFar_busy (h : ∃ p ∈ s.keyedOps r, p.phase = .issued ∨ p.phase = .applied) : s.commitFar n k r = s := by
  have h : ((s.keyedOps r).any fun o => o.phase == .issued || o.phase == .applied) = true := by simpa using h
  simp only [State.commitFar, h, if_true]

/-- The one reservation under the key that is no duplicate is the one that a commit finds. -/
theorem State.find?_keyedOps {o : MemOp} (ho : o ∈ s.keyedOps r) (hfresh : o.fresh = true) (hwait : o.phase = .waiting)
    (hone : ∀ p ∈ s.keyedOps r, p.phase = .waiting → p.fresh = false ∨ p.id = o.id) (hid : (s.memops.map MemOp.id).Nodup) :
    ((s.keyedOps r).filter fun p => p.phase == .waiting).find? MemOp.fresh = some o := by
  obtain ⟨p, hp⟩ : ∃ p, ((s.keyedOps r).filter fun p => p.phase == .waiting).find? MemOp.fresh = some p :=
    Option.isSome_iff_exists.mp (List.find?_isSome.mpr ⟨o, List.mem_filter.mpr ⟨ho, by simp [hwait]⟩, hfresh⟩)
  obtain ⟨hmem, hpwait⟩ := List.mem_filter.mp (List.mem_of_find?_eq_some hp)
  have hsame : p.id = o.id :=
    (hone p hmem (by simpa using hpwait)).resolve_left (by simp [List.find?_some hp])
  rw [hp, List.inj_on_of_nodup_map hid (List.mem_filter.mp hmem).1 (List.mem_filter.mp ho).1 hsame]

theorem State.commitFar_applies {o : MemOp} (hidle : ∀ p ∈ s.keyedOps r, p.phase ≠ .issued ∧ p.phase ≠ .applied)
    (ho : o ∈ s.keyedOps r) (hfind : ((s.keyedOps r).filter fun p => p.phase == .waiting).find? MemOp.fresh = some o) :
    (s.commitFar n k r).fabReqs = s.fabReqs.eraseIdx n ∧
      { o.accepted 0 with origin := some (r.dev, r.id) } ∈ (s.commitFar n k r).memops := by
  have hidle : ((s.keyedOps r).any fun o => o.phase == .issued || o.phase == .applied) = false := by simpa using hidle
  have hmem : o ∈ s.memops := (List.mem_filter.mp ho).1
  simp only [State.commitFar, hidle, hfind, Bool.false_eq_true, if_false, Option.orElse_some]
  exact ⟨rfl, List.mem_map.mpr ⟨o, List.mem_filter.mpr ⟨hmem, by simp⟩, by simp⟩⟩

theorem State.commitFar_answers (hkeyed : s.keyedOps r = []) (hres : s.reservedOp r.dev k = none) : s.commitFar n k r =
    { s with fabReqs := s.fabReqs.eraseIdx n, fabAnswers := s.fabAnswers ++ [answerTo r none] } := by
  simp only [State.commitFar, hkeyed, hres, List.any_nil, Bool.false_eq_true, if_false, List.filter_nil, List.find?_nil,
    List.head?_nil, Option.orElse_none]
  rfl

variable (hn : s.fabReqs[n]? = some r)
include hn

theorem exec_remoteRequestArrival_waits (h : ∃ q ∈ s.fabReqs.take n, q.port = r.port ∧ q.pa / 256 = r.pa / 256) :
    exec (.remoteRequestArrival n) s = .next s := by
  have h : ((s.fabReqs.take n).any fun q => q.port == r.port && q.pa / 256 == r.pa / 256) = true := by simpa using h
  show execRemoteRequestArrival n s = _
  simp only [execRemoteRequestArrival, hn, h, if_true]

variable (hfirst : ∀ q ∈ s.fabReqs.take n, q.port = r.port → q.pa / 256 ≠ r.pa / 256)
include hfirst

theorem exec_remoteRequestArrival_commit (hop : r.op = .commit k) :
    exec (.remoteRequestArrival n) s = .next (s.commitFar n k r) := by
  have hfirst : ((s.fabReqs.take n).any fun q => q.port == r.port && q.pa / 256 == r.pa / 256) = false := by simpa using hfirst
  show execRemoteRequestArrival n s = _
  simp only [execRemoteRequestArrival, hn, hfirst, hop, Bool.false_eq_true, if_false]

theorem exec_remoteRequestArrival_release (hop : r.op = .release k) : exec (.remoteRequestArrival n) s =
    .next (let s1 : State := { s with fabReqs := s.fabReqs.eraseIdx n }
      ((s.reservedOp r.dev k).orElse fun _ => (s.keyedOps r).find? fun o => o.phase == .waiting && o.fresh).elim s1
        fun o => (s1.releaseKeys o).dropOp o.id) := by
  have hfirst : ((s.fabReqs.take n).any fun q => q.port == r.port && q.pa / 256 == r.pa / 256) = false := by simpa using hfirst
  have hsame (j : List FabRequest) : State.reservedOp { s with fabReqs := j } r.dev k = s.reservedOp r.dev k ∧
      State.keyedOps { s with fabReqs := j } r = s.keyedOps r := ⟨rfl, rfl⟩
  show execRemoteRequestArrival n s = _
  simp only [execRemoteRequestArrival, hn, hfirst, hop, hsame, Bool.false_eq_true, if_false]
  cases (s.reservedOp r.dev k).orElse fun _ => (s.keyedOps r).find? fun o => o.phase == .waiting && o.fresh <;> rfl

/-- Any other request asks for an access, which the exported granules cover or not. -/
theorem exec_remoteRequestArrival_asks (hop : ∀ k, r.op ≠ .commit k ∧ r.op ≠ .release k) : exec (.remoteRequestArrival n) s =
    .next (let s1 : State := { s with fabReqs := s.fabReqs.eraseIdx n }
      (s.exportFor r).elim { s1 with fabAnswers := s.fabAnswers ++ [answerTo r (some (0x0B, 3))] }
        fun e => { s1 with memops := s.memops ++ [s1.foreignOp r e.asid], nextOp := s.nextOp + 1 }) := by
  have hfirst : ((s.fabReqs.take n).any fun q => q.port == r.port && q.pa / 256 == r.pa / 256) = false := by simpa using hfirst
  show execRemoteRequestArrival n s = _
  simp only [execRemoteRequestArrival, hn, hfirst, Bool.false_eq_true, if_false]
  split
  next j h => exact absurd h (hop j).1
  next j h => exact absurd h (hop j).2
  · cases s.exportFor r <;> rfl

end

/-- What covers a request lies on its granule and names the device and the context that ask. -/
theorem State.exportFor_covers {s : State} {r : FabRequest} {e : Exported} (h : s.exportFor r = some e) :
    e.granule = r.pa % 2 ^ 39 / 2 ^ 30 ∧ e.dev = r.dev ∧ e.far = r.asid := by
  unfold State.exportFor at h
  dsimp only at h
  split at h
  · cases h
  · have hpick := List.find?_some h
    simp only [Bool.and_eq_true, beq_iff_eq] at hpick
    obtain ⟨⟨⟨⟨⟨hgranule, hdev⟩, hfar⟩, -⟩, -⟩, -⟩ := hpick
    exact ⟨hgranule, hdev, hfar⟩

/-- Settles O50: flits, tokens and requests, each by the lemma of its arrival. -/
theorem fabricArrivals : Obligations.FabricArrivals := by
  unfold Obligations.FabricArrivals
  intro s hboot
  refine ⟨?flits, ?tokenWaits, ?tokens, ?requestWaits, ?requests⟩
  case flits =>
    intro port seq crc body hport want s1
    refine ⟨exec_flitReceive_drops, fun hcrc hseq => ?_⟩
    have htakes := exec_flitReceive_takes (body := body) hport hboot hcrc hseq
    exact ⟨fun h => h ▸ htakes, fun t h => h ▸ htakes, fun r h => h ▸ htakes⟩
  case tokenWaits => exact fun n t hn h => exec_fabricTokenArrival_waits hn h
  case tokens =>
    intro n t hn hfirst s1
    refine ⟨exec_fabricTokenArrival_refused hn hfirst, fun i x d hi hx hd => ?_⟩
    obtain ⟨hstate, hdev, hasid, hkey, hdest⟩ := State.inbound_pairs hi
    obtain ⟨g, hnet, hflight⟩ := (s1.noteRpt t.target i (portCell t.port) 0).enterFabric_net t x i d
    rw [State.noteRpt_net] at hnet
    exact ⟨hstate, hdev, hasid, hkey, hdest, _, g, exec_fabricTokenArrival_enters hn hfirst hi hx hd, hnet, hflight⟩
  case requestWaits => exact fun n r hn h => exec_remoteRequestArrival_waits hn h
  case requests =>
    intro n r hn hfirst s1 asks
    refine ⟨fun k o hop => ?commit, fun k o hop => ?release, fun hop hnone => ?refused, fun e hop he => ?applied⟩
    case commit =>
      rw [exec_remoteRequestArrival_commit hn hfirst hop]
      refine ⟨fun h => congrArg _ (State.commitFar_busy h), fun hone ho hfresh hwait hidle hid => ?_,
        fun hkeyed hres => congrArg _ (State.commitFar_answers hkeyed hres)⟩
      exact ⟨_, rfl, State.commitFar_applies hidle ho (State.find?_keyedOps ho hfresh hwait hone hid)⟩
    case release =>
      rw [exec_remoteRequestArrival_release hn hfirst hop]
      refine ⟨fun hres => ?_, fun hres hkeyed => ?_⟩
      · rw [hres]; rfl
      · rw [hres, hkeyed]; rfl
    case refused => rw [exec_remoteRequestArrival_asks hn hfirst hop, hnone]; rfl
    case applied =>
      obtain ⟨hgranule, hdev, hfar⟩ := State.exportFor_covers he
      exact ⟨hgranule, hdev, hfar, by rw [exec_remoteRequestArrival_asks hn hfirst hop, he]; rfl⟩

end Sys2Proof.Machine
end

section
namespace Sys2Proof.Machine

/-! ## The trace FIFO, TIME, QUERY and the sillage walk (R159, R402, R408, R423, R424, R429) -/

/-! ### The trace FIFO (R423, R424) -/

/-- Memory and operations change: what the retest after a home's write may do. -/
def State.HomeSide (s t : State) : Prop := ∃ m o, t = { s with mem := m, memops := o }
theorem State.HomeSide.refl (s : State) : s.HomeSide s := ⟨s.mem, s.memops, rfl⟩
theorem State.HomeSide.trans {s t u : State} (h : s.HomeSide t) (k : t.HomeSide u) : s.HomeSide u := by
  obtain ⟨m, o, rfl⟩ := h; obtain ⟨n, p, rfl⟩ := k; exact ⟨n, p, rfl⟩

theorem State.logOp_HomeSide (s : State) (o : MemOp) (a : Access) (src : Nat) : s.HomeSide (s.logOp o a src) := by
  unfold State.logOp
  split
  · exact ⟨s.mem, _, rfl⟩
  · obtain ⟨m, h⟩ := s.logPoison_Changes o.firing.asid a.va o.firing.cell o.firing.slot src
    exact ⟨m, s.memops, h⟩

theorem State.answerOp_HomeSide (s : State) (o : MemOp) (bytes : List Byte) (bad : Bool) : s.HomeSide (s.answerOp o bytes bad) := by
  unfold State.answerOp
  extract_lets s1 s2
  have h1 : s.HomeSide s1 := by
    simp only [s1]; split
    · exact ⟨_, s.memops, rfl⟩
    · exact State.HomeSide.refl s
  have h2 : s1.HomeSide s2 := by
    simp only [s2]; split
    · exact s1.logOp_HomeSide ..
    · exact State.HomeSide.refl s1
  exact (h1.trans h2).trans ⟨s2.mem, _, rfl⟩

theorem State.retest_HomeSide (s : State) (pa : Nat) : s.HomeSide (s.retest pa) := by
  unfold State.retest
  refine foldl_rel State.HomeSide State.HomeSide.refl (fun _ _ _ => State.HomeSide.trans) _ (fun st o => ?_) _ s
  dsimp only
  split
  · split
    · split
      · exact st.answerOp_HomeSide ..
      · exact State.HomeSide.refl st
    · exact State.HomeSide.refl st
  · exact State.HomeSide.refl st

theorem State.homeWrite_HomeSide (s : State) (pa : Nat) (bs : List Byte) : s.HomeSide (s.homeWrite pa bs) :=
  State.HomeSide.trans ⟨_, s.memops, rfl⟩ (State.retest_HomeSide ..)

theorem State.appendTrace_HomeSide (s : State) (asid : Nat) (rec : List Byte) : s.HomeSide (s.appendTrace asid rec) := by
  unfold State.appendTrace
  split
  · exact State.HomeSide.refl s
  · dsimp only
    split
    · exact State.HomeSide.refl s
    · split
      · exact (s.homeWrite_HomeSide ..).trans (State.homeWrite_HomeSide ..)
      · exact s.homeWrite_HomeSide ..

/-- Device time does not pass during an append. -/
theorem State.appendTrace_ns (s : State) (asid : Nat) (rec : List Byte) : (s.appendTrace asid rec).ns = s.ns := by
  obtain ⟨m, o, h⟩ := s.appendTrace_HomeSide asid rec
  rw [h]
  rfl

/-- With no memory operation there is nothing to retest. -/
theorem State.homeWrite_idle {s : State} (h : s.memops = []) (pa : Nat) (bs : List Byte) : s.homeWrite pa bs = s.writeMem pa bs := by
  have h : (s.writeMem pa bs).memops = [] := h
  rw [State.homeWrite, State.retest, h, List.foldl_nil]

section
variable {s : State} {asid : Nat} {x : Ctx} (hx : s.ctx asid = some x) (hroom : 64 ≤ x.cr.tracesize) (hidle : s.memops = [])
include hx hroom hidle

theorem State.appendTrace_room (rec : List Byte) (hlo : s.readNat (x.cr.tracebase + 8) 8 ≤ s.readNat x.cr.tracebase 8)
    (hhi : s.readNat x.cr.tracebase 8 < s.readNat (x.cr.tracebase + 8) 8 + (x.cr.tracesize - 64) / 32) :
    s.appendTrace asid rec = (s.writeMem (x.cr.tracebase + 64 + 32 * (s.readNat x.cr.tracebase 8 % ((x.cr.tracesize - 64) / 32)))
      rec).writeMem x.cr.tracebase (leBytes 8 (s.readNat x.cr.tracebase 8 + 1)) := by
  simp only [State.appendTrace, hx, if_neg (Nat.not_lt.mpr hroom), if_pos (And.intro hlo hhi), State.homeWrite_idle hidle]
  exact State.homeWrite_idle (s := s.writeMem _ _) hidle _ _

theorem State.appendTrace_full (rec : List Byte) (hfull : s.readNat x.cr.tracebase 8 < s.readNat (x.cr.tracebase + 8) 8 ∨
      s.readNat (x.cr.tracebase + 8) 8 + (x.cr.tracesize - 64) / 32 ≤ s.readNat x.cr.tracebase 8) :
    s.appendTrace asid rec = s.writeMem (x.cr.tracebase + 16) (leBytes 8 (s.readNat (x.cr.tracebase + 16) 8 + 1)) := by
  have hnone : ¬ (s.readNat (x.cr.tracebase + 8) 8 ≤ s.readNat x.cr.tracebase 8 ∧
      s.readNat x.cr.tracebase 8 < s.readNat (x.cr.tracebase + 8) 8 + (x.cr.tracesize - 64) / 32) := by omega
  simp only [State.appendTrace, hx, if_neg (Nat.not_lt.mpr hroom), if_neg hnone, State.homeWrite_idle hidle]

end

/-! ### TRACE and TIME (R402, R408) -/

section
variable {w : OpFields} {s : State} {f : Firing} {t : Tag}

theorem doTrace_refuses (hk : f.Kinds (w.fmt == .handle) false false) (hp : f.isPoisoned .a = true) :
    doTrace w s f = s.raise f (trapOf 0x0F 5) := by
  have hk : f.Kinds (dataTile w) false false := hk
  have herr := evalOp_copy_error (w := w) (e := s.env f) (v := f.val .a) (side := false) (eos := f.eos) (fl := []) hk
    (checkPoison_error (c := 5) hp)
  simp only [doTrace, passOn, herr]
  rfl

theorem doTrace_ok (hk : f.Kinds (w.fmt == .handle) false false) (hp : f.isPoisoned .a = false) (ht : outTag w f (s.env f) = .ok t) :
    doTrace w s f = s.commitWith f ⟨[f.passed .a false t], 0⟩ fun st => st.appendTrace f.asid
      (traceRecord st.ns f.tag (f.word' .a) (w.imm.toNat % 65536) f.cell f.slot (if dataTile w then 2 else 1)) := by
  have hk : f.Kinds (dataTile w) false false := hk
  rw [doTrace, evalOp_pre_ok hk (checkPoison_ok hp) ht]
  rfl

theorem evalTime_ok {e : Env} (hk : f.Scalars) (ht : outTag w f e = .ok t) : evalTime w s f e =
    .ok ⟨[f.scalarOut t (BitVec.ofNat 64 (if w.var = 0 then s.dev.time / 42 else s.dev.cycles))], f.pz [.a]⟩ :=
  evalOp_flags hk rfl ht

end

/-! ### QUERY (R159) -/

theorem trunc_eq (fmt : Fmt) (v : Word64) : trunc fmt v = if fmt = .z32 then (v.extractLsb' 0 32).zeroExtend 64 else v := by
  simp only [trunc, beq_iff_eq]

/-- The counter that a QUERY names by its scope and its index, if it names one. -/
def State.counter (s : State) (f : Firing) (x : Ctx) (scope i : Nat) : Option Nat :=
  let a := (f.val .a).word.toNat
  if scope = 0 then (if 2048 ≤ a || !x.cr.region.contains a then none else s.queryCell f i a)
  else if scope = 1 then queryRegion x i else if scope = 2 then queryContext x i else none

section
variable {s : State} {f : Firing} {x : Ctx} {i : Nat}

theorem State.counter_cell (hlt : (f.val .a).word.toNat < 2048) (hmem : (f.val .a).word.toNat ∈ x.cr.region) :
    s.counter f x 0 i = s.queryCell f i (f.val .a).word.toNat := by
  simp [State.counter, Nat.not_le.mpr hlt, hmem]

theorem State.counter_outside (hmem : (f.val .a).word.toNat ∉ x.cr.region) : s.counter f x 0 i = none := by
  simp [State.counter, hmem]

theorem State.counter_unlisted {scope : Nat} (h : 2 < scope) : s.counter f x scope i = none := by
  simp only [State.counter, show scope ≠ 0 by omega, show scope ≠ 1 by omega, show scope ≠ 2 by omega, if_false]

theorem State.queryCell_isSome (h : i ≤ 5) (c : Nat) : ∃ n, s.queryCell f i c = some n := by
  interval_cases i <;> exact ⟨_, rfl⟩

theorem State.queryCell_none (h : 5 < i) (c : Nat) : s.queryCell f i c = none := by
  obtain ⟨k, rfl⟩ := Nat.exists_eq_add_of_lt h
  rw [Nat.add_comm 5 k]
  rfl

theorem queryContext_none (h : 5 < i) : queryContext x i = none := by
  obtain ⟨k, rfl⟩ := Nat.exists_eq_add_of_lt h
  rw [Nat.add_comm 5 k]
  rfl

theorem queryRegion_mask {j : Nat} (hj : j < 4) :
    queryRegion x (0x10 + j) = some ((x.mask x.active).toNat / 2 ^ (64 * j) % 2 ^ 64) := by
  have hmask : 0x10 ≤ 0x10 + j ∧ 0x10 + j ≤ 0x13 := by omega
  simp only [queryRegion, show 0x10 + j ≠ 0 by omega, show 0x10 + j ≠ 1 by omega, hmask, and_self, if_true, if_false,
    Nat.add_sub_cancel_left]

theorem queryRegion_none (h1 : 1 < i) (h20 : i ≠ 0x20) (hmask : i < 0x10 ∨ 0x13 < i) : queryRegion x i = none := by
  have hmask : ¬ (0x10 ≤ i ∧ i ≤ 0x13) := by omega
  simp only [queryRegion, show i ≠ 0 by omega, show i ≠ 1 by omega, hmask, h20, if_false]

end

section
variable {w : OpFields} {s : State} {f : Firing} {x : Ctx} (hk : f.Scalars) (hx : s.ctx f.asid = some x)
include hk hx

theorem evalQuery_eq (e : Env) : evalQuery w s f e =
    (s.counter f x (Enc.immField w 12 4) (Enc.immField w 0 12)).elim (.error tBAD_OPERAND) fun n =>
      evalOp w f e (false, false, false) (if Enc.immField w 12 4 = 0 then checkPoison f .a 1 else .ok ()) false
        (.ok ([res0 (made f (trunc w.fmt (BitVec.ofNat 64 n)))], [(0, if Enc.immField w 12 4 = 0 then 0 else f.pz [.a])])) := by
  unfold evalQuery
  rw [hx]
  dsimp only
  split
  next h => rw [show s.counter f x (Enc.immField w 12 4) (Enc.immField w 0 12) = none from h, checkKinds_ok hk]; rfl
  next n h => rw [show s.counter f x (Enc.immField w 12 4) (Enc.immField w 0 12) = some n from h]; rfl

theorem query_refuses (hc : s.counter f x (Enc.immField w 12 4) (Enc.immField w 0 12) = none) :
    Traps (.query w) s f tBAD_OPERAND := by
  refine traps_of_error (g := evalQuery w s) rfl ?_ rfl
  rw [evalQuery_eq hk hx, hc, Option.elim_none]

variable {n : Nat} (hc : s.counter f x (Enc.immField w 12 4) (Enc.immField w 0 12) = some n)
include hc

theorem query_poisoned (hscope : Enc.immField w 12 4 = 0) (hp : f.isPoisoned .a = true) : Traps (.query w) s f (tPOISON 1) := by
  refine traps_of_error (g := evalQuery w s) rfl ?_ rfl
  rw [evalQuery_eq hk hx, hc, Option.elim_some, if_pos hscope, evalOp_pre_error hk (checkPoison_error hp)]
  rfl

theorem query_gives {t : Tag} (ht : outTag w f (s.env f) = .ok t) (hp : Enc.immField w 12 4 = 0 → f.isPoisoned .a = false) :
    Commits (.query w) s f [f.scalarOut t
      (let v := BitVec.ofNat 64 n
       if w.fmt = .z32 then (v.extractLsb' 0 32).zeroExtend 64 else v)] (if Enc.immField w 12 4 = 0 then 0 else f.pz [.a]) := by
  refine commits_of_ok (g := evalQuery w s) rfl ?_
  have hpre : (if Enc.immField w 12 4 = 0 then checkPoison f .a 1 else .ok ()) = .ok () := by
    split
    next h => exact checkPoison_ok (hp h)
    · rfl
  rw [evalQuery_eq hk hx, hc, Option.elim_some, evalOp_flags hk hpre ht, trunc_eq]
  rfl

end

/-! ### One step of a sillage walk (R429) -/

section
variable {s u : State} {n asid i : Nat} {w : SillageWalk} (hn : s.allWalks[n]? = some (asid, i, w))
include hn

theorem exec_sillageWalkStep_ends (h : s.walkStep asid w = (u, none)) :
    exec (.sillageWalkStep n) s = .next (u.modCtx asid fun x => { x with walks := x.walks.eraseIdx i }) := by
  show execSillageWalkStep n s = _
  simp only [execSillageWalkStep, hn, h]

theorem exec_sillageWalkStep_goesOn {v : SillageWalk} (h : s.walkStep asid w = (u, some v)) :
    exec (.sillageWalkStep n) s = .next (u.modCtx asid fun x => { x with walks := x.walks.set i v }) := by
  show execSillageWalkStep n s = _
  simp only [execSillageWalkStep, hn, h]

end

section
variable (s : State) (asid : Nat) (w : SillageWalk)

/-- The state once the step record is written. -/
def State.stepped : State := s.appendTrace asid (sillageStep s w w.step w.fr w.cell)

/-- The state once the walk's end is written too, with its reason. -/
def State.stopped (reason : Nat) : State :=
  (s.stepped asid w).appendTrace asid (sillageEnd (s.stepped asid w) w (w.step + 1) reason w.fr.pcell w.fr.pslot)

end

section
variable {s : State} {asid : Nat} {w : SillageWalk}

theorem State.walkStep_deep (h : ¬ w.step + 1 < w.depth) : s.walkStep asid w = (s.stopped asid w 1, none) :=
  if_pos (Nat.not_lt.mp h)

section
variable (h : w.step + 1 < w.depth)
include h

theorem State.walkStep_injected (hinj : w.fr.inj = true) : s.walkStep asid w = (s.stopped asid w 3, none) :=
  (if_neg (Nat.not_le.mpr h)).trans (if_pos hinj)

variable (hinj : w.fr.inj = false)
include hinj

theorem State.walkStep_remote (hrem : w.fr.remote = true) : s.walkStep asid w = (s.stopped asid w 4, none) :=
  (if_neg (Nat.not_le.mpr h)).trans ((if_neg (by simp [hinj])).trans (if_pos hrem))

variable (hrem : w.fr.remote = false)
include hrem

theorem State.walkStep_lost (hnone : ((s.stepped asid w).cell w.fr.pcell).producers asid w.fr.pslot w.fr.ptime = []) :
    s.walkStep asid w = (s.stopped asid w 2, none) := by
  refine (if_neg (Nat.not_le.mpr h)).trans ((if_neg (by simp [hinj])).trans ((if_neg (by simp [hrem])).trans ?_))
  rw [State.stepped] at hnone
  rw [hnone]
  rfl

theorem State.walkStep_goesOn {m : FireRec} {ms : List FireRec}
    (hfound : ((s.stepped asid w).cell w.fr.pcell).producers asid w.fr.pslot w.fr.ptime = m :: ms) :
    s.walkStep asid w = (s.stepped asid w,
      some { w with step := w.step + 1, cell := w.fr.pcell, fr := ms.getLastD m, ambig := !ms.isEmpty }) := by
  refine (if_neg (Nat.not_le.mpr h)).trans ((if_neg (by simp [hinj])).trans ((if_neg (by simp [hrem])).trans ?_))
  rw [State.stepped] at hfound
  rw [hfound]
  rfl

end
end

/-- Settles O34: TRACE and TIME by what they compute and what an append writes, QUERY by the counter it names, and the
step of a walk by how it ends. -/
theorem traceTimeQueryAndSillage : Obligations.TraceTimeQueryAndSillage := by
  unfold Obligations.TraceTimeQueryAndSillage
  refine ⟨?trace, ?query, ?walk⟩
  case trace =>
    intro w s f t ht d record
    refine ⟨fun hk hp => traps_of_firing (g := doTrace w s) rfl (doTrace_refuses hk hp),
      fun hk hp => commitsWith_of_firing (g := doTrace w s) rfl (doTrace_ok hk hp ht),
      fun hk => commits_of_ok (g := evalTime w s) rfl (evalTime_ok hk ht), fun x asid rec hx hroom hidle => ?_⟩
    exact ⟨State.appendTrace_room hx hroom hidle rec, State.appendTrace_full hx hroom hidle rec⟩
  case query =>
    intro w s f t x hk ht hx scope i c k gives
    have hi : Enc.immField w 0 12 = i := by simp [Enc.immField, i]
    have hscope : Enc.immField w 12 4 = scope := rfl
    have refuses (h : s.counter f x scope i = none) : Traps (.query w) s f tBAD_OPERAND :=
      query_refuses hk hx (by rw [hi]; exact h)
    have local0 (h : scope = 0) {m : Nat} (hm : s.counter f x 0 i = some m) (hp : f.isPoisoned .a = false) : gives m 0 := by
      have hgives := query_gives hk hx (n := m) (by rw [hi, hscope, h]; exact hm) ht fun _ => hp
      rwa [hscope, if_pos h] at hgives
    have wide (h : scope ≠ 0) {m : Nat} (hm : s.counter f x scope i = some m) : gives m (f.pz [.a]) := by
      have hgives := query_gives hk hx (n := m) (by rw [hi]; exact hm) ht fun h0 => absurd h0 h
      rwa [hscope, if_neg h] at hgives
    have region {j m : Nat} (h : scope = 1) (hj : i = j) (hm : queryRegion x j = some m) : gives m (f.pz [.a]) :=
      wide (by omega) (by rw [h, hj]; exact hm)
    have context {j m : Nat} (h : scope = 2) (hj : i = j) (hm : queryContext x j = some m) : gives m (f.pz [.a]) :=
      wide (by omega) (by rw [h, hj]; exact hm)
    refine ⟨fun h hlt hmem => ⟨fun hle hp => ?poisoned, fun hp => ?cell, fun hlt5 => ?unlisted⟩, ?outside,
      fun h hj => region h hj rfl, fun h hj => region h hj rfl, fun h j hj hij => region h hij (queryRegion_mask hj),
      fun h hj => region h hj rfl, fun h hj => context h hj rfl, fun h hj => context h hj rfl, fun h hj => context h hj rfl,
      fun h hj => context h hj rfl, fun h hj => context h hj rfl, fun h hj => context h hj rfl,
      fun h h1 h20 hmask => refuses (by rw [h]; exact queryRegion_none h1 h20 hmask),
      fun h h5 => refuses (by rw [h]; exact queryContext_none h5), fun h => refuses (State.counter_unlisted h)⟩
    case poisoned =>
      obtain ⟨m, hm⟩ := State.queryCell_isSome (s := s) (f := f) hle c
      exact query_poisoned hk hx (n := m) (by rw [hi, hscope, h, State.counter_cell hlt hmem]; exact hm) (hscope.trans h) hp
    case cell =>
      have counts {j m : Nat} (hj : i = j) (hm : s.queryCell f j c = some m) : gives m 0 :=
        local0 h ((State.counter_cell hlt hmem).trans (hj ▸ hm)) hp
      refine ⟨fun hj => counts hj rfl, fun hj => counts hj rfl, fun hj => counts hj ?_, fun hj => counts hj rfl,
        fun hj => counts hj rfl, fun hj => counts hj rfl⟩
      simp only [State.queryCell, hx, Option.map_some, Option.getD_some]
    case unlisted => exact refuses (by rw [h, State.counter_cell hlt hmem]; exact State.queryCell_none hlt5 c)
    case outside => exact fun h hmem => refuses (by rw [h]; exact State.counter_outside hmem)
  case walk =>
    intro s n asid i w hn fr k ns step stop s1 found ends on
    have hstop (reason : Nat) : s1.appendTrace asid (stop reason) = s.stopped asid w reason := by
      have hns : (s.stepped asid w).ns = s.ns := State.appendTrace_ns ..
      rw [State.stopped, sillageEnd, hns]
      rfl
    have ended {reason : Nat} (h : s.walkStep asid w = (s.stopped asid w reason, none)) : ends reason := by
      show exec (.sillageWalkStep n) s = _
      rw [exec_sillageWalkStep_ends hn h, hstop]
    exact ⟨fun h => ended (State.walkStep_deep h), fun h hinj => ended (State.walkStep_injected h hinj),
      fun h hinj hrem => ended (State.walkStep_remote h hinj hrem),
      fun h hinj hrem hnone => ended (State.walkStep_lost h hinj hrem hnone),
      fun m ms h hinj hrem hfound => exec_sillageWalkStep_goesOn hn (State.walkStep_goesOn h hinj hrem hfound)⟩

end Sys2Proof.Machine
end

section
namespace Sys2Proof.Machine

/-! ## A firing's trap (R151, R374, R377, R378, R380, R382) -/

/-! ### What giving frames back and parking tokens leaves alone -/

/-- Of a context: its record, parameters, traps and orphans; of every frame its sticky word and GEN, and everything of a frame
that is not of those given back. -/
structure Ctx.Parks (G : Nat → Prop) (x y : Ctx) : Prop where
  cr : y.cr = x.cr
  par : y.par = x.par
  traps : y.traps = x.traps
  orphans : y.pool.orphans = x.pool.orphans
  flags : ∀ i, (y.frame i).flags = (x.frame i).flags
  gen : ∀ i, (y.frame i).gen = (x.frame i).gen
  frame : ∀ i, ¬ G i → y.frame i = x.frame i

/-- Of a cell: accumulators, rings, operators and banks; no set is new, and a new entry is marked parked. -/
structure Cell.Parks (c d : Cell) : Prop where
  accs : d.accs = c.accs
  rings : d.rings = c.rings
  ops : d.ops = c.ops
  banks : d.banks = c.banks
  sets : ∀ q ∈ d.sets, q ∈ c.sets
  entries : ∀ e ∈ d.entries, e ∈ c.entries ∨ e.parked = true

/-- No broadcast is sent, and beside context a and cell c, of which so much stays, no context changes. -/
structure State.Parks (a c : Nat) (G : Nat → Prop) (s t : State) : Prop where
  bcasts : t.bcasts = s.bcasts
  others : ∀ b, b ≠ a → t.ctx b = s.ctx b
  own : ∀ x, s.ctx a = some x → ∃ y, t.ctx a = some y ∧ x.Parks G y
  cell : (s.cell c).Parks (t.cell c)

theorem Ctx.Parks.refl (G : Nat → Prop) (x : Ctx) : x.Parks G x :=
  ⟨rfl, rfl, rfl, rfl, fun _ => rfl, fun _ => rfl, fun _ _ => rfl⟩

theorem Ctx.Parks.trans {G : Nat → Prop} {x y z : Ctx} (h : x.Parks G y) (k : y.Parks G z) : x.Parks G z where
  cr := k.cr.trans h.cr
  par := k.par.trans h.par
  traps := k.traps.trans h.traps
  orphans := k.orphans.trans h.orphans
  flags i := (k.flags i).trans (h.flags i)
  gen i := (k.gen i).trans (h.gen i)
  frame i hi := (k.frame i hi).trans (h.frame i hi)

theorem Ctx.giveGeneral_Parks (G : Nat → Prop) (x : Ctx) (k : Nat) : x.Parks G (x.giveGeneral k) := by
  unfold Ctx.giveGeneral
  cases x.gangWaits <;> exact { Ctx.Parks.refl G x with }

theorem Ctx.giveBack_Parks (G : Nat → Prop) (f : Frame) (x : Ctx) : x.Parks G (x.giveBack f) := by
  unfold Ctx.giveBack
  cases f.src with
  | general => exact x.giveGeneral_Parks G 1
  | depth | handler | root => exact { Ctx.Parks.refl G x with }

/-- Putting a frame changes only what it has different from the frame it replaces. -/
theorem Ctx.frame_put_same {α : Type} (π : Frame → α) (x : Ctx) {i : Nat} {f : Frame} (h : π f = π (x.frame i)) (j : Nat) :
    π (({ x with frames := put i f x.frames } : Ctx).frame j) = π (x.frame j) := by
  by_cases hj : j = i
  · subst hj; rw [Ctx.frame_put]; exact h
  · rw [Ctx.frame_put_ne x f hj]

/-- A frame of those given back keeps its sticky word and its GEN. -/
theorem Ctx.put_Parks {G : Nat → Prop} {i : Nat} (hi : G i) (x : Ctx) :
    x.Parks G { x with frames := put i { x.frame i with st := .free } x.frames } :=
  { Ctx.Parks.refl G x with
    flags := x.frame_put_same Frame.flags rfl
    gen := x.frame_put_same Frame.gen rfl
    frame := fun _ hj => x.frame_put_ne _ fun h => hj (h ▸ hi) }

theorem Cell.Parks.refl (c : Cell) : c.Parks c :=
  ⟨rfl, rfl, rfl, rfl, fun _ h => h, fun _ h => .inl h⟩

theorem Cell.Parks.trans {c d e : Cell} (h : c.Parks d) (k : d.Parks e) : c.Parks e where
  accs := k.accs.trans h.accs
  rings := k.rings.trans h.rings
  ops := k.ops.trans h.ops
  banks := k.banks.trans h.banks
  sets q hq := h.sets q (k.sets q hq)
  entries e he := (k.entries e he).elim (h.entries e) .inr

/-- A set that was not on the cell is not there now. -/
theorem Cell.Parks.findSet_none {c d : Cell} (h : c.Parks d) {sid : Nat} (hnone : c.findSet sid = none) : d.findSet sid = none :=
  List.find?_eq_none.mpr fun q hq => List.find?_eq_none.mp hnone q (h.sets q hq)

theorem Cell.dropSet_Parks (c : Cell) (sid : Nat) : c.Parks (c.dropSet sid) :=
  { Cell.Parks.refl c with sets := fun _ hq => (List.mem_filter.mp hq).1 }

namespace State.Parks

variable {a c : Nat} {G : Nat → Prop} {s t u : State}

/-- Nothing changes where broadcasts, contexts and cells stay. -/
theorem of_eq (hb : t.bcasts = s.bcasts) (hx : t.ctxs = s.ctxs) (hc : t.cells = s.cells) : s.Parks a c G t where
  bcasts := hb
  others b _ := State.ctx_congr hx b
  own x h := ⟨x, (State.ctx_congr hx a).trans h, Ctx.Parks.refl G x⟩
  cell := by rw [State.cell_congr hc]; exact Cell.Parks.refl _

theorem refl (a c : Nat) (G : Nat → Prop) (s : State) : s.Parks a c G s := of_eq rfl rfl rfl

theorem trans (h : s.Parks a c G t) (k : t.Parks a c G u) : s.Parks a c G u where
  bcasts := k.bcasts.trans h.bcasts
  others b hb := (k.others b hb).trans (h.others b hb)
  own x hx := by
    obtain ⟨y, hy, hxy⟩ := h.own x hx
    obtain ⟨z, hz, hyz⟩ := k.own y hy
    exact ⟨z, hz, hxy.trans hyz⟩
  cell := h.cell.trans k.cell

theorem of_memOnly (h : s.MemOnly t) : s.Parks a c G t := by
  obtain ⟨m, rfl⟩ := h
  exact of_eq rfl rfl rfl

theorem modCell {g : Cell → Cell} {k : Nat} (hg : ∀ y : Cell, y.Parks (g y)) : s.Parks a c G (s.modCell k g) where
  bcasts := rfl
  others _ _ := rfl
  own x hx := ⟨x, hx, Ctx.Parks.refl G x⟩
  cell := by
    by_cases hk : c = k
    · subst hk; rw [State.cell_modCell]; exact hg _
    · rw [State.cell_modCell_ne _ _ _ _ hk]; exact Cell.Parks.refl _

theorem modCtx {g : Ctx → Ctx} (hg : ∀ x : Ctx, x.Parks G (g x)) : s.Parks a c G (s.modCtx a g) where
  bcasts := State.modCtx_bcasts ..
  others b hb := State.ctx_modCtx_ne _ _ _ _ hb
  own x hx := ⟨g x, (State.ctx_modCtx ..).trans (congrArg _ hx), hg x⟩
  cell := by rw [State.cell_congr (State.modCtx_cells ..)]; exact Cell.Parks.refl _

theorem setCtx {x y : Ctx} (hx : s.ctx a = some x) (hxy : x.Parks G y) : s.Parks a c G (s.setCtx a y) where
  bcasts := rfl
  others b hb := State.ctx_setCtx_ne _ _ _ _ hb
  own z hz := by
    obtain rfl : x = z := Option.some.inj (hx.symm.trans hz)
    exact ⟨y, State.ctx_setCtx .., hxy⟩
  cell := Cell.Parks.refl _

/-- The context changes with the table in memory that shows it. -/
theorem setCtx_writeMem {x y : Ctx} {k : Nat} {bs : List Byte} (hx : s.ctx a = some x) (hxy : x.Parks G y) :
    s.Parks a c G ((s.setCtx a y).writeMem k bs) :=
  trans (setCtx hx hxy) (of_eq rfl rfl rfl)

theorem modPool {g : Pool → Pool} (hg : ∀ p, (g p).orphans = p.orphans) : s.Parks a c G (s.modPool a g) where
  bcasts := State.modPool_bcasts ..
  others := (s.modPool_Orphans a g).others
  own x hx := ⟨_, (State.ctx_modPool ..).trans (congrArg _ hx), { Ctx.Parks.refl G x with orphans := hg x.pool }⟩
  cell := by rw [State.cell_congr (State.modPool_cells ..)]; exact Cell.Parks.refl _

theorem foldl_fst {α β : Type} {g : State × β → α → State × β} (h : ∀ (p : State × β) (x : α), p.1.Parks a c G (g p x).1)
    (l : List α) (p : State × β) : p.1.Parks a c G (l.foldl g p).1 :=
  foldl_rel (fun p q : State × β => p.1.Parks a c G q.1) (fun p => refl a c G p.1) (fun _ _ _ => trans) g h l p

theorem gcTiles (s : State) (k : Nat) : s.Parks a c G (s.gcTiles k) := modCell fun y => { Cell.Parks.refl y with }

end State.Parks

/-! ### Waits that end (R109, R151) -/

section
variable {a c : Nat} {G : Nat → Prop}

theorem State.unallocFrame_Parks {i : Nat} (hi : G i) (s : State) : s.Parks a c G (s.unallocFrame a i) := by
  cases hx : s.ctx a with
  | none =>
    rw [State.unallocFrame, hx]
    exact .refl a c G s
  | some x =>
    have hgiven : s.unallocFrame a i = (((s.setFrame a i { x.frame i with st := .free }).modCtx a
        (Ctx.giveBack (x.frame i))).modPool a id).grantDue a := by
      rw [State.unallocFrame, hx]
      rfl
    rw [hgiven]
    have hfree : s.Parks a c G (s.setFrame a i { x.frame i with st := .free }) := by
      rw [State.setFrame_eq hx]
      exact .setCtx_writeMem hx (Ctx.put_Parks hi x)
    exact ((hfree.trans (.modCtx (Ctx.giveBack_Parks G _))).trans (.modPool fun _ => rfl)).trans (.of_eq rfl rfl rfl)

theorem State.cancelWait_Parks {sid : Nat} {s : State} (h : ∀ i, (s.cell c).heldChild sid = some i → G i) :
    s.Parks a c G (s.cancelWait a c sid) := by
  unfold State.cancelWait
  extract_lets s1 g s2 s3 s4 s5
  have h1 : s.Parks a c G s1 := .modCell fun y => { Cell.Parks.refl y with }
  have h2 : s1.Parks a c G s2 := .modCtx (fun x => by
    dsimp only
    split
    · refine Ctx.Parks.trans ?_ (Ctx.giveGeneral_Parks G _ _)
      exact { Ctx.Parks.refl G x with }
    · exact { Ctx.Parks.refl G x with })
  have h3 : s2.Parks a c G s3 := .modPool fun _ => rfl
  have h4 : s3.Parks a c G s4 := by
    simp only [s4]; split
    · exact .of_eq rfl rfl rfl
    · exact .refl a c G s3
  have h5 : s4.Parks a c G s5 := by
    simp only [s5]; split
    next i hi => exact s4.unallocFrame_Parks (h i hi)
    · exact .refl a c G s4
  exact ((((h1.trans h2).trans h3).trans h4).trans h5).trans (.of_eq rfl rfl rfl)

end

theorem State.unallocFrame_cells (s : State) (a i : Nat) : (s.unallocFrame a i).cells = s.cells := by
  unfold State.unallocFrame
  split
  · rfl
  · simp [State.grantDue]

/-- On a cell only loops and the claim know of waits. -/
def State.WaitsOnly (c : Nat) (s t : State) : Prop := ∃ l k, t.cell c = { s.cell c with loops := l, claim := k }

theorem State.WaitsOnly.refl (c : Nat) (s : State) : s.WaitsOnly c s := ⟨(s.cell c).loops, (s.cell c).claim, rfl⟩

theorem State.WaitsOnly.trans {c : Nat} {s t u : State} (h : s.WaitsOnly c t) (k : t.WaitsOnly c u) : s.WaitsOnly c u := by
  obtain ⟨l, m, h⟩ := h
  obtain ⟨l', m', k⟩ := k
  exact ⟨l', m', by rw [k, h]⟩

theorem State.cancelWait_WaitsOnly (s : State) (a c sid : Nat) : s.WaitsOnly c (s.cancelWait a c sid) := by
  unfold State.cancelWait
  extract_lets s1 g s2 s3 s4 s5
  have h4 : s4.cells = s3.cells := by simp only [s4]; split <;> rfl
  have h5 : s5.cells = s4.cells := by
    simp only [s5]; split
    · exact State.unallocFrame_cells ..
    · rfl
  have hcells : s5.cells = s1.cells := by rw [h5, h4, State.modPool_cells, State.modCtx_cells]
  exact ⟨_, _, (State.cell_congr hcells c).trans (State.cell_modCell ..)⟩

/-! ### Frames that a cell's sets have been given (R151) -/

/-- A set of the cell holds the frame for its child. -/
def Cell.gives (c : Cell) (i : Nat) : Prop := ∃ q ∈ c.sets, c.heldChild q.sid = some i

theorem Cell.gives_of_heldChild {c : Cell} {sid i : Nat} (h : c.heldChild sid = some i) : c.gives i := by
  obtain ⟨q, hq, -⟩ := Option.bind_eq_some_iff.mp h
  have hsid : q.sid = sid := by simpa using List.find?_some hq
  exact ⟨q, List.mem_of_find?_eq_some hq, hsid ▸ h⟩

theorem Cell.gives_of_dropSet {c : Cell} {sid i : Nat} (h : (c.dropSet sid).gives i) : c.gives i := by
  obtain ⟨q, hq, hchild⟩ := h
  have hsid : q.sid ≠ sid := by simpa using (List.mem_filter.mp hq).2
  refine Cell.gives_of_heldChild (sid := q.sid) ?_
  rwa [Cell.heldChild, Cell.findSet_dropSet_ne c hsid] at hchild

/-- The waits of several sets of a cell, ended one after another. -/
theorem State.cancelWaits_Parks {a c : Nat} {G : Nat → Prop} {l : List FSet} {s : State} (h : ∀ i, (s.cell c).gives i → G i) :
    s.Parks a c G (l.foldl (fun st f => st.cancelWait a c f.sid) s) := by
  induction l generalizing s with
  | nil => exact .refl a c G s
  | cons q l ih =>
    obtain ⟨k, m, hcell⟩ := s.cancelWait_WaitsOnly a c q.sid
    refine (State.cancelWait_Parks fun i hi => h i (Cell.gives_of_heldChild hi)).trans (ih fun i hi => h i ?_)
    rwa [hcell] at hi

/-! ### Tokens into the park area (R381) -/

section
variable {a c : Nat} {G : Nat → Prop}

theorem State.takeBlock_Parks {s t : State} {b : Nat} (h : s.takeBlock a = some (b, t)) : s.Parks a c G t := by
  unfold State.takeBlock at h
  split at h
  · cases h
  next x hx =>
    split at h
    · cases h
    · cases h
      have htaken : s.Parks a c G (s.setCtx a { x with blocks := insertNat b x.blocks }) :=
        .setCtx hx { Ctx.Parks.refl G x with }
      exact htaken.trans (.of_memOnly (State.markBlock_Changes ..))

theorem State.tileBlock_Parks {s : State} {k : Nat} {m : List (Nat × Nat)} {e : Entry} {r : Option Nat × List (Nat × Nat) × State}
    (h : s.tileBlock a k m e = some r) : s.Parks a c G r.2.2 := by
  unfold State.tileBlock at h
  split at h
  · cases h; exact .refl a c G s
  · cases h; exact .refl a c G s
  · split at h
    · cases h; exact .refl a c G s
    · obtain ⟨p, htake, hr⟩ := Option.map_eq_some_iff.mp h
      subst hr
      exact (State.takeBlock_Parks htake).trans (.of_memOnly (State.storeBlock_Changes ..))
    · cases h; exact .refl a c G s

theorem State.parkEntry_Parks {s : State} {k : Nat} {m : List (Nat × Nat)} {e : Entry} {r : State × List (Nat × Nat)}
    (h : s.parkEntry a k m e = some r) : s.Parks a c G r.1 := by
  unfold State.parkEntry at h
  simp only [Option.bind_eq_bind, Option.bind_eq_some_iff, Option.pure_def, Option.some.injEq] at h
  obtain ⟨x, -, i, -, p, hp, h⟩ := h
  subst h
  refine .trans ?_ (.of_memOnly (State.publishPark_Changes ..))
  refine .trans ?_ (.of_memOnly (State.writeMem_Changes ..))
  exact (State.tileBlock_Parks hp).trans (.modCtx fun y => { Ctx.Parks.refl G y with })

theorem State.setWay_Parks (s : State) (w : Stored) : s.Parks a c G (s.setWay a w) := by
  unfold State.setWay
  split
  · exact .refl a c G s
  next x hx => exact .setCtx_writeMem hx { Ctx.Parks.refl G x with }

theorem State.freeWayAt_Parks (s : State) (i : Nat) : s.Parks a c G (s.freeWayAt a i) := by
  unfold State.freeWayAt
  split
  · exact .refl a c G s
  next x hx => exact .setCtx_writeMem hx { Ctx.Parks.refl G x with }

theorem parkResident_Parks (p : State × List (Nat × Nat)) (e : Entry) : p.1.Parks a c G (parkResident a c p e).1 := by
  unfold parkResident
  cases h : p.1.parkEntry a c p.2 e with
  | none =>
    show State.Parks a c G p.1 (p.1.modCell c fun y => { y with entries := y.entries ++ [{ e with parked := true }] })
    refine .modCell fun y => { Cell.Parks.refl y with entries := fun d hd => ?_ }
    refine (List.mem_append.mp hd).imp id fun hnew => ?_
    rw [List.mem_singleton.mp hnew]
  | some r => exact State.parkEntry_Parks h

theorem parkWay_Parks (p : State × List (Nat × Nat)) (w : Stored) : p.1.Parks a c G (parkWay a p w).1 := by
  unfold parkWay
  split
  next s1 m h => exact (State.parkEntry_Parks h).trans (s1.freeWayAt_Parks w.idx)
  · exact p.1.setWay_Parks _

end

/-! ### The parking of a frame on its cell (R380) -/

/-- The frame's sets that do not run are gone from the cell with their waits, and its entries that are not yet parked too. -/
def State.cleared (s : State) (a fr : Nat) (g : BitVec 4) (c : Nat) : State :=
  (((s.cell c).sets.filter fun q => q.ofFrame a fr g && !q.running).foldl (fun st q => st.cancelWait a c q.sid) s).modCell c fun y =>
    { y with
      entries := y.entries.filter fun e => !(e.ofFrame a fr g && !e.parked)
      sets := y.sets.filter fun q => !(q.ofFrame a fr g && !q.running) }

section
variable (s : State) (a fr : Nat) (g : BitVec 4) (c : Nat) {G : Nat → Prop}

theorem State.cleared_Parks (h : ∀ i, (s.cell c).gives i → G i) : s.Parks a c G (s.cleared a fr g c) :=
  (State.cancelWaits_Parks h).trans (.modCell fun y => { Cell.Parks.refl y with
    sets := fun _ hq => (List.mem_filter.mp hq).1
    entries := fun _ he => .inl (List.mem_filter.mp he).1 })

/-- What has been taken from the cell goes to the park area, or stays marked parked. -/
theorem State.cleared_Parks_withdraw : (s.cleared a fr g c).Parks a c G (s.withdraw a fr g c) := by
  unfold State.withdraw
  extract_lets c0 sets es s1 s2 ws p1
  have hres : s2.Parks a c G p1.1 := .foldl_fst parkResident_Parks es (s2, [])
  have hways : p1.1.Parks a c G (ws.foldl (parkWay a) p1).1 := .foldl_fst parkWay_Parks ws p1
  exact (hres.trans hways).trans (.gcTiles ..)

theorem State.withdraw_Parks (h : ∀ i, (s.cell c).gives i → G i) : s.Parks a c G (s.withdraw a fr g c) :=
  (s.cleared_Parks a fr g c h).trans (s.cleared_Parks_withdraw a fr g c)

theorem State.withdraw_entries : ∀ e ∈ ((s.withdraw a fr g c).cell c).entries, e.ofFrame a fr g = true → e.parked = true := by
  intro e he hmine
  refine ((s.cleared_Parks_withdraw a fr g c (G := fun _ => True)).cell.entries e he).elim (fun hold => ?_) id
  rw [State.cleared, State.cell_modCell] at hold
  simpa [hmine] using (List.mem_filter.mp hold).2

theorem State.withdraw_sets : ∀ q ∈ ((s.withdraw a fr g c).cell c).sets, q.ofFrame a fr g = true → q.running = true := by
  intro q hq hmine
  have hold := (s.cleared_Parks_withdraw a fr g c (G := fun _ => True)).cell.sets q hq
  rw [State.cleared, State.cell_modCell] at hold
  simpa [hmine] using (List.mem_filter.mp hold).2

end

/-! ### The trap is taken (R374 to R382) -/

/-- The record as the context keeps it: escalated at once where a handler frame trapped, and marked under a freeze. -/
def TrapRec.taken (r : TrapRec) (x : Ctx) : TrapRec :=
  { r with
    esc := if r.kind == 1 && (x.frame (tagFrame r.tag)).src == .handler then 3 else r.esc
    frozen := if x.cr.frozen then some r.frozen.isSome else none }

/-- The parking broadcast of a trap. -/
def TrapRec.parking (r : TrapRec) (a : Nat) (x : Ctx) : Bcast :=
  { asid := a, kind := .park (tagFrame r.tag) (x.frame (tagFrame r.tag)).gen.toNat (r.trap.cls == 0x11),
    left := x.cr.region.filter (· != r.cell) }

/-- The frame is PARKED, its record added, its parking broadcast, and its break ended where that is the trap. -/
def State.parkFrame (s : State) (a : Nat) (x : Ctx) (r : TrapRec) : State :=
  let fr := x.frame (tagFrame r.tag)
  let s1 := (s.modCtx a fun y => { y with traps := y.traps ++ [r.taken x] }).setFrame a (tagFrame r.tag) { fr with st := .parked }
  let s2 : State := { s1 with bcasts := s1.bcasts ++ [r.parking a x] }
  if r.trap.cls == 0x11 then s2.clearBreak a (tagFrame r.tag) fr.gen r.cell else s2

section
variable {s : State} {a : Nat} {x : Ctx} {r : TrapRec} (hx : s.ctx a = some x)
include hx

/-- What the parking changes before tokens are withdrawn: its context, its broadcast, and breaks on the cell. -/
theorem State.parkFrame_spec : (s.parkFrame a x r).bcasts = s.bcasts ++ [r.parking a x] ∧
    (∀ b, b ≠ a → (s.parkFrame a x r).ctx b = s.ctx b) ∧
    (∃ l, (s.parkFrame a x r).ctx a = some { x with
      traps := x.traps ++ [r.taken x], fbreaks := l
      frames := put (tagFrame r.tag) { x.frame (tagFrame r.tag) with st := .parked } x.frames }) ∧
    ∃ l, (s.parkFrame a x r).cell r.cell = { s.cell r.cell with fbreaks := l } := by
  unfold State.parkFrame
  extract_lets fr s1 s2
  have hadded : (s.modCtx a fun y => { y with traps := y.traps ++ [r.taken x] }).ctx a =
      some { x with traps := x.traps ++ [r.taken x] } := (State.ctx_modCtx ..).trans (congrArg _ hx)
  have hown : s2.ctx a = some { x with
      traps := x.traps ++ [r.taken x], frames := put (tagFrame r.tag) { fr with st := .parked } x.frames } :=
    State.ctx_setFrame hadded _ _
  have hbcasts : s2.bcasts = s.bcasts ++ [r.parking a x] := by
    show s1.bcasts ++ _ = _
    rw [State.setFrame_bcasts, State.modCtx_bcasts]
  have hothers (b : Nat) (hb : b ≠ a) : s2.ctx b = s.ctx b := by
    show s1.ctx b = _
    rw [show s1 = _ from State.setFrame_eq hadded _ _, State.ctx_writeMem, State.ctx_setCtx_ne _ _ _ _ hb,
      State.ctx_modCtx_ne _ _ _ _ hb]
  have hcells : s2.cells = s.cells := by
    show s1.cells = _
    rw [State.setFrame_cells, State.modCtx_cells]
  split
  · refine ⟨(State.modCtx_bcasts ..).trans hbcasts, fun b hb => (State.ctx_modCtx_ne _ _ _ _ hb).trans (hothers b hb),
      ⟨x.fbreaks.filter (· != (tagFrame r.tag, fr.gen.toNat)), (State.ctx_modCtx ..).trans (congrArg _ hown)⟩,
      ⟨(s.cell r.cell).fbreaks.filter (· != (a, tagFrame r.tag, fr.gen.toNat)), ?_⟩⟩
    rw [State.clearBreak, State.cell_congr (State.modCtx_cells ..), State.cell_modCell, State.cell_congr hcells]
  · exact ⟨hbcasts, hothers, ⟨x.fbreaks, hown⟩, ⟨(s.cell r.cell).fbreaks, State.cell_congr hcells _⟩⟩

variable (hk : r.kind = 1)
include hk

theorem State.takeTrap_dropped (h : frameCurrent (x.frame (tagFrame r.tag)) r.tag = false) :
    s.takeTrap a r = (s.countOrphan a).gcTiles r.cell := by
  simp [State.takeTrap, hx, hk, h]

theorem State.takeTrap_joins (h : frameCurrent (x.frame (tagFrame r.tag)) r.tag = true)
    (hst : (x.frame (tagFrame r.tag)).st ≠ .live) :
    s.takeTrap a r = s.modCtx a fun y => { y with traps := y.traps ++ [r.taken x] } := by
  simp [State.takeTrap, TrapRec.taken, hx, hk, h, hst]

theorem State.takeTrap_parks (h : frameCurrent (x.frame (tagFrame r.tag)) r.tag = true)
    (hst : (x.frame (tagFrame r.tag)).st = .live) : s.takeTrap a r =
      (s.parkFrame a x r).withdraw a (tagFrame r.tag) (x.frame (tagFrame r.tag)).gen r.cell := by
  have hcur : (r.kind != 3 && !frameCurrent (x.frame (tagFrame r.tag)) r.tag) = false := by simp [h]
  have hlive : (r.kind != 3 && (x.frame (tagFrame r.tag)).st == .live) = true := by simp [hk, hst]
  simp only [State.takeTrap, hx, hcur, hlive, if_true, Bool.false_eq_true, if_false]
  rfl

end

theorem State.countOrphan_bcasts (s : State) (a : Nat) : (s.countOrphan a).bcasts = s.bcasts := State.modPool_bcasts ..

theorem State.countOrphan_cells (s : State) (a : Nat) : (s.countOrphan a).cells = s.cells := State.modPool_cells ..

theorem State.countOrphan_Orphans (s : State) (a : Nat) : s.Orphans a (s.countOrphan a) := s.modPool_Orphans a _

theorem State.ctx_countOrphan {s : State} {a : Nat} {x : Ctx} (hx : s.ctx a = some x) :
    (s.countOrphan a).ctx a = some { x with pool := { x.pool with orphans := x.pool.orphans + 1 } } := by
  rw [State.countOrphan, State.ctx_modPool, hx]
  rfl

/-- What a trap of a firing leaves, in its context and on its cell: of the frames only that of its tag, and those given back,
change. -/
structure State.TakesTrap (a : Nat) (G : Nat → Prop) (r : TrapRec) (s : State) (x : Ctx) (t : State) (y : Ctx) : Prop where
  ctx : t.ctx a = some y
  others : ∀ b, b ≠ a → t.ctx b = s.ctx b
  cell : (s.cell r.cell).Parks (t.cell r.cell)
  cr : y.cr = x.cr
  par : y.par = x.par
  flags : ∀ i, (y.frame i).flags = (x.frame i).flags
  gen : ∀ i, (y.frame i).gen = (x.frame i).gen
  frame : ∀ i, i ≠ tagFrame r.tag → ¬ G i → y.frame i = x.frame i
  dropped : frameCurrent (x.frame (tagFrame r.tag)) r.tag = false →
    y.traps = x.traps ∧ y.pool.orphans = x.pool.orphans + 1 ∧ t.bcasts = s.bcasts
  parked : frameCurrent (x.frame (tagFrame r.tag)) r.tag = true → ¬ G (tagFrame r.tag) →
    (y.frame (tagFrame r.tag)).st = .parked ∧ y.traps = x.traps ++ [r.taken x]
  live : frameCurrent (x.frame (tagFrame r.tag)) r.tag = true → (x.frame (tagFrame r.tag)).st = .live →
    t.bcasts = s.bcasts ++ [r.parking a x] ∧
    (∀ e ∈ (t.cell r.cell).entries, e.ofFrame a (tagFrame r.tag) (x.frame (tagFrame r.tag)).gen = true → e.parked = true) ∧
    ∀ q ∈ (t.cell r.cell).sets, q.ofFrame a (tagFrame r.tag) (x.frame (tagFrame r.tag)).gen = true → q.running = true

section
variable {s : State} {a : Nat} {x : Ctx} {r : TrapRec} {G : Nat → Prop} (hx : s.ctx a = some x) (hk : r.kind = 1)
include hx hk

/-- In ENDING the trap is dropped and counted (R105, R382). -/
theorem State.takeTrap_TakesTrap_of_dropped (h : frameCurrent (x.frame (tagFrame r.tag)) r.tag = false) :
    ∃ y, s.TakesTrap a G r x (s.takeTrap a r) y := by
  rw [State.takeTrap_dropped hx hk h]
  have hcell := (State.Parks.gcTiles (a := a) (c := r.cell) (G := G) (s.countOrphan a) r.cell).cell
  rw [State.cell_congr (s.countOrphan_cells a) r.cell] at hcell
  exact ⟨_, { ctx := State.ctx_countOrphan hx, others := (s.countOrphan_Orphans a).others, cell := hcell
              cr := rfl, par := rfl, flags := fun _ => rfl, gen := fun _ => rfl, frame := fun _ _ _ => rfl
              dropped := fun _ => ⟨rfl, rfl, s.countOrphan_bcasts a⟩, parked := by simp [h], live := by simp [h] }⟩

/-- The frame is PARKED already: the record joins those of its context. -/
theorem State.takeTrap_TakesTrap_of_parked (h : frameCurrent (x.frame (tagFrame r.tag)) r.tag = true)
    (hst : (x.frame (tagFrame r.tag)).st ≠ .live) : ∃ y, s.TakesTrap a G r x (s.takeTrap a r) y := by
  rw [State.takeTrap_joins hx hk h hst]
  have hparked : (x.frame (tagFrame r.tag)).st = .parked := (frameCurrent_iff.mp h).2.resolve_left hst
  exact ⟨{ x with traps := x.traps ++ [r.taken x] },
    { ctx := (State.ctx_modCtx ..).trans (congrArg _ hx), others := fun _ hb => State.ctx_modCtx_ne _ _ _ _ hb
      cell := by rw [State.cell_congr (State.modCtx_cells ..)]; exact Cell.Parks.refl _
      cr := rfl, par := rfl, flags := fun _ => rfl, gen := fun _ => rfl, frame := fun _ _ _ => rfl
      dropped := by simp [h], parked := fun _ _ => ⟨hparked, rfl⟩, live := fun _ hlive => absurd hlive hst }⟩

/-- The frame was LIVE: it is parked, and its tokens are withdrawn (R380). -/
theorem State.takeTrap_TakesTrap_of_live (hG : ∀ i, (s.cell r.cell).gives i → G i)
    (h : frameCurrent (x.frame (tagFrame r.tag)) r.tag = true) (hst : (x.frame (tagFrame r.tag)).st = .live) :
    ∃ y, s.TakesTrap a G r x (s.takeTrap a r) y := by
  rw [State.takeTrap_parks hx hk h hst]
  obtain ⟨hbcasts, hothers, ⟨l, hown⟩, ⟨m, hcell⟩⟩ := State.parkFrame_spec (r := r) hx
  have hw := (s.parkFrame a x r).withdraw_Parks a (tagFrame r.tag) (x.frame (tagFrame r.tag)).gen r.cell (G := G)
    (by rw [hcell]; exact hG)
  obtain ⟨y, hy, hxy⟩ := hw.own _ hown
  have hpark : (s.cell r.cell).Parks ((s.parkFrame a x r).cell r.cell) := by rw [hcell]; exact { Cell.Parks.refl _ with }
  have kept {α : Type} (π : Frame → α) (hπ : π { x.frame (tagFrame r.tag) with st := .parked } = π (x.frame (tagFrame r.tag))) :=
    x.frame_put_same π hπ
  exact ⟨y, { ctx := hy, others := fun b hb => (hw.others b hb).trans (hothers b hb)
              cell := hpark.trans hw.cell
              cr := hxy.cr, par := hxy.par
              flags := fun i => (hxy.flags i).trans (kept Frame.flags rfl i)
              gen := fun i => (hxy.gen i).trans (kept Frame.gen rfl i)
              frame := fun i hi hGi => (hxy.frame i hGi).trans (x.frame_put_ne _ hi)
              dropped := by simp [h]
              parked := fun _ hGi => ⟨(congrArg Frame.st (hxy.frame _ hGi)).trans (congrArg Frame.st (x.frame_put ..)), hxy.traps⟩
              live := fun _ _ => ⟨hw.bcasts.trans hbcasts, State.withdraw_entries _ a _ _ r.cell, State.withdraw_sets _ a _ _ r.cell⟩ }⟩

theorem State.takeTrap_TakesTrap (hG : ∀ i, (s.cell r.cell).gives i → G i) : ∃ y, s.TakesTrap a G r x (s.takeTrap a r) y := by
  by_cases hcur : frameCurrent (x.frame (tagFrame r.tag)) r.tag = true
  · by_cases hlive : (x.frame (tagFrame r.tag)).st = .live
    · exact State.takeTrap_TakesTrap_of_live hx hk hG hcur hlive
    · exact State.takeTrap_TakesTrap_of_parked hx hk hcur hlive
  · exact State.takeTrap_TakesTrap_of_dropped hx hk (Bool.not_eq_true _ ▸ hcur)

end

/-! ### The firing that traps -/

/-- The firing's wait is ended and its set is gone from the cell. -/
def State.unfired (s : State) (f : Firing) : State :=
  (s.cancelWait f.asid f.cell f.sid).modCell f.cell fun c => c.dropSet f.sid

/-- The firing's trap as a record, with the entries of its set. -/
def State.trapRec (s : State) (f : Firing) (t : Trap) : TrapRec :=
  (s.unfired f).recOf f t ((((s.cell f.cell).findSet f.sid).map FSet.args).getD [])

theorem State.unfired_Parks (s : State) (f : Firing) : s.Parks f.asid f.cell (s.cell f.cell).gives (s.unfired f) :=
  (State.cancelWait_Parks fun _ => Cell.gives_of_heldChild).trans (.modCell fun y => y.dropSet_Parks f.sid)

theorem State.unfired_findSet (s : State) (f : Firing) : ((s.unfired f).cell f.cell).findSet f.sid = none := by
  rw [State.unfired, State.cell_modCell]
  exact Cell.findSet_dropSet ..

/-- No set is given a frame by another's end. -/
theorem State.unfired_gives {s : State} {f : Firing} {i : Nat} (h : ((s.unfired f).cell f.cell).gives i) : (s.cell f.cell).gives i := by
  obtain ⟨l, k, hcell⟩ := s.cancelWait_WaitsOnly f.asid f.cell f.sid
  rw [State.unfired, State.cell_modCell] at h
  have hwait := Cell.gives_of_dropSet h
  rwa [hcell] at hwait

theorem Trap.withCoord_cls (t : Trap) (f : Firing) : (t.withCoord f).cls = t.cls := by
  unfold Trap.withCoord
  split <;> rfl

/-- Nothing leaves with the trap, and no operation is issued (R374). -/
theorem State.raise_leaves_nothing (s : State) (f : Firing) (t : Trap) : (s.raise f t).sel = none ∧ (s.raise f t).net = s.net ∧
    (s.raise f t).memops = s.memops ∧ (s.raise f t).w1 = s.w1 ∧ (s.raise f t).poison = s.poison ∧ (s.raise f t).vdevs = s.vdevs ∧
    (s.raise f t).fabOut = s.fabOut := by
  obtain ⟨m, k, x, q, b, d, h⟩ := s.raise_Changes f t
  rw [h]
  exact ⟨rfl, rfl, rfl, rfl, rfl, rfl, rfl⟩

/-- Settles O59: the set is withdrawn, which gives back only frames held for a child, and the trap is taken in the state that
leaves. -/
theorem trapParksItsFrame : Obligations.TrapParksItsFrame := by
  intro s f t x hx fr u c d args given
  obtain ⟨hsel, hnet, hmemops, hw1, hpoison, hvdevs, hfab⟩ := s.raise_leaves_nothing f t
  have hun := s.unfired_Parks f
  obtain ⟨x0, hx0, hx0x⟩ := hun.own x hx
  obtain ⟨y, h⟩ := State.takeTrap_TakesTrap (G := given) (r := s.trapRec f t) hx0 rfl fun _ => State.unfired_gives
  have hcell : c.Parks d := hun.cell.trans h.cell
  have hfr (hg : ¬ given (tagFrame f.tag)) : x0.frame (tagFrame f.tag) = fr := hx0x.frame _ hg
  refine ⟨hsel, hnet, hmemops, hw1, hpoison, hvdevs, hfab, h.cell.findSet_none (s.unfired_findSet f), hcell.accs, hcell.rings, hcell.ops,
    hcell.banks, fun a ha => (h.others a ha).trans (hun.others a ha), y, h.ctx, h.cr.trans hx0x.cr, h.par.trans hx0x.par,
    fun i => ⟨(h.flags i).trans (hx0x.flags i), (h.gen i).trans (hx0x.gen i), fun hi hg => ?_⟩, fun hg hcur => ?_, fun hg hcur => ?_,
    fun hg hlive hgen => ?_⟩
  case refine_1 => rw [h.frame i hi hg, hx0x.frame i hg]
  case refine_2 =>
    obtain ⟨htraps, horphans, hbcasts⟩ := h.dropped ((congrArg (frameCurrent · f.tag) (hfr hg)).trans hcur)
    exact ⟨htraps.trans hx0x.traps, by rw [horphans, hx0x.orphans], hbcasts.trans hun.bcasts⟩
  case refine_3 =>
    obtain ⟨hst, htraps⟩ := h.parked ((congrArg (frameCurrent · f.tag) (hfr hg)).trans hcur) hg
    refine ⟨hst, (s.trapRec f t).taken x0, by rw [htraps, hx0x.traps], rfl, rfl, rfl, rfl, rfl, rfl, rfl, rfl, rfl, rfl, ?_⟩
    rw [← hfr hg]
    simp [TrapRec.taken, State.trapRec, State.recOf]
  case refine_4 =>
    have hcur : frameCurrent (x0.frame (tagFrame f.tag)) f.tag = true := by
      rw [hfr hg]; exact frameCurrent_iff.mpr ⟨hgen, .inl hlive⟩
    obtain ⟨hbcasts, hentries, hsets⟩ := h.live hcur ((congrArg Frame.st (hfr hg)).trans hlive)
    have hparking : (s.trapRec f t).parking f.asid x0 =
        { asid := f.asid, kind := .park (tagFrame f.tag) fr.gen.toNat (t.cls == 0x11), left := x.cr.region.filter (· != f.cell) } := by
      rw [TrapRec.parking, ← hx0x.cr, ← hfr hg, ← t.withCoord_cls f]
      rfl
    rw [hun.bcasts, hparking] at hbcasts
    rw [← hfr hg] at hbcasts ⊢
    exact ⟨hbcasts, hentries, hsets⟩
end Sys2Proof.Machine
end

section
namespace Sys2Proof.Machine

/-! ## Rounding to a format (R168 to R170) -/

/-! ### Powers of two, and floor(log2) -/

/-- The comparison of `ilog`, without fractions. -/
theorem two_zpow_le_div_iff {n d : Nat} (hd : d ≠ 0) (l : Int) : (2 : ℚ) ^ l ≤ n / d ↔
    (if 0 ≤ l then decide (d * 2 ^ l.toNat ≤ n) else decide (d ≤ n * 2 ^ (-l).toNat)) = true := by
  have hdpos : (0 : ℚ) < d := by positivity
  rw [le_div_iff₀ hdpos]
  by_cases hl : 0 ≤ l
  · obtain ⟨k, rfl⟩ := Int.eq_ofNat_of_zero_le hl
    rw [if_pos hl, decide_eq_true_eq, Int.toNat_natCast, mul_comm, zpow_natCast]
    exact_mod_cast Iff.rfl
  · obtain ⟨k, hk⟩ := Int.eq_ofNat_of_zero_le (a := -l) (by omega)
    obtain rfl : l = -(k : Int) := by omega
    have hpow : (0 : ℚ) < 2 ^ k := by positivity
    rw [if_neg hl, decide_eq_true_eq, neg_neg, Int.toNat_natCast, zpow_neg, zpow_natCast, inv_mul_le_iff₀ hpow, mul_comm]
    exact_mod_cast Iff.rfl

theorem ilog_bounds {n d : Nat} (hn : n ≠ 0) (hd : d ≠ 0) :
    (2 : ℚ) ^ ilog n d ≤ n / d ∧ (n : ℚ) / d < 2 ^ (ilog n d + 1) := by
  have hdpos : (0 : ℚ) < d := by positivity
  have hnlo : (2 : ℚ) ^ (n.log2 : ℤ) ≤ n := by exact_mod_cast Nat.log2_self_le hn
  have hnhi : (n : ℚ) < 2 ^ ((n.log2 : ℤ) + 1) := by exact_mod_cast Nat.lt_log2_self
  have hdlo : (2 : ℚ) ^ (d.log2 : ℤ) ≤ d := by exact_mod_cast Nat.log2_self_le hd
  have hdhi : (d : ℚ) < 2 ^ ((d.log2 : ℤ) + 1) := by exact_mod_cast Nat.lt_log2_self
  have hle := two_zpow_le_div_iff (n := n) hd ((n.log2 : ℤ) - d.log2)
  simp only [ilog, ← hle]
  split
  · rename_i h
    refine ⟨h, ?_⟩
    rw [div_lt_iff₀ hdpos]
    calc (n : ℚ) < 2 ^ ((n.log2 : ℤ) + 1) := hnhi
      _ = 2 ^ ((n.log2 : ℤ) - d.log2 + 1) * 2 ^ (d.log2 : ℤ) := by rw [← zpow_add₀ two_ne_zero]; congr 1; omega
      _ ≤ _ := by gcongr
  · rename_i h
    refine ⟨?_, by rw [sub_add_cancel]; exact not_le.mp h⟩
    rw [le_div_iff₀ hdpos]
    calc (2 : ℚ) ^ ((n.log2 : ℤ) - d.log2 - 1) * d
        ≤ 2 ^ ((n.log2 : ℤ) - d.log2 - 1) * 2 ^ ((d.log2 : ℤ) + 1) := by gcongr
      _ = 2 ^ (n.log2 : ℤ) := by rw [← zpow_add₀ two_ne_zero]; congr 1; omega
      _ ≤ n := hnlo

/-- `ilog` is below e just where the number is below 2 ^ e. -/
theorem ilog_lt_iff {n d : Nat} (hn : n ≠ 0) (hd : d ≠ 0) (e : Int) : ilog n d < e ↔ (n : ℚ) / d < 2 ^ e := by
  obtain ⟨hlo, hhi⟩ := ilog_bounds hn hd
  constructor
  · exact fun h => hhi.trans_le (zpow_le_zpow_right₀ one_le_two h)
  · exact fun h => (zpow_lt_zpow_iff_right₀ one_lt_two).mp (hlo.trans_lt h)

theorem scale2_den_pos (n : Nat) (e : Int) : 0 < (scale2 n e).2 := by
  unfold scale2
  split <;> positivity

theorem scale2_ratio (n : Nat) (e : Int) : ((scale2 n e).1 : ℚ) / (scale2 n e).2 = n * 2 ^ e := by
  unfold scale2
  split
  · rename_i he
    obtain ⟨k, rfl⟩ := Int.eq_ofNat_of_zero_le he
    simp
  · obtain ⟨k, hk⟩ := Int.eq_ofNat_of_zero_le (a := -e) (by omega)
    obtain rfl : e = -(k : Int) := by omega
    simp [div_eq_mul_inv]

theorem scale2_num_eq_zero {n : Nat} {e : Int} : (scale2 n e).1 = 0 ↔ n = 0 := by
  unfold scale2
  split <;> simp

/-! ### The magnitudes of a format, by code (R162) -/

/-- The code of the largest finite magnitude. -/
def topCode (fmt : Fmt) : Nat := (form fmt).maxE * 2 ^ (form fmt).p + (form fmt).maxF

/-- The magnitude of a code of a format, as if its exponents went on without end. -/
def magnitude (fmt : Fmt) (c : Nat) : ℚ :=
  if c < 2 ^ (form fmt).p then c * 2 ^ (1 - ((form fmt).bias : ℤ) - (form fmt).p)
  else ((2 ^ (form fmt).p + c % 2 ^ (form fmt).p : Nat) : ℚ) *
    2 ^ (((c / 2 ^ (form fmt).p : Nat) : ℤ) - (form fmt).bias - (form fmt).p)

/-- The distance between neighbours in binade j, counted from the one of the subnormal and the least normal magnitudes. -/
def stepAt (fmt : Fmt) (j : Nat) : ℚ := 2 ^ (1 - ((form fmt).bias : ℤ) - (form fmt).p + j)

theorem stepAt_pos (fmt : Fmt) (j : Nat) : 0 < stepAt fmt j := by
  unfold stepAt
  positivity

theorem form_bounds (fmt : Fmt) : 1 ≤ (form fmt).p ∧ 1 ≤ (form fmt).maxE ∧ (form fmt).maxE < 2 ^ (form fmt).eb ∧
    1 ≤ (form fmt).maxF ∧ (form fmt).maxF < 2 ^ (form fmt).p := by
  cases fmt <;> decide

/-- k is a significand of binade j: there a code counts on from j binades. -/
def InBinade (fmt : Fmt) (j k : Nat) : Prop := k ≤ 2 ^ ((form fmt).p + 1) ∧ (j = 0 ∨ 2 ^ (form fmt).p ≤ k)

theorem magnitude_inBinade {fmt : Fmt} {j k : Nat} (h : InBinade fmt j k) :
    magnitude fmt (j * 2 ^ (form fmt).p + k) = k * stepAt fmt j := by
  obtain ⟨hk, hj⟩ := h
  have hpow : 2 ^ ((form fmt).p + 1) = 2 * 2 ^ (form fmt).p := by ring
  have hpos : 0 < 2 ^ (form fmt).p := by positivity
  unfold magnitude stepAt
  by_cases hsub : k < 2 ^ (form fmt).p
  · obtain rfl : j = 0 := by omega
    simp [hsub]
  · have hlow : ¬ j * 2 ^ (form fmt).p + k < 2 ^ (form fmt).p := fun h => hsub (by omega)
    rw [if_neg hlow]
    by_cases hend : k = 2 ^ ((form fmt).p + 1)
    · have hc : j * 2 ^ (form fmt).p + k = (j + 2) * 2 ^ (form fmt).p := by rw [hend]; ring
      rw [hc, Nat.mul_mod_left, Nat.mul_div_cancel _ hpos, hend]
      push_cast
      rw [add_zero, pow_succ, mul_assoc, ← zpow_natCast (2 : ℚ) (form fmt).p, ← zpow_add₀ two_ne_zero,
        ← zpow_one_add₀ two_ne_zero, ← zpow_add₀ two_ne_zero]
      congr 1
      ring
    · have hc : j * 2 ^ (form fmt).p + k = (j + 1) * 2 ^ (form fmt).p + (k - 2 ^ (form fmt).p) := by
        have : (j + 1) * 2 ^ (form fmt).p = j * 2 ^ (form fmt).p + 2 ^ (form fmt).p := by ring
        omega
      have hm : k - 2 ^ (form fmt).p < 2 ^ (form fmt).p := by omega
      rw [hc, Nat.mul_add_mod', Nat.mod_eq_of_lt hm, Nat.mul_comm, Nat.mul_add_div hpos, Nat.div_eq_of_lt hm,
        Nat.add_sub_cancel' (not_lt.mp hsub)]
      congr 2
      push_cast
      ring

theorem exists_inBinade (fmt : Fmt) (c : Nat) :
    ∃ j k, c = j * 2 ^ (form fmt).p + k ∧ k < 2 ^ ((form fmt).p + 1) ∧ InBinade fmt j k := by
  have hpow : 2 ^ ((form fmt).p + 1) = 2 * 2 ^ (form fmt).p := by ring
  by_cases hc : c < 2 ^ (form fmt).p
  · exact ⟨0, c, by simp, by omega, by omega, .inl rfl⟩
  · have hm : c % 2 ^ (form fmt).p < 2 ^ (form fmt).p := Nat.mod_lt _ (by positivity)
    obtain ⟨j, hj⟩ : ∃ j, c / 2 ^ (form fmt).p = j + 1 :=
      Nat.exists_eq_add_one.mpr (Nat.div_pos (not_lt.mp hc) (by positivity))
    have hsplit := Nat.div_add_mod' c (2 ^ (form fmt).p)
    rw [hj, Nat.succ_mul] at hsplit
    exact ⟨j, 2 ^ (form fmt).p + c % 2 ^ (form fmt).p, by omega, by omega, by omega, .inr (by omega)⟩

theorem magnitude_strictMono (fmt : Fmt) : StrictMono (magnitude fmt) := by
  refine strictMono_nat_of_lt_succ fun c => ?_
  obtain ⟨j, k, rfl, hk, hj⟩ := exists_inBinade fmt c
  rw [magnitude_inBinade hj, Nat.add_assoc, magnitude_inBinade ⟨hk, hj.2.imp_right (by omega)⟩]
  push_cast
  linarith [stepAt_pos fmt j]

/-! ### The fields of a code (R162) -/

/-- The bits of a sign, an exponent field and a fraction. -/
def fieldBits (fmt : Fmt) (sign : Bool) (ex fr : Nat) : Nat := signBit fmt sign + ex * 2 ^ (form fmt).p + fr

/-- The magnitude of an exponent field and a fraction, as `decodeF` writes it. -/
def fieldRatio (fmt : Fmt) (ex fr : Nat) : Nat × Nat :=
  if ex = 0 then scale2 fr (1 - ((form fmt).bias : Int) - (form fmt).p)
  else scale2 (2 ^ (form fmt).p + fr) ((ex : Int) - (form fmt).bias - (form fmt).p)

section
variable {fmt : Fmt} {ex fr : Nat} (sign : Bool) (hfr : fr < 2 ^ (form fmt).p)
include hfr

theorem fieldBits_fraction : fieldBits fmt sign ex fr % 2 ^ (form fmt).p = fr := by
  have hsign : signBit fmt sign = (if sign then 2 ^ (form fmt).eb else 0) * 2 ^ (form fmt).p := by
    cases sign <;> simp [signBit, Nat.pow_add, Nat.mul_comm]
  rw [fieldBits, hsign, ← Nat.add_mul, Nat.mul_add_mod', Nat.mod_eq_of_lt hfr]

variable (hex : ex < 2 ^ (form fmt).eb)
include hex

theorem fieldBits_exponent : fieldBits fmt sign ex fr / 2 ^ (form fmt).p % 2 ^ (form fmt).eb = ex := by
  have hsign : signBit fmt sign = 2 ^ (form fmt).p * ((if sign then 1 else 0) * 2 ^ (form fmt).eb) := by
    cases sign <;> simp [signBit, Nat.pow_add]
  rw [fieldBits, hsign, Nat.mul_comm ex, ← Nat.mul_add, Nat.mul_add_div (by positivity), Nat.div_eq_of_lt hfr, Nat.add_zero,
    Nat.mul_add_mod', Nat.mod_eq_of_lt hex]

theorem fieldBits_sign : fieldBits fmt sign ex fr % 2 ^ ((form fmt).p + (form fmt).eb + 1) /
    2 ^ ((form fmt).p + (form fmt).eb) = if sign then 1 else 0 := by
  have hlow : ex * 2 ^ (form fmt).p + fr < 2 ^ ((form fmt).p + (form fmt).eb) := by
    calc ex * 2 ^ (form fmt).p + fr < (ex + 1) * 2 ^ (form fmt).p := by rw [Nat.succ_mul]; omega
      _ ≤ 2 ^ (form fmt).eb * 2 ^ (form fmt).p := Nat.mul_le_mul_right _ hex
      _ = 2 ^ ((form fmt).p + (form fmt).eb) := by rw [← Nat.pow_add, Nat.add_comm]
  have hpow : 2 ^ ((form fmt).p + (form fmt).eb + 1) = 2 * 2 ^ ((form fmt).p + (form fmt).eb) := by ring
  rw [fieldBits, Nat.add_assoc, Nat.mod_eq_of_lt (by cases sign <;> simp only [signBit] <;> simp <;> omega)]
  cases sign
  · simp [signBit, Nat.div_eq_of_lt hlow]
  · simp [signBit, Nat.add_div_left _ (Nat.two_pow_pos _), Nat.div_eq_of_lt hlow]

theorem isSubnormal_fieldBits : isSubnormal fmt (fieldBits fmt sign ex fr) = (ex == 0 && fr != 0) := by
  simp only [isSubnormal, fieldBits_exponent sign hfr hex, fieldBits_fraction sign hfr]

theorem decodeF_fieldBits : decodeF fmt (fieldBits fmt sign ex fr) =
    if hasInf fmt && ex == (form fmt).maxE + 1 then
      if fr == 0 then .inf sign else .nan (fr / 2 ^ ((form fmt).p - 1) == 0)
    else if (fmt == .e4m3 || fmt == .mx8e4) && ex == 15 && fr == 7 then .nan false
    else .fin sign (fieldRatio fmt ex fr).1 (fieldRatio fmt ex fr).2 := by
  have hdvd : ∀ a b : Nat, a ≤ b → (2 : Nat) ^ a ∣ 2 ^ b := fun a b h => pow_dvd_pow 2 h
  have hm : fieldBits fmt sign ex fr % 2 ^ ((form fmt).p + (form fmt).eb + 1) % 2 ^ (form fmt).p = fr := by
    rw [Nat.mod_mod_of_dvd _ (hdvd _ _ (by omega)), fieldBits_fraction sign hfr]
  have he : fieldBits fmt sign ex fr % 2 ^ ((form fmt).p + (form fmt).eb + 1) / 2 ^ (form fmt).p % 2 ^ (form fmt).eb = ex := by
    rw [Nat.add_assoc, Nat.pow_add, Nat.mod_mul_right_div_self, Nat.mod_mod_of_dvd _ (hdvd _ _ (by omega)),
      fieldBits_exponent sign hfr hex]
  have hs : ((if sign then 1 else 0) == 1) = sign := by cases sign <;> rfl
  simp only [decodeF, fieldBits_sign sign hfr hex, he, hm, hs, fieldRatio, beq_iff_eq]

end

/-- The codes up to the largest finite one decode to their magnitudes. -/
theorem decodeF_of_le_top {fmt : Fmt} {k : Nat} (hk : k ≤ topCode fmt) :
    ∃ a b, decodeF fmt k = .fin false a b ∧ (a : ℚ) / b = magnitude fmt k := by
  obtain ⟨-, -, hE, -, hF⟩ := form_bounds fmt
  have hpos : 0 < 2 ^ (form fmt).p := by positivity
  have hfr : k % 2 ^ (form fmt).p < 2 ^ (form fmt).p := Nat.mod_lt _ hpos
  have he : k / 2 ^ (form fmt).p ≤ (form fmt).maxE := by
    refine Nat.le_of_lt_succ (Nat.div_lt_of_lt_mul ?_)
    unfold topCode at hk
    rw [Nat.mul_succ, Nat.mul_comm]
    omega
  have hcode : k = fieldBits fmt false (k / 2 ^ (form fmt).p) (k % 2 ^ (form fmt).p) := by
    simp [fieldBits, signBit, Nat.div_add_mod']
  have hinf : k / 2 ^ (form fmt).p ≠ (form fmt).maxE + 1 := by omega
  have hnan : ¬ ((fmt = .e4m3 ∨ fmt = .mx8e4) ∧ k / 2 ^ (form fmt).p = 15 ∧ k % 2 ^ (form fmt).p = 7) := by
    rintro ⟨rfl | rfl, h15, h7⟩ <;> simp only [topCode, form] at hk h15 h7 <;> omega
  refine ⟨(fieldRatio fmt (k / 2 ^ (form fmt).p) (k % 2 ^ (form fmt).p)).1,
    (fieldRatio fmt (k / 2 ^ (form fmt).p) (k % 2 ^ (form fmt).p)).2, ?decoded, ?ratio⟩
  case decoded =>
    rw [congrArg (decodeF fmt) hcode, decodeF_fieldBits false hfr (he.trans_lt hE), if_neg (by simp [hinf]),
      if_neg (by simpa [and_assoc] using hnan)]
  case ratio =>
    unfold fieldRatio magnitude
    by_cases hsub : k < 2 ^ (form fmt).p
    · rw [if_pos hsub, if_pos (Nat.div_eq_of_lt hsub), scale2_ratio, Nat.mod_eq_of_lt hsub]
    · have h0 : k / 2 ^ (form fmt).p ≠ 0 := (Nat.div_pos (not_lt.mp hsub) hpos).ne'
      rw [if_neg hsub, if_neg h0, scale2_ratio]

/-! ### What the one rounding computes -/

/-- A code is above the largest finite one where its exponent field is, or its fraction in the same exponent field. -/
theorem topCode_lt_iff {fmt : Fmt} {ef m : Nat} (hm : m < 2 ^ (form fmt).p) : topCode fmt < ef * 2 ^ (form fmt).p + m ↔
    ef > (form fmt).maxE ∨ (ef = (form fmt).maxE ∧ m > (form fmt).maxF) := by
  obtain ⟨-, -, -, -, hF⟩ := form_bounds fmt
  unfold topCode
  rcases lt_trichotomy ef (form fmt).maxE with hlt | rfl | hgt
  · have := Nat.mul_le_mul_right (2 ^ (form fmt).p) hlt
    rw [Nat.succ_mul] at this
    omega
  · omega
  · have := Nat.mul_le_mul_right (2 ^ (form fmt).p) hgt
    rw [Nat.succ_mul] at this
    omega

/-- The result with a code: the format's value, or overflow beyond the largest finite one (R169). -/
def packCode (fmt : Fmt) (rm : Rm) (neg : Bool) (c : Nat) (fl : Flags) : Nat × Flags :=
  if topCode fmt < c then overflow fmt rm neg else (signBit fmt neg + c, fl)

theorem packCode_of_le {fmt : Fmt} {rm : Rm} {neg : Bool} {c : Nat} {fl : Flags} (h : c ≤ topCode fmt) :
    packCode fmt rm neg c fl = (signBit fmt neg + c, fl) := if_neg (Nat.not_lt.mpr h)

theorem packCode_of_lt {fmt : Fmt} {rm : Rm} {neg : Bool} {c : Nat} {fl : Flags} (h : topCode fmt < c) :
    packCode fmt rm neg c fl = overflow fmt rm neg := if_pos h

theorem packCode_fields {fmt : Fmt} {ef m : Nat} (hm : m < 2 ^ (form fmt).p) (rm : Rm) (neg : Bool) (fl : Flags) :
    (if ef > (form fmt).maxE || (ef == (form fmt).maxE && m > (form fmt).maxF) then overflow fmt rm neg
      else (signBit fmt neg + ef * 2 ^ (form fmt).p + m, fl)) = packCode fmt rm neg (ef * 2 ^ (form fmt).p + m) fl := by
  simp only [packCode, topCode_lt_iff hm, Bool.or_eq_true, Bool.and_eq_true, decide_eq_true_eq, beq_iff_eq, Nat.add_assoc]

/-- A code from a significand and the exponent of its quantum. -/
def packSig (fmt : Fmt) (rm : Rm) (neg : Bool) (k : Nat) (qe : Int) (fl : Flags) : Nat × Flags :=
  let (k2, q2) := if k == 2 ^ ((form fmt).p + 1) then (2 ^ (form fmt).p, qe + 1) else (k, qe)
  let ef : Nat := if k2 < 2 ^ (form fmt).p then 0 else (q2 + (form fmt).p + (form fmt).bias).toNat
  let m := k2 % 2 ^ (form fmt).p
  if ef > (form fmt).maxE || (ef == (form fmt).maxE && m > (form fmt).maxF) then overflow fmt rm neg
  else (signBit fmt neg + ef * 2 ^ (form fmt).p + m, fl)

theorem packSig_inBinade {fmt : Fmt} {j k : Nat} {qe : Int} (h : InBinade fmt j k)
    (hqe : qe = 1 - ((form fmt).bias : Int) - (form fmt).p + j) (rm : Rm) (neg : Bool) (fl : Flags) :
    packSig fmt rm neg k qe fl = packCode fmt rm neg (j * 2 ^ (form fmt).p + k) fl := by
  obtain ⟨hhigh, hlow⟩ := h
  have hpow : 2 ^ ((form fmt).p + 1) = 2 * 2 ^ (form fmt).p := by ring
  have hpos : 0 < 2 ^ (form fmt).p := by positivity
  have hpack : ∀ ef m : Nat, m < 2 ^ (form fmt).p → j * 2 ^ (form fmt).p + k = ef * 2 ^ (form fmt).p + m → _ :=
    fun ef m hm hc => (packCode_fields hm rm neg fl).trans (congrArg (packCode fmt rm neg · fl) hc.symm)
  unfold packSig
  by_cases hend : k = 2 ^ ((form fmt).p + 1)
  · have hef : (qe + 1 + (form fmt).p + (form fmt).bias).toNat = j + 2 := by omega
    simp only [hend, beq_self_eq_true, if_true, lt_irrefl, if_false, hef, Nat.mod_self]
    exact hend ▸ hpack (j + 2) 0 hpos (by rw [hend, hpow]; ring)
  · simp only [beq_eq_false_iff_ne.mpr hend, Bool.false_eq_true, if_false]
    by_cases hsub : k < 2 ^ (form fmt).p
    · obtain rfl : j = 0 := by omega
      simp only [hsub, if_true, Nat.mod_eq_of_lt hsub]
      exact hpack 0 k hsub rfl
    · have hef : (qe + (form fmt).p + (form fmt).bias).toNat = j + 1 := by omega
      have hm : k % 2 ^ (form fmt).p = k - 2 ^ (form fmt).p := by
        rw [Nat.mod_eq_sub_mod (not_lt.mp hsub), Nat.mod_eq_of_lt (by omega)]
      simp only [hsub, if_false, hef]
      exact hpack (j + 1) _ (Nat.mod_lt _ hpos) (by rw [hm, Nat.succ_mul]; omega)

theorem twoPow_le_topCode (fmt : Fmt) : 2 ^ (form fmt).p ≤ topCode fmt := by
  obtain ⟨-, hE1, -, -, -⟩ := form_bounds fmt
  exact (Nat.le_mul_of_pos_left _ hE1).trans (Nat.le_add_right _ _)

theorem maxFinite_eq (fmt : Fmt) (neg : Bool) : maxFinite fmt neg = signBit fmt neg + topCode fmt := Nat.add_assoc _ _ _

/-- A magnitude is below the least normal one. -/
def isTiny (fmt : Fmt) (n d : Nat) : Bool := decide (ilog n d < 1 - ((form fmt).bias : Int))

/-- The exponent of the quantum in which a magnitude is rounded: that of its own binade, or of the subnormal one. -/
def quantum (fmt : Fmt) (n d : Nat) : Int :=
  (if isTiny fmt n d then 1 - ((form fmt).bias : Int) else ilog n d) - (form fmt).p

/-- The binade of a magnitude. -/
def binadeOf (fmt : Fmt) (n d : Nat) : Nat := (quantum fmt n d - (1 - ((form fmt).bias : Int) - (form fmt).p)).toNat

theorem quantum_eq (fmt : Fmt) (n d : Nat) : quantum fmt n d = 1 - ((form fmt).bias : Int) - (form fmt).p + binadeOf fmt n d := by
  simp only [binadeOf, quantum, isTiny, decide_eq_true_eq]
  split <;> omega

/-- A magnitude divided by its quantum. -/
def quanta (fmt : Fmt) (n d : Nat) : Nat × Nat :=
  if 0 ≤ quantum fmt n d then (n, d * 2 ^ (quantum fmt n d).toNat) else (n * 2 ^ (-quantum fmt n d).toNat, d)

/-- The significand that is the nearest below a magnitude, in its binade. -/
def floorSig (fmt : Fmt) (n d : Nat) : Nat := (quanta fmt n d).1 / (quanta fmt n d).2

/-- What the magnitude has above it, over the denominator of `quanta`. -/
def leftOver (fmt : Fmt) (n d : Nat) : Nat := (quanta fmt n d).1 % (quanta fmt n d).2

/-- The significand that the mode picks. -/
def pickedSig (fmt : Fmt) (rm : Rm) (rnd : Nat) (neg : Bool) (n d : Nat) : Nat :=
  if leftOver fmt n d != 0 && roundUp rm neg (floorSig fmt n d % 2 == 1) (leftOver fmt n d) (quanta fmt n d).2 rnd
  then floorSig fmt n d + 1 else floorSig fmt n d

section
variable {n d : Nat} (hd : d ≠ 0)
include hd

theorem quanta_den_pos (fmt : Fmt) : 0 < (quanta fmt n d).2 := by
  have : 0 < d := Nat.pos_of_ne_zero hd
  unfold quanta
  split <;> positivity

theorem leftOver_lt (fmt : Fmt) : leftOver fmt n d < (quanta fmt n d).2 := Nat.mod_lt _ (quanta_den_pos hd fmt)

theorem quanta_ratio (fmt : Fmt) :
    ((quanta fmt n d).1 : ℚ) / (quanta fmt n d).2 * stepAt fmt (binadeOf fmt n d) = (n : ℚ) / d := by
  have hd' : (d : ℚ) ≠ 0 := by exact_mod_cast hd
  rw [stepAt, ← quantum_eq, quanta]
  split
  · rename_i hq
    obtain ⟨k, hk⟩ := Int.eq_ofNat_of_zero_le hq
    rw [hk, Int.toNat_natCast, zpow_natCast]
    push_cast
    field_simp
  · obtain ⟨k, hk⟩ := Int.eq_ofNat_of_zero_le (a := -quantum fmt n d) (by omega)
    rw [hk, Int.toNat_natCast, ← neg_neg (quantum fmt n d), hk, zpow_neg, zpow_natCast]
    push_cast
    field_simp

/-- A magnitude is its significand and what it has above it. -/
theorem ratio_eq_floorSig (fmt : Fmt) : (n : ℚ) / d =
    (floorSig fmt n d + (leftOver fmt n d : ℚ) / (quanta fmt n d).2) * stepAt fmt (binadeOf fmt n d) := by
  have hden : ((quanta fmt n d).2 : ℚ) ≠ 0 := by exact_mod_cast (quanta_den_pos hd fmt).ne'
  rw [← quanta_ratio hd fmt]
  congr 1
  rw [div_eq_iff hden, add_mul, div_mul_cancel₀ _ hden]
  exact_mod_cast (Nat.div_add_mod' _ _).symm

theorem ratio_floorSig_le (fmt : Fmt) : floorSig fmt n d * stepAt fmt (binadeOf fmt n d) ≤ (n : ℚ) / d := by
  have hu := stepAt_pos fmt (binadeOf fmt n d)
  rw [ratio_eq_floorSig hd fmt]
  gcongr
  exact le_add_of_nonneg_right (by positivity)

theorem ratio_lt_floorSig (fmt : Fmt) : (n : ℚ) / d < (floorSig fmt n d + 1) * stepAt fmt (binadeOf fmt n d) := by
  have hu := stepAt_pos fmt (binadeOf fmt n d)
  have hden : (0 : ℚ) < (quanta fmt n d).2 := by exact_mod_cast quanta_den_pos hd fmt
  rw [ratio_eq_floorSig hd fmt]
  gcongr
  rw [div_lt_one hden]
  exact_mod_cast leftOver_lt hd fmt

theorem leftOver_eq_zero_iff (fmt : Fmt) :
    leftOver fmt n d = 0 ↔ (n : ℚ) / d = floorSig fmt n d * stepAt fmt (binadeOf fmt n d) := by
  have hu := (stepAt_pos fmt (binadeOf fmt n d)).ne'
  have hden : ((quanta fmt n d).2 : ℚ) ≠ 0 := by exact_mod_cast (quanta_den_pos hd fmt).ne'
  rw [ratio_eq_floorSig hd fmt, mul_left_inj' hu, add_eq_left, div_eq_zero_iff, or_iff_left hden, Nat.cast_eq_zero]

variable (hn : n ≠ 0)
include hn

theorem floorSig_lt (fmt : Fmt) : floorSig fmt n d < 2 ^ ((form fmt).p + 1) := by
  have hx : (n : ℚ) / d < 2 ^ ((form fmt).p + 1) * stepAt fmt (binadeOf fmt n d) := by
    rw [stepAt, ← quantum_eq, ← zpow_natCast, ← zpow_add₀ two_ne_zero]
    refine (ilog_bounds hn hd).2.trans_le (zpow_le_zpow_right₀ one_le_two ?_)
    simp only [quantum, isTiny, decide_eq_true_eq]
    split <;> push_cast <;> omega
  have := lt_of_mul_lt_mul_right ((ratio_floorSig_le hd fmt).trans_lt hx) (stepAt_pos fmt _).le
  exact_mod_cast this

theorem floorSig_inBinade (fmt : Fmt) : InBinade fmt (binadeOf fmt n d) (floorSig fmt n d) := by
  refine ⟨(floorSig_lt hd hn fmt).le, ?_⟩
  by_cases htiny : isTiny fmt n d
  · exact .inl (by simp [binadeOf, quantum, htiny])
  · have hx : 2 ^ (form fmt).p * stepAt fmt (binadeOf fmt n d) ≤ (n : ℚ) / d := by
      rw [stepAt, ← quantum_eq, ← zpow_natCast, ← zpow_add₀ two_ne_zero]
      refine le_trans (zpow_le_zpow_right₀ one_le_two ?_) (ilog_bounds hn hd).1
      rw [quantum, if_neg htiny]
      omega
    have := lt_of_mul_lt_mul_right (hx.trans_lt (ratio_lt_floorSig hd fmt)) (stepAt_pos fmt _).le
    exact .inr (Nat.le_of_lt_succ (by exact_mod_cast this))

theorem pickedSig_inBinade (fmt : Fmt) (rm : Rm) (rnd : Nat) (neg : Bool) :
    InBinade fmt (binadeOf fmt n d) (pickedSig fmt rm rnd neg n d) := by
  have hlt := floorSig_lt hd hn fmt
  obtain ⟨-, hlow⟩ := floorSig_inBinade hd hn fmt
  unfold pickedSig
  split
  · exact ⟨hlt, hlow.imp_right fun h => h.trans (Nat.le_succ _)⟩
  · exact ⟨hlt.le, hlow⟩

theorem roundTo_eq_packCode (fmt : Fmt) (rm : Rm) (rnd : Nat) (neg : Bool) : roundTo fmt rm false rnd neg n d =
    packCode fmt rm neg (binadeOf fmt n d * 2 ^ (form fmt).p + pickedSig fmt rm rnd neg n d)
      (flagIf (leftOver fmt n d != 0) fNX |||
        flagIf (leftOver fmt n d != 0 && isTiny fmt n d) fUF) := by
  rw [← packSig_inBinade (pickedSig_inBinade hd hn fmt rm rnd neg) (quantum_eq fmt n d), roundTo, if_neg hn]
  rfl

theorem isTiny_iff (fmt : Fmt) : isTiny fmt n d = true ↔ (n : ℚ) / d < magnitude fmt (2 ^ (form fmt).p) := by
  have hleast : InBinade fmt 0 (2 ^ (form fmt).p) := ⟨Nat.pow_le_pow_right (by decide) (Nat.le_succ _), .inl rfl⟩
  have hmag := magnitude_inBinade hleast
  rw [Nat.zero_mul, Nat.zero_add] at hmag
  rw [isTiny, decide_eq_true_eq, ilog_lt_iff hn hd, hmag, stepAt, Nat.cast_pow, ← zpow_natCast, Nat.cast_ofNat,
    ← zpow_add₀ two_ne_zero]
  congr! 2
  push_cast
  ring

end

/-! ### The neighbours of a magnitude -/

/-- The code of the nearest magnitude below. -/
def floorCode (fmt : Fmt) (n d : Nat) : Nat := binadeOf fmt n d * 2 ^ (form fmt).p + floorSig fmt n d

/-- The mode picks b, of the neighbours a below x, with code k, and b above it (R168). -/
def picksUpper (rm : Rm) (neg : Bool) (rnd k : Nat) (a b x : ℚ) : Bool :=
  match rm with
  | .rne => decide (a + b < 2 * x) || (decide (2 * x = a + b) && k % 2 == 1)
  | .rtz => false
  | .rdn => neg
  | .rup => !neg
  | .rna => decide (a + b ≤ 2 * x)
  | .sr => decide ((rnd : ℚ) / 2 ^ 32 < (x - a) / (b - a))

/-- The choice of `roundUp` by the fraction r / m is that by the values r / m of a step above a. -/
theorem roundUp_eq_picksUpper (rm : Rm) (neg : Bool) (rnd k r m : Nat) (hm : 0 < m) {a u : ℚ} (hu : 0 < u) :
    roundUp rm neg (k % 2 == 1) r m rnd = picksUpper rm neg rnd k a (a + u) (a + r / m * u) := by
  have hm' : (0 : ℚ) < m := by exact_mod_cast hm
  have hmid : a + (a + u) = 2 * a + 1 * u := by ring
  have htwice : 2 * (a + r / m * u) = 2 * a + 2 * r / m * u := by ring
  have hlt : a + (a + u) < 2 * (a + r / m * u) ↔ m < 2 * r := by
    rw [hmid, htwice, add_lt_add_iff_left, mul_lt_mul_iff_left₀ hu, one_lt_div hm']
    exact_mod_cast Iff.rfl
  have hle : a + (a + u) ≤ 2 * (a + r / m * u) ↔ m ≤ 2 * r := by
    rw [hmid, htwice, add_le_add_iff_left, mul_le_mul_iff_left₀ hu, one_le_div hm']
    exact_mod_cast Iff.rfl
  cases rm with
  | rtz | rdn | rup => rfl
  | rna => simp only [roundUp, picksUpper, hle]
  | rne =>
    have htie : 2 * (a + r / m * u) = a + (a + u) ↔ 2 * r = m := by
      rw [le_antisymm_iff, hle, ← not_lt, hlt]
      omega
    simp only [roundUp, picksUpper, hlt, htie]
    rfl
  | sr =>
    have hdraw : (rnd : ℚ) / 2 ^ 32 < (a + r / m * u - a) / (a + u - a) ↔ rnd * m < r * 2 ^ 32 := by
      rw [add_sub_cancel_left, add_sub_cancel_left, mul_div_cancel_right₀ _ hu.ne', div_lt_div_iff₀ (by norm_num) hm']
      exact_mod_cast Iff.rfl
    simp only [roundUp, picksUpper, hdraw]

section
variable {fmt : Fmt} {n d : Nat} (hd : d ≠ 0) (hn : n ≠ 0)
include hd hn

theorem magnitude_floorCode : magnitude fmt (floorCode fmt n d) = floorSig fmt n d * stepAt fmt (binadeOf fmt n d) :=
  magnitude_inBinade (floorSig_inBinade hd hn fmt)

theorem magnitude_floorCode_succ :
    magnitude fmt (floorCode fmt n d + 1) = magnitude fmt (floorCode fmt n d) + stepAt fmt (binadeOf fmt n d) := by
  have hsucc : InBinade fmt (binadeOf fmt n d) (floorSig fmt n d + 1) :=
    ⟨floorSig_lt hd hn fmt, (floorSig_inBinade hd hn fmt).2.imp_right (Nat.le_succ_of_le ·)⟩
  rw [magnitude_floorCode hd hn, floorCode, Nat.add_assoc, magnitude_inBinade hsucc]
  push_cast
  ring

theorem magnitude_floorCode_le : magnitude fmt (floorCode fmt n d) ≤ (n : ℚ) / d := by
  rw [magnitude_floorCode hd hn]
  exact ratio_floorSig_le hd fmt

theorem lt_magnitude_floorCode_succ : (n : ℚ) / d < magnitude fmt (floorCode fmt n d + 1) := by
  rw [magnitude_floorCode_succ hd hn, magnitude_floorCode hd hn, ← add_one_mul]
  exact ratio_lt_floorSig hd fmt

/-- A code whose neighbours hold x between them is the one `roundTo` starts from. -/
theorem floorCode_eq {k : Nat} (hle : magnitude fmt k ≤ (n : ℚ) / d) (hlt : (n : ℚ) / d < magnitude fmt (k + 1)) :
    floorCode fmt n d = k := by
  have hmono := magnitude_strictMono fmt
  have h1 := hmono.lt_iff_lt.mp ((magnitude_floorCode_le hd hn).trans_lt hlt)
  have h2 := hmono.lt_iff_lt.mp (hle.trans_lt (lt_magnitude_floorCode_succ hd hn))
  omega

/-- What `roundTo` answers, by the neighbours of x: the upper one that the mode picks, or the lower one. -/
theorem roundTo_eq_of_floorCode (rm : Rm) (rnd : Nat) (neg : Bool) {k : Nat} (hk : floorCode fmt n d = k) :
    roundTo fmt rm false rnd neg n d =
      if (n : ℚ) / d = magnitude fmt k then packCode fmt rm neg k 0
      else packCode fmt rm neg
        (if picksUpper rm neg rnd k (magnitude fmt k) (magnitude fmt (k + 1)) (n / d) then k + 1 else k)
        (fNX ||| flagIf (isTiny fmt n d) fUF) := by
  subst hk
  have hparity : floorCode fmt n d % 2 = floorSig fmt n d % 2 := by
    obtain ⟨p, hp⟩ := Nat.exists_eq_add_one.mpr (form_bounds fmt).1
    rw [floorCode, hp, Nat.pow_succ, ← Nat.mul_assoc, Nat.mul_add_mod']
  rw [roundTo_eq_packCode hd hn, magnitude_floorCode_succ hd hn]
  by_cases hexact : leftOver fmt n d = 0
  · have hx := (leftOver_eq_zero_iff hd fmt).mp hexact
    rw [if_pos (hx.trans (magnitude_floorCode hd hn).symm)]
    simp [pickedSig, hexact, floorCode, flagIf]
  · have hx : ¬ (n : ℚ) / d = magnitude fmt (floorCode fmt n d) := by
      rw [magnitude_floorCode hd hn, ← leftOver_eq_zero_iff hd fmt]
      exact hexact
    have hval : (n : ℚ) / d = magnitude fmt (floorCode fmt n d) +
        leftOver fmt n d / (quanta fmt n d).2 * stepAt fmt (binadeOf fmt n d) := by
      rw [magnitude_floorCode hd hn, ← add_mul]
      exact ratio_eq_floorSig hd fmt
    have hpick := roundUp_eq_picksUpper rm neg rnd (floorCode fmt n d) (leftOver fmt n d) _ (quanta_den_pos (n := n) hd fmt)
      (a := magnitude fmt (floorCode fmt n d)) (stepAt_pos fmt (binadeOf fmt n d))
    rw [← hval, hparity] at hpick
    have hcode : binadeOf fmt n d * 2 ^ (form fmt).p + pickedSig fmt rm rnd neg n d =
        if picksUpper rm neg rnd (floorCode fmt n d) (magnitude fmt (floorCode fmt n d))
          (magnitude fmt (floorCode fmt n d) + stepAt fmt (binadeOf fmt n d)) (n / d)
        then floorCode fmt n d + 1 else floorCode fmt n d := by
      rw [pickedSig, ← hpick, bne_iff_ne.mpr hexact, Bool.true_and, floorCode, Nat.add_assoc]
      exact apply_ite _ _ _ _
    rw [if_neg hx, hcode, bne_iff_ne.mpr hexact, Bool.true_and]
    rfl

/-- A magnitude that the format holds stays as it is (R168). -/
theorem roundTo_held (rm : Rm) (rnd : Nat) (neg : Bool) {k : Nat} (hk : k ≤ topCode fmt) (hx : magnitude fmt k = (n : ℚ) / d) :
    roundTo fmt rm false rnd neg n d = (signBit fmt neg + k, 0) := by
  have hfloor := floorCode_eq hd hn hx.le (hx.symm.trans_lt (magnitude_strictMono fmt k.lt_succ_self))
  rw [roundTo_eq_of_floorCode hd hn rm rnd neg hfloor, if_pos hx.symm, packCode_of_le hk]

/-- Between two magnitudes of the format the mode picks one (R168). -/
theorem roundTo_between (rm : Rm) (rnd : Nat) (neg : Bool) {k : Nat} (hk : k < topCode fmt)
    (hlo : magnitude fmt k < (n : ℚ) / d) (hhi : (n : ℚ) / d < magnitude fmt (k + 1)) : roundTo fmt rm false rnd neg n d =
      (signBit fmt neg + (if picksUpper rm neg rnd k (magnitude fmt k) (magnitude fmt (k + 1)) (n / d) then k + 1 else k),
        fNX ||| flagIf (isTiny fmt n d) fUF) := by
  rw [roundTo_eq_of_floorCode hd hn rm rnd neg (floorCode_eq hd hn hlo.le hhi), if_neg hlo.ne']
  refine packCode_of_le ?_
  split
  · exact hk
  · exact hk.le

/-- Beyond the largest finite magnitude the step above it is the neighbour, and what is picked above overflows (R169). -/
theorem roundTo_above (rm : Rm) (rnd : Nat) (neg : Bool) (hx : magnitude fmt (topCode fmt) < (n : ℚ) / d) :
    roundTo fmt rm false rnd neg n d = if magnitude fmt (topCode fmt + 1) ≤ (n : ℚ) / d ∨ picksUpper rm neg rnd (topCode fmt)
        (magnitude fmt (topCode fmt)) (magnitude fmt (topCode fmt + 1)) (n / d) = true
      then overflow fmt rm neg else (maxFinite fmt neg, fNX) := by
  by_cases hfar : magnitude fmt (topCode fmt + 1) ≤ (n : ℚ) / d
  · have hcode : topCode fmt < floorCode fmt n d :=
      Nat.lt_of_succ_lt_succ ((magnitude_strictMono fmt).lt_iff_lt.mp (hfar.trans_lt (lt_magnitude_floorCode_succ hd hn)))
    rw [if_pos (.inl hfar), roundTo_eq_of_floorCode hd hn rm rnd neg rfl, packCode_of_lt hcode, packCode_of_lt, ite_self]
    split
    · exact hcode.trans (Nat.lt_succ_self _)
    · exact hcode
  · have hnormal : ¬ isTiny fmt n d = true := by
      rw [isTiny_iff hd hn, not_lt]
      exact ((magnitude_strictMono fmt).monotone (twoPow_le_topCode fmt)).trans hx.le
    rw [roundTo_eq_of_floorCode hd hn rm rnd neg (floorCode_eq hd hn hx.le (not_le.mp hfar)), if_neg hx.ne']
    simp only [hfar, false_or]
    split
    · exact packCode_of_lt (Nat.lt_succ_self _)
    · rw [packCode_of_le le_rfl, maxFinite_eq, flagIf, if_neg hnormal]
      rfl

end

/-! ### The obligation -/

/-- The step after the largest finite magnitude is as long as the one before it. -/
theorem magnitude_topCode_succ (fmt : Fmt) :
    2 * magnitude fmt (topCode fmt) - magnitude fmt (topCode fmt - 1) = magnitude fmt (topCode fmt + 1) := by
  obtain ⟨-, hE1, -, hF1, hF⟩ := form_bounds fmt
  obtain ⟨j, hj⟩ := Nat.exists_eq_add_one.mpr hE1
  obtain ⟨m, hm⟩ := Nat.exists_eq_add_one.mpr hF1
  have hpow : 2 ^ ((form fmt).p + 1) = 2 * 2 ^ (form fmt).p := by ring
  have hat : ∀ i ≤ m + 2, magnitude fmt (j * 2 ^ (form fmt).p + (2 ^ (form fmt).p + i)) =
      (2 ^ (form fmt).p + i : Nat) * stepAt fmt j := fun i hi => magnitude_inBinade ⟨by omega, .inr (Nat.le_add_right _ _)⟩
  have htop : topCode fmt = j * 2 ^ (form fmt).p + (2 ^ (form fmt).p + (m + 1)) := by
    rw [topCode, hj, hm, Nat.succ_mul, Nat.add_assoc]
  have hbelow : topCode fmt - 1 = j * 2 ^ (form fmt).p + (2 ^ (form fmt).p + m) := by omega
  have habove : topCode fmt + 1 = j * 2 ^ (form fmt).p + (2 ^ (form fmt).p + (m + 2)) := by omega
  rw [hbelow, habove, htop, hat _ (by omega), hat _ (by omega), hat _ (by omega)]
  push_cast
  ring

theorem overflow_eq (fmt : Fmt) (rm : Rm) (neg : Bool) : overflow fmt rm neg =
    (if hasInf fmt = false ∨ rm = .rtz ∨ (rm = .rdn ∧ neg = false) ∨ (rm = .rup ∧ neg = true) then maxFinite fmt neg
      else encInf fmt neg, fOF ||| fNX) := by
  cases h : hasInf fmt <;> cases rm <;> cases neg <;> simp [overflow, h]

theorem roundTo_ftz (fmt : Fmt) (rm : Rm) (rnd : Nat) (neg : Bool) {n : Nat} (hn : n ≠ 0) (d : Nat) :
    roundTo fmt rm true rnd neg n d =
      if isTiny fmt n d && ftzActs fmt then (encZero fmt neg, fUF ||| fNX) else roundTo fmt rm false rnd neg n d := by
  simp only [roundTo, if_neg hn, Bool.true_and, Bool.false_and, Bool.false_eq_true, if_false]
  rfl

/-- Settles O5: `roundTo` starts from the code below x and what x has above it, so its answer is that of the neighbours of x,
and a code above the largest finite one is an overflow. -/
theorem roundingPicksTheNeighbour : Obligations.RoundingPicksTheNeighbour := by
  unfold Obligations.RoundingPicksTheNeighbour
  intro fmt rm rnd n d neg hn hd mag x top next tiny up res
  have htop : top = topCode fmt := (maxFinite_eq fmt false).trans (Nat.zero_add _)
  have hmag : ∀ k ≤ topCode fmt, mag k = magnitude fmt k := by
    intro k hk
    obtain ⟨a, b, hdec, hval⟩ := decodeF_of_le_top hk
    simp only [mag, hdec, hval]
  have hnext : next = magnitude fmt (topCode fmt + 1) := by
    rw [← magnitude_topCode_succ, ← hmag _ le_rfl, ← hmag _ (Nat.sub_le _ _), ← htop]
  have htiny : tiny = isTiny fmt n d := by
    rw [Bool.eq_iff_iff, isTiny_iff hd hn, ← hmag _ (twoPow_le_topCode fmt)]
    exact decide_eq_true_iff
  have hup : ∀ k a b, up k a b = picksUpper rm neg rnd k a b x := fun k a b => by cases rm <;> rfl
  refine ⟨?held, ?between, ?above, ?flushed, overflow_eq fmt rm neg⟩
  case held => exact fun k hk hx => roundTo_held hd hn rm rnd neg (htop ▸ hk) ((hmag k (htop ▸ hk)).symm.trans hx)
  case between =>
    intro k hk hlo hhi
    rw [htop] at hk
    rw [hmag k hk.le] at hlo
    rw [hmag (k + 1) hk] at hhi
    rw [hup, htiny, hmag k hk.le, hmag (k + 1) hk]
    exact roundTo_between hd hn rm rnd neg hk hlo hhi
  case above =>
    intro hx
    rw [htop, hmag _ le_rfl] at hx
    rw [hup, hnext, htop, hmag _ le_rfl]
    exact roundTo_above hd hn rm rnd neg hx
  case flushed =>
    rw [roundTo_ftz fmt rm rnd neg hn d, htiny]

end Sys2Proof.Machine
end

section
namespace Sys2Proof.Machine

/-! ## Scalar floating instructions (R173, R194 to R198) -/

/-- A floating operator of which an element has raised an enabled flag (R173). -/
theorem evalOp_float_error {w : OpFields} {f : Firing} {e : Env} {a b c : Bool} {rs : List Res} {fl : ElemFlags} {t : Tag} {k : Nat}
    (hk : f.Kinds a b c) (ht : outTag w f e = .ok t) (hfp : firstElem (enabledFlags e.fpen) fl = some k) :
    evalOp w f e (a, b, c) (.ok ()) true (.ok (rs, fl)) =
      .error { trapOf 0x0D (fpCode (orAll fl &&& enabledFlags e.fpen)) with
        elem := k, flags := orAll fl, need := resLines (.ok (rs, fl)) } := by
  simp only [evalOp, checkKinds_ok hk, ht, tagFlags, withNeed, bind, Except.bind, fpCheck, hfp, if_true]
  rfl

/-! ### A firing with clean scalar operands commits its result, or raises FP_EXCEPT (R173) -/

/-- FP_EXCEPT of a scalar firing with these flags (R173). -/
def fpTrap (fpen : BitVec 8) (fl : Flags) : Trap :=
  { trapOf 0x0D (fpCode (fl &&& enabledFlags fpen)) with elem := 0, flags := fl }

section
variable {w : OpFields} {f : Firing} {e : Env} {t : Tag} {v : Word64} {fl : Flags}

theorem firstElem_scalar (fpen : BitVec 8) (fl : Flags) :
    firstElem (enabledFlags fpen) [(0, fl)] = if enabledBy fpen fl then some 0 else none := rfl

theorem evalFloat_clean (hc : f.Clean) (fmt : Fmt) (r : Nat × Flags) :
    evalFloat w f e fmt r = evalFloatInt w f e (BitVec.ofNat 64 r.1) r.2 := by
  simp only [evalFloat, evalFloatInt, Firing.poisoned_clean hc, Bool.false_and, Bool.false_eq_true, if_false]

variable (hk : f.Scalars) (hc : f.Clean) (ht : outTag w f e = .ok t)
include hk hc ht

theorem evalFloatInt_quiet (hq : enabledBy e.fpen fl = false) :
    evalFloatInt w f e v fl = .ok ⟨[f.scalarOut t v], fl⟩ := by
  have hfirst : firstElem (enabledFlags e.fpen) (cleanFlags f fl) = none := by
    simp only [cleanFlags, Firing.poisoned_clean hc, Bool.false_eq_true, if_false, firstElem_scalar, hq]
  rw [evalFloatInt, evalOp_float_ok hk ht hfirst]
  simp only [cleanFlags, Firing.poisoned_clean hc, Bool.false_eq_true, if_false, orAll_one, scalarRes]
  rfl

theorem evalFloatInt_loud (hl : enabledBy e.fpen fl = true) : evalFloatInt w f e v fl = .error (fpTrap e.fpen fl) := by
  have hfirst : firstElem (enabledFlags e.fpen) [(0, fl)] = some 0 := by rw [firstElem_scalar, hl]; rfl
  simp only [evalFloatInt, cleanFlags, Firing.poisoned_clean hc, Bool.false_eq_true, if_false]
  rw [evalOp_float_error hk ht hfirst, orAll_one]
  rfl

end

/-- What comes of an instruction whose result is v with flags fl. -/
theorem outcomes_of_evalFloatInt {i : Instr} {w : OpFields} {s : State} {f : Firing} {t : Tag} {v : Word64} {fl : Flags}
    {g : Firing → Env → Ex Commit} (hk : f.Scalars) (hc : f.Clean) (hexec : exec i s = runOp s g)
    (hg : g f (s.env f) = evalFloatInt w f (s.env f) v fl) (ht : outTag w f (s.env f) = .ok t) :
    (enabledBy (s.env f).fpen fl = false → Commits i s f [f.scalarOut t v] fl) ∧
    (enabledBy (s.env f).fpen fl = true → Traps i s f (fpTrap (s.env f).fpen fl)) :=
  ⟨fun hq => commits_of_ok hexec (hg.trans (evalFloatInt_quiet hk hc ht hq)),
    fun hl => traps_of_error hexec (hg.trans (evalFloatInt_loud hk hc ht hl)) rfl⟩

/-! ### The exact operations, on NaN, infinities and zeros (R194) -/

section
variable {x y z : FV}

theorem flagIf_eq_iff (c : Bool) : flagIf c fIV = fIV ↔ c := by cases c <;> decide

theorem ivSig_pair : ivSig [x, y] = fIV ↔ x.isSig ∨ y.isSig := (flagIf_eq_iff _).trans (by simp)

theorem ivSig_triple : ivSig [x, y, z] = fIV ↔ x.isSig ∨ y.isSig ∨ z.isSig := (flagIf_eq_iff _).trans (by simp)

theorem FV.isNan_iff : x.isNan = true ↔ ∃ s, x = .nan s := by
  cases x <;> simp [FV.isNan]

@[simp] theorem FV.isNan_inf (s : Bool) : (FV.inf s).isNan = false := rfl

theorem FV.isInf_iff : x.isInf = true ↔ ∃ s, x = .inf s := by
  cases x <;> simp [FV.isInf]

theorem FV.isZero_iff : x.isZero = true ↔ ∃ s d, x = .fin s 0 d := by
  cases x <;> simp [FV.isZero]

theorem fvAdd_nan (rm : Rm) (h : x.isNan ∨ y.isNan) : fvAdd rm x y = (.nan false, ivSig [x, y]) := by
  rcases h with h | h <;> obtain ⟨s, rfl⟩ := FV.isNan_iff.mp h
  · rfl
  · cases x <;> rfl

theorem fvMul_nan (h : x.isNan ∨ y.isNan) : fvMul x y = (.nan false, ivSig [x, y]) := by
  rcases h with h | h <;> obtain ⟨s, rfl⟩ := FV.isNan_iff.mp h
  · rfl
  · cases x <;> rfl

theorem fvDiv_nan (h : x.isNan ∨ y.isNan) : fvDiv x y = (.nan false, ivSig [x, y]) := by
  rcases h with h | h <;> obtain ⟨s, rfl⟩ := FV.isNan_iff.mp h
  · rfl
  · cases x <;> rfl

/-- 0 times an infinity, either way round. -/
def ZeroTimesInf (x y : FV) : Prop := (x.isZero ∧ y.isInf) ∨ (x.isInf ∧ y.isZero)

theorem fvFma_zero_inf (rm : Rm) (h : ZeroTimesInf x y) : fvFma rm x y z = (.nan false, fIV) := by
  refine if_pos ?_
  rcases h with ⟨h1, h2⟩ | ⟨h1, h2⟩ <;> simp [h1, h2]

theorem fvFma_nan (rm : Rm) (h0 : ¬ ZeroTimesInf x y) (h : x.isNan ∨ y.isNan ∨ z.isNan) :
    fvFma rm x y z = (.nan false, ivSig [x, y, z]) := by
  unfold ZeroTimesInf at h0
  rw [fvFma, if_neg (by simpa [or_comm] using h0), if_pos (by simpa [or_assoc] using h)]

theorem fvAdd_opposite_infs (rm : Rm) (p : Bool) : fvAdd rm (.inf p) (.inf !p) = (.nan false, fIV) := by
  cases p <;> rfl

/-- An infinite product, and an infinity of the other sign added. -/
theorem fvFma_opposite_infs (rm : Rm) (hx : x.isNan = false) (hy : y.isNan = false) {p : Bool} (hmul : fvMul x y = (.inf p, 0)) :
    fvFma rm x y (.inf !p) = (.nan false, fIV) := by
  by_cases h0 : ZeroTimesInf x y
  · exact fvFma_zero_inf rm h0
  · unfold ZeroTimesInf at h0
    rw [fvFma, if_neg (by simpa [or_comm] using h0), if_neg (by simp [hx, hy])]
    simp only [hmul, fvAdd_opposite_infs]
    rfl

theorem fvMul_zero_inf (hx : x.isZero) (hy : y.isInf) : fvMul x y = (.nan false, fIV) ∧ fvMul y x = (.nan false, fIV) := by
  obtain ⟨s, d, rfl⟩ := FV.isZero_iff.mp hx
  obtain ⟨t, rfl⟩ := FV.isInf_iff.mp hy
  exact ⟨rfl, rfl⟩

theorem fvDiv_zeros (hx : x.isZero) (hy : y.isZero) : fvDiv x y = (.nan false, fIV) := by
  obtain ⟨s, d, rfl⟩ := FV.isZero_iff.mp hx
  obtain ⟨t, e, rfl⟩ := FV.isZero_iff.mp hy
  rfl

theorem fvDiv_infs (hx : x.isInf) (hy : y.isInf) : fvDiv x y = (.nan false, fIV) := by
  obtain ⟨s, rfl⟩ := FV.isInf_iff.mp hx
  obtain ⟨t, rfl⟩ := FV.isInf_iff.mp hy
  rfl

theorem fvDiv_by_zero {p : Bool} {n d : Nat} (hn : n ≠ 0) (hy : y.isZero) : fvDiv (.fin p n d) y = (.inf (p != y.sign), fDZ) := by
  obtain ⟨t, e, rfl⟩ := FV.isZero_iff.mp hy
  simp [fvDiv, hn, FV.sign]

theorem fvDiv_by_inf (p : Bool) (n d : Nat) (hy : y.isInf) : fvDiv (.fin p n d) y = (.fin (p != y.sign) 0 1, 0) := by
  obtain ⟨t, rfl⟩ := FV.isInf_iff.mp hy
  rfl

theorem fvSqrt_negative (hnan : x.isNan = false) (hzero : x.isZero = false) (hneg : x.sign = true) :
    fvSqrt x = (.nan false, fIV) := by
  cases x with
  | nan s => cases hnan
  | inf s => exact if_pos hneg
  | fin s n d => exact (if_neg (Bool.not_eq_true _ ▸ hzero)).trans (if_pos hneg)

theorem fvSqrt_nan (h : x.isNan) : fvSqrt x = (.nan false, flagIf x.isSig fIV) := by
  obtain ⟨s, rfl⟩ := FV.isNan_iff.mp h
  rfl

/-- Two equal magnitudes: zeros of one sign keep it, and magnitudes of opposite signs cancel (R168). -/
theorem fvAdd_zeros (rm : Rm) (p : Bool) (d e : Nat) : fvAdd rm (.fin p 0 d) (.fin p 0 e) = (.fin p 0 1, 0) := by
  simp [fvAdd, sumFin]

theorem fvAdd_cancel (rm : Rm) {p q : Bool} (hpq : p ≠ q) {n d m e : Nat} (h : n * e = m * d) :
    fvAdd rm (.fin p n d) (.fin q m e) = (.fin (rm == .rdn) 0 1, 0) := by
  simp [fvAdd, sumFin, hpq, h]

end

/-! ### The one rounding, of what is no nonzero number -/

theorem roundTo_tiny {fmt : Fmt} (hacts : ftzActs fmt = true) {n d : Nat} (hn : n ≠ 0)
    (htiny : ilog n d < 1 - ((form fmt).bias : Int)) (rm : Rm) (rnd : Nat) (neg : Bool) :
    roundTo fmt rm true rnd neg n d = (encZero fmt neg, fUF ||| fNX) := by
  rw [roundTo_ftz fmt rm rnd neg hn, show isTiny fmt n d = true from decide_eq_true htiny, hacts]
  rfl

/-- Each instruction of R194 rounds its exact value once. -/
theorem exactFloat_eval {i : Instr} {f : Firing} {w : OpFields} {r : FV × Flags} (h : exactFloat f i = some (w, r)) :
    ∃ g : Firing → Env → Ex Commit, (∀ s, exec i s = runOp s g) ∧ ∀ e, g f e = evalFloat w f e w.fmt (rounded w f e r) := by
  cases i with
  | fadd w | fsub w | fmul w | ffma w | fdiv w | fsqrt w =>
    cases h
    exact ⟨_, fun _ => rfl, fun _ => rfl⟩
  | _ => cases h

/-- The worked conversions of R171, and FTZ in one of them. -/
theorem conversions_worked :
    let turn (src dst : Fmt) (rm : Rm) (ftz : Bool) (bits : Nat) : Nat × Flags := toFloat dst rm ftz 0 (readF src ftz bits)
    turn .f32 .bf16 .rne false 0x3F808000 = (0x3F80, fNX) ∧ turn .f32 .bf16 .rna false 0x3F808000 = (0x3F81, fNX) ∧
      turn .f32 .bf16 .rne false 0x3F818000 = (0x3F82, fNX) ∧ turn .f32 .e4m3 .rtz false 0x43FA0000 = (0x7E, fOF ||| fNX) ∧
      turn .f32 .e4m3 .rne false 0xC3FA0000 = (0xFE, fOF ||| fNX) ∧ turn .f32 .e2m1 .rne false 0x3E99999A = (0x1, fUF ||| fNX) ∧
      turn .f32 .f16 .rne false 0x35800000 = (0x0010, 0) ∧ turn .f32 .f16 .rne true 0x35800000 = (0x0000, fUF ||| fNX) ∧
      turn .f32 .f16 .rne false 0x7F800001 = (0x7E00, fIV) ∧ turn .f32 .e4m3 .rne false 0x7F800000 = (0x7F, fIV) ∧
      toInteger .s8 .rtz 0 (readF .f32 false 0x43964000) = (127, fIV) ∧
      toInteger .s32 .rne 0 (readF .f32 false 0xC06CCCCD) = (-4, fNX) ∧
      toFloat .f32 .rne false 0 (fvOfInt 16777217) = (0x4B800000, fNX) := by
  decide +kernel

/-- Settles O4: an instruction of R194 delivers its exact value once; the special cases are the branches of the exact
operations and of the one rounding. -/
theorem floatArithmetic : Obligations.FloatArithmetic := by
  unfold Obligations.FloatArithmetic
  refine ⟨?instructions, ?special, ?delivered, conversions_worked⟩
  case instructions =>
    intro i w v fl s f t h hk hc ht
    obtain ⟨g, hexec, hg⟩ := exactFloat_eval h
    exact outcomes_of_evalFloatInt hk hc (hexec s) ((hg _).trans (evalFloat_clean hc _ _)) ht
  case special =>
    intro rm x y z
    refine ⟨?nan, ?infs, fvMul_zero_inf, fvDiv_zeros, fvDiv_infs, ?byZero, ?byInf, fvSqrt_negative, ?sqrtInf, ?sqrtZero,
      ?sqrtNan, fvFma_zero_inf rm, ?fmaNan, ?fmaInfs, ?cancel⟩
    case nan =>
      intro h
      rw [fvAdd_nan rm h, fvMul_nan h, fvDiv_nan h]
      exact ⟨rfl, rfl, rfl, ivSig_pair, ivSig_pair, ivSig_pair⟩
    case infs =>
      rintro p rfl rfl
      exact fvAdd_opposite_infs rm p
    case byZero =>
      rintro p n d rfl hn
      exact fvDiv_by_zero hn
    case byInf =>
      rintro p n d rfl
      exact fvDiv_by_inf p n d
    case sqrtInf =>
      rintro rfl
      rfl
    case sqrtZero =>
      rintro p d rfl
      rfl
    case sqrtNan =>
      intro h
      rw [fvSqrt_nan h]
      exact ⟨rfl, flagIf_eq_iff _⟩
    case fmaNan =>
      intro h0 h
      rw [fvFma_nan rm h0 h]
      exact ⟨rfl, ivSig_triple⟩
    case fmaInfs =>
      rintro hx hy p hmul rfl
      exact fvFma_opposite_infs rm hx hy hmul
    case cancel =>
      rintro p n d q m e rfl rfl h
      refine ⟨?_, fun hpq => ⟨1, fvAdd_cancel rm hpq h⟩⟩
      rintro rfl rfl rfl
      exact ⟨1, fvAdd_zeros rm p d e⟩
  case delivered =>
    intro fmt ro k p
    refine ⟨fun _ => rfl, rfl, fun _ => rfl, fun n d hn hftz hacts htiny => ?_⟩
    rw [deliver, hftz]
    exact roundTo_tiny hacts hn htiny _ _ _

end Sys2Proof.Machine
end

section
namespace Sys2Proof.Machine

/-! ## Selection, comparison and conversion of floats (R195 to R198) -/

/-! ### The order of values (R195, R196) -/

/-- A finite value has a denominator that is no zero. -/
def FV.Proper : FV → Prop
  | .fin _ _ d => 0 < d
  | _ => True

theorem decodeF_proper (fmt : Fmt) (bits : Nat) : (decodeF fmt bits).Proper := by
  unfold decodeF
  extract_lets q x s e m
  split_ifs
  · trivial
  · trivial
  · trivial
  · exact scale2_den_pos _ _
  · exact scale2_den_pos _ _

theorem readF_proper (fmt : Fmt) (ftz : Bool) (bits : Nat) : (readF fmt ftz bits).Proper := by
  have h := decodeF_proper fmt bits
  unfold readF
  split
  · rename_i hdec
    rw [hdec] at h
    split
    · exact Nat.one_pos
    · exact h
  · exact h

/-- A numerator with its sign. -/
def signedNum (s : Bool) (n : Nat) : Int := if s then -(n : Int) else n

theorem FV.rat_fin (s : Bool) (n d : Nat) : (FV.fin s n d).rat = signedNum s n / d := by
  cases s <;> simp [FV.rat, signedNum, neg_div]

theorem fvLt_fin {d e : Nat} (hd : 0 < d) (he : 0 < e) (s t : Bool) (n m : Nat) :
    fvLt (.fin s n d) (.fin t m e) = (FV.fin s n d).less (.fin t m e) := by
  have hd' : (0 : ℚ) < d := by exact_mod_cast hd
  have he' : (0 : ℚ) < e := by exact_mod_cast he
  have hmul : ∀ (b : Bool) (i j : Nat), (if b then -((i * j : Nat) : Int) else (i * j : Nat)) = signedNum b i * j := by
    intro b i j
    cases b <;> simp [signedNum]
  rw [FV.less, FV.rat_fin, FV.rat_fin, fvLt]
  simp only [hmul, div_lt_div_iff₀ hd' he']
  exact_mod_cast rfl

theorem fvLt_eq_less {x y : FV} (hx : x.Proper) (hy : y.Proper) : fvLt x y = x.less y := by
  cases x with
  | nan => rfl
  | inf => cases y <;> rfl
  | fin s n d =>
    cases y with
    | nan | inf => rfl
    | fin t m e => exact fvLt_fin hx hy s t n m

section
variable {x y : FV}

theorem FV.less_asymm (h : x.less y = true) : y.less x = false := by
  cases x with
  | nan => cases h
  | inf s => cases y <;> simp_all [FV.less]
  | fin s n d =>
    cases y with
    | nan | inf => simp_all [FV.less]
    | fin t m e => exact decide_eq_false (of_decide_eq_true h).asymm

theorem FV.less_zeros (hx : x.isZero = true) (hy : y.isZero = true) : x.less y = false := by
  obtain ⟨s, d, rfl⟩ := FV.isZero_iff.mp hx
  obtain ⟨t, e, rfl⟩ := FV.isZero_iff.mp hy
  simp [FV.less, FV.rat_fin, signedNum]

theorem FV.under_asymm (h : x.under y = true) : y.under x = false := by
  simp only [FV.under, Bool.or_eq_true, Bool.and_eq_true] at h
  rcases h with h | ⟨⟨⟨hx, hy⟩, -⟩, hsign⟩
  · have hzero : (y.isZero && x.isZero) = false := by
      rw [Bool.eq_false_iff, Ne, Bool.and_eq_true]
      exact fun hz => by simp [FV.less_zeros hz.2 hz.1] at h
    simp [FV.under, FV.less_asymm h, hzero]
  · simp_all [FV.under, FV.less_zeros hy hx]

theorem ivSig_eq : ivSig [x, y] = flagIf (x.isSig || y.isSig) fIV := by
  simp [ivSig]

theorem fvEq_eq (hx : x.Proper) (hy : y.Proper) :
    fvEq x y = (!(x.isNan || y.isNan) && !x.less y && !y.less x) := by
  simp [fvEq, fvLt_eq_less hx hy, fvLt_eq_less hy hx]

end

/-! ### FMIN and FMAX (R195) -/

/-- What FMIN and FMAX return of an operand with value v and bits z: its bits, or the zero that FTZ makes of them. -/
def flushedBits (fmt : Fmt) (ftz : Bool) (v : FV) (z : Nat) : Nat :=
  if ftz && isSubnormal fmt z then encZero fmt v.sign else z

theorem isF_iff {fmt : Fmt} : Enc.Fmt.isF fmt = true ↔ fmt = .f32 ∨ fmt = .f16 ∨ fmt = .bf16 := by
  simp [Enc.Fmt.isF, or_assoc]

theorem ftzActs_of_isF {fmt : Fmt} (hf : Enc.Fmt.isF fmt = true) : ftzActs fmt = true := by
  rcases isF_iff.mp hf with rfl | rfl | rfl <;> rfl

section
variable {fmt : Fmt} {ftz : Bool} {a b : Nat} {x y : FV} (hx : readF fmt ftz a = x) (hy : readF fmt ftz b = y)
include hx hy

theorem fMinMax_eq (hf : Enc.Fmt.isF fmt = true) (ha : a < 2 ^ width fmt) (hb : b < 2 ^ width fmt) (max : Bool) :
    fMinMax fmt ftz max a b =
      if x.isNan && y.isNan then (canonNaN fmt, ivSig [x, y])
      else if x.isNan then (flushedBits fmt ftz y b, ivSig [x, y])
      else if y.isNan then (flushedBits fmt ftz x a, ivSig [x, y])
      else if max then (if x.under y then flushedBits fmt ftz y b else flushedBits fmt ftz x a, ivSig [x, y])
      else (if y.under x then flushedBits fmt ftz y b else flushedBits fmt ftz x a, ivSig [x, y]) := by
  have hpx : x.Proper := hx ▸ readF_proper ..
  have hpy : y.Proper := hy ▸ readF_proper ..
  simp only [fMinMax, hx, hy, ftzActs_of_isF hf, Bool.and_true, Nat.mod_eq_of_lt ha, Nat.mod_eq_of_lt hb, fvLt_eq_less hpx hpy,
    fvLt_eq_less hpy hpx, flushedBits, FV.under, Bool.and_comm y.isZero x.isZero]
  rfl

end

/-! ### FCLASS (R198) -/

/-- The bit of the class that R198 gives a sign, an exponent field and a fraction. -/
def classBit (fmt : Fmt) (sign : Bool) (ex fr : Nat) : Nat :=
  if hasInf fmt = true ∧ ex = (form fmt).maxE + 1 then
    if fr = 0 then (if sign then 0 else 7) else if 2 ^ ((form fmt).p - 1) ≤ fr then 9 else 8
  else if (fmt = .e4m3 ∨ fmt = .mx8e4) ∧ ex = 15 ∧ fr = 7 then 9
  else if ex = 0 then (if fr = 0 then (if sign then 3 else 4) else if sign then 2 else 5)
  else if sign then 1 else 6

theorem fieldRatio_num_eq_zero {fmt : Fmt} {ex fr : Nat} : (fieldRatio fmt ex fr).1 = 0 ↔ ex = 0 ∧ fr = 0 := by
  unfold fieldRatio
  split
  · rename_i h
    rw [scale2_num_eq_zero, and_iff_right h]
  · rename_i h
    have : 0 < 2 ^ (form fmt).p := by positivity
    rw [scale2_num_eq_zero]
    omega

theorem fclassBits_fieldBits {fmt : Fmt} {ex fr : Nat} (sign : Bool) (hex : ex < 2 ^ (form fmt).eb) (hfr : fr < 2 ^ (form fmt).p) :
    fclassBits fmt (fieldBits fmt sign ex fr) = 2 ^ classBit fmt sign ex fr := by
  rw [fclassBits, decodeF_fieldBits sign hfr hex, isSubnormal_fieldBits sign hfr hex]
  by_cases htop : hasInf fmt = true ∧ ex = (form fmt).maxE + 1
  · by_cases h0 : fr = 0
    · cases sign <;> simp [classBit, htop, h0]
    · by_cases hquiet : 2 ^ ((form fmt).p - 1) ≤ fr
      · have hdiv : fr / 2 ^ ((form fmt).p - 1) ≠ 0 := (Nat.div_pos hquiet (by positivity)).ne'
        simp [classBit, htop, h0, hquiet, hdiv]
      · have hdiv : fr / 2 ^ ((form fmt).p - 1) = 0 := Nat.div_eq_of_lt (not_le.mp hquiet)
        simp [classBit, htop, h0, hquiet, hdiv]
  · have hinf : ¬ (hasInf fmt && ex == (form fmt).maxE + 1) = true := by simpa using htop
    have hiff : ((fmt == .e4m3 || fmt == .mx8e4) && ex == 15 && fr == 7) = true ↔
        (fmt = .e4m3 ∨ fmt = .mx8e4) ∧ ex = 15 ∧ fr = 7 := by simp [and_assoc]
    by_cases hnan : (fmt = .e4m3 ∨ fmt = .mx8e4) ∧ ex = 15 ∧ fr = 7
    · rw [if_neg hinf, if_pos (hiff.mpr hnan), classBit, if_neg htop, if_pos hnan]
      rfl
    · rw [if_neg hinf, if_neg (mt hiff.mp hnan), classBit, if_neg htop, if_neg hnan]
      by_cases hex0 : ex = 0
      · by_cases hfr0 : fr = 0
        · cases sign <;> simp [fieldRatio_num_eq_zero, hex0, hfr0]
        · cases sign <;> simp [fieldRatio_num_eq_zero, hex0, hfr0]
      · cases sign <;> simp [fieldRatio_num_eq_zero, hex0]

/-! ### ABS and NEG of a float (R195) -/

/-- The payload with a number of w bits, from its bits. -/
theorem zeroExtend_eq_ofNat {w n : Nat} {y : BitVec w} (h : ∀ i < w, y.getLsbD i = n.testBit i) (hn : n < 2 ^ w) :
    y.zeroExtend 64 = BitVec.ofNat 64 n := by
  have hy : y = BitVec.ofNat w n := BitVec.eq_of_getLsbD_eq fun i hi => by rw [h i hi, BitVec.getLsbD_ofNat, decide_eq_true hi]; rfl
  rw [hy]
  exact BitVec.eq_of_toNat_eq (by simp [Nat.mod_eq_of_lt hn])

section
variable {w : Nat} (hw : 0 < w) (x : BitVec w)
include hw

theorem clearSign_eq : (x &&& ~~~BitVec.twoPow w (w - 1)).zeroExtend 64 = BitVec.ofNat 64 (x.toNat % 2 ^ (w - 1)) := by
  obtain ⟨m, rfl⟩ := Nat.exists_eq_add_one.mpr hw
  rw [Nat.add_sub_cancel]
  have hlow : x.toNat % 2 ^ m < 2 ^ m := Nat.mod_lt _ (Nat.two_pow_pos _)
  refine zeroExtend_eq_ofNat (fun i hi => ?_) (by omega)
  rw [BitVec.getLsbD_and, BitVec.getLsbD_not, BitVec.getLsbD_twoPow, Nat.testBit_mod_two_pow, BitVec.testBit_toNat]
  rcases Nat.lt_succ_iff_lt_or_eq.mp hi with h | rfl
  · simp [hi, h, h.ne']
  · simp

theorem flipSign_eq {fmt : Fmt} (hfmt : width fmt = w) :
    (x ^^^ BitVec.twoPow w (w - 1)).zeroExtend 64 = BitVec.ofNat 64 (floatNeg fmt x.toNat) := by
  obtain ⟨m, rfl⟩ := Nat.exists_eq_add_one.mpr hw
  rw [Nat.add_sub_cancel]
  have hlow : x.toNat % 2 ^ m < 2 ^ m := Nat.mod_lt _ (Nat.two_pow_pos _)
  have hbit : (x.toNat / 2 ^ m % 2 = 1) ↔ x.getLsbD m = true := by
    rw [← BitVec.testBit_toNat, Nat.testBit_eq_decide_div_mod_eq, decide_eq_true_eq]
  simp only [floatNeg, hfmt, Nat.add_sub_cancel, hbit]
  refine zeroExtend_eq_ofNat (fun i hi => ?_) (by split <;> omega)
  rw [BitVec.getLsbD_xor, BitVec.getLsbD_twoPow]
  rcases Nat.lt_succ_iff_lt_or_eq.mp hi with h | rfl
  · split <;> simp [Nat.add_comm _ (2 ^ m), Nat.testBit_two_pow_add_gt h, h, h.ne', BitVec.testBit_toNat]
  · split <;> simp_all [Nat.add_comm _ (2 ^ i), Nat.testBit_two_pow_add_eq]

end

theorem width_pos (fmt : Fmt) : 0 < width fmt := by
  cases fmt <;> decide

section
variable {w : OpFields} {f : Firing} {e : Env} {t : Tag} (hk : f.Scalars) (hc : f.Clean) (ht : outTag w f e = .ok t)
  (hf : Enc.Fmt.isF w.fmt = true)
include hk hc ht hf

theorem evalAbs_float : evalAbs w f e =
    .ok ⟨[f.scalarOut t ((f.lane w.fmt .a &&& ~~~BitVec.twoPow (width w.fmt) (width w.fmt - 1)).zeroExtend 64)], 0⟩ := by
  have hlane : f.bits w.fmt .a = (f.lane w.fmt .a).toNat := (BitVec.toNat_ofNat ..).symm
  rw [evalAbs, if_pos hf, evalNat_ok hk hc ht, hlane, floatAbs, ← clearSign_eq (width_pos _)]

theorem evalNeg_float : evalNeg w f e =
    .ok ⟨[f.scalarOut t ((f.lane w.fmt .a ^^^ BitVec.twoPow (width w.fmt) (width w.fmt - 1)).zeroExtend 64)], 0⟩ := by
  have hlane : f.bits w.fmt .a = (f.lane w.fmt .a).toNat := (BitVec.toNat_ofNat ..).symm
  rw [evalNeg, if_pos hf, evalNat_ok hk hc ht, hlane, ← flipSign_eq (width_pos _) _ rfl]

end

/-! ### The obligation -/

/-- The formats of FCLASS in R198: the fields of each, and which of them have infinities. -/
theorem class_formats : ∀ q ∈ [(Fmt.f32, 23, 8), (.f16, 10, 5), (.bf16, 7, 8), (.e5m2, 2, 5), (.e4m3, 3, 4), (.e2m1, 1, 2)],
    (form q.1).p = q.2.1 ∧ (form q.1).eb = q.2.2 ∧ q.1 ≠ .mx8e4 ∧ (hasInf q.1 = true ↔ q.1 ≠ .e4m3 ∧ q.1 ≠ .e2m1) ∧
      (hasInf q.1 = true → (form q.1).maxE + 2 = 2 ^ (form q.1).eb) := by
  decide

/-- Settles O6: each instruction has the outcomes of `evalFloatInt`; selection and comparison go by `less`, which orders the
values as `fvLt` does, and the class by the fields of the code. -/
theorem floatSelectCompareConvert : Obligations.FloatSelectCompareConvert := by
  unfold Obligations.FloatSelectCompareConvert
  refine ⟨?instructions, ?values, ?classes⟩
  case instructions =>
    intro w s f t hk hc ht ftz ro src quiet mn mx cm cv ti tf loud
    have hlane (p : Port) : (f.lane w.fmt p).toNat = f.bits w.fmt p := BitVec.toNat_ofNat ..
    have hbit (c : Bool) : BitVec.ofNat 64 c.toNat = if c then 1 else 0 := by cases c <;> rfl
    obtain ⟨hmin, hminTrap⟩ := outcomes_of_evalFloatInt hk hc (i := .fmin w) (s := s) rfl (evalFloat_clean hc _ _) ht
    obtain ⟨hmax, hmaxTrap⟩ := outcomes_of_evalFloatInt hk hc (i := .fmax w) (s := s) rfl (evalFloat_clean hc _ _) ht
    obtain ⟨hcmp, hcmpTrap⟩ := outcomes_of_evalFloatInt hk hc (i := .fcmp w) (s := s) rfl rfl ht
    obtain ⟨hcvt, hcvtTrap⟩ := outcomes_of_evalFloatInt hk hc (i := .fcvt w) (s := s) rfl (evalFloat_clean hc _ _) ht
    obtain ⟨hclass, -⟩ := outcomes_of_evalFloatInt hk hc (i := .fclass w) (s := s) rfl rfl ht
    obtain ⟨hftoi, hftoiTrap⟩ := outcomes_of_evalFloatInt hk hc (i := .ftoi w) (s := s) rfl rfl ht
    obtain ⟨hitof, hitofTrap⟩ := outcomes_of_evalFloatInt hk hc (i := .itof w) (s := s) rfl (evalFloat_clean hc _ _) ht
    simp only [← hlane] at hmin hminTrap hmax hmaxTrap
    rw [hbit] at hcmp
    exact ⟨hminTrap, hmaxTrap, hcmpTrap, hcvtTrap, hftoiTrap, hitofTrap,
      fun hf => ⟨commits_of_ok rfl (evalAbs_float hk hc ht hf), commits_of_ok rfl (evalNeg_float hk hc ht hf)⟩,
      hmin, hmax, hcmp, hcvt, hclass (by simp [enabledBy]), hftoi, hitof⟩
  case values =>
    intro fmt ftz a b hf ha hb x y iv unordered any back pick
    have hpx : x.Proper := readF_proper ..
    have hpy : y.Proper := readF_proper ..
    have hiv : ivSig [x, y] = iv := ivSig_eq
    have hlt : fvLt x y = x.less y := fvLt_eq_less hpx hpy
    have hgt : fvLt y x = y.less x := fvLt_eq_less hpy hpx
    have hpick (max : Bool) := fMinMax_eq (x := x) (y := y) rfl rfl hf ha hb max
    rw [hiv] at hpick
    refine ⟨fun max => ⟨?both, ?left, ?right⟩, fun hord => ?picks, ?eq, ?ne, ?lt, ?le, ?gt, ?ge, ?un, ?ord⟩
    case both => exact fun hx hy => (hpick max).trans (if_pos (by rw [hx, hy]; rfl))
    case left => exact fun hx hy => (hpick max).trans ((if_neg (by simp [hx, hy])).trans (if_pos hx))
    case right => exact fun hx hy => (hpick max).trans ((if_neg (by simp [hx])).trans ((if_neg (by simp [hx])).trans (if_pos hy)))
    case picks =>
      obtain ⟨hx, hy⟩ := Bool.or_eq_false_iff.mp hord
      simp only [hx, hy, Bool.and_false, Bool.false_eq_true, if_false] at hpick
      have hmin (c : Bool) (h : y.under x = c) : pick false (if c then back y b else back x a) := h ▸ hpick false
      have hmax (c : Bool) (h : x.under y = c) : pick true (if c then back y b else back x a) := h ▸ hpick true
      exact ⟨fun h => ⟨hmin false (FV.under_asymm h), hmax true h⟩, fun h => ⟨hmin true h, hmax false (FV.under_asymm h)⟩,
        fun h h' => ⟨hmin false h', hmax false h⟩⟩
    case eq => exact Prod.ext (fvEq_eq hpx hpy) hiv
    case ne =>
      have hor : ∀ u l g : Bool, (u || !(!u && !l && !g)) = (u || l || g) := by decide
      exact Prod.ext ((congrArg (unordered || !·) (fvEq_eq hpx hpy)).trans (hor _ _ _)) hiv
    case lt => exact Prod.ext hlt rfl
    case le => exact Prod.ext (congrArg (!unordered && !·) hgt) rfl
    case gt => exact Prod.ext hgt rfl
    case ge => exact Prod.ext (congrArg (!unordered && !·) hlt) rfl
    case un => exact Prod.ext rfl hiv
    case ord => exact Prod.ext rfl hiv
  case classes =>
    rintro ⟨fmt, p, eb⟩ hq sign ex fr hex hfr top
    obtain ⟨hp, heb, hmx, hinf, hmax⟩ := class_formats _ hq
    simp only at hp heb
    subst hp heb
    have hmax : hasInf fmt = true → (form fmt).maxE + 2 = 2 ^ (form fmt).eb := hmax
    have htop : (hasInf fmt = true ∧ ex = (form fmt).maxE + 1) ↔ top := by
      change _ ↔ (ex + 1 = 2 ^ (form fmt).eb ∧ _)
      rw [and_comm, hinf]
      refine and_congr_left fun h => ?_
      rw [← hmax (hinf.mpr h)]
      omega
    have hnan : ((fmt = .e4m3 ∨ fmt = .mx8e4) ∧ ex = 15 ∧ fr = 7) ↔ (fmt = .e4m3 ∧ ex = 15 ∧ fr = 7) := by
      rw [or_iff_left hmx]
    refine (fclassBits_fieldBits sign hex hfr).trans ?_
    simp only [classBit, htop, hnan]

end Sys2Proof.Machine
end

section
namespace Sys2Proof.Machine

/-! ## The matrix unit (R175, R234 to R236, R241 to R244) -/

/-! ### The word of an accumulator (R234) -/

theorem fields_accWord (cell : Nat) (step : BitVec 16) (n : Nat) (gen : BitVec 4) (frame : Nat) :
    (accWord cell step n gen frame).extractLsb' 59 5 = 0 ∧ (accWord cell step n gen frame).extractLsb' 18 14 = 0 ∧
      (accWord cell step n gen frame).extractLsb' 48 11 = BitVec.ofNat 11 cell ∧
      (accWord cell step n gen frame).extractLsb' 32 16 = step ∧ (accWord cell step n gen frame).extractLsb' 16 2 = BitVec.ofNat 2 n ∧
      (accWord cell step n gen frame).extractLsb' 12 4 = gen ∧
      (accWord cell step n gen frame).extractLsb' 0 12 = BitVec.ofNat 12 frame := by
  simp (disch := omega) only [accWord, BitVec.extractLsb'_append_eq_of_le,
    BitVec.extractLsb'_append_eq_of_add_le]
  simp

/-- The owner of an accumulator may use it through its word (R235). -/
theorem accUse_owner {s : State} {f : Firing} {e : Env} {p : Port} {op : AccUse} {n : Nat} {a : Acc} (h : s.Owns f p n a) :
    accUse s f e p op = .ok (n, a) := by
  obtain ⟨hn, hcell, ha, howner, htile, hpoison, hword⟩ := h
  obtain ⟨h1, h2, h3, h4, h5, h6, h7⟩ := fields_accWord f.cell a.step n (tagGen f.tag) (tagFrame f.tag)
  simp only [accUse, htile, checkPoison_ok hpoison, hword, h1, h2, h3, h4, h5, h6, h7, BitVec.toNat_ofNat, Nat.mod_eq_of_lt hn,
    Nat.mod_eq_of_lt hcell, ha, howner, Nat.mod_eq_of_lt (tagFrame_lt f.tag)]
  simp [trapIf, bind, Except.bind, pure, Except.pure]

/-! ### The product added by an owner (R175, R241, R242, R244) -/

section
variable (w : OpFields) (f : Firing) (acc : Acc) (m : Nat) (x : Handle × List Byte)

/-- The poison of the accumulator when m rows of port a's operand count. -/
def macPoison : BitVec 8 :=
  acc.poison ||| (((f.handle .a).poison ||| (if (f.handle .b).poison != 0 then poisonAll acc.rows else 0)) &&&
    poisonOf acc.rows (List.range m))

/-- Its elements with m rows of the dense operand x times port b's added, and the flags of each. -/
def macGrid : List (List (Nat × Flags)) :=
  macAll w.fmt (w.mod.getLsbD 3) acc (macPoison f acc m) m x.1 x.2 (f.handle .b) (f.tile .b).2

/-- The accumulator that comes of it. -/
def macAcc : Acc :=
  { acc with step := acc.step + 1, poison := macPoison f acc m, data := (macGrid w f acc m x).flatten.map fun y => BitVec.ofNat 36 y.1 }

end

section
variable {w : OpFields} {s : State} {f : Firing} {t : Tag} {n : Nat} {acc : Acc} {x : Handle × List Byte} {ragged : Bool}
  {afmt : Fmt} {acols : Nat → Nat} {dense : Handle × List Byte → Ex (Handle × List Byte)}

theorem evalMac_quiet (hown : s.Owns f .c n acc) (hk : f.Kinds true true false) (ht : outTag w f (s.env f) = .ok t)
    (hfa : (f.handle .a).fmt = afmt) (hfb : (f.handle .b).fmt = w.fmt) (hra : (f.handle .a).rows = acc.rows)
    (hrb : (f.handle .b).rows = acc.cols) (hca : (f.handle .a).cols = acols (f.handle .b).cols)
    (hdense : dense (f.tile .a) = .ok x) {m : Nat} (hm : m = if ragged then (f.handle .a).valid else acc.rows)
    (hquiet : macIsInt w.fmt = true ∨ firstElem (enabledFlags (s.env f).fpen) (gridFlags (macGrid w f acc m x)) = none) :
    evalMac w s f (s.env f) ragged afmt acols dense =
      .ok (⟨[f.accOut t false n (macAcc w f acc m x)], orAll (gridFlags (macGrid w f acc m x))⟩, n, macAcc w f acc m x) := by
  subst hm
  simp only [evalMac, accUse_owner hown, checkKinds_ok hk, hfa, hfb, hra, hrb, hca, bne_self_eq_false, Bool.or_self, trapIf,
    Bool.false_eq_true, if_false, hdense, ht, tagFlags, bind, Except.bind]
  by_cases hint : macIsInt w.fmt = true
  · rw [if_pos hint]
    rfl
  · have hfp : fpCheck (s.env f).fpen (gridFlags (macGrid w f acc (if ragged then (f.handle .a).valid else acc.rows) x)) =
        .ok (orAll (gridFlags (macGrid w f acc (if ragged then (f.handle .a).valid else acc.rows) x))) := by
      rw [fpCheck, hquiet.resolve_left hint]
    simp only [macGrid, macPoison] at hfp
    simp only [hint, satOf, hfp]
    rfl

end

/-- MMA, MMAG and MMAS commit the word of the new accumulator, and write it. -/
theorem commitsWith_of_acc {i : Instr} {s : State} {f : Firing} {g : State → Firing → Env → AccEx} {outs : List Out} {fl : Flags}
    {n : Nat} {a : Acc} (hexec : exec i s = runAcc s g) (hg : g s f (s.env f) = .ok (⟨outs, fl⟩, n, a)) :
    CommitsWith i s f outs fl fun st => st.setAccAt f n a :=
  commitsWith_of_firing hexec (by rw [hg]; rfl)

theorem evalMcomp_ok {w : OpFields} {f : Firing} {e : Env} {t : Tag} (hk : f.Kinds true false false) (ht : outTag w f e = .ok t)
    (hfa : (f.handle .a).fmt = w.fmt) (hshape : Enc.shapeOk .z8 (f.handle .a).rows (21 * (f.handle .a).cols / 32) = true) :
    evalMcomp w f e = .ok ⟨[f.tileOut t false .z8 (f.handle .a).rows (21 * (f.handle .a).cols / 32) (f.handle .a).valid
      (f.handle .a).poison ((List.range (f.handle .a).rows).flatMap fun i =>
        if i < (f.handle .a).valid then compressRow w.fmt (f.handle .a).cols (rowAt (f.handle .a) (f.tile .a).2 i)
        else zeros (21 * (f.handle .a).cols / 32))], 0⟩ := by
  have hpre : (needFmt f .a w.fmt *> needFits .z8 (f.handle .a).rows (21 * (f.handle .a).cols / 32)) = .ok () := by
    rw [needFmt, needFits, trapIf_seq, hfa, hshape]
    simp [trapIf]
  exact evalOp_pre_ok hk hpre ht

/-- Settles O14: the owner's word passes `accUse`, and what is left of MMA, MMAG and MMAS is their one product; MCOMP is an
operator with one result. -/
theorem matrixMultiplyAndCompress : Obligations.MatrixMultiplyAndCompress := by
  unfold Obligations.MatrixMultiplyAndCompress
  refine ⟨?multiply, ?compress⟩
  case multiply =>
    intro w s f t n acc hown hk ht a b poison grid after quiet done hfb hra hrb
    refine ⟨?mma, ?mmag, ?mmas⟩
    case mma =>
      exact fun hfa hca hquiet =>
        commitsWith_of_acc (g := evalMma w) rfl (evalMac_quiet hown hk ht hfa hfb hra hrb hca rfl rfl hquiet)
    case mmag =>
      exact fun hfa hca hquiet =>
        commitsWith_of_acc (g := evalMmag w) rfl (evalMac_quiet hown hk ht hfa hfb hra hrb hca rfl rfl hquiet)
    case mmas =>
      exact fun x hfa hca hdense hquiet =>
        commitsWith_of_acc (g := evalMmas w) rfl (evalMac_quiet hown hk ht hfa hfb hra hrb hca hdense rfl hquiet)
  case compress =>
    intro w s f t hk ht a cols hfa hshape
    exact commits_of_ok (g := evalMcomp w) rfl (evalMcomp_ok hk ht hfa hshape)

end Sys2Proof.Machine
end

section
namespace Sys2Proof.Machine

/-! ## Where an element of a tile stands (R49, R202) -/

/-- A handle of VALID 0, over data of which row 0 is to be valid. -/
def invalidRow : Handle :=
  { fmt := .s8, rows := 1, cols := 1, valid := 0, line := 0, poison := 0, eos := false, disc := false, seq := 0 }

/-- Refutes O11, by its first clause: it leaves VALID of the handle free, and a row at or above it reads as zeros (R49). Here
`tileApply` makes a tile of one valid row that holds 1, and a handle of VALID 0 reads 0 from it. -/
theorem not_tileElementValues : ¬ Obligations.TileElementValues := by
  unfold Obligations.TileElementValues
  rintro ⟨hplace, -⟩
  have hone := hplace .s8 1 1 1 0 (fun _ _ => (1, 0)) invalidRow 0 0 rfl (by decide) rfl rfl rfl (fun _ _ => by decide)
    (by decide) (by decide)
  have hread : elemAt invalidRow (tileApply .s8 1 1 1 0 fun _ _ => (1, 0)).1 0 0 = 0 := by decide
  rw [hread] at hone
  exact absurd hone (by decide)

end Sys2Proof.Machine
end

section
namespace Sys2Proof.Machine

/-! ## Scalar integer instructions, and poison (R177 to R192) -/

/-! ### Words and the integers they stand for (R178, R183) -/

theorem sint_toNat {w : Nat} (x : BitVec w) : sint w x.toNat = x.toInt := by
  rw [sint, Nat.mod_eq_of_lt x.isLt, BitVec.toInt]

theorem payloadInt_readInt (fmt : Fmt) (x : BitVec (width fmt)) : payloadInt (readInt fmt x.toNat) = extend fmt x := by
  unfold payloadInt readInt extend
  split
  · rw [sint_toNat, BitVec.signExtend]
  · rw [Nat.mod_eq_of_lt x.isLt, BitVec.ofInt_natCast, BitVec.ofNat_toNat]

theorem readInt_mod (fmt : Fmt) (n : Nat) : readInt fmt (n % 2 ^ width fmt) = readInt fmt n := by
  simp only [readInt, sint, Nat.mod_mod]

theorem Firing.toNat_lane (f : Firing) (fmt : Fmt) (p : Port) : (f.lane fmt p).toNat = f.bits fmt p := BitVec.toNat_ofNat ..

theorem intHi_add_one (fmt : Fmt) : intHi fmt + 1 = intLo fmt + (2 ^ width fmt : Nat) := by
  cases fmt <;> decide

/-- The ends of a format's range mirror each other, or the lower one is 0. -/
theorem intLo_eq (fmt : Fmt) : intLo fmt = if Enc.Fmt.signed fmt then -(intHi fmt + 1) else 0 := by
  cases fmt <;> decide

theorem readInt_range (fmt : Fmt) (n : Nat) : intLo fmt ≤ readInt fmt n ∧ readInt fmt n ≤ intHi fmt := by
  have hwrap : wrapInt fmt n = readInt fmt n := by
    rw [wrapInt, wrapNat, ← Int.natCast_mod, Int.toNat_natCast, readInt_mod]
  exact hwrap ▸ wrap_range fmt n

/-- A format holds one value of each class modulo 2^w. -/
theorem eq_of_congruent {fmt : Fmt} {x y z : Int} (hy : intLo fmt ≤ y ∧ y ≤ intHi fmt) (hz : intLo fmt ≤ z ∧ z ≤ intHi fmt)
    (hxy : ((2 ^ width fmt : Nat) : Int) ∣ x - y) (hxz : ((2 ^ width fmt : Nat) : Int) ∣ x - z) : y = z := by
  have hdvd : ((2 ^ width fmt : Nat) : Int) ∣ z - y := by
    have := Int.dvd_sub hxy hxz
    rwa [sub_sub_sub_cancel_left] at this
  have hend := intHi_add_one fmt
  have hsmall : (z - y).natAbs < ((2 ^ width fmt : Nat) : Int).natAbs := by omega
  have := Int.eq_zero_of_dvd_of_natAbs_lt_natAbs hdvd hsmall
  omega

/-! ### What fit answers (R183) -/

/-- y is what fit makes of x without TRAPV. -/
def FitsTo (fmt : Fmt) (sat : Bool) (x y : Int) : Prop :=
  intLo fmt ≤ y ∧ y ≤ intHi fmt ∧ (intLo fmt ≤ x → x ≤ intHi fmt → y = x) ∧
    (sat = true → (x < intLo fmt → y = intLo fmt) ∧ (intHi fmt < x → y = intHi fmt)) ∧
    (sat = false → ((2 ^ width fmt : Nat) : Int) ∣ (x - y))

theorem inRange_iff {fmt : Fmt} {x : Int} : inRange fmt x = true ↔ intLo fmt ≤ x ∧ x ≤ intHi fmt := by
  simp [inRange]

theorem fitPlain_eq_of_fitsTo {fmt : Fmt} {sat : Bool} {x y : Int} (h : FitsTo fmt sat x y) : (fitPlain x fmt sat).1 = y := by
  obtain ⟨hlo, hhi, hheld, hsat, hwrap⟩ := h
  unfold fitPlain
  by_cases hin : inRange fmt x = true
  · obtain ⟨h1, h2⟩ := inRange_iff.mp hin
    rw [if_pos hin, hheld h1 h2]
  · rw [if_neg hin]
    cases sat with
    | true =>
      obtain ⟨hbelow, habove⟩ := hsat rfl
      by_cases hx : x < intLo fmt
      · simp [hx, hbelow hx]
      · have hx' : intHi fmt < x := by
          rw [inRange_iff] at hin
          omega
        simp [hx, habove hx']
    | false => exact eq_of_congruent (wrap_range fmt x) ⟨hlo, hhi⟩ (wrap_cong fmt x) (hwrap rfl)

theorem fitPlain_flags (fmt : Fmt) (sat : Bool) (x : Int) :
    (fitPlain x fmt sat).2 = if sat && (decide (x < intLo fmt) || decide (intHi fmt < x)) then fOF else 0 := by
  have hin : inRange fmt x = !(decide (x < intLo fmt) || decide (intHi fmt < x)) := by
    rw [Bool.eq_iff_iff, inRange_iff]
    simp
  unfold fitPlain
  rw [hin]
  cases decide (x < intLo fmt) || decide (intHi fmt < x) <;> cases sat <;> rfl

section
variable {w : OpFields} {f : Firing} {fmt : Fmt} {x : Int}

theorem fitOf_poisoned (hp : f.poisoned = true) : fitOf w f fmt x = .ok ((fitPlain x fmt (satOf w)).1, 0) := by
  rw [fitOf, if_pos hp]

/-- fit of a clean firing's result that leaves the range. -/
theorem fitOf_out (hc : f.Clean) (hout : x < intLo fmt ∨ intHi fmt < x) : fitOf w f fmt x =
    if trapvOf w then .error (tINT_EXCEPT 1 0)
    else if satOf w then .ok (if x < intLo fmt then intLo fmt else intHi fmt, fOF) else .ok (wrapInt fmt x, 0) := by
  have hin : inRange fmt x = false := by
    rw [Bool.eq_false_iff, ne_eq, inRange_iff]
    omega
  rw [fitOf, Firing.poisoned_clean hc, fit, hin]
  cases trapvOf w <;> cases satOf w <;> rfl

end

theorem trapvOf_eq_true {w : OpFields} (h : w.var = 1) : trapvOf w = true := beq_iff_eq.mpr h

theorem trapvOf_eq_false {w : OpFields} (h : w.var ≠ 1) : trapvOf w = false := beq_eq_false_iff_ne.mpr h

/-- What comes of an instruction of clean scalars that answers fit of its exact result x. -/
theorem outcomes_of_fit {i : Instr} {w : OpFields} {s : State} {f : Firing} {t : Tag} {x : Int} {g : Firing → Env → Ex Commit}
    (hk : f.Scalars) (hc : f.Clean) (ht : outTag w f (s.env f) = .ok t) (hexec : exec i s = runOp s g)
    (hg : g f (s.env f) = evalInt w f (s.env f) (.ok ()) (fitOf w f w.fmt x)) :
    (intLo w.fmt ≤ x → x ≤ intHi w.fmt → Commits i s f [f.scalarOut t (BitVec.ofInt 64 x)] 0) ∧
    ((x < intLo w.fmt ∨ intHi w.fmt < x) →
      (w.var = 1 → Traps i s f { trapOf 0x0E 1 with flags := 0 }) ∧
      (w.var ≠ 1 → w.mod.getLsbD 3 = true →
        Commits i s f [f.scalarOut t (BitVec.ofInt 64 (if x < intLo w.fmt then intLo w.fmt else intHi w.fmt))] fOF) ∧
      (w.var ≠ 1 → w.mod.getLsbD 3 = false → Commits i s f [f.scalarOut t (BitVec.ofInt 64 (wrapInt w.fmt x))] 0)) := by
  have hcommits {y : Int} {fl : Flags} (hfit : fitOf w f w.fmt x = .ok (y, fl)) :
      Commits i s f [f.scalarOut t (BitVec.ofInt 64 y)] fl :=
    commits_of_ok hexec (hg.trans (by rw [hfit, evalInt_ok hk hc ht]; rfl))
  refine ⟨fun hlo hhi => hcommits (fitOf_in hlo hhi), fun hout => ⟨fun hv => ?_, fun hv hs => ?_, fun hv hs => ?_⟩⟩
  · refine traps_of_error hexec (t := tINT_EXCEPT 1 0) (hg.trans ?_) rfl
    rw [fitOf_out hc hout, if_pos (trapvOf_eq_true hv), evalInt_error hk ht]
  · exact hcommits (by rw [fitOf_out hc hout, trapvOf_eq_false hv, satOf, hs]; rfl)
  · exact hcommits (by rw [fitOf_out hc hout, trapvOf_eq_false hv, satOf, hs]; rfl)

/-- Settles O1: each instruction answers fit of its exact result. -/
theorem integerResults : Obligations.IntegerResults := by
  unfold Obligations.IntegerResults
  refine ⟨?held, ?leaves⟩
  case held =>
    intro i w x s f t hx hk hc ht
    obtain ⟨g, hexec, hg⟩ := exactInt_eval hx
    exact (outcomes_of_fit hk hc ht (hexec s) (hg _)).1
  case leaves =>
    intro i w x s f t hx hk hc ht hout
    obtain ⟨g, hexec, hg⟩ := exactInt_eval hx
    obtain ⟨htrap, hclamp, hwrap⟩ := (outcomes_of_fit hk hc ht (hexec s) (hg _)).2 hout
    obtain ⟨hlo, hhi⟩ := wrap_range w.fmt x
    exact ⟨htrap, hclamp, fun hv hs => ⟨_, hlo, hhi, wrap_cong w.fmt x, hwrap hv hs⟩⟩

/-! ### Division (R185) -/

/-- A quotient toward zero leaves the range only by being the greatest value and one more. -/
theorem tdiv_range (fmt : Fmt) (m n : Nat) : intLo fmt ≤ (readInt fmt m).tdiv (readInt fmt n) ∧
    (readInt fmt m).tdiv (readInt fmt n) ≤ intHi fmt + 1 := by
  obtain ⟨hmlo, hmhi⟩ := readInt_range fmt m
  obtain ⟨hnlo, -⟩ := readInt_range fmt n
  have habs := Int.natAbs_tdiv_le_natAbs (readInt fmt m) (readInt fmt n)
  have hlo := intLo_eq fmt
  split at hlo
  · omega
  · have := Int.tdiv_nonneg (hlo ▸ hmlo) (hlo ▸ hnlo)
    omega

/-- The quotient past the greatest value wraps to the least. -/
theorem wrapInt_intHi_add_one (fmt : Fmt) : wrapInt fmt (intHi fmt + 1) = intLo fmt := by
  have hend := intHi_add_one fmt
  have hpos := Nat.two_pow_pos (width fmt)
  refine eq_of_congruent (wrap_range fmt _) ⟨le_rfl, by omega⟩ (wrap_cong fmt _) ?_
  rw [hend, add_sub_cancel_left]

section
variable {w : OpFields} {f : Firing} {e : Env}

theorem evalDiv_of_ne_zero (hb : f.int w.fmt .b ≠ 0) :
    evalDiv w f e = evalInt w f e (.ok ()) (fitOf w f w.fmt ((f.int w.fmt .a).tdiv (f.int w.fmt .b))) := by
  simp only [evalDiv, if_neg hb]

theorem evalRem_of_ne_zero (hb : f.int w.fmt .b ≠ 0) :
    evalRem w f e = evalInt w f e (.ok ()) (.ok ((f.int w.fmt .a).tmod (f.int w.fmt .b), 0)) := by
  simp only [evalRem, if_neg hb]

theorem evalDiv_of_zero (hb : f.int w.fmt .b = 0) (hp : f.isPoisoned .b = false) : evalDiv w f e =
    evalInt w f e (.ok ()) (if trapvOf w && !f.poisoned then .error (tINT_EXCEPT 2 fIV)
      else .ok (if Enc.Fmt.signed w.fmt then -1 else intHi w.fmt, fIV)) := by
  simp only [evalDiv, if_pos hb, hp, Bool.false_eq_true, if_false]

theorem evalRem_of_zero (hb : f.int w.fmt .b = 0) (hp : f.isPoisoned .b = false) :
    evalRem w f e = evalInt w f e (.ok ()) (.ok (f.int w.fmt .a, fIV)) := by
  simp only [evalRem, if_pos hb, hp, Bool.false_eq_true, if_false]

end

/-- The quotient by zero, in the payload. -/
theorem payloadInt_quotientByZero (fmt : Fmt) : payloadInt (if Enc.Fmt.signed fmt then -1 else intHi fmt) =
    if Enc.Fmt.signed fmt then BitVec.ofInt 64 (-1) else BitVec.ofInt 64 ((2 ^ width fmt : Nat) - 1) := by
  unfold intHi
  split <;> rfl

/-- Settles O2: a quotient goes through fit, and only the greatest value and one more leaves the range. -/
theorem divideAndRemainder : Obligations.DivideAndRemainder := by
  unfold Obligations.DivideAndRemainder
  intro w s f t hk hc ht a b
  have hclean : f.isPoisoned .b = false := f.isPoisoned_clean hc .b
  have hrem {y : Int} {fl : Flags} (heval : evalRem w f (s.env f) = evalInt w f (s.env f) (.ok ()) (.ok (y, fl))) :
      Commits (.rem w) s f [f.scalarOut t (BitVec.ofInt 64 y)] fl :=
    commits_of_ok rfl (heval.trans (evalInt_ok hk hc ht))
  obtain ⟨hlo, hhi⟩ : intLo w.fmt ≤ a.tdiv b ∧ a.tdiv b ≤ intHi w.fmt + 1 := tdiv_range ..
  have hquot (hb : b ≠ 0) := outcomes_of_fit hk hc ht (i := .div w) (s := s) rfl (evalDiv_of_ne_zero hb)
  refine ⟨fun hb => (hquot hb).1, fun hb hpast => ?past, fun _ => hlo, fun hb => hrem (evalRem_of_ne_zero hb), ?trap, ?zero,
    fun hb => hrem (evalRem_of_zero hb hclean)⟩
  case past =>
    have htop : a.tdiv b = intHi w.fmt + 1 := by omega
    obtain ⟨htrap, hclamp, hwrap⟩ := (hquot hb).2 (.inr hpast)
    rw [if_neg (not_lt.mpr hlo)] at hclamp
    rw [show (f.int w.fmt .a).tdiv (f.int w.fmt .b) = intHi w.fmt + 1 from htop, wrapInt_intHi_add_one] at hwrap
    exact ⟨htrap, hclamp, hwrap⟩
  case trap =>
    intro hb hv
    refine traps_of_error rfl (t := tINT_EXCEPT 2 fIV) ((evalDiv_of_zero hb hclean).trans ?_) rfl
    rw [trapvOf_eq_true hv, Firing.poisoned_clean hc]
    exact evalInt_error hk ht
  case zero =>
    intro hb hv
    refine commits_of_ok rfl ((evalDiv_of_zero hb hclean).trans ?_)
    rw [trapvOf_eq_false hv, ← payloadInt_quotientByZero]
    exact evalInt_ok hk hc ht

end Sys2Proof.Machine
end

section
namespace Sys2Proof.Machine

/-! ### A scalar firing, clean or poisoned, commits its result (R177, R179) -/

/-- The firing's operands are scalars, p says whether one is poisoned, and its outputs are to have the tag t. -/
structure ScalarFiring (w : OpFields) (s : State) (f : Firing) (t : Tag) (p : Bool) : Prop where
  scalars : f.Scalars
  poisoned : f.poisoned = p
  tagged : outTag w f (s.env f) = .ok t

theorem ScalarFiring.of_clean {w : OpFields} {s : State} {f : Firing} {t : Tag} (hk : f.Scalars) (hc : f.Clean)
    (ht : outTag w f (s.env f) = .ok t) : ScalarFiring w s f t false :=
  ⟨hk, f.poisoned_clean hc, ht⟩

/-- The one output of such a firing; `Firing.scalarOut` when it is clean. -/
def Firing.resultOut (f : Firing) (t : Tag) (p : Bool) (v : Word64) : Out := outD0 t (.scalar v p f.eos) none

section
variable {w : OpFields} {s : State} {f : Firing} {t : Tag} {p : Bool} (h : ScalarFiring w s f t p)
include h

theorem ScalarFiring.commits_result {i : Instr} {g : Firing → Env → Ex Commit} {pre : Ex Unit} {v : Word64} {fl : Flags}
    (hexec : exec i s = runOp s g) (hpre : pre = .ok ())
    (hg : g f (s.env f) = evalOp w f (s.env f) (false, false, false) pre false (.ok ([scalarRes f v], cleanFlags f fl))) :
    Commits i s f [f.resultOut t p v] (if p then 0 else fl) := by
  refine commits_of_ok hexec (hg.trans ?_)
  rw [evalOp_pre_ok h.scalars hpre h.tagged, cleanFlags, orAll_one, scalarRes, h.poisoned]
  rfl

/-- The same for an instruction that sets no flag. -/
theorem ScalarFiring.commits_value {i : Instr} {g : Firing → Env → Ex Commit} {pre : Ex Unit} {u v : Word64}
    (hexec : exec i s = runOp s g) (hpre : pre = .ok ())
    (hg : g f (s.env f) = evalOp w f (s.env f) (false, false, false) pre false (.ok ([scalarRes f u], cleanFlags f 0)))
    (hv : u = v) : Commits i s f [f.resultOut t p v] 0 := by
  subst hv
  have := h.commits_result hexec hpre hg
  rwa [ite_self] at this

/-- The same for a result of w bits (R186). -/
theorem ScalarFiring.commits_bits {i : Instr} {g : Firing → Env → Ex Commit} {pre : Ex Unit} {n : Nat}
    {v : BitVec (width w.fmt)} (hexec : exec i s = runOp s g) (hpre : pre = .ok ())
    (hg : g f (s.env f) = evalInt w f (s.env f) pre (.ok (readInt w.fmt n, 0))) (hv : v.toNat = n) :
    Commits i s f [f.resultOut t p (extend w.fmt v)] 0 :=
  h.commits_value hexec hpre hg (by rw [← hv, payloadInt_readInt])

end

/-! ### Bitwise operators and shifts (R184, R186) -/

theorem toNat_sshiftRight_eq {w : Nat} (x : BitVec w) (n : Nat) : (x.sshiftRight n).toNat = sraBits w x.toNat n := by
  rw [sraBits, sint_toNat, BitVec.sshiftRight, BitVec.toNat_ofInt, Int.shiftRight_eq_div_pow, wrapNat]

theorem toNat_rotateLeft_eq {w n : Nat} (x : BitVec w) (hn : n < w) : (x.rotateLeft n).toNat = rotlBits w x.toNat n := by
  have hw : 2 ^ w = 2 ^ n * 2 ^ (w - n) := by rw [← pow_add, Nat.add_sub_cancel' hn.le]
  have hhigh : x.toNat * 2 ^ n % 2 ^ w = 2 ^ n * (x.toNat % 2 ^ (w - n)) := by rw [hw, Nat.mul_comm, Nat.mul_mod_mul_left]
  have hlow : x.toNat / 2 ^ (w - n) < 2 ^ n := Nat.div_lt_of_lt_mul (by rw [Nat.mul_comm, ← hw]; exact x.isLt)
  rw [BitVec.toNat_rotateLeft, Nat.mod_eq_of_lt hn, Nat.shiftLeft_eq, Nat.shiftRight_eq_div_pow, rotlBits, hhigh,
    Nat.two_pow_add_eq_or_of_lt hlow]

/-- CLZ counts k when bit w - 1 - k is the highest one set, or no bit is set and k is w. -/
theorem clzBits_eq {w k : Nat} (x : BitVec w) (hk : k ≤ w) (habove : ∀ j, w - k ≤ j → j < w → x.getLsbD j = false)
    (hset : k < w → x.getLsbD (w - 1 - k) = true) : clzBits w x.toNat = k := by
  have hlt : x.toNat < 2 ^ (w - k) := Nat.lt_pow_two_of_testBit _ fun j hj => by
    rw [BitVec.testBit_toNat]
    by_cases hjw : j < w
    · exact habove j hj hjw
    · exact BitVec.getLsbD_of_ge x j (by omega)
  rcases hk.lt_or_eq with hkw | rfl
  · have hge : 2 ^ (w - 1 - k) ≤ x.toNat := Nat.ge_two_pow_of_testBit (by rw [BitVec.testBit_toNat]; exact hset hkw)
    have hne : x.toNat ≠ 0 := (Nat.two_pow_pos _ |>.trans_le hge).ne'
    have hlog : x.toNat.log2 = w - 1 - k := (Nat.log2_eq_iff hne).mpr ⟨hge, by rwa [show w - 1 - k + 1 = w - k by omega]⟩
    rw [clzBits, if_neg hne, hlog]
    omega
  · rw [Nat.sub_self, pow_zero, Nat.lt_one_iff] at hlt
    rw [clzBits, if_pos hlt]

section
variable {w : OpFields} {s : State} {f : Firing} {t : Tag} {p : Bool} (h : ScalarFiring w s f t p)
include h

theorem ScalarFiring.commits_and :
    Commits (.and w) s f [f.resultOut t p (extend w.fmt (f.lane w.fmt .a &&& f.lane w.fmt .b))] 0 :=
  h.commits_bits rfl rfl (g := evalAnd w) rfl (BitVec.toNat_and ..)

theorem ScalarFiring.commits_or :
    Commits (.or w) s f [f.resultOut t p (extend w.fmt (f.lane w.fmt .a ||| f.lane w.fmt .b))] 0 :=
  h.commits_bits rfl rfl (g := evalOr w) rfl (BitVec.toNat_or ..)

theorem ScalarFiring.commits_xor :
    Commits (.xor w) s f [f.resultOut t p (extend w.fmt (f.lane w.fmt .a ^^^ f.lane w.fmt .b))] 0 :=
  h.commits_bits rfl rfl (g := evalXor w) rfl (BitVec.toNat_xor ..)

theorem ScalarFiring.commits_andn :
    Commits (.andn w) s f [f.resultOut t p (extend w.fmt (f.lane w.fmt .a &&& ~~~f.lane w.fmt .b))] 0 :=
  h.commits_bits rfl rfl (g := evalAndn w) rfl (by rw [BitVec.toNat_and, BitVec.toNat_not, Firing.toNat_lane, Firing.toNat_lane]; rfl)

theorem ScalarFiring.commits_shl :
    Commits (.shl w) s f [f.resultOut t p (extend w.fmt (f.lane w.fmt .a <<< (f.num .b % width w.fmt)))] 0 :=
  h.commits_bits rfl rfl (g := evalShl w) rfl (by rw [BitVec.toNat_shiftLeft, Nat.shiftLeft_eq, Firing.toNat_lane]; rfl)

theorem ScalarFiring.commits_shr :
    Commits (.shr w) s f [f.resultOut t p (extend w.fmt (f.lane w.fmt .a >>> (f.num .b % width w.fmt)))] 0 :=
  h.commits_bits rfl rfl (g := evalShr w) rfl
    (by rw [BitVec.toNat_ushiftRight, Nat.shiftRight_eq_div_pow, Firing.toNat_lane]; rfl)

theorem ScalarFiring.commits_sra :
    Commits (.sra w) s f [f.resultOut t p (extend w.fmt ((f.lane w.fmt .a).sshiftRight (f.num .b % width w.fmt)))] 0 :=
  h.commits_bits rfl rfl (g := evalSra w) rfl (by rw [toNat_sshiftRight_eq, Firing.toNat_lane]; rfl)

theorem ScalarFiring.commits_rotl :
    Commits (.rotl w) s f [f.resultOut t p (extend w.fmt ((f.lane w.fmt .a).rotateLeft (f.num .b % width w.fmt)))] 0 :=
  h.commits_bits rfl rfl (g := evalRotl w) rfl
    (by rw [toNat_rotateLeft_eq _ (Nat.mod_lt _ (width_pos _)), Firing.toNat_lane]; rfl)

theorem ScalarFiring.commits_mulh : Commits (.mulh w) s f [f.resultOut t p (extend w.fmt
    (BitVec.ofInt (width w.fmt) ((f.int w.fmt .a * f.int w.fmt .b) / (2 ^ width w.fmt : Nat))))] 0 :=
  h.commits_bits rfl rfl (g := evalMulh w) rfl (BitVec.toNat_ofInt _)

theorem ScalarFiring.commits_min :
    Commits (.min w) s f [f.resultOut t p (BitVec.ofInt 64 (min (f.int w.fmt .a) (f.int w.fmt .b)))] 0 :=
  h.commits_value rfl rfl (g := evalMin w) rfl rfl

theorem ScalarFiring.commits_max :
    Commits (.max w) s f [f.resultOut t p (BitVec.ofInt 64 (max (f.int w.fmt .a) (f.int w.fmt .b)))] 0 :=
  h.commits_value rfl rfl (g := evalMax w) rfl rfl

theorem ScalarFiring.commits_clz :
    Commits (.clz w) s f [f.resultOut t p (BitVec.ofNat 64 (clzBits (width w.fmt) (f.lane w.fmt .a).toNat))] 0 :=
  h.commits_value rfl rfl (g := evalClz w) rfl (by rw [Firing.toNat_lane])

theorem ScalarFiring.commits_popc : Commits (.popc w) s f
    [f.resultOut t p (BitVec.ofNat 64 ((List.range (width w.fmt)).countP (f.lane w.fmt .a).getLsbD))] 0 :=
  h.commits_value rfl rfl (g := evalPopc w) rfl (by rw [List.countP_eq_length_filter]; rfl)

end

/-! ### CMP (R187) -/

/-- The conditions of R187, with both the AND of the operands. -/
def condition {w : Nat} (var : Nat) (a b : Int) (both : BitVec w) : Bool :=
  match var with
  | 0 => decide (a = b) | 1 => decide (a ≠ b) | 2 => decide (a < b) | 3 => decide (a ≤ b)
  | 4 => decide (a > b) | 5 => decide (a ≥ b) | 6 => both != 0 | _ => both == 0

theorem cmpCond_eq_condition {w : Nat} (var : Nat) (a b : Int) (x y : BitVec w) :
    cmpCond var a b x.toNat y.toNat = condition var a b (x &&& y) := by
  have hzero : (Nat.land x.toNat y.toNat == 0) = (x &&& y == 0) := by
    rw [Bool.eq_iff_iff, beq_iff_eq, beq_iff_eq, ← BitVec.toNat_inj, BitVec.toNat_and]
    rfl
  match var with
  | 0 | 1 | 2 | 3 | 4 | 5 => rfl
  | 6 => exact congrArg (!·) hzero
  | _ + 7 => exact hzero

theorem ScalarFiring.commits_cmp {w : OpFields} {s : State} {f : Firing} {t : Tag} {p : Bool} (h : ScalarFiring w s f t p) :
    Commits (.cmp w) s f [f.resultOut t p (if condition w.var.toNat (f.int w.fmt .a) (f.int w.fmt .b)
      (f.lane w.fmt .a &&& f.lane w.fmt .b) then 1 else 0)] 0 := by
  refine h.commits_value rfl rfl (g := evalCmp w) rfl ?_
  rw [← cmpCond_eq_condition, Firing.toNat_lane, Firing.toNat_lane]
  cases cmpCond w.var.toNat (f.int w.fmt .a) (f.int w.fmt .b) (f.bits w.fmt .a) (f.bits w.fmt .b) <;> rfl

end Sys2Proof.Machine
end

section
namespace Sys2Proof.Machine

/-! ### Bit fields (R188) -/

/-- What makes a descriptor of a field in w bits malformed: another bit set, an empty field, or one that ends past w. -/
def MalformedField (w : Nat) (d : Word64) : Prop :=
  d &&& 0xFFFFFFFFFFFF80C0#64 ≠ 0 ∨ d.extractLsb' 8 7 = 0 ∨ w < (d.extractLsb' 0 6).toNat + (d.extractLsb' 8 7).toNat

theorem fieldOk_iff {w : Nat} {d : Word64} : fieldOk w d = true ↔ ¬ MalformedField w d := by
  have hempty : 0 < (d.extractLsb' 8 7).toNat ↔ d.extractLsb' 8 7 ≠ 0 := by
    rw [Nat.pos_iff_ne_zero, ne_eq, ne_eq, ← BitVec.toNat_inj]
    rfl
  have hok : fieldOk w d = (d &&& 0xFFFFFFFFFFFF80C0#64 == 0 && decide (0 < (d.extractLsb' 8 7).toNat) &&
    decide ((d.extractLsb' 0 6).toNat + (d.extractLsb' 8 7).toNat ≤ w)) := rfl
  rw [hok, Bool.and_eq_true, Bool.and_eq_true, beq_iff_eq, decide_eq_true_eq, decide_eq_true_eq, hempty, MalformedField,
    not_or, not_or, not_not, not_lt, and_assoc]

theorem fieldOf_ofNat (n : Nat) : fieldOf (BitVec.ofNat 64 n) = (n % 64, n / 256 % 128) := by
  rw [fieldOf, BitVec.extractLsb'_toNat, BitVec.extractLsb'_toNat, BitVec.toNat_ofNat, Nat.shiftRight_eq_div_pow,
    Nat.shiftRight_eq_div_pow]
  exact Prod.ext (by omega) (by omega)

/-- The field of l bits from p on, extended by R178. -/
theorem bextBits_toNat (fmt : Fmt) {w : Nat} (x : BitVec w) (p l : Nat) : BitVec.ofInt 64 (bextBits fmt x.toNat p l) =
    if Enc.Fmt.signed fmt then (x.extractLsb' p l).signExtend 64 else (x.extractLsb' p l).zeroExtend 64 := by
  have hfield : x.toNat / 2 ^ p % 2 ^ l = (x.extractLsb' p l).toNat := by
    rw [BitVec.extractLsb'_toNat, Nat.shiftRight_eq_div_pow]
  rw [bextBits, hfield]
  split
  · rw [sint_toNat, BitVec.signExtend]
  · rw [BitVec.ofInt_natCast, BitVec.ofNat_toNat]

/-- The bits of a with a field of l bits from p on replaced by the low bits of b. -/
theorem testBit_binsBits (a b p l k : Nat) :
    (binsBits a b p l).testBit k = if p ≤ k ∧ k < p + l then b.testBit (k - p) else a.testBit k := by
  have hlow : a % 2 ^ p < 2 ^ p := Nat.mod_lt _ (Nat.two_pow_pos _)
  have hfield : b % 2 ^ l < 2 ^ l := Nat.mod_lt _ (Nat.two_pow_pos _)
  have hparts : binsBits a b p l = 2 ^ p * (2 ^ l * (a / 2 ^ p / 2 ^ l) + b % 2 ^ l) + a % 2 ^ p := by
    have ha := Nat.div_add_mod a (2 ^ p)
    have hq := Nat.div_add_mod (a / 2 ^ p) (2 ^ l)
    have hmul : 2 ^ p * (a / 2 ^ p) = 2 ^ p * (2 ^ l * (a / 2 ^ p / 2 ^ l)) + a / 2 ^ p % 2 ^ l * 2 ^ p := by
      rw [Nat.mul_comm (_ % _), ← Nat.mul_add, hq]
    rw [binsBits, Nat.mul_add, Nat.mul_comm (b % 2 ^ l)]
    omega
  rw [hparts, Nat.testBit_two_pow_mul_add _ hlow, Nat.testBit_two_pow_mul_add _ hfield, Nat.testBit_mod_two_pow,
    Nat.testBit_mod_two_pow, Nat.testBit_div_two_pow, Nat.testBit_div_two_pow]
  rcases Nat.lt_or_ge k p with hkp | hpk
  · simp [hkp, Nat.not_le.mpr hkp]
  · rcases Nat.lt_or_ge k (p + l) with hkl | hlk
    · simp [Nat.not_lt.mpr hpk, hpk, hkl, show k - p < l by omega]
    · simp [Nat.not_lt.mpr hpk, Nat.not_lt.mpr hlk, show ¬ k - p < l by omega, show k - p - l + l + p = k by omega]

theorem toNat_eq_binsBits {w p l : Nat} (a b r : BitVec w) (hpl : p + l ≤ w)
    (hr : ∀ k, k < w → r.getLsbD k = if p ≤ k ∧ k < p + l then b.getLsbD (k - p) else a.getLsbD k) :
    r.toNat = binsBits a.toNat b.toNat p l := by
  refine Nat.eq_of_testBit_eq fun k => ?_
  simp only [testBit_binsBits, BitVec.testBit_toNat]
  rcases Nat.lt_or_ge k w with hk | hk
  · exact hr k hk
  · rw [BitVec.getLsbD_of_ge r k hk, BitVec.getLsbD_of_ge a k hk, if_neg (by omega)]

section
variable {w : OpFields} {s : State} {f : Firing} {t : Tag} {p : Bool}

/-- A malformed descriptor traps a clean firing (R188). -/
theorem traps_of_malformed {i : Instr} {g : Firing → Env → Ex Commit} {d : Word64} {y : Int} (hk : f.Scalars) (hc : f.Clean)
    (hexec : exec i s = runOp s g) (hd : MalformedField (width w.fmt) d) (hg : g f (s.env f) = evalInt w f (s.env f)
      (trapIf (!fieldOk (width w.fmt) d && !f.poisoned) tBAD_OPERAND) (.ok (y, 0))) : Traps i s f tBAD_OPERAND := by
  have hbad : fieldOk (width w.fmt) d = false := Bool.eq_false_iff.mpr fun hok => fieldOk_iff.mp hok hd
  refine traps_of_error hexec (hg.trans ?_) rfl
  rw [hbad, Firing.poisoned_clean hc]
  exact evalOp_pre_error hk rfl

variable (h : ScalarFiring w s f t p)
include h

/-- A well-formed descriptor raises nothing, nor does any descriptor of a poisoned firing (R179). -/
theorem ScalarFiring.descriptor_passes {d : Word64} (hd : fieldOk (width w.fmt) d = true ∨ p = true) :
    trapIf (!fieldOk (width w.fmt) d && !f.poisoned) tBAD_OPERAND = .ok () := by
  rcases hd with hd | rfl
  · rw [hd]; rfl
  · rw [h.poisoned, Bool.not_true, Bool.and_false]; rfl

theorem ScalarFiring.commits_bext (hd : fieldOk (width w.fmt) (BitVec.ofNat 64 (f.num .b)) = true ∨ p = true) :
    Commits (.bext w) s f [f.resultOut t p (BitVec.ofInt 64 (bextBits w.fmt (f.lane w.fmt .a).toNat
      (fieldOf (BitVec.ofNat 64 (f.num .b))).1 (fieldOf (BitVec.ofNat 64 (f.num .b))).2))] 0 :=
  h.commits_value rfl (h.descriptor_passes hd) (g := evalBext w) rfl (by rw [Firing.toNat_lane]; rfl)

theorem ScalarFiring.commits_bins (hd : fieldOk (width w.fmt) (BitVec.ofNat 64 (f.num .c)) = true ∨ p = true) :
    Commits (.bins w) s f [f.resultOut t p (BitVec.ofInt 64 (readInt w.fmt (binsBits (f.lane w.fmt .a).toNat
      (f.lane w.fmt .b).toNat (fieldOf (BitVec.ofNat 64 (f.num .c))).1 (fieldOf (BitVec.ofNat 64 (f.num .c))).2)))] 0 :=
  h.commits_value rfl (h.descriptor_passes hd) (g := evalBins w) rfl (by rw [Firing.toNat_lane, Firing.toNat_lane]; rfl)

end

/-! ### ADDRC, MIX, PACK and UNPK (R189, R191, R192) -/

/-- The exact address of R189. -/
def addrOf (w : OpFields) (f : Firing) : Int := (f.num .a : Int) + f.int w.fmt .b * (2 ^ (w.imm.toNat % 8) : Nat)
/-- Do 54 bits not hold it? -/
def addrOut (w : OpFields) (f : Firing) : Bool := decide (addrOf w f < 0) || decide ((2 ^ 54 : Nat) ≤ addrOf w f)

theorem evalAddrc_eq (w : OpFields) (f : Firing) (e : Env) : evalAddrc w f e = evalNat w f e
    (if addrOut w f && trapvOf w && !f.poisoned then .error (tINT_EXCEPT 1 0)
      else .ok (wrapNat 54 (addrOf w f), flagIf (addrOut w f) fOF)) := rfl

theorem evalNat_error {w : OpFields} {f : Firing} {e : Env} {t : Tag} {r : Trap} (hk : f.Scalars)
    (ht : outTag w f e = .ok t) : evalNat w f e (.error r) = .error r :=
  evalInt_error hk ht

/-- An address that 54 bits hold is its own remainder. -/
theorem zeroExtend_ofInt_held {x : Int} (h0 : 0 ≤ x) (h1 : x < (2 ^ 54 : Nat)) :
    (BitVec.ofInt 54 x).zeroExtend 64 = BitVec.ofInt 64 x := by
  lift x to Nat using h0
  rw [BitVec.ofInt_natCast, BitVec.ofInt_natCast]
  refine BitVec.eq_of_toNat_eq ?_
  simp only [BitVec.truncate_eq_setWidth, BitVec.toNat_setWidth, BitVec.toNat_ofNat]
  omega

theorem trunc_z32 (v : Word64) : trunc .z32 v = (v.extractLsb' 0 32).zeroExtend 64 := rfl

theorem trunc_z32_ofNat (n : Nat) : trunc .z32 (BitVec.ofNat 64 n) = (BitVec.ofNat 32 n).zeroExtend 64 := by
  refine BitVec.eq_of_toNat_eq ?_
  simp only [trunc_z32, BitVec.truncate_eq_setWidth, BitVec.toNat_setWidth, BitVec.extractLsb'_toNat, BitVec.toNat_ofNat,
    Nat.shiftRight_zero]
  omega

/-- Two halves of h bits joined in 2h bits. -/
theorem toNat_joinHalves {w h : Nat} (hw : w = 2 * h) (y z : Int) :
    ((BitVec.ofInt w y <<< h) ||| (BitVec.ofInt h z).zeroExtend w).toNat = wrapNat h y * 2 ^ h + wrapNat h z := by
  subst hw
  have hlow : wrapNat h z < 2 ^ h := (BitVec.toNat_ofInt (n := h) z).symm.trans_lt (BitVec.ofInt h z).isLt
  have hwide : wrapNat h z < 2 ^ (2 * h) := hlow.trans_le (Nat.pow_le_pow_right Nat.two_pos (by omega))
  have hcut : wrapNat (2 * h) y % 2 ^ h = wrapNat h y := by
    have hdvd : ((2 ^ h : Nat) : Int) ∣ ((2 ^ (2 * h) : Nat) : Int) := by exact_mod_cast pow_dvd_pow 2 (by omega)
    rw [wrapNat, wrapNat, ← Int.emod_emod_of_dvd y hdvd, Int.toNat_emod (Int.emod_nonneg _ (by positivity)) (by positivity),
      Int.toNat_natCast]
  have hhigh : wrapNat (2 * h) y * 2 ^ h % 2 ^ (2 * h) = 2 ^ h * wrapNat h y := by
    rw [Nat.two_mul, pow_add, Nat.mul_mod_mul_right, ← Nat.two_mul, hcut, Nat.mul_comm]
  rw [BitVec.toNat_or, BitVec.toNat_shiftLeft, BitVec.toNat_setWidth, BitVec.toNat_ofInt, BitVec.toNat_ofInt, Nat.shiftLeft_eq]
  change wrapNat (2 * h) y * 2 ^ h % 2 ^ (2 * h) ||| wrapNat h z % 2 ^ (2 * h) = _
  rw [hhigh, Nat.mod_eq_of_lt hwide, Nat.mul_comm (wrapNat h y), Nat.two_pow_add_eq_or_of_lt hlow]

/-- The bits from k on, as a value of FMT. -/
theorem payloadInt_extract (fmt : Fmt) {w : Nat} (x : BitVec w) (k : Nat) :
    payloadInt (readInt fmt (x.toNat / 2 ^ k)) = extend fmt (x.extractLsb' k (width fmt)) := by
  rw [← payloadInt_readInt, BitVec.extractLsb'_toNat, readInt_mod, Nat.shiftRight_eq_div_pow]

section
variable {w : OpFields} {s : State} {f : Firing} {t : Tag} {p : Bool} (h : ScalarFiring w s f t p)
include h

theorem ScalarFiring.commits_addrc (hgo : (addrOut w f && trapvOf w && !p) = false) :
    Commits (.addrc w) s f [f.resultOut t p ((BitVec.ofInt 54 (addrOf w f)).zeroExtend 64)]
      (if p then 0 else flagIf (addrOut w f) fOF) := by
  refine h.commits_result rfl rfl ((evalAddrc_eq w f _).trans ?_)
  rw [h.poisoned, hgo, BitVec.zeroExtend, ← BitVec.ofNat_toNat, BitVec.toNat_ofInt]
  rfl

theorem ScalarFiring.commits_mix : Commits (.mix w) s f [f.resultOut t p (trunc w.fmt (mix64
    (trunc w.fmt (BitVec.ofNat 64 (f.num .a)) ^^^ mix64 (trunc w.fmt (BitVec.ofNat 64 (f.num .b))))))] 0 :=
  h.commits_value rfl rfl (g := evalMix w) rfl (by rw [BitVec.ofNat_toNat, BitVec.setWidth_eq])

theorem ScalarFiring.commits_mix_z64 (hz : w.fmt = .z64) : Commits (.mix w) s f
    [f.resultOut t p (mix64 (BitVec.ofNat 64 (f.num .a) ^^^ mix64 (BitVec.ofNat 64 (f.num .b))))] 0 := by
  have := h.commits_mix
  rwa [hz] at this

theorem ScalarFiring.commits_mix_z32 (hz : w.fmt = .z32) : Commits (.mix w) s f
    [f.resultOut t p (((mix64 ((BitVec.ofNat 32 (f.num .a)).zeroExtend 64 ^^^
      mix64 ((BitVec.ofNat 32 (f.num .b)).zeroExtend 64))).extractLsb' 0 32).zeroExtend 64)] 0 := by
  have := h.commits_mix
  rwa [hz, trunc_z32_ofNat, trunc_z32_ofNat, trunc_z32] at this

/-- PACK joins what fit makes of its operands in the half format. -/
theorem ScalarFiring.commits_pack (hw : width w.fmt = 2 * width (halfOf w.fmt)) {y z : Int}
    (hy : FitsTo (halfOf w.fmt) (satOf w) (f.int w.fmt .a) y) (hz : FitsTo (halfOf w.fmt) (satOf w) (f.int w.fmt .b) z) :
    Commits (.pack w) s f [f.resultOut t p (extend w.fmt ((BitVec.ofInt (width w.fmt) y <<< width (halfOf w.fmt)) |||
        (BitVec.ofInt (width (halfOf w.fmt)) z).zeroExtend (width w.fmt)))]
      (if p then 0 else (fitPlain (f.int w.fmt .a) (halfOf w.fmt) (satOf w)).2 |||
        (fitPlain (f.int w.fmt .b) (halfOf w.fmt) (satOf w)).2) := by
  refine h.commits_result rfl rfl (g := evalPack w) ?_
  rw [← payloadInt_readInt, toNat_joinHalves hw, ← fitPlain_eq_of_fitsTo hy, ← fitPlain_eq_of_fitsTo hz]
  rfl

theorem ScalarFiring.commits_unpk : Commits (.unpk w) s f
    [f.resultOut t p (extend (halfOf w.fmt) ((f.lane w.fmt .a).extractLsb' (width (halfOf w.fmt)) (width (halfOf w.fmt)))),
      outD1 t (.scalar (extend (halfOf w.fmt) ((f.lane w.fmt .a).extractLsb' 0 (width (halfOf w.fmt)))) p f.eos) none] 0 := by
  refine commits_of_ok rfl (g := evalUnpk w) ((evalOp_ok h.scalars h.tagged).trans ?_)
  rw [h.poisoned, ← payloadInt_extract, ← payloadInt_extract, Firing.toNat_lane, pow_zero, Nat.div_one]
  rfl

end

end Sys2Proof.Machine
end

section
namespace Sys2Proof.Machine

/-! ### The obligation on bits, fields, addresses and halves -/

section
variable {w : OpFields} {s : State} {f : Firing} {t : Tag}

theorem addrOut_iff : addrOut w f = true ↔ addrOf w f < 0 ∨ (2 ^ 54 : Nat) ≤ addrOf w f := by
  rw [addrOut, Bool.or_eq_true, decide_eq_true_eq, decide_eq_true_eq]

theorem traps_addrc (hk : f.Scalars) (hc : f.Clean) (ht : outTag w f (s.env f) = .ok t) (hout : addrOut w f = true)
    (hv : w.var = 1) : Traps (.addrc w) s f { trapOf 0x0E 1 with flags := 0 } := by
  refine traps_of_error rfl (t := tINT_EXCEPT 1 0) ((evalAddrc_eq w f _).trans ?_) rfl
  rw [hout, trapvOf_eq_true hv, Firing.poisoned_clean hc]
  exact evalNat_error hk ht

end

/-- PACK sets OF when SAT clamped a half. -/
theorem fitPlain_flags_pair (fmt : Fmt) (sat : Bool) (x y : Int) : (fitPlain x fmt sat).2 ||| (fitPlain y fmt sat).2 =
    if sat && ((decide (x < intLo fmt) || decide (intHi fmt < x)) || (decide (y < intLo fmt) || decide (intHi fmt < y)))
    then fOF else 0 := by
  rw [fitPlain_flags, fitPlain_flags]
  cases sat <;> cases decide (x < intLo fmt) || decide (intHi fmt < x) <;>
    cases decide (y < intLo fmt) || decide (intHi fmt < y) <;> rfl

/-- Settles O3: the clean case of what each instruction commits; a malformed descriptor and, under TRAPV, an address past
54 bits trap. -/
theorem bitwiseShiftsAndFields : Obligations.BitwiseShiftsAndFields := by
  unfold Obligations.BitwiseShiftsAndFields
  refine ⟨?bitwise, ?compare, ?fields, ?others⟩
  case bitwise =>
    intro w s f t hk hc ht a b n out
    have h := ScalarFiring.of_clean hk hc ht
    refine ⟨h.commits_and, h.commits_or, h.commits_xor, h.commits_andn, h.commits_shl, h.commits_shr, h.commits_sra,
      h.commits_rotl, h.commits_min, h.commits_max, fun k hk habove hset => ?_, h.commits_popc, h.commits_mulh⟩
    have := h.commits_clz
    rwa [clzBits_eq a hk habove hset] at this
  case compare =>
    intro w s f t hk hc ht _ a b both out
    exact (ScalarFiring.of_clean hk hc ht).commits_cmp
  case fields =>
    intro w s f t hk hc ht desc bad a b
    have h := ScalarFiring.of_clean hk hc ht
    refine ⟨fun hd => traps_of_malformed hk hc (g := evalBext w) rfl hd rfl,
      fun hd => traps_of_malformed hk hc (g := evalBins w) rfl hd rfl,
      fun hd => ?bext, fun hd => ?bins⟩
    case bext =>
      have := h.commits_bext (.inl (fieldOk_iff.mpr hd))
      rwa [bextBits_toNat] at this
    case bins =>
      intro pos len r hr
      have hfits : pos + len ≤ width w.fmt := not_lt.mp fun hlt => hd (.inr (.inr hlt))
      have hbits := toNat_eq_binsBits a b r hfits hr
      rw [← payloadInt_readInt, hbits]
      exact h.commits_bins (.inl (fieldOk_iff.mpr hd))
  case others =>
    intro w s f t hk hc ht x half
    have h := ScalarFiring.of_clean hk hc ht
    refine ⟨fun h0 h1 => ?held, fun hout => traps_addrc hk hc ht (addrOut_iff.mpr hout), fun hout hv => ?wraps,
      h.commits_mix_z64, h.commits_mix_z32, fun hw y z => ?pack, h.commits_unpk⟩
    case held =>
      have hin : addrOut w f = false := Bool.eq_false_iff.mpr fun hout => by
        have : x < 0 ∨ ((2 ^ 54 : Nat) : Int) ≤ x := addrOut_iff.mp hout
        omega
      have := h.commits_addrc (by rw [hin]; rfl)
      rwa [hin, show addrOf w f = x from rfl, zeroExtend_ofInt_held h0 h1] at this
    case wraps =>
      have := h.commits_addrc (by rw [trapvOf_eq_false hv, Bool.and_false]; rfl)
      rwa [addrOut_iff.mpr hout] at this
    case pack =>
      intro fits leaves hy hz
      have := h.commits_pack hw hy hz
      rwa [fitPlain_flags_pair] at this

/-! ### The obligation on poison (R179) -/

section
variable {w : OpFields} {s : State} {f : Firing} {t : Tag} (h : ScalarFiring w s f t true)
include h

/-- fit of a poisoned firing's result sets no flag and does not trap. -/
theorem ScalarFiring.commits_fit {i : Instr} {g : Firing → Env → Ex Commit} {x y : Int} (hexec : exec i s = runOp s g)
    (hg : g f (s.env f) = evalInt w f (s.env f) (.ok ()) (fitOf w f w.fmt x)) (hy : FitsTo w.fmt (satOf w) x y) :
    Commits i s f [f.resultOut t true (BitVec.ofInt 64 y)] 0 := by
  rw [fitOf_poisoned h.poisoned, fitPlain_eq_of_fitsTo hy] at hg
  exact h.commits_value hexec rfl hg rfl

theorem ScalarFiring.commits_floatInt {i : Instr} {g : Firing → Env → Ex Commit} {u v : Word64} {fl : Flags}
    (hexec : exec i s = runOp s g) (hg : g f (s.env f) = evalFloatInt w f (s.env f) u fl) (hv : u = v) :
    Commits i s f [f.resultOut t true v] 0 := by
  subst hv
  have hquiet : cleanFlags f fl = [(0, 0)] := by rw [cleanFlags, h.poisoned]; rfl
  refine commits_of_ok hexec (hg.trans ?_)
  rw [evalFloatInt, hquiet, evalOp_float_ok h.scalars h.tagged (by simp [firstElem_scalar, enabledBy]),
    scalarRes, h.poisoned]
  rfl

/-- A NaN or an infinity is written as +0. -/
theorem ScalarFiring.commits_float {i : Instr} {g : Firing → Env → Ex Commit} {fmt : Fmt} {r : Nat × Flags}
    (hexec : exec i s = runOp s g) (hg : g f (s.env f) = evalFloat w f (s.env f) fmt r) :
    Commits i s f [f.resultOut t true (if special fmt r.1 then 0 else BitVec.ofNat 64 r.1)] 0 := by
  refine h.commits_floatInt hexec hg ?_
  rw [h.poisoned, Bool.true_and]
  split <;> rfl

end

theorem kindAt_false (q : Port) : kindAt false false false q = false := by
  cases q <;> rfl

theorem readInt_zero (fmt : Fmt) : readInt fmt 0 = 0 := by
  cases fmt <;> rfl

/-- A poisoned port reads as 0 in any format. -/
theorem Firing.int_of_isPoisoned {f : Firing} (hk : f.Scalars) {p : Port} (hp : f.isPoisoned p = true) (fmt : Fmt) :
    f.int fmt p = 0 := by
  have hnum : f.num p = 0 := by
    unfold Firing.num
    unfold Firing.isPoisoned at hp
    unfold Firing.val Firing.opnd at hp ⊢
    cases hfind : f.ops.find? (fun o => o.port == p) with
    | none => rfl
    | some o =>
      rw [hfind] at hp
      have htile := hk o (List.mem_of_find?_eq_some hfind)
      simp only [Option.map_some, Option.getD_some] at hp ⊢
      cases hval : o.val with
      | scalar v poison eos =>
        rw [hval, Val.poisoned] at hp
        rw [Val.stand, if_pos hp]
        rfl
      | tile d bytes =>
        rw [hval, kindAt_false] at htile
        cases htile
  rw [Firing.int, hnum, readInt_zero]

section
variable {w : OpFields} {f : Firing} {e : Env} (hk : f.Scalars) (hp : f.isPoisoned .b = true)
include hk hp

theorem evalDiv_of_poisoned : evalDiv w f e = evalInt w f e (.ok ()) (.ok (0, 0)) := by
  simp only [evalDiv, Firing.int_of_isPoisoned hk hp, hp, if_true]

theorem evalRem_of_poisoned : evalRem w f e = evalInt w f e (.ok ()) (.ok (0, 0)) := by
  simp only [evalRem, Firing.int_of_isPoisoned hk hp, hp, if_true]

end

/-- Settles O7: what each instruction commits holds of a poisoned firing too; fit and the floating operators drop their
flags, and a divisor that is poisoned reads as 0. -/
theorem poisonIsCarried : Obligations.PoisonIsCarried := by
  unfold Obligations.PoisonIsCarried
  intro w s f t hk hp ht out gives fits a b x y n bits half finite ftz ro src
  have h : ScalarFiring w s f t true := ⟨hk, hp, ht⟩
  have hlane (q : Port) : f.bits w.fmt q = (f.lane w.fmt q).toNat := (f.toNat_lane w.fmt q).symm
  refine ⟨?exact, ?quotient, ?remainder, ?poisonedDivisor, ?zeroDivisor, h.commits_mulh, h.commits_and, h.commits_or,
    h.commits_xor, h.commits_andn, h.commits_shl, h.commits_shr, h.commits_sra, h.commits_rotl, h.commits_min, h.commits_max,
    h.commits_clz, h.commits_popc, fun _ => h.commits_cmp, ⟨_, h.commits_bext (.inr rfl)⟩, ⟨_, h.commits_bins (.inr rfl)⟩,
    fun _ => ?bext, fun _ => ?bins, h.commits_addrc (Bool.and_false _), h.commits_mix_z64, h.commits_mix_z32,
    fun hw u v hu hv => h.commits_pack hw hu hv, h.commits_unpk, ?exactFloat, ?signs, ?fmin, ?fmax, ?fcmp,
    h.commits_float (g := evalFcvt w) rfl rfl, h.commits_floatInt (g := evalFclass w) rfl rfl rfl,
    h.commits_floatInt (g := evalFtoi w) rfl rfl rfl, h.commits_float (g := evalItof w) rfl rfl⟩
  case exact =>
    intro i v u hi hu
    obtain ⟨g, hexec, hg⟩ := exactInt_eval hi
    exact h.commits_fit (hexec s) (hg _) hu
  case quotient => exact fun hy u hu => h.commits_fit (g := evalDiv w) rfl (evalDiv_of_ne_zero hy) hu
  case remainder => exact fun hy => h.commits_value (g := evalRem w) rfl rfl (evalRem_of_ne_zero hy) rfl
  case poisonedDivisor =>
    exact fun hb => ⟨h.commits_value (g := evalDiv w) rfl rfl (evalDiv_of_poisoned hk hb) rfl,
      h.commits_value (g := evalRem w) rfl rfl (evalRem_of_poisoned hk hb) rfl⟩
  case zeroDivisor =>
    intro hy hb
    refine ⟨?_, h.commits_result (g := evalRem w) rfl rfl (evalRem_of_zero hy hb)⟩
    have hquot := evalDiv_of_zero (e := s.env f) hy hb
    rw [hp, Bool.not_true, Bool.and_false] at hquot
    have := h.commits_result (i := .div w) rfl rfl hquot
    rwa [payloadInt_quotientByZero] at this
  case bext =>
    have := h.commits_bext (.inr rfl)
    rwa [fieldOf_ofNat] at this
  case bins =>
    have := h.commits_bins (.inr rfl)
    rwa [fieldOf_ofNat] at this
  case exactFloat =>
    intro i v fl hi
    obtain ⟨g, hexec, hg⟩ := exactFloat_eval hi
    exact h.commits_float (r := rounded w f (s.env f) (v, fl)) (hexec s) (hg _)
  case signs =>
    intro sign hf
    refine ⟨h.commits_value (g := evalAbs w) rfl rfl (if_pos hf) ?_, h.commits_value (g := evalNeg w) rfl rfl (if_pos hf) ?_⟩
    · rw [hlane, floatAbs, ← clearSign_eq (width_pos _)]
    · rw [hlane, ← flipSign_eq (width_pos _) _ rfl]
  case fmin =>
    have := h.commits_float (i := .fmin w) (g := evalFmin w) rfl rfl
    rwa [hlane, hlane] at this
  case fmax =>
    have := h.commits_float (i := .fmax w) (g := evalFmax w) rfl rfl
    rwa [hlane, hlane] at this
  case fcmp =>
    refine h.commits_floatInt (g := evalFcmp w) rfl rfl ?_
    cases (fvCompare w.var.toNat (f.fv w .a) (f.fv w .b)).1 <;> rfl

end Sys2Proof.Machine
end

section
namespace Sys2Proof.Machine

/-! ## Tiles converted, transposed and cut (R202, R211, R216, R217) -/

/-! ### The checks that come before the tag (R200), where they find nothing -/

theorem checks_ok {x y : Ex Unit} (hx : x = .ok ()) (hy : y = .ok ()) : (x *> y) = .ok () := by
  rw [hx, hy]
  rfl

theorem trapIf_of_false {p : Bool} {r : Trap} (h : p = false) : trapIf p r = .ok () := by rw [h]; rfl

theorem needFmt_ok {f : Firing} {p : Port} {fmt : Fmt} (h : (f.handle p).fmt = fmt) : needFmt f p fmt = .ok () :=
  trapIf_of_false (by rw [h, bne_self_eq_false])

theorem needShape_ok {f : Firing} {p : Port} {rows cols : Nat} (hr : (f.handle p).rows = rows) (hc : (f.handle p).cols = cols) :
    needShape f p rows cols = .ok () :=
  trapIf_of_false (by rw [hr, hc, bne_self_eq_false, bne_self_eq_false, Bool.or_self])

theorem needFits_ok {fmt : Fmt} {rows cols : Nat} (h : Enc.shapeOk fmt rows cols = true) : needFits fmt rows cols = .ok () :=
  trapIf_of_false (by rw [h, Bool.not_true])

/-- An operator whose checks pass, floating or not, none of whose flags is enabled in FPEN where that counts (R173). -/
theorem evalOp_quiet {w : OpFields} {f : Firing} {e : Env} {a b c fp : Bool} {pre : Ex Unit} {rs : List Res} {fl : ElemFlags}
    {t : Tag} (hk : f.Kinds a b c) (hp : pre = .ok ()) (ht : outTag w f e = .ok t)
    (hfp : fp = true → firstElem (enabledFlags e.fpen) fl = none) :
    evalOp w f e (a, b, c) pre fp (.ok (rs, fl)) = .ok (Commit.ofRes t rs (orAll fl)) := by
  cases fp with
  | false => exact evalOp_pre_ok hk hp ht
  | true =>
    subst hp
    exact evalOp_float_ok hk ht (hfp rfl)

/-! ### A tile none of whose elements raises a flag -/

theorem gridFlags_eq_nil {g : List (List (Nat × Flags))} (h : ∀ r ∈ g, ∀ x ∈ r, x.2 = 0) : gridFlags g = [] := by
  rw [gridFlags, List.filterMap_eq_nil_iff]
  intro p hp
  obtain ⟨r, hr, hx⟩ := List.mem_flatten.mp (List.fst_mem_of_mem_zipIdx hp)
  rw [if_pos (h r hr _ hx)]

theorem tileElem_flags_zero (fmt : Fmt) (bad : Bool) (x : Nat) : (tileElem fmt bad (x, 0)).2 = 0 := by
  cases bad <;> rfl

/-- Elements moved without arithmetic leave no flags, padding rows included. -/
theorem tileApply_flags_nil (fmt : Fmt) (rows cols valid : Nat) (poison : BitVec 8) (v : Nat → Nat → Nat) :
    (tileApply fmt rows cols valid poison fun i j => (v i j, 0)).2 = [] := by
  refine gridFlags_eq_nil fun r hr x hx => ?_
  obtain ⟨i, -, rfl⟩ := List.mem_map.mp hr
  split at hx
  · obtain ⟨j, -, rfl⟩ := List.mem_map.mp hx
    exact tileElem_flags_zero ..
  · rw [List.eq_of_mem_replicate hx]

/-! ### VCVT (R211) -/

section
variable {w : OpFields} {f : Firing} {e : Env} {t : Tag}

/-- Rounding of a conversion: FTZ acts on a floating source. -/
def cvtRound (w : OpFields) (f : Firing) (e : Env) : Round :=
  { rounding w f e with ftz := w.mod.getLsbD 3 && !cvtInt w }

/-- The elements of a conversion into a format without scales, and their flags. -/
def cvtTile (w : OpFields) (f : Firing) (e : Env) : List Byte × ElemFlags :=
  let a := f.handle .a
  tileApply w.fmt a.rows a.cols a.valid a.poison fun i j =>
    if isMX (srcOf w) then cvtValue w (cvtRound w f e) (i * a.cols + j) (valueIn a (cvtRound w f e).ftz (f.tile .a).2 i j)
    else cvtElem w (cvtRound w f e) (i * a.cols + j) (elemIn a (f.tile .a).2 i j)

/-- The blocks of a conversion into an MX format, row by row. -/
def cvtBlocks (w : OpFields) (f : Firing) (e : Env) : List (List Nat × List (Nat × Flags)) :=
  mxConverted w (cvtRound w f e) (f.handle .a) (f.tile .a).2

/-- The flags of a conversion raise nothing: it goes from integers to integers, or none of them is enabled (R173). -/
def CvtQuiet (w : OpFields) (e : Env) (fl : ElemFlags) : Prop :=
  (cvtInt w && (Enc.Fmt.isInt w.fmt || w.fmt == .s4)) = true ∨ firstElem (enabledFlags e.fpen) fl = none

theorem CvtQuiet.firstElem_none {fl : ElemFlags} (h : CvtQuiet w e fl)
    (hfp : (!(cvtInt w && (Enc.Fmt.isInt w.fmt || w.fmt == .s4))) = true) : firstElem (enabledFlags e.fpen) fl = none :=
  h.resolve_left (by rwa [Bool.not_eq_true, ← Bool.not_eq_true'])

variable (hk : f.Kinds true false false) (ht : outTag w f e = .ok t) (hfmt : (f.handle .a).fmt = srcOf w)
  (hshape : Enc.shapeOk w.fmt (f.handle .a).rows (f.handle .a).cols = true)
include hk ht hfmt hshape

theorem evalVcvt_elements (hmx : isMX w.fmt = false) (hq : CvtQuiet w e (cvtTile w f e).2) :
    evalVcvt w f e = .ok ⟨[f.tileOut t false w.fmt (f.handle .a).rows (f.handle .a).cols (f.handle .a).valid
      (f.handle .a).poison (cvtTile w f e).1], orAll (cvtTile w f e).2⟩ := by
  have hpre := checks_ok (needFmt_ok hfmt) (needFits_ok hshape)
  simp only [evalVcvt, hmx, Bool.false_eq_true, if_false]
  exact evalOp_quiet hk hpre ht hq.firstElem_none

theorem evalVcvt_blocks (hmx : isMX w.fmt = true) (hq : CvtQuiet w e (gridFlags ((cvtBlocks w f e).map Prod.snd))) :
    evalVcvt w f e = .ok ⟨[f.tileOut t false w.fmt (f.handle .a).rows (f.handle .a).cols (f.handle .a).valid
      (f.handle .a).poison ((cvtBlocks w f e).flatMap fun r => packRow w.fmt (r.2.map Prod.fst) r.1)],
      orAll (gridFlags ((cvtBlocks w f e).map Prod.snd))⟩ := by
  have hpre := checks_ok (needFmt_ok hfmt) (needFits_ok hshape)
  simp only [evalVcvt, hmx, if_true]
  exact evalOp_quiet hk hpre ht hq.firstElem_none

end

/-! ### VTRAN and VSLIC (R216, R217) -/

section
variable {w : OpFields} {f : Firing} {e : Env} {t : Tag} (hk : f.Kinds true false false) (ht : outTag w f e = .ok t)
  (hfmt : (f.handle .a).fmt = w.fmt)
include hk ht hfmt

theorem evalVtran_ok (hcols : (f.handle .a).cols ≤ 64) (hshape : Enc.shapeOk w.fmt (f.handle .a).cols (f.handle .a).rows = true) :
    evalVtran w f e = .ok ⟨[f.tileOut t false w.fmt (f.handle .a).cols (f.handle .a).rows (f.handle .a).cols
      (if (f.handle .a).poison != 0 then poisonAll (f.handle .a).cols else 0)
      (tileApply w.fmt (f.handle .a).cols (f.handle .a).rows (f.handle .a).cols
        (if (f.handle .a).poison != 0 then poisonAll (f.handle .a).cols else 0)
        fun i j => (cellOf (f.grid .a) j i, 0)).1], 0⟩ := by
  have hrows := trapIf_of_false (r := tBAD_OPERAND) (decide_eq_false hcols.not_gt)
  have hpre := checks_ok (checks_ok (needFmt_ok hfmt) hrows) (needFits_ok hshape)
  rw [evalVtran, evalTile, evalOp_pre_ok hk hpre ht, tileApply_flags_nil]
  rfl

end

/-- A window of a tile: its first row and column, and its shape (R217). -/
structure TileWindow where
  row0 : Nat
  col0 : Nat
  rows : Nat
  cols : Nat

/-- The window that a descriptor of VSLIC names (R217). -/
def TileWindow.ofWord (d : Nat) : TileWindow :=
  { row0 := d % 64, col0 := d / 2 ^ 6 % 512, rows := d / 2 ^ 15 % 64 + 1, cols := d / 2 ^ 21 % 512 + 1 }

section
variable (q : TileWindow) (h : Handle) (data : List Byte)

/-- The valid rows of the window. -/
def TileWindow.valid : Nat := min q.rows (h.valid - q.row0)

/-- Poison of the window's rows. -/
def TileWindow.poison : BitVec 8 := poisonRows q.rows fun i => rowPoisoned h (q.row0 + i)

/-- The window's elements in a format, and its scales in an MX one. -/
def TileWindow.bytes (fmt : Fmt) : List Byte :=
  (List.range q.rows).flatMap fun i =>
    if i < q.valid h then
      let row := rowMoved h data (q.row0 + i) ((q.poison h).getLsbD (group q.rows i))
      packRow fmt ((List.range q.cols).map fun j => elemBits fmt row (q.col0 + j))
        (if isMX fmt then (List.range (q.cols / 32)).map fun j => scaleByte fmt h.cols row (q.col0 / 32 + j) else [])
    else zeros (rowLen fmt q.cols)

end

/-- The window lies in the tile, in steps of its format, as R217 asks of the bits of its descriptor. -/
theorem windowChecks_eq_false {q : TileWindow} {h : Handle} {d k : Nat} (hd : d < 2 ^ 30) (hrows : q.row0 + q.rows ≤ h.rows)
    (hcols : q.col0 + q.cols ≤ h.cols) (hcol0 : q.col0 % k = 0) (hwidth : q.cols % k = 0) :
    (d / 2 ^ 30 != 0 || decide (h.rows < q.row0 + q.rows) || decide (h.cols < q.col0 + q.cols) || q.col0 % k != 0 ||
      q.cols % k != 0) = false := by
  rw [Nat.div_eq_of_lt hd, decide_eq_false hrows.not_gt, decide_eq_false hcols.not_gt, hcol0, hwidth]
  rfl

theorem evalVslic_ok {w : OpFields} {f : Firing} {e : Env} {t : Tag} {d : Nat} {q : TileWindow} (hk : f.Kinds true false false)
    (ht : outTag w f e = .ok t) (hfmt : (f.handle .a).fmt = w.fmt) (hword : (f.word' .b).toNat % 2 ^ 32 = d)
    (hq : TileWindow.ofWord d = q) (hd : d < 2 ^ 30) (hrows : q.row0 + q.rows ≤ (f.handle .a).rows)
    (hcols : q.col0 + q.cols ≤ (f.handle .a).cols) (hcol0 : q.col0 % windowStep w.fmt = 0)
    (hwidth : q.cols % windowStep w.fmt = 0) (hshape : Enc.shapeOk w.fmt q.rows q.cols = true)
    (hclean : f.isPoisoned .b = false) :
    evalVslic w f e = .ok ⟨[f.tileOut t false w.fmt q.rows q.cols (q.valid (f.handle .a)) (q.poison (f.handle .a))
      (q.bytes (f.handle .a) (f.tile .a).2 w.fmt)], 0⟩ := by
  subst hword hq
  have hwindow := trapIf_of_false (r := tBAD_OPERAND) (windowChecks_eq_false hd hrows hcols hcol0 hwidth)
  have hpre := checks_ok (checks_ok (checks_ok (needFmt_ok hfmt) hwindow) (needFits_ok hshape)) (checkPoison_ok (c := 1) hclean)
  exact evalOp_pre_ok hk hpre ht

/-- Settles O12: each of the three passes its checks, and what is left is its one result tile. -/
theorem tileReshape : Obligations.TileReshape := by
  unfold Obligations.TileReshape
  intro w s f t hk ht a data src ro c m toInt quiet d row0 col0 nr nc
  refine ⟨?elements, ?blocks, ?transposed, ?window⟩
  case elements =>
    exact fun hfmt hmx hshape hq => commits_of_ok (g := evalVcvt w) rfl (evalVcvt_elements hk ht hfmt hshape hmx hq)
  case blocks =>
    exact fun hfmt hmx hshape hq => commits_of_ok (g := evalVcvt w) rfl (evalVcvt_blocks hk ht hfmt hshape hmx hq)
  case transposed =>
    exact fun hfmt hcols hshape => commits_of_ok (g := evalVtran w) rfl (evalVtran_ok hk ht hfmt hcols hshape)
  case window =>
    intro hfmt hd hrows hcols hcol0 hwidth hshape hclean
    exact commits_of_ok (g := evalVslic w) rfl
      (evalVslic_ok hk ht hfmt rfl rfl hd hrows hcols hcol0 hwidth hshape hclean)

end Sys2Proof.Machine
end

section
namespace Sys2Proof.Machine

/-! ## Rows ranked, split, merged and steered (R202, R221, R226, R228 to R231) -/

/-! ### Lists by index -/

/-- What is made of each element and its index, one after another, by index alone. -/
theorem flatten_mapIdx {α β : Type} {l : List α} {r : Nat → α} (hr : ∀ j (hj : j < l.length), l[j] = r j)
    (g : Nat → α → List β) : (l.mapIdx g).flatten = (List.range l.length).flatMap fun j => g j (r j) := by
  have hmap : l.mapIdx g = (List.range l.length).map fun j => g j (r j) :=
    List.ext_getElem (by simp) fun j hj _ => by simp [hr j (by simpa using hj)]
  rw [hmap, List.flatMap]

theorem flatten_mapIdx_getD {α β : Type} {l : List α} (d : α) (g : Nat → α → List β) :
    (l.mapIdx g).flatten = (List.range l.length).flatMap fun j => g j (l.getD j d) :=
  flatten_mapIdx (fun _ hj => (List.getD_eq_getElem l d hj).symm) g

/-- Two lists made by index, joined. -/
theorem map_range_append {α : Type} (m n : Nat) (g h : Nat → α) :
    (List.range m).map g ++ (List.range n).map h = (List.range (m + n)).map fun j => if j < m then g j else h (j - m) := by
  have hleft : (List.range m).map (fun j => if j < m then g j else h (j - m)) = (List.range m).map g :=
    List.map_congr_left fun j hj => if_pos (List.mem_range.mp hj)
  rw [List.range_add, List.map_append, hleft, List.map_map]
  congr 1
  refine List.map_congr_left fun j _ => ?_
  simp

/-! ### A result for each side that has a destination (R221) -/

/-- The outputs of two results under one tag. -/
def Firing.sides (f : Firing) (t : Tag) (x y : Val) : List Out :=
  (if f.outs0.isEmpty then [] else [outD0 t x none]) ++ (if f.outs1.isEmpty then [] else [outD1 t y none])

theorem map_built {β : Type} (f : Firing) (x y : Val) (g : Res → β) : (built f [res0 x, res1 y]).map g =
    (if f.outs0.isEmpty then [] else [g (res0 x)]) ++ (if f.outs1.isEmpty then [] else [g (res1 y)]) := by
  cases h0 : f.outs0.isEmpty <;> cases h1 : f.outs1.isEmpty <;> simp [built, res0, res1, h0, h1]

/-- An operator with a result for each side, which leaves no flag. -/
theorem evalOp_sides {w : OpFields} {f : Firing} {e : Env} {a b c : Bool} {pre : Ex Unit} {t : Tag} {x y : Val}
    (hk : f.Kinds a b c) (hp : pre = .ok ()) (ht : outTag w f e = .ok t) :
    evalOp w f e (a, b, c) pre false (.ok (built f [res0 x, res1 y], [])) = .ok ⟨f.sides t x y, 0⟩ := by
  rw [evalOp_pre_ok hk hp ht, Commit.ofRes, map_built]
  rfl

/-! ### TOPK, SORT and PARTN (R226, R228, R229) -/

section
variable {w : OpFields} {f : Firing} {e : Env} {t : Tag}

/-- The first k of each ranked row, with their columns; zeros from VALID on. -/
def rankedRows (w : OpFields) (f : Firing) (desc : Bool) (k : Nat) : List (List (Nat × Nat)) :=
  (List.range (f.handle .a).rows).map fun i =>
    if i < (f.handle .a).valid then (rankRow desc w.fmt ((f.grid .a).getD i [])).take k else List.replicate k (0, 0)

/-- A tile of k columns with the rows, VALID and POISON of port a's. -/
def Firing.narrowed (f : Firing) (fmt : Fmt) (k : Nat) (data : List Byte) : Val :=
  tileRes f fmt (f.handle .a).rows k (f.handle .a).valid (f.handle .a).poison data

/-- How many elements PARTN divides: SEQ says it under VAR 1, else they are all the valid ones. -/
def partnCount (w : OpFields) (f : Firing) : Nat :=
  if w.var == 1 then (f.handle .a).seq.toNat else (f.handle .a).valid * (f.handle .a).cols

/-- The elements that PARTN divides. -/
def partnElems (w : OpFields) (f : Firing) : List Nat := (f.grid .a).flatten.take (partnCount w f)

/-- Does an element rank below the pivot on port b? -/
def belowPivot (w : OpFields) (f : Firing) (x : Nat) : Bool :=
  decide (rankOf false w.fmt x < rankOf false w.fmt (f.bits w.fmt .b))

variable (hk : f.Kinds true false false) (ht : outTag w f e = .ok t) (hfmt : (f.handle .a).fmt = w.fmt)
include hk ht hfmt

theorem evalRanked_ok {desc : Bool} {k : Nat} (hcols : k ≤ (f.handle .a).cols)
    (hindex : f.outs1 = [] ∨ Enc.shapeOk .z32 (f.handle .a).rows k = true) :
    evalRanked w f e desc k = .ok ⟨f.sides t
      (f.narrowed w.fmt k ((rankedRows w f desc k).flatMap fun r => packElems w.fmt (r.map Prod.fst)))
      (f.narrowed .z32 k ((rankedRows w f desc k).flatMap fun r => packElems .z32 (r.map Prod.snd))), 0⟩ := by
  have hwide := trapIf_of_false (r := tBAD_OPERAND) (decide_eq_false hcols.not_gt)
  have hshape : (!f.outs1.isEmpty && !Enc.shapeOk .z32 (f.handle .a).rows k) = false := by
    rcases hindex with h | h <;> simp [h]
  exact evalOp_sides hk (checks_ok (checks_ok (needFmt_ok hfmt) hwide) (trapIf_of_false hshape)) ht

theorem evalPartn_ok (hcount : partnCount w f ≤ (f.handle .a).valid * (f.handle .a).cols) (hpivot : f.isPoisoned .b = false) :
    evalPartn w f e = .ok ⟨f.sides t (partnTile w f ((partnElems w f).filter (belowPivot w f)))
      (partnTile w f ((partnElems w f).filter fun x => !belowPivot w f x)), 0⟩ := by
  have hfull := trapIf_of_false (r := tBAD_OPERAND) (decide_eq_false hcount.not_gt)
  exact evalOp_sides hk (checks_ok (checks_ok (needFmt_ok hfmt) hfull) (checkPoison_ok (c := 2) hpivot)) ht

end

/-! ### ORDMRG (R231) -/

/-- Row j of two tiles' valid rows joined: the tile it comes from, and its row there. -/
def joinedRow (x y : Handle × List Byte) (j : Nat) : Handle × List Byte × Nat :=
  if j < x.1.valid then (x.1, x.2, j) else (y.1, y.2, j - x.1.valid)

/-- Poison of the tile of the joined rows, which has at least one row. -/
def joinedPoison (x y : Handle × List Byte) : BitVec 8 :=
  poisonOf (max (x.1.valid + y.1.valid) 1) ((List.range (x.1.valid + y.1.valid)).filter fun j =>
    rowPoisoned (joinedRow x y j).1 (joinedRow x y j).2.2)

/-- The bytes of the joined rows. -/
def joinedBytes (x y : Handle × List Byte) : List Byte :=
  (List.range (x.1.valid + y.1.valid)).flatMap fun j =>
    rowMoved (joinedRow x y j).1 (joinedRow x y j).2.1 (joinedRow x y j).2.2
      ((joinedPoison x y).getLsbD (group (max (x.1.valid + y.1.valid) 1) j))

theorem rows_eq_joinedRow (x y : Handle × List Byte) :
    ((List.range x.1.valid).map (fun i => (x.1, x.2, i)) ++ (List.range y.1.valid).map fun i => (y.1, y.2, i)) =
      (List.range (x.1.valid + y.1.valid)).map (joinedRow x y) :=
  map_range_append ..

/-- The tile whose rows come first has the lower SEQ; it is port a's where both have the same. -/
theorem evalOrdmrg_ok {w : OpFields} {f : Firing} {e : Env} {t : Tag} {x y : Handle × List Byte}
    (hk : f.Kinds true true false) (ht : outTag w f e = .ok t) (hfa : (f.handle .a).fmt = w.fmt)
    (hfb : (f.handle .b).fmt = w.fmt) (hcols : (f.handle .a).cols = (f.handle .b).cols)
    (hxy : (if (f.tile .b).1.seq.toNat < (f.tile .a).1.seq.toNat then (f.tile .b, f.tile .a) else (f.tile .a, f.tile .b)) = (x, y))
    (htotal : x.1.valid + y.1.valid ≤ 64) (hshape : Enc.shapeOk w.fmt (max (x.1.valid + y.1.valid) 1) (f.handle .a).cols = true) :
    evalOrdmrg w f e = .ok ⟨[outD0 t ((tileRes f w.fmt (max (x.1.valid + y.1.valid) 1) (f.handle .a).cols (x.1.valid + y.1.valid)
      (joinedPoison x y) (fitBytes (max (x.1.valid + y.1.valid) 1 * (f.handle .a).rowLen) (joinedBytes x y))).withSeq x.1.seq)
        none], 0⟩ := by
  have hlength : ((List.range (x.1.valid + y.1.valid)).map (joinedRow x y)).length = x.1.valid + y.1.valid := by simp
  have hpoison : (List.range (x.1.valid + y.1.valid)).filter (fun j =>
      ((((List.range (x.1.valid + y.1.valid)).map (joinedRow x y))[j]?).map fun r => rowPoisoned r.1 r.2.2).getD false) =
      (List.range (x.1.valid + y.1.valid)).filter fun j => rowPoisoned (joinedRow x y j).1 (joinedRow x y j).2.2 :=
    List.filter_congr fun j hj => by simp [List.mem_range.mp hj]
  have hbad : ((f.tile .a).1.cols != (f.tile .b).1.cols || decide (64 < x.1.valid + y.1.valid)) = false := by
    rw [decide_eq_false htotal.not_gt, Bool.or_false, show (f.tile .a).1.cols = (f.tile .b).1.cols from hcols, bne_self_eq_false]
  have hrow : ∀ j (hj : j < ((List.range (x.1.valid + y.1.valid)).map (joinedRow x y)).length),
      ((List.range (x.1.valid + y.1.valid)).map (joinedRow x y))[j] = joinedRow x y j := by simp
  simp only [evalOrdmrg, hxy, rows_eq_joinedRow, flatten_mapIdx hrow, hlength, hpoison]
  have hjoin := trapIf_of_false (r := tBAD_OPERAND) hbad
  exact evalOp_pre_ok hk (checks_ok (checks_ok (checks_ok (needFmt_ok hfa) (needFmt_ok hfb)) hjoin) (needFits_ok hshape)) ht

/-! ### STEER (R230) -/

section
variable (w : OpFields) (f : Firing) (v : Nat)

/-- The valid rows of port a's tile whose bucket, on port b, is v. -/
def steerRows : List Nat := (List.range (f.handle .a).valid).filter fun i => cellOf (f.grid .b) i 0 == v

/-- Rows of the bucket's two tiles, which have at least one. -/
def steerHeight : Nat := max (steerRows f v).length 1

/-- Poison of the bucket's two tiles. -/
def steerPoison : BitVec 8 :=
  poisonOf (steerHeight f v) ((List.range (steerRows f v).length).filter fun j => rowPoisoned (f.handle .a) ((steerRows f v).getD j 0))

/-- The tile of the bucket's rows. -/
def steerTile : Val :=
  tileRes f w.fmt (steerHeight f v) (f.handle .a).cols (steerRows f v).length (steerPoison f v)
    (fitBytes (steerHeight f v * (f.handle .a).rowLen) ((List.range (steerRows f v).length).flatMap fun j =>
      rowMoved (f.handle .a) (f.tile .a).2 ((steerRows f v).getD j 0) ((steerPoison f v).getLsbD (group (steerHeight f v) j))))

/-- The tile of the indices of the bucket's rows. -/
def steerIndices : Val :=
  tileRes f .z32 (steerHeight f v) 1 (steerRows f v).length (steerPoison f v)
    (fitBytes (steerHeight f v * 4) ((steerRows f v).flatMap fun i => leBytes 4 i))

end

theorem evalSteer_ok {w : OpFields} {f : Firing} {e : Env} (hk : f.Kinds true true false) (hfa : (f.handle .a).fmt = w.fmt)
    (hfb : (f.handle .b).fmt = .z32) (hrows : (f.handle .b).rows = (f.handle .a).rows) (hcols : (f.handle .b).cols = 1)
    (hvalid : (f.handle .a).valid ≤ (f.handle .b).valid)
    (hbucket : ∀ i < (f.handle .a).valid, cellOf (f.grid .b) i 0 < 2 ^ (w.imm.toNat % 16))
    (hclean : ∀ i < (f.handle .a).valid, rowPoisoned (f.handle .b) i = false) (hdepth : tagDepth f.tag ≠ 0)
    (hfill : w.imm.toNat % 16 ≤ tagFill f.tag) :
    evalSteer w f e = .ok ⟨(List.range (2 ^ (w.imm.toNat % 16))).flatMap fun v =>
      f.sides (setInner f.tag (w.imm.toNat % 16) v) (steerTile w f v) (steerIndices f v), 0⟩ := by
  have hshort : decide ((f.handle .b).valid < (f.handle .a).valid) = false := decide_eq_false hvalid.not_gt
  have hrange : ((List.range (f.handle .a).valid).any fun i => decide (2 ^ (w.imm.toNat % 16) ≤ cellOf (f.grid .b) i 0)) = false :=
    List.any_eq_false.mpr fun i hi => by simpa using hbucket i (List.mem_range.mp hi)
  have hpoison : (List.range (f.handle .a).valid).any (rowPoisoned (f.handle .b)) = false :=
    List.any_eq_false.mpr fun i hi => by simpa using hclean i (List.mem_range.mp hi)
  have htag : (decide (tagDepth f.tag = 0) || decide (tagFill f.tag < w.imm.toNat % 16)) = false := by
    rw [decide_eq_false hdepth, decide_eq_false hfill.not_gt, Bool.or_self]
  have htile : f.tile .a = (f.handle .a, (f.tile .a).2) := rfl
  rw [evalSteer, htile]
  simp only [checkKinds_ok hk, needFmt_ok hfa, needFmt_ok hfb, needShape_ok hrows hcols, hshort, hrange, hpoison, htag,
    trapIf, Bool.false_eq_true, if_false, bind, Except.bind, withNeed, pure, Except.pure]
  refine congrArg (fun outs => Except.ok (Commit.mk outs 0)) (List.flatMap_congr fun v _ => ?_)
  rw [map_built, flatten_mapIdx_getD 0]
  rfl

/-- Settles O13: each instruction passes its checks; TOPK, SORT, PARTN and STEER then build a result for each side that has a
destination, ORDMRG the one tile of the joined rows. -/
theorem rankPartitionMergeSteer : Obligations.RankPartitionMergeSteer := by
  unfold Obligations.RankPartitionMergeSteer
  refine ⟨?tagged, ?steer⟩
  case tagged =>
    intro w s f t ht a b g ranked sides n piv xs part first second total rowOf
    refine ⟨?topk, ?sort, ?partn, ?ordmrg⟩
    case topk =>
      exact fun hk hfmt hcols hindex => commits_of_ok (g := evalTopk w) rfl (evalRanked_ok hk ht hfmt hcols hindex)
    case sort =>
      exact fun hk hfmt hindex => commits_of_ok (g := evalSort w) rfl (evalRanked_ok hk ht hfmt le_rfl hindex)
    case partn =>
      exact fun hk hfmt hcount hpivot => commits_of_ok (g := evalPartn w) rfl (evalPartn_ok hk ht hfmt hcount hpivot)
    case ordmrg =>
      intro hk hfa hfb hcols htotal hshape
      exact commits_of_ok (g := evalOrdmrg w) rfl (evalOrdmrg_ok hk ht hfa hfb hcols (apply_ite₂ Prod.mk ..).symm htotal hshape)
  case steer =>
    intro w s f a b k bucket rs n p hk hfa hfb hrows hcols hvalid hbucket hclean hdepth hfill
    exact commits_of_ok (g := evalSteer w) rfl
      (evalSteer_ok hk hfa hfb hrows hcols hvalid hbucket hclean hdepth hfill)

end Sys2Proof.Machine
end

section
namespace Sys2Proof.Machine

/-! ## Every step answers a next state (O56) -/

theorem runOp_answers {i : Instr} {s : State} {g : Firing → Env → Ex Commit} (h : exec i s = runOp s g) :
    ∃ t, exec i s = .next t := by
  rw [h]; exact runOp_next s g

theorem runFiring_answers {i : Instr} {s : State} {g : Firing → State} (h : exec i s = runFiring s g) :
    ∃ t, exec i s = .next t := by
  rw [h]; exact runFiring_next s g

/-- A write to a register of a page changes it, or leaves the state as it is. -/
theorem State.writeReg_next (s : State) (fn : Fn) (reg : Nat) (v : Word64) : ∃ t, s.writeReg fn reg v = .next t := by
  unfold State.writeReg execRingEnable execRingDisable execSqtail execCqhead execDevnum
  split_ifs <;> exact ⟨_, rfl⟩

theorem execRegisterWrite_next (caller : Fn) (off : Nat) (v : Word64) (s : State) :
    ∃ t, execRegisterWrite caller off v s = .next t := by
  unfold execRegisterWrite
  split
  · exact ⟨_, rfl⟩
  · split
    · exact s.writeReg_next ..
    · exact ⟨_, rfl⟩

/-- Operators settle their selected firing; an event or a command is a function of the state. -/
theorem exec_next (i : Instr) (s : State) : ∃ t, exec i s = .next t := by
  cases i with
  | pass _ | sync _ | switch _ | sel _ | const _ | sink _ | ends _ | iseos _ | count _ | getcol _ | settag _ | frameid _
  | add _ | sub _ | mul _ | mulh _ | div _ | rem _ | and _ | or _ | xor _ | andn _ | shl _ | shr _ | sra _ | rotl _ | min _
  | max _ | cmp _ | clz _ | popc _ | bext _ | bins _ | mad _ | addrc _ | abs _ | neg _ | icvt _ | mix _ | pack _ | unpk _
  | fadd _ | fsub _ | fmul _ | ffma _ | fdiv _ | fsqrt _ | fmin _ | fmax _ | fcmp _ | fcvt _ | fclass _ | ftoi _ | itof _
  | vadd _ | vsub _ | vmul _ | vfma _ | vdiv _ | vmin _ | vmax _ | vabs _ | vneg _ | vsqrt _ | vrsq _ | vrcp _ | vexp2 _
  | vlog2 _ | vtanh _ | vcvt _ | vscal _ | vfill _ | vcmp _ | vmsel _ | vand _ | vor _ | vxor _ | vshf _ | vtran _ | vslic _
  | vrowop _ | vcolop _ | mcomp _ | rsum _ | rmax _ | rmin _ | rargx _ | topk _ | normk _ | steer _ | ordmrg _ | sort _
  | partn _ | scan _ | trap _ | time _ | query _ => exact runOp_answers rfl
  | mma _ | mmas _ | mmag _ | azero _ | adrain _ | aload _ | aread _ | apatch _ | lds _ | sts _ | atom _ | cas _ | iput _
  | itake _ | iclr _ | join _ | waitv _ | ldt _ | stt _ | gath _ | scat _ | ared _ | lenter _ | lnext _ | lexit _ | ldone _
  | spawn _ | call _ | ret _ | fend _ | gang _ | killf _ | fence _ | bput _ | bget _ | binit _ | park _ | resume _ | trace _
  | watch _ | unwatch _ | flags _ | loadg _ | swapg _ | drain _ | pref _ | xop _ _ => exact runFiring_answers rfl
  | registerWrite caller off v => exact execRegisterWrite_next caller off v s
  | _ => exact ⟨_, rfl⟩

theorem State.operate_next (s : State) (f : Firing) (i : Option Instr) : ∃ t, s.operate exec f i = .next t := by
  unfold State.operate
  split
  · exact ⟨_, rfl⟩
  · exact exec_next _ _

theorem State.break_next (s : State) (f : Firing) (i : Option Instr) : ∃ t, s.break_ exec f i = .next t := by
  obtain ⟨t, ht⟩ := (s.unflagged f).operate_next f i
  by_cases hsel : t.sel = none
  · exact ⟨_, State.break_raises ht hsel⟩
  · exact State.break_passes ht hsel ▸ s.operate_next f i

theorem State.start_next (s : State) (cell : Nat) (q : FSet) : ∃ t, s.start exec cell q = .next t := by
  unfold State.start
  split
  · exact exec_next _ _
  · dsimp only
    split
    · exact s.break_next _ _
    · exact s.operate_next _ _

theorem State.fireFirst_next (cell : Nat) (u : UnitKind) (qs : List FSet) (s : State) :
    ∃ t, State.fireFirst exec cell u qs s = .next t := by
  induction qs generalizing s with
  | nil => exact ⟨s, rfl⟩
  | cons q rest ih =>
    obtain ⟨t, ht⟩ := s.start_next cell q
    by_cases hsel : t.sel = none
    · exact ⟨_, State.fireFirst_starts rest ht hsel⟩
    · exact State.fireFirst_passes rest ht hsel ▸ ih _

theorem State.takeCommand_next (s : State) (fn : Fn) : ∃ t, s.takeCommand exec fn = .next t := by
  unfold State.takeCommand
  split
  · exact ⟨s, rfl⟩
  · dsimp only
    split
    · exact ⟨_, rfl⟩
    · rename_i i _
      split
      · exact ⟨_, rfl⟩
      · obtain ⟨t, ht⟩ := exec_next i s
        rw [ht]
        exact ⟨_, rfl⟩

theorem State.act_next (s : State) (a : Act) : ∃ t, s.act exec a = .next t := by
  cases a with
  | fire cell u => exact State.fireFirst_next cell u _ s
  | command fn => exact s.takeCommand_next fn
  | event i => exact exec_next i s

theorem step_safe (s : State) : s.Safe := by
  unfold State.Safe step
  split
  · rename_i a s1 _
    obtain ⟨t, ht⟩ := s1.act_next a
    rw [ht]
    exact ⟨_, rfl⟩
  · exact ⟨_, rfl⟩

/-- Settles O56: operators run through `runOp` and `runFiring`, events and commands are functions of the state, and the step
makes a next state of whatever they answer. -/
theorem everyStepIsSafe : Obligations.EveryStepIsSafe := ⟨exec_next, step_safe⟩

/-! ## The state after reset (O54) -/

theorem State.reset_enabled : State.reset.enabled = [] := rfl

/-- Settles O54: nothing is listed in the state after reset, so that every look-up in it answers what stands for nothing. -/
theorem resetLeavesTheDeviceReady : Obligations.ResetLeavesTheDeviceReady := by
  unfold Obligations.ResetLeavesTheDeviceReady
  exact ⟨rfl, rfl, rfl, rfl, rfl, rfl, fun _ => rfl, fun _ => rfl, rfl, rfl, State.reset_mem_wf, fun _ => rfl,
    State.reset_enabled, step_safe _⟩

end Sys2Proof.Machine
end

section
namespace Sys2Proof.Machine

/-! ## Scalar accesses, prefetches and atomics are issued (R292, R300, R312, R313, R319, R323 to R327) -/

theorem issues_of_word {i : Instr} {w : OpFields} {s : State} {f : Firing} {p : Plan} {plan : State → Firing → Env → Ex Plan}
    (hi : exec i s = runMem w s plan) (hp : plan s f (s.env f) = .ok p) : Issues i s s f f w p := by
  intro ts s1 h hsel hn hr hiss hc
  rw [hi, runMem, runFiring_selected _ hsel, hp]
  exact congrArg _ (State.runPlan_issues hn hr hiss hc)

theorem atomicPoison_ok {f : Firing} {ps : List Port} (ha : f.isPoisoned .a = false) (h : ∀ p ∈ ps, f.isPoisoned p = false) :
    atomicPoison f ps = .ok () := by
  have hany : ps.any f.isPoisoned = false := by simpa using h
  simp only [atomicPoison, checkPoison_ok ha, trapIf, hany, Bool.false_eq_true, if_false, bind, Except.bind]

/-! ### The plans -/

section
variable {w : OpFields} {s : State} {f : Firing} {e : Env} {t : Tag} (hk : f.Scalars) (ha : f.isPoisoned .a = false)
  (ht : outTag w f e = .ok t)
include hk ha ht

theorem planLds_ok : planLds w s f e = .ok
    { tag := t, kind := .loadScalar w.fmt, spans := oneSpan (f.ea w) (fmtBytes w.fmt), need := readNeed,
      aligned := f.ea w % fmtBytes w.fmt == 0, base := f.ea w, bad := noBad, watch := .ok (), buf := zeros (fmtBytes w.fmt),
      count := 0, accept := false } := by
  simp only [planLds, checkKinds_ok hk, checkPoison_ok ha, ht, bind, Except.bind]
  rfl

theorem planSts_ok : planSts w s f e = .ok
    { tag := t, kind := .store, spans := oneSpan (f.ea w) (fmtBytes w.fmt), need := writeNeed,
      aligned := f.ea w % fmtBytes w.fmt == 0, base := f.ea w, bad := fun _ => f.isPoisoned .b, watch := .ok (),
      buf := leBytes (fmtBytes w.fmt) (f.val .b).word.toNat, count := e.free.toNat, accept := false } := by
  simp only [planSts, checkKinds_ok hk, checkPoison_ok ha, ht, bind, Except.bind]
  rfl

theorem planItake_ok : planItake w s f e =
    .ok (planWord f t .itake 8 { r := true, w := false, w1 := true, device := true } true 0) := by
  simp only [planItake, checkKinds_ok hk, checkPoison_ok ha, ht, bind, Except.bind]
  rfl

theorem planIclr_ok : planIclr w s f e =
    .ok (planWord f t .iclr 8 { r := false, w := true, w1 := true, device := true } true e.free.toNat) := by
  simp only [planIclr, checkKinds_ok hk, checkPoison_ok ha, ht, bind, Except.bind]
  rfl

variable (hb : f.isPoisoned .b = false)
include hb

theorem planAtom_ok : planAtom w s f e =
    .ok (planWord f t (.atom w.var.toNat w.fmt (f.val .b).word) (fmtBytes w.fmt) bothNeed false 0) := by
  simp only [planAtom, checkKinds_ok hk, atomicPoison_ok ha (ps := [.b]) (by simpa using hb), ht, bind, Except.bind]
  rfl

theorem planCas_ok (hc : f.isPoisoned .c = false) : planCas w s f e =
    .ok (planWord f t (.cas w.fmt (f.val .b).word (f.val .c).word) (fmtBytes w.fmt) bothNeed false 0) := by
  simp only [planCas, checkKinds_ok hk, atomicPoison_ok ha (ps := [.b, .c]) (by simp [hb, hc]), ht, bind, Except.bind]
  rfl

theorem planJoin_ok (hn : (f.val .b).word.extractLsb' 0 32 ≠ 0) : planJoin w s f e =
    .ok (planWord f t (.join ((f.val .b).word.extractLsb' 0 32)) 4 bothNeed false 0) := by
  have hn : ((f.val .b).word.extractLsb' 0 32 == 0) = false := by simpa using hn
  simp only [planJoin, checkKinds_ok hk, hn, trapIf, Bool.false_eq_true, if_false,
    atomicPoison_ok ha (ps := [.b]) (by simpa using hb), ht, bind, Except.bind]
  rfl

theorem planIput_ok : planIput w s f e = .ok (planWord f t (.iput (f.val .b).word) 8
    { r := false, w := true, w1 := true, device := true } true e.free.toNat) := by
  simp only [planIput, checkKinds_ok hk, atomicPoison_ok ha (ps := [.b]) (by simpa using hb), ht, bind, Except.bind]
  rfl

theorem planWaitv_ok : planWaitv w s f e = .ok (planWord f t (.waitv w.var.toNat w.fmt (f.val .b).word) (fmtBytes w.fmt)
    { r := true, w := false, w1 := false, device := true } true 0) := by
  simp only [planWaitv, checkKinds_ok hk, atomicPoison_ok ha (ps := [.b]) (by simpa using hb), ht, bind, Except.bind]
  rfl

end

theorem aredFmt_iff {f : Fmt} : aredFmt f = true ↔ f = .f32 ∨ f = .f16 ∨ f = .bf16 ∨ f = .s32 ∨ f = .z32 := by
  simp [aredFmt, or_assoc]

theorem planAred_ok {w : OpFields} {s : State} {f : Firing} {e : Env} {t : Tag} {d : Desc} (hk : f.Kinds false true false)
    (ha : f.isPoisoned .a = false) (ht : outTag w f e = .ok t) (hd : s.useDesc f w f.col0 true true = .ok d)
    (hfmt : aredFmt d.fmt = true) (hfit : d.fits (f.handle .b) = true)
    (hclean : ∀ i < min (f.handle .b).valid (d.extent f.row0), rowPoisoned (f.handle .b) i = false) : planAred w s f e =
      .ok (let m := min (f.handle .b).valid (d.extent f.row0)
        { tag := t, kind := .ared w.var.toNat d.fmt, spans := d.rowsFrom f.row0 f.col0 m,
          need := { bothNeed with device := true }, aligned := d.aligned, base := d.base, bad := noBad,
          watch := s.watchTensor f w 1 (rectangle f.row0 f.col0 m d.cols), buf := (f.tile .b).2, count := m, accept := true }) := by
  have hclean : (List.range (min (f.handle .b).valid (d.extent f.row0))).any (rowPoisoned (f.handle .b)) = false := by
    simpa using hclean
  simp only [Firing.handle] at hfit hclean
  simp only [planAred, checkKinds_ok hk, hd, trapIf, hfmt, hfit, Bool.and_self, Bool.not_true, Bool.false_eq_true, if_false,
    checkPoison_ok ha, hclean, ht, bind, Except.bind]
  rfl

/-- Settles O23: the plan of each atomic passes its operand checks, and a plan that passes R300 is issued. -/
theorem atomicsIssue : Obligations.AtomicsIssue := by
  unfold Obligations.AtomicsIssue
  intro w s f t ha ht n b both once free
  refine ⟨fun hk hb => ⟨?atom, ?cas, ?join, ?iput, ?waitv⟩, fun hk => ⟨?itake, ?iclr⟩, ?ared⟩
  case atom => exact issues_of_word rfl (planAtom_ok hk ha ht hb)
  case cas => exact fun hc => issues_of_word rfl (planCas_ok hk ha ht hb hc)
  case join => exact fun hn => issues_of_word rfl (planJoin_ok hk ha ht hb hn)
  case iput => exact issues_of_word rfl (planIput_ok hk ha ht hb)
  case waitv => exact issues_of_word rfl (planWaitv_ok hk ha ht hb)
  case itake => exact issues_of_word rfl (planItake_ok hk ha ht)
  case iclr => exact issues_of_word rfl (planIclr_ok hk ha ht)
  case ared =>
    intro d hk r0 c0 h m g hd hfmt hf hr hc hclean
    obtain ⟨bytes, hg⟩ : ∃ bytes, g = { f with desc := bytes } := s.withDesc_eq f w
    have hrun (p : Plan) := issues_of_plan (i := .ared w) (w := w) (s := s) (f := f) (p := p) (plan := planAred w) rfl
    rw [show s.withDesc f w = _ from hg] at hrun
    rw [hg] at hd ⊢
    exact hrun _ (planAred_ok (f := { f with desc := bytes }) (e := s.env f) hk ha ht hd (aredFmt_iff.mpr hfmt)
      (Desc.fits_iff.mpr ⟨hf, hr, hc⟩) hclean)

/-! ### PREF (R312) -/

/-- A PREF whose lines have all been looked up issues what it may ask of them. -/
theorem doPref_issues {w : OpFields} {s : State} {f : Firing} {t : Tag} {lines : List Nat}
    (hl : prefLines w s f (s.env f) = .ok (t, lines)) :
    let here := lines.filter fun v => decide (v < 2 ^ 54) && (s.faultOn f v).isNone
    let ts := (here.filterMap fun v => (s.tlbLookup f.cell f.asid v).map fun e => (v, e)).filter fun q => s.prefOk (s.env f) q
    let asks : List Access := ts.map fun q =>
      { va := q.1, pa := q.2.addr q.1, parts := [], rows := [], bad := false, done := false, dup := false }
    let p : Plan :=
      { tag := t, kind := .pref, spans := [], need := readNeed, aligned := true, base := 0, bad := noBad, watch := .ok (),
        buf := [], count := lines.length - ts.length, accept := false }
    (∀ v ∈ here, (s.tlbLookup f.cell f.asid v).isSome) →
      doPref w s f = (s.touched f ts).issue f ((s.touched f ts).newOp f p (w.mod.extractLsb' 0 2) ts asks) := by
  intro here ts asks p hall
  have hnone : (here.filter fun v => (s.tlbLookup f.cell f.asid v).isNone) = [] := by
    refine List.filter_eq_nil_iff.mpr fun v hv => ?_
    have hv := hall v hv
    simp [Option.isSome_iff_ne_none.mp hv]
  simp only [doPref, hl]
  rw [show (List.filter _ (List.filter _ lines)) = _ from hnone]
  rfl

/-- An operation of a firing that may send its outputs is issued. -/
theorem State.issue_issued {s : State} {f : Firing} (o : MemOp) (h : s.CanCommit f) : s.issue f o = s.issued f o := by
  obtain ⟨hsend, hlines⟩ := h
  have hsend : (s.runsIn f && s.badRemote f [{ side := false, tag := f.tag, val := .scalar 0 false false, line := none },
    { side := true, tag := f.tag, val := .scalar 0 false false, line := none }]) = false := hsend
  unfold State.issue State.issued
  rw [hsend]
  by_cases hp : o.phase = .accepting
  · rw [if_pos hp, hp]
    rfl
  · rw [if_neg hp, if_neg Bool.false_ne_true, if_neg (by simpa using hp),
      State.commitWith_fits (cell1 := s.cell f.cell) (placed := [])]
    · rfl
    · exact ⟨by simp [State.badRemote], hlines, by simp [newTiles, Cell.canReserve], rfl⟩

/-- Settles O22: LDS and STS have the plan of one access, which is issued once it passes R300; PREF asks for the lines that it
found. -/
theorem scalarAccessAndPrefetch : Obligations.ScalarAccessAndPrefetch := by
  unfold Obligations.ScalarAccessAndPrefetch
  intro w s f t hk ha ht ea n plan
  have hea : f.ea w = ea := apply_ite BitVec.toNat ..
  refine ⟨?lds, ?sts, ?pref⟩
  case lds =>
    have h := issues_of_word (i := .lds w) rfl (planLds_ok hk ha ht)
    rwa [hea] at h
  case sts =>
    have h := issues_of_word (i := .sts w) rfl (planSts_ok hk ha ht)
    rwa [hea] at h
  case pref =>
    intro hsel s0 g lines hl here ts asks p hall hc
    have hrun : exec (.pref w) s = .next (doPref w s0 g) := runFiring_selected _ hsel
    rw [hrun, doPref_issues hl hall]
    exact congrArg _ (State.issue_issued _ hc)

end Sys2Proof.Machine
end

section
namespace Sys2Proof.Machine

/-! ## FENCE (R290, R314) -/

theorem evalFence_ok {w : OpFields} {f : Firing} {e : Env} {t : Tag} (hk : f.Kinds (w.fmt == .handle) false false)
    (ht : outTag w f e = .ok t) : evalFence w f e = .ok ⟨[f.passed .a false t], 0⟩ := by
  unfold evalFence dataTile
  rw [evalOp_ok hk ht]
  rfl

/-- The sets of the firing's frame that had started, each condition written out. -/
theorem State.unissued_eq (s : State) (f : Firing) : s.unissued f = ((s.cell f.cell).sets.filter fun x =>
    x.sid != f.sid && x.walking && x.asid == f.asid && tagFrame x.tag == tagFrame f.tag && tagGen x.tag == tagGen f.tag).map
      FSet.sid := by
  simp only [State.unissued, FSet.ofFrame, Bool.and_assoc]

theorem State.stillPending_eq_nil {s : State} {ids : List Nat} :
    s.stillPending ids = [] ↔ ∀ i ∈ ids, ∀ o, s.op i = some o → o.pending = false := by
  simp only [State.stillPending, List.filter_eq_nil_iff]
  refine forall₂_congr fun i _ => ?_
  cases s.op i <;> simp

/-- The set with this number, on this cell, is yet to issue its operation, or its operation is yet to be performed. -/
def State.issuing (s : State) (cell i : Nat) : Prop :=
  (∃ y, (s.cell cell).findSet i = some y ∧ y.walking = true) ∨
    ∃ o ∈ s.memops, o.pending = true ∧ o.origin = none ∧ o.firing.cell = cell ∧ o.firing.sid = i

theorem State.stillIssuing_eq_nil {s : State} {cell : Nat} {sids : List Nat} :
    s.stillIssuing cell sids = [] ↔ ∀ i ∈ sids, ¬ s.issuing cell i := by
  simp only [State.stillIssuing, List.filter_eq_nil_iff]
  refine forall₂_congr fun i _ => not_congr ?_
  simp [State.issuing, Option.any_eq_true, and_assoc]

section
variable {w : OpFields} {s : State} {f : Firing} {t : Tag} (ht : outTag w f (s.env f) = .ok t)
  (hk : f.Kinds (w.fmt == .handle) false false)
include ht hk

theorem exec_fence_commits (hids : s.fenced f = []) (hsids : s.unissued f = []) :
    Commits (.fence w) s f [f.passed .a false t] 0 := by
  intro cell1 placed hd
  have hrun : exec (.fence w) s = .next (doFence w s f) := runFiring_selected _ hd.1
  rw [hrun, doFence, evalFence_ok hk ht, hids, hsids]
  exact congrArg _ (State.commit_fits hd.2)

theorem exec_fence_holds (hsel : s.sel = some f) (h : s.fenced f ≠ [] ∨ s.unissued f ≠ []) :
    exec (.fence w) s = .next ((s.atScope (s.fenced f) (w.mod.extractLsb' 0 2)).hold f
      (.fence (s.fenced f) (s.unissued f) (w.mod.extractLsb' 0 2))) := by
  have hrun : exec (.fence w) s = .next (doFence w s f) := runFiring_selected _ hsel
  have hwait : ((s.fenced f).isEmpty && (s.unissued f).isEmpty) = false := by
    rw [Bool.and_eq_false_iff]
    simpa using h
  rw [hrun, doFence, evalFence_ok hk ht]
  simp only [hwait, Bool.false_eq_true, if_false]

section
variable {ids sids : List Nat} {sc : BitVec 2} {x : FSet} (hx : (s.cell f.cell).findSet f.sid = some x)
  (hhold : x.hold = some (.fence ids sids sc)) (hf : x.firing = some f) (hmay : (s.cell f.cell).mayCommit f.asid = true)
  (hw : decodeSlot f.word = some (.fence w))
include hx hhold hf hmay hw

/-- A FENCE is looked at again: it commits when nothing that it waits for is left. -/
theorem exec_fenceRelease : exec (.fenceRelease f.cell f.sid) s = .next
    (if s.stillPending ids = [] ∧ s.stillIssuing f.cell sids = [] then s.commit f ⟨[f.passed .a false t], 0⟩ else s) := by
  have heval : s.settle f (evalFence w f (s.env f)) = s.commit f ⟨[f.passed .a false t], 0⟩ := by
    rw [evalFence_ok hk ht]; rfl
  simp only [exec, execFenceRelease, hx, hhold, hf, hmay, hw, heval, Bool.and_true, Bool.and_eq_true, List.isEmpty_iff]

end

end

/-- Settles O30: FENCE commits or waits by what its frame has under way, and its release by what is left of it. -/
theorem fenceWaits : Obligations.FenceWaits := by
  unfold Obligations.FenceWaits
  intro w s f t ht mine started ids sids sc out hk
  have hsids : s.unissued f = sids := s.unissued_eq f
  refine ⟨?commits, ?holds, ?release⟩
  case commits => exact fun hids hs => exec_fence_commits ht hk hids (hsids.trans hs)
  case holds =>
    intro h hsel s1
    rw [exec_fence_holds ht hk hsel (hsids ▸ h), hsids]
    rfl
  case release =>
    intro ids sids sc x hx hhold hf hmay hw issues
    have hrun := exec_fenceRelease ht hk hx hhold hf hmay hw
    refine ⟨fun h => ?_, fun hids hsids cell1 placed hfit => ?_⟩
    · rw [hrun, if_neg]
      rw [State.stillPending_eq_nil, State.stillIssuing_eq_nil]
      rintro ⟨hids, hsids⟩
      rcases h with ⟨i, hi, o, ho, hp⟩ | ⟨i, hi, h⟩
      · exact absurd hp (by simp [hids i hi o ho])
      · exact hsids i hi h
    · rw [hrun, if_pos ⟨State.stillPending_eq_nil.mpr hids, State.stillIssuing_eq_nil.mpr hsids⟩]
      exact congrArg _ (State.commit_fits hfit)

end Sys2Proof.Machine
end

section
namespace Sys2Proof.Machine

/-! ## The checks of a scalar or atomic access, in their order (O24: R300, R301, R354, R287, R388) -/

/-! ### The pieces of a word and the pages they lie in -/

theorem width_le (fmt : Fmt) : width fmt ≤ 64 := by cases fmt <;> decide

section
variable {va n : Nat} (hpos : 0 < n) (hn : n ≤ 8)
include hpos hn

/-- A word is one piece, or two where a line ends in it. -/
theorem cutAll_word : cutAll (oneSpan va n) =
    if n ≤ 256 - va % 256 then [{ va := va, off := 0, len := n, row := 0 }]
    else [{ va := va, off := 0, len := 256 - va % 256, row := 0 },
      { va := va + (256 - va % 256), off := 256 - va % 256, len := n - (256 - va % 256), row := 0 }] := by
  have h0 : n ≠ 0 := by omega
  have h1 : n / 256 = 0 := by omega
  simp only [cutAll, oneSpan, List.flatMap_cons, List.flatMap_nil, List.append_nil, if_neg h0, h1, Span.cut, Nat.zero_add]

theorem cutAll_word_head : ∃ x l, cutAll (oneSpan va n) = x :: l ∧ x.va = va ∧ x.row = 0 := by
  rw [cutAll_word hpos hn]
  split
  · exact ⟨_, _, rfl, rfl, rfl⟩
  · exact ⟨_, _, rfl, rfl, rfl⟩

theorem pagesOf_word_within (h : va / 65536 = (va + n - 1) / 65536) : pagesOf (cutAll (oneSpan va n)) = [va] := by
  rw [cutAll_word hpos hn]
  split
  · rfl
  · have hp : va / 65536 = (va + (256 - va % 256)) / 65536 := by omega
    simp only [pagesOf, List.foldl_cons, List.foldl_nil, List.any_nil, List.any_cons, Bool.or_false, List.nil_append, hp,
      Nat.reducePow, Bool.false_eq_true, if_false, beq_self_eq_true, if_true]

theorem pagesOf_word_crossing (h : va / 65536 ≠ (va + n - 1) / 65536) :
    pagesOf (cutAll (oneSpan va n)) = [va, (va / 65536 + 1) * 65536] := by
  have hlong : ¬ n ≤ 256 - va % 256 := by omega
  have hnext : va + (256 - va % 256) = (va / 65536 + 1) * 65536 := by omega
  rw [cutAll_word hpos hn, if_neg hlong, hnext]
  simp [pagesOf]

end

/-! ### The plan of a word -/

/-- The plan is that of the one access of an instruction. -/
structure IsWordPlan (f : Firing) (i : Instr) (q : WordAccess) (p : Plan) : Prop where
  spans : p.spans = oneSpan q.ea q.len
  need : p.need = q.need
  aligned : p.aligned = (q.ea % q.len == 0)
  room : p.room = []
  bad : ∀ w, i = .sts w → p.bad = fun _ => f.isPoisoned .b

theorem wordAccess_len {f : Firing} {i : Instr} {q : WordAccess} (h : wordAccess f i = some q) : q.len ≤ 8 := by
  cases i with
  | lds w | sts w | atom w | cas w | waitv w =>
    obtain rfl : _ = q := Option.some.inj h
    exact Nat.div_le_of_le_mul (width_le w.fmt)
  | join w | iput w | iclr w | itake w =>
    obtain rfl : _ = q := Option.some.inj h
    exact Nat.le_of_ble_eq_true rfl
  | _ => exact nomatch h

/-- Whatever the instruction, its firing runs the plan of its access. -/
theorem wordAccess_runs {s : State} {f : Firing} {i : Instr} {q : WordAccess} {t : Tag} (hq : wordAccess f i = some q)
    (hk : f.Scalars) (ha : f.isPoisoned .a = false)
    (hbc : (∀ w, i ≠ .sts w) → f.isPoisoned .b = false ∧ f.isPoisoned .c = false)
    (hn : ∀ w, i = .join w → (f.val .b).word.extractLsb' 0 32 ≠ 0) (ht : outTag q.w f (s.env f) = .ok t) :
    ∃ p, IsWordPlan f i q p ∧ (s.sel = some f → exec i s = .next (s.runPlan f q.w (.ok p))) := by
  have runs {i : Instr} {w : OpFields} {plan : State → Firing → Env → Ex Plan} {p : Plan} (hi : exec i s = runMem w s plan)
      (hp : plan s f (s.env f) = .ok p) (hsel : s.sel = some f) : exec i s = .next (s.runPlan f w (.ok p)) := by
    rw [hi, runMem, runFiring_selected _ hsel, hp]
  have hea (w : OpFields) :
      f.ea w = ((f.val .a).word + (if w.lit.isSome then 0 else w.imm.signExtend 64)).toNat := by
    unfold Firing.ea
    split <;> simp
  cases i with
  | lds w =>
    obtain rfl : _ = q := Option.some.inj hq
    refine ⟨_, ?_, runs rfl (planLds_ok hk ha ht)⟩
    rw [hea]
    exact ⟨rfl, rfl, rfl, rfl, by simp⟩
  | sts w =>
    obtain rfl : _ = q := Option.some.inj hq
    refine ⟨_, ?_, runs rfl (planSts_ok hk ha ht)⟩
    rw [hea]
    exact ⟨rfl, rfl, rfl, rfl, fun _ _ => rfl⟩
  | atom w =>
    obtain rfl : _ = q := Option.some.inj hq
    refine ⟨_, ?_, runs rfl (planAtom_ok hk ha ht (hbc (by simp)).1)⟩
    exact ⟨rfl, rfl, rfl, rfl, by simp⟩
  | cas w =>
    obtain rfl : _ = q := Option.some.inj hq
    refine ⟨_, ?_, runs rfl (planCas_ok hk ha ht (hbc (by simp)).1 (hbc (by simp)).2)⟩
    exact ⟨rfl, rfl, rfl, rfl, by simp⟩
  | join w =>
    obtain rfl : _ = q := Option.some.inj hq
    refine ⟨_, ?_, runs rfl (planJoin_ok hk ha ht (hbc (by simp)).1 (hn w rfl))⟩
    exact ⟨rfl, rfl, rfl, rfl, by simp⟩
  | iput w =>
    obtain rfl : _ = q := Option.some.inj hq
    refine ⟨_, ?_, runs rfl (planIput_ok hk ha ht (hbc (by simp)).1)⟩
    exact ⟨rfl, rfl, rfl, rfl, by simp⟩
  | iclr w =>
    obtain rfl : _ = q := Option.some.inj hq
    refine ⟨_, ?_, runs rfl (planIclr_ok hk ha ht)⟩
    exact ⟨rfl, rfl, rfl, rfl, by simp⟩
  | itake w =>
    obtain rfl : _ = q := Option.some.inj hq
    refine ⟨_, ?_, runs rfl (planItake_ok hk ha ht)⟩
    exact ⟨rfl, rfl, rfl, rfl, by simp⟩
  | waitv w =>
    obtain rfl : _ = q := Option.some.inj hq
    refine ⟨_, ?_, runs rfl (planWaitv_ok hk ha ht (hbc (by simp)).1)⟩
    exact ⟨rfl, rfl, rfl, rfl, by simp⟩
  | _ => exact nomatch hq

/-! ### Translation (R300 step 3, R362) -/

theorem State.translate_high (s : State) (f : Firing) {vas : List Nat} {v : Nat}
    (h : vas.find? (fun v => decide (2 ^ 54 ≤ v)) = some v) : s.translate f vas = .trap (tPAGE_FAULT 3 v) := by
  simp only [State.translate, h]

section
variable {s : State} {f : Firing} {va : Nat} (hva : va < 2 ^ 54)
include hva

/-- The fault of a finished walk, and the freeze it found cause for. -/
theorem State.translate_fault {x : XFault} (hx : s.faultOn f va = some x) : s.translate f [va] =
    match x.freeze with
    | some c => .freezes { trapOf x.cls x.code with addr := va, aux := BitVec.ofNat 64 x.aux } c va
    | none => .trap { trapOf x.cls x.code with addr := va, aux := BitVec.ofNat 64 x.aux } := by
  have hlow : ¬ 2 ^ 54 ≤ va := by omega
  unfold State.translate
  simp only [List.find?_cons, hlow, decide_false, List.find?_nil, List.filter_cons, hx, Option.isNone_some, Bool.and_false,
    Bool.false_eq_true, if_false, List.filter_nil, List.findSome?_cons, List.findSome?_nil, Option.bind_some]
  cases x.freeze <;> by_cases hc : x.cls = 0x0A <;> simp [hc, Option.filter]

theorem State.translate_one {e : TlbEntry} (hx : s.faultOn f va = none) (he : s.tlbLookup f.cell f.asid va = some e) :
    s.translate f [va] = .ok [(va, e)] := by
  have hlow : ¬ 18014398509481984 ≤ va := by omega
  simp [State.translate, hlow, hx, he]

theorem State.translate_two {va2 : Nat} {e e2 : TlbEntry} (hva2 : va2 < 2 ^ 54) (hx : s.faultOn f va = none)
    (hx2 : s.faultOn f va2 = none) (he : s.tlbLookup f.cell f.asid va = some e)
    (he2 : s.tlbLookup f.cell f.asid va2 = some e2) : s.translate f [va, va2] = .ok [(va, e), (va2, e2)] := by
  have hlow : ¬ 18014398509481984 ≤ va := by omega
  have hlow2 : ¬ 18014398509481984 ≤ va2 := by omega
  simp [State.translate, hlow, hlow2, hx, hx2, he, he2]

end

/-! ### Capabilities, rights and the page's kind (R300 step 4, R287, R354) -/

section
variable {s : State} {e : Env} {n : Need} {va : Nat} {x : TlbEntry}

/-- The context lacks the capability that the address asks for. -/
def State.lacksCap (s : State) (e : Env) (pa : Nat) : Prop :=
  (isHost pa = true ∧ e.caps.getLsbD 3 = false) ∨ (s.isRemote pa = true ∧ e.caps.getLsbD 2 = false)

/-- The page lacks a right, or is not of the kind that the access needs. -/
def TlbEntry.denies (x : TlbEntry) (n : Need) : Prop :=
  (n.r = true ∧ x.attr.getLsbD 2 = false) ∨ (n.w = true ∧ x.attr.getLsbD 3 = false) ∨ n.w1 ≠ x.attr.getLsbD 5

/-- A device-memory operator meets a host page. -/
def TlbEntry.onHost (x : TlbEntry) (n : Need) (va : Nat) : Prop := n.device = true ∧ isHost (x.addr va) = true

theorem State.rights_cap (h : s.lacksCap e (x.addr va)) : s.rights e n [(va, x)] = .error (tACCESS 4 va) := by
  unfold State.lacksCap at h
  simp [State.rights, h, -BitVec.getLsbD_eq_getElem]

theorem State.rights_denied (hc : ¬ s.lacksCap e (x.addr va)) (h : x.denies n) :
    s.rights e n [(va, x)] = .error (tACCESS 1 va) := by
  unfold State.lacksCap at hc
  simp only [TlbEntry.denies, ne_eq, ← or_assoc] at h
  simp [State.rights, hc, h, -BitVec.getLsbD_eq_getElem]

theorem State.rights_host (hc : ¬ s.lacksCap e (x.addr va)) (hd : ¬ x.denies n) (h : x.onHost n va) :
    s.rights e n [(va, x)] = .error (tACCESS 6 va) := by
  unfold State.lacksCap at hc
  simp only [TlbEntry.denies, ne_eq, ← or_assoc] at hd
  obtain ⟨hdev, hhost⟩ := h
  simp only [hhost, true_and] at hc
  simp [State.rights, hc, hd, hdev, hhost, -BitVec.getLsbD_eq_getElem]

theorem State.rights_granted (hc : ¬ s.lacksCap e (x.addr va)) (hd : ¬ x.denies n) (hh : ¬ x.onHost n va) :
    s.rights e n [(va, x)] = .ok () := by
  unfold State.lacksCap at hc
  simp only [TlbEntry.denies, ne_eq, ← or_assoc] at hd
  unfold TlbEntry.onHost at hh
  simp [State.rights, hc, hd, hh, -BitVec.getLsbD_eq_getElem]

theorem State.rights_need {ts : List (Nat × TlbEntry)} {t : Trap} (h : s.rights e n ts = .error t) : t.need = [] := by
  unfold State.rights at h
  dsimp only at h
  split at h
  · cases h; rfl
  · split at h
    · rename_i r hr
      cases h
      obtain ⟨a, -, ha⟩ := List.exists_of_findSome?_eq_some hr
      split_ifs at ha <;> (cases ha; rfl)
    · cases h

end

/-! ### What becomes of a plan that fails a check -/

/-- The checks of R300 on pages that are translated. -/
def State.checks (s : State) (f : Firing) (p : Plan) (ts : List (Nat × TlbEntry)) : Ex Unit := do
  s.rights (s.env f) p.need ts
  trapIf (!p.aligned) (tALIGN (((cutAll p.spans).head?.map Span.va).getD p.base))
  storePoison ts p.bad (cutAll p.spans)
  p.watch

theorem State.failLoad_bare {s : State} {f : Firing} {t : Trap} (hroom : f.room = none) (h : t.need = []) :
    s.failLoad f t = s.raise f t := by
  rw [State.failLoad, hroom]
  exact State.fail_bare h

section
variable {s : State} {f : Firing} {w : OpFields} {p : Plan} {t : Trap} (hlines : needLines f [] ≤ 2048) (hp : p.room = [])
include hlines hp

theorem State.runPlan_traps (hroom : f.room = none) (h0 : t.need = [])
    (ht : s.translate f (pagesOf (cutAll p.spans)) = .trap t) : s.runPlan f w (.ok p) = s.raise f t := by
  simp only [State.runPlan, hp, if_neg (Nat.not_lt.mpr hlines), State.reserveRoom, ht, State.failLoad_bare hroom h0]

theorem State.runPlan_freezes {cause va : Nat} (h0 : t.need = []) (ht : s.translate f (pagesOf (cutAll p.spans)) = .freezes t cause va) :
    s.runPlan f w (.ok p) = (s.raiseFrozen f t
      { cause := cause, vdev := s.vdevOf f.asid, asid := some f.asid, cell := f.cell, slot := f.slot, tag := f.tag,
        addr := va }).gcTiles f.cell := by
  have ht0 : { t with need := [] } = t := by rw [← h0]
  simp only [State.runPlan, hp, if_neg (Nat.not_lt.mpr hlines), State.reserveRoom, ht, ht0]

theorem State.runPlan_refused {ts : List (Nat × TlbEntry)} (hroom : f.room = none) (h0 : t.need = [])
    (hts : s.translate f (pagesOf (cutAll p.spans)) = .ok ts) (ht : s.checks f p ts = .error t) :
    s.runPlan f w (.ok p) = (s.touched f ts).raise f t := by
  unfold State.checks at ht
  simp only [State.runPlan, hp, if_neg (Nat.not_lt.mpr hlines), State.reserveRoom, hts, ht]
  exact State.failLoad_bare hroom h0

end

section
variable {s : State} {f : Firing} {p : Plan} {ts : List (Nat × TlbEntry)} {t : Trap}

theorem State.checks_rights (h : s.rights (s.env f) p.need ts = .error t) : s.checks f p ts = .error t := by
  simp only [State.checks, h, bind, Except.bind]

theorem State.checks_align (h : s.rights (s.env f) p.need ts = .ok ()) (ha : p.aligned = false) :
    s.checks f p ts = .error (tALIGN (((cutAll p.spans).head?.map Span.va).getD p.base)) := by
  simp only [State.checks, h, ha, trapIf, Bool.not_false, if_true, bind, Except.bind]

theorem State.checks_poison (h : s.rights (s.env f) p.need ts = .ok ()) (ha : p.aligned = true)
    (hb : storePoison ts p.bad (cutAll p.spans) = .error t) : s.checks f p ts = .error t := by
  simp only [State.checks, h, ha, hb, trapIf, Bool.not_true, Bool.false_eq_true, if_false, bind, Except.bind]

end

section
variable {va n : Nat} {e : TlbEntry} {bad : Nat → Bool} (hpos : 0 < n) (hn : n ≤ 8) (hbad : bad 0 = true)
include hpos hn hbad

theorem storePoison_host (h : isHost (e.addr va) = true) :
    storePoison [(va, e)] bad (cutAll (oneSpan va n)) = .error { tPOISON 6 with addr := va } := by
  obtain ⟨x, l, hx, hva, hrow⟩ := cutAll_word_head (va := va) hpos hn
  simp [storePoison, hx, hrow, hbad, hva, h]

theorem storePoison_page (h : isHost (e.addr va) = false) (ha : e.attr.getLsbD 6 = false) :
    storePoison [(va, e)] bad (cutAll (oneSpan va n)) = .error { tPOISON 3 with addr := va } := by
  obtain ⟨x, l, hx, hva, hrow⟩ := cutAll_word_head (va := va) hpos hn
  simp [storePoison, hx, hrow, hbad, hva, h, ha, -BitVec.getLsbD_eq_getElem]

end

theorem needLines_scalars {f : Firing} (hk : f.Scalars) : needLines f [] = 0 := by
  unfold needLines
  dsimp only
  generalize hins : List.foldl _ _ f.ops = ins
  have hnil : ins = [] := by
    rw [← hins]
    refine List.foldlRecOn (motive := (· = [])) f.ops _ rfl fun acc hacc o ho => ?_
    have hscalar : o.val.isTile = false := (hk o ho).trans (by cases o.port <;> rfl)
    cases hv : o.val with
    | scalar v b c => exact hacc
    | tile h d => simp [hv, Val.isTile] at hscalar
  rw [hnil]
  rfl

/-- Settles O24: the access is the one piece or the two of its word, and the first check that fails decides. -/
theorem accessChecksInOrder : Obligations.AccessChecksInOrder := by
  unfold Obligations.AccessChecksInOrder
  intro i q s f t hq hk ha hbc hn ht hroom hpos
  obtain ⟨p, hp, hrun⟩ := wordAccess_runs hq hk ha hbc hn ht
  have hlen := wordAccess_len hq
  have hlines : needLines f [] ≤ 2048 := by rw [needLines_scalars hk]; omega
  have traps {t : Trap} (h0 : t.need = []) (h : s.translate f (pagesOf (cutAll p.spans)) = .trap t) : Traps i s f t :=
    fun hsel => (hrun hsel).trans (congrArg _ (State.runPlan_traps hlines hp.room hroom h0 h))
  have refused {ts : List (Nat × TlbEntry)} {t : Trap} (h0 : t.need = [])
      (hts : s.translate f (pagesOf (cutAll p.spans)) = .ok ts) (h : s.checks f p ts = .error t) (hsel : s.sel = some f) :
      exec i s = .next ((s.touched f ts).raise f t) :=
    (hrun hsel).trans (congrArg _ (State.runPlan_refused hlines hp.room hroom h0 hts h))
  have hhead : ((cutAll p.spans).head?.map Span.va).getD p.base = q.ea := by
    obtain ⟨x, l, hx, hva, -⟩ := cutAll_word_head (va := q.ea) hpos hlen
    rw [hp.spans, hx]
    exact hva
  refine ⟨?crossing, fun hsame => ?within⟩
  case crossing =>
    intro hcross hal next
    have hpages : pagesOf (cutAll p.spans) = [q.ea, next] := by rw [hp.spans, pagesOf_word_crossing hpos hlen hcross]
    have hunaligned : p.aligned = false := by rw [hp.aligned]; simpa using hal
    refine ⟨fun h => ?_, fun h h2 => ?_, fun e e2 h2 hx hx2 he he2 hsel => ?_⟩
    · exact traps rfl (State.translate_high s f (hpages ▸ List.find?_cons_of_pos (decide_eq_true h)))
    · have hfind : [q.ea, next].find? (fun v => decide (2 ^ 54 ≤ v)) = some next := by
        simp only [List.find?_cons, decide_eq_false (Nat.not_le.mpr h), decide_eq_true h2]
      exact traps rfl (State.translate_high s f (hpages ▸ hfind))
    · have hts : s.translate f (pagesOf (cutAll p.spans)) = .ok [(q.ea, e), (next, e2)] := by
        rw [hpages]
        exact State.translate_two (by omega) h2 hx hx2 he he2
      refine ⟨fun r hr => refused (State.rights_need hr) hts (State.checks_rights (hp.need ▸ hr)) hsel, fun hr => ?_⟩
      have hcheck := State.checks_align (hp.need ▸ hr) hunaligned
      rw [hhead] at hcheck
      exact refused rfl hts hcheck hsel
  case within =>
    have hpages : pagesOf (cutAll p.spans) = [q.ea] := by rw [hp.spans, pagesOf_word_within hpos hlen hsame]
    refine ⟨fun h => ?_, fun h x hx => ⟨fun hf => ?_, fun c hf hsel => ?_⟩, ?_⟩
    · exact traps rfl (State.translate_high s f (hpages ▸ List.find?_cons_of_pos (decide_eq_true h)))
    · have htr := State.translate_fault h hx
      rw [hf, ← hpages] at htr
      exact traps rfl htr
    · have htr := State.translate_fault h hx
      rw [hf, ← hpages] at htr
      exact (hrun hsel).trans (congrArg _ (State.runPlan_freezes hlines hp.room rfl htr))
    · intro e h hx he pa used noCap denied noHost stops
      have hts : s.translate f (pagesOf (cutAll p.spans)) = .ok [(q.ea, e)] := by
        rw [hpages]
        exact State.translate_one h hx he
      have stop {r : Trap} (h0 : r.need = []) (hr : s.checks f p [(q.ea, e)] = .error r) : stops r := refused h0 hts hr
      have granted (hc : ¬ noCap) (hd : ¬ denied) (hh : ¬ noHost) : s.rights (s.env f) p.need [(q.ea, e)] = .ok () :=
        hp.need ▸ State.rights_granted hc hd hh
      refine ⟨?cap, ?denied, ?host, ?align, ?poison⟩
      case cap => exact fun hc => stop rfl (State.checks_rights (State.rights_cap hc))
      case denied => exact fun hc hd => stop rfl (State.checks_rights (hp.need ▸ State.rights_denied hc hd))
      case host => exact fun hc hd hh => stop rfl (State.checks_rights (hp.need ▸ State.rights_host hc hd hh))
      case align =>
        intro hc hd hh hal
        have hcheck := State.checks_align (granted hc hd hh) (by rw [hp.aligned]; simpa using hal)
        rw [hhead] at hcheck
        exact stop rfl hcheck
      case poison =>
        rintro hc hd hal ⟨w, rfl⟩ hpoison
        have hdevice : ¬ noHost := by
          obtain rfl : _ = q := Option.some.inj hq
          rintro ⟨hdev, -⟩
          exact Bool.false_ne_true hdev
        have haligned : p.aligned = true := by rw [hp.aligned]; simpa using hal
        have hbad : p.bad 0 = true := by rw [hp.bad w rfl]; exact hpoison
        refine ⟨fun hhost => ?_, fun hhost hattr => ?_⟩
        · exact stop rfl (State.checks_poison (granted hc hd hdevice) haligned
            (hp.spans ▸ storePoison_host hpos hlen hbad hhost))
        · exact stop rfl (State.checks_poison (granted hc hd hdevice) haligned
            (hp.spans ▸ storePoison_page hpos hlen hbad hhost hattr))

end Sys2Proof.Machine
end

section
namespace Sys2Proof.Machine

/-! ## Rings: BINIT, BPUT, BGET and the releases of held ones (O31: R315 to R318) -/

/-! ### What the checks answer -/

/-- A ring put back on a cell. -/
def State.keepRing (s : State) (cell n : Nat) (r : Ring) : State := s.modCell cell fun c => { c with rings := put n r c.rings }

/-- The ring with a tile taken from its slot HEAD. -/
def Ring.taken (r : Ring) (rest : List (Handle × List Byte)) : Ring := { r with tiles := rest, head := (r.head + 1) % r.nslot }

/-- What else the commit of a BGET does: the tile leaves its ring, and the cell as packets of its own, live or as an orphan. -/
def State.ringTaken (s : State) (live : Bool) (f : Firing) (t : Tag) (r : Ring) (h : Handle) (d : List Byte)
    (rest : List (Handle × List Byte)) : State :=
  let s1 := s.keepRing f.cell (ringOf f) (r.taken rest)
  let v := Val.tile { h with eos := h.eos || f.eos } d
  if live then s1.sendFresh (f.sender s) t v f.outs0 else s1.orphanOuts (f.sender s) [t] v f.outs0

section
variable {s : State} {f : Firing}

theorem State.ringFor_none (h : look (ringOf f) (s.cell f.cell).rings = none) : s.ringFor f = .error tBAD_OPERAND := by
  simp only [State.ringFor, h]

variable {r : Ring} (hr : look (ringOf f) (s.cell f.cell).rings = some r)
include hr

theorem State.ringFor_own (h : r.asid = f.asid) : s.ringFor f = .ok r := by simp only [State.ringFor, hr, h, if_true]

theorem State.ringFor_other (h : r.asid ≠ f.asid) : s.ringFor f = .error tBAD_OPERAND := by
  simp only [State.ringFor, hr, h, if_false]

end

section
variable {w : OpFields} {s : State} {f : Firing}

theorem bputArgs_ring {t : Trap} (hk : f.Kinds true false false) (h : s.ringFor f = .error t) :
    bputArgs w s f = .error t := by
  simp only [bputArgs, checkKinds_ok hk, h, bind, Except.bind]

theorem bgetArgs_ring {t : Trap} (h : s.ringFor f = .error t) : bgetArgs w s f = .error t := by
  simp only [bgetArgs, h, bind, Except.bind]

variable {r : Ring} (hr : s.ringFor f = .ok r)
include hr

theorem bputArgs_large (hk : f.Kinds true false false) (h : r.slotl < (f.handle .a).lines) :
    bputArgs w s f = .error tBAD_OPERAND := by
  have h : decide (r.slotl < (f.tile .a).1.lines) = true := decide_eq_true h
  simp only [bputArgs, checkKinds_ok hk, hr, h, trapIf, if_true, bind, Except.bind]

variable {t : Tag} (ht : outTag w f (s.env f) = .ok t)
include ht

theorem bputArgs_ok (hk : f.Kinds true false false) (h : (f.handle .a).lines ≤ r.slotl) : bputArgs w s f = .ok (t, r) := by
  have h : decide (r.slotl < (f.tile .a).1.lines) = false := decide_eq_false h.not_gt
  simp only [bputArgs, checkKinds_ok hk, hr, h, ht, trapIf, Bool.false_eq_true, if_false, bind, Except.bind, pure, Except.pure]

theorem bgetArgs_ok : bgetArgs w s f = .ok (t, r) := by
  simp only [bgetArgs, hr, ht, bind, Except.bind, pure, Except.pure]

end

/-! ### Sets that wait on a ring (R318) -/

theorem Cell.ringWaiters_eq_nil {c : Cell} {h : Hold} : c.ringWaiters h = [] ↔ ∀ x ∈ c.sets, x.hold ≠ some h := by
  simp [Cell.ringWaiters]

theorem Cell.behind_of_nil {c : Cell} {h : Hold} (f : Firing) (hw : c.ringWaiters h = []) : c.behind h f = false := by
  simp [Cell.behind, hw]

/-- A retirement leaves no set that was not there. -/
theorem State.ringWaiters_retired {s : State} {f : Firing} {fl : Flags} {cell1 : Cell} {h : Hold} (hw : cell1.ringWaiters h = []) :
    ((s.retired f cell1 fl).cell f.cell).ringWaiters h = [] := by
  obtain ⟨r, hr⟩ := State.cell_retired (s := s) (f := f) (cell1 := cell1) (fl := fl)
  rw [Cell.ringWaiters_eq_nil] at hw ⊢
  rw [hr]
  exact fun x hx => hw x (List.mem_filter.mp hx).1

theorem State.committed_congr {s : State} {f : Firing} {cell1 : Cell} {placed : List Out} {fl : Flags} {g h : State → State}
    (e : g (s.retired f cell1 fl) = h (s.retired f cell1 fl)) :
    s.committed f cell1 placed fl g = s.committed f cell1 placed fl h := by
  unfold State.retired at e
  unfold State.committed
  rw [e]

/-! ### What the commits of BPUT and BGET are -/

/-- What else the commit of a BPUT does: the ring is kept, and a waiting BGET is released (R318). -/
def State.ringFilled (s : State) (cell n : Nat) (r : Ring) : State :=
  let s1 := s.keepRing cell n r
  if ((s1.cell cell).ringWaiters (.bget n)).isEmpty then s1 else { s1 with due := s1.due ++ [.event (.bgetRelease cell n)] }

theorem State.ringFilled_of_nil {s : State} {cell n : Nat} (r : Ring) (h : (s.cell cell).ringWaiters (.bget n) = []) :
    s.ringFilled cell n r = s.keepRing cell n r := by
  have hnil : ((s.keepRing cell n r).cell cell).ringWaiters (.bget n) = [] := by
    rw [State.keepRing, State.cell_modCell]; exact h
  simp only [State.ringFilled, hnil, List.isEmpty_nil, if_true]

/-- The tile goes into the ring, and no BGET waits for it. -/
theorem bputGo_commits {s : State} {f : Firing} {t : Tag} {r : Ring} {cell1 : Cell} {placed : List Out}
    (hw : (s.cell f.cell).ringWaiters (.bget (ringOf f)) = [])
    (hfit : s.Fits f [f.scalarOut t (BitVec.ofNat 64 (r.tiles.length + 1))] cell1 placed) :
    bputGo s f t r = s.committed f cell1 placed 0 fun st =>
      st.keepRing f.cell (ringOf f) { r with tiles := r.tiles ++ [f.tile .a] } := by
  have hgo : bputGo s f t r = s.commitWith f ⟨[f.scalarOut t (BitVec.ofNat 64 (r.tiles ++ [f.tile .a]).length)], 0⟩ fun st =>
    st.ringFilled f.cell (ringOf f) { r with tiles := r.tiles ++ [f.tile .a] } := rfl
  rw [hgo, List.length_append, List.length_singleton, State.commitWith_fits _ hfit]
  obtain ⟨-, -, -, hplace⟩ := hfit
  obtain ⟨ts, rfl⟩ := Cell.place_tiles hplace
  exact State.committed_congr (State.ringFilled_of_nil _ (State.ringWaiters_retired hw))

/-- The tile of slot HEAD leaves the ring with the commit. -/
theorem bgetGo_commits {s : State} {f : Firing} {t : Tag} {r : Ring} {h : Handle} {d : List Byte}
    {rest : List (Handle × List Byte)} (htiles : r.tiles = (h, d) :: rest) (hlines : needLines f [] ≤ 2048) :
    bgetGo s f t r = s.committed f (s.cell f.cell) [] (f.pz [.a]) fun st => st.ringTaken (s.runsIn f) f t r h d rest := by
  have hfit : s.Fits f [] (s.cell f.cell) [] := ⟨by simp [State.badRemote], hlines, by simp [newTiles, Cell.canReserve], rfl⟩
  have hgo : bgetGo s f t r = s.commitWith f ⟨[], f.pz [.a]⟩ fun st => st.ringTaken (s.runsIn f) f t r h d rest := by
    unfold bgetGo State.ringTaken State.keepRing Ring.taken
    rw [htiles]
  rw [hgo, State.commitWith_fits _ hfit]

/-! ### The instructions -/

section
variable {w : OpFields} {s : State} {f : Firing}

theorem bput_traps {t : Trap} (h : bputArgs w s f = .error t) : Traps (.bput w) s f t := by
  intro hsel
  have hrun : exec (.bput w) s = .next (doBput w s f) := runFiring_selected _ hsel
  rw [hrun, doBput, h]

theorem bget_traps {t : Trap} (h : bgetArgs w s f = .error t) : Traps (.bget w) s f t := by
  intro hsel
  have hrun : exec (.bget w) s = .next (doBget w s f) := runFiring_selected _ hsel
  rw [hrun, doBget, h]

theorem binit_traps (hk : f.Scalars)
    (h : (s.cell f.cell).badRing (ringOf f) (f.val .a).word (ringConfig f.asid (f.val .a).word) = true) :
    Traps (.binit w) s f tBAD_OPERAND := by
  intro hsel
  have hrun : exec (.binit w) s = .next (doBinit w s f) := runFiring_selected _ hsel
  rw [hrun, doBinit]
  simp only [checkKinds_ok hk, h, trapIf, if_true, bind, Except.bind]

variable {t : Tag} (ht : outTag w f (s.env f) = .ok t)

include ht in
theorem binit_commits (hk : f.Scalars) (ha : f.isPoisoned .a = false)
    (h : (s.cell f.cell).badRing (ringOf f) (f.val .a).word (ringConfig f.asid (f.val .a).word) = false) :
    CommitsWith (.binit w) s f [f.scalarOut t (BitVec.ofNat 64 (ringConfig f.asid (f.val .a).word).nslot)] 0 fun st =>
      st.keepRing f.cell (ringOf f) (ringConfig f.asid (f.val .a).word) := by
  intro cell1 placed hd
  have hrun : exec (.binit w) s = .next (doBinit w s f) := runFiring_selected _ hd.1
  rw [hrun, doBinit]
  simp only [checkKinds_ok hk, h, checkPoison_ok ha, ht, trapIf, Bool.false_eq_true, if_false, bind, Except.bind]
  exact congrArg _ (State.commitWith_fits (c := ⟨_, 0⟩) _ hd.2)

section
variable {r : Ring} (hargs : bputArgs w s f = .ok (t, r))
include hargs

/-- A full ring holds the BPUT. -/
theorem bput_holds (hfull : r.nslot ≤ r.tiles.length) (hsel : s.sel = some f) :
    exec (.bput w) s = .next (s.hold f (.bput (ringOf f))) := by
  have hrun : exec (.bput w) s = .next (doBput w s f) := runFiring_selected _ hsel
  rw [hrun, doBput, hargs]
  simp only [decide_eq_true hfull, Bool.true_or, if_true]

theorem bput_commits (hfree : r.tiles.length < r.nslot) (hput : (s.cell f.cell).ringWaiters (.bput (ringOf f)) = [])
    (hget : (s.cell f.cell).ringWaiters (.bget (ringOf f)) = []) :
    CommitsWith (.bput w) s f [f.scalarOut t (BitVec.ofNat 64 (r.tiles.length + 1))] 0 fun st =>
      st.keepRing f.cell (ringOf f) { r with tiles := r.tiles ++ [f.tile .a] } := by
  intro cell1 placed hd
  have hrun : exec (.bput w) s = .next (doBput w s f) := runFiring_selected _ hd.1
  rw [hrun, doBput, hargs]
  simp only [decide_eq_false hfree.not_ge, Cell.behind_of_nil f hput, Bool.or_self, Bool.false_eq_true, if_false]
  exact congrArg _ (bputGo_commits hget hd.2)

end

section
variable {r : Ring} (hargs : bgetArgs w s f = .ok (t, r)) (hsel : s.sel = some f)
  (hsend : s.MaySend f [outD0 t (.scalar 0 false false) none])
include hargs hsel hsend

/-- An empty ring holds the BGET. -/
theorem bget_holds (hempty : r.tiles = []) : exec (.bget w) s = .next (s.hold f (.bget (ringOf f))) := by
  have hrun : exec (.bget w) s = .next (doBget w s f) := runFiring_selected _ hsel
  have hsend : (s.runsIn f && s.badRemote f [{ side := false, tag := t, val := .scalar 0 false false, line := none }]) = false :=
    hsend
  rw [hrun, doBget, hargs]
  simp only [hsend, hempty, Bool.false_eq_true, if_false, List.isEmpty_nil, Bool.true_or, if_true]

theorem bget_commits {h : Handle} {d : List Byte} {rest : List (Handle × List Byte)} (htiles : r.tiles = (h, d) :: rest)
    (hget : (s.cell f.cell).ringWaiters (.bget (ringOf f)) = []) (hlines : needLines f [] ≤ 2048) :
    exec (.bget w) s = .next (s.committed f (s.cell f.cell) [] (f.pz [.a]) fun st =>
      st.ringTaken (s.runsIn f) f t r h d rest) := by
  have hrun : exec (.bget w) s = .next (doBget w s f) := runFiring_selected _ hsel
  have hsend : (s.runsIn f && s.badRemote f [{ side := false, tag := t, val := .scalar 0 false false, line := none }]) = false :=
    hsend
  have hnonempty : r.tiles.isEmpty = false := by rw [htiles]; rfl
  rw [hrun, doBget, hargs]
  simp only [hsend, hnonempty, Cell.behind_of_nil f hget, Bool.or_self, Bool.false_eq_true, if_false]
  exact congrArg _ (bgetGo_commits htiles hlines)

end

/-! ### The releases -/

theorem Cell.readyHeld_eq {c : Cell} {h : Hold} {x : FSet} (hx : c.oldestHeld h = some x) (hmay : c.mayCommit x.asid = true)
    (hf : x.firing = some f) : c.readyHeld h = some f := by
  simp only [Cell.readyHeld, hx, Option.bind_some, hmay, if_true, hf]

theorem exec_bputRelease {n : Nat} {r : Ring} (hready : (s.cell f.cell).readyHeld (.bput n) = some f)
    (hw : decodeSlot f.word = some (.bput w)) (hargs : bputArgs w s f = .ok (t, r)) :
    exec (.bputRelease f.cell n) s = .next (if r.nslot ≤ r.tiles.length then s else bputGo s f t r) := by
  have hfields : f.fields = some w := by rw [Firing.fields, hw]; rfl
  simp only [exec, execBputRelease, hready, hfields, hargs]

theorem exec_bgetRelease {n : Nat} {r : Ring} (hready : (s.cell f.cell).readyHeld (.bget n) = some f)
    (hw : decodeSlot f.word = some (.bget w)) (hargs : bgetArgs w s f = .ok (t, r)) :
    exec (.bgetRelease f.cell n) s = .next (bgetGo s f t r) := by
  have hfields : f.fields = some w := by rw [Firing.fields, hw]; rfl
  simp only [exec, execBgetRelease, hready, hfields, hargs]

end

/-- Settles O31: each instruction by what its checks answer and whether its ring is full or empty, and each release of a held
one. -/
theorem ringsFillAndDrain : Obligations.RingsFillAndDrain := by
  unfold Obligations.RingsFillAndDrain
  intro w s f t ht n v c fresh keep taken
  refine ⟨?badConfig, ?binit, ?noRing, ?noRingGet, fun r hr => ?ring⟩
  case badConfig => exact binit_traps
  case binit => exact fun hk hbad ha => binit_commits ht hk ha hbad
  case noRing => exact fun hk hr => bput_traps (bputArgs_ring hk (State.ringFor_none hr))
  case noRingGet => exact fun hr => bget_traps (bgetArgs_ring (State.ringFor_none hr))
  case ring =>
    have hkeep : keep = fun r st => st.keepRing f.cell (ringOf f) r := rfl
    have htaken : taken = fun r h d rest st => st.ringTaken (s.runsIn f) f t r h d rest := rfl
    rw [hkeep, htaken]
    refine ⟨?otherPut, ?otherGet, ?large, ?put, ?get, ?releases⟩
    case otherPut => exact fun h hk => bput_traps (bputArgs_ring hk (State.ringFor_other hr h))
    case otherGet => exact fun h => bget_traps (bgetArgs_ring (State.ringFor_other hr h))
    case large => exact fun h hk hl => bput_traps (bputArgs_large (State.ringFor_own hr h) hk hl)
    case put =>
      intro h hk hl after
      have hargs := bputArgs_ok (State.ringFor_own hr h) ht hk hl
      refine ⟨bput_holds hargs, fun hfree hnone => ?_⟩
      exact bput_commits hargs hfree (Cell.ringWaiters_eq_nil.mpr fun x hx => (hnone x hx).1)
        (Cell.ringWaiters_eq_nil.mpr fun x hx => (hnone x hx).2)
    case get =>
      intro h hsend
      have hargs := bgetArgs_ok (State.ringFor_own hr h) ht
      refine ⟨fun hempty hsel => bget_holds hargs hsel hsend hempty, fun h d rest htiles hnone hlines hsel => ?_⟩
      exact bget_commits hargs hsel hsend htiles (Cell.ringWaiters_eq_nil.mpr hnone) hlines
    case releases =>
      intro x hx hmay hf hw h hk hl
      have hrun := exec_bputRelease (Cell.readyHeld_eq hx hmay hf) hw (bputArgs_ok (State.ringFor_own hr h) ht hk hl)
      refine ⟨fun hfull => hrun.trans (by rw [if_pos hfull]), fun cell1 placed hfree hnone hfit => ?_, ?_⟩
      · rw [hrun, if_neg hfree.not_ge]
        exact congrArg _ (bputGo_commits hnone hfit)
      · intro x h d rest hx hmay hf hw hown htiles hlines
        rw [exec_bgetRelease (Cell.readyHeld_eq hx hmay hf) hw (bgetArgs_ok (State.ringFor_own hr hown) ht)]
        exact congrArg _ (bgetGo_commits htiles hlines)

end Sys2Proof.Machine
end

section
namespace Sys2Proof.Machine

/-! ## Accumulators claimed, drained, read and patched (O15: R233, R235, R236, R245 to R249) -/

/-- The own frame of a firing, as an accumulator names its owner. -/
def Firing.self (f : Firing) : Nat × Nat × Nat := (tagFrame f.tag, (tagGen f.tag).toNat, f.asid)

/-- A FREE accumulator, or one that the firing's frame owns, may be claimed (R236). -/
theorem accClaim_ok {s : State} {f : Firing} {n : Nat} (fl : Flags)
    (h : ((s.cell f.cell).acc n).owner = none ∨ ((s.cell f.cell).acc n).owner = some f.self) :
    accClaim s f n fl = .ok ((s.cell f.cell).acc n) := by
  unfold Firing.self at h
  rcases h with h | h <;> simp [accClaim, h]

/-- The owner may use an accumulator through its word, and a handler frame with the capabilities (R235). -/
theorem accUse_reaches {s : State} {f : Firing} {p : Port} {op : AccUse} {n : Nat} {a : Acc} (h : s.Reaches f p op n a) :
    accUse s f (s.env f) p op = .ok (n, a) := by
  obtain ⟨hn, hcell, ha, htile, hpoison, howner⟩ := h
  cases ho : a.owner with
  | none => rw [ho] at howner; exact howner.elim
  | some o =>
    obtain ⟨fr, g, asid⟩ := o
    rw [ho] at howner
    obtain ⟨hfr, hg, hasid, hword, huse⟩ := howner
    obtain ⟨h1, h2, h3, h4, h5, h6, h7⟩ := fields_accWord f.cell a.step n (BitVec.ofNat 4 g) fr
    simp only [accUse, htile, checkPoison_ok hpoison, hword, h1, h2, h3, h4, h5, h6, h7, BitVec.toNat_ofNat, Nat.mod_eq_of_lt hn,
      Nat.mod_eq_of_lt hcell, ha, ho, Nat.mod_eq_of_lt hfr, Nat.mod_eq_of_lt (show g < 2 ^ 4 from hg)]
    by_cases hself : fr = tagFrame f.tag ∧ g = (tagGen f.tag).toNat
    · simp [trapIf, hasid, hself, bind, Except.bind, pure, Except.pure]
    · obtain ⟨hop, hhandler, hread, hpatch⟩ := huse.resolve_left hself
      have hop' : (op == .owner) = false := by simpa using hop
      by_cases hpat : op = .patch
      · obtain ⟨hcap, hparked, hgen⟩ := hpatch hpat
        subst hpat
        simp [trapIf, hasid, hself, hhandler, hread, hcap, hparked, hgen, bind, Except.bind, pure, Except.pure,
          -BitVec.getLsbD_eq_getElem]
      · have hpat' : (op == .patch) = false := by simpa using hpat
        simp [trapIf, hasid, hself, hop', hpat', hhandler, hread, bind, Except.bind, pure, Except.pure,
          -BitVec.getLsbD_eq_getElem]

theorem watchTest_nil (l : List (Nat × Nat)) : watchTest [] l = .ok () := rfl

section
variable {w : OpFields} {s : State} {f : Firing} {t : Tag} (ht : outTag w f (s.env f) = .ok t)
include ht

theorem evalAzero_ok {n rows cols : Nat} (hn : Enc.immField w 12 2 = n) (hr : Enc.immField w 0 6 + 1 = rows)
    (hc : Enc.immField w 6 6 + 1 = cols) (hk : f.Kinds (f.val .a).isTile false false)
    (hfree : ((s.cell f.cell).acc n).owner = none ∨ ((s.cell f.cell).acc n).owner = some f.self) :
    evalAzero w s f (s.env f) = .ok
      (let a := claimed f ((s.cell f.cell).acc n) rows cols 0 (List.replicate (rows * cols) 0)
       (⟨[f.accOut t false n a], f.pz [.a]⟩, n, a)) := by
  subst hn hr hc
  simp only [evalAzero, checkKinds_ok hk, ht, tagFlags, accClaim_ok _ hfree, bind, Except.bind, pure, Except.pure]
  rfl

/-- What ALOAD makes of its tile: the elements in a36, with the flags of each in a clean row. -/
def loadedGrid (w : OpFields) (f : Firing) : List (List (Nat × Flags)) :=
  (gridRaw (f.handle .a) (f.tile .a).2).mapIdx fun i r => r.map fun x =>
    ((loadElem w.fmt x).1, if rowPoisoned (f.handle .a) i then (0 : Flags) else (loadElem w.fmt x).2)

theorem evalAload_ok {n : Nat} (hn : Enc.immField w 0 2 = n) (hk : f.Kinds true false false) (hfmt : (f.handle .a).fmt = w.fmt) (hcols : (f.handle .a).cols ≤ 64)
    (hfree : ((s.cell f.cell).acc n).owner = none ∨ ((s.cell f.cell).acc n).owner = some f.self)
    (hquiet : firstElem (enabledFlags (s.env f).fpen) (gridFlags (loadedGrid w f)) = none) :
    evalAload w s f (s.env f) = .ok
      (let h := f.handle .a
       let a := claimed f ((s.cell f.cell).acc n) h.rows h.cols h.poison
        ((loadedGrid w f).flatten.map fun x => BitVec.ofNat 36 x.1)
       (⟨[f.accOut t false n a], orAll (gridFlags (loadedGrid w f))⟩, n, a)) := by
  subst hn
  have hbad : ((f.tile .a).1.fmt != w.fmt || decide (64 < (f.tile .a).1.cols)) = false := by
    rw [decide_eq_false (show ¬ 64 < (f.tile .a).1.cols from hcols.not_gt), Bool.or_false]
    exact bne_eq_false_iff_eq.mpr hfmt
  have hfp : fpCheck (s.env f).fpen (gridFlags (loadedGrid w f)) = .ok (orAll (gridFlags (loadedGrid w f))) := by
    rw [fpCheck, hquiet]
  unfold loadedGrid Firing.handle at hfp
  simp only [evalAload, checkKinds_ok hk, hbad, trapIf, Bool.false_eq_true, if_false, ht, tagFlags, accClaim_ok _ hfree, hfp, bind,
    Except.bind, pure, Except.pure]
  rfl

/-! ### ADRAIN (R247) -/

/-- The accumulator after a drain: kept, released or cleared. -/
def drainedAcc (w : OpFields) (acc : Acc) : Acc :=
  let next : Acc := { acc with step := acc.step + 1 }
  if w.var == 1 then { next with owner := none }
  else if w.var == 2 then { next with poison := 0, data := List.replicate (acc.rows * acc.cols) 0 } else next

/-- The rows that a drain hands out, with their flags. -/
def State.drained (s : State) (w : OpFields) (f : Firing) (acc : Acc) : List (List Byte) × ElemFlags :=
  drainRows w (rounding w f (s.env f)) (acc.rows / 2 ^ (w.imm.toNat % 8)) acc

/-- Its outputs: the bands, and the word of an accumulator that is not released. -/
def State.drainOuts (s : State) (w : OpFields) (f : Firing) (t : Tag) (n : Nat) (acc : Acc) : List Out :=
  let k := w.imm.toNat % 8
  let rb := acc.rows / 2 ^ k
  (if f.outs0.isEmpty then [] else (List.range (2 ^ k)).map fun v => outD0 (setInner t k v) (.tile
      { fmt := w.fmt, rows := rb, cols := acc.cols, valid := rb, line := 0, poison := bandPoison acc (v * rb) rb, eos := f.eos,
        disc := false, seq := BitVec.ofNat 16 (v * rb) } (((s.drained w f acc).1.drop (v * rb)).take rb).flatten) none) ++
    (if w.var == 1 then [] else [f.accOut t true n { acc with step := acc.step + 1 }])

theorem evalAdrain_ok {n : Nat} {acc : Acc} (hown : s.Owns f .a n acc) (hbands : acc.rows % 2 ^ (w.imm.toNat % 8) = 0)
    (hmx : isMX w.fmt = false ∨ acc.cols % 32 = 0)
    (htag : w.imm.toNat % 8 = 0 ∨ (tagDepth t ≠ 0 ∧ w.imm.toNat % 8 ≤ tagFill t))
    (hwatch : s.watches f 2 (fun x => x % 2 ^ 11 == f.cell && (x / 2 ^ 13 % 2 == 1 || x / 2 ^ 11 % 4 == n)) = [])
    (hquiet : (w.fmt == .a36 || Enc.Fmt.isInt w.fmt) = true ∨
      firstElem (enabledFlags (s.env f).fpen) (s.drained w f acc).2 = none) :
    evalAdrain w s f (s.env f) = .ok (⟨s.drainOuts w f t n acc, orAll (s.drained w f acc).2⟩, n, drainedAcc w acc) := by
  have hshape : (acc.rows % 2 ^ (w.imm.toNat % 8) != 0 || (isMX w.fmt && acc.cols % 32 != 0)) = false := by
    rcases hmx with h | h <;> simp [hbands, h]
  have htag : (w.imm.toNat % 8 != 0 && (tagDepth t = 0 || decide (tagFill t < w.imm.toNat % 8))) = false := by
    rcases htag with h | ⟨h, h'⟩
    · simp [h]
    · simp [h, h'.not_gt]
  simp only [evalAdrain, accUse_owner hown, bind, Except.bind, hshape, trapIf, Bool.false_eq_true, if_false, ht, tagFlags, htag,
    hwatch, watchTest_nil, pure, Except.pure]
  by_cases hint : (w.fmt == .a36 || Enc.Fmt.isInt w.fmt) = true
  · rw [if_pos hint]
    rfl
  · have hfp : fpCheck (s.env f).fpen (s.drained w f acc).2 = .ok (orAll (s.drained w f acc).2) := by
      rw [fpCheck, hquiet.resolve_left hint]
    unfold State.drained at hfp
    rw [if_neg hint, hfp]
    rfl

/-! ### AREAD and APATCH (R248, R249) -/

section
variable {r nr c nc : Nat} (hwin : windowOf w = (r, nr, c, nc)) {n : Nat} {acc : Acc} (hrows : r + nr ≤ acc.rows)
  (hcols : c + nc ≤ acc.cols)
include hwin hrows hcols

omit ht in
theorem windowOk_inside : windowOk acc w = true := by
  simp only [windowOk, hwin, decide_eq_true hrows, decide_eq_true hcols, Bool.and_self]

theorem evalAread_ok (hreach : s.Reaches f .a .read n acc) :
    evalAread w s f (s.env f) = .ok
      (⟨(if f.outs0.isEmpty then [] else [outD0 t (.tile
            { fmt := .a36, rows := nr, cols := nc, valid := nr, line := 0, poison := bandPoison acc r nr, eos := f.eos,
              disc := false, seq := 0 }
            ((List.range nr).flatMap fun i => packElems .a36 ((List.range nc).map fun j => acc.at (r + i) (c + j)))) none]) ++
          [outD1 t (f.val .a) none], 0⟩, n, acc) := by
  simp only [evalAread, accUse_reaches hreach, windowOk_inside hwin hrows hcols, hwin, trapIf, Bool.not_true, Bool.false_eq_true,
    if_false, ht, withNeed, bind, Except.bind, pure, Except.pure, Commit.ofRes, List.map_append, apply_ite (List.map _)]
  rfl

/-- The accumulator with port b's tile written over a window; STEP advances for its owner alone (R236). -/
def patchedAcc (f : Firing) (acc : Acc) (r nr c nc : Nat) : Acc :=
  { acc with
    step := if acc.owner = some f.self then acc.step + 1 else acc.step
    poison := patchPoison acc (f.handle .b) r nr c nc
    data := (List.range acc.rows).flatMap fun i => (List.range acc.cols).map fun j =>
      BitVec.ofNat 36 (if r ≤ i ∧ i < r + nr ∧ c ≤ j ∧ j < c + nc
        then cellOf (gridRaw (f.handle .b) (f.tile .b).2) (i - r) (j - c) else acc.at i j) }

theorem evalApatch_ok (hreach : s.Reaches f .a .patch n acc) (hk : f.Kinds false true false)
    (hfmt : (f.handle .b).fmt = .a36) (hr : (f.handle .b).rows = nr) (hc : (f.handle .b).cols = nc) :
    evalApatch w s f (s.env f) = .ok
      (⟨[f.accOut t false n (patchedAcc f acc r nr c nc)], 0⟩, n, patchedAcc f acc r nr c nc) := by
  have hbad : ((f.tile .b).1.fmt != .a36 || (f.tile .b).1.rows != nr || (f.tile .b).1.cols != nc || !windowOk acc w) = false := by
    unfold Firing.handle at hfmt hr hc
    simp [hfmt, hr, hc, windowOk_inside hwin hrows hcols]
  have hown : (acc.owner == some (tagFrame f.tag, (tagGen f.tag).toNat, f.asid)) = decide (acc.owner = some f.self) :=
    beq_eq_decide ..
  simp only [evalApatch, accUse_reaches hreach, checkKinds_ok hk, hwin, hbad, trapIf, Bool.false_eq_true, if_false, ht, hown,
    decide_eq_true_eq, bind, Except.bind, pure, Except.pure]
  rfl

end

end

/-- Settles O15: each instruction passes its checks, and what is left of it is its outputs and the accumulator it writes. -/
theorem accumulatorClaimDrainPatch : Obligations.AccumulatorClaimDrainPatch := by
  unfold Obligations.AccumulatorClaimDrainPatch
  intro w s f t ht own claimAs zn zr zc zero a b loaded ln load r nr c nc
  have hwin : windowOf w = (r, nr, c, nc) := by simp [windowOf, Enc.immField, r, nr, c, nc]
  have hzr : Enc.immField w 0 6 + 1 = zr := by simp [Enc.immField, zr]
  have hln : Enc.immField w 0 2 = ln := by simp [Enc.immField, ln]
  refine ⟨?azero, ?aload, ?adrain, ?aread, ?apatch⟩
  case azero =>
    exact fun hsc hports hfree =>
      commitsWith_of_acc rfl (evalAzero_ok ht rfl hzr rfl (Firing.kinds_of_trigger hsc hports) hfree)
  case aload =>
    exact fun hk hfmt hcols hfree hquiet => commitsWith_of_acc rfl (evalAload_ok ht hln hk hfmt hcols hfree hquiet)
  case adrain =>
    intro n acc hown k rb d next after hbands hmx htag hwatch hquiet
    exact commitsWith_of_acc rfl (evalAdrain_ok ht hown hbands hmx htag hwatch hquiet)
  case aread =>
    exact fun n acc hreach hrows hcols => commitsWith_of_acc rfl (evalAread_ok ht hwin hrows hcols hreach)
  case apatch =>
    exact fun n acc hreach hk hfmt hr hc hrows hcols =>
      commitsWith_of_acc rfl (evalApatch_ok ht hwin hrows hcols hreach hk hfmt hr hc)

end Sys2Proof.Machine
end

section
namespace Sys2Proof.Machine

/-! ## Homes apply accesses (O25: R281, R302, R319, R320, R326) -/

theorem State.modOp_id (s : State) (n : Nat) : s.modOp n id = s := by
  have h : (fun o : MemOp => if o.id == n then id o else o) = id := by
    funext o
    exact ite_self o
  simp only [State.modOp, h, List.map_id]

/-- A VAR above 8 swaps (R319). -/
theorem atomNew_swaps {var : Nat} {fmt : Fmt} {v b : Nat} (h : 8 < var) : atomNew var fmt v b = (b, 0) := by
  obtain ⟨n, rfl⟩ := Nat.exists_eq_add_of_le' (Nat.succ_le_of_lt h)
  rfl

theorem zeros_eq_leBytes : zeros 4 = leBytes 4 0 := by decide

section
variable {s : State} {k : Nat} {o : MemOp} {a : Access}

/-- The bytes of an operation that is not applied, because its line is poisoned (log entry 35). -/
def State.unapplied (s : State) (o : MemOp) (a : Access) (bytes : List Byte) (side : Bool) : State :=
  (s.logOp o a 2).modOp o.id fun p => { p with buf := bytes, poison := 1, side := side }

/-- The word written by its home, and the value seen for the answer. -/
def State.exchanged (s : State) (o : MemOp) (a : Access) (n v x : Nat) (g : MemOp → MemOp) : State :=
  (s.homeWrite a.pa (leBytes n x)).modOp o.id fun p => { g p with buf := leBytes n v }

/-! ### What an access does to its operation, by kind -/

section
variable {var : Nat} {fmt : Fmt} {b c : Word64} (hk : o.kind = .atom var fmt b)
include hk

theorem State.applyAccess_atom_bad (hb : s.poisoned a.pa = true) : s.applyAccess o a =
    s.unapplied o a (leBytes (fmtBytes fmt) (s.readNat a.pa (fmtBytes fmt))) false := by
  simp only [State.applyAccess, hk, hb, if_true]
  rfl

theorem State.applyAccess_atom {x : Nat} {fl : Flags} (hb : s.poisoned a.pa = false)
    (hx : atomNew var fmt (s.readNat a.pa (fmtBytes fmt)) (b.toNat % 2 ^ width fmt) = (x, fl)) : s.applyAccess o a =
      s.exchanged o a (fmtBytes fmt) (s.readNat a.pa (fmtBytes fmt)) x fun p => { p with flags := p.flags ||| fl } := by
  simp only [State.applyAccess, hk, hb, hx, Bool.false_eq_true, if_false]
  rfl

end

section
variable {fmt : Fmt} {b c : Word64} (hk : o.kind = .cas fmt b c)
include hk

theorem State.applyAccess_cas_bad (hb : s.poisoned a.pa = true) : s.applyAccess o a =
    s.unapplied o a (leBytes (fmtBytes fmt) (s.readNat a.pa (fmtBytes fmt))) false := by
  simp only [State.applyAccess, hk, hb, if_true]
  rfl

theorem State.applyAccess_cas_equal (hb : s.poisoned a.pa = false)
    (h : s.readNat a.pa (fmtBytes fmt) = b.toNat % 2 ^ width fmt) : s.applyAccess o a =
      s.exchanged o a (fmtBytes fmt) (s.readNat a.pa (fmtBytes fmt)) (c.toNat % 2 ^ width fmt) id := by
  simp only [State.applyAccess, hk, hb, if_pos h, Bool.false_eq_true, if_false]
  rfl

theorem State.applyAccess_cas_other (hb : s.poisoned a.pa = false)
    (h : s.readNat a.pa (fmtBytes fmt) ≠ b.toNat % 2 ^ width fmt) : s.applyAccess o a =
      s.modOp o.id fun p => { p with buf := leBytes (fmtBytes fmt) (s.readNat a.pa (fmtBytes fmt)) } := by
  simp only [State.applyAccess, hk, hb, if_neg h, Bool.false_eq_true, if_false]

end

section
variable {c : Word32} (hk : o.kind = .join c)
include hk

theorem State.applyAccess_join_bad (hb : s.poisoned a.pa = true) : s.applyAccess o a =
    s.unapplied o a (leBytes 4 ((s.readNat a.pa 4 + 1) % 2 ^ 32)) true := by
  simp only [State.applyAccess, hk, hb, if_true]
  rfl

theorem State.applyAccess_join_last (hb : s.poisoned a.pa = false) (h : (s.readNat a.pa 4 + 1) % 2 ^ 32 = c.toNat) :
    s.applyAccess o a =
      s.exchanged o a 4 ((s.readNat a.pa 4 + 1) % 2 ^ 32) 0 fun p => { p with side := false } := by
  simp only [State.applyAccess, hk, hb, if_pos h, Bool.false_eq_true, if_false, zeros_eq_leBytes]
  rfl

theorem State.applyAccess_join_more (hb : s.poisoned a.pa = false) (h : (s.readNat a.pa 4 + 1) % 2 ^ 32 ≠ c.toNat) :
    s.applyAccess o a = s.exchanged o a 4 ((s.readNat a.pa 4 + 1) % 2 ^ 32) ((s.readNat a.pa 4 + 1) % 2 ^ 32)
      fun p => { p with side := true } := by
  simp only [State.applyAccess, hk, hb, if_neg h, Bool.false_eq_true, if_false]
  rfl

end

/-! ### Loads, stores, reductions and zero fills -/

section
variable {h : Handle} {fmt : Fmt}

/-- The line's poison is logged when it is met by a load. -/
def State.loadMet (s : State) (o : MemOp) (a : Access) : State := if s.poisoned a.pa then s.logOp o a 1 else s

theorem State.applyAccess_load (hk : o.kind = .load h) : s.applyAccess o a = (s.loadMet o a).modOp o.id fun p =>
    { p with buf := s.fillParts p.buf a.parts
             poison := if s.poisoned a.pa then p.poison ||| poisonOf h.rows a.rows else p.poison } := by
  simp only [State.applyAccess, hk, loadPoison]
  rfl

theorem State.applyAccess_loadScalar (hk : o.kind = .loadScalar fmt) : s.applyAccess o a = (s.loadMet o a).modOp o.id fun p =>
    { p with buf := s.fillParts p.buf a.parts, poison := if s.poisoned a.pa then p.poison ||| 1 else p.poison } := by
  simp only [State.applyAccess, hk, loadPoison]
  rfl

theorem State.applyAccess_store (hk : o.kind = .store) : s.applyAccess o a = s.applyStore o a := by
  simp only [State.applyAccess, hk]

theorem State.applyAccess_pref (hk : o.kind = .pref) : s.applyAccess o a = s := by
  simp only [State.applyAccess, hk]

theorem State.applyAccess_zeroLine (hk : o.kind = .zeroLine) : s.applyAccess o a = (s.zeroLines a.pa 256).retest a.pa := by
  simp only [State.applyAccess, hk]

/-- The parts of a line reduced into memory, with their flags. -/
def State.reduceParts (s : State) (o : MemOp) (var : Nat) (fmt : Fmt) (a : Access) : State × Flags :=
  a.parts.foldl (fun x p => ((x.1.reducePart o var fmt p).1, x.2 ||| (x.1.reducePart o var fmt p).2)) (s, 0)

variable {var : Nat} (hk : o.kind = .ared var fmt)
include hk

theorem State.applyAccess_ared_bad (hb : s.poisoned a.pa = true) : s.applyAccess o a = s.logOp o a 2 := by
  simp only [State.applyAccess, hk, hb, if_true]

theorem State.applyAccess_ared (hb : s.poisoned a.pa = false) : s.applyAccess o a =
    ((s.reduceParts o var fmt a).1.retest a.pa).modOp o.id fun p =>
      { p with flags := p.flags ||| (s.reduceParts o var fmt a).2 } := by
  simp only [State.applyAccess, hk, hb, Bool.false_eq_true, if_false]
  rfl

end

/-! ### The access is then done -/

/-- The operation is changed as its kind says, and the access done. -/
theorem exec_homeAccess {t : State} {g : MemOp → MemOp} (h : s.AtHome o.id k o a .issued)
    (happ : s.applyAccess o a = t.modOp o.id g) : exec (.homeAccess o.id k) s = .next (t.applied o.id k g) := by
  have hrun : exec (.homeAccess o.id k) s = .next (s.homeAccess o.id k) := rfl
  rw [hrun, State.homeAccess_issued h, happ]
  rfl

theorem exec_homeAccess_plain {t : State} (h : s.AtHome o.id k o a .issued) (happ : s.applyAccess o a = t) :
    exec (.homeAccess o.id k) s = .next (t.applied o.id k id) :=
  exec_homeAccess h (happ.trans (State.modOp_id ..).symm)

end

/-- Settles O25: an access changes its operation as `applyAccess` does for its kind, and is done. -/
theorem homesApplyAccesses : Obligations.HomesApplyAccesses := by
  unfold Obligations.HomesApplyAccesses
  refine ⟨?atomics, ?others⟩
  case atomics =>
    intro s num k o a h old stored poisonedAnswer
    obtain rfl : o.id = num := State.op_id h.1
    refine ⟨?atom, ?cas, ?join⟩
    case atom =>
      intro var fmt b hk n m v y
      refine ⟨fun hb => exec_homeAccess h (State.applyAccess_atom_bad hk hb), fun hb => ?_⟩
      intro gives
      have give {x : Nat} {fl : Flags} (hx : atomNew var fmt v y = (x, fl)) : gives x fl :=
        exec_homeAccess h (State.applyAccess_atom hk hb hx)
      refine ⟨?_, ?_, ?_, ?_, ?_, ?_, ?_, ?_, ?_, fun hvar => give (atomNew_swaps hvar)⟩
      all_goals
        rintro rfl
        exact give rfl
    case cas =>
      intro fmt b c hk n v
      exact ⟨fun hb => exec_homeAccess h (State.applyAccess_cas_bad hk hb),
        fun hb hv => exec_homeAccess h (State.applyAccess_cas_equal hk hb hv),
        fun hb hv => exec_homeAccess h (State.applyAccess_cas_other hk hb hv)⟩
    case join =>
      intro c hk v
      exact ⟨fun hb => exec_homeAccess h (State.applyAccess_join_bad hk hb),
        fun hb hv => exec_homeAccess h (State.applyAccess_join_last hk hb hv),
        fun hb hv => exec_homeAccess h (State.applyAccess_join_more hk hb hv)⟩
  case others =>
    intro s num k o a h bad met bytes
    obtain rfl : o.id = num := State.op_id h.1
    refine ⟨?load, ?loadScalar, ?store, ?pref, ?zeroLine, ?ared⟩
    case load => exact fun _ hk => exec_homeAccess h (State.applyAccess_load hk)
    case loadScalar => exact fun _ hk => exec_homeAccess h (State.applyAccess_loadScalar hk)
    case store => exact fun hk => exec_homeAccess_plain h (State.applyAccess_store hk)
    case pref => exact fun hk => exec_homeAccess_plain h (State.applyAccess_pref hk)
    case zeroLine => exact fun hk => exec_homeAccess_plain h (State.applyAccess_zeroLine hk)
    case ared =>
      intro var fmt hk
      refine ⟨fun hb => ?_, fun hb => ?_⟩
      · exact exec_homeAccess_plain h (State.applyAccess_ared_bad hk hb)
      · exact exec_homeAccess h (State.applyAccess_ared hk hb)

end Sys2Proof.Machine
end

section
namespace Sys2Proof.Machine

/-! ## Homes accept, refuse or answer (O26, O27: R293, R294, R302, R304, R322, R324, R325, R327) -/

/-! ### What looking for an arena entry leaves alone -/

theorem State.noteArena_MemOnly (s : State) (o : MemOp) (a : Access) : s.MemOnly (s.noteArena o a) := by
  unfold State.noteArena
  split
  · exact State.MemOnly.refl _
  · exact s.logArea_Changes ..

theorem State.memops_noteArena (s : State) (o : MemOp) (a : Access) : (s.noteArena o a).memops = s.memops := by
  obtain ⟨m, h⟩ := s.noteArena_MemOnly o a
  rw [h]

/-- Taking an entry writes it, and counts the operation in its order. -/
theorem State.takeArena_memops {s s1 : State} {o : MemOp} {a : Access} {va kind info e : Nat} {value : Word64}
    (h : s.takeArena o a va value kind info = some (e, s1)) : s1.memops = s.memops := by
  unfold State.takeArena at h
  split at h
  · cases h
  · obtain ⟨b, -, hb⟩ := Option.map_eq_some_iff.mp h
    cases hb
    rfl

theorem State.op_congr {s t : State} (h : t.memops = s.memops) (n : Nat) : t.op n = s.op n := by rw [State.op, h, State.op]

/-- A change that keeps the number of an operation shows in its look-up. -/
theorem State.op_modOp {s : State} {n : Nat} {o : MemOp} (h : s.op n = some o) (g : MemOp → MemOp) (hg : ∀ p, (g p).id = p.id) :
    (s.modOp n g).op n = some (g o) := by
  have hid (p : MemOp) : (if p.id == n then g p else p).id = p.id := by split <;> simp [hg]
  have hcomp : ((fun p : MemOp => p.id == n) ∘ fun p : MemOp => if p.id == n then g p else p) = fun p => p.id == n := by
    funext p
    exact congrArg (· == n) (hid p)
  have hid : o.id = n := State.op_id h
  unfold State.op at h
  rw [State.op, State.modOp, List.find?_map, hcomp, h]
  simp [hid]

section
variable {s : State} {k : Nat} {o : MemOp} {a : Access}

/-! ### The replies, by kind -/

theorem exec_homeAccess_accepts {t : State} (h : s.AtHome o.id k o a .accepting) (hacc : s.acceptAccess o k a = t) :
    exec (.homeAccess o.id k) s = .next (t.applied o.id k id) := by
  have hrun : exec (.homeAccess o.id k) s = .next (s.homeAccess o.id k) := rfl
  rw [hrun, State.homeAccess_accepting h, hacc, State.applied, State.modOp_id]

/-- A refusal is noted in the operation, unless one has been. -/
def MemOp.refusedWith (cls : Nat) (p : MemOp) : MemOp :=
  { p with refusal := match p.refusal with | some r => some r | none => some (cls, 0) }

theorem exec_homeAccess_refuses {t : State} {cls : Nat} (h : s.AtHome o.id k o a .accepting)
    (hacc : s.acceptAccess o k a = t.refuse o cls 0) :
    exec (.homeAccess o.id k) s = .next (t.applied o.id k (MemOp.refusedWith cls)) := by
  rw [exec_homeAccess_accepts h hacc, State.applied, State.modOp_id]
  rfl

section
variable {v : Word64} (hk : o.kind = .iput v)
include hk

theorem State.acceptAccess_iput_bad (hb : s.poisoned a.pa = true) : s.acceptAccess o k a = s.logOp o a 2 := by
  simp only [State.acceptAccess, hk, hb, if_true]

theorem State.acceptAccess_iput_full (hb : s.poisoned a.pa = false) (hw : s.wordAt a.pa = some .full) :
    s.acceptAccess o k a = s.refuse o 0x14 0 := by
  simp only [State.acceptAccess, hk, hb, hw, Bool.false_eq_true, if_false, if_true]

/-- The word filled, and the ITAKEs listed on it answered. -/
def State.fillWord (s : State) (o : MemOp) (a : Access) (v : Word64) : State :=
  ((s.writeMem a.pa (leBytes 8 v.toNat)).setWord a.pa .full o.firing.asid).answers (s.takers a.pa) (leBytes 8 v.toNat) false

theorem State.acceptAccess_iput (hb : s.poisoned a.pa = false) (hw : s.wordAt a.pa ≠ some .full) : s.acceptAccess o k a =
    { (s.fillWord o a v).retest a.pa with
      due := (s.fillWord o a v).due ++ (s.takers a.pa).map fun t => .event (.memoryOpPerformed t.id none) } := by
  simp only [State.acceptAccess, hk, hb, if_neg hw, Bool.false_eq_true, if_false]
  rfl

end

section
variable (hk : o.kind = .itake)
include hk

theorem State.acceptAccess_itake_answers (h : s.poisoned a.pa = true ∨ s.wordAt a.pa = some .full) :
    s.acceptAccess o k a = s.answerOp o (s.readMem a.pa 8) (s.poisoned a.pa) := by
  have h : (s.poisoned a.pa || decide (s.wordAt a.pa = some .full)) = true := by simpa using h
  simp only [State.acceptAccess, hk, h, if_true]

variable (hb : s.poisoned a.pa = false) (hw : s.wordAt a.pa ≠ some .full)
include hb hw

/-- The ITAKE goes to the list: the word is deferred when that has listed it. -/
theorem State.acceptAccess_itake_lists {l : Bool} {t : State} (ht : s.listOp o a 0 1 0 = t)
    (hl : (t.op o.id).map MemOp.listed = some l) :
    s.acceptAccess o k a = if l = true then t.setWord a.pa .deferred o.firing.asid else t := by
  have h : (s.poisoned a.pa || decide (s.wordAt a.pa = some .full)) = false := by simpa [hb] using hw
  subst ht
  simp only [State.acceptAccess, hk, h, Bool.false_eq_true, if_false, hl, Option.getD_some]

variable (hop : s.op o.id = some o)
include hop

/-- With no entry free, the ITAKE is refused, and the word stays as it is. -/
theorem State.acceptAccess_itake_refused (ht : (s.noteArena o a).takeArena o a a.va 0 1 0 = none) (hl : o.listed = false) :
    s.acceptAccess o k a = (s.noteArena o a).refuse o 0x15 0 := by
  have hlist : s.listOp o a 0 1 0 = (s.noteArena o a).refuse o 0x15 0 := by simp only [State.listOp, ht]
  have hnoted : (s.noteArena o a).op o.id = some o := (State.op_congr (s.memops_noteArena o a) _).trans hop
  have hsame : ((s.noteArena o a).refuse o 0x15 0).op o.id = some (MemOp.refusedWith 0x15 o) :=
    State.op_modOp hnoted (MemOp.refusedWith 0x15) fun _ => rfl
  exact State.acceptAccess_itake_lists hk hb hw hlist (l := false)
    ((congrArg _ hsame).trans (congrArg some hl))

/-- The ITAKE is listed, and the word deferred. -/
theorem State.acceptAccess_itake_listed {e : Nat} {s1 : State}
    (ht : (s.noteArena o a).takeArena o a a.va 0 1 0 = some (e, s1)) : s.acceptAccess o k a =
      (s1.modOp o.id fun p => { p with arena := some e, listed := true, order := (s.noteArena o a).orders }).setWord a.pa
        .deferred o.firing.asid := by
  have hlist : s.listOp o a 0 1 0 =
      s1.modOp o.id fun p => { p with arena := some e, listed := true, order := (s.noteArena o a).orders } := by
    simp only [State.listOp, ht]
  have hs1 : s1.op o.id = some o :=
    (State.op_congr ((State.takeArena_memops ht).trans (s.memops_noteArena o a)) _).trans hop
  have hlisted := State.op_modOp hs1
    (fun p => { p with arena := some e, listed := true, order := (s.noteArena o a).orders }) fun _ => rfl
  exact State.acceptAccess_itake_lists hk hb hw hlist (l := true) ((congrArg _ hlisted).trans rfl)

end

section
variable (hk : o.kind = .iclr)
include hk

theorem State.acceptAccess_iclr_bad (hb : s.poisoned a.pa = true) : s.acceptAccess o k a = s.logOp o a 2 := by
  simp only [State.acceptAccess, hk, hb, if_true]

theorem State.acceptAccess_iclr_deferred (hb : s.poisoned a.pa = false) (hw : s.wordAt a.pa = some .deferred) :
    s.acceptAccess o k a = s.refuse o 0x02 0 := by
  simp only [State.acceptAccess, hk, hb, hw, Bool.false_eq_true, if_false, if_true]

theorem State.acceptAccess_iclr (hb : s.poisoned a.pa = false) (hw : s.wordAt a.pa ≠ some .deferred) :
    s.acceptAccess o k a = s.clearWords (· == memKey a.pa) := by
  simp only [State.acceptAccess, hk, hb, if_neg hw, Bool.false_eq_true, if_false]

end

section
variable {cond : Nat} {fmt : Fmt} {b : Word64} (hk : o.kind = .waitv cond fmt b)
include hk

/-- The condition holds, or its line is poisoned. -/
def State.waitMet (s : State) (a : Access) (cond : Nat) (fmt : Fmt) (b : Word64) : Bool :=
  s.poisoned a.pa || waitHolds cond fmt (s.readNat a.pa (fmtBytes fmt)) b

theorem State.acceptAccess_waitv_met (h : s.waitMet a cond fmt b = true) : s.acceptAccess o k a =
    s.answerOp o (leBytes (fmtBytes fmt) (s.readNat a.pa (fmtBytes fmt))) (s.poisoned a.pa) := by
  unfold State.waitMet at h
  simp only [State.acceptAccess, hk, h, if_true]

theorem State.acceptAccess_waitv_waits (h : s.waitMet a cond fmt b = false) : s.acceptAccess o k a =
    s.listOp o a b 2 (cond + 8 * ((Enc.Fmt.code fmt).toNat % 16)) := by
  unfold State.waitMet at h
  simp only [State.acceptAccess, hk, h, Bool.false_eq_true, if_false]

end

section
variable {value : Word64} {kind info : Nat}

theorem State.listOp_full (ht : (s.noteArena o a).takeArena o a a.va value kind info = none) :
    s.listOp o a value kind info = (s.noteArena o a).refuse o 0x15 0 := by simp only [State.listOp, ht]

theorem State.listOp_lists {e : Nat} {s1 : State} (ht : (s.noteArena o a).takeArena o a a.va value kind info = some (e, s1)) :
    s.listOp o a value kind info =
      s1.modOp o.id fun p => { p with arena := some e, listed := true, order := (s.noteArena o a).orders } := by
  simp only [State.listOp, ht]

end

section
variable {var : Nat} {fmt : Fmt} (hk : o.kind = .ared var fmt)
include hk

/-- The line is marked as one whose key stands already, or has not been had. -/
def State.markDup (s : State) (o : MemOp) (k : Nat) : State :=
  s.modOp o.id fun p => { p with accs := p.accs.modify k fun x => { x with dup := true } }

theorem State.acceptAccess_ared_again (h : ((s.noteArena o a).findKey o a).isSome = true) :
    s.acceptAccess o k a = (s.noteArena o a).markDup o k := by
  simp only [State.acceptAccess, hk, h, if_true]
  rfl

variable (hnew : (s.noteArena o a).findKey o a = none)
include hnew

theorem State.acceptAccess_ared_keyed {e : Nat} {s1 : State}
    (ht : (s.noteArena o a).takeArena o a (a.va / 256 * 256) 0 3 0 = some (e, s1)) : s.acceptAccess o k a = s1 := by
  simp only [State.acceptAccess, hk, hnew, Option.isSome_none, Bool.false_eq_true, if_false, ht]

theorem State.acceptAccess_ared_full (ht : (s.noteArena o a).takeArena o a (a.va / 256 * 256) 0 3 0 = none) :
    s.acceptAccess o k a = ((s.noteArena o a).refuse o 0x15 0).markDup o k := by
  simp only [State.acceptAccess, hk, hnew, Option.isSome_none, Bool.false_eq_true, if_false, ht]
  rfl

end

end

/-- Settles O26: the reply to IPUT, ITAKE and ICLR by what the word is, and the access is then done. -/
theorem writeOnceWords : Obligations.WriteOnceWords := by
  unfold Obligations.WriteOnceWords
  intro s num k o a h key bad noted refused
  obtain rfl : o.id = num := State.op_id h.1
  refine ⟨fun v hk => ⟨fun hb => ?_, fun hb hw => ?_, fun hb hw => ?_⟩, fun hk => ⟨fun hw => ?_, fun hb hw ht hl => ?_, fun e s1 hb hw ht => ?_⟩,
    fun hk => ⟨fun hb => ?_, fun hb hw => ?_, fun hb hw => ?_⟩⟩
  · exact exec_homeAccess_accepts h (State.acceptAccess_iput_bad hk hb)
  · exact exec_homeAccess_refuses h (State.acceptAccess_iput_full hk hb hw)
  · exact exec_homeAccess_accepts h (State.acceptAccess_iput hk hb hw)
  · exact exec_homeAccess_accepts h (State.acceptAccess_itake_answers hk hw)
  · exact exec_homeAccess_refuses h (State.acceptAccess_itake_refused hk hb hw h.1 ht hl)
  · exact exec_homeAccess_accepts h (State.acceptAccess_itake_listed hk hb hw h.1 ht)
  · exact exec_homeAccess_accepts h (State.acceptAccess_iclr_bad hk hb)
  · exact exec_homeAccess_refuses h (State.acceptAccess_iclr_deferred hk hb hw)
  · exact exec_homeAccess_accepts h (State.acceptAccess_iclr hk hb hw)

/-! ### With every reply in (R304) -/

section
variable {s : State} {o : MemOp} (hop : s.op o.id = some o)
include hop

/-- While a home is yet to reply nothing happens. -/
theorem exec_acceptanceReply_waits (h : o.phase ≠ .accepting ∨ ∃ a ∈ o.accs, a.done = false) :
    exec (.acceptanceReply o.id) s = .next s := by
  have hwait : (o.phase == .accepting && o.accs.all Access.done) = false := by
    rw [Bool.and_eq_false_iff]
    simpa using h
  have hrun : exec (.acceptanceReply o.id) s = .next (s.acceptanceReply o.id) := rfl
  rw [hrun]
  simp [State.acceptanceReply, hop, hwait]

variable (hphase : o.phase = .accepting) (hdone : ∀ a ∈ o.accs, a.done = true) (horigin : o.origin = none)
include hphase hdone horigin

theorem exec_acceptanceReply_refused {cls code : Nat} (hr : o.refusal = some (cls, code)) :
    exec (.acceptanceReply o.id) s = .next (((s.releaseKeys o).dropOp o.id).raise o.firing (trapOf cls code)) := by
  have hall : o.accs.all Access.done = true := List.all_eq_true.mpr hdone
  have hrun : exec (.acceptanceReply o.id) s = .next (s.acceptanceReply o.id) := rfl
  rw [hrun]
  simp [State.acceptanceReply, hop, hphase, hall, horigin, hr]

/-- What else the commit of an accepted operation does: it goes on. -/
def State.goesOn (s : State) (o : MemOp) : State :=
  let o1 := o.accepted (s.dev.time + twoMs)
  let s1 := s.modOp o.id fun _ => o1
  if o.isAred then s1.ask o1 else s1

theorem exec_acceptanceReply_accepted (hr : o.refusal = none) : exec (.acceptanceReply o.id) s =
    .next (s.commitWith o.firing ⟨[], 0⟩ fun st => st.goesOn o) := by
  have hall : o.accs.all Access.done = true := List.all_eq_true.mpr hdone
  have hrun : exec (.acceptanceReply o.id) s = .next (s.acceptanceReply o.id) := rfl
  rw [hrun]
  simp only [State.acceptanceReply, hop, hphase, hall, horigin, hr, beq_self_eq_true, Bool.and_self, Bool.not_true,
    Bool.false_eq_true, if_false]
  rfl

end

theorem State.fits_nothing {s : State} {f : Firing} (h : needLines f [] ≤ 2048) : s.Fits f [] (s.cell f.cell) [] :=
  ⟨by simp [State.badRemote], h, by simp [newTiles, Cell.canReserve], rfl⟩

/-- Settles O27: the reply to WAITV and ARED by what their home finds, and what is made of every reply together. -/
theorem acceptanceThenCommit : Obligations.AcceptanceThenCommit := by
  unfold Obligations.AcceptanceThenCommit
  intro s num o hop
  obtain rfl : o.id = num := State.op_id hop
  refine ⟨fun k a h => ?replies, fun hphase hdone horigin => ⟨fun cls code hr => ?_, fun hr hlines => ?_, fun hr hlines => ?_⟩, ?waits⟩
  case replies =>
    intro dup noted full
    refine ⟨fun cond fmt b hk => ?waitv, fun var fmt hk => ⟨fun hkey => ?_, fun e s1 hkey ht => ?_, fun hkey ht => ?_⟩⟩
    case waitv =>
      intro v y met info
      refine ⟨fun hm => ?_, fun e s1 hm ht => ?_, fun hm ht => ?_⟩
      · exact exec_homeAccess_accepts h (State.acceptAccess_waitv_met hk hm)
      · rw [exec_homeAccess_accepts h ((State.acceptAccess_waitv_waits hk hm).trans (State.listOp_lists ht)), State.applied,
          State.modOp_id]
        rfl
      · exact exec_homeAccess_accepts h ((State.acceptAccess_waitv_waits hk hm).trans (State.listOp_full ht))
    · exact exec_homeAccess_accepts h (State.acceptAccess_ared_again hk hkey)
    · exact exec_homeAccess_accepts h (State.acceptAccess_ared_keyed hk hkey ht)
    · exact exec_homeAccess_accepts h (State.acceptAccess_ared_full hk hkey ht)
  · exact exec_acceptanceReply_refused hop hphase hdone horigin hr
  · rw [exec_acceptanceReply_accepted hop hphase hdone horigin hr, State.commitWith_fits _ (State.fits_nothing hlines)]
    rfl
  · rw [exec_acceptanceReply_accepted hop hphase hdone horigin hr]
    exact congrArg _ (if_pos hlines)
  case waits => exact exec_acceptanceReply_waits hop

end Sys2Proof.Machine
end

section
namespace Sys2Proof.Machine

/-! ## Operations finish (O28: R285, R292, R298, R303, R310, R313, R321, R326, R328) -/

/-! ### A performed operation leaves its port -/

/-- An operation that has become performed leaves. -/
def State.ended (s : State) (n : Nat) : State :=
  match s.op n with
  | some p => if p.phase = .applied then s.finishOp p else s
  | none => s

section
variable {s : State} {n : Nat} {o : MemOp} (hop : s.op n = some o)
include hop

theorem exec_memoryOpPerformed_none (happ : o.phase = .applied) :
    exec (.memoryOpPerformed n none) s = .next (s.finishOp o) := by
  have hrun : exec (.memoryOpPerformed n none) s = .next (s.opPerformed n none) := rfl
  rw [hrun]
  simp [State.opPerformed, hop, happ]

theorem exec_memoryOpPerformed_some (r : RemoteReply) :
    exec (.memoryOpPerformed n (some r)) s = .next ((s.answerInTime o r).ended n) := by
  have hrun : exec (.memoryOpPerformed n (some r)) s = .next (s.opPerformed n (some r)) := rfl
  rw [hrun]
  simp only [State.opPerformed, hop, State.ended, beq_iff_eq] <;> rfl

end

section
variable {s : State} {o : MemOp}

theorem State.finishOp_own (horigin : o.origin = none) : s.finishOp o =
    (((s.dropOp o.id).opFlags o).deliverResult o o.result.1 o.result.2).progress o.firing.asid := by
  simp only [State.finishOp, horigin]

/-- A loaded tile fills the lines kept for it, and leaves. -/
theorem State.deliverResult_load {h : Handle} {l : Nat} (hk : o.kind = .load h) (hl : o.firing.room = some l) :
    s.deliverResult o o.result.1 o.result.2 =
      (((s.modCell o.firing.cell fun c =>
          { c with tiles := c.tiles.map fun t => if t.line == l then { t with data := o.buf } else t }).send
        (o.firing.sender s) o.otag (.tile { h with poison := o.poison, eos := o.eos, line := l } o.buf) o.firing.outs0).gcTiles
          o.firing.cell) := by
  simp only [State.deliverResult, MemOp.result, hk, hl]
  rfl

/-- The answer to an ITAKE or a WAITV names its home. -/
theorem State.deliverResult_answer {n : Word64} {p e : Bool} {a : Access} {rest : List Access}
    (hk : o.kind = .itake ∨ ∃ c fmt b, o.kind = .waitv c fmt b) (ha : o.accs = a :: rest) :
    s.deliverResult o false (.scalar n p e) =
      State.sendFar
        { s with net := s.net ++ (s.tokensTo (o.firing.sender s) o.otag (.scalar n p e) o.firing.outs0).map fun t =>
            { toks := [t], tile := none, left := 0, line := none, xfer := none,
              far := some (a.pa / 2 ^ 39, homeCell a.pa, 0) } }
        (o.firing.sender s) o.otag (.scalar n p e) o.firing.outs0 := by
  obtain hk | ⟨c, fmt, b, hk⟩ := hk <;> simp only [State.deliverResult, hk, ha] <;> rfl

/-- Any other scalar is emitted. -/
theorem State.deliverResult_scalar {n : Word64} {p e side : Bool} (hi : o.kind ≠ .itake) (hw : ∀ c fmt b, o.kind ≠ .waitv c fmt b) :
    s.deliverResult o side (.scalar n p e) =
      s.send (o.firing.sender s) o.otag (.scalar n p e) (if side then o.firing.outs1 else o.firing.outs0) := by
  cases hk : o.kind with
  | itake => exact absurd hk hi
  | waitv c fmt b => exact absurd hk (hw c fmt b)
  | _ =>
    simp only [State.deliverResult, hk]
    rfl

/-- The flags of a performed operation that leaves its port (R321). -/
theorem exec_memoryOpPerformed_own (hop : s.op o.id = some o) (happ : o.phase = .applied) (horigin : o.origin = none) :
    exec (.memoryOpPerformed o.id none) s =
      .next ((((s.dropOp o.id).opFlags o).deliverResult o o.result.1 o.result.2).progress o.firing.asid) := by
  rw [exec_memoryOpPerformed_none hop happ, State.finishOp_own horigin]

/-! ### A request that is not answered in time (R328) -/

theorem State.remoteTimeout_early (hop : s.op o.id = some o) (h : s.dev.time < o.deadline) : s.remoteTimeout o.id = s := by
  simp only [State.remoteTimeout, hop, h, decide_true, Bool.or_true, if_true]
  split <;> rfl

theorem State.remoteTimeout_settled (hop : s.op o.id = some o) (h : o.phase ≠ .issued) (h' : o.phase ≠ .accepting) :
    s.remoteTimeout o.id = s := by
  have hphase : (o.phase == .issued || o.phase == .accepting) = false := by simp [h, h']
  simp only [State.remoteTimeout, hop, hphase, Bool.not_false, Bool.true_or, if_true]
  split <;> rfl

theorem State.remoteTimeout_answered (hop : s.op o.id = some o) (h : ∀ a ∈ o.accs, s.isRemote a.pa = true → a.done = true) :
    s.remoteTimeout o.id = s := by
  have hnone : (s.remoteAccs o).find? (fun a => !a.done) = none := by
    simpa [State.remoteAccs] using h
  simp only [State.remoteTimeout, hop, hnone]

/-- The trap of a line that is not answered. -/
def timeoutTrap (a : Access) : Trap := { trapOf 0x16 0 with addr := a.va, aux := BitVec.ofNat 64 (a.pa / 2 ^ 39) }

/-- The operation is given up, and its frame traps. -/
def State.timesOut (s : State) (o : MemOp) (a : Access) : State :=
  (if frameCurrent (s.frameOf o.firing.asid o.firing.tag) o.firing.tag then s.abandon o else (s.abandon o).dropWaiting o).takeTrap
    o.firing.asid { s.recOf o.firing (timeoutTrap a) [] with kind := 2, op := some o.id }

theorem State.remoteTimeout_fires {a : Access} (hop : s.op o.id = some o)
    (ha : (s.remoteAccs o).find? (fun a => !a.done) = some a) (hphase : o.phase = .issued ∨ o.phase = .accepting)
    (h : o.deadline ≤ s.dev.time) : s.remoteTimeout o.id = s.timesOut o a := by
  have hwaits : (o.phase == .issued || o.phase == .accepting) = true := by simpa using hphase
  simp only [State.remoteTimeout, hop, ha, hwaits, Bool.not_true, Bool.false_or, decide_eq_false (Nat.not_lt.mpr h),
    Bool.false_eq_true, if_false]
  rfl

theorem State.memops_gcTiles (c : Nat) : (s.gcTiles c).memops = s.memops := rfl

theorem State.memops_dropWaiting : (s.dropWaiting o).memops = s.memops := by
  unfold State.dropWaiting
  split <;> rfl

theorem State.memops_takeTrap (n : Nat) (r : TrapRec) : (s.takeTrap n r).memops = s.memops := by
  obtain ⟨m, k, x, q, b, d, h⟩ := s.takeTrap_Changes n r
  rw [h]

/-- An operation that was given up is abandoned. -/
theorem State.op_timesOut {a : Access} (hop : s.op o.id = some o) : (s.timesOut o a).op o.id =
    some { o with phase := .abandoned, listed := false, firing := { o.firing with room := none } } := by
  have habandon : (s.abandon o).op o.id = _ :=
    State.op_modOp hop (fun p => { p with phase := .abandoned, listed := false, firing := { p.firing with room := none } })
      fun _ => rfl
  refine (State.op_congr ?_ _).trans habandon
  rw [State.timesOut, State.memops_takeTrap]
  split
  · rfl
  · exact State.memops_dropWaiting

/-- To ask for the timeout once more changes nothing. -/
theorem State.remoteTimeout_idem (hop : s.op o.id = some o) :
    (s.remoteTimeout o.id).remoteTimeout o.id = s.remoteTimeout o.id := by
  by_cases hphase : o.phase = .issued ∨ o.phase = .accepting
  · cases ha : (s.remoteAccs o).find? (fun a => !a.done) with
    | none =>
      have hnone : ∀ a ∈ o.accs, s.isRemote a.pa = true → a.done = true := by
        simpa [State.remoteAccs] using ha
      simp only [State.remoteTimeout_answered hop hnone]
    | some a =>
      by_cases hdead : o.deadline ≤ s.dev.time
      · rw [State.remoteTimeout_fires hop ha hphase hdead]
        exact State.remoteTimeout_settled (o := { o with phase := .abandoned, listed := false, firing := { o.firing with room := none } })
          (State.op_timesOut hop) nofun nofun
      · simp only [State.remoteTimeout_early hop (Nat.lt_of_not_le hdead)]
  · obtain ⟨hi, ha⟩ := not_or.mp hphase
    simp only [State.remoteTimeout_settled hop hi ha]

/-- An answer that comes after the deadline finds the timeout made. -/
theorem exec_memoryOpPerformed_late {u : State} {p : MemOp} (hop : s.op o.id = some o) (r : RemoteReply)
    (hu : s.remoteTimeout o.id = u) (hp : u.op o.id = some p) :
    exec (.memoryOpPerformed o.id (some r)) s = exec (.memoryOpPerformed o.id (some r)) u := by
  have hid : p.id = o.id := State.op_id hp
  have hidem : u.remoteTimeout o.id = u := hu ▸ State.remoteTimeout_idem hop
  rw [exec_memoryOpPerformed_some hop, exec_memoryOpPerformed_some hp]
  simp only [State.answerInTime, hid, hu, hidem]

/-! ### The answer of another device (R298) -/

section
variable {r : RemoteReply} {a : Access} (hop : s.op o.id = some o)
include hop

theorem exec_memoryOpPerformed_inTime (htime : s.remoteTimeout o.id = s) :
    exec (.memoryOpPerformed o.id (some r)) s = .next ((s.remoteAnswer o r).ended o.id) := by
  rw [exec_memoryOpPerformed_some hop]
  simp only [State.answerInTime, htime, hop]

end

section
variable {r : RemoteReply} {a : Access} (ha : o.accs[r.acc]? = some a) (hfar : s.isRemote a.pa = true)
include ha hfar

/-- The poison that the answer reports is logged. -/
def State.metFar (s : State) (o : MemOp) (a : Access) (r : RemoteReply) (src : Nat) : State :=
  if r.poison then s.logOp o a src else s

theorem State.remoteAnswer_waiting (h : o.phase = .waiting) : s.remoteAnswer o r =
    (s.metFar o a r 2).modOp o.id fun p => { p.take r.acc a r with phase := .applied } := by
  simp only [State.remoteAnswer, ha, hfar, h]
  rfl

theorem State.remoteAnswer_early (h : o.phase = .accepting) (hdone : a.done = true) (hl : o.listed = true) (hr : r.listed = false) :
    s.remoteAnswer o r = (s.metFar o a r 2).modOp o.id fun p => p.take r.acc a r := by
  simp only [State.remoteAnswer, ha, hfar, h, hdone, hl, hr]
  rfl

variable (hdone : a.done = false) (hlate : o.late.contains r.acc = false)
include hdone hlate

theorem State.remoteAnswer_abandoned (h : o.phase = .abandoned) : s.remoteAnswer o r =
    ((s.countOrphan o.firing.asid).modOp o.id fun p => p.lateAt r.acc).dropSpent o.id := by
  simp only [State.remoteAnswer, ha, hfar, h, hdone, hlate]
  rfl

variable (h : o.phase = .issued)
include h

theorem State.remoteAnswer_refused {cls code : Nat} (hr : r.refused = some (cls, code)) (hk : o.kind ≠ .pref) :
    s.remoteAnswer o r = (s.modOp o.id fun p => p.lateAt r.acc).refusedLate o a cls code := by
  have hk : (o.kind == .pref) = false := by simpa using hk
  simp only [State.remoteAnswer, ha, hfar, h, hdone, hlate, hr, hk]
  rfl

theorem State.remoteAnswer_taken (hr : r.refused = none) : s.remoteAnswer o r =
    (if r.poison && o.kind != .pref then s.logOp o a o.kind.farSrc else s).modOp o.id fun p => (p.take r.acc a r).settle := by
  have hfirst : (OpPhase.issued == .accepting && o.isAred) = false := rfl
  simp only [State.remoteAnswer, ha, hfar, h, hdone, hlate, hr, hfirst, Bool.not_false, Bool.and_true]
  rfl

end

/-- The source that a request's poisoned line is logged under, where it is. -/
theorem ite_metFar {t : State} {r : RemoteReply} {a : Access} :
    (if r.poison && o.kind != .pref then s.logOp o a o.kind.farSrc else t) =
      if r.poison ∧ o.kind ≠ .pref then s.logOp o a (match o.kind with | .load _ | .loadScalar _ => 1 | _ => 2) else t := by
  cases hk : o.kind <;> simp [OpKind.farSrc]

end

/-- Settles O28: a performed operation leaves its port with the token of its kind; the answer of another device is taken before its deadline,
and gives the operation up after it. -/
theorem operationsFinish : Obligations.OperationsFinish := by
  unfold Obligations.OperationsFinish
  intro s num o hop f running ended
  obtain rfl : o.id = num := State.op_id hop
  refine ⟨fun happ horigin => ?performed, fun r u hdead hphase hu hsome => ?late, fun r a ha hfar htime => ?answer, fun h => ?early,
    fun before a after haccs hbefore hfar hdone hphase hdead => ?fires⟩
  case performed =>
    intro s1 from' emits answers scalar
    have hown := exec_memoryOpPerformed_own hop happ horigin
    have emit {side : Bool} {n : Word64} {p e : Bool} (hr : o.result = (side, .scalar n p e)) (hi : o.kind ≠ .itake)
        (hw : ∀ c fmt b, o.kind ≠ .waitv c fmt b) : emits side (.scalar n p e) := by
      refine hown.trans ?_
      rw [hr, State.deliverResult_scalar hi hw]
      rfl
    have answer {n : Word64} {p e : Bool} (hr : o.result = (false, .scalar n p e))
        (hk : o.kind = .itake ∨ ∃ c fmt b, o.kind = .waitv c fmt b) : answers (.scalar n p e) := by
      intro a rest ha toks s2
      refine hown.trans ?_
      rw [hr, State.deliverResult_answer hk ha]
      rfl
    refine ⟨fun h l hk hl => ?_, fun fmt hk => ?_, fun c fmt b hk => ?_, fun hk => ?_, fun c hk => ?_, fun hk => ?_⟩
    · refine hown.trans ?_
      rw [State.deliverResult_load hk hl]
      rfl
    · obtain hk | ⟨v, b, hk⟩ | ⟨b, c, hk⟩ := hk
      all_goals exact emit (by simp only [MemOp.result, hk]) (by simp [hk]) (by simp [hk])
    · exact answer (by simp only [MemOp.result, hk]) (.inr ⟨c, fmt, b, hk⟩)
    · exact answer (by simp only [MemOp.result, hk]) (.inl hk)
    · exact emit (by simp only [MemOp.result, hk]) (by simp [hk]) (by simp [hk])
    · obtain hk | hk | hk | ⟨v, fmt, hk⟩ | ⟨v, hk⟩ := hk
      all_goals exact emit (by simp only [MemOp.result, hk]) (by simp [hk]) (by simp [hk])
  case late =>
    obtain ⟨p, hp⟩ := Option.isSome_iff_exists.mp hsome
    exact exec_memoryOpPerformed_late hop r (Host.Outcome.next.inj hu) hp
  case answer =>
    have htime : s.remoteTimeout o.id = s := by
      obtain htime | hphase | hphase := htime
      · exact State.remoteTimeout_early hop htime
      all_goals exact State.remoteTimeout_settled hop (by simp [hphase]) (by simp [hphase])
    intro gives src met late
    have give {t : State} (ht : s.remoteAnswer o r = t) : gives t :=
      (exec_memoryOpPerformed_inTime hop htime).trans (congrArg (fun u : State => Host.Outcome.next (u.ended o.id)) ht)
    refine ⟨fun h hdone hlate hr => ?_, fun h => ?_, fun h hdone hl hr => ?_, fun cls code h hdone hlate hr hk => ?_,
      fun h hdone hlate => ?_⟩
    · exact give ((State.remoteAnswer_taken ha hfar hdone hlate h hr).trans (congrArg (State.modOp · _ _) ite_metFar))
    · exact give (State.remoteAnswer_waiting ha hfar h)
    · exact give (State.remoteAnswer_early ha hfar h hdone hl hr)
    · exact give (State.remoteAnswer_refused ha hfar hdone hlate h hr hk)
    · exact give (State.remoteAnswer_abandoned ha hfar hdone hlate h)
  case early =>
    refine congrArg Host.Outcome.next ?_
    obtain htime | hall := h
    · exact State.remoteTimeout_early hop htime
    · exact State.remoteTimeout_answered hop hall
  case fires =>
    intro s1 t
    have hfind : (s.remoteAccs o).find? (fun a => !a.done) = some a := by
      have hnone : (before.filter fun a => s.isRemote a.pa).find? (fun a => !a.done) = none := by simpa using hbefore
      rw [State.remoteAccs, haccs, List.filter_append, List.find?_append, hnone, List.filter_cons_of_pos (by exact hfar),
        Option.none_or, List.find?_cons_of_pos (by simp [hdone])]
    exact congrArg Host.Outcome.next (State.remoteTimeout_fires hop hfind hphase hdead)

end Sys2Proof.Machine
end

section
namespace Sys2Proof.Machine

/-! ## The zero fill of a page (O29: R295, R328, R360, R362) -/

theorem foldl_eq_self {α β : Type} {g : β → α → β} {b : β} {l : List α} (h : ∀ a ∈ l, g b a = b) : l.foldl g b = b := by
  induction l with
  | nil => rfl
  | cons a l ih =>
    rw [List.foldl_cons, h a List.mem_cons_self]
    exact ih fun c hc => h c (List.mem_cons_of_mem _ hc)

/-- Nothing waits: a retest changes nothing. -/
theorem State.retest_unlisted {s : State} (h : ∀ o ∈ s.memops, o.listed = false) (pa : Nat) : s.retest pa = s := by
  refine foldl_eq_self fun o ho => ?_
  split
  · simp [h o ho]
  · rfl

section
variable {s : State} {n : Nat} {z : ZeroFill} (hz : s.fills[n]? = some z)
include hz

/-! ### ZERO_CLAIM -/

theorem State.zeroClaim_filling (h : z.filling = true) : s.zeroClaim n = s := by
  rw [State.zeroClaim, hz]
  exact if_pos h

theorem State.zeroClaim_later (h : z.filling = false) (hy : ∃ y ∈ s.fills, y.filling = true ∧ y.leaf = z.leaf) :
    s.zeroClaim n = { s with fills := s.fills.eraseIdx n } := by
  have hany : s.fills.any (fun y => y.filling && y.leaf == z.leaf) = true := by simpa using hy
  rw [State.zeroClaim, hz]
  exact (if_neg (by rw [h]; nofun)).trans (if_pos hany)

/-- The claim is taken: CLM is set, and the fill of the frame that the entry names starts. -/
def State.startFill (s : State) (n : Nat) (z : ZeroFill) (e : Nat) : State :=
  let z1 : ZeroFill := { z with frame := bitsOf e 16 36 * 2 ^ 16, w1 := bitsOf e 5 1 == 1, filling := true }
  let s1 := s.writeNat z.leaf 8 (e + 2 ^ 8)
  let s2 := if s.isRemote z1.frame then s1.askZeros z1 else s1
  { s2.retest z.leaf with fills := s2.fills.set n z1 }

/-- What the first claim of a leaf meets in its entry. -/
def State.claimMeets (s : State) (n : Nat) (z : ZeroFill) (e : Nat) : State :=
  if bitsOf e 8 1 = 1 then s.failClaim z.leaf 0x0A 2
  else if bitsOf e 7 1 = 0 then s.claimAnswered z.leaf
  else
    match s.checkTarget (s.vdevOf z.asid) (bitsOf e 16 36 * 2 ^ 16) (2 ^ 16) with
    | .error (.fault cls code freeze _) => s.failClaim z.leaf cls code freeze
    | _ =>
      let z1 : ZeroFill := { z with frame := bitsOf e 16 36 * 2 ^ 16, w1 := bitsOf e 5 1 == 1, filling := true }
      let s1 := s.writeNat z.leaf 8 (e + 2 ^ 8)
      let s2 := if s.isRemote z1.frame then s1.askZeros z1 else s1
      { s2.retest z.leaf with fills := s2.fills.set n z1 }

theorem State.zeroClaim_first (h : z.filling = false) (hy : ∀ y ∈ s.fills, y.filling = true → y.leaf ≠ z.leaf) :
    s.zeroClaim n = s.claimMeets n z (s.readNat z.leaf 8) := by
  have hany : s.fills.any (fun y => y.filling && y.leaf == z.leaf) = false := by simpa using hy
  rw [State.zeroClaim, hz]
  refine (if_neg (by rw [h]; nofun)).trans ((if_neg (by rw [hany]; nofun)).trans ?_)
  rfl

section
variable {e : Nat} (hclm : bitsOf e 8 1 = 0)
include hclm

omit hz in
theorem State.claimMeets_answered (hzf : bitsOf e 7 1 = 0) : s.claimMeets n z e = s.claimAnswered z.leaf := by
  simp [State.claimMeets, hclm, hzf]

variable (hzf : bitsOf e 7 1 = 1)
include hzf

omit hz in
theorem State.claimMeets_taken (h : s.checkTarget (s.vdevOf z.asid) (bitsOf e 16 36 * 2 ^ 16) (2 ^ 16) = .ok ()) :
    s.claimMeets n z e = s.startFill n z e := by
  refine (if_neg (by omega)).trans ((if_neg (by omega)).trans ?_)
  rw [h]
  rfl

omit hz in
theorem State.claimMeets_barred {cls code : Nat} {freeze more : Option Nat}
    (h : s.checkTarget (s.vdevOf z.asid) (bitsOf e 16 36 * 2 ^ 16) (2 ^ 16) = .error (.fault cls code freeze more)) :
    s.claimMeets n z e = s.failClaim z.leaf cls code freeze := by
  simp only [State.claimMeets, hclm, hzf, h, Nat.zero_ne_one, Nat.one_ne_zero, if_false]

end

/-! ### ZERO_FILL_DONE -/

/-- Its requests given up, and the page zeroed where it is this device's. -/
def State.fillOver (s : State) (z : ZeroFill) : State := (s.giveUp fun p => p.leaf == some z.leaf).zeroPage z.frame

/-- The leaf entry as the end of the fill leaves it: CLM goes, and ZF when every line is done. -/
def State.entryAfter (s : State) (z : ZeroFill) (failed : Bool) : Nat :=
  let e := (s.fillOver z).readNat z.leaf 8
  e - (if failed then 0 else bitsOf e 7 1 * 2 ^ 7) - bitsOf e 8 1 * 2 ^ 8

/-- The end of a fill. -/
def State.fillEnds (s : State) (z : ZeroFill) (refused late : Bool) : State :=
  let s2 := (s.fillOver z).homeWrite z.leaf (leBytes 8 (s.entryAfter z (refused || late)))
  if refused then s2.failClaim z.leaf 0x0B 3
  else if late then s2.failClaim z.leaf 0x16 0 none (z.frame / 2 ^ 39)
  else s2.claimAnswered z.leaf

theorem State.zeroFillDone_waits (h : z.filling = false ∨ (s.zeroPages z.leaf).any (fun p => p.waits s.dev.time) = true) :
    s.zeroFillDone n = s := by
  have hwaits : (!z.filling || (s.zeroPages z.leaf).any fun p => p.waits s.dev.time) = true := by
    obtain h | h := h <;> simp [h]
  simp only [State.zeroFillDone, hz, hwaits, if_true]

theorem State.zeroFillDone_ends (h : z.filling = true)
    (hnone : (s.zeroPages z.leaf).any (fun p => p.waits s.dev.time) = false) : s.zeroFillDone n =
      s.fillEnds z ((s.zeroPages z.leaf).any FarPage.refused) ((s.zeroPages z.leaf).any FarPage.timedOut) := by
  simp only [State.zeroFillDone, hz, h, hnone, Bool.not_true, Bool.or_self, Bool.false_eq_true, if_false]
  rfl

end

/-- An answer to the device's own requests that none of them waits for. -/
theorem State.farAnswer_unknown {s : State} {id : Nat} {r : RemoteReply}
    (h : ∀ p ∈ s.farPages, (p.id == id && p.left.contains r.acc) = false) : s.farAnswer id r = s := by
  have hnone : s.farPages.find? (fun p => p.id == id && p.left.contains r.acc) = none :=
    List.find?_eq_none.mpr fun p hp => by rw [h p hp]; nofun
  simp only [State.farAnswer, hnone]

theorem FarPage.timedOut_iff {p : FarPage} : p.timedOut = true ↔ p.late = true ∨ p.left ≠ [] := by
  simp [FarPage.timedOut]

/-- No asked page waits. -/
theorem State.zeroPages_none_waits {s : State} {leaf : Nat} (h : ∀ p ∈ s.zeroPages leaf, ¬ p.Awaited s.dev.time) :
    (s.zeroPages leaf).any (fun p => p.waits s.dev.time) = false := by
  refine List.any_eq_false.mpr fun p hp hwaits => h p hp ?_
  have hgone : p.gone = false := by simpa using (Bool.and_eq_true_iff.mp (List.mem_filter.mp hp).2).2
  simpa [FarPage.waits, hgone, FarPage.Awaited, and_assoc] using hwaits

theorem State.zeroPages_waits {s : State} {leaf : Nat} (h : ∃ p ∈ s.zeroPages leaf, p.Awaited s.dev.time) :
    (s.zeroPages leaf).any (fun p => p.waits s.dev.time) = true := by
  by_contra hnone
  obtain ⟨p, hp, hwaits⟩ := h
  have hgone : p.gone = false := by simpa using (Bool.and_eq_true_iff.mp (List.mem_filter.mp hp).2).2
  exact (List.any_eq_false.mp (Bool.not_eq_true _ ▸ hnone)) p hp
    (by simpa [FarPage.waits, hgone, FarPage.Awaited, and_assoc] using hwaits)

/-! ### A page of this device (R295) -/

section
variable {s : State} {z : ZeroFill} (hnear : s.isRemote z.frame = false) (hlist : ∀ o ∈ s.memops, o.listed = false)
include hnear hlist

theorem State.zeroPage_near : s.zeroPage z.frame = s.zeroLines z.frame 65536 := by
  simp only [State.zeroPage, hnear, Bool.false_eq_true, if_false]
  refine foldl_eq_self fun o ho => ?_
  split
  · simp [hlist o ho]
  · rfl

/-- The state after the fill of a page of this device: its bytes zero, its words empty, its lines unpoisoned, and the entry written. -/
def State.zeroedPage (s : State) (z : ZeroFill) : State :=
  (((s.giveUp fun p => p.leaf == some z.leaf).zeroLines z.frame 65536).writeMem z.leaf (leBytes 8 (s.entryAfter z false)))

theorem State.fillEnds_near : s.fillEnds z false false = (s.zeroedPage z).claimAnswered z.leaf := by
  have hpage : s.fillOver z = (s.giveUp fun p => p.leaf == some z.leaf).zeroLines z.frame 65536 :=
    State.zeroPage_near (s := s.giveUp fun p => p.leaf == some z.leaf) hnear hlist
  have hretest : (s.fillOver z).homeWrite z.leaf (leBytes 8 (s.entryAfter z false)) =
      (s.fillOver z).writeMem z.leaf (leBytes 8 (s.entryAfter z false)) :=
    State.retest_unlisted (by rw [hpage]; exact hlist) _
  rw [State.fillEnds, Bool.or_self, hretest, State.zeroedPage, hpage]
  rfl

end

section
variable {s : State} {frame a : Nat}

/-- The byte is of the page at that frame. -/
abbrev inPage (frame a : Nat) : Prop := memKey frame ≤ memKey a ∧ memKey a < memKey frame + 65536

theorem State.byteAt_zeroLines : (s.zeroLines frame 65536).byteAt a = if inPage frame a then 0 else s.byteAt a :=
  Memory.get_clear ..

/-- What a filter keeps outside n keys from a on. -/
theorem ite_outside {α : Type} {a n k : Nat} {x : Option α} :
    (if (decide (k < a) || decide (a + n ≤ k)) = true then x else none) = if a ≤ k ∧ k < a + n then none else x := by
  by_cases hlow : a ≤ k
  · by_cases hhigh : k < a + n <;> simp [hlow, hhigh]
  · simp [hlow, Nat.lt_of_not_le hlow]

theorem State.wordAt_zeroLines : (s.zeroLines frame 65536).wordAt a = if inPage frame a then none else s.wordAt a :=
  (Memory.look_filter_key (memKey a) s.w1 fun k => decide (k < memKey frame) || decide (memKey frame + 65536 ≤ k)).trans
    ite_outside

end

/-- Settles O29: by what the claim finds, and by what the requests for the page's lines have met; a page of this device is zeroed in one step. -/
theorem zeroFillOfAPage : Obligations.ZeroFillOfAPage := by
  unfold Obligations.ZeroFillOfAPage
  intro s n z hz e first inPage' asked open' s0 s1 e1 cleared
  refine ⟨fun h => ?filling, fun h hy => ?later, fun h hy => ?claim, fun h => ?waits, fun h hopen => ?done, fun r num hop => ?answer,
    fun h hnear hasked hlist => ?page⟩
  case filling => exact congrArg Host.Outcome.next (State.zeroClaim_filling hz h)
  case later => exact congrArg Host.Outcome.next (State.zeroClaim_later hz h hy)
  case claim =>
    have hclaim {t : State} (ht : s.claimMeets n z e = t) : exec (.zeroClaim n) s = .next t :=
      congrArg Host.Outcome.next ((State.zeroClaim_first hz h hy).trans ht)
    refine ⟨fun hclm => hclaim (if_pos hclm), fun hclm hzf => hclaim (State.claimMeets_answered hclm hzf), fun hclm hzf => ?_⟩
    intro fr z1 s2 s3
    refine ⟨fun hok => ?_, fun cls code fz more herr => ?_⟩
    · refine hclaim ((State.claimMeets_taken hclm hzf hok).trans ?_)
      have hfills : s3.fills = s.fills := by
        simp only [s3]
        split <;> rfl
      rw [← hfills]
      rfl
    · exact hclaim (State.claimMeets_barred hclm hzf herr)
  case waits =>
    refine congrArg Host.Outcome.next (State.zeroFillDone_waits hz ?_)
    exact h.imp_right State.zeroPages_waits
  case done =>
    have hnone := State.zeroPages_none_waits hopen
    have hs1 : s.fillOver z = s1 := by
      by_cases hfar : s.isRemote z.frame = true
      · exact (if_pos hfar).trans (if_pos hfar).symm
      · exact (if_neg hfar).symm
    have hends {refused late : Bool} {t : State} (hr : (s.zeroPages z.leaf).any FarPage.refused = refused)
        (hl : (s.zeroPages z.leaf).any FarPage.timedOut = late) (ht : s.fillEnds z refused late = t) :
        exec (.zeroFillDone n) s = .next t := by
      subst hr hl
      exact congrArg Host.Outcome.next ((State.zeroFillDone_ends hz h hnone).trans ht)
    refine ⟨fun hall => ?_, fun hr => ?_, fun hr hl => ?_⟩
    · refine hends (refused := false) (late := false) (List.any_eq_false.mpr fun p hp => ?_)
        (List.any_eq_false.mpr fun p hp => ?_) ?_
      · simp [(hall p hp).1]
      · obtain ⟨-, hlate, hleft⟩ := hall p hp
        simp [FarPage.timedOut, hlate, hleft]
      · simp only [State.fillEnds, State.entryAfter, hs1]
        rfl
    · refine hends (refused := true) (List.any_eq_true.mpr hr) rfl ?_
      simp only [State.fillEnds, State.entryAfter, hs1]
      rfl
    · refine hends (refused := false) (late := true) (List.any_eq_false.mpr fun p hp => by simp [hr p hp])
        (List.any_eq_true.mpr ?_) ?_
      · obtain ⟨p, hp, hlate⟩ := hl
        exact ⟨p, hp, FarPage.timedOut_iff.mpr hlate⟩
      · simp only [State.fillEnds, State.entryAfter, hs1]
        rfl
  case answer =>
    have hrun : exec (.memoryOpPerformed num (some r)) s = .next (s.farAnswer num r) := by
      have hrun : exec (.memoryOpPerformed num (some r)) s = .next (s.opPerformed num (some r)) := rfl
      simp only [hrun, State.opPerformed, hop]
    refine ⟨fun hnone => hrun.trans (congrArg _ (State.farAnswer_unknown hnone)), fun q hq => hrun.trans ?_⟩
    rw [State.farAnswer, hq]
  case page =>
    have hpages : s.zeroPages z.leaf = [] := hasked
    refine ⟨(s.zeroedPage z).claimAnswered z.leaf, congrArg Host.Outcome.next ?_, ?_⟩
    · rw [State.zeroFillDone_ends hz h (by simp [hpages]), hpages]
      exact State.fillEnds_near hnear hlist
    have hlen : (leBytes 8 (s.entryAfter z false)).length = 8 := length_leBytes ..
    have hstore {a : Nat} (ha : ¬ inStore z.leaf 8 a) : (s.zeroedPage z).byteAt a = if inPage z.frame a then 0 else s.byteAt a :=
      (State.byteAt_writeMem (by rwa [hlen])).trans State.byteAt_zeroLines
    refine ⟨fun a hin ha => ?_, fun a hout ha => ?_, fun a hin => ?_, fun a hout => ?_, fun l hl => ?_, rfl⟩
    · exact (hstore ha).trans (if_pos hin)
    · exact (hstore ha).trans (if_neg hout)
    · exact State.wordAt_zeroLines.trans (if_pos hin)
    · exact State.wordAt_zeroLines.trans (if_neg hout)
    · have hout := (List.mem_filter.mp hl).2
      simp only [Bool.or_eq_true, decide_eq_true_eq] at hout
      omega

end Sys2Proof.Machine
end

section
namespace Sys2Proof.Machine

/-! ## The dispatcher's decisions (O33: R399, R400, R405 to R407) -/

/-! ### A request at its turn -/

section
variable {s : State} {n : Nat} {f : Firing} {w : OpFields} {t : Tag}

/-- The n-th request is of that kind, and its firing may commit. -/
structure State.Turn (s : State) (n : Nat) (k : ReqKind) (sent : Bool) (f : Firing) : Prop where
  req : s.reqs[n]? = some { kind := k, asid := f.asid, cell := f.cell, sid := f.sid, sent := sent }
  held : (s.cell f.cell).heldFiring f.sid = some f
  may : (s.cell f.cell).mayCommit f.asid = true

theorem State.Turn.reqAt {k : ReqKind} {sent : Bool} (h : s.Turn n k sent f) :
    s.reqAt n (· == k) = some ({ kind := k, asid := f.asid, cell := f.cell, sid := f.sid, sent := sent }, f) := by
  simp only [State.reqAt, h.req, beq_self_eq_true, State.reqFiring, h.may, h.held, if_true, Option.map_some]

/-- The request is dropped, the holder changes, and the firing commits with the one output. -/
theorem State.decideReq_commits {pre more : State → State} {o : Out} {fl : Flags} {cell1 : Cell} {placed : List Out}
    (hmay : s.MaySend f [o]) (hfits : (pre { s with reqs := s.reqs.eraseIdx n }).Fits f [o] cell1 placed) :
    s.decideReq n f pre ⟨[o], fl⟩ more = (pre { s with reqs := s.reqs.eraseIdx n }).committed f cell1 placed fl more := by
  rw [State.decideReq, if_neg (by rw [hmay]; nofun), State.commitWith_fits (c := ⟨[o], fl⟩) more hfits]

theorem decodeSlot_fields {word : BitVec 128} {i : Instr} {c : BitVec 8} (hd : decodeSlot word = some i)
    (hi : opcodeOf i = some (c, w)) : (decodeSlot word).bind opcodeOf = some (c, w) := by rw [hd, Option.bind_some, hi]

/-! ### PARK -/

theorem State.hits_iff {fr : Frame} {g : BitVec 4} :
    ((fr.st == .live || fr.st == .parked) && fr.gen == g) = true ↔ (fr.st = .live ∨ fr.st = .parked) ∧ fr.gen = g := by simp

section
variable {x : Ctx} {i : Nat} {g : BitVec 4} (h : s.Turn n .park sent f) (hx : s.ctx f.asid = some x)
  (hop : frameOperand x f = .ok (i, g))
include h hx hop

theorem exec_parkDecided_hit (hhit : ((x.frame i).st = .live ∨ (x.frame i).st = .parked) ∧ (x.frame i).gen = g) :
    exec (.parkDecided n) s = .next
      (s.decideReq n f id ⟨[f.scalarOut f.tag 0], 0⟩ fun st => st.setBreak f.asid i g) := by
  have hrun : exec (.parkDecided n) s = execParkDecided n s := rfl
  simp only [hrun, execParkDecided, h.reqAt, hx, hop, State.hits_iff.mpr hhit]
  rfl

theorem exec_parkDecided_miss (hmiss : ¬ (((x.frame i).st = .live ∨ (x.frame i).st = .parked) ∧ (x.frame i).gen = g)) :
    exec (.parkDecided n) s = .next (s.decideReq n f id ⟨[f.scalarOut f.tag 1], 0⟩ id) := by
  have hrun : exec (.parkDecided n) s = execParkDecided n s := rfl
  simp only [hrun, execParkDecided, h.reqAt, hx, hop, Bool.not_eq_true _ ▸ mt State.hits_iff.mp hmiss]
  rfl

end

/-! ### FLAGS -/

/-- What CLR clears at the decision: nothing, HOMEFLAGS, or the frame's sticky word. -/
def State.clearFlags (s : State) (w : OpFields) (f : Firing) (fr : Frame) : State :=
  if !w.mod.getLsbD 0 then s
  else if w.var = 1 then s.clearHomeFlags f.asid
  else s.setFrame f.asid (tagFrame f.tag) { fr with flags := 0 }

section
variable {fr : Frame}

theorem State.clearFlags_keeps (h : w.mod.getLsbD 0 = false) : s.clearFlags w f fr = s := by
  simp only [State.clearFlags, h, Bool.not_false, if_true]

theorem State.clearFlags_home (h : w.mod.getLsbD 0 = true) (hv : w.var = 1) : s.clearFlags w f fr = s.clearHomeFlags f.asid := by
  simp only [State.clearFlags, h, hv, Bool.not_true, Bool.false_eq_true, if_false, if_true]

theorem State.clearFlags_sticky (h : w.mod.getLsbD 0 = true) (hv : w.var ≠ 1) :
    s.clearFlags w f fr = s.setFrame f.asid (tagFrame f.tag) { fr with flags := 0 } := by
  simp only [State.clearFlags, h, hv, Bool.not_true, Bool.false_eq_true, if_false]

end

theorem exec_flagsDecided {x : Ctx} (h : s.Turn n .flags sent f) (hx : s.ctx f.asid = some x) (hd : decodeSlot f.word = some (.flags w))
    (hk : f.Scalars) (ht : outTag w f (s.env f) = .ok t) : exec (.flagsDecided n) s = .next
      (s.decideReq n f (fun st => st.clearFlags w f (x.frame (tagFrame f.tag)))
        ⟨[f.scalarOut t ((if w.var = 1 then x.par.homeflags else (x.frame (tagFrame f.tag)).flags).zeroExtend 64)], f.pz [.a]⟩ id) := by
  have hrun : exec (.flagsDecided n) s = execFlagsDecided n s := rfl
  simp only [hrun, execFlagsDecided, h.reqAt, hx, decodeSlot_fields hd rfl, flagsCheck_ok hk ht]
  rfl

/-! ### RESUME -/

section
variable {x : Ctx} (h : s.Turn n .resume sent f) (hx : s.ctx f.asid = some x) (hd : decodeSlot f.word = some (.resume w))
  (hc : resumeCheck w x f (s.env f) = .ok t)
include h hx hd hc

theorem exec_resumeDecided_none (hr : s.resumeRec x f = none) :
    exec (.resumeDecided n) s = .next (s.decideReq n f id ⟨[f.scalarOut t 1], 0⟩ id) := by
  have hrun : exec (.resumeDecided n) s = execResumeDecided n s := rfl
  simp only [hrun, execResumeDecided, h.reqAt, hx, decodeSlot_fields hd rfl, hc, hr]
  rfl

theorem exec_resumeDecided_some {r : TrapRec} (hr : s.resumeRec x f = some r) : exec (.resumeDecided n) s = .next
    (s.decideReq n f id ⟨[f.scalarOut t (BitVec.ofNat 64 (s.resolveStatus f.asid r (resumeForm w f)))], 0⟩
      fun st => (st.resolve f.asid r (resumeForm w f)).2) := by
  have hrun : exec (.resumeDecided n) s = execResumeDecided n s := rfl
  simp only [hrun, execResumeDecided, h.reqAt, hx, decodeSlot_fields hd rfl, hc, hr]
  rfl

end

/-- The form of a RESUME, by its variant. -/
theorem resumeForm_redo (hv : w.var = 0) : (resumeForm w f).form = .redo := if_pos hv
theorem resumeForm_subst (hv : w.var = 1) : (resumeForm w f).form = .subst := by
  simp only [resumeForm, hv]
  rfl
theorem resumeForm_skip (h0 : w.var ≠ 0) (h1 : w.var ≠ 1) : (resumeForm w f).form = .skip := by
  simp only [resumeForm, if_neg h0, if_neg h1]

/-- The substitutes of a RESUME fit when each port that there is has the kind of its output. -/
theorem subFits_opnd {kinds : List Bool} {side : Nat} {o : Option Opnd} :
    subFits kinds side (o.map Opnd.val) = o.all fun o => kinds[side]? == some o.val.isTile := by
  cases o <;> rfl

section
variable {a : Nat} {r : TrapRec} {q : Resolve}

theorem State.resolveStatus_context (hk : r.kind = 3) (hq : q.form ≠ .skip) : s.resolveStatus a r q = 2 := by
  simp [State.resolveStatus, hk, hq]

theorem State.resolveStatus_plain (hk : r.kind ≠ 3) (hq : q.form ≠ .subst) : s.resolveStatus a r q = 0 := by
  simp [State.resolveStatus, hk, hq]

theorem State.resolveStatus_skip (hq : q.form = .skip) : s.resolveStatus a r q = 0 := by
  simp [State.resolveStatus, hq]

variable (hk : r.kind ≠ 3) (hq : q.form = .subst)
include hk hq

theorem State.resolveStatus_barred (hc : r.trap.cls = 0x17) : s.resolveStatus a r q = 2 := by
  simp [State.resolveStatus, hk, hq, hc]

variable (hc : r.trap.cls ≠ 0x17) (hop : r.op = none)
include hc hop

theorem State.resolveStatus_noAcc (hs : (s.wordSide a r).isSome = true) (hacc : s.wordAcc a r = none) : s.resolveStatus a r q = 2 := by
  simp [State.resolveStatus, State.recOp, hk, hq, hc, hop, hs, hacc]

theorem State.resolveStatus_fits (h : s.wordSide a r = none ∨ (s.wordAcc a r).isSome = true) : s.resolveStatus a r q =
    if subFits (s.outKinds a r) 0 q.sub0 && subFits (s.outKinds a r) 1 q.sub1 then 0 else 3 := by
  have hacc : ((s.wordSide a r).isSome && (s.wordAcc a r).isNone) = false := by
    rcases h with h | h
    · simp [h]
    · simpa [Option.isSome_iff_ne_none] using fun _ => h
  simp [State.resolveStatus, State.recOp, hk, hq, hc, hop, hacc]

end

/-! ### WATCH and UNWATCH -/

theorem exec_watchArmApplied {sent : Bool} (h : s.Turn n .watch sent f) (hd : decodeSlot f.word = some (.watch w))
    (ht : outTag w f (s.env f) = .ok t) : exec (.watchArmApplied n) s = .next
      (s.stepArm n { kind := .watch, asid := f.asid, cell := f.cell, sid := f.sid, sent := sent } f [Enc.immField w 0 3]
        (some (watchOf w f)) (.ok t)) := by
  have hrun : exec (.watchArmApplied n) s = execWatchArmApplied n s := rfl
  simp only [hrun, execWatchArmApplied, h.reqAt, decodeSlot_fields hd rfl, ht]

theorem exec_unwatchApplied {sent : Bool} (h : s.Turn n .unwatch sent f) (hd : decodeSlot f.word = some (.unwatch w))
    (ht : outTag w f (s.env f) = .ok t) : exec (.unwatchApplied n) s = .next
      (s.stepArm n { kind := .unwatch, asid := f.asid, cell := f.cell, sid := f.sid, sent := sent } f (unwatchSlots w) none (.ok t)) := by
  have hrun : exec (.unwatchApplied n) s = execUnwatchApplied n s := rfl
  simp only [hrun, execUnwatchApplied, h.reqAt, decodeSlot_fields hd rfl, ht]

section
variable {r : Req} {slots : List Nat} {v : Option Watch} {tag : Ex Tag}

theorem State.stepArm_sends (h : r.sent = false) : s.stepArm n r f slots v tag =
    State.armWatch { s with reqs := s.reqs.set n { r with sent := true } } f.asid slots v := by
  simp only [State.stepArm, h, Bool.not_false, if_true]

theorem State.stepArm_waits (h : r.sent = true) (hp : s.armPending f.asid slots = true) : s.stepArm n r f slots v tag = s := by
  simp only [State.stepArm, h, hp, Bool.not_true, Bool.false_eq_true, if_false, if_true]

theorem State.stepArm_ends (h : r.sent = true) (hp : s.armPending f.asid slots = false) :
    s.stepArm n r f slots v (.ok t) = s.decideReq n f id ⟨[f.passed .a false t], 0⟩ id := by
  simp only [State.stepArm, h, hp, Bool.not_true, Bool.false_eq_true, if_false]
  rfl

end

theorem State.armPending_one {a i : Nat} : s.armPending a [i] =
    s.bcasts.any fun b => b.asid == a && match b.kind with | .watch j _ => j == i | _ => false := by
  refine congrArg s.bcasts.any (funext fun b => ?_)
  cases b.kind with
  | watch j _ => simp only [List.contains_cons, List.contains_nil, Bool.or_false]
  | _ => rfl

theorem immField_slot : Enc.immField w 0 3 = w.imm.toNat % 8 := by simp [Enc.immField]

theorem unwatchSlots_eq : unwatchSlots w = if w.imm.getLsbD 3 then List.range 8 else [w.imm.toNat % 8] := by
  rw [unwatchSlots, immField_slot]

end

/-- Settles O33: the request at its turn is decided by its kind, and its firing commits with the decision. -/
theorem requestsDecided : Obligations.RequestsDecided := by
  unfold Obligations.RequestsDecided
  intro s n k sent f w x q t hreq hq hf hmay hx ht s0 v i g hit fr ends
  have hheld : (s.cell f.cell).heldFiring f.sid = some f := by rw [Cell.heldFiring, hq, Option.bind_some, hf]
  have turn : s.Turn n k sent f := ⟨hreq, hheld, hmay⟩
  have commit {i : Instr} {o : Out} {fl : Flags} {more : State → State}
      (h : exec i s = .next (s.decideReq n f id ⟨[o], fl⟩ more)) : ends i s0 o fl more := fun hsend _ _ hfits =>
    h.trans (congrArg _ (State.decideReq_commits (pre := id) hsend hfits))
  refine ⟨?park, ?flags, ?resume, ?status, ?watch, ?unwatch⟩
  case park =>
    rintro rfl hk hv hi hp
    have hop := frameOperand_ok hk hv hi hp
    exact ⟨fun hhit => commit (exec_parkDecided_hit turn hx hop hhit),
      fun hmiss => commit (exec_parkDecided_miss turn hx hop hmiss)⟩
  case flags =>
    rintro rfl hk hd
    have clears {st : State} {v : Word64} (hst : s0.clearFlags w f fr = st)
        (hv : (if w.var = 1 then x.par.homeflags else fr.flags).zeroExtend 64 = v) :
        ends (.flagsDecided n) st (f.scalarOut t v) (f.pz [.a]) id := by
      subst hst hv
      intro hsend cell1 placed hfits
      rw [exec_flagsDecided turn hx hd hk ht]
      exact congrArg _ (State.decideReq_commits hsend hfits)
    refine ⟨fun hclr => ?_, fun hclr hv => ?_, fun hclr hv => ?_⟩
    · exact clears (State.clearFlags_keeps hclr) rfl
    · exact clears (State.clearFlags_home hclr hv) (by rw [if_pos hv])
    · exact clears (State.clearFlags_sticky hclr hv) (by rw [if_neg hv])
  case resume =>
    rintro rfl hd hc
    exact ⟨fun hr => commit (exec_resumeDecided_none turn hx hd hc hr),
      fun r hr => commit (exec_resumeDecided_some turn hx hd hc hr)⟩
  case status =>
    intro r hop form status
    refine ⟨fun hk hv => ?_, fun hk hc hv => ?_, fun hk hc hv hs hacc => ?_, fun hk hc hv h => ?_, fun hk hv => ?_, fun h0 h1 => ?_⟩
    · refine State.resolveStatus_context hk ?_
      rcases hv with hv | hv
      · rw [resumeForm_redo hv]; nofun
      · rw [resumeForm_subst hv]; nofun
    · exact State.resolveStatus_barred hk (resumeForm_subst hv) hc
    · exact State.resolveStatus_noAcc hk (resumeForm_subst hv) hc hop hs hacc
    · refine (State.resolveStatus_fits hk (resumeForm_subst hv) hc hop h).trans ?_
      have h0 : (resumeForm w f).sub0 = (f.opnd .b).map Opnd.val := if_pos hv
      have h1 : (resumeForm w f).sub1 = (f.opnd .c).map Opnd.val := if_pos hv
      rw [h0, h1, subFits_opnd, subFits_opnd]
    · exact State.resolveStatus_plain hk (by rw [resumeForm_redo hv]; nofun)
    · exact State.resolveStatus_skip (resumeForm_skip h0 h1)
  case watch =>
    rintro rfl hd slot moving
    have hrun := exec_watchArmApplied turn hd ht
    rw [immField_slot] at hrun
    have hpend : s.armPending f.asid [slot] = moving := State.armPending_one
    refine ⟨?_, ?_, ?_⟩
    · rintro rfl
      exact hrun.trans (congrArg _ (State.stepArm_sends rfl))
    · rintro rfl hmoving
      exact hrun.trans (congrArg _ (State.stepArm_waits rfl (hpend.trans hmoving)))
    · rintro rfl hmoving
      exact commit (hrun.trans (congrArg _ (State.stepArm_ends rfl (hpend.trans hmoving))))
  case unwatch =>
    rintro rfl hd slots moving
    have hrun := exec_unwatchApplied turn hd ht
    rw [unwatchSlots_eq] at hrun
    refine ⟨?_, ?_, ?_⟩
    · rintro rfl
      exact hrun.trans (congrArg _ (State.stepArm_sends rfl))
    · rintro rfl hmoving
      exact hrun.trans (congrArg _ (State.stepArm_waits rfl hmoving))
    · rintro rfl hmoving
      exact commit (hrun.trans (congrArg _ (State.stepArm_ends rfl hmoving)))

end Sys2Proof.Machine
end

section
namespace Sys2Proof.Machine

/-! ## Records, delivery and escalation (O42: R378, R383, R384) -/

/-- The first number not in a list is within its bound, is not in the list, and every number before it is. -/
theorem firstFree_spec {used : List Nat} {a n i : Nat} (h : firstFree used a n = some i) :
    a ≤ i ∧ i < a + n ∧ i ∉ used ∧ ∀ j, a ≤ j → j < i → j ∈ used := by
  induction n generalizing a with
  | zero => cases h
  | succ n ih =>
    rw [firstFree] at h
    split at h
    next hused =>
      obtain ⟨hlow, hhigh, hfree, hbefore⟩ := ih h
      refine ⟨by omega, by omega, hfree, fun j hj hji => ?_⟩
      obtain rfl | hlt := Nat.eq_or_lt_of_le hj
      · exact List.contains_iff_mem.mp hused
      · exact hbefore j hlt hji
    next hfree =>
      cases h
      exact ⟨le_refl _, by omega, fun hmem => hfree (List.contains_iff_mem.mpr hmem), fun j hj hji => absurd hj (by omega)⟩

section
variable {s : State} {asid : Nat} {x : Ctx} (hx : s.ctx asid = some x)
include hx

theorem exec_trapRecordWrite_some {r : TrapRec} {i : Nat} (hr : x.traps.find? (fun q => q.index == none) = some r)
    (hi : firstFree (x.traps.filterMap TrapRec.index) 0 x.cr.trapn = some i) :
    exec (.trapRecordWrite asid) s = .next ((s.modCtx asid fun y =>
      { y with traps := mapFirst (fun q => q.index == none) (fun _ => { r with index := some i }) y.traps }).publishRec asid
        { r with index := some i }) := by
  have hrun : exec (.trapRecordWrite asid) s = execTrapRecordWrite asid s := rfl
  simp only [hrun, execTrapRecordWrite, hx, Ctx.firstTrap, hr, hi]

/-- A frozen context, one that is dried down, and one without a handler frame, deliver nothing. -/
theorem exec_trapDelivery_held (h : x.cr.frozen = true ∨ x.dry ≠ .none ∨ x.pool.hfree = 0) :
    exec (.trapDelivery asid) s = .next s := by
  have hheld : (x.cr.frozen || x.dry != .none || x.pool.hfree == 0) = true := by simpa [or_assoc] using h
  have hrun : exec (.trapDelivery asid) s = execTrapDelivery asid s := rfl
  simp only [hrun, execTrapDelivery, hx, hheld, if_true]
  split <;> rfl

/-- The birth of a handler frame. -/
def handlerBirth : Birth := { share := .handler, depth := 0, parent := 0, pgen := 0, rettag := none, gsize := 0, rank := 0 }

/-- The handler frame holds the record's index, the record is delivered, and its token leaves. -/
def State.delivered (s : State) (asid : Nat) (x : Ctx) (r : TrapRec) (i : Nat) (d : Dest) : State :=
  let s1 := s.liveFrame asid i handlerBirth
  let s2 := s1.setFrame asid i { ((s1.ctx asid).map fun y => y.frame i).getD Frame.blank with record := r.index }
  let s3 := s2.modTraps asid (fun q => q.index == r.index) fun q => { q with pending := false }
  s3.send (x.injector asid) (s3.childTag asid i) (.scalar (deliveryWord r) false false) [d]

theorem exec_trapDelivery_delivers {r : TrapRec} {d : Dest} {i : Nat}
    (hr : x.traps.find? (fun q => q.waiting && x.escCode q == 0) = some r) (hfrozen : x.cr.frozen = false) (hdry : x.dry = .none)
    (hpool : 0 < x.pool.hfree) (hi : x.lowestFree 1 (x.pool.nframes - 1) = some i) (hd : x.vector r.trap.cls = some d) :
    exec (.trapDelivery asid) s = .next (s.delivered asid x r i d) := by
  have hopen : (x.cr.frozen || x.dry != .none || x.pool.hfree == 0) = false := by
    simp [hfrozen, hdry, Nat.ne_of_gt hpool]
  have halloc : s.allocFrame asid handlerBirth = some (i, s.liveFrame asid i handlerBirth) := by
    simp only [State.allocFrame, hx, hi, Option.bind_some, Option.map_some]
  unfold handlerBirth at halloc
  have hrun : exec (.trapDelivery asid) s = execTrapDelivery asid s := rfl
  simp only [hrun, execTrapDelivery, hx, Ctx.firstTrap, hr, hopen, halloc, hd, Bool.false_eq_true, if_false]
  rfl

theorem exec_handlerFault_escalates {r : TrapRec} (hr : x.traps.find? (fun q => q.waiting && x.escCode q != 0) = some r)
    (hfrozen : x.cr.frozen = false) : exec (.handlerFault asid) s = .next
      (let s1 := s.setRecord asid (r.index.getD 0) { r with st := .escalated, pending := false, esc := x.escCode r }
      { s1 with posts := s1.posts ++
        [{ fn := .vdev x.cr.vdev, id := 0, status := 0, cmd := 0x80,
           values := [BitVec.ofNat 64 (r.index.getD 0 + asid * 2 ^ 16 + x.escCode r * 2 ^ 32)], token := none, asid := none,
           done := true, waits := [] }] }) := by
  have hrun : exec (.handlerFault asid) s = execHandlerFault asid s := rfl
  simp only [hrun, execHandlerFault, hx, Ctx.firstTrap, hr, hfrozen]

end

/-- Settles O42: by the record that the context's list gives first, and the lowest index and frame that are free. -/
theorem trapsRecordedAndDelivered : Obligations.TrapsRecordedAndDelivered := by
  unfold Obligations.TrapsRecordedAndDelivered
  intro s asid x hx
  refine ⟨fun r i hr hi => ?record, fun r d i hr hfrozen hdry hpool hi hd => ?delivery, exec_trapDelivery_held hx,
    fun r hr hfrozen => exec_handlerFault_escalates hx hr hfrozen⟩
  case record =>
    obtain ⟨-, hlt, hfree, hbefore⟩ := firstFree_spec hi
    refine ⟨by omega, fun q hq hqi => hfree (List.mem_filterMap.mpr ⟨q, hq, hqi⟩), fun j hj => ?_, exec_trapRecordWrite_some hx hr hi⟩
    exact List.mem_filterMap.mp (hbefore j (Nat.zero_le j) hj)
  case delivery => exact exec_trapDelivery_delivers hx hr hfrozen hdry hpool hi hd

end Sys2Proof.Machine
end

section
namespace Sys2Proof.Machine

/-! ## Drydown and restore (O45: R411 to R414, R417 to R420) -/

/-! ### Slice boundaries (R420) -/

theorem CtxRec.boundaries_eq (r : CtxRec) (ns : Nat) : r.boundaries ns =
    if r.sliceper = 0 ∨ ns < r.sliceoff then 0 else (ns - r.sliceoff) / r.sliceper + 1 := by
  simp only [CtxRec.boundaries, Bool.or_eq_true, decide_eq_true_eq]

section
variable {s : State} {asid : Nat} {x : Ctx} (hx : s.ctx asid = some x)
include hx

section
variable {n : Nat} (hn : x.cr.boundaries s.ns = n)
include hn

theorem exec_sliceBoundary_early (h : ¬ x.sliceNo < n) : exec (.sliceBoundary asid) s = .next s := by
  have hrun : exec (.sliceBoundary asid) s = execSliceBoundary asid s := rfl
  rw [hrun, execSliceBoundary, hx]
  exact congrArg _ (if_pos (by omega))

variable (hdue : x.sliceNo < n)
include hdue

/-- What a boundary that has been reached does. -/
theorem exec_sliceBoundary_due : exec (.sliceBoundary asid) s = .next
    (if x.dry = .none && !x.lost then (s.setCtx asid { x with sliceNo := n }).startDrydown asid 1
    else if x.dry = .saved && x.dryReason = 1 && (s.setCtx asid { x with sliceNo := n }).restorable x &&
        (s.setCtx asid { x with sliceNo := n }).turn asid x then
      (s.setCtx asid { x with sliceNo := n }).modCtx asid fun y => { y with dry := .resuming }
    else s.setCtx asid { x with sliceNo := n }) := by
  have hrun : exec (.sliceBoundary asid) s = execSliceBoundary asid s := rfl
  rw [hrun, execSliceBoundary, hx]
  subst hn
  exact congrArg _ (if_neg (by omega))

theorem exec_sliceBoundary_stops (hdry : x.dry = .none) (hlost : x.lost = false) :
    exec (.sliceBoundary asid) s = .next ((s.setCtx asid { x with sliceNo := n }).startDrydown asid 1) := by
  rw [exec_sliceBoundary_due hx hn hdue, if_pos (by simp [hdry, hlost])]

/-- It is the turn of a context that a boundary has dried down. -/
def State.returns (s : State) (asid n : Nat) (x : Ctx) : Prop :=
  x.dry = .saved ∧ x.dryReason = 1 ∧ (s.setCtx asid { x with sliceNo := n }).restorable x = true ∧
    (s.setCtx asid { x with sliceNo := n }).turn asid x = true

omit hx hn hdue in
theorem State.returns_iff : (decide (x.dry = .saved) && decide (x.dryReason = 1) &&
    (s.setCtx asid { x with sliceNo := n }).restorable x && (s.setCtx asid { x with sliceNo := n }).turn asid x) = true ↔
      s.returns asid n x := by
  simp only [State.returns, Bool.and_eq_true, decide_eq_true_eq, and_assoc]

theorem exec_sliceBoundary_returns (h : s.returns asid n x) : exec (.sliceBoundary asid) s =
    .next ((s.setCtx asid { x with sliceNo := n }).modCtx asid fun y => { y with dry := .resuming }) := by
  rw [exec_sliceBoundary_due hx hn hdue, if_neg (by simp [h.1]), if_pos (State.returns_iff.mpr h)]

theorem exec_sliceBoundary_passes (h : ¬ (x.dry = .none ∧ x.lost = false)) (h' : ¬ s.returns asid n x) :
    exec (.sliceBoundary asid) s = .next (s.setCtx asid { x with sliceNo := n }) := by
  rw [exec_sliceBoundary_due hx hn hdue, if_neg (by simpa using h), if_neg (mt State.returns_iff.mp h')]

end

/-! ### The stages (R411) -/

theorem State.dryStep_goes {a b : DrySt} {p : Ctx → Bool} (h : x.dry = a) (hp : p x = true) :
    s.dryStep asid a b p = s.setCtx asid { x with dry := b } := by
  simp only [State.dryStep, hx, h, hp, decide_true, Bool.and_self, if_true]

theorem State.dryStep_stays {a b : DrySt} {p : Ctx → Bool} (h : x.dry ≠ a ∨ p x = false) : s.dryStep asid a b p = s := by
  have hno : (decide (x.dry = a) && p x) = false := by
    rcases h with h | h <;> simp [h]
  simp only [State.dryStep, hx, hno, Bool.false_eq_true, if_false]

theorem exec_drydownFinished_goes (h : x.dry = .finishing) (hf : s.finished asid x = true) : exec (.drydownFinished asid) s =
    .next ((s.setCtx asid { x with dry := .performing }).abandonWalks asid) := by
  have hrun : exec (.drydownFinished asid) s = execDrydownFinished asid s := rfl
  rw [hrun, execDrydownFinished, hx]
  exact congrArg _ (if_pos (by simp [h, hf]))

theorem exec_drydownFinished_stays (h : x.dry ≠ .finishing ∨ s.finished asid x = false) :
    exec (.drydownFinished asid) s = .next s := by
  have hrun : exec (.drydownFinished asid) s = execDrydownFinished asid s := rfl
  rw [hrun, execDrydownFinished, hx]
  refine congrArg _ (if_neg ?_)
  rcases h with h | h <;> simp [h]

end

/-- A firing of the context is running on a cell of its region. -/
def State.running (s : State) (asid : Nat) (x : Ctx) : Prop :=
  ∃ c ∈ x.cr.region, ∃ f ∈ (s.cell c).sets, f.asid = asid ∧ s.stillRuns f = true

theorem State.finished_iff {s : State} {asid : Nat} {x : Ctx} : s.finished asid x = true ↔ ¬ s.running asid x := by
  simp only [State.finished, State.running, Bool.not_eq_true', ← Bool.not_eq_true, List.any_eq_true, Bool.and_eq_true,
    beq_iff_eq]

/-- The stop of the context is still on its way. -/
def State.stopTravels (s : State) (asid : Nat) : Prop := ∃ b ∈ s.bcasts, b.asid = asid ∧ b.kind = .stop

theorem State.stopTravels_iff {s : State} {asid : Nat} :
    (!s.bcasts.any fun b => b.asid == asid && b.kind == .stop) = true ↔ ¬ s.stopTravels asid := by
  simp only [State.stopTravels, Bool.not_eq_true', ← Bool.not_eq_true, List.any_eq_true, Bool.and_eq_true, beq_iff_eq]

/-! ### The inbox opens (R411 step 5) -/

theorem State.ctxs_foldl {α : Type} {g : State → α → State} (h : ∀ t a, (g t a).ctxs = t.ctxs) (l : List α) (s : State) :
    (l.foldl g s).ctxs = s.ctxs :=
  foldl_rel (fun a b : State => b.ctxs = a.ctxs) (fun _ => rfl) (fun _ _ _ h k => k.trans h) g h l s

/-- What a step of a fold brings about, and every other step keeps, holds after the fold. -/
theorem foldl_establishes {α β : Type} {P : β → Prop} {g : β → α → β} {l : List α} {a : α} (ha : a ∈ l)
    (hkeep : ∀ b c, P b → P (g b c)) (hdo : ∀ b, P (g b a)) (b : β) : P (l.foldl g b) := by
  induction l generalizing b with
  | nil => cases ha
  | cons c l ih =>
    rw [List.foldl_cons]
    obtain rfl | ha := List.mem_cons.mp ha
    · exact List.foldlRecOn (motive := P) l g (hdo b) fun b hb c _ => hkeep b c hb
    · exact ih ha _

/-- No token of the context is held at the cell's inputs. -/
def Cell.noneHeld (c : Cell) (asid : Nat) : Prop := ∀ h ∈ c.input, ∀ k ∈ h.flight.toks, k.asid ≠ asid

section
variable {s : State} {asid : Nat}

/-- The cell without the tokens of the context that it holds at its inputs. -/
def Cell.dropHeld (c : Cell) (asid : Nat) : Cell :=
  { c with input := c.input.filter fun h => !h.flight.toks.any fun t => t.asid == asid }

theorem State.cell_letGo (c d : Nat) : ∃ ts,
    (s.letGo asid c).cell d = { (s.modCell c fun k => k.dropHeld asid).cell d with tiles := ts } :=
  State.gcTiles_TilesOnly _ c d

theorem State.input_letGo (c : Nat) : ((s.letGo asid c).cell c).input = ((s.cell c).dropHeld asid).input := by
  obtain ⟨ts, h⟩ := s.cell_letGo (asid := asid) c c
  rw [h, State.cell_modCell]

theorem State.input_letGo_ne {c d : Nat} (hd : d ≠ c) : ((s.letGo asid c).cell d).input = (s.cell d).input := by
  obtain ⟨ts, h⟩ := s.cell_letGo (asid := asid) c d
  rw [h, State.cell_modCell_ne _ _ _ _ hd]

theorem State.letGo_noneHeld (c : Nat) : ((s.letGo asid c).cell c).noneHeld asid := by
  intro h hh k hk hka
  rw [State.input_letGo] at hh
  have hnone := (List.mem_filter.mp hh).2
  simp only [Bool.not_eq_true', List.any_eq_false, beq_iff_eq] at hnone
  exact hnone k hk hka

theorem State.letGo_keeps_noneHeld {c : Nat} (d : Nat) (h : (s.cell c).noneHeld asid) :
    ((s.letGo asid d).cell c).noneHeld asid := by
  by_cases hc : c = d
  · exact hc ▸ State.letGo_noneHeld c
  · rw [Cell.noneHeld, State.input_letGo_ne hc]
    exact h

theorem State.ctxs_letGo (c : Nat) : (s.letGo asid c).ctxs = s.ctxs := rfl

theorem State.ctxs_disassemble (f : Flight) : (s.disassemble f).ctxs = s.ctxs := by
  unfold State.disassemble
  split <;> rfl

/-- The state in which the inbox is opened, before what the cells hold goes on. -/
def State.inboxOpened (s : State) (asid : Nat) : State :=
  let s1 := s.modCtx asid fun x => { x with dry := .saving, inbox := [], inBlocks := [] }
  let s2 := (s.net.filter fun f => f.asid == asid).foldl State.disassemble s1
  { s2 with net := s2.net.map fun f => if f.asid == asid then { f with line := none } else f }

theorem State.openInbox_eq : s.openInbox asid =
    (s.region asid).foldl (fun st c => st.letGo asid c) (s.inboxOpened asid) := rfl

theorem State.ctx_openInbox {x : Ctx} (hx : s.ctx asid = some x) :
    (s.openInbox asid).ctx asid = some { x with dry := .saving, inbox := [], inBlocks := [] } := by
  have hcells : (s.openInbox asid).ctxs = (s.inboxOpened asid).ctxs := by
    rw [State.openInbox_eq]
    exact State.ctxs_foldl (fun b c => b.ctxs_letGo c) _ _
  have hopened : (s.inboxOpened asid).ctxs = (s.modCtx asid fun x => { x with dry := .saving, inbox := [], inBlocks := [] }).ctxs :=
    State.ctxs_foldl (g := State.disassemble) (fun b f => b.ctxs_disassemble f) _ _
  rw [State.ctx_congr (hcells.trans hopened), State.ctx_modCtx, hx, Option.map_some]

theorem State.openInbox_noneHeld {x : Ctx} (hx : s.ctx asid = some x) {c : Nat} (hc : c ∈ x.cr.region) :
    ((s.openInbox asid).cell c).noneHeld asid := by
  have hregion : s.region asid = x.cr.region := by rw [State.region, hx]
  rw [State.openInbox_eq, hregion]
  exact foldl_establishes (P := fun t : State => (t.cell c).noneHeld asid) hc (fun _ d h => State.letGo_keeps_noneHeld d h)
    (fun _ => State.letGo_noneHeld c) _

/-- A token of the context travels in the net, or is held at a cell of its region. -/
def State.travels (s : State) (asid : Nat) (x : Ctx) : Prop :=
  (∃ f ∈ s.net, (f.toks.any fun t => t.asid == asid && !t.remote) = true) ∨
    ∃ c ∈ x.cr.region, ∃ h ∈ (s.cell c).input, (h.flight.toks.any fun t => t.asid == asid && !t.remote) = true

theorem State.travels_iff {x : Ctx} : ((s.net.any fun f => f.toks.any fun t => t.asid == asid && !t.remote) ||
    x.cr.region.any fun c => (s.cell c).input.any fun h => h.flight.toks.any fun t => t.asid == asid && !t.remote) = true ↔
      s.travels asid x := by
  simp only [State.travels, Bool.or_eq_true, List.any_eq_true]

section
variable {x : Ctx} (hx : s.ctx asid = some x)
include hx

/-- The markers have arrived when what travels has, and no request is outstanding. -/
theorem exec_drydownMarkersArrived_eq : exec (.drydownMarkersArrived asid) s = .next
    (if x.dry != .markers || x.lost || ((s.net.any fun f => f.toks.any fun t => t.asid == asid && !t.remote) ||
        x.cr.region.any fun c => (s.cell c).input.any fun h => h.flight.toks.any fun t => t.asid == asid && !t.remote) ||
        !s.performed asid x then s else s.openInbox asid) := by
  have hrun : exec (.drydownMarkersArrived asid) s = execDrydownMarkersArrived asid s := rfl
  rw [hrun, execDrydownMarkersArrived, hx]

/-- The inbox stays closed. -/
def State.inboxClosed (s : State) (asid : Nat) (x : Ctx) : Prop :=
  x.dry ≠ .markers ∨ x.lost = true ∨ s.travels asid x ∨ s.performed asid x = false

omit hx in
theorem State.inboxClosed_iff : (x.dry != .markers || x.lost ||
    ((s.net.any fun f => f.toks.any fun t => t.asid == asid && !t.remote) ||
      x.cr.region.any fun c => (s.cell c).input.any fun h => h.flight.toks.any fun t => t.asid == asid && !t.remote) ||
    !s.performed asid x) = true ↔ s.inboxClosed asid x := by
  rw [State.inboxClosed, ← State.travels_iff, Bool.or_eq_true, Bool.or_eq_true, Bool.or_eq_true, bne_iff_ne, Bool.not_eq_true',
    or_assoc, or_assoc]

theorem exec_drydownMarkersArrived_stays (h : s.inboxClosed asid x) : exec (.drydownMarkersArrived asid) s = .next s := by
  rw [exec_drydownMarkersArrived_eq hx, if_pos (State.inboxClosed_iff.mpr h)]

theorem exec_drydownMarkersArrived_opens (h : ¬ s.inboxClosed asid x) :
    exec (.drydownMarkersArrived asid) s = .next (s.openInbox asid) := by
  rw [exec_drydownMarkersArrived_eq hx, if_neg (mt State.inboxClosed_iff.mp h)]

end

end

/-! ### The save (R411 steps 6 and 7, R417) -/

/-- Nothing of the context is left on the cell but its tiles. -/
structure Cell.Rid (c : Cell) (asid : Nat) : Prop where
  parts : ∀ p ∈ c.parts, p.asid ≠ asid
  entries : ∀ e ∈ c.entries, e.tok.asid ≠ asid
  sets : ∀ f ∈ c.sets, f.asid ≠ asid
  stops : asid ∉ c.stops

theorem Cell.without_Rid (c : Cell) (asid : Nat) (x : Ctx) : (c.without asid x).Rid asid where
  parts p hp := by simpa using (List.mem_filter.mp hp).2
  entries e he := by simpa using (List.mem_filter.mp he).2
  sets f hf := by simpa using (List.mem_filter.mp hf).2
  stops h := by simpa using (List.mem_filter.mp h).2

theorem Cell.Rid.withTiles {c : Cell} {asid : Nat} (h : c.Rid asid) (ts : List TileBuf) : ({ c with tiles := ts } : Cell).Rid asid :=
  ⟨h.parts, h.entries, h.sets, h.stops⟩

section
variable {s : State} {asid : Nat} {x : Ctx}

/-- One cell of the region is released. -/
def State.releaseCell (s : State) (asid : Nat) (x : Ctx) (c : Nat) : State :=
  { s.modCell c fun d => d.without asid x with due := (s.modCell c fun d => d.without asid x).due ++ [.event (.heldLenterGrant c)] }

theorem State.releaseCells_eq : s.releaseCells asid x = x.cr.region.foldl (fun st c => st.releaseCell asid x c) s := rfl

theorem State.cell_releaseCell (c : Nat) : (s.releaseCell asid x c).cell c = (s.cell c).without asid x :=
  State.cell_modCell s c fun d => d.without asid x

theorem State.cell_releaseCell_ne {c d : Nat} (h : d ≠ c) : (s.releaseCell asid x c).cell d = s.cell d :=
  State.cell_modCell_ne s c d (fun d => d.without asid x) h

theorem State.releaseCells_Rid {c : Nat} (hc : c ∈ x.cr.region) : ((s.releaseCells asid x).cell c).Rid asid := by
  rw [State.releaseCells_eq]
  refine foldl_establishes (P := fun t : State => (t.cell c).Rid asid) hc (fun t d h => ?_) (fun t => ?_) s
  · by_cases hd : c = d
    · rw [← hd, State.cell_releaseCell]
      exact Cell.without_Rid ..
    · rw [State.cell_releaseCell_ne hd]
      exact h
  · rw [State.cell_releaseCell]
    exact Cell.without_Rid ..

/-- Of the other contexts' partitions a release takes none. -/
theorem State.releaseCells_others (c : Nat) : (((s.releaseCells asid x).cell c).parts.filter fun p => p.asid != asid) =
    (s.cell c).parts.filter fun p => p.asid != asid := by
  rw [State.releaseCells_eq]
  refine foldl_rel (fun t u : State => ((u.cell c).parts.filter fun p => p.asid != asid) = (t.cell c).parts.filter fun p => p.asid != asid)
    (fun _ => rfl) (fun _ _ _ h k => k.trans h) _ (fun t d => ?_) _ s
  by_cases hd : c = d
  · rw [← hd, State.cell_releaseCell]
    exact List.filter_filter.trans (by simp only [Bool.and_self])
  · rw [State.cell_releaseCell_ne hd]

theorem State.releaseCells_parts {c : Nat} (hc : c ∈ x.cr.region) :
    ((s.releaseCells asid x).cell c).parts = (s.cell c).parts.filter fun p => p.asid != asid :=
  (List.filter_eq_self.mpr fun p hp => by simpa using (State.releaseCells_Rid hc).parts p hp).symm.trans
    (State.releaseCells_others c)

theorem State.releaseCells_ctxs : (s.releaseCells asid x).ctxs = s.ctxs := by
  rw [State.releaseCells_eq]
  refine State.ctxs_foldl (fun _ _ => ?_) _ _
  rfl

/-- Completions change the posts alone. -/
theorem State.completes_Posts (l : List Cmd) (code status : BitVec 8) (v : Word64) (s : State) :
    ∃ p, l.foldl (fun st c => st.complete c code status v) s = { s with posts := p } :=
  foldl_rel (fun a b : State => ∃ p, b = { a with posts := p }) (fun a => ⟨a.posts, rfl⟩)
    (fun _ _ _ ⟨p, hp⟩ ⟨q, hq⟩ => ⟨q, by rw [hq, hp]⟩) _ (fun _ _ => ⟨_, rfl⟩) l s

/-- The cells once the save has been made: the context's are released, and the tiles that its records hold are gone. -/
def State.savedCells (s : State) (asid : Nat) (y : Ctx) : State :=
  y.image.foldl (fun st im => st.modCell im.cell fun d =>
    { d with tiles := d.tiles.filter fun t => !im.image.tiles.any fun u => u.line == t.line }) (s.releaseCells asid y)

theorem State.savedCells_TilesOnly : (s.releaseCells asid x).TilesOnly (s.savedCells asid x) := by
  refine foldl_rel State.TilesOnly (fun _ => .of_cells rfl) (fun _ _ _ => State.TilesOnly.trans) _ (fun t im k => ?_) _ _
  by_cases hk : k = im.cell
  · subst hk
    exact ⟨_, State.cell_modCell ..⟩
  · exact ⟨_, State.cell_modCell_ne _ _ _ _ hk⟩

theorem State.savedCells_ctxs : (s.savedCells asid x).ctxs = s.ctxs := by
  rw [State.savedCells, ← State.releaseCells_ctxs (s := s) (asid := asid) (x := x)]
  refine State.ctxs_foldl (fun _ _ => ?_) _ _
  rfl

theorem State.setDstate_MemOnly (v : Nat) : s.MemOnly (s.setDstate asid v) := by
  unfold State.setDstate
  split
  · exact .refl _
  · split
    · exact .refl _
    · exact ⟨_, rfl⟩

variable (hx : s.ctx asid = some x) (now : Nat)
include hx

/-- The context of a save that has been made: its cells released, and itself dried down. -/
def State.driedDown (s : State) (asid : Nat) (y : Ctx) : State :=
  (s.savedCells asid y).modCtx asid fun y => { y with dry := .saved, dryCmds := [], scheduled := false }

/-- Memory and the posts tell of the end of a save. -/
theorem State.endSave_eq : ∃ m p, s.endSave asid now = { s.driedDown asid x with mem := m, posts := p } := by
  have hend : s.endSave asid now = x.dryCmds.foldl (fun st c => st.complete c 0x13 0 0)
      (((s.driedDown asid x).setDstate asid 2).writeMem (x.dryAddr 24) (leBytes 8 now)) := by
    rw [State.endSave, hx]
    rfl
  obtain ⟨m, hm⟩ := (s.driedDown asid x).setDstate_MemOnly (asid := asid) 2
  obtain ⟨p, hp⟩ := State.completes_Posts x.dryCmds 0x13 0 0
    (((s.driedDown asid x).setDstate asid 2).writeMem (x.dryAddr 24) (leBytes 8 now))
  exact ⟨_, p, hend.trans (hp.trans (by rw [hm]; rfl))⟩

theorem State.ctx_endSave :
    (s.endSave asid now).ctx asid = some { x with dry := .saved, dryCmds := [], scheduled := false } := by
  obtain ⟨m, p, h⟩ := State.endSave_eq hx now
  have hctx : (s.endSave asid now).ctx asid = (s.driedDown asid x).ctx asid := State.ctx_congr (by rw [h]) asid
  rw [hctx, State.driedDown, State.ctx_modCtx, State.ctx_congr State.savedCells_ctxs, hx, Option.map_some]

theorem State.cell_endSave (c : Nat) : ∃ ts, (s.endSave asid now).cell c = { (s.releaseCells asid x).cell c with tiles := ts } := by
  obtain ⟨m, p, h⟩ := State.endSave_eq hx now
  obtain ⟨ts, hts⟩ := State.savedCells_TilesOnly (s := s) (asid := asid) (x := x) c
  refine ⟨ts, hts ▸ State.cell_congr ?_ c⟩
  rw [h]
  exact State.modCtx_cells ..

end

section
variable {s : State} {asid : Nat} {x : Ctx} (hx : s.ctx asid = some x)
include hx

theorem exec_drydownSaved_stays (h : x.dry ≠ .saving ∨ x.lost = true) : exec (.drydownSaved asid) s = .next s := by
  have hrun : exec (.drydownSaved asid) s = execDrydownSaved asid s := rfl
  rw [hrun, execDrydownSaved, hx]
  exact congrArg _ (if_pos (by simpa using h))

section
variable (hdry : x.dry = .saving) (hlost : x.lost = false)
include hdry hlost

theorem exec_drydownSaved_abandons (h : s.save asid = none) : exec (.drydownSaved asid) s = .next (s.abandonSave asid) := by
  have hrun : exec (.drydownSaved asid) s = execDrydownSaved asid s := rfl
  rw [hrun, execDrydownSaved, hx]
  refine congrArg _ ((if_neg (by simp [hdry, hlost])).trans ?_)
  rw [h]

theorem exec_drydownSaved_saves {t : State} (h : s.save asid = some t) :
    exec (.drydownSaved asid) s = .next (t.endSave asid s.ns) := by
  have hrun : exec (.drydownSaved asid) s = execDrydownSaved asid s := rfl
  rw [hrun, execDrydownSaved, hx]
  refine congrArg _ ((if_neg (by simp [hdry, hlost])).trans ?_)
  rw [h]

end

/-! ### Restore (R418, R419) -/

theorem exec_contextRestore_barred (h : s.restorable x = false) : exec (.contextRestore asid) s = .next s := by
  have hrun : exec (.contextRestore asid) s = execContextRestore asid s := rfl
  rw [hrun, execContextRestore, hx]
  exact congrArg _ (if_pos (by simp [h]))

theorem exec_contextRestore_rests (h1 : x.dry ≠ .resuming) (h2 : x.dry ≠ .saved) (h3 : x.dry ≠ .restoring) :
    exec (.contextRestore asid) s = .next s := by
  have hrun : exec (.contextRestore asid) s = execContextRestore asid s := rfl
  rw [hrun, execContextRestore, hx]
  refine congrArg _ ((congrArg (ite _ s) ((if_neg (by simp [h1, h2])).trans (if_neg (by simp [h3])))).trans (ite_self s))

section
variable (hfree : s.restorable x = true)
include hfree

theorem exec_contextRestore_begins (h : x.dry = .resuming ∨ (x.dry = .saved ∧ x.dryReason ≠ 1)) :
    exec (.contextRestore asid) s = .next ((s.setCtx asid { x with dry := .restoring }).setDstate asid 3) := by
  have hrun : exec (.contextRestore asid) s = execContextRestore asid s := rfl
  rw [hrun, execContextRestore, hx]
  exact congrArg _ ((if_neg (by simp [hfree])).trans (if_pos (by simpa using h)))

theorem exec_contextRestore_restores (h : x.dry = .restoring) : exec (.contextRestore asid) s = .next (s.restore asid x) := by
  have hrun : exec (.contextRestore asid) s = execContextRestore asid s := rfl
  rw [hrun, execContextRestore, hx]
  exact congrArg _ ((if_neg (by simp [hfree])).trans ((if_neg (by simp [h])).trans (if_pos (by simp [h]))))

end

end

/-! ### The inbox (R413) -/

section
variable {s : State} {i : Nat} {f : Flight} (hf : s.net[i]? = some f)
include hf

theorem exec_inboxWrite_stays (h : s.away f.asid = false ∨ State.inboxFlight { s with net := s.net.eraseIdx i } f = none) :
    exec (.inboxWrite i) s = .next s := by
  have hrun : exec (.inboxWrite i) s = execInboxWrite i s := rfl
  rw [hrun, execInboxWrite, hf]
  refine congrArg _ ?_
  rcases h with h | h
  · exact if_pos (by simp [h])
  · exact (congrArg (ite _ s) (congrArg (Option.getD · s) h)).trans (ite_self s)

theorem exec_inboxWrite_writes {t : State} (ha : s.away f.asid = true)
    (h : State.inboxFlight { s with net := s.net.eraseIdx i } f = some t) : exec (.inboxWrite i) s = .next t := by
  have hrun : exec (.inboxWrite i) s = execInboxWrite i s := rfl
  rw [hrun, execInboxWrite, hf]
  refine congrArg _ ((if_neg (by simp [ha])).trans ?_)
  rw [h, Option.getD_some]

end

/-- Settles O45: each stage goes on when its condition holds, and not before; the release of the cells leaves nothing of the context there. -/
theorem drydownAndRestore : Obligations.DrydownAndRestore := by
  unfold Obligations.DrydownAndRestore
  intro s asid x hx at' ns n due s0 returns inside travels running stopping stays
  have hn : x.cr.boundaries s.ns = n := x.cr.boundaries_eq s.ns
  refine ⟨exec_sliceBoundary_early hx hn, exec_sliceBoundary_stops hx hn, exec_sliceBoundary_returns hx hn,
    exec_sliceBoundary_passes hx hn, fun h hstop => ?_, fun h => ?_, fun h hr => ?_, fun h => ?_, fun h hp => ?_, fun h => ?_,
    ?markers, exec_drydownSaved_stays hx, ?saved, ?inbox, exec_contextRestore_barred hx, exec_contextRestore_begins hx,
    exec_contextRestore_restores hx, exec_contextRestore_rests hx⟩
  · exact congrArg Host.Outcome.next (State.dryStep_goes hx h (State.stopTravels_iff.mpr hstop))
  · refine congrArg Host.Outcome.next (State.dryStep_stays hx (h.imp_right fun hstop => ?_))
    exact Bool.not_eq_true _ ▸ mt State.stopTravels_iff.mp (not_not_intro hstop)
  · exact exec_drydownFinished_goes hx h (State.finished_iff.mpr hr)
  · refine exec_drydownFinished_stays hx (h.imp_right fun hr => ?_)
    exact Bool.not_eq_true _ ▸ mt State.finished_iff.mp (not_not_intro hr)
  · exact congrArg Host.Outcome.next (State.dryStep_goes hx h hp)
  · exact congrArg Host.Outcome.next (State.dryStep_stays hx h)
  case markers =>
    refine ⟨exec_drydownMarkersArrived_stays hx, fun hopen => ?_⟩
    exact ⟨_, _, exec_drydownMarkersArrived_opens hx hopen, rfl, State.ctx_openInbox hx, rfl, rfl, rfl,
      fun c hc => State.openInbox_noneHeld hx hc⟩
  case saved =>
    refine fun hdry hlost => ⟨exec_drydownSaved_abandons hx hdry hlost, fun s1 y hsave hy => ?_⟩
    refine ⟨_, _, exec_drydownSaved_saves hx hdry hlost hsave, State.ctx_endSave hy _, rfl, rfl, rfl, rfl, rfl, rfl, fun c hc => ?_⟩
    obtain ⟨ts, hts⟩ := State.cell_endSave hy s.ns c
    have hrid := State.releaseCells_Rid (s := s1) (asid := asid) hc
    rw [hts]
    exact ⟨State.releaseCells_parts hc, hrid.entries, hrid.sets, hrid.stops⟩
  case inbox =>
    refine fun i f hf => ⟨fun h => ?_, fun s2 h hs2 => ?_, fun h hnone => ?_⟩
    · exact exec_inboxWrite_stays hf (.inl h)
    · exact exec_inboxWrite_writes hf h hs2
    · exact exec_inboxWrite_stays hf (.inr hnone)

end Sys2Proof.Machine
end

section
namespace Sys2Proof.Machine

/-! ## Register windows (O46: R455, R457, R463, R466, R474) -/

/-! ### Pages of the aperture -/

section
variable {fn : Fn} {reg : Nat} (hown : ∀ d, fn = .vdev d → d < 32) (hreg : reg < 4096)
include hown hreg

/-- The page of a function is where the aperture has it. -/
theorem pageFn_page : pageFn (4096 * pageOf fn + reg) = some fn := by
  cases fn with
  | pf =>
    have hpage : (4096 * pageOf .pf + reg) / 4096 = 0 := by simp only [pageOf]; omega
    simp only [pageFn, hpage, if_true]
  | vdev d =>
    have hd := hown d rfl
    have hpage : (4096 * pageOf (.vdev d) + reg) / 4096 = 1 + d := by simp only [pageOf]; omega
    simp only [pageFn, hpage]
    rw [if_neg (by omega), if_pos (by omega), Nat.add_sub_cancel_left]

/-- Neither the physical function nor the function itself is outside the function's page. -/
theorem outside_page {caller : Fn} (hc : caller = .pf ∨ caller = fn) : outside caller (4096 * pageOf fn + reg) = none := by
  rcases hc with rfl | rfl
  · rfl
  · cases caller with
    | pf => rfl
    | vdev d => exact if_pos (pageFn_page hown hreg)

theorem exec_registerWrite_page {caller : Fn} (hc : caller = .pf ∨ caller = fn) (v : Word64) (s : State) :
    exec (.registerWrite caller (4096 * pageOf fn + reg) v) s = s.writeReg fn reg v := by
  have hoff : (4096 * pageOf fn + reg) % 4096 = reg := by omega
  have hrun : exec (.registerWrite caller (4096 * pageOf fn + reg) v) s =
    execRegisterWrite caller (4096 * pageOf fn + reg) v s := rfl
  simp only [hrun, execRegisterWrite, outside_page hown hreg hc, pageFn_page hown hreg, hoff]

end

theorem outside_other {d off : Nat} (h : off / 4096 ≠ 1 + d) : outside (.vdev d) off = some d := by
  refine if_neg fun hpage => ?_
  unfold pageFn at hpage
  dsimp only at hpage
  split_ifs at hpage with hpf hvdev
  · cases hpage
  · obtain rfl : off / 4096 - 1 = d := by injection Option.some.inj hpage
    omega

/-! ### The registers of a page -/

section
variable {s : State} {fn : Fn} (hlive : s.pageLive fn = true) (hboot : s.dev.boot = .ready)
include hlive hboot

theorem State.modWindow_live (g : Window → Window) : s.modWindow fn g = s.setWindow fn (g (s.window fn)) :=
  if_pos (by rw [hlive, hboot]; rfl)

theorem State.writeReg_ring {reg : Nat} {v : Word64} (h : reg = 0x010 ∨ reg = 0x018 ∨ reg = 0x020 ∨ reg = 0x028) :
    s.writeReg fn reg v = .next (s.setWindow fn ((s.window fn).setRing reg v)) := by
  rw [State.writeReg, if_pos h, State.modWindow_live hlive hboot]

theorem exec_ringEnable_starts (hoff : (s.window fn).enable = false) (hok : s.ringsOk fn (s.window fn) = true) :
    exec (.ringEnable fn) s = .next (s.setWindow fn { s.window fn with
      enable := true, ringerr := false, sqtail := 0, sqhead := 0, cqhead := 0, cqtail := 0, started := true }) := by
  have hrun : exec (.ringEnable fn) s = execRingEnable fn s := rfl
  rw [hrun, execRingEnable, State.modWindow_live hlive hboot, if_neg (by rw [hoff]; nofun), if_pos hok]

theorem exec_ringEnable_fails (hoff : (s.window fn).enable = false) (hok : s.ringsOk fn (s.window fn) = false) :
    exec (.ringEnable fn) s = .next (s.setWindow fn { s.window fn with ringerr := true }) := by
  have hrun : exec (.ringEnable fn) s = execRingEnable fn s := rfl
  rw [hrun, execRingEnable, State.modWindow_live hlive hboot, if_neg (by rw [hoff]; nofun), if_neg (by rw [hok]; nofun)]

theorem exec_ringDisable_eq : exec (.ringDisable fn) s = .next (s.setWindow fn { s.window fn with enable := false }) :=
  congrArg Host.Outcome.next (State.modWindow_live hlive hboot fun w => { w with enable := false })

theorem exec_sqtail_eq {v : Word64} (h : (s.window fn).sqsize ≠ 0) : exec (.sqtail fn v) s =
    .next (s.setWindow fn { s.window fn with sqtail := v.toNat % (s.window fn).sqsize.toNat }) := by
  have hrun : exec (.sqtail fn v) s = execSqtail fn v s := rfl
  rw [hrun, execSqtail, State.modWindow_live hlive hboot, if_neg h]

/-- Entries that a value of CQHEAD frees. -/
def Window.freed (w : Window) (v : Word64) : Nat :=
  (v.toNat % w.cqsize.toNat + w.cqsize.toNat - w.cqhead % w.cqsize.toNat) % w.cqsize.toNat

theorem exec_cqhead_eq {v : Word64} (h : (s.window fn).cqsize ≠ 0) : exec (.cqhead fn v) s = .next (s.setWindow fn
    { s.window fn with cqhead := min ((s.window fn).cqhead + (s.window fn).freed v) (s.window fn).cqtail }) := by
  have hrun : exec (.cqhead fn v) s = execCqhead fn v s := rfl
  rw [hrun, execCqhead, State.modWindow_live hlive hboot, if_neg h]
  rfl

end

section
variable {s : State} {v : Word64}

theorem exec_devnum_fixed (h : s.dev.devnumFixed = true) : exec (.devnum v) s = .next s :=
  congrArg Host.Outcome.next (if_pos (by rw [h]; rfl))

theorem exec_devnum_sets (h : s.dev.devnumFixed = false) (hv : v.toNat % 8192 ≠ 8191) (hboot : s.dev.boot = .ready) :
    exec (.devnum v) s = .next { s with dev := { s.dev with devnum := BitVec.ofNat 13 v.toNat } } :=
  congrArg Host.Outcome.next (if_neg (by simp [h, hv, hboot]))

theorem exec_freezeNotification_waits {i : Nat} {r : Freeze} (hr : s.freezes[i]? = some r) (h : (s.window .pf).room 3 = false) :
    exec (.freezeNotification i) s = .next s := by
  have hrun : exec (.freezeNotification i) s = execFreezeNotification i s := rfl
  rw [hrun, execFreezeNotification, hr]
  exact congrArg _ (if_pos (by rw [h]; rfl))

/-- The post that tells of a freeze. -/
def Freeze.told (r : Freeze) : Post :=
  { fn := .pf, id := 0, status := 0, cmd := 0x81, values := [r.word, r.tag, BitVec.ofNat 64 r.addr], token := none, asid := none,
    done := true, waits := [] }

theorem exec_freezeNotification_tells {i : Nat} {r : Freeze} (hr : s.freezes[i]? = some r) (h : (s.window .pf).room 3 = true) :
    exec (.freezeNotification i) s = .next { s with freezes := s.freezes.eraseIdx i, posts := s.posts ++ [r.told] } := by
  have hrun : exec (.freezeNotification i) s = execFreezeNotification i s := rfl
  rw [hrun, execFreezeNotification, hr]
  exact congrArg _ (if_neg (by rw [h]; nofun))

end

/-- Settles O46: a write reaches the page that its offset names, and changes its register there by the register's own rule. -/
theorem registerWindows : Obligations.RegisterWindows := by
  unfold Obligations.RegisterWindows
  intro s fn v hlive hboot w set base freed own ring
  have writes (reg : Nat) (hreg : reg < 4096) {caller : Fn} (hc : caller = .pf ∨ caller = fn) (h : own) :
      exec (.registerWrite caller (base + reg) v) s = s.writeReg fn reg v := exec_registerWrite_page h hreg hc v s
  have keeps {reg : Nat} {u : Window} (hreg : reg = 0x010 ∨ reg = 0x018 ∨ reg = 0x020 ∨ reg = 0x028)
      (hu : w.setRing reg v = if w.enable then w else u) : ring reg u := fun h => by
    have hset : s.writeReg fn reg v = .next (set (if w.enable then w else u)) :=
      (State.writeReg_ring hlive hboot hreg).trans (congrArg (fun u => Host.Outcome.next (set u)) hu)
    exact ⟨(writes reg (by omega) (.inl rfl) h).trans hset, (writes reg (by omega) (.inr rfl) h).trans hset⟩
  refine ⟨keeps (by simp) rfl, keeps (by simp) rfl, keeps (by simp) rfl, keeps (by simp) rfl, exec_ringEnable_starts hlive hboot,
    exec_ringEnable_fails hlive hboot, exec_ringDisable_eq hlive hboot, fun h => ⟨?_, ?_, ?_, ?_⟩, exec_sqtail_eq hlive hboot,
    exec_cqhead_eq hlive hboot, fun hd hv => exec_devnum_sets hd hv hboot, exec_devnum_fixed, fun d off hfn hoff => ?_,
    fun off n => rfl, fun off bs => ?_, fun i r hr => ⟨exec_freezeNotification_waits hr, exec_freezeNotification_tells hr⟩⟩
  · exact writes 0x30 (by omega) (.inr rfl) h
  · exact writes 0x38 (by omega) (.inr rfl) h
  · exact writes 0x48 (by omega) (.inr rfl) h
  · refine (writes 0x100 (by omega) (.inr rfl) h).trans ?_
    cases fn <;> rfl
  · subst hfn
    have hwrite : exec (.registerWrite (.vdev d) off v) s = execRegisterWrite (.vdev d) off v s := rfl
    have hread : exec (.hostApertureAccess (.vdev d) (.readReg off)) s = execHostApertureAccess (.vdev d) (.readReg off) s := rfl
    simp only [hwrite, hread, execRegisterWrite, execHostApertureAccess, outside_other hoff, and_self]
  · exact congrArg Host.Outcome.next (if_pos (by rw [hlive, hboot]; rfl))

end Sys2Proof.Machine
end

section
namespace Sys2Proof.Machine

/-! ## Commands: what each is checked for (R456 to R459) -/

theorem Cmd.mute_eq {c : Cmd} (h : c.cdest = none) : { c with cdest := none } = c := by rw [← h]

section
variable {s : State} {c : Cmd} {code : BitVec 8}

theorem State.cdestOk_none (h : c.cdest = none) : s.cdestOk c = true := by simp only [State.cdestOk, h]

/-- A sender without a CDEST is frozen, and its command completes with STATUS 6. -/
theorem State.freezeSender_none (h : c.cdest = none) (v cause : Nat) (a : Option Nat) : s.freezeSender c code v cause a =
    (s.freeze { cause := cause, vdev := v, asid := a, cell := 0, slot := 0, tag := 0, addr := 0 }).complete c code 6 0 := by
  rw [State.freezeSender, Cmd.mute_eq h, ite_self]

theorem State.halted_pf (hboot : s.dev.boot = .ready) : s.halted .pf = false := by simp [State.halted, hboot]

theorem State.halted_vdev {v : Nat} {d : Vdev} (hboot : s.dev.boot = .ready) (hd : look v s.vdevs = some d) (hf : d.frozen = false) :
    s.halted (.vdev v) = false := by simp [State.halted, hboot, hd, hf]

theorem State.pfCommand_runs (hfn : c.fn = .pf) (hboot : s.dev.boot = .ready) (hc : c.cdest = none) (act : State → State) :
    s.pfCommand code c act = act s := by
  simp [State.pfCommand, hfn, State.halted_pf hboot, fnVdev, State.cdestOk_none hc]

/-- A command that has no CDEST, or one in a context of the sender's virtual device, is carried out. -/
theorem State.anyCommand_runs (hhalt : s.halted c.fn = false) (hok : s.cdestOk c = true)
    (hnear : (c.cdest.isSome && s.foreignCtx c.fn c.casid.toNat) = false) (act : State → State) : s.anyCommand code c act = act s := by
  simp [State.anyCommand, hhalt, hok, hnear]

end

/-! ### Maps by key -/

theorem look_del_self {α : Type} (k : Nat) (m : List (Nat × α)) : look k (del k m) = none := by
  refine (Memory.look_filter_key k m (· != k)).trans (if_neg ?_)
  rw [bne_self_eq_false]
  nofun

theorem look_del_ne {α : Type} {k j : Nat} (m : List (Nat × α)) (h : j ≠ k) : look j (del k m) = look j m :=
  (Memory.look_filter_key j m (· != k)).trans (if_pos (bne_iff_ne.mpr h))

theorem mem_of_look {α : Type} {k : Nat} {v : α} {m : List (Nat × α)} (h : look k m = some v) : (k, v) ∈ m := by
  induction m with
  | nil => cases h
  | cons p m ih =>
    rw [look] at h
    split at h
    next hk =>
      cases h
      exact hk ▸ List.mem_cons_self
    next => exact List.mem_cons_of_mem _ (ih h)

/-- A fold whose steps all keep a field keeps it. -/
theorem foldl_field {α β : Type} {field : State → β} {g : State → α → State} (h : ∀ t a, field (g t a) = field t) (l : List α) (s : State) :
    field (l.foldl g s) = field s :=
  foldl_rel (fun a b : State => field b = field a) (fun _ => rfl) (fun _ _ _ h k => k.trans h) g h l s

/-! ## Virtual devices and granules (O47: R348, R349, R370, R458, R465) -/

section
variable {s : State} {c : Cmd} (hfn : c.fn = .pf) (hboot : s.dev.boot = .ready) (hc : c.cdest = none)
include hfn hboot hc

/-! ### VDEV_CREATE -/

theorem exec_vdevCreate_misplaced (h : c.arg0.toNat % 4096 ≠ 0 ∨ 2 ^ 39 < c.arg0.toNat + 4096) :
    exec (.vdevCreate c) s = .next (s.complete c 0x01 1 0) := by
  have hrun : exec (.vdevCreate c) s = execVdevCreate c s := rfl
  rw [hrun, execVdevCreate, State.pfCommand_runs hfn hboot hc]
  exact congrArg _ (if_pos h)

section
variable (h : ¬ (c.arg0.toNat % 4096 ≠ 0 ∨ 2 ^ 39 < c.arg0.toNat + 4096))
include h

theorem exec_vdevCreate_malformed (hp : parseVdev s.dev.keysDrawn (s.readMem (hostAddr c.arg0.toNat) 4096) = none) :
    exec (.vdevCreate c) s = .next (s.complete c 0x01 1 0) := by
  have hrun : exec (.vdevCreate c) s = execVdevCreate c s := rfl
  rw [hrun, execVdevCreate, State.pfCommand_runs hfn hboot hc]
  refine congrArg _ ((if_neg h).trans ?_)
  rw [hp]

variable {n : Nat} {d : Vdev} (hp : parseVdev s.dev.keysDrawn (s.readMem (hostAddr c.arg0.toNat) 4096) = some (n, d))
include hp

theorem exec_vdevCreate_taken (hn : (look n s.vdevs).isSome = true) :
    exec (.vdevCreate c) s = .next (s.complete c 0x01 2 0) := by
  have hrun : exec (.vdevCreate c) s = execVdevCreate c s := rfl
  rw [hrun, execVdevCreate, State.pfCommand_runs hfn hboot hc]
  refine congrArg _ ((if_neg h).trans ?_)
  rw [hp]
  exact if_pos hn

theorem exec_vdevCreate_makes (hn : look n s.vdevs = none) : exec (.vdevCreate c) s = .next (State.complete
    { s with vdevs := put n d s.vdevs, windows := put (1 + n) Window.empty s.windows
             dev := { s.dev with keysDrawn := s.dev.keysDrawn + 1 } } c 0x01 0 (BitVec.ofNat 64 n)) := by
  have hrun : exec (.vdevCreate c) s = execVdevCreate c s := rfl
  rw [hrun, execVdevCreate, State.pfCommand_runs hfn hboot hc]
  refine congrArg _ ((if_neg h).trans ?_)
  rw [hp]
  exact if_neg (by rw [hn]; nofun)

end

/-! ### A virtual device that is not there -/

section
variable (ha : look c.arg0.toNat s.vdevs = none)
include ha

theorem exec_vdevDestroy_unknown : exec (.vdevDestroy c) s = .next (s.complete c 0x02 2 0) := by
  have hrun : exec (.vdevDestroy c) s = execVdevDestroy c s := rfl
  rw [hrun, execVdevDestroy, State.pfCommand_runs hfn hboot hc]
  exact congrArg _ (if_pos (by rw [ha]; rfl))

theorem exec_thaw_unknown : exec (.thaw c) s = .next (s.complete c 0x03 2 0) := by
  have hrun : exec (.thaw c) s = execThaw c s := rfl
  rw [hrun, execThaw, State.pfCommand_runs hfn hboot hc]
  dsimp only
  rw [ha]

theorem exec_granule_unknown : exec (.granule c) s = .next (s.complete c 0x04 2 0) := by
  have hrun : exec (.granule c) s = execGranule c s := rfl
  rw [hrun, execGranule, State.pfCommand_runs hfn hboot hc]
  dsimp only
  rw [ha]

end

/-! ### VDEV_DESTROY -/

section
variable (ha : (look c.arg0.toNat s.vdevs).isSome = true)
include ha

theorem exec_vdevDestroy_waits (h : s.committedOps c.arg0.toNat = true) : exec (.vdevDestroy c) s = .next s := by
  have hrun : exec (.vdevDestroy c) s = execVdevDestroy c s := rfl
  rw [hrun, execVdevDestroy, State.pfCommand_runs hfn hboot hc]
  refine congrArg _ ((if_neg ?_).trans (if_pos (by rw [h]; rfl)))
  rw [Option.isNone_eq_false_iff.mpr ha]
  nofun

theorem exec_vdevDestroy_destroys (h : s.committedOps c.arg0.toNat = false)
    (hscrub : (s.granules.any fun p => p.2.owner == c.arg0.toNat && p.2.scrubbing) = false) :
    exec (.vdevDestroy c) s = .next ((s.destroyVdev c.arg0.toNat).complete c 0x02 0 0) := by
  have hrun : exec (.vdevDestroy c) s = execVdevDestroy c s := rfl
  rw [hrun, execVdevDestroy, State.pfCommand_runs hfn hboot hc]
  refine congrArg _ ((if_neg ?_).trans (if_neg (by rw [h, hscrub]; nofun)))
  rw [Option.isNone_eq_false_iff.mpr ha]
  nofun

end

/-! ### THAW -/

section
variable {d : Vdev} (hd : look c.arg0.toNat s.vdevs = some d)
include hd

theorem exec_thaw_refused (hf : d.frozen = false) : exec (.thaw c) s = .next (s.complete c 0x03 2 0) := by
  have hrun : exec (.thaw c) s = execThaw c s := rfl
  rw [hrun, execThaw, State.pfCommand_runs hfn hboot hc]
  dsimp only
  rw [hd]
  exact congrArg _ (if_pos (by rw [hf]; rfl))

/-- A context goes on, and memory says so. -/
def State.thawCtx (s : State) (a : Nat) : State :=
  ((s.modCtx a fun x => { x with cr := { x.cr with frozen := false } }).publishState a).progress a

/-- The virtual device and its contexts go on. -/
def State.thawed (s : State) (v : Nat) (d : Vdev) : State :=
  ((s.ctxs.filter fun p => p.2.cr.vdev == v).map Prod.fst).foldl State.thawCtx
    { s with vdevs := put v { d with frozen := false } s.vdevs }

theorem exec_thaw_thaws (hf : d.frozen = true) :
    exec (.thaw c) s = .next ((s.thawed c.arg0.toNat d).complete c 0x03 0 0) := by
  have hrun : exec (.thaw c) s = execThaw c s := rfl
  rw [hrun, execThaw, State.pfCommand_runs hfn hboot hc]
  dsimp only
  rw [hd]
  exact congrArg _ (if_neg (by rw [hf]; nofun))

/-! ### GRANULE -/

theorem exec_granule_malformed (h : c.arg2.toNat = 0 ∨ 384 < c.arg1.toNat + c.arg2.toNat) :
    exec (.granule c) s = .next (s.complete c 0x04 1 0) := by
  have hrun : exec (.granule c) s = execGranule c s := rfl
  rw [hrun, execGranule, State.pfCommand_runs hfn hboot hc]
  dsimp only
  rw [hd]
  exact congrArg _ (if_pos h)

section
variable (hform : ¬ (c.arg2.toNat = 0 ∨ 384 < c.arg1.toNat + c.arg2.toNat))

/-- The granules that the command asks for. -/
abbrev askedGranules (c : Cmd) : List Nat := (List.range c.arg2.toNat).map fun k => c.arg1.toNat + k

/-- They become the virtual device's, and are scrubbed. -/
def State.takeGranules (s : State) (c : Cmd) : State :=
  { s with granules := (askedGranules c).foldl (fun m g => put g { owner := c.arg0.toNat, scrubbing := true } m) s.granules }

omit hfn hboot hc hd in
theorem State.look_takeGranules {g : Nat} (hg : g ∈ askedGranules c) :
    look g ((askedGranules c).foldl (fun m g => put g { owner := c.arg0.toNat, scrubbing := true } m) s.granules) = some { owner := c.arg0.toNat, scrubbing := true } := by
  refine foldl_establishes (P := fun m => look g m = some _) hg (fun m j h => ?_) (fun m => look_put_self ..) s.granules
  by_cases hj : g = j
  · exact hj ▸ look_put_self ..
  · exact (look_put_ne _ _ _ _ hj).trans h

variable (hfresh : ∀ g ∈ askedGranules c, (look g s.granules).isNone = true)
include hform hfresh

/-- A command for granules that nobody has, within the quota or not. -/
theorem exec_granule_fresh : exec (.granule c) s = .next
    (if d.qgran < (s.granules.filter fun p => p.2.owner == c.arg0.toNat).length + c.arg2.toNat then s.complete c 0x04 3 0
    else { (s.takeGranules c).await c 0x04 with
      scrubCmds := s.scrubCmds ++ [{ cmd := c, first := c.arg1.toNat, count := c.arg2.toNat }] }) := by
  have hnew : ((askedGranules c).filter fun g => (look g s.granules).isNone) = askedGranules c := List.filter_eq_self.mpr hfresh
  have hlen : (askedGranules c).length = c.arg2.toNat := by simp
  have hfirst : c.arg1.toNat ∈ askedGranules c := List.mem_map.mpr ⟨0, List.mem_range.mpr (by omega), rfl⟩
  have hrun : exec (.granule c) s = execGranule c s := rfl
  rw [hrun, execGranule, State.pfCommand_runs hfn hboot hc]
  dsimp only
  rw [hd]
  dsimp only
  rw [hnew, hlen, if_neg hform, if_neg]
  · refine congrArg _ (ite_congr rfl (fun _ => rfl) fun _ => if_neg fun hall => ?_)
    have hready := List.all_eq_true.mp hall _ hfirst
    rw [State.look_takeGranules hfirst] at hready
    cases hready
  · rw [List.any_eq_true]
    rintro ⟨g, hg, htaken⟩
    rw [Option.isNone_iff_eq_none.mp (hfresh g hg)] at htaken
    cases htaken

end

end

end

/-! ### What the destruction of a virtual device leaves -/

section
variable {s : State} {v : Nat}

theorem State.look_destroyVdev : look v (s.destroyVdev v).vdevs = none := look_del_self ..

theorem State.destroyVdev_granules : ∀ p ∈ (s.destroyVdev v).granules, p.2.owner ≠ v := fun _ hp => by
  simpa using (List.mem_filter.mp hp).2

theorem State.destroyVdev_cells : ∀ p ∈ (s.destroyVdev v).cells, p.2.vdev ≠ some v := by
  intro p hp
  obtain ⟨q, -, rfl⟩ := List.mem_map.mp hp
  dsimp only
  split
  · nofun
  next h => simpa using h

theorem State.committedOps_false (h : ∀ o ∈ s.memops, o.phase = .issued ∨ o.phase = .applied → s.vdevOf o.firing.asid ≠ v) :
    s.committedOps v = false := by
  refine List.any_eq_false.mpr fun o ho hcommitted => ?_
  simp only [Bool.and_eq_true, Bool.or_eq_true, beq_iff_eq] at hcommitted
  exact h o ho hcommitted.1 hcommitted.2

theorem State.committedOps_true {o : MemOp} (ho : o ∈ s.memops) (h : o.phase = .issued) (hv : s.vdevOf o.firing.asid = v) :
    s.committedOps v = true := List.any_eq_true.mpr ⟨o, ho, by simp [h, hv]⟩

/-! ### What a thaw leaves -/

theorem State.thawCtx_vdevs (a : Nat) : (s.thawCtx a).vdevs = s.vdevs := by
  obtain ⟨m, h⟩ := (s.modCtx a fun x => { x with cr := { x.cr with frozen := false } }).publishState_Changes a
  rw [State.thawCtx, State.progress_vdevs, h]
  exact State.modCtx_vdevs ..

/-- The context as a thaw makes it. -/
def Ctx.thawed (x : Ctx) : Ctx :=
  { x with cr := { x.cr with frozen := false }, wdog := 0, wdogStage := false, wdogSpilled := false }

theorem State.ctx_thawCtx (a : Nat) : (s.thawCtx a).ctx a = (s.ctx a).map Ctx.thawed := by
  obtain ⟨m, h⟩ := (s.modCtx a fun x => { x with cr := { x.cr with frozen := false } }).publishState_Changes a
  have hctx : ((s.modCtx a fun x => { x with cr := { x.cr with frozen := false } }).publishState a).ctx a =
      (s.ctx a).map fun x => { x with cr := { x.cr with frozen := false } } := by
    rw [h]
    exact State.ctx_modCtx ..
  rw [State.thawCtx, State.progress, State.ctx_modCtx, hctx, Option.map_map]
  rfl

theorem State.ctx_thawCtx_ne {a b : Nat} (hb : b ≠ a) : (s.thawCtx a).ctx b = s.ctx b := by
  obtain ⟨m, h⟩ := (s.modCtx a fun x => { x with cr := { x.cr with frozen := false } }).publishState_Changes a
  rw [State.thawCtx, State.progress, State.ctx_modCtx_ne _ _ _ _ hb, h]
  exact State.ctx_modCtx_ne _ _ _ _ hb

/-- A context that is there stays there. -/
theorem State.thawCtx_isSome {a : Nat} (b : Nat) (h : (s.ctx a).isSome = true) : ((s.thawCtx b).ctx a).isSome = true := by
  by_cases hb : a = b
  · rw [hb, State.ctx_thawCtx, Option.isSome_map, ← hb, h]
  · rw [State.ctx_thawCtx_ne hb, h]

/-- No context under the ASID is frozen. -/
def State.runsFree (s : State) (a : Nat) : Prop := ∀ y, s.ctx a = some y → y.cr.frozen = false

theorem State.thawCtx_runsFree (a : Nat) : (s.thawCtx a).runsFree a := by
  intro y hy
  rw [State.ctx_thawCtx] at hy
  obtain ⟨x, -, rfl⟩ := Option.map_eq_some_iff.mp hy
  rfl

theorem State.thawCtx_keeps_runsFree {a : Nat} (b : Nat) (h : s.runsFree a) : (s.thawCtx b).runsFree a := by
  by_cases hb : a = b
  · exact hb ▸ State.thawCtx_runsFree a
  · rw [State.runsFree, State.ctx_thawCtx_ne hb]
    exact h

variable {d : Vdev}

theorem State.look_thawed : look v (s.thawed v d).vdevs = some { d with frozen := false } := by
  rw [State.thawed, foldl_field (field := State.vdevs) (fun _ a => State.thawCtx_vdevs a)]
  exact look_put_self ..

theorem State.ctx_thawed {i : Nat} {x : Ctx} (hx : s.ctx i = some x) (hv : x.cr.vdev = v) :
    ∃ y, (s.thawed v d).ctx i = some y ∧ y.cr.frozen = false := by
  have hmine : i ∈ (s.ctxs.filter fun p => p.2.cr.vdev == v).map Prod.fst :=
    List.mem_map.mpr ⟨(i, x), List.mem_filter.mpr ⟨mem_of_look hx, by simp [hv]⟩, rfl⟩
  have hfree : (s.thawed v d).runsFree i :=
    foldl_establishes (P := fun t : State => t.runsFree i) hmine (fun _ b h => State.thawCtx_keeps_runsFree b h)
      (fun _ => State.thawCtx_runsFree i) _
  have hsome : ((s.thawed v d).ctx i).isSome = true :=
    List.foldlRecOn (motive := fun t : State => (t.ctx i).isSome = true) _ _ (Option.isSome_iff_exists.mpr ⟨x, hx⟩)
      fun _ h b _ => State.thawCtx_isSome b h
  obtain ⟨y, hy⟩ := Option.isSome_iff_exists.mp hsome
  exact ⟨y, hy, hfree y hy⟩

/-! ### A granule's scrub (R349) -/

section
variable {g : Nat} {w : Granule} (hg : look g s.granules = some w) (hw : w.scrubbing = true)

/-- The granule is zero and usable. -/
def State.granuleReady (s : State) (g : Nat) (w : Granule) : State :=
  { s.scrubGranule g with granules := put g { w with scrubbing := false } (s.scrubGranule g).granules }

/-- Every granule of a command is scrubbed. -/
def State.scrubEnded (s : State) (k : ScrubCmd) : Bool :=
  (List.range k.count).all fun i => match look (k.first + i) s.granules with | some w => !w.scrubbing | none => true

omit hg hw in
theorem State.scrubsComplete_Posts (l : List ScrubCmd) (s : State) :
    ∃ p, l.foldl (fun st k => st.complete k.cmd 0x04 0 0) s = { s with posts := p } :=
  foldl_rel (fun a b : State => ∃ p, b = { a with posts := p }) (fun a => ⟨a.posts, rfl⟩)
    (fun _ _ _ ⟨p, hp⟩ ⟨q, hq⟩ => ⟨q, by rw [hq, hp]⟩) _ (fun _ _ => ⟨_, rfl⟩) l s

include hg hw in
theorem exec_granuleScrubComplete_scrubs : ∃ l p, exec (.granuleScrubComplete g) s =
    .next { s.granuleReady g w with scrubCmds := l, posts := p } := by
  have hrun : exec (.granuleScrubComplete g) s = execGranuleScrubComplete g s := rfl
  rw [hrun, execGranuleScrubComplete, hg]
  dsimp only
  rw [if_neg (by rw [hw]; nofun)]
  obtain ⟨p, hp⟩ := State.scrubsComplete_Posts
    ((s.granuleReady g w).scrubCmds.filter (s.granuleReady g w).scrubEnded)
    { s.granuleReady g w with scrubCmds := (s.granuleReady g w).scrubCmds.filter fun k => !(s.granuleReady g w).scrubEnded k }
  exact ⟨_, p, congrArg _ hp⟩

/-- The address lies in the granule. -/
abbrev inGranule (g a : Nat) : Prop := g * 2 ^ 30 ≤ memKey a ∧ memKey a < (g + 1) * 2 ^ 30

theorem State.byteAt_granuleReady (b : Nat) : (s.granuleReady g w).byteAt b = if inGranule g b then 0 else s.byteAt b := by
  have h : (s.granuleReady g w).byteAt b = _ := Memory.get_clear s.mem (g * 2 ^ 30) (2 ^ 30) (memKey b)
  unfold inGranule
  rw [h, State.byteAt, Nat.succ_mul]

theorem State.wordAt_granuleReady (b : Nat) : (s.granuleReady g w).wordAt b = if inGranule g b then none else s.wordAt b := by
  have h : (s.granuleReady g w).wordAt b = _ :=
    Memory.look_filter_key (memKey b) s.w1 fun k => decide (k < g * 2 ^ 30) || decide (g * 2 ^ 30 + 2 ^ 30 ≤ k)
  unfold inGranule
  rw [h, State.wordAt, Nat.succ_mul, ite_outside]

end

end

/-- Settles O47: each command by its own test; the destruction, the thaw and the scrub by what they leave. -/
theorem virtualDevicesAndGranules : Obligations.VirtualDevicesAndGranules := by
  unfold Obligations.VirtualDevicesAndGranules
  intro s c hfn hboot hc a fresh asked
  refine ⟨exec_vdevCreate_misplaced hfn hboot hc, fun h1 h2 hp => ?_, fun n d h1 h2 hp => ⟨fun hn => ?_, fun hn => ?_⟩, fun ha => ⟨?_, ?_, ?_⟩,
    fun ha hscrub hops => ?_, fun o ho hphase hv ha => ?_, fun d hd hf => exec_thaw_refused hfn hboot hc hd hf, fun d hd hf => ?_,
    fun d hd h => exec_granule_malformed hfn hboot hc hd h, fun d hd h1 h2 hfresh => ?_, fun g w hg hw => ?_⟩
  · exact exec_vdevCreate_malformed hfn hboot hc (by omega) hp
  · exact exec_vdevCreate_taken hfn hboot hc (by omega) hp hn
  · exact exec_vdevCreate_makes hfn hboot hc (by omega) hp hn
  · exact exec_vdevDestroy_unknown hfn hboot hc ha
  · exact exec_thaw_unknown hfn hboot hc ha
  · exact exec_granule_unknown hfn hboot hc ha
  · have hnone : (s.granules.any fun p => p.2.owner == c.arg0.toNat && p.2.scrubbing) = false := by
      refine List.any_eq_false.mpr fun p hp => ?_
      simpa using hscrub p hp
    exact ⟨_, exec_vdevDestroy_destroys hfn hboot hc ha (State.committedOps_false hops) hnone, State.look_destroyVdev,
      State.destroyVdev_granules, State.destroyVdev_cells⟩
  · exact exec_vdevDestroy_waits hfn hboot hc ha (State.committedOps_true ho hphase hv)
  · exact ⟨_, exec_thaw_thaws hfn hboot hc hd hf, State.look_thawed, fun i x hx hv => State.ctx_thawed hx hv⟩
  · intro held
    have hrun := exec_granule_fresh hfn hboot hc hd (by omega) hfresh
    refine ⟨fun hq => hrun.trans (congrArg _ (if_pos hq)), fun hq => ⟨_, hrun.trans (congrArg _ (if_neg (Nat.not_lt.mpr hq))), ?_, rfl⟩⟩
    exact fun g hg => State.look_takeGranules hg
  · obtain ⟨l, p, hrun⟩ := exec_granuleScrubComplete_scrubs hg hw
    refine ⟨_, hrun, look_put_self .., fun b h1 h2 => ⟨?_, ?_⟩, fun b h => ⟨?_, ?_⟩⟩
    · exact (State.byteAt_granuleReady (w := w) b).trans (if_pos ⟨h1, h2⟩)
    · exact (State.wordAt_granuleReady (w := w) b).trans (if_pos ⟨h1, h2⟩)
    · exact (State.byteAt_granuleReady (w := w) b).trans (if_neg h)
    · exact (State.wordAt_granuleReady (w := w) b).trans (if_neg h)

end Sys2Proof.Machine
end

section
namespace Sys2Proof.Machine

/-! ## Commands that name a context (R458, R459) -/

/-- The command of a virtual device's function is carried out. -/
structure State.Admits (s : State) (c : Cmd) (v : Nat) : Prop where
  fn : c.fn = .vdev v
  runs : ∀ code act, s.anyCommand code c act = act s

section
variable {s : State} {c : Cmd} {v : Nat} (hc : s.Admits c v) {code : BitVec 8} (act : Nat → Ctx → State → State)
include hc

theorem State.ctxCommand_unknown (hx : s.ctx c.arg0.toNat = none) : s.ctxCommand code c act = s.complete c code 2 0 := by
  rw [State.ctxCommand, hc.runs]
  dsimp only
  rw [hx]

variable {x : Ctx} (hx : s.ctx c.arg0.toNat = some x)
include hx

omit act in
theorem State.foreignCtx_iff : s.foreignCtx c.fn c.arg0.toNat = (x.cr.vdev != v) := by
  simp only [State.foreignCtx, hc.fn, fnVdev, hx]

theorem State.ctxCommand_foreign (hv : x.cr.vdev ≠ v) :
    s.ctxCommand code c act = s.freezeSender c code v 3 (some c.arg0.toNat) := by
  rw [State.ctxCommand, hc.runs]
  dsimp only
  rw [hx, State.foreignCtx_iff hc hx, hc.fn]
  exact if_pos (bne_iff_ne.mpr hv)

variable (hv : x.cr.vdev = v)
include hv

theorem State.ctxCommand_waits (hw : s.waitsCtx code c.arg0.toNat x = true) : s.ctxCommand code c act = s := by
  rw [State.ctxCommand, hc.runs]
  dsimp only
  rw [hx, State.foreignCtx_iff hc hx, hv, bne_self_eq_false]
  exact (if_neg nofun).trans (if_pos hw)

theorem State.ctxCommand_runs (hw : s.waitsCtx code c.arg0.toNat x = false) (hlost : x.lost = false) :
    s.ctxCommand code c act = act c.arg0.toNat x s := by
  rw [State.ctxCommand, hc.runs]
  dsimp only
  rw [hx, State.foreignCtx_iff hc hx, hv, bne_self_eq_false]
  exact (if_neg nofun).trans ((if_neg (by rw [hw]; nofun)).trans (if_neg (by rw [hlost]; nofun)))

end

/-! ## Contexts created and destroyed (O48: R350 to R355, R458, R459) -/

section
variable {s : State} {c : Cmd} {v : Nat} {d : Vdev} (hfn : c.fn = .vdev v) (hd : look v s.vdevs = some d) (hf : d.frozen = false)
  (hboot : s.dev.boot = .ready) (hc : c.cdest = none)
include hfn hd hf hboot hc

/-- A running virtual device's command without a CDEST is carried out. -/
theorem State.admits_mute : s.Admits c v where
  fn := hfn
  runs _ act := State.anyCommand_runs (by rw [hfn, State.halted_vdev hboot hd hf]) (State.cdestOk_none hc) (by rw [hc]; rfl) act

/-! ### CTX_CREATE -/

section
variable (halign : c.arg0.toNat % 4096 = 0)
include halign

theorem exec_ctxCreate_unowned (hlocal : s.isLocal c.arg0.toNat = true) (hpop : populated c.arg0.toNat = true)
    (h : s.owns v c.arg0.toNat 4096 = false) : exec (.ctxCreate c) s = .next (s.freezeSender c 0x10 v 5 none) := by
  have hrun : exec (.ctxCreate c) s = execCtxCreate c s := rfl
  rw [hrun, execCtxCreate, (State.admits_mute hfn hd hf hboot hc).runs]
  simp [hfn, fnVdev, hd, halign, hlocal, hpop, h]

variable (hown : s.owns v c.arg0.toNat 4096 = true)
include hown

/-- A record in the virtual device's memory is checked. -/
theorem exec_ctxCreate_checks {k : RecCheck} (hk : s.checkRec (recOfBytes c.arg0.toNat v (s.readMem c.arg0.toNat 4096)) d
    (s.readMem c.arg0.toNat 4096) = k) : exec (.ctxCreate c) s = .next (match k with
      | .refuse st => s.complete c 0x10 st 0
      | .outside => s.freezeSender c 0x10 v 5 none
      | .ok => match firstFree (s.ctxs.map Prod.fst) 0 1024 with
        | none => s.complete c 0x10 3 0
        | some n => (s.makeCtx n (recOfBytes c.arg0.toNat v (s.readMem c.arg0.toNat 4096))).complete c 0x10 0 (BitVec.ofNat 64 n)) := by
  have hplace : s.isLocal c.arg0.toNat = true ∧ populated c.arg0.toNat = true := by
    simp only [State.owns, Bool.and_eq_true] at hown
    exact ⟨hown.1.1.1.1, hown.1.1.1.2⟩
  have hrun : exec (.ctxCreate c) s = execCtxCreate c s := rfl
  rw [hrun, execCtxCreate, (State.admits_mute hfn hd hf hboot hc).runs]
  simp only [hfn, fnVdev, Option.bind_some, hd, Option.map_some, halign, hplace, hown, hk, ne_eq, not_true, Bool.true_eq_false,
    or_self, if_false, Bool.not_true, Bool.false_eq_true]
  cases k <;> rfl

end

end

/-! ### CTX_DESTROY -/

section
variable {s : State} {c : Cmd} {v : Nat} (hc : s.Admits c v) {x : Ctx} (hx : s.ctx c.arg0.toNat = some x) (hv : x.cr.vdev = v)
  (hlost : x.lost = false) (hfirst : s.earlierCmd 0x11#8 c.arg0.toNat x = false)
include hc hx hv hlost hfirst

theorem exec_ctxDestroy_refused (h : ∃ p ∈ x.frames, p.2.st ≠ .free) :
    exec (.ctxDestroy c) s = .next (s.complete c 0x11 2 0) := by
  obtain ⟨p, hp, hst⟩ := h
  have hbusy : (x.frames.any fun q => q.2.st != .free) = true := List.any_eq_true.mpr ⟨p, hp, bne_iff_ne.mpr hst⟩
  have hall : (x.frames.all fun q => q.2.st == .free) = false := List.all_eq_false.mpr ⟨p, hp, by simpa using hst⟩
  have hw : s.waitsCtx 0x11 c.arg0.toNat x = false := by simp [State.waitsCtx, hlost, hfirst, hall]
  have hrun : exec (.ctxDestroy c) s = execCtxDestroy c s := rfl
  rw [hrun, execCtxDestroy, State.ctxCommand_runs hc _ hx hv hw hlost]
  exact congrArg _ (if_pos (by rw [hlost, hbusy]; rfl))

theorem exec_ctxDestroy_destroys (hfree : ∀ p ∈ x.frames, p.2.st = .free) (hdry : x.dry = .none ∨ x.dry = .saved)
    (hlaunch : x.launches = []) (hidle : s.busyCtx c.arg0.toNat = false) : exec (.ctxDestroy c) s = .next
      ((s.destroyCtx c.arg0.toNat).complete (if c.casid.toNat = c.arg0.toNat then { c with cdest := none } else c) 0x11 0 0) := by
  have hnone : (x.frames.any fun q => q.2.st != .free) = false :=
    List.any_eq_false.mpr fun p hp => by simp [hfree p hp]
  have hw : s.waitsCtx 0x11 c.arg0.toNat x = false := by
    rcases hdry with hdry | hdry <;> simp [State.waitsCtx, hlost, hfirst, hdry, hlaunch, hidle]
  have hrun : exec (.ctxDestroy c) s = execCtxDestroy c s := rfl
  rw [hrun, execCtxDestroy, State.ctxCommand_runs hc _ hx hv hw hlost]
  exact congrArg _ (if_neg (by rw [hlost, hnone]; nofun))

end

/-! ### What the destruction of a context leaves -/

section
variable {s : State} {a : Nat} {x : Ctx}

/-- The partitions of the context leave its cells. -/
def State.partsGone (s : State) (a : Nat) (x : Ctx) : State :=
  x.cr.region.foldl (fun st c => if ((st.cell c).part a).isSome then st.modCell c fun d => (d.without a x).forget a else st)
    ((s.net.filter fun f => f.toks.any fun t => t.asid == a).foldl State.disassemble s)

theorem State.ctxs_partsGone : (s.partsGone a x).ctxs = s.ctxs := by
  refine (State.ctxs_foldl (fun t c => ?_) _ _).trans (State.ctxs_foldl (fun t f => t.ctxs_disassemble f) _ _)
  split <;> rfl

/-- Traffic of the context, and its place among the contexts, are gone. -/
def State.ctxGone (s : State) (a : Nat) (x : Ctx) : State :=
  let s2 := (s.partsGone a x).dropTraffic a
  let end_ (p : Post) : Post := if p.asid == some a && !p.done then { p with done := true, status := 2 } else p
  { s2 with
    ctxs := del a s2.ctxs
    w1by := s2.w1by.filter fun p => p.2 != a
    posts := s2.posts.map fun p => if p.token.any fun t => t.1 == a then { end_ p with token := none } else end_ p }

/-- What waits on a cell for another context may go on. -/
def State.goOn (s : State) (c : Nat) : State := { s.gcTiles c with due := s.due ++ [.event (.heldLenterGrant c)] }

theorem State.destroyCtx_eq (hx : s.ctx a = some x) : s.destroyCtx a = x.cr.region.foldl State.goOn (s.ctxGone a x) := by
  rw [State.destroyCtx, hx]
  rfl

variable (hx : s.ctx a = some x)
include hx

theorem State.ctxs_destroyCtx : (s.destroyCtx a).ctxs = del a s.ctxs := by
  rw [State.destroyCtx_eq hx, State.ctxs_foldl (g := State.goOn) fun _ _ => rfl]
  exact congrArg (del a) State.ctxs_partsGone

theorem State.destroyCtx_net : ∀ f ∈ (s.destroyCtx a).net, ∀ k ∈ f.toks, k.asid ≠ a := by
  rw [State.destroyCtx_eq hx, foldl_field (field := State.net) (g := State.goOn) fun _ _ => rfl]
  intro f hf k hk hka
  have hnone := (List.mem_filter.mp hf).2
  simp only [Bool.not_eq_true', List.any_eq_false, beq_iff_eq] at hnone
  exact hnone k hk hka

theorem State.destroyCtx_memops : ∀ o ∈ (s.destroyCtx a).memops, o.firing.asid ≠ a := by
  rw [State.destroyCtx_eq hx, foldl_field (field := State.memops) (g := State.goOn) fun _ _ => rfl]
  intro o ho
  simpa using (List.mem_filter.mp ho).2

omit hx in
theorem State.ctxGone_tlb (n : Nat) : ∀ e ∈ ((s.ctxGone a x).cell n).tlb, e.asid ≠ a := by
  intro e he
  have hcell : look n (s.ctxGone a x).cells =
      (look n (s.partsGone a x).cells).map fun k => { k with tlb := k.tlb.filter fun e => e.asid != a } :=
    look_map_of_key (g := fun p : Nat × Cell => (p.1, { p.2 with tlb := p.2.tlb.filter fun e => e.asid != a })) (fun _ => rfl) n _
  rw [State.cell, hcell] at he
  cases hk : look n (s.partsGone a x).cells with
  | none =>
    rw [hk] at he
    cases he
  | some k =>
    rw [hk] at he
    simpa using (List.mem_filter.mp he).2

theorem State.destroyCtx_tlb (n : Nat) : ∀ e ∈ ((s.destroyCtx a).cell n).tlb, e.asid ≠ a := by
  have htiles : (s.ctxGone a x).TilesOnly (s.destroyCtx a) := by
    rw [State.destroyCtx_eq hx]
    exact foldl_rel State.TilesOnly (fun _ => .of_cells rfl) (fun _ _ _ => State.TilesOnly.trans) State.goOn
      (fun t c => t.gcTiles_TilesOnly c) _ _
  obtain ⟨ts, hts⟩ := htiles n
  rw [hts]
  exact State.ctxGone_tlb n

end

/-- Settles O48: the record's check decides CTX_CREATE, the frames CTX_DESTROY, and of a destroyed context nothing is left. -/
theorem contextsCreatedAndDestroyed : Obligations.ContextsCreatedAndDestroyed := by
  unfold Obligations.ContextsCreatedAndDestroyed
  intro s c v d hfn hd hf hboot hc a r
  have hadmits : s.Admits c v := State.admits_mute hfn hd hf hboot hc
  refine ⟨fun n halign hown hok hn => ?_, fun st halign hown hr => ?_, fun halign hlocal hpop hout => ?_, fun hx => ?_,
    fun x hx hv hlost hfirst h => exec_ctxDestroy_refused hadmits hx hv hlost hfirst h,
    fun x hx hv hlost hfree hdry hlaunch hidle hfirst => ?_, fun x hx hv => ?_⟩
  · rw [exec_ctxCreate_checks hfn hd hf hboot hc halign hown hok]
    dsimp only
    rw [hn]
  · exact exec_ctxCreate_checks hfn hd hf hboot hc halign hown hr
  · rw [← State.freezeSender_none hc]
    cases hown : s.owns v a 4096 with
    | false => exact exec_ctxCreate_unowned hfn hd hf hboot hc halign hlocal hpop hown
    | true => exact exec_ctxCreate_checks hfn hd hf hboot hc halign hown (hout hown)
  · exact congrArg Host.Outcome.next (State.ctxCommand_unknown hadmits _ hx)
  · refine ⟨_, exec_ctxDestroy_destroys hadmits hx hv hlost hfirst hfree hdry hlaunch hidle, ?_, fun b hb => ?_,
      State.destroyCtx_net hx, State.destroyCtx_memops hx, State.destroyCtx_tlb hx⟩
    · exact (congrArg (look a) (State.ctxs_destroyCtx hx)).trans (look_del_self ..)
    · exact (congrArg (look b) (State.ctxs_destroyCtx hx)).trans (look_del_ne _ hb)
  · exact congrArg Host.Outcome.next ((State.ctxCommand_foreign hadmits _ hx hv).trans (State.freezeSender_none hc ..))

end Sys2Proof.Machine
end

section
namespace Sys2Proof.Machine

/-! ## Commands that name a context of their own virtual device (O49: R297, R428, R430, R456 to R461) -/

/-! ### CDEST -/

/-- CDEST, where there is one, is a fixed port of a context of the virtual device. -/
def State.Near (s : State) (c : Cmd) (v : Nat) : Prop :=
  ∀ e, c.cdest = some e → e.mode = .fixed ∧ (e.port = .to .a ∨ e.port = .to .b) ∧ ∃ y, s.ctx c.casid.toNat = some y ∧ y.cr.vdev = v

section
variable {s : State} {c : Cmd} {v : Nat} {d : Vdev} {code : BitVec 8} {e : Dest}

theorem State.foreignCtx_casid (hfn : c.fn = .vdev v) {y : Ctx} (hy : s.ctx c.casid.toNat = some y) :
    s.foreignCtx c.fn c.casid.toNat = (y.cr.vdev != v) := by
  simp only [State.foreignCtx, hfn, fnVdev, hy]

theorem State.cdestOk_some (he : c.cdest = some e) :
    s.cdestOk c = (e.mode == .fixed && (e.port == .to .a || e.port == .to .b) && (s.ctx c.casid.toNat).isSome) := by
  simp only [State.cdestOk, he]

theorem State.Near.cdestOk (h : s.Near c v) : s.cdestOk c = true := by
  cases he : c.cdest with
  | none => exact State.cdestOk_none he
  | some e =>
    obtain ⟨hmode, hport, y, hy, -⟩ := h e he
    simp [State.cdestOk_some he, hmode, hport, hy]

/-- A virtual device's queue runs, and its CDEST is its own. -/
structure State.Awake (s : State) (c : Cmd) (v : Nat) : Prop where
  fn : c.fn = .vdev v
  runs : s.halted c.fn = false

theorem State.awake (hfn : c.fn = .vdev v) (hd : look v s.vdevs = some d) (hf : d.frozen = false) (hboot : s.dev.boot = .ready) :
    s.Awake c v := ⟨hfn, by rw [hfn, State.halted_vdev hboot hd hf]⟩

theorem State.Near.not_foreign (h : s.Near c v) (hfn : c.fn = .vdev v) :
    (c.cdest.isSome && s.foreignCtx c.fn c.casid.toNat) = false := by
  cases he : c.cdest with
  | none => rfl
  | some e =>
    obtain ⟨-, -, y, hy, hv⟩ := h e he
    simp [State.foreignCtx_casid hfn hy, hv]

theorem State.Near.admits (h : s.Near c v) (ha : s.Awake c v) : s.Admits c v where
  fn := ha.fn
  runs _ act := State.anyCommand_runs ha.runs h.cdestOk (h.not_foreign ha.fn) act

/-- The token of a command that freezes its sender follows the entry. -/
theorem State.Near.freezeSender (h : s.Near c v) (hfn : c.fn = .vdev v) (cause : Nat) (a : Option Nat) :
    s.freezeSender c code v cause a =
      (s.freeze { cause := cause, vdev := v, asid := a, cell := 0, slot := 0, tag := 0, addr := 0 }).complete c code 6 0 := by
  cases he : c.cdest with
  | none => exact State.freezeSender_none he ..
  | some e =>
    have hnear := h.not_foreign hfn
    rw [he, Option.isSome_some, Bool.true_and] at hnear
    rw [State.freezeSender, h.cdestOk, hnear]
    rfl

/-- The commands for which CDEST is looked at alike, those that name a context in ARG0 last. -/
abbrev namingCtx (c : Cmd) : List (BitVec 8 × Instr) :=
  [(0x11#8, .ctxDestroy c), (0x12#8, .launch c), (0x13#8, .preempt c), (0x14#8, .tlbInval c), (0x15#8, .resolve c),
    (0x16#8, .killfr c), (0x17#8, .brkset c), (0x18#8, .sillage c), (0x19#8, .quote c), (0x1A#8, .pair c), (0x1B#8, .exportGranules c)]

theorem exec_namingCtx {p : BitVec 8 × Instr} (hp : p ∈ namingCtx c) : ∃ act, exec p.2 s = .next (s.ctxCommand p.1 c act) := by
  simp only [List.mem_cons, List.not_mem_nil, or_false] at hp
  rcases hp with rfl | rfl | rfl | rfl | rfl | rfl | rfl | rfl | rfl | rfl | rfl
  all_goals exact ⟨_, rfl⟩

theorem exec_anyCommand {p : BitVec 8 × Instr} (hp : p ∈ (0x10#8, Instr.ctxCreate c) :: namingCtx c) :
    ∃ act, exec p.2 s = .next (s.anyCommand p.1 c act) := by
  rcases List.mem_cons.mp hp with rfl | hp
  · exact ⟨_, rfl⟩
  · obtain ⟨act, h⟩ := exec_namingCtx hp (s := s)
    exact ⟨_, h⟩

/-- A CDEST in a context of another virtual device freezes the sender; no token follows. -/
theorem State.anyCommand_foreign (ha : s.Awake c v) (he : c.cdest = some e) {y : Ctx} (hy : s.ctx c.casid.toNat = some y) (hv : y.cr.vdev ≠ v)
    (act : State → State) : s.anyCommand code c act =
      (s.freeze { cause := 3, vdev := v, asid := some c.casid.toNat, cell := 0, slot := 0, tag := 0, addr := 0 }).complete
        { c with cdest := none } code 6 0 := by
  have hforeign : s.foreignCtx c.fn c.casid.toNat = true := (State.foreignCtx_casid ha.fn hy).trans (bne_iff_ne.mpr hv)
  rw [State.anyCommand, ha.runs, he, hforeign, State.freezeSender, hforeign, Bool.not_true, Bool.and_false, ha.fn]
  rfl

/-- A malformed CDEST is refused; no token follows. -/
theorem State.anyCommand_malformed (ha : s.Awake c v) (hv : ∀ y, s.ctx c.casid.toNat = some y → y.cr.vdev = v)
    (hbad : s.cdestOk c = false) (act : State → State) :
    s.anyCommand code c act = s.complete { c with cdest := none } code 1 0 := by
  have hnear : s.foreignCtx c.fn c.casid.toNat = false := by
    cases hy : s.ctx c.casid.toNat with
    | none => simp only [State.foreignCtx, ha.fn, fnVdev, hy]
    | some y => rw [State.foreignCtx_casid ha.fn hy, hv y hy, bne_self_eq_false]
  rw [State.anyCommand, ha.runs, hnear, hbad, Bool.and_false]
  rfl

end

/-! ### A command at its turn -/

theorem State.waitsCtx_earlier {s : State} {code : BitVec 8} {a : Nat} {x : Ctx} (hlost : x.lost = false)
    (h : s.earlierCmd code a x = true) : s.waitsCtx code a x = true := if_pos (by rw [hlost, h]; rfl)

theorem State.waitsCtx_none {s : State} {code : BitVec 8} {a : Nat} {x : Ctx} (hlost : x.lost = false) (hdry : x.dry = .none)
    (h : s.earlierCmd code a x = false) (hcode : code ≠ 0x11#8) : s.waitsCtx code a x = false := by
  simp [State.waitsCtx, h, hcode, hdry, hlost]

/-- Every command but LAUNCH has the same earlier ones. -/
theorem State.earlierCmd_eq {s : State} {code : BitVec 8} {a : Nat} {x : Ctx} (h : code ≠ 0x12#8) :
    s.earlierCmd code a x = s.earlierCmd 0x13#8 a x := by
  have h' : (code != 0x12#8) = true := bne_iff_ne.mpr h
  simp [State.earlierCmd, h']

/-- The command names a context of its virtual device that is neither lost nor dried down. -/
structure State.Serves (s : State) (c : Cmd) (v : Nat) (x : Ctx) : Prop where
  near : s.Near c v
  awake : s.Awake c v
  ctx : s.ctx c.arg0.toNat = some x
  own : x.cr.vdev = v
  kept : x.lost = false
  dry : x.dry = .none

/-- No command before it has still to take effect. -/
structure State.AtTurn (s : State) (c : Cmd) (v : Nat) (x : Ctx) : Prop extends s.Serves c v x where
  first : s.earlierCmd 0x13#8 c.arg0.toNat x = false

section
variable {s : State} {c : Cmd} {v : Nat} {x : Ctx} {code : BitVec 8} (act : Nat → Ctx → State → State)

theorem State.Serves.admits (h : s.Serves c v x) : s.Admits c v := h.near.admits h.awake

theorem State.Serves.waits (h : s.Serves c v x) (hw : s.earlierCmd code c.arg0.toNat x = true) : s.ctxCommand code c act = s :=
  State.ctxCommand_waits h.admits act h.ctx h.own (State.waitsCtx_earlier h.kept hw)

theorem State.Serves.runs (h : s.Serves c v x) (hfirst : s.earlierCmd code c.arg0.toNat x = false) (hcode : code ≠ 0x11#8) :
    s.ctxCommand code c act = act c.arg0.toNat x s :=
  State.ctxCommand_runs h.admits act h.ctx h.own (State.waitsCtx_none h.kept h.dry hfirst hcode) h.kept

theorem State.AtTurn.runs (h : s.AtTurn c v x) (h1 : code ≠ 0x11#8) (h2 : code ≠ 0x12#8) :
    s.ctxCommand code c act = act c.arg0.toNat x s :=
  h.toServes.runs act ((State.earlierCmd_eq h2).trans h.first) h1

end

section
variable {s : State} {c : Cmd} {v : Nat} {x : Ctx} (h : s.AtTurn c v x)
include h

/-! ### PREEMPT and TLB_INVAL -/

theorem exec_preempt_starts : exec (.preempt c) s =
    .next (((s.startDrydown c.arg0.toNat 2).modCtx c.arg0.toNat fun y => { y with dryCmds := [c] }).await c 0x13) := by
  have hrun : exec (.preempt c) s = execPreempt c s := rfl
  rw [hrun, execPreempt, h.runs _ (by decide) (by decide), h.dry]

theorem exec_tlbInval_drops : exec (.tlbInval c) s = .next (State.await
    { s with
      cells := s.cells.map fun p => (p.1, { p.2 with tlb := p.2.tlb.filter fun e => !e.hit c.arg0.toNat c.arg1.toNat c.arg2.toNat })
      stlb := s.stlb.map fun p => (p.1, p.2.filter fun e => !e.hit c.arg0.toNat c.arg1.toNat c.arg2.toNat)
      memops := s.memops.map fun o => if o.usesRange c.arg0.toNat c.arg1.toNat c.arg2.toNat then { o with stale := true } else o
      invals := s.invals ++
        [{ cmd := c, asid := c.arg0.toNat, lo := c.arg1.toNat, len := c.arg2.toNat,
           ops := (s.memops.filter fun o => o.usesRange c.arg0.toNat c.arg1.toNat c.arg2.toNat && o.pending).map MemOp.id }] } c 0x14) := by
  have hrun : exec (.tlbInval c) s = execTlbInval c s := rfl
  rw [hrun, execTlbInval, h.runs _ (by decide) (by decide)]

omit h in
theorem exec_tlbInvalComplete_waits {n : Nat} {i : Inval} (hi : s.invals[n]? = some i)
    (hw : (∃ w ∈ s.walks, w.mayHit i = true) ∨ ∃ o ∈ s.memops, o.pending = true ∧ o.id ∈ i.ops) :
    exec (.tlbInvalComplete n) s = .next s := by
  have hrun : exec (.tlbInvalComplete n) s = execTlbInvalComplete n s := rfl
  rw [hrun, execTlbInvalComplete, hi]
  refine congrArg _ (if_pos ?_)
  simpa using hw

omit h in
theorem exec_tlbInvalComplete_ends {n : Nat} {i : Inval} (hi : s.invals[n]? = some i) (hw : ∀ w ∈ s.walks, w.mayHit i = false)
    (ho : ∀ o ∈ s.memops, o.pending = true → o.id ∉ i.ops) :
    exec (.tlbInvalComplete n) s = .next (State.complete { s with invals := s.invals.eraseIdx n } i.cmd 0x14 0 0) := by
  have hrun : exec (.tlbInvalComplete n) s = execTlbInvalComplete n s := rfl
  rw [hrun, execTlbInvalComplete, hi]
  refine congrArg _ (if_neg ?_)
  rw [List.any_eq_false.mpr fun w hw' => by simp [hw w hw'], List.any_eq_false.mpr fun o ho' => by simpa using ho o ho']
  nofun

/-! ### KILLFR, BRKSET, SILLAGE -/

theorem exec_killfr_malformed (hbad : 2 ^ 20 ≤ c.arg1.toNat ∨ x.pool.nframes ≤ c.arg1.toNat % 4096) :
    exec (.killfr c) s = .next (s.complete c 0x16 1 0) := by
  have hrun : exec (.killfr c) s = execKillfr c s := rfl
  rw [hrun, execKillfr, h.runs _ (by decide) (by decide)]
  exact congrArg _ (if_pos hbad)

section
variable (hform : ¬ (2 ^ 20 ≤ c.arg1.toNat ∨ x.pool.nframes ≤ c.arg1.toNat % 4096))
include hform

theorem exec_killfr_hit (hst : (x.frame (c.arg1.toNat % 4096)).st = .live ∨ (x.frame (c.arg1.toNat % 4096)).st = .parked)
    (hgen : (x.frame (c.arg1.toNat % 4096)).gen = BitVec.ofNat 4 (c.arg1.toNat / 4096)) :
    exec (.killfr c) s = .next ((s.endFrame c.arg0.toNat (c.arg1.toNat % 4096)).complete c 0x16 0 0) := by
  have hrun : exec (.killfr c) s = execKillfr c s := rfl
  rw [hrun, execKillfr, h.runs _ (by decide) (by decide)]
  refine congrArg _ ((if_neg hform).trans ?_)
  dsimp only
  rw [State.hits_iff.mpr ⟨hst, hgen⟩, ← hgen, State.endNamed_runs h.ctx hst]
  rfl

theorem exec_killfr_miss (hmiss : ¬ (((x.frame (c.arg1.toNat % 4096)).st = .live ∨ (x.frame (c.arg1.toNat % 4096)).st = .parked) ∧
    (x.frame (c.arg1.toNat % 4096)).gen = BitVec.ofNat 4 (c.arg1.toNat / 4096))) :
    exec (.killfr c) s = .next (s.complete c 0x16 0 1) := by
  have hnone := (Bool.not_eq_true _).mp (mt State.hits_iff.mp hmiss)
  have hend : s.endNamed c.arg0.toNat (c.arg1.toNat % 4096) (BitVec.ofNat 4 (c.arg1.toNat / 4096)) = s := by
    simp only [State.endNamed, h.ctx, hnone, Bool.false_eq_true, if_false]
  have hrun : exec (.killfr c) s = execKillfr c s := rfl
  rw [hrun, execKillfr, h.runs _ (by decide) (by decide)]
  refine congrArg _ ((if_neg hform).trans ?_)
  dsimp only
  rw [hend, hnone]
  rfl

end

omit h in
/-- The word of BRKSET names one of 2,048 slots when its bits 15:11 are 0. -/
theorem highSlot_iff {n : Nat} : (n % 2 ^ 16 / 2 ^ 11 != 0) = true ↔ 2048 ≤ n % 2 ^ 16 := by
  rw [bne_iff_ne]
  omega

theorem exec_brkset_malformed (hbad : c.arg1.toNat ∉ x.cr.region ∨ 2 ^ 17 ≤ c.arg2.toNat ∨ 2048 ≤ c.arg2.toNat % 2 ^ 16) :
    exec (.brkset c) s = .next (s.complete c 0x17 1 0) := by
  have hrun : exec (.brkset c) s = execBrkset c s := rfl
  rw [hrun, execBrkset, h.runs _ (by decide) (by decide)]
  refine congrArg _ (if_pos ?_)
  simpa [or_assoc] using hbad

theorem exec_brkset_sends (hcell : c.arg1.toNat ∈ x.cr.region) (hword : c.arg2.toNat < 2 ^ 17) (hslot : c.arg2.toNat % 2 ^ 16 < 2048) :
    exec (.brkset c) s = .next (State.await
      { s with
        bcasts := s.bcasts ++
          [{ asid := c.arg0.toNat, kind := .breakBit c.arg1.toNat (c.arg2.toNat % 2048) (decide (2 ^ 16 ≤ c.arg2.toNat)) c
             left := [c.arg1.toNat] }] } c 0x17) := by
  have hlow := (Bool.not_eq_true _).mp (mt highSlot_iff.mp (Nat.not_le.mpr hslot))
  have hrun : exec (.brkset c) s = execBrkset c s := rfl
  rw [hrun, execBrkset, h.runs _ (by decide) (by decide)]
  refine congrArg _ (if_neg ?_)
  rw [hlow, List.contains_iff_mem.mpr hcell, decide_eq_false (Nat.not_le.mpr hword)]
  nofun

theorem exec_sillage : exec (.sillage c) s = .next (if sillageOk x c.arg1 then
    (s.setCtx c.arg0.toNat { x with sillage := c.arg1, anchored := 0 }).complete c 0x18 0 0 else s.complete c 0x18 1 0) := by
  have hrun : exec (.sillage c) s = execSillage c s := rfl
  rw [hrun, execSillage, h.runs _ (by decide) (by decide)]
  cases sillageOk x c.arg1 <;> rfl

/-! ### QUOTE, PAIR, EXPORT -/

/-- The quote of a context, signed with both keys. -/
abbrev State.quote (s : State) (a : Nat) (x : Ctx) (nonce : BitVec 256) : List Byte :=
  Config.quoteLayout (quoteBody s.dev.measure a x nonce) (Config.edSign s.dev.measure (quoteBody s.dev.measure a x nonce))
    ((List.range 3309).map (Config.mlSign s.dev.measure (quoteBody s.dev.measure a x nonce)))

theorem exec_quote : exec (.quote c) s = .next
    (if s.owns v c.arg1.toNat (max 1 (s.quote c.arg0.toNat x c.arg3).length) then
      (s.storeLines c.arg1.toNat (s.quote c.arg0.toNat x c.arg3)).complete c 0x19 0 0 else s.complete c 0x19 1 0) := by
  have hrun : exec (.quote c) s = execQuote c s := rfl
  rw [hrun, execQuote, h.runs _ (by decide) (by decide), h.own]
  dsimp only
  cases s.owns v c.arg1.toNat (max 1 (s.quote c.arg0.toNat x c.arg3).length) <;> rfl

theorem exec_pair : exec (.pair c) s = .next (if 256 ≤ c.arg1.toNat ∨ pairOk ((leBytes 32 c.arg3.toNat).take 16) = false then
    s.complete c 0x1A 1 0
    else (s.homeWrite (x.cr.rptbase + 16 * c.arg1.toNat) ((leBytes 32 c.arg3.toNat).take 16)).complete c 0x1A 0 0) := by
  have hrun : exec (.pair c) s = execPair c s := rfl
  rw [hrun, execPair, h.runs _ (by decide) (by decide)]

/-- The fields of EXPORT are in range, and name granules that there are. -/
def exportOk (c : Cmd) (b : List Byte) : Prop :=
  numAt b 0 2 ≤ 8190 ∧ numAt b 2 2 < 1024 ∧ numAt b 4 1 < 8 ∧ numAt b 5 27 = 0 ∧ c.arg2.toNat ≠ 0 ∧ c.arg1.toNat + c.arg2.toNat ≤ 384

omit h in
theorem exportOk_iff {b : List Byte} : (8190 < numAt b 0 2 ∨ 1024 ≤ numAt b 2 2 ∨ 8 ≤ numAt b 4 1 ∨ numAt b 5 27 ≠ 0 ∨ c.arg2.toNat = 0 ∨
    384 < c.arg1.toNat + c.arg2.toNat) ↔ ¬ exportOk c b := by
  unfold exportOk
  omega

/-- The exports that the command does not name. -/
def State.otherExports (s : State) (c : Cmd) : List Exported :=
  s.exported.filter fun e => !((askedGranules c).contains e.granule && e.asid == c.arg0.toNat &&
    e.dev == numAt (leBytes 32 c.arg3.toNat) 0 2 && e.far == numAt (leBytes 32 c.arg3.toNat) 2 2)

/-- What EXPORT grants of a granule that it names. -/
def exportOf (c : Cmd) (g : Nat) : Exported :=
  { granule := g, asid := c.arg0.toNat, dev := numAt (leBytes 32 c.arg3.toNat) 0 2, far := numAt (leBytes 32 c.arg3.toNat) 2 2
    r := (numAt (leBytes 32 c.arg3.toNat) 4 1).testBit 1, w := (numAt (leBytes 32 c.arg3.toNat) 4 1).testBit 2 }

theorem exec_exportGranules_malformed (hbad : ¬ exportOk c (leBytes 32 c.arg3.toNat)) :
    exec (.exportGranules c) s = .next (s.complete c 0x1B 1 0) := by
  have hrun : exec (.exportGranules c) s = execExportGranules c s := rfl
  rw [hrun, execExportGranules, h.runs _ (by decide) (by decide)]
  exact congrArg _ (if_pos (exportOk_iff.mpr hbad))

section
variable (hform : exportOk c (leBytes 32 c.arg3.toNat)) (hown : ∀ g ∈ askedGranules c, s.ownerOf (g * 2 ^ 30) = some v)
include hform hown

theorem exec_exportGranules_grants (hg : numAt (leBytes 32 c.arg3.toNat) 4 1 % 2 = 1) : exec (.exportGranules c) s =
    .next (State.complete { s with exported := s.otherExports c ++ (askedGranules c).map (exportOf c) } c 0x1B 0 0) := by
  have hall : ((askedGranules c).all fun g => s.ownerOf (g * 2 ^ 30) == some v) = true :=
    List.all_eq_true.mpr fun g hg => beq_iff_eq.mpr (hown g hg)
  have hrun : exec (.exportGranules c) s = execExportGranules c s := rfl
  rw [hrun, execExportGranules, h.runs _ (by decide) (by decide), h.own]
  refine congrArg _ ((if_neg (mt exportOk_iff.mp (not_not_intro hform))).trans ((if_neg ?_).trans (if_pos hg)))
  rw [hall]
  nofun

theorem exec_exportGranules_withdraws (hg : numAt (leBytes 32 c.arg3.toNat) 4 1 % 2 = 0) :
    ∃ t, exec (.exportGranules c) s = .next t ∧ t.exported = s.otherExports c := by
  have hall : ((askedGranules c).all fun g => s.ownerOf (g * 2 ^ 30) == some v) = true :=
    List.all_eq_true.mpr fun g hg => beq_iff_eq.mpr (hown g hg)
  have hrun : exec (.exportGranules c) s = execExportGranules c s := rfl
  rw [hrun, execExportGranules, h.runs _ (by decide) (by decide), h.own]
  refine ⟨_, congrArg _ ((if_neg (mt exportOk_iff.mp (not_not_intro hform))).trans ((if_neg ?_).trans (if_neg ?_))), rfl⟩
  · rw [hall]
    nofun
  · omega

end

/-! ### RESOLVE -/

theorem exec_resolve_malformed (hbad : resolveArg x c.arg1 = none) : exec (.resolve c) s = .next (s.complete c 0x15 1 0) := by
  have hrun : exec (.resolve c) s = execResolve c s := rfl
  rw [hrun, execResolve, h.runs _ (by decide) (by decide)]
  dsimp only
  rw [hbad]

section
variable {i : Nat} {form : Form} {nw : Bool} {fl : Flags} (harg : resolveArg x c.arg1 = some (i, form, nw, fl))
include harg

theorem exec_resolve_closed (hform : form ≠ .subst) (hrec : s.openRec c.arg0.toNat x i = none) :
    exec (.resolve c) s = .next (s.complete c 0x15 2 1) := by
  have hrun : exec (.resolve c) s = execResolve c s := rfl
  rw [hrun, execResolve, h.runs _ (by decide) (by decide)]
  dsimp only
  rw [harg]
  dsimp only
  rw [if_neg hform]
  dsimp only
  rw [hrec]

variable {r : TrapRec} (hrec : s.openRec c.arg0.toNat x i = some r)
include hrec

/-- What a command without substitutes asks for. -/
def plainResolve (form : Form) (nw : Bool) (fl : Flags) (r : TrapRec) : Resolve :=
  { form := form, sub0 := none, sub1 := none, flags := fl, nowatch := nw, home := r.cell }

theorem exec_resolve_plain (hform : form ≠ .subst) :
    exec (.resolve c) s = .next (s.doResolve c c.arg0.toNat r (plainResolve form nw fl r) false) := by
  have hrun : exec (.resolve c) s = execResolve c s := rfl
  rw [hrun, execResolve, h.runs _ (by decide) (by decide)]
  dsimp only
  rw [harg]
  dsimp only
  rw [if_neg hform]
  dsimp only
  rw [hrec]
  rfl

end

/-! #### Substitutes -/

/-- The half of a substitute block for a scalar, or none. -/
def halfBytes : Option (Word64 × Bool × Bool) → List Byte
  | none => zeros 32
  | some (u, p, e) =>
    leBytes 8 u.toNat ++ zeros 8 ++ leBytes 1 (1 + (if p then 4 else 0) + (if e then 8 else 0)) ++ zeros 15

def scalarHalf : Option (Word64 × Bool × Bool) → Half
  | none => .absent
  | some (u, p, e) => .scalar u p e

def scalarSub : Option (Word64 × Bool × Bool) → Option Val
  | none => none
  | some (u, p, e) => some (.scalar u p e)

omit h in
theorem numAt_append {l m : List Byte} {a n : Nat} (k : Nat) (hl : l.length = a) : numAt (l ++ m) (a + k) n = numAt m k n := by
  subst hl
  rw [numAt, bytesAt, List.drop_append, List.drop_eq_nil_of_le (Nat.le_add_right ..), Nat.add_sub_cancel_left, List.nil_append]
  rfl

/-- What stands behind the value of a scalar half: its flags. -/
def halfCtl (p e : Bool) : List Byte := zeros 8 ++ (leBytes 1 (1 + (if p then 4 else 0) + (if e then 8 else 0)) ++ zeros 15)

omit h in
theorem halfBytes_some (u : Word64) (p e : Bool) : halfBytes (some (u, p, e)) = leBytes 8 u.toNat ++ halfCtl p e := by
  rw [halfBytes, List.append_assoc, List.append_assoc, halfCtl]

omit h in
theorem parseHalf_halfBytes (d : Option (Word64 × Bool × Bool)) : parseHalf (halfBytes d) = some (scalarHalf d) := by
  rcases d with _ | ⟨u, p, e⟩
  · rfl
  · have hlen : (leBytes 8 u.toNat).length = 8 := length_leBytes ..
    have hval : numAt (leBytes 8 u.toNat ++ halfCtl p e) 0 8 = u.toNat := by
      rw [numAt, bytesAt, List.drop_zero, List.take_left' hlen, leNat_leBytes]
      exact Nat.mod_eq_of_lt u.isLt
    have hhandle : numAt (leBytes 8 u.toNat ++ halfCtl p e) 8 8 = 0 := (numAt_append 0 hlen).trans (by cases p <;> cases e <;> rfl)
    have hctl : numAt (leBytes 8 u.toNat ++ halfCtl p e) 16 1 = 1 + (if p then 4 else 0) + (if e then 8 else 0) :=
      (numAt_append 8 hlen).trans (by cases p <;> cases e <;> rfl)
    have hzero : numAt (leBytes 8 u.toNat ++ halfCtl p e) 17 15 = 0 := (numAt_append 9 hlen).trans (by cases p <;> cases e <;> rfl)
    rw [halfBytes_some]
    simp only [parseHalf, hval, hhandle, hzero, hctl, BitVec.ofNat_toNat, BitVec.setWidth_eq]
    cases p <;> cases e <;> rfl

omit h in
theorem State.halfVal_scalarHalf (d : Option (Word64 × Bool × Bool)) : s.halfVal false (scalarHalf d) = scalarSub d := by
  rcases d with _ | ⟨u, p, e⟩
  · rfl
  · simp [scalarHalf, scalarSub, State.halfVal]

/-! #### A resolution applied -/

/-- The record closes, and what it held leaves the cell. -/
def State.closes (s : State) (a : Nat) (r : TrapRec) : State := ((s.closeRec a r).progress a).gcTiles r.cell

section
variable {a : Nat} {r : TrapRec} {q : Resolve} {d0 d1 : Option (Word64 × Bool × Bool)}

omit h in
theorem State.seat_scalarSub (cell : Nat) (d : Option (Word64 × Bool × Bool)) :
    s.seat cell (scalarSub d) = some (scalarSub d, s) := by
  rcases d with _ | ⟨u, p, e⟩ <;> rfl

omit h in
theorem State.doResolve_applies (hst : s.resolveStatus a r q = 0) (h0 : q.sub0 = scalarSub d0) (h1 : q.sub1 = scalarSub d1) :
    s.doResolve c a r q false = ((s.applyForm a r q).closes a r).complete c 0x15 0 0 := by
  have hq : { q with sub0 := scalarSub d0, sub1 := scalarSub d1 } = q := by rw [← h0, ← h1]
  have hres : (s.resolve a r q).2 = ((s.applyForm a r q).closeRec a r).progress a := by
    rw [State.resolve, hst]
    rfl
  rw [State.doResolve, hst]
  refine (if_neg nofun).trans ?_
  simp only [h0, h1, State.seat_scalarSub, Option.bind_some, Option.map_some, hq, hres, State.closes]

omit h in
theorem State.doResolve_status {n : Nat} (hst : s.resolveStatus a r q = n + 1) :
    s.doResolve c a r q false = s.complete c 0x15 2 (BitVec.ofNat 64 (n + 1)) := by
  rw [State.doResolve, hst]
  exact congrArg (fun k => s.complete c 0x15 2 (BitVec.ofNat 64 k)) (if_neg nofun)

variable (hop : r.op = none)
include hop

omit h in
theorem State.recOp_none : s.recOp r = none := by rw [State.recOp, hop, Option.bind_none]

omit h in
theorem State.applyForm_skip (hq : q.form = .skip) : s.applyForm a r q = s := by
  rw [State.applyForm, State.recOp_none hop, hq]

omit h in
theorem State.applyForm_redo (hq : q.form = .redo) (hc : r.trap.cls ≠ 0x17) : s.applyForm a r q = s.reform a r q.nowatch := by
  rw [State.applyForm, State.recOp_none hop, hq]
  exact if_neg hc

omit h hop in
/-- An accumulator word is the output of side 1 by the operator alone. -/
theorem State.wordSide_ne_one {t : State} (hs : s.wordSide a r = none) : t.wordSide a r ≠ some 1 := by
  cases hw : recWord r with
  | none => simp only [State.wordSide, hw, ne_eq, reduceCtorEq, not_false_eq_true]
  | some p =>
    by_cases hx : 0xC0 ≤ p.1
    · simp only [State.wordSide, hw, if_pos hx]
      intro hone
      obtain ⟨b, -, hb⟩ := Option.bind_eq_some_iff.mp hone
      split at hb <;> cases hb
    · simp only [State.wordSide, hw, if_neg hx] at hs ⊢
      rw [hs]
      nofun

/-- The substitute of one side leaves the trapping cell. -/
def State.sendScalar (s : State) (a : Nat) (r : TrapRec) (w : OpFields) (side : Bool) : Option (Word64 × Bool × Bool) → State
  | none => s
  | some (u, p, e) =>
    s.send { asid := a, cell := r.cell, slot := r.slot, cgen := s.cgenAt r.cell a, inj := false } (s.substTag a r w) (.scalar u p e)
      (if side then (s.substSides a r w).2 else (s.substSides a r w).1)

omit h hop in
theorem State.sendSub_scalarSub (hhome : q.home = r.cell) (w : OpFields) {side : Bool} (hs : s.wordSide a r ≠ some side.toNat)
    (d : Option (Word64 × Bool × Bool)) : s.sendSub a r q w side.toNat (scalarSub d) = s.sendScalar a r w side d := by
  rcases d with _ | ⟨u, p, e⟩
  · rfl
  · simp only [scalarSub, State.sendSub, if_neg hs, hhome]
    cases side <;> rfl

omit h in
theorem State.applyForm_subst {opc : Nat} {w : OpFields} (hq : q.form = .subst) (hword : recWord r = some (opc, w)) (hs : s.wordSide a r = none)
    (hhome : q.home = r.cell) (h0 : q.sub0 = scalarSub d0) (h1 : q.sub1 = scalarSub d1) :
    s.applyForm a r q = ((s.sendScalar a r w false d0).sendScalar a r w true d1).orFlags a r.tag q.flags := by
  have hside0 : s.sendSub a r q w 0 (scalarSub d0) = s.sendScalar a r w false d0 :=
    State.sendSub_scalarSub (side := false) hhome w (by rw [hs]; nofun) d0
  have hside1 (t : State) : t.sendSub a r q w 1 (scalarSub d1) = t.sendScalar a r w true d1 :=
    State.sendSub_scalarSub (side := true) hhome w (State.wordSide_ne_one hs) d1
  have hsubs : s.sendSubs a r q w = (s.sendSub a r q w 0 (scalarSub d0)).sendSub a r q w 1 (scalarSub d1) := by
    rw [State.sendSubs, h0, h1]
    rcases d0 with _ | ⟨u, p, e⟩ <;> rfl
  rw [State.applyForm, State.recOp_none hop, hq]
  simp only [hword, hsubs, hside0, hside1]

end

section
variable {i : Nat} {nw : Bool} {fl : Flags} {r : TrapRec} (harg : resolveArg x c.arg1 = some (i, .subst, nw, fl))
include harg

theorem exec_resolve_outside (hown : s.owns v c.arg2.toNat 64 = false) :
    exec (.resolve c) s = .next (s.freezeSender c 0x15 v 5 (some c.arg0.toNat)) := by
  have hblk : s.readBlock x c.arg2.toNat = .outside := by
    rw [State.readBlock, h.own, hown]
    rfl
  have hrun : exec (.resolve c) s = execResolve c s := rfl
  rw [hrun, execResolve, h.runs _ (by decide) (by decide)]
  dsimp only
  rw [harg]
  dsimp only
  rw [if_pos rfl, hblk, h.own]

theorem exec_resolve_subst {d0 d1 : Option (Word64 × Bool × Bool)} (hrec : s.openRec c.arg0.toNat x i = some r)
    (hown : s.owns v c.arg2.toNat 64 = true) (h0 : s.readMem c.arg2.toNat 32 = halfBytes d0)
    (h1 : s.readMem (c.arg2.toNat + 32) 32 = halfBytes d1) (hclean : s.poisoned c.arg2.toNat = false) :
    exec (.resolve c) s = .next (s.doResolve c c.arg0.toNat r
      { form := .subst, sub0 := scalarSub d0, sub1 := scalarSub d1, flags := fl, nowatch := nw, home := r.cell } false) := by
  have hbad (d : Option (Word64 × Bool × Bool)) : (scalarHalf d == .badTile) = false := by
    rcases d with _ | ⟨u, p, e⟩ <;> rfl
  have hblk : s.readBlock x c.arg2.toNat = .ok (scalarHalf d0) (scalarHalf d1) := by
    rw [State.readBlock, h.own, hown, h0, h1, parseHalf_halfBytes, parseHalf_halfBytes]
    rcases d0 with _ | ⟨u, p, e⟩ <;> rcases d1 with _ | ⟨u', p', e'⟩ <;> rfl
  have hrun : exec (.resolve c) s = execResolve c s := rfl
  rw [hrun, execResolve, h.runs _ (by decide) (by decide)]
  dsimp only
  rw [harg]
  dsimp only
  rw [if_pos rfl, hblk]
  dsimp only
  rw [hrec]
  dsimp only
  rw [hclean, Bool.and_false, State.halfVal_scalarHalf, State.halfVal_scalarHalf, hbad, hbad]
  rfl

end

end

/-! ### The token that follows an entry (R457) -/

section
variable {s : State} {p : Post}

theorem State.writeEntries_Changes (fn : Fn) (p : Post) (k : Nat) (l : List Word64) (s : State) :
    ∃ m w, s.writeEntries fn p k l = { s with mem := m, windows := w } := by
  induction l generalizing s k with
  | nil => exact ⟨s.mem, s.windows, rfl⟩
  | cons v l ih =>
    obtain ⟨m, w, h⟩ := ih (k + 1) _
    exact ⟨m, w, h⟩

/-- The flight of a completion's token. -/
def State.completionFlight (s : State) (x : Ctx) (a : Nat) (e : Dest) (tag : Tag) (id : BitVec 32) : Flight :=
  { toks := [s.token (x.injector a) tag (.scalar (id.zeroExtend 64) false false) e.cell.toNat e.slot.toNat (portOf e.port)]
    tile := none, left := 0, line := none, xfer := none }

theorem State.completionToken_sends {a : Nat} {e : Dest} {tag : Tag} {x : Ctx} (ht : p.token = some (a, e, tag)) (hx : s.ctx a = some x)
    (hm : e.mode = .fixed) : s.completionToken p = { s with net := s.net ++ [s.completionFlight x a e tag p.id] } := by
  have hnear : ∀ d ∈ [e], d.mode ≠ .remote := by
    intro d hd
    rw [List.mem_singleton.mp hd, hm]
    nofun
  simp only [State.completionToken, ht, hx, State.send, State.sendFar_near hnear, State.tokensTo]
  simp [hm, State.sendTokens, cellsOf, State.launchFlight, State.token, destTarget, State.completionFlight]

theorem State.flushPosts_one (hp : s.posts = [p]) (hlive : s.pageLive p.fn = true) (hready : s.postReady [] p = true) :
    s.flushPosts = { (s.writeEntries p.fn p 0 p.values).completionToken p with posts := [] } := by
  rw [State.flushPosts, hp, State.flushFrom, hlive, hready]
  rfl

end

/-- Settles O49: every command is checked alike; at its turn each does what its own lemma says, and the token follows the entry. -/
theorem contextCommands : Obligations.ContextCommands := by
  unfold Obligations.ContextCommands
  refine ⟨?commands, ?cdest, ?token⟩
  case commands =>
    intro s c v d x hfn hd hf hboot hnear a hx hv hlost hdry first
    have hserves : s.Serves c v x := ⟨hnear, State.awake hfn hd hf hboot, hx, hv, hlost, hdry⟩
    refine ⟨fun code i hw hi => ?waits, fun hfirst => ?launch, fun hfirst => ?turn⟩
    case waits =>
      obtain ⟨act, hrun⟩ := exec_namingCtx hi (s := s)
      exact hrun.trans (congrArg _ (hserves.waits act hw))
    case launch => exact congrArg Host.Outcome.next (hserves.runs _ hfirst (by decide))
    case turn =>
      intro arg ends
      have h : s.AtTurn c v x := ⟨hserves, hfirst⟩
      refine ⟨exec_preempt_starts h, exec_tlbInval_drops h,
        fun n i hi => ⟨exec_tlbInvalComplete_waits hi, exec_tlbInvalComplete_ends hi⟩, exec_killfr_malformed h, fun h1 h2 => ?killfr,
        exec_brkset_malformed h, exec_brkset_sends h, fun hbad => ?_, fun hok => ?_, fun m body q hm hbody hq => ?quote, ⟨fun hbad => ?_, fun h1 h2 => ?_⟩,
        ⟨exec_exportGranules_malformed h, exec_exportGranules_grants h, exec_exportGranules_withdraws h⟩, exec_resolve_malformed h,
        fun i form nw fl harg hform hrec => exec_resolve_closed h harg hform hrec, fun i nw fl r hrec => ?resolve⟩
      case killfr =>
        have hform : ¬ (2 ^ 20 ≤ arg ∨ x.pool.nframes ≤ arg % 4096) := by omega
        exact ⟨fun hhit => exec_killfr_hit h hform hhit.1 hhit.2, exec_killfr_miss h hform⟩
      · exact (exec_sillage h).trans (congrArg _ (if_neg (by rw [hbad]; nofun)))
      · exact (exec_sillage h).trans (congrArg _ (if_pos hok))
      case quote =>
        subst hm hbody hq
        exact ⟨fun hown => (exec_quote h).trans (congrArg _ (if_neg (by rw [hown]; nofun))),
          fun hown => (exec_quote h).trans (congrArg _ (if_pos hown))⟩
      · exact (exec_pair h).trans (congrArg _ (if_pos hbad))
      · exact (exec_pair h).trans (congrArg _ (if_neg (not_or.mpr ⟨Nat.not_le.mpr h1, by rw [h2]; nofun⟩)))
      case resolve =>
        intro closed plain
        refine ⟨fun harg hop => ?skip, ?rest⟩
        case skip =>
          have hst : s.resolveStatus a r (plainResolve .skip nw 0 r) = 0 := State.resolveStatus_skip rfl
          refine (exec_resolve_plain h harg hrec nofun).trans (congrArg _ ?_)
          rw [State.doResolve_applies (d0 := none) (d1 := none) hst rfl rfl, State.applyForm_skip hop rfl]
          rfl
        intro args again
        refine ⟨fun harg => ?redo, ?subst⟩
        case redo =>
          refine ⟨fun hk => ?_, fun ⟨hk, hop, hc⟩ hargs => ?_⟩
          · have hst : s.resolveStatus a r (plainResolve .redo nw 0 r) = 2 := State.resolveStatus_context hk nofun
            exact (exec_resolve_plain h harg hrec nofun).trans (congrArg _ (State.doResolve_status hst))
          · have hst : s.resolveStatus a r (plainResolve .redo nw 0 r) = 0 := State.resolveStatus_plain hk nofun
            have hform : s.applyForm a r (plainResolve .redo nw 0 r) = s.reform a r nw := State.applyForm_redo hop rfl hc
            have hreform : s.reform a r nw = s.modCell r.cell fun k => { k with sets := k.sets ++ [again k.nextSid], nextSid := k.nextSid + 1 } :=
              if_neg (by simpa using hargs)
            refine (exec_resolve_plain h harg hrec nofun).trans (congrArg _ ?_)
            rw [State.doResolve_applies (d0 := none) (d1 := none) hst rfl rfl, hform, hreform]
            rfl
        case subst =>
          intro harg ⟨hk, hop, hc⟩ opc w d0 d1 hword hs pa half sent fits
          have hhalf (d : Option (Word64 × Bool × Bool)) : half d = halfBytes d := by rcases d with _ | ⟨u, p, e⟩ <;> rfl
          have hsent (t : State) (side : Bool) (d : Option (Word64 × Bool × Bool)) : sent t side d = t.sendScalar a r w side d := by
            rcases d with _ | ⟨u, p, e⟩ <;> rfl
          have hfits (k : Nat) (d : Option (Word64 × Bool × Bool)) : subFits (s.outKinds a r) k (scalarSub d) = true ↔ fits k d := by
            rcases d with _ | ⟨u, p, e⟩ <;> simp [subFits, scalarSub, fits, Val.isTile]
          refine ⟨fun hown => ?_, fun hown h0 h1 hclean => ?_⟩
          · rw [exec_resolve_outside h harg hown, hserves.near.freezeSender hfn]
          · have hrun := exec_resolve_subst h harg hrec hown (h0.trans (hhalf d0)) (h1.trans (hhalf d1)) hclean
            have hst := State.resolveStatus_fits (q := { form := .subst, sub0 := scalarSub d0, sub1 := scalarSub d1, flags := fl, nowatch := nw, home := r.cell })
              hk rfl hc hop (Or.inl hs)
            have hboth : (subFits (s.outKinds a r) 0 (scalarSub d0) && subFits (s.outKinds a r) 1 (scalarSub d1)) = true ↔ fits 0 d0 ∧ fits 1 d1 := by
              rw [Bool.and_eq_true, hfits, hfits]
            refine ⟨fun hfit0 hfit1 => hrun.trans (congrArg _ ?_), fun hmisfit => hrun.trans (congrArg _ ?_)⟩
            · rw [State.doResolve_applies (hst.trans (if_pos (hboth.mpr ⟨hfit0, hfit1⟩))) rfl rfl, State.applyForm_subst hop rfl hword hs rfl rfl rfl, hsent, hsent]
              rfl
            · exact State.doResolve_status (hst.trans (if_neg (mt hboth.mp hmisfit)))
  case cdest =>
    intro s c v d e hfn hd hf hboot he p hp mute told
    have hawake : s.Awake c v := State.awake hfn hd hf hboot
    obtain ⟨act, hrun⟩ := exec_anyCommand hp (s := s)
    refine ⟨fun y hy hv => hrun.trans (congrArg _ (State.anyCommand_foreign hawake he hy hv act)),
      fun hv hbad => hrun.trans (congrArg _ (State.anyCommand_malformed hawake hv ?_ act))⟩
    rw [State.cdestOk_some he]
    rcases hbad with hbad | hbad | ⟨ha, hb⟩
    · simp [hbad]
    · simp [hbad]
    · simp [ha, hb]
  case token =>
    intro s p x a e tag hposts ht hdone hwaits hlive hroom hx hm
    have hready : s.postReady [] p = true := by simp [State.postReady, hdone, hwaits, hroom]
    obtain ⟨m, w, hentries⟩ := State.writeEntries_Changes p.fn p 0 p.values s
    have hflush := State.flushPosts_one hposts hlive hready
    rw [hentries, State.completionToken_sends (s := { s with mem := m, windows := w }) ht hx hm] at hflush
    rw [hflush]
    exact ⟨rfl, _, rfl, rfl, rfl, rfl, rfl, rfl, rfl, rfl, rfl, rfl⟩

end Sys2Proof.Machine
end

section
namespace Sys2Proof.Machine

/-! ## Events of the device (O51: R472)

A tile on its way from a cell is read there until it has arrived. A spoiled line of that cell poisons its token wherever the
token waits, so at the input of another cell too: that cell changes. -/

/-- A handle of one line, on line 5. -/
def lineFive : Handle :=
  { fmt := .s8, rows := 1, cols := 1, valid := 1, line := 5, poison := 0, eos := false, disc := false, seq := 0 }

/-- Its tile, crossing from cell 0, waits for lines at the input of cell 1. -/
def waitingTile : Held :=
  { flight := { toks := [{ (default : Token) with payload := lineFive.word, isTile := true, cell := 1 }], tile := some [0], left := 1
                line := none, xfer := some 0 }
    why := .space }

def crossingTile : State :=
  { State.reset with
    cells := [(1, { Cell.scrubbed with input := [waitingTile] })]
    xfers := [{ id := 0, cell := 0, line := 5 }] }

/-- The token at the input of cell 1 is spoiled by line 5 of cell 0. -/
theorem spoilLine_changes_other_cell :
    ((crossingTile.spoilLine 0 5).cell 1).input.map (fun q => q.flight.toks.map Token.payload) =
      [[Handle.word { lineFive with poison := poisonAll 1 }]] := by decide

/-- Refutes O51: an uncorrectable error on a line of the tile store of cell 0 changes cell 1, at whose input a tile waits that is
still read from that line. -/
theorem not_deviceEvents : ¬ Obligations.DeviceEvents := by
  unfold Obligations.DeviceEvents
  intro h
  obtain ⟨-, -, -, -, -, -, -, -, -, -, -, -, -, hline, -⟩ := h crossingTile
  obtain ⟨t, hrun, -, hkeep⟩ := hline 0 5
  have hspoil : exec (.uncorrectableError (.tileLine 0 5)) crossingTile = .next (crossingTile.spoilLine 0 5) := rfl
  obtain rfl : crossingTile.spoilLine 0 5 = t := Host.Outcome.next.inj (hspoil.symm.trans hrun)
  have hchanged := spoilLine_changes_other_cell
  rw [hkeep 1 (by decide)] at hchanged
  exact absurd hchanged (by decide)

end Sys2Proof.Machine
end

section
namespace Sys2Proof.Machine

/-! ## XOP and the banks of routines (O37: R252, R253, R269, R272 to R274) -/

/-! ### What a look at a binding leaves -/

section
variable (s : State) (a n c l : Nat)

theorem State.noteBinding_MemOnly : s.MemOnly (s.noteBinding a n c l) := by
  unfold State.noteBinding
  split
  · exact .refl s
  · split
    · exact .refl s
    · exact s.logArea_Changes ..

theorem State.noteBinding_cell (k : Nat) : (s.noteBinding a n c l).cell k = s.cell k := by
  obtain ⟨m, h⟩ := s.noteBinding_MemOnly a n c l
  rw [h]
  rfl

theorem State.noteBinding_owns (v pa k : Nat) : (s.noteBinding a n c l).owns v pa k = s.owns v pa k := by
  obtain ⟨m, h⟩ := s.noteBinding_MemOnly a n c l
  rw [h]
  rfl

end

/-! ### The waiting set that formed first (R274) -/

/-- Of a set and the next one, the one that formed first. -/
def earlierLoad (b : Option (FSet × Nat)) (x : FSet × Nat) : Option (FSet × Nat) :=
  match b with
  | some y => if decide (x.1.age < y.1.age) then some x else some y
  | none => some x

/-- The set is no younger than the one there was, if any, and than the next. -/
theorem earlierLoad_some (b : Option (FSet × Nat)) (x : FSet × Nat) :
    ∃ p, earlierLoad b x = some p ∧ (∀ y ∈ b, p.1.age ≤ y.1.age) ∧ p.1.age ≤ x.1.age := by
  cases b with
  | none => exact ⟨x, rfl, nofun, le_refl _⟩
  | some y =>
    by_cases h : x.1.age < y.1.age
    · exact ⟨x, if_pos (decide_eq_true h), fun z hz => by cases hz; exact h.le, le_refl _⟩
    · exact ⟨y, if_neg (by rw [decide_eq_true_iff]; exact h), fun z hz => by cases hz; exact le_refl _, not_lt.mp h⟩

theorem foldl_earlierLoad {l : List (FSet × Nat)} {b : Option (FSet × Nat)} {q : FSet × Nat} (h : l.foldl earlierLoad b = some q) :
    (∀ y ∈ b, q.1.age ≤ y.1.age) ∧ ∀ y ∈ l, q.1.age ≤ y.1.age := by
  induction l generalizing b with
  | nil => exact ⟨fun y hy => by cases hy.symm.trans h; exact le_refl _, nofun⟩
  | cons x l ih =>
    obtain ⟨p, hp, hb, hx⟩ := earlierLoad_some b x
    obtain ⟨hfirst, hrest⟩ := ih h
    have hqp : q.1.age ≤ p.1.age := hfirst p hp
    refine ⟨fun y hy => hqp.trans (hb y hy), fun y hy => ?_⟩
    rcases List.mem_cons.mp hy with rfl | hy
    · exact hqp.trans hx
    · exact hrest y hy

theorem State.firstLoad_first {s : State} {c : Nat} {q : FSet} {m : Nat} (h : s.firstLoad c = some (q, m)) :
    ∀ y ∈ (s.cell c).sets, (s.wantsBank c y).isSome = true → ¬ y.age < q.age := by
  intro y hy hw
  obtain ⟨n, hn⟩ := Option.isSome_iff_exists.mp hw
  have hfold : ((s.cell c).sets.filterMap fun f => (s.wantsBank c f).map fun n => (f, n)).foldl earlierLoad none = some (q, m) := h
  exact not_lt.mpr ((foldl_earlierLoad hfold).2 (y, n) (List.mem_filterMap.mpr ⟨y, hy, by rw [hn]; rfl⟩))

/-! ### The bank that a waiting set takes -/

section
variable {c : Cell} {q : FSet} {m : Nat}

/-- A bank to be loaded with a routine for a set. -/
def FSet.bank (q : FSet) (m : Nat) : Bank := { asid := q.asid, xop := m, words := [], pin := some q.sid, st := .loading, slot := q.slot }

theorem Cell.takeBank_free (h : c.banks.length < 16) : c.takeBank q m = some { c with banks := c.banks ++ [q.bank m] } := if_pos h

theorem Cell.takeBank_victim {v : Bank} (h : 16 ≤ c.banks.length)
    (hv : c.banks.find? (fun y => y.st != .loading && !c.pinned y) = some v) :
    c.takeBank q m = some { c with banks := (c.banks.filter fun y => y != v) ++ [q.bank m] } := by
  rw [Cell.takeBank, if_neg (Nat.not_lt.mpr h), hv]
  rfl

theorem Cell.takeBank_none (h : 16 ≤ c.banks.length) (hb : ∀ y ∈ c.banks, y.st = .loading ∨ c.pinned y = true) :
    c.takeBank q m = none := by
  have hv : c.banks.find? (fun y => y.st != .loading && !c.pinned y) = none := by
    refine List.find?_eq_none.mpr fun y hy => ?_
    rcases hb y hy with h | h <;> simp [h]
  rw [Cell.takeBank, if_neg (Nat.not_lt.mpr h), hv]

end

/-! ### XOP -/

section
variable {n : BitVec 6} {w : OpFields} {s : State} {f : Firing} (hsel : s.sel = some f)
include hsel

theorem exec_xop_unbound (hb : s.binding f.asid n.toNat = none) :
    exec (.xop n w) s = .next ((s.noteBinding f.asid n.toNat f.cell f.slot).raise f tILLEGAL_OP) := by
  have hrun : exec (.xop n w) s = execXop n w s := rfl
  rw [hrun, execXop, runFiring_selected _ hsel, hb]

section
variable {b : Binding} (hb : s.binding f.asid n.toNat = some b)
include hb

theorem exec_xop_notAdmitted (h : b.admits w = false) :
    exec (.xop n w) s = .next ((s.noteBinding f.asid n.toNat f.cell f.slot).raise f tILLEGAL_OP) := by
  have hrun : exec (.xop n w) s = execXop n w s := rfl
  rw [hrun, execXop, runFiring_selected _ hsel, hb]
  exact congrArg _ (if_pos (by rw [h]; rfl))

variable (hadmits : b.admits w = true)
include hadmits

/-- Without its routine, a bank is taken for the first of the waiting sets. -/
theorem exec_xop_asks (hnone : (s.cell f.cell).bankOf f.asid n.toNat = none) {q : FSet} {m : Nat} (hfirst : s.firstLoad f.cell = some (q, m))
    {r : Option Cell} (hr : (s.cell f.cell).takeBank q m = r) :
    exec (.xop n w) s = .next (r.elim s (s.setCell f.cell)) := by
  have hrun : exec (.xop n w) s = execXop n w s := rfl
  rw [hrun, execXop, runFiring_selected _ hsel, hb]
  refine congrArg _ ((if_neg (by rw [hadmits]; nofun)).trans ?_)
  rw [hnone, hfirst]
  dsimp only [Option.bind_some]
  rw [hr]
  cases r <;> rfl

section
variable {k : Bank} (hk : (s.cell f.cell).bankOf f.asid n.toNat = some k)
include hk

theorem exec_xop_loading (hst : k.st = .loading) : exec (.xop n w) s = .next s := by
  have hrun : exec (.xop n w) s = execXop n w s := rfl
  rw [hrun, execXop, runFiring_selected _ hsel, hb]
  refine congrArg _ ((if_neg (by rw [hadmits]; nofun)).trans ?_)
  rw [hk]
  dsimp only
  rw [hst]

theorem exec_xop_failed (hst : k.st = .failed) : exec (.xop n w) s = .next
    (((s.noteBinding f.asid n.toNat f.cell f.slot).modCell f.cell fun c => c.dropBank f.asid n.toNat).raise f (trapOf 0x13 3)) := by
  have hrun : exec (.xop n w) s = execXop n w s := rfl
  rw [hrun, execXop, runFiring_selected _ hsel, hb]
  refine congrArg _ ((if_neg (by rw [hadmits]; nofun)).trans ?_)
  rw [hk]
  dsimp only
  rw [hst]
  rfl

/-- A firing that ends has started: what it leaves stands. -/
theorem exec_xop_resident (hst : k.st = .resident) {t : State} (ht : (s.noteBinding f.asid n.toNat f.cell f.slot).runXop f b k w = t)
    (hend : t.sel = none) : exec (.xop n w) s = .next t := by
  have hrun : exec (.xop n w) s = execXop n w s := rfl
  rw [hrun, execXop, runFiring_selected _ hsel, hb]
  refine congrArg _ ((if_neg (by rw [hadmits]; nofun)).trans ?_)
  rw [hk]
  dsimp only
  rw [hst]
  dsimp only
  rw [ht, hend]
  rfl

end

end

end

/-! ### The run of a resident routine -/

section
variable {s : State} {f : Firing} {b : Binding} {k : Bank} {w : OpFields}

/-- The bank counts as started by the set. -/
def State.bankUsed (s : State) (f : Firing) (k : Bank) : State := s.modCell f.cell fun c => c.startBank k f.sid

theorem Cell.startBank_eq (c : Cell) (sid : Nat) : c.startBank k sid =
    { c with banks := c.banks.filter (fun y => !(y.asid == k.asid && y.xop == k.xop)) ++
      [{ k with pin := if k.pin = some sid then none else k.pin }] } := by
  by_cases h : k.pin = some sid <;> simp [Cell.startBank, Cell.dropBank, h]

theorem State.runXop_traps {t : Trap} (h : evalXop b k.words w s f (s.env f) = .error t)
    (hneed : t.need = [] ∨ (needLines f t.need ≤ 2048 ∧ (s.cell f.cell).canReserve f.sid t.need = true)) :
    s.runXop f b k w = (s.raise f { t with need := [] }).bankUsed f k := by
  have hfail : s.fail f t = s.raise f { t with need := [] } := by
    rcases hneed with hnone | ⟨hlines, hfree⟩
    · rw [State.fail_bare hnone, ← hnone]
    · exact State.fail_reserved hlines hfree
  simp only [State.runXop, h, hfail]
  rfl

theorem State.runXop_commits {c : Commit} {cell1 : Cell} {placed : List Out} (h : evalXop b k.words w s f (s.env f) = .ok (c, none))
    (hfits : s.Fits f c.outs cell1 placed) : s.runXop f b k w = (s.committed f cell1 placed c.flags id).bankUsed f k := by
  simp only [State.runXop, h, State.commit_fits hfits]
  rfl

theorem State.runXop_writes {c : Commit} {cell1 : Cell} {placed : List Out} {i : Nat} {a : Acc}
    (h : evalXop b k.words w s f (s.env f) = .ok (c, some (i, a))) (hfits : s.Fits f c.outs cell1 placed) :
    s.runXop f b k w = (s.committed f cell1 placed c.flags fun st => st.setAccAt f i a).bankUsed f k := by
  simp only [State.runXop, h, State.commitWith_fits _ hfits]
  rfl

end

/-! ### ATTAR_BANK_LOAD (R273) -/

section
variable {s : State} {c i : Nat} {b : Bank} {x : Ctx} {e : Binding} (hb : ((s.cell c).banks.filter fun y => y.st == .loading)[i]? = some b)
  (hx : s.ctx b.asid = some x) (he : s.binding b.asid b.xop = some e)
include hb hx he

theorem exec_attarBankLoad_short (h : x.cr.attarsize < 5120 + e.off + 8 * e.len) : exec (.attarBankLoad c i) s =
    .next ((s.noteBinding b.asid b.xop c b.slot).modCell c fun z => z.setBank { b with st := .failed }) := by
  have hrun : exec (.attarBankLoad c i) s = execAttarBankLoad c i s := rfl
  rw [hrun, execAttarBankLoad, bankLoaded, hb]
  dsimp only
  rw [hx, he]
  exact congrArg _ (if_pos h)

section
variable (hlen : 5120 + e.off + 8 * e.len ≤ x.cr.attarsize)
include hlen

section
variable (hown : s.owns x.cr.vdev (x.cr.attarbase + 5120 + e.off) (8 * e.len) = false)
include hown

theorem exec_attarBankLoad_freezes (hset : ∀ sid ∈ b.pin, (s.cell c).findSet sid = none) : exec (.attarBankLoad c i) s =
    .next (((s.noteBinding b.asid b.xop c b.slot).freeze
      { cause := 4, vdev := x.cr.vdev, asid := some b.asid, cell := c, slot := b.slot, tag := 0, addr := 0 }).modCell c fun z =>
        z.setBank { b with st := .failed }) := by
  have hnone : b.pin.bind (s.cell c).findSet = none := Option.bind_eq_none_iff.mpr hset
  have hrun : exec (.attarBankLoad c i) s = execAttarBankLoad c i s := rfl
  rw [hrun, execAttarBankLoad, bankLoaded, hb]
  dsimp only
  rw [hx, he]
  dsimp only
  rw [if_neg (Nat.not_lt.mpr hlen), State.noteBinding_owns, hown, State.noteBinding_cell, hnone]
  rfl

/-- The firing that needed the routine is the offending one. -/
theorem exec_attarBankLoad_raises {sid : Nat} {q : FSet} (hpin : b.pin = some sid) (hset : (s.cell c).findSet sid = some q) :
    exec (.attarBankLoad c i) s = .next (((s.noteBinding b.asid b.xop c b.slot).modCell c fun z => z.dropBank b.asid b.xop).raiseCause
      ((s.noteBinding b.asid b.xop c b.slot).firingOf c q).1 4 0) := by
  have hrun : exec (.attarBankLoad c i) s = execAttarBankLoad c i s := rfl
  rw [hrun, execAttarBankLoad, bankLoaded, hb]
  dsimp only
  rw [hx, he]
  dsimp only
  rw [if_neg (Nat.not_lt.mpr hlen), State.noteBinding_owns, hown, State.noteBinding_cell, hpin, Option.bind_some, hset]
  rfl

end

/-- The routine as the load reads it, after its binding entry. -/
abbrev State.routine (s : State) (x : Ctx) (e : Binding) : List Byte := s.readMem (x.cr.attarbase + 5120 + e.off) (8 * e.len)
abbrev routineWords (e : Binding) (d : List Byte) : List (BitVec 64) := (chunks 8 e.len d).map fun y => BitVec.ofNat 64 (leNat y)

/-- The routine is the one its entry measures, and passes the check. -/
def routineOk (x : Ctx) (e : Binding) (d : List Byte) : Prop :=
  sha384 d = e.meas ∧ attarCheck e (routineWords e d) (x.par.caps.getLsbD 0) = true

variable (hown : s.owns x.cr.vdev (x.cr.attarbase + 5120 + e.off) (8 * e.len) = true)
include hown

theorem exec_attarBankLoad_resident (hok : routineOk x e ((s.noteBinding b.asid b.xop c b.slot).routine x e)) :
    exec (.attarBankLoad c i) s = .next ((((s.noteBinding b.asid b.xop c b.slot).logArea b.asid (x.cr.attarbase + 5120 + e.off)
      (8 * e.len) c b.slot).measure b.asid e.meas).modCell c fun z =>
        z.setBank { b with st := .resident, words := routineWords e ((s.noteBinding b.asid b.xop c b.slot).routine x e) }) := by
  have hrun : exec (.attarBankLoad c i) s = execAttarBankLoad c i s := rfl
  rw [hrun, execAttarBankLoad, bankLoaded, hb]
  dsimp only
  rw [hx, he]
  dsimp only
  rw [if_neg (Nat.not_lt.mpr hlen), State.noteBinding_owns, hown]
  exact congrArg _ ((if_neg nofun).trans (if_pos (by rw [hok.1, hok.2, beq_self_eq_true]; rfl)))

theorem exec_attarBankLoad_refused (hbad : ¬ routineOk x e ((s.noteBinding b.asid b.xop c b.slot).routine x e)) :
    exec (.attarBankLoad c i) s = .next (((s.noteBinding b.asid b.xop c b.slot).logArea b.asid (x.cr.attarbase + 5120 + e.off)
      (8 * e.len) c b.slot).modCell c fun z => z.setBank { b with st := .failed }) := by
  have hrun : exec (.attarBankLoad c i) s = execAttarBankLoad c i s := rfl
  rw [hrun, execAttarBankLoad, bankLoaded, hb]
  dsimp only
  rw [hx, he]
  dsimp only
  rw [if_neg (Nat.not_lt.mpr hlen), State.noteBinding_owns, hown]
  refine congrArg _ ((if_neg nofun).trans (if_neg ?_))
  rw [Bool.and_eq_true, beq_iff_eq]
  exact hbad

end

end

/-- Settles O37: XOP by the state of its routine's bank, and the load of a bank by what it reads. -/
theorem attarsRun : Obligations.AttarsRun := by
  unfold Obligations.AttarsRun
  refine ⟨?xop, ?load⟩
  case xop =>
    intro n w s f hsel s0
    refine ⟨exec_xop_unbound hsel, fun b hb => ⟨exec_xop_notAdmitted hsel hb, fun hadmits hnone q m hfirst => ?asks, fun k hadmits hk => ?bank⟩⟩
    case asks =>
      intro bank banks load
      have hrun {r : Option Cell} (hr : (s.cell f.cell).takeBank q m = r) := exec_xop_asks hsel hb hadmits hnone hfirst hr
      exact ⟨State.firstLoad_first hfirst, fun h => hrun (Cell.takeBank_free h), fun v h hv => hrun (Cell.takeBank_victim h hv),
        fun h hall => hrun (Cell.takeBank_none h hall)⟩
    case bank =>
      refine ⟨exec_xop_loading hsel hb hadmits hk, exec_xop_failed hsel hb hadmits hk, fun hst => ?_⟩
      intro ran used
      have hused (t : State) : t.bankUsed f k = used t := congrArg (t.modCell f.cell) (funext fun c => c.startBank_eq f.sid)
      have hends {t : State} (ht : s0.runXop f b k w = t.bankUsed f k) (hend : t.sel = none) : exec (.xop n w) s = .next (used t) := by
        rw [← hused]
        exact exec_xop_resident hsel hb hadmits hk hst ht ((State.modCell_sel ..).trans hend)
      exact ⟨fun t ht hneed => hends (State.runXop_traps ht hneed) rfl,
        fun outs fl cell1 placed h hfits => hends (State.runXop_commits (c := ⟨outs, fl⟩) h hfits) rfl,
        fun outs fl cell1 placed i a h hfits => hends (State.runXop_writes (c := ⟨outs, fl⟩) h hfits) rfl⟩
  case load =>
    intro s c i b x e hb hx he pa noted data raw good ends
    exact ⟨exec_attarBankLoad_short hb hx he, exec_attarBankLoad_freezes hb hx he, exec_attarBankLoad_resident hb hx he,
      exec_attarBankLoad_refused hb hx he, fun sid q hlen hown hpin hset => exec_attarBankLoad_raises hb hx he hlen hown hpin hset⟩

end Sys2Proof.Machine
end

section
namespace Sys2Proof.Machine

/-! ## What a lane operation leaves (O38: R256 to R268) -/

/-! ### Lanes and their integers -/

section
variable {r : Run} {g : Reg} {l x : Nat}

theorem Run.lane_lt (r : Run) (g : Reg) (l : Nat) : r.lane g l < 2 ^ 32 := by
  unfold Run.lane
  split
  · exact BitVec.isLt _
  · exact BitVec.isLt _
  · decide

/-- A number of a lane as its word. -/
theorem ofNat_wrapNat (w : Nat) (x : Int) : BitVec.ofNat w (wrapNat w x) = BitVec.ofInt w x := by
  apply BitVec.eq_of_toNat_eq
  rw [BitVec.toNat_ofNat, BitVec.toNat_ofInt, wrapNat, Nat.mod_eq_of_lt]
  have := Int.emod_lt_of_pos x (b := (2 ^ w : Nat)) (by positivity)
  have := Int.emod_nonneg x (b := (2 ^ w : Nat)) (by positivity)
  omega

theorem wrapNat_wrapInt (fmt : Fmt) (x : Int) : wrapNat (width fmt) (wrapInt fmt x) = wrapNat (width fmt) x := by
  have h : wrapInt fmt x % (2 ^ width fmt : Nat) = x % (2 ^ width fmt : Nat) :=
    (Int.emod_eq_emod_iff_emod_sub_eq_zero.mpr (Int.emod_eq_zero_of_dvd (wrap_cong fmt x))).symm
  rw [wrapNat, h, wrapNat]

/-- What fit leaves, in the bits of its format. -/
theorem fitted_eq (fmt : Fmt) (sat : Bool) (x : Int) :
    fitted fmt sat x = (wrapNat (width fmt) (fitPlain x fmt sat).1, (fitPlain x fmt sat).2) := by
  by_cases hin : intLo fmt ≤ x ∧ x ≤ intHi fmt
  · rw [fitted, if_pos (Or.inl hin), fitPlain, if_pos (inRange_iff.mpr hin), wrapNat]
  · have hout : ¬ inRange fmt x = true := mt inRange_iff.mp hin
    rw [fitPlain, if_neg hout]
    cases sat with
    | false =>
      rw [fitted, if_pos (Or.inr rfl), if_neg nofun, wrapNat_wrapInt]
      rfl
    | true =>
      rw [fitted, if_neg (by rintro (h | h); exacts [hin h, nomatch h]), if_pos rfl]
      rfl

theorem laneFit_eq {fmt : Fmt} (hw : width fmt = 32) (sat : Bool) (x : Int) : laneFit fmt sat x = fitted fmt sat x := by
  rw [fitted_eq, laneFit, hw]

/-- An integer in range is kept whole. -/
theorem fitted_readInt {fmt : Fmt} (hx : x < 2 ^ width fmt) (sat : Bool) : fitted fmt sat (readInt fmt x) = (x, 0) := by
  have hrange := readInt_range fmt x
  have hsint : (readInt fmt x % (2 ^ width fmt : Nat)).toNat = x := by
    have hpos : (0 : Int) < (2 ^ width fmt : Nat) := by positivity
    unfold readInt sint
    rw [Nat.mod_eq_of_lt hx]
    split
    · dsimp only
      split
      · rw [Int.emod_eq_of_lt (by omega) (by omega), Int.toNat_natCast]
      · rw [Int.sub_emod_right, Int.emod_eq_of_lt (by omega) (by omega), Int.toNat_natCast]
    · rw [Int.emod_eq_of_lt (by omega) (by omega), Int.toNat_natCast]
  rw [fitted, if_pos (Or.inl hrange), hsint]

end

/-! ### What every lane raises -/

theorem zipIdx_map_range {α : Type} (f : Nat → α) (n : Nat) : ((List.range n).map f).zipIdx = (List.range n).map fun l => (f l, l) := by
  refine List.ext_getElem (by simp) fun i h1 h2 => ?_
  simp

/-- The flags of lanes, each with its number. -/
theorem mem_raised {α : Type} {f : Nat → α × Flags} {n l : Nat} {fl : Flags} :
    (l, fl) ∈ ((List.range n).map f).zipIdx.filterMap (fun p => if p.1.2 = 0 then none else some (p.2, p.1.2)) ↔
      l < n ∧ fl = (f l).2 ∧ fl ≠ 0 := by
  rw [zipIdx_map_range, List.mem_filterMap]
  constructor
  · rintro ⟨p, hp, hsome⟩
    obtain ⟨k, hk, rfl⟩ := List.mem_map.mp hp
    by_cases h0 : (f k).2 = 0
    · rw [if_pos h0] at hsome
      cases hsome
    · rw [if_neg h0] at hsome
      cases hsome
      exact ⟨List.mem_range.mp hk, rfl, h0⟩
  · rintro ⟨hl, rfl, h0⟩
    exact ⟨(f l, l), List.mem_map.mpr ⟨l, List.mem_range.mpr hl, rfl⟩, if_neg h0⟩

/-- The flags of elements that are listed with their numbers. -/
theorem mem_raisedAt {f : Nat → Nat × Flags} {ls : List Nat} {l : Nat} {fl : Flags} :
    (l, fl) ∈ (ls.map fun k => (k, f k)).filterMap (fun p => if p.2.2 = 0 then none else some (p.1, p.2.2)) ↔
      l ∈ ls ∧ fl = (f l).2 ∧ fl ≠ 0 := by
  rw [List.mem_filterMap]
  constructor
  · rintro ⟨p, hp, hsome⟩
    obtain ⟨k, hk, rfl⟩ := List.mem_map.mp hp
    by_cases h0 : (f k).2 = 0
    · rw [if_pos h0] at hsome
      cases hsome
    · rw [if_neg h0] at hsome
      cases hsome
      exact ⟨hk, rfl, h0⟩
  · rintro ⟨hl, rfl, h0⟩
    exact ⟨(l, f l), List.mem_map.mpr ⟨l, hl, rfl⟩, if_neg h0⟩

/-! ### A micro-operation's registers (R258) -/

section
variable {code entries : Nat} {u : MicroWord} (h : microOk code entries u = true)
include h

theorem microOk_regs : ((mopRegs u.mop).1.has u.dst = true ∧ (mopRegs u.mop).2.1.has u.sa = true ∧ (mopRegs u.mop).2.2.1.has u.sb = true) := by
  simp only [microOk, Bool.and_eq_true] at h
  exact ⟨h.1.1.1.1.1.1.1, h.1.1.1.1.1.1.2, h.1.1.1.1.1.2⟩

theorem microOk_mf : mfOk u = true := by
  simp only [microOk, Bool.and_eq_true] at h
  exact h.1.1.2

theorem microOk_imm : immOk code entries u = true := by
  simp only [microOk, Bool.and_eq_true] at h
  exact h.2

theorem microOk_mov (hm : u.mop = .mmov) : movOk u = true := by
  simp only [microOk, Bool.and_eq_true] at h
  simpa [hm] using h.1.1.1.2

theorem microOk_dst_lanes (hm : (mopRegs u.mop).1 = rsM) : ∃ i, u.dst = .m i := by
  obtain ⟨hd, -, -⟩ := microOk_regs h
  rw [hm] at hd
  cases hdst : u.dst with
  | m i => exact ⟨i, rfl⟩
  | _ => rw [hdst] at hd; cases hd

end

/-! ### Lanes written -/

section
variable {e : RunEnv} {r : Run} {u : MicroWord} {code entries : Nat} (h : microOk code entries u = true)
include h

/-- An operation on each lane writes what it makes of it. -/
theorem writesLanes_of_each {f v : Nat → Nat × Flags} (hm : (mopRegs u.mop).1 = rsM) (hop : microOp e r u = r.each u.dst f)
    (hv : ∀ l < 64, f l = v l) : WritesLanes e r u v := by
  obtain ⟨i, hi⟩ := microOk_dst_lanes h hm
  refine ⟨i, _, hi, hop, rfl, rfl, ?_, fun l fl => ?_⟩
  · rw [hi]
    simp only [Run.putLanes, List.map_map]
    congr 2
    refine List.map_congr_left fun l hl => ?_
    simp only [Function.comp_apply, hv l (List.mem_range.mp hl)]
  · refine mem_raised.trans (and_congr_right fun hl => ?_)
    rw [hv l hl]

omit h in
/-- Lanes copied or chosen raise nothing. -/
theorem writesLanes_of_putLanes {x : Nat → Nat} {i : BitVec 4} (hi : u.dst = .m i)
    (hop : microOp e r u = (r.putLanes (.m i) ((List.range 64).map x)).go) : WritesLanes e r u fun l => (x l, 0) := by
  refine ⟨i, _, hi, hop, rfl, rfl, ?_, fun l fl => ?_⟩
  · simp only [Run.putLanes, List.map_map]
    rfl
  · exact ⟨fun hmem => (nomatch hmem), fun ⟨_, h0, h1⟩ => absurd h0 h1⟩

end

theorem leaves_go {e : RunEnv} {r t : Run} {u : MicroWord} (h : microOp e r u = t.go) : Leaves e r u t := ⟨_, h, rfl, rfl, rfl, rfl⟩

/-! ### Masks -/

theorem maskOf_range (f : Nat → Bool) (n : Nat) :
    (List.range n).foldl (fun a l => if f l then a + 2 ^ l else a) 0 < 2 ^ n ∧
      ∀ l < n, ((List.range n).foldl (fun a l => if f l then a + 2 ^ l else a) 0).testBit l = f l := by
  induction n with
  | zero => exact ⟨Nat.one_pos, nofun⟩
  | succ n ih =>
    obtain ⟨hlt, hbit⟩ := ih
    rw [List.range_succ, List.foldl_append, List.foldl_cons, List.foldl_nil]
    generalize (List.range n).foldl (fun a l => if f l then a + 2 ^ l else a) 0 = m at hlt hbit
    have hnone : m.testBit n = false := Nat.testBit_lt_two_pow hlt
    refine ⟨?_, fun l hl => ?_⟩
    · split <;> omega
    · rcases Nat.lt_succ_iff_lt_or_eq.mp hl with hl | rfl
      · rw [← hbit l hl]
        split
        · rw [Nat.add_comm, Nat.testBit_two_pow_add_gt hl]
        · rfl
      · split
        · next hf => rw [Nat.add_comm, Nat.testBit_two_pow_add_eq, hnone, hf]; rfl
        · next hf => rw [hnone, (Bool.not_eq_true _).mp hf]

/-- A mask has the bit of every lane that its test holds for. -/
theorem getLsbD_maskOf (f : Nat → Bool) {l : Nat} (hl : l < 64) : (BitVec.ofNat 64 (maskOf f)).getLsbD l = f l := by
  rw [BitVec.getLsbD_ofNat, decide_eq_true hl, Bool.true_and]
  exact (maskOf_range f 64).2 l hl

end Sys2Proof.Machine
end

section
namespace Sys2Proof.Machine

/-! ## The lane operations (R260 to R264, R268) -/

/-! ### Numbers of 32 bits -/

theorem sint_eq_toInt (w x : Nat) : sint w x = (BitVec.ofNat w x).toInt := by
  rw [← sint_toNat, BitVec.toNat_ofNat, sint, sint, Nat.mod_mod]

theorem wrapNat_eq_toNat (w : Nat) (x : Int) : wrapNat w x = (BitVec.ofInt w x).toNat := (BitVec.toNat_ofInt ..).symm

theorem wrapNat_sint (w n x : Nat) : wrapNat n (sint w x) = ((BitVec.ofNat w x).signExtend n).toNat := by
  rw [wrapNat_eq_toNat, sint_eq_toInt, BitVec.signExtend]

theorem shiftLeft_word {a : Nat} (ha : a < 2 ^ 32) (n : Nat) : a * 2 ^ n % 2 ^ 32 = (BitVec.ofNat 32 a <<< n).toNat := by
  rw [BitVec.toNat_shiftLeft, BitVec.toNat_ofNat, Nat.mod_eq_of_lt ha, Nat.shiftLeft_eq]

theorem shiftRight_word {a : Nat} (ha : a < 2 ^ 32) (n : Nat) : a / 2 ^ n = (BitVec.ofNat 32 a >>> n).toNat := by
  rw [BitVec.toNat_ushiftRight, BitVec.toNat_ofNat, Nat.mod_eq_of_lt ha, Nat.shiftRight_eq_div_pow]

theorem sshiftRight_word (a n : Nat) :
    wrapNat 32 (readInt .s32 a / (2 ^ n : Nat)) = ((BitVec.ofNat 32 a).sshiftRight n).toNat := by
  have h : readInt .s32 a = (BitVec.ofNat 32 a).toInt := sint_eq_toInt 32 a
  rw [h, wrapNat_eq_toNat, BitVec.sshiftRight, Int.shiftRight_eq_div_pow]

/-- An entry of a table is the low or the high half of its word. -/
theorem half_word (x : BitVec 64) (k : Nat) : x.toNat / (if k % 2 = 0 then 1 else 2 ^ 32) % 2 ^ 32 =
    (if k % 2 = 0 then x.extractLsb' 0 32 else x.extractLsb' 32 32).toNat := by
  split <;> rw [BitVec.extractLsb'_toNat, Nat.shiftRight_eq_div_pow]

/-! ### Formats that MF names -/

theorem mfFmt_some {n : Nat} (h : n ≤ 10) : ∃ f, mfFmt n = some f :=
  ⟨_, List.getElem?_eq_getElem (Nat.lt_succ_of_le h)⟩

theorem mfFmt_ne {n : Nat} {f : Fmt} (h : mfFmt n = some f) : f ≠ .s4 := by
  rintro rfl
  exact absurd (List.mem_of_getElem? h) (by decide)

section
variable {src dst : Fmt} {rm : Rm} {ftz sat : Bool} {rnd x : Nat}

/-- A conversion between formats that are not s4 is by what they hold. -/
theorem convert_eq (hs : src ≠ .s4) (hd : dst ≠ .s4) : convert src dst rm ftz sat rnd x =
    if Enc.Fmt.isInt src then
      if Enc.Fmt.isInt dst then fitted dst sat (readInt src x) else toFloat dst rm ftz rnd (fvOfInt (readInt src x))
    else if Enc.Fmt.isInt dst then
      (wrapNat (width dst) (toInteger dst rm rnd (readF src ftz x)).1, (toInteger dst rm rnd (readF src ftz x)).2)
    else toFloat dst rm ftz rnd (readF src ftz x) := by
  have hs' : (src == .s4) = false := beq_eq_false_iff_ne.mpr hs
  have hd' : (dst == .s4) = false := beq_eq_false_iff_ne.mpr hd
  simp only [convert, hs', hd', Bool.or_false, fitted_eq]

end

/-! ### The operations -/

section
variable {e : RunEnv} {r : Run} {u : MicroWord} {code entries : Nat} (h : microOk code entries u = true)

/-- The operations of R262. -/
def laneMops : List Mop := [.madd, .msub, .mmul, .mfma, .mmin, .mmax, .mabs, .mneg, .mrcp, .mrsq, .mexp2, .mlog2]

theorem microOp_arith {m : Mop} (hm : u.mop = m) (hmem : m ∈ laneMops) : microOp e r u =
    r.each u.dst fun l => laneArith (microRound e r u) { u with mop := m } l (r.lane u.sa l) (r.lane u.sb l) (r.lane u.sc l) := by
  have hu : { u with mop := m } = u := by rw [← hm]
  rw [hu]
  simp only [laneMops, List.mem_cons, List.not_mem_nil, or_false] at hmem
  rcases hmem with rfl | rfl | rfl | rfl | rfl | rfl | rfl | rfl | rfl | rfl | rfl | rfl <;> simp only [microOp, hm]

theorem mopRegs_arith {m : Mop} (hmem : m ∈ laneMops) : (mopRegs m).1 = rsM := by
  simp only [laneMops, List.mem_cons, List.not_mem_nil, or_false] at hmem
  rcases hmem with rfl | rfl | rfl | rfl | rfl | rfl | rfl | rfl | rfl | rfl | rfl | rfl <;> rfl

include h

theorem writesLanes_arith {m : Mop} {v : Nat → Nat × Flags} (hm : u.mop = m) (hmem : m ∈ laneMops)
    (hv : ∀ l < 64, laneArith (microRound e r u) { u with mop := m } l (r.lane u.sa l) (r.lane u.sb l) (r.lane u.sc l) = v l) :
    WritesLanes e r u v :=
  writesLanes_of_each h (by rw [hm]; exact mopRegs_arith hmem) (microOp_arith hm hmem) hv

/-! #### Integers -/

omit h in
/-- The integer format of MF. -/
theorem width_intFmt (b : Prop) [Decidable b] : width (if b then Fmt.s32 else .z32) = 32 := by split <;> rfl

omit h in
theorem min_fitted {fmt : Fmt} (hw : width fmt = 32) {a b : Nat} (ha : a < 2 ^ 32) (hb : b < 2 ^ 32) (sat : Bool) :
    ((if readInt fmt b < readInt fmt a then b else a, 0) : Nat × Flags) = fitted fmt sat (min (readInt fmt a) (readInt fmt b)) := by
  split
  · next hlt => rw [min_eq_right hlt.le, fitted_readInt (by rw [hw]; exact hb)]
  · next hge => rw [min_eq_left (not_lt.mp hge), fitted_readInt (by rw [hw]; exact ha)]

omit h in
theorem max_fitted {fmt : Fmt} (hw : width fmt = 32) {a b : Nat} (ha : a < 2 ^ 32) (hb : b < 2 ^ 32) (sat : Bool) :
    ((if readInt fmt a < readInt fmt b then b else a, 0) : Nat × Flags) = fitted fmt sat (max (readInt fmt a) (readInt fmt b)) := by
  split
  · next hlt => rw [max_eq_right hlt.le, fitted_readInt (by rw [hw]; exact hb)]
  · next hge => rw [max_eq_left (not_lt.mp hge), fitted_readInt (by rw [hw]; exact ha)]

omit h in
theorem negate_word {a : Nat} (ha : a < 2 ^ 32) : (if a < 2 ^ 31 then a + 2 ^ 31 else a - 2 ^ 31) = (a + 2 ^ 31) % 2 ^ 32 := by
  split <;> omega

/-! #### MCVT -/

/-- A result narrower than a lane is extended into it. -/
def laneExtend (dst : Fmt) (y : Nat) : Nat :=
  if dst = .s16 then ((BitVec.ofNat 16 y).signExtend 32).toNat else if dst = .s8 then ((BitVec.ofNat 8 y).signExtend 32).toNat else y

omit h in
theorem laneExtend_eq (dst : Fmt) (y : Nat) :
    (if dst == .s16 || dst == .s8 then wrapNat 32 (sint (width dst) y) else y) = laneExtend dst y := by
  by_cases h16 : dst = .s16
  · subst h16
    exact wrapNat_sint 16 32 y
  · by_cases h8 : dst = .s8
    · subst h8
      exact wrapNat_sint 8 32 y
    · rw [laneExtend, if_neg h16, if_neg h8, beq_eq_false_iff_ne.mpr h16, beq_eq_false_iff_ne.mpr h8]
      rfl

/-- The element that MCVT makes of a lane. -/
def cvtLane (ro : Round) (src dst : Fmt) (l x : Nat) : Nat × Flags :=
  if Enc.Fmt.isInt src then
    if Enc.Fmt.isInt dst then fitted dst ro.ftz (readInt src x) else toFloat dst ro.rm false (ro.rnd l) (fvOfInt (readInt src x))
  else if Enc.Fmt.isInt dst then
    ((((toInteger dst ro.rm (ro.rnd l) (readF src ro.ftz x)).1) % (2 ^ width dst : Nat)).toNat, (toInteger dst ro.rm (ro.rnd l) (readF src ro.ftz x)).2)
  else toFloat dst ro.rm ro.ftz (ro.rnd l) (readF src ro.ftz x)

omit h in
theorem laneCvt_eq {ro : Round} {src dst : Fmt} (hs : mfFmt (u.imm.toNat % 16) = some src) (hd : mfFmt u.mf.toNat = some dst) (l x : Nat) :
    laneCvt ro u l x = (laneExtend dst (cvtLane ro src dst l (x % 2 ^ width src)).1, (cvtLane ro src dst l (x % 2 ^ width src)).2) := by
  have hconv : convert src dst ro.rm (!Enc.Fmt.isInt src && ro.ftz) (!!Enc.Fmt.isInt src && ro.ftz) (ro.rnd l) (x % 2 ^ width src) =
      cvtLane ro src dst l (x % 2 ^ width src) := by
    rw [convert_eq (mfFmt_ne hs) (mfFmt_ne hd), cvtLane]
    cases Enc.Fmt.isInt src <;> rfl
  simp only [laneCvt, hs, hd, hconv, laneExtend_eq]

theorem writesLanes_mcvt (hm : u.mop = .mcvt) : ∃ src dst, mfFmt (u.imm.toNat % 16) = some src ∧ mfFmt u.mf.toNat = some dst ∧
    WritesLanes e r u fun l => (laneExtend dst (cvtLane (microRound e r u) src dst l (r.lane u.sa l % 2 ^ width src)).1,
      (cvtLane (microRound e r u) src dst l (r.lane u.sa l % 2 ^ width src)).2) := by
  have himm : u.imm.toNat ≤ 10 := by simpa [immOk, hm] using microOk_imm h
  have hmf : u.mf.toNat ≤ 10 := by simpa [mfOk, hm] using microOk_mf h
  obtain ⟨src, hs⟩ := mfFmt_some ((Nat.mod_le _ 16).trans himm)
  obtain ⟨dst, hd⟩ := mfFmt_some hmf
  exact ⟨src, dst, hs, hd, writesLanes_of_each h (by rw [hm]; rfl) (f := fun l => laneCvt (microRound e r u) u l (r.lane u.sa l))
    (by simp only [microOp, hm]) fun l _ => laneCvt_eq hs hd l _⟩

/-! #### Shifts and the table -/

/-- By how much MSHL and MSHR shift a lane. -/
def laneShift (r : Run) (u : MicroWord) (l : Nat) : Nat := if u.sb = .z then u.imm.toNat else r.lane u.sb l % 32

theorem laneShift_eq (hm : u.mop = .mshl ∨ u.mop = .mshr) (l : Nat) :
    (if u.sb = .z then u.imm.toNat % 32 else r.lane u.sb l % 32) = laneShift r u l := by
  have himm : u.imm.toNat ≤ if u.sb = .z then 31 else 0 := by
    rcases hm with hm | hm <;> simpa [immOk, hm] using microOk_imm h
  unfold laneShift
  split
  · next hz =>
    rw [if_pos hz] at himm
    exact Nat.mod_eq_of_lt (by omega)
  · rfl

theorem writesLanes_mshl (hm : u.mop = .mshl) :
    WritesLanes e r u fun l => ((BitVec.ofNat 32 (r.lane u.sa l) <<< laneShift r u l).toNat, 0) := by
  refine writesLanes_of_each h (by rw [hm]; rfl) (by simp only [microOp, hm]; rfl) fun l _ => ?_
  rw [laneShift_eq h (Or.inl hm), shiftLeft_word (r.lane_lt ..)]
  rfl

theorem writesLanes_mshr (hm : u.mop = .mshr) : WritesLanes e r u fun l => ((if u.mf = 2 then BitVec.ofNat 32 (r.lane u.sa l) >>> laneShift r u l
    else (BitVec.ofNat 32 (r.lane u.sa l)).sshiftRight (laneShift r u l)).toNat, 0) := by
  refine writesLanes_of_each h (by rw [hm]; rfl) (by simp only [microOp, hm]; rfl) fun l _ => ?_
  rw [laneShift_eq h (Or.inr hm), shiftRight_word (r.lane_lt ..), sshiftRight_word]
  refine (if_neg nofun).trans ?_
  split <;> rfl

theorem writesLanes_mlut (hm : u.mop = .mlut) : WritesLanes e r u fun l =>
    ((if (u.imm.toNat % 256 + min (r.lane u.sa l) (u.imm.toNat / 256)) % 2 = 0
      then (e.raw.getD (e.code + (u.imm.toNat % 256 + min (r.lane u.sa l) (u.imm.toNat / 256)) / 2) 0).extractLsb' 0 32
      else (e.raw.getD (e.code + (u.imm.toNat % 256 + min (r.lane u.sa l) (u.imm.toNat / 256)) / 2) 0).extractLsb' 32 32).toNat, 0) := by
  have himm : u.imm.toNat < 65536 := by
    have := microOk_imm h
    simp only [immOk, hm, Bool.and_eq_true, decide_eq_true_eq] at this
    exact this.1
  have hlen : u.imm.toNat / 256 % 256 = u.imm.toNat / 256 := Nat.mod_eq_of_lt (by omega)
  refine writesLanes_of_each h (by rw [hm]; rfl) (by simp only [microOp, hm]; rfl) fun l _ => ?_
  simp only [hlen, half_word]

end

end Sys2Proof.Machine
end

section
namespace Sys2Proof.Machine

/-! ## Tiles, accumulator rows and masks (R260, R261, R263, R268) -/

/-! ### Elements of a grid -/

theorem getD_set_self {α : Type} {l : List α} {i : Nat} {x d : α} (h : i < l.length) : (l.set i x).getD i d = x := by
  rw [List.getD_eq_getElem?_getD, List.getElem?_set_self h, Option.getD_some]

theorem getD_set_ne {α : Type} {l : List α} {i j : Nat} {x d : α} (h : i ≠ j) : (l.set i x).getD j d = l.getD j d := by
  rw [List.getD_eq_getElem?_getD, List.getElem?_set_ne h, List.getD_eq_getElem?_getD]

section
variable {g : List (List Nat)} {i j i' j' x : Nat}

theorem setAt_row (g : List (List Nat)) (i j x k : Nat) :
    (setAt g i j x).getD k [] = if i = k then (g.getD k []).set j x else g.getD k [] := by
  rw [setAt, List.getD_eq_getElem?_getD, List.getD_eq_getElem?_getD, List.getElem?_modify]
  cases g[k]? with
  | none => split <;> simp
  | some r => split <;> simp_all

theorem length_setAt (g : List (List Nat)) (i j x : Nat) : (setAt g i j x).length = g.length := List.length_modify ..

theorem length_setAt_row (g : List (List Nat)) (i j x k : Nat) : ((setAt g i j x).getD k []).length = (g.getD k []).length := by
  rw [setAt_row]
  split
  · exact List.length_set ..
  · rfl

theorem cellOf_setAt_ne (h : ¬ (i' = i ∧ j' = j)) : cellOf (setAt g i j x) i' j' = cellOf g i' j' := by
  rw [cellOf, setAt_row, cellOf]
  split
  · next hi =>
    have hj : j ≠ j' := fun hj => h ⟨hi.symm, hj.symm⟩
    exact getD_set_ne hj
  · rfl

theorem cellOf_setAt_same (hj : j < (g.getD i []).length) : cellOf (setAt g i j x) i j = x := by
  rw [cellOf, setAt_row, if_pos rfl, List.getD_eq_getElem?_getD, List.getElem?_set_self hj, Option.getD_some]

end

/-- Elements of a row written at columns from the first. -/
def storeRow (row col : Nat) (val : Nat → Nat) (ls : List Nat) (g : List (List Nat)) : List (List Nat) :=
  ls.foldl (fun g l => setAt g row (col + l) (val l)) g

section
variable {row col : Nat} {val : Nat → Nat} {ls : List Nat} {g : List (List Nat)}

theorem length_storeRow (k : Nat) : ((storeRow row col val ls g).getD k []).length = (g.getD k []).length :=
  List.foldlRecOn (motive := fun t : List (List Nat) => (t.getD k []).length = (g.getD k []).length) ls _ rfl
    fun _ ht _ _ => (length_setAt_row ..).trans ht

/-- A column in range holds the value once it is written. -/
theorem cellOf_storeRow {l : Nat} (hl : l ∈ ls) (hcol : col + l < (g.getD row []).length) :
    cellOf (storeRow row col val ls g) row (col + l) = val l := by
  have hheld := foldl_establishes (P := fun t : List (List Nat) => col + l < (t.getD row []).length → cellOf t row (col + l) = val l)
    (g := fun g l => setAt g row (col + l) (val l)) hl (fun t k ht hlen => ?_) (fun t hlen => ?_) g
  · exact hheld ((length_storeRow row).symm ▸ hcol)
  · rw [length_setAt_row] at hlen
    by_cases hk : l = k
    · exact hk ▸ cellOf_setAt_same hlen
    · rw [cellOf_setAt_ne (by omega)]
      exact ht hlen
  · rw [length_setAt_row] at hlen
    exact cellOf_setAt_same hlen

theorem cellOf_storeRow_other {i j : Nat} (h : ¬ ∃ l ∈ ls, i = row ∧ j = col + l) :
    cellOf (storeRow row col val ls g) i j = cellOf g i j :=
  List.foldlRecOn (motive := fun t => cellOf t i j = cellOf g i j) ls _ rfl
    fun _ ht l hl => (cellOf_setAt_ne fun ⟨hi, hj⟩ => h ⟨l, hl, hi, hj⟩).trans ht

end

/-! ### Words of an accumulator -/

/-- Words written from a place on. -/
def storeAcc (at' : Nat) (val : Nat → BitVec 36) (ls : List Nat) (sh : List (BitVec 36)) : List (BitVec 36) :=
  ls.foldl (fun sh l => sh.set (at' + l) (val l)) sh

section
variable {at' : Nat} {val : Nat → BitVec 36} {ls : List Nat} {sh : List (BitVec 36)}

theorem length_storeAcc : (storeAcc at' val ls sh).length = sh.length :=
  List.foldlRecOn (motive := fun t : List (BitVec 36) => t.length = sh.length) ls _ rfl fun _ ht _ _ => (List.length_set ..).trans ht

theorem getD_storeAcc {l : Nat} (hl : l ∈ ls) (hlen : at' + l < sh.length) : (storeAcc at' val ls sh).getD (at' + l) 0 = val l := by
  have hheld := foldl_establishes (P := fun t : List (BitVec 36) => at' + l < t.length → t.getD (at' + l) 0 = val l)
    (g := fun sh l => sh.set (at' + l) (val l)) hl (fun t k ht hlen => ?_) (fun t hlen => ?_) sh
  · exact hheld (length_storeAcc.symm ▸ hlen)
  · rw [List.length_set] at hlen
    by_cases hk : l = k
    · exact hk ▸ getD_set_self hlen
    · rw [getD_set_ne (by omega)]
      exact ht hlen
  · rw [List.length_set] at hlen
    exact getD_set_self hlen

theorem getD_storeAcc_other {i : Nat} (h : ∀ l ∈ ls, at' + l ≠ i) : (storeAcc at' val ls sh).getD i 0 = sh.getD i 0 :=
  List.foldlRecOn (motive := fun t : List (BitVec 36) => t.getD i 0 = sh.getD i 0) ls _ rfl
    fun _ ht l hl => (getD_set_ne (h l hl)).trans ht

end

/-! ### MLDR and MSTR (R261) -/

theorem attarFmt_ne {f : Fmt} (h : attarFmt f = true) : f ≠ .s4 := by
  rintro rfl
  exact absurd h (by decide)

theorem widen_eq {f : Fmt} (hf : attarFmt f = true) (ftz : Bool) (x : Nat) : widen f ftz x =
    if Enc.Fmt.isInt f then ((readInt f x % (2 ^ 32 : Nat)).toNat, 0) else toFloat .f32 .rne ftz 0 (readF f ftz x) := by
  rw [widen, convert_eq (attarFmt_ne hf) (by decide)]
  split
  · rfl
  · rfl

theorem narrow_eq {f : Fmt} (hf : attarFmt f = true) (ro : Round) (l x : Nat) : narrow f ro l x =
    if Enc.Fmt.isInt f then fitted f ro.ftz (readInt (if Enc.Fmt.signed f then .s32 else .z32) x)
    else toFloat f ro.rm ro.ftz (ro.rnd l) (readF .f32 ro.ftz x) := by
  rw [narrow, convert_eq (by decide) (attarFmt_ne hf)]
  split
  · rw [fitted_eq]
  · rfl

section
variable {e : RunEnv} {r : Run} {u : MicroWord} {code entries : Nat}

theorem RunEnv.view_eq (e : RunEnv) (r : Run) (c : Nat) : e.view r c =
    if c / 2 ^ 28 % 4 = 3 then e.result.map fun v => { v with grid := r.grid } else (e.ports[c / 2 ^ 28 % 4]?).join := by
  unfold RunEnv.view
  split
  · next h => rw [if_pos h]
  · next h => rw [if_neg h]

theorem microOp_mldr_none (hm : u.mop = .mldr) (hv : e.view r (r.scal u.sa) = none) : microOp e r u = .error (trapOf 0x13 2) := by
  simp only [microOp, hm, microLdr, hv]
  rfl

theorem writesLanes_mldr (h : microOk code entries u = true) (hm : u.mop = .mldr) {v : View} (hv : e.view r (r.scal u.sa) = some v)
    (hf : attarFmt v.fmt = true) : WritesLanes e r u fun l =>
      if v.cols ≤ r.scal u.sa % 512 + l ∨ v.valid ≤ r.scal u.sa / 2 ^ 16 % 64 then (0, 0)
      else if Enc.Fmt.isInt v.fmt then
        ((readInt v.fmt (cellOf v.grid (r.scal u.sa / 2 ^ 16 % 64) (r.scal u.sa % 512 + l)) % (2 ^ 32 : Nat)).toNat, 0)
      else toFloat .f32 .rne e.ftz 0 (readF v.fmt e.ftz (cellOf v.grid (r.scal u.sa / 2 ^ 16 % 64) (r.scal u.sa % 512 + l))) :=
  writesLanes_of_each h (by rw [hm]; rfl) (by simp only [microOp, hm, microLdr, hv]; rfl) fun l _ =>
    ite_congr rfl (fun _ => rfl) fun _ => widen_eq hf ..

theorem microOp_mstr_none (hm : u.mop = .mstr) (hv : r.scal u.dst / 2 ^ 28 % 4 ≠ 3 ∨ e.result = none) :
    microOp e r u = .error (trapOf 0x13 2) := by
  have hnone : (if r.scal u.dst / 2 ^ 28 % 4 = 3 then e.result else none) = none := by
    rcases hv with hv | hv
    · exact if_neg hv
    · rw [hv, ite_self]
  simp only [microOp, hm, microStr, hnone]
  rfl

/-- The lanes that MSTR stores into a tile. -/
def storedLanes (r : Run) (u : MicroWord) (v : View) : List Nat :=
  r.lanesOn.filter fun l => decide (r.scal u.dst % 512 + l < v.cols) && decide (r.scal u.dst / 2 ^ 16 % 64 < v.valid)

theorem mem_storedLanes {v : View} {l : Nat} : l ∈ storedLanes r u v ↔
    l < 64 ∧ r.mask.getLsbD l = true ∧ r.scal u.dst % 512 + l < v.cols ∧ r.scal u.dst / 2 ^ 16 % 64 < v.valid := by
  simp only [storedLanes, Run.lanesOn, List.mem_filter, List.mem_range, Bool.and_eq_true, decide_eq_true_eq, and_assoc]

/-- The element that MSTR makes of a lane. -/
def storedElem (e : RunEnv) (r : Run) (u : MicroWord) (v : View) (l : Nat) : Nat × Flags :=
  narrow v.fmt (microRound e r u) l (r.lane u.sa l)

/-- The result with the lanes stored. -/
def storedGrid (e : RunEnv) (r : Run) (u : MicroWord) (v : View) : List (List Nat) :=
  storeRow (r.scal u.dst / 2 ^ 16 % 64) (r.scal u.dst % 512) (fun l => (storedElem e r u v l).1) (storedLanes r u v) r.grid

theorem microOp_mstr_stores (hm : u.mop = .mstr) {v : View} (hc : r.scal u.dst / 2 ^ 28 % 4 = 3) (hv : e.result = some v) :
    ∃ x, microOp e r u = .ok x ∧ x.run = { r with grid := storedGrid e r u v } ∧ x.jump = none ∧ x.fin = false ∧
      ∀ l fl, (l, fl) ∈ x.fl ↔ l ∈ storedLanes r u v ∧ fl = (storedElem e r u v l).2 ∧ fl ≠ 0 := by
  have hsome : (if r.scal u.dst / 2 ^ 28 % 4 = 3 then e.result else none) = some v := (if_pos hc).trans hv
  have hop : microOp e r u = microStr e r u := by simp only [microOp, hm]
  have hgrid : ((storedLanes r u v).map fun l => (l, storedElem e r u v l)).foldl
      (fun g p => setAt g (counterRow (r.scal u.dst)) (counterCol (r.scal u.dst) + p.1) p.2.1) r.grid = storedGrid e r u v := List.foldl_map
  rw [hop, microStr]
  dsimp only
  rw [hsome]
  exact ⟨_, rfl, congrArg (fun g => { r with grid := g }) hgrid, rfl, rfl, fun l fl => mem_raisedAt (f := storedElem e r u v)⟩

/-! ### MSTEP (R261) -/

/-- A counter's three fields are the bits that it keeps. -/
theorem acMask_fields {p row col : Nat} (hp : p < 4) (hrow : row < 64) (hcol : col < 512) :
    (BitVec.ofNat 32 (p * 2 ^ 28 + row * 2 ^ 16 + col) &&& acMask).toNat = p * 2 ^ 28 + row * 2 ^ 16 + col := by
  have hlt : p * 2 ^ 28 + row * 2 ^ 16 + col < 2 ^ 32 := by omega
  have hbit : ∀ i < 32, acMask.getLsbD i = false → (p * 2 ^ 28 + row * 2 ^ 16 + col) / 2 ^ i % 2 = 0 := by
    intro i hi hmask
    interval_cases i <;> simp [acMask] at hmask <;> omega
  have hkeep : BitVec.ofNat 32 (p * 2 ^ 28 + row * 2 ^ 16 + col) &&& acMask = BitVec.ofNat 32 (p * 2 ^ 28 + row * 2 ^ 16 + col) := by
    refine BitVec.eq_of_getLsbD_eq fun i hi => ?_
    rw [BitVec.getLsbD_and]
    cases hm : acMask.getLsbD i with
    | true => rw [Bool.and_true]
    | false =>
      rw [Bool.and_false, BitVec.getLsbD_ofNat, decide_eq_true hi, Bool.true_and, Nat.testBit_eq_decide_div_mod_eq, hbit i hi hm]
      rfl
  rw [hkeep, BitVec.toNat_ofNat, Nat.mod_eq_of_lt hlt]

theorem leaves_mstep (hm : u.mop = .mstep) {i : BitVec 2} (hd : u.dst = .ac i) : ∃ k : BitVec 32,
    Leaves e r u { r with ac := r.ac.set i.toNat k } ∧ k.toNat = r.scal u.dst / 2 ^ 28 % 4 * 2 ^ 28 +
      ((((r.scal u.dst / 2 ^ 16 % 64 : Nat) : Int) + (u.imm.extractLsb' 16 15).toInt) % 64).toNat * 2 ^ 16 +
      ((((r.scal u.dst % 512 : Nat) : Int) + (u.imm.extractLsb' 0 16).toInt) % 512).toNat := by
  have hhigh : sint 15 (u.imm.toNat / 2 ^ 16) = (u.imm.extractLsb' 16 15).toInt := by
    rw [sint_eq_toInt, BitVec.extractLsb', Nat.shiftRight_eq_div_pow]
  have hlow : sint 16 (u.imm.toNat % 2 ^ 16) = (u.imm.extractLsb' 0 16).toInt := by
    rw [sint_eq_toInt, BitVec.extractLsb', Nat.shiftRight_eq_div_pow, Nat.pow_zero, Nat.div_one]
    exact congrArg BitVec.toInt (BitVec.eq_of_toNat_eq (by simp))
  refine ⟨_, leaves_go (t := { r with ac := r.ac.set i.toNat _ }) ?_, acMask_fields (Nat.mod_lt _ (by decide)) ?_ ?_⟩
  · simp only [microOp, hm, microStep, hd, Run.put, hhigh, hlow]
    rfl
  · omega
  · omega

end

end Sys2Proof.Machine
end

section
namespace Sys2Proof.Machine

/-! ## Moves, comparison, scalar registers and the accumulator (R260, R263, R266 to R268) -/

section
variable {e : RunEnv} {r : Run} {u : MicroWord} {code entries : Nat}

/-! ### MIMM, MMOV and MBCST (R260) -/

/-- The number that MIMM moves. -/
def immNumber (u : MicroWord) : Nat :=
  match u.mf.toNat with
  | 0 => 2 * u.imm.toNat % 2 ^ 32
  | 1 => wrapNat 32 (sint 31 u.imm.toNat)
  | _ => u.imm.toNat

/-- IMM as MF extends it. -/
def immWord (u : MicroWord) : BitVec 32 :=
  if u.mf = 0 then u.imm.zeroExtend 32 <<< 1 else if u.mf = 1 then u.imm.signExtend 32 else u.imm.zeroExtend 32

theorem ofNat_immNumber (u : MicroWord) : BitVec.ofNat 32 (immNumber u) = immWord u := by
  apply BitVec.eq_of_toNat_eq
  have himm := u.imm.isLt
  by_cases h0 : u.mf = 0
  · rw [immWord, if_pos h0, immNumber, h0]
    simp [Nat.shiftLeft_eq]
    omega
  · by_cases h1 : u.mf = 1
    · rw [immWord, if_neg h0, if_pos h1, immNumber, h1]
      have hword : wrapNat 32 (sint 31 u.imm.toNat) = (u.imm.signExtend 32).toNat := by
        rw [wrapNat_sint, BitVec.ofNat_toNat, BitVec.setWidth_eq]
      exact (congrArg (fun n => (BitVec.ofNat 32 n).toNat) hword).trans (by simp)
    · have hn0 : u.mf.toNat ≠ 0 := fun h => h0 (BitVec.eq_of_toNat_eq h)
      have hn1 : u.mf.toNat ≠ 1 := fun h => h1 (BitVec.eq_of_toNat_eq h)
      have hnum : immNumber u = u.imm.toNat := by
        unfold immNumber
        split
        · next h => exact absurd h hn0
        · next h => exact absurd h hn1
        · rfl
      rw [immWord, if_neg h0, if_neg h1, hnum]
      simp

theorem microOp_mimm (hm : u.mop = .mimm) : microOp e r u = match u.dst with
    | .m _ => (r.putLanes u.dst (List.replicate 64 (immNumber u))).go
    | .mk => (r.put .mk (2 ^ u.imm.toNat - 1)).go
    | d => (r.put d (immNumber u)).go := by
  simp only [microOp, hm]
  rfl

/-- Into a counter, a loop register or a mask, MIMM moves IMM as it is. -/
theorem immNumber_plain (h : microOk code entries u = true) (hm : u.mop = .mimm) (hm1 : ∀ i, u.dst ≠ .m i) (hq : ∀ i, u.dst ≠ .q i) :
    immNumber u = u.imm.toNat := by
  have hmf : u.mf.toNat = 2 := by
    have hok := microOk_mf h
    cases hd : u.dst with
    | m i => exact absurd hd (hm1 i)
    | q i => exact absurd hd (hq i)
    | _ => simpa [mfOk, hm, hd] using hok
  rw [immNumber, hmf]
  rfl

theorem getLsbD_lowMask {n l : Nat} (hl : l < 64) : (BitVec.ofNat 64 (2 ^ n - 1)).getLsbD l = decide (l < n) := by
  rw [BitVec.getLsbD_ofNat, decide_eq_true hl, Bool.true_and, Nat.testBit_two_pow_sub_one]

theorem writesLanes_mbcst (h : microOk code entries u = true) (hm : u.mop = .mbcst) :
    WritesLanes e r u fun _ => (r.lane u.sa (u.imm.toNat % 64), 0) := by
  obtain ⟨i, hi⟩ := microOk_dst_lanes h (by rw [hm]; rfl)
  refine writesLanes_of_putLanes hi ?_
  simp only [microOp, hm, hi]
  rfl

/-! ### MCMP (R263) -/

theorem getD_map_range {α : Type} (f : Nat → α) (d : α) {l n : Nat} (hl : l < n) : ((List.range n).map f).getD l d = f l := by
  simp [List.getD_eq_getElem?_getD, hl]

/-- What MCMP makes of a lane. -/
def compareLane (e : RunEnv) (r : Run) (u : MicroWord) (l : Nat) : Bool × Flags :=
  if u.mf = 0 then fvCompare (u.imm.toNat % 8) (readF .f32 e.ftz (r.lane u.sa l)) (readF .f32 e.ftz (r.lane u.sb l))
  else
    (cmpCond (u.imm.toNat % 8) (readInt (if u.mf = 1 then .s32 else .z32) (r.lane u.sa l))
      (readInt (if u.mf = 1 then .s32 else .z32) (r.lane u.sb l)) (r.lane u.sa l) (r.lane u.sb l), 0)

theorem microOp_mcmp (hm : u.mop = .mcmp) : ∃ x, ∃ k : BitVec 64, microOp e r u = .ok x ∧ x.run = { r with mask := k } ∧ x.jump = none ∧
    x.fin = false ∧ (∀ l < 64, k.getLsbD l = (compareLane e r u l).1) ∧
      ∀ l fl, (l, fl) ∈ x.fl ↔ l < 64 ∧ fl = (compareLane e r u l).2 ∧ fl ≠ 0 := by
  have hop : microOp e r u = .ok
      { run := r.put .mk (maskOf fun l => (((List.range 64).map (compareLane e r u)).getD l (false, 0)).1)
        fl := ((List.range 64).map (compareLane e r u)).zipIdx.filterMap fun p => if p.1.2 = 0 then none else some (p.2, p.1.2)
        jump := none, fin := false } := by
    simp only [microOp, hm]
    rfl
  refine ⟨_, _, hop, rfl, rfl, rfl, fun l hl => ?_, fun l fl => mem_raised⟩
  rw [getLsbD_maskOf _ hl, getD_map_range _ _ hl]

/-! ### MQOP (R266) -/

/-- What MQOP makes of two words. -/
def quickWord (u : MicroWord) (x y : BitVec 32) : BitVec 32 :=
  match u.imm.toNat % 16 with
  | 0 => x + y | 1 => x - y | 2 => x * y | 3 => x &&& y | 4 => x ||| y | 5 => x ^^^ y
  | 6 => x <<< (y.toNat % 32) | 7 => x >>> (y.toNat % 32)
  | 8 => if (if u.mf = 1 then x.slt y else x.ult y) then x else y
  | _ => if (if u.mf = 1 then x.slt y else x.ult y) then y else x

theorem readInt_lt_iff (b : Prop) [Decidable b] (x y : BitVec 32) :
    readInt (if b then .s32 else .z32) x.toNat < readInt (if b then .s32 else .z32) y.toNat ↔
      (if b then x.slt y else x.ult y) = true := by
  split
  · have hs (z : BitVec 32) : readInt .s32 z.toNat = z.toInt := sint_toNat z
    rw [hs, hs, BitVec.slt_iff_toInt_lt]
  · have hz (z : BitVec 32) : readInt .z32 z.toNat = (z.toNat : Int) := congrArg Int.ofNat (Nat.mod_eq_of_lt z.isLt)
    rw [hz, hz, BitVec.ult_iff_lt, Int.ofNat_lt, BitVec.lt_def]

theorem readInt_injective (b : Prop) [Decidable b] {x y : BitVec 32}
    (h : readInt (if b then .s32 else .z32) x.toNat = readInt (if b then .s32 else .z32) y.toNat) : x = y := by
  have hw := width_intFmt b
  have hx := fitted_readInt (fmt := if b then .s32 else .z32) (x := x.toNat) (by rw [hw]; exact x.isLt) false
  have hy := fitted_readInt (fmt := if b then .s32 else .z32) (x := y.toNat) (by rw [hw]; exact y.isLt) false
  rw [h, hy] at hx
  exact BitVec.eq_of_toNat_eq (congrArg Prod.fst hx).symm

theorem ofNat_quickOp (u : MicroWord) (x y : BitVec 32) : BitVec.ofNat 32 (quickOp u x.toNat y.toNat) = quickWord u x y := by
  have hx := x.isLt
  have hy := y.isLt
  have hlt := readInt_lt_iff (u.mf = 1) x y
  have heq := readInt_injective (u.mf = 1) (x := x) (y := y)
  unfold quickOp quickWord
  dsimp only
  simp only [← hlt]
  generalize readInt (if u.mf = 1 then .s32 else .z32) x.toNat = a at *
  generalize readInt (if u.mf = 1 then .s32 else .z32) y.toNat = b at *
  have hword (z : BitVec 32) : BitVec.ofNat 32 z.toNat = z := by rw [BitVec.ofNat_toNat, BitVec.setWidth_eq]
  have hmin : BitVec.ofNat 32 (if b < a then y.toNat else x.toNat) = if a < b then x else y := by
    rcases lt_trichotomy a b with h | h | h
    · rw [if_neg (not_lt.mpr h.le), if_pos h, hword]
    · rw [heq h, ite_self, ite_self, hword]
    · rw [if_pos h, if_neg (not_lt.mpr h.le), hword]
  have hmax : BitVec.ofNat 32 (if a < b then y.toNat else x.toNat) = if a < b then y else x := by
    rw [apply_ite (BitVec.ofNat 32), hword, hword]
  match u.imm.toNat % 16 with
  | 0 => exact BitVec.eq_of_toNat_eq (by simp)
  | 1 => exact BitVec.eq_of_toNat_eq (by simp; omega)
  | 2 => exact BitVec.eq_of_toNat_eq (by simp)
  | 3 => exact BitVec.eq_of_toNat_eq ((BitVec.toNat_ofNat ..).trans (Nat.mod_eq_of_lt (x &&& y).isLt))
  | 4 => exact BitVec.eq_of_toNat_eq ((BitVec.toNat_ofNat ..).trans (Nat.mod_eq_of_lt (x ||| y).isLt))
  | 5 => exact BitVec.eq_of_toNat_eq ((BitVec.toNat_ofNat ..).trans (Nat.mod_eq_of_lt (x ^^^ y).isLt))
  | 6 => exact BitVec.eq_of_toNat_eq (by simp [Nat.shiftLeft_eq])
  | 7 => exact BitVec.eq_of_toNat_eq (by simp [Nat.shiftRight_eq_div_pow, Nat.mod_eq_of_lt (Nat.lt_of_le_of_lt (Nat.div_le_self ..) hx)])
  | 8 => exact hmin
  | k + 9 => exact hmax

/-- A scalar register is a word. -/
theorem Run.scal_lt {g : Reg} (hg : rsS.has g = true) : r.scal g < 2 ^ 32 := by
  cases g with
  | q i => exact BitVec.isLt _
  | ac i => exact BitVec.isLt _
  | lc i => exact BitVec.isLt _
  | _ => cases hg

/-- The second word of MQOP: a register, or IMM[30:4] extended. -/
def quickOperand (r : Run) (u : MicroWord) : BitVec 32 :=
  if u.sb = .z then (u.imm.extractLsb' 4 27).signExtend 32 else BitVec.ofNat 32 (r.scal u.sb)

theorem microOp_mqop (h : microOk code entries u = true) (hm : u.mop = .mqop) : ∃ n, microOp e r u = (r.put u.dst n).go ∧
    BitVec.ofNat 32 n = quickWord u (BitVec.ofNat 32 (r.scal u.sa)) (quickOperand r u) := by
  obtain ⟨-, hsa, hsb⟩ := microOk_regs h
  rw [hm] at hsa hsb
  have hx : (BitVec.ofNat 32 (r.scal u.sa)).toNat = r.scal u.sa := Nat.mod_eq_of_lt (Run.scal_lt hsa)
  have hy : (quickOperand r u).toNat = if u.sb = .z then wrapNat 32 (sint 27 (u.imm.toNat / 16)) else r.scal u.sb := by
    unfold quickOperand
    split
    · rw [wrapNat_sint, BitVec.extractLsb', Nat.shiftRight_eq_div_pow]
    · next hz =>
      refine Nat.mod_eq_of_lt (Run.scal_lt ?_)
      cases hsb' : u.sb with
      | z => exact absurd hsb' hz
      | _ => rw [hsb'] at hsb; exact hsb
  refine ⟨_, ?_, ofNat_quickOp u _ _⟩
  rw [hx, hy]
  simp only [microOp, hm]

/-! ### MLOOP, MBRNZ, MTRAP and MEND (R267) -/

/-- A target lies in the routine. -/
theorem target_lt (h : microOk code entries u = true) (hcode : code ≤ 256) (hm : u.mop = .mloop ∨ u.mop = .mbrnz) :
    u.imm.toNat % 256 = u.imm.toNat := by
  have himm : u.imm.toNat < code := by
    rcases hm with hm | hm <;> simpa [immOk, hm] using microOk_imm h
  exact Nat.mod_eq_of_lt (by omega)

theorem microOp_mloop_done (hm : u.mop = .mloop) (h0 : r.scal u.dst = 0) : microOp e r u = r.go := by
  simp only [microOp, hm, h0, if_true]

theorem microOp_mloop_counts (hm : u.mop = .mloop) (h0 : r.scal u.dst ≠ 0) : microOp e r u = .ok
    { run := r.put u.dst (r.scal u.dst - 1), fl := [], fin := false
      jump := if r.scal u.dst = 1 then none else some (u.imm.toNat % 256) } := by
  simp only [microOp, hm, if_neg h0]

/-! ### MACC and MACCW (R268) -/

section
variable {acc : Acc}

theorem microOp_acc_none (hm : u.mop = .macc ∨ u.mop = .maccw) (ha : e.acc = none) : microOp e r u = .error (trapOf 0x13 4) := by
  rcases hm with hm | hm <;> (simp only [microOp, hm, microAcc, ha]; rfl)

variable (ha : e.acc = some acc)
include ha

theorem microOp_macc_outside (hm : u.mop = .macc) (hrow : acc.rows ≤ r.scal u.sa) : microOp e r u = .error (trapOf 0x13 4) := by
  simp only [microOp, hm, microAcc, ha]
  exact if_pos hrow

theorem microOp_maccw_outside (hm : u.mop = .maccw) (hrow : acc.rows ≤ r.scal u.sb) : microOp e r u = .error (trapOf 0x13 4) := by
  simp only [microOp, hm, microAcc, ha]
  exact if_pos hrow

theorem writesLanes_macc (h : microOk code entries u = true) (hm : u.mop = .macc) (hrow : r.scal u.sa < acc.rows) :
    WritesLanes e r u fun l =>
      if acc.cols ≤ l then (0, 0)
      else if u.mf = 0 then toFloat .f32 (microRound e r u).rm e.ftz ((microRound e r u).rnd l)
        (readF .a36 e.ftz (r.shadow.getD (r.scal u.sa * acc.cols + l) 0).toNat)
      else fitted .s32 e.ftz (readInt .a36 (r.shadow.getD (r.scal u.sa * acc.cols + l) 0).toNat) := by
  refine writesLanes_of_each h (by rw [hm]; rfl)
    (by simp only [microOp, hm, microAcc, ha]; exact (if_neg (Nat.not_le.mpr hrow)).trans (if_pos rfl)) fun l _ => ?_
  refine ite_congr rfl (fun _ => rfl) fun _ => ite_congr rfl (fun _ => ?_) fun _ => laneFit_eq rfl ..
  exact convert_eq (by decide) (by decide)

/-- The word that MACCW makes of a lane. -/
def accElem (e : RunEnv) (r : Run) (u : MicroWord) (l : Nat) : Nat × Flags :=
  if u.mf = 0 then toFloat .a36 .rne e.ftz 0 (readF .f32 e.ftz (r.lane u.sa l)) else (wrapNat 36 (readInt .s32 (r.lane u.sa l)), 0)

theorem microOp_maccw_writes (hm : u.mop = .maccw) (hrow : r.scal u.sb < acc.rows) : ∃ x, microOp e r u = .ok x ∧ x.jump = none ∧
    x.fin = false ∧ x.run = { r with
      shadow := storeAcc (r.scal u.sb * acc.cols) (fun l => BitVec.ofNat 36 (accElem e r u l).1) (List.range acc.cols) r.shadow
      groups := if e.poisoned then r.groups ||| (1#8 <<< group acc.rows (r.scal u.sb)) else r.groups } ∧
    ∀ l fl, (l, fl) ∈ x.fl ↔ l < acc.cols ∧ fl = (accElem e r u l).2 ∧ fl ≠ 0 := by
  have helem (l : Nat) : (if u.mf = 0 then convert .f32 .a36 .rne (microRound e r u).ftz false 0 (r.lane u.sa l)
      else (wrapNat 36 (readInt .s32 (r.lane u.sa l)), (0 : Flags))) = accElem e r u l :=
    ite_congr rfl (fun _ => convert_eq (by decide) (by decide)) fun _ => rfl
  have hshadow : ((List.range acc.cols).map fun l => (l, accElem e r u l)).foldl
      (fun sh p => sh.set (r.scal u.sb * acc.cols + p.1) (BitVec.ofNat 36 p.2.1)) r.shadow =
        storeAcc (r.scal u.sb * acc.cols) (fun l => BitVec.ofNat 36 (accElem e r u l).1) (List.range acc.cols) r.shadow := List.foldl_map
  have hop : microOp e r u = microAcc e r u := by simp only [microOp, hm]
  have hsb : (if u.mop == .macc then u.sa else u.sb) = u.sb := if_neg (by rw [hm]; nofun)
  rw [hop, microAcc, ha]
  dsimp only
  rw [hsb, if_neg (Nat.not_le.mpr hrow), if_neg (by rw [hm]; nofun)]
  simp only [helem, hshadow]
  exact ⟨_, rfl, rfl, rfl, rfl, fun l fl => mem_raisedAt.trans (by rw [List.mem_range])⟩

end

end

end Sys2Proof.Machine
end

section
namespace Sys2Proof.Machine

/-! ## MRED (R265, R269) -/

/-! ### A level of the tree -/

/-- Neighbours p of a level added, rounded with the random bits of their place. -/
def redAdd (ro : Round) (lv p y z : Nat) : Nat × Flags :=
  laneRound { ro with rnd := fun _ => ro.rnd (lv * 2 ^ 16 + p) } 0 (fvAdd ro.rm (readF .f32 ro.ftz y) (readF .f32 ro.ftz z))

/-- Neighbours k of a list added. -/
def redPair (ro : Round) (lv p : Nat) (l : List (Nat × Nat)) (k : Nat) : Nat × Flags :=
  redAdd ro lv p (l.getD (2 * k) (0, 0)).1 (l.getD (2 * k + 1) (0, 0)).1

section
variable (ro : Round) (lv : Nat)

theorem redLevel_cons (i : Nat) (a b : Nat × Nat) (t : List (Nat × Nat)) : redLevel ro lv i (a :: b :: t) =
    (((redAdd ro lv i a.1 b.1).1, a.2) :: (redLevel ro lv (i + 1) t).1,
      if (redAdd ro lv i a.1 b.1).2 = 0 then (redLevel ro lv (i + 1) t).2
      else (a.2, (redAdd ro lv i a.1 b.1).2) :: (redLevel ro lv (i + 1) t).2) := rfl

theorem length_redLevel : ∀ (i : Nat) (l : List (Nat × Nat)), (redLevel ro lv i l).1.length = (l.length + 1) / 2
  | _, [] => rfl
  | _, [_] => by simp [redLevel]
  | i, a :: b :: t => by
    rw [redLevel_cons, List.length_cons, length_redLevel (i + 1) t, List.length_cons, List.length_cons]
    omega

/-- A node is the two beneath it added, with the lane of the first, or the one there is. -/
theorem getD_redLevel : ∀ (i : Nat) (l : List (Nat × Nat)) (k : Nat), (redLevel ro lv i l).1.getD k (0, 0) =
    if 2 * k + 1 < l.length then ((redPair ro lv (i + k) l k).1, (l.getD (2 * k) (0, 0)).2) else l.getD (2 * k) (0, 0)
  | _, [], k => by simp [redLevel]
  | _, [x], k => by
    cases k with
    | zero => rfl
    | succ k => simp [redLevel, Nat.mul_succ]
  | i, a :: b :: t, 0 => by
    rw [redLevel_cons]
    exact (if_pos (by simp)).symm
  | i, a :: b :: t, k + 1 => by
    have hplace : i + 1 + k = i + (k + 1) := by omega
    have hlen : 2 * (k + 1) + 1 < (a :: b :: t).length ↔ 2 * k + 1 < t.length := by
      rw [List.length_cons, List.length_cons]
      omega
    rw [redLevel_cons, List.getD_cons_succ, getD_redLevel (i + 1) t k, hplace]
    simp only [hlen]
    rfl

theorem mem_redLevel : ∀ (i : Nat) (l : List (Nat × Nat)) (n : Nat) (fl : Flags), (n, fl) ∈ (redLevel ro lv i l).2 ↔
    ∃ k, 2 * k + 1 < l.length ∧ n = (l.getD (2 * k) (0, 0)).2 ∧ fl = (redPair ro lv (i + k) l k).2 ∧ fl ≠ 0
  | _, [], n, fl => by simp [redLevel]
  | _, [x], n, fl => by simp [redLevel]
  | i, a :: b :: t, n, fl => by
    have hhead : (n, fl) ∈ (redLevel ro lv i (a :: b :: t)).2 ↔
        (n = a.2 ∧ fl = (redAdd ro lv i a.1 b.1).2 ∧ fl ≠ 0) ∨ (n, fl) ∈ (redLevel ro lv (i + 1) t).2 := by
      rw [redLevel_cons]
      by_cases h0 : (redAdd ro lv i a.1 b.1).2 = 0
      · simp only [h0, if_true]
        exact ⟨Or.inr, fun h => h.elim (fun h => absurd h.2.1 h.2.2) id⟩
      · simp only [if_neg h0, List.mem_cons, Prod.mk.injEq]
        refine or_congr_left ⟨fun ⟨hn, hfl⟩ => ⟨hn, hfl, hfl ▸ h0⟩, fun ⟨hn, hfl, _⟩ => ⟨hn, hfl⟩⟩
    rw [hhead, mem_redLevel (i + 1) t n fl]
    constructor
    · rintro (⟨rfl, hfl, h0⟩ | ⟨k, hk, hn, hfl, h0⟩)
      · exact ⟨0, by simp, rfl, hfl, h0⟩
      · refine ⟨k + 1, by rw [List.length_cons, List.length_cons]; omega, hn, ?_, h0⟩
        rw [hfl, Nat.add_right_comm, Nat.add_assoc]
        rfl
    · rintro ⟨k, hk, hn, hfl, h0⟩
      cases k with
      | zero => exact Or.inl ⟨hn, hfl, h0⟩
      | succ k =>
        refine Or.inr ⟨k, by rw [List.length_cons, List.length_cons] at hk; omega, hn, ?_, h0⟩
        rw [hfl, Nat.add_right_comm, Nat.add_assoc]
        rfl

end

/-! ### The levels above the lanes -/

theorem treeWidth_one {n lv : Nat} (h : treeWidth n lv = 1) : ∀ k, treeWidth n (lv + k) = 1
  | 0 => h
  | k + 1 => by rw [← Nat.add_assoc, treeWidth, treeWidth_one h k]

theorem treeNode_one {add : Nat → Nat → Nat → Nat → Nat × Flags} {v : List Nat} {lv : Nat} (h : treeWidth v.length lv = 1) :
    ∀ k, treeNode add v (lv + k) 0 = treeNode add v lv 0
  | 0 => rfl
  | k + 1 => by
    rw [← Nat.add_assoc, treeNode]
    exact (if_neg (by rw [treeWidth_one h k]; omega)).trans (treeNode_one h k)

section
variable {ro : Round} {v on : List Nat}

/-- The list holds the nodes of a level, each with the lowest lane beneath it. -/
structure IsLevel (ro : Round) (v on : List Nat) (lv : Nat) (l : List (Nat × Nat)) : Prop where
  width : l.length = treeWidth v.length lv
  node : ∀ p < l.length, l.getD p (0, 0) = ((treeNode (redAdd ro) v lv p).1, on.getD (p * 2 ^ lv) 0)

/-- What the additions at a level and above raise. -/
def RaisedFrom (ro : Round) (v on : List Nat) (lv n : Nat) (fl : Flags) : Prop :=
  ∃ j p, lv ≤ j ∧ 2 * p + 1 < treeWidth v.length j ∧ n = on.getD (p * 2 ^ (j + 1)) 0 ∧
    fl = (redAdd ro j p (treeNode (redAdd ro) v j (2 * p)).1 (treeNode (redAdd ro) v j (2 * p + 1)).1).2

variable {lv : Nat} {l : List (Nat × Nat)} (h : IsLevel ro v on lv l)
include h

theorem IsLevel.pair {k : Nat} (hk : 2 * k + 1 < l.length) : redPair ro lv k l k =
    redAdd ro lv k (treeNode (redAdd ro) v lv (2 * k)).1 (treeNode (redAdd ro) v lv (2 * k + 1)).1 := by
  rw [redPair, h.node _ hk, h.node _ (by omega)]

theorem IsLevel.next : IsLevel ro v on (lv + 1) (redLevel ro lv 0 l).1 where
  width := by rw [length_redLevel, h.width, treeWidth]
  node := by
    intro p hp
    rw [length_redLevel] at hp
    have hlane : 2 * p * 2 ^ lv = p * 2 ^ (lv + 1) := by ring
    rw [getD_redLevel, treeNode, ← h.width, Nat.zero_add]
    by_cases hk : 2 * p + 1 < l.length
    · rw [if_pos hk, if_pos hk, h.pair hk, h.node _ (by omega), hlane]
    · rw [if_neg hk, if_neg hk, h.node _ (by omega), hlane]

/-- The tree's value, and what it raises. -/
theorem IsLevel.redTree {fuel d : Nat} (hfuel : l.length ≤ fuel) (hlv : lv ≤ d) (hd : treeWidth v.length d = 1) (hpos : 0 < l.length) :
    (redTree ro fuel lv l).1 = (treeNode (redAdd ro) v d 0).1 ∧
      ∀ n fl, (n, fl) ∈ (redTree ro fuel lv l).2 ↔ RaisedFrom ro v on lv n fl ∧ fl ≠ 0 := by
  induction fuel generalizing lv l with
  | zero => omega
  | succ fuel ih =>
    match l with
    | [] => exact absurd hpos (by simp)
    | [x] =>
      have hone : treeWidth v.length lv = 1 := h.width.symm
      obtain ⟨k, rfl⟩ := Nat.exists_eq_add_of_le hlv
      refine ⟨?_, fun n fl => ⟨fun hmem => (nomatch hmem), ?_⟩⟩
      · rw [treeNode_one hone]
        exact congrArg Prod.fst (h.node 0 (by simp))
      · rintro ⟨⟨j, p, hj, hp, -, -⟩, -⟩
        obtain ⟨m, rfl⟩ := Nat.exists_eq_add_of_le hj
        rw [treeWidth_one hone] at hp
        omega
    | a :: b :: t =>
      have hlane (k : Nat) : 2 * k * 2 ^ lv = k * 2 ^ (lv + 1) := by ring
      have hwidth : 2 ≤ treeWidth v.length lv := by
        rw [← h.width]
        simp
      have hlen : (redLevel ro lv 0 (a :: b :: t)).1.length = ((a :: b :: t).length + 1) / 2 := length_redLevel ..
      rw [List.length_cons, List.length_cons] at hlen hfuel
      have hd' : lv + 1 ≤ d := by
        rcases Nat.lt_or_eq_of_le hlv with hlt | rfl
        · exact hlt
        · omega
      obtain ⟨hvalue, hraised⟩ := ih h.next (by omega) hd' (by omega)
      refine ⟨hvalue, fun n fl => ?_⟩
      have hsplit : (n, fl) ∈ (Machine.redTree ro (fuel + 1) lv (a :: b :: t)).2 ↔
          (n, fl) ∈ (redLevel ro lv 0 (a :: b :: t)).2 ∨ (n, fl) ∈ (Machine.redTree ro fuel (lv + 1) (redLevel ro lv 0 (a :: b :: t)).1).2 :=
        List.mem_append
      rw [hsplit, hraised, mem_redLevel]
      constructor
      · rintro (⟨k, hk, hn, hfl, h0⟩ | ⟨⟨j, p, hj, hp, hn, hfl⟩, h0⟩)
        · rw [h.node _ (by omega)] at hn
          rw [Nat.zero_add, h.pair hk] at hfl
          exact ⟨⟨lv, k, le_refl _, h.width ▸ hk, hn.trans (congrArg (on.getD · 0) (hlane k)), hfl⟩, h0⟩
        · exact ⟨⟨j, p, by omega, hp, hn, hfl⟩, h0⟩
      · rintro ⟨⟨j, p, hj, hp, hn, hfl⟩, h0⟩
        rcases Nat.lt_or_eq_of_le hj with hlt | rfl
        · exact Or.inr ⟨⟨j, p, hlt, hp, hn, hfl⟩, h0⟩
        · have hk : 2 * p + 1 < (a :: b :: t).length := h.width.symm ▸ hp
          refine Or.inl ⟨p, hk, ?_, ?_, h0⟩
          · rw [h.node _ (by omega), hn]
            exact congrArg (on.getD · 0) (hlane p).symm
          · rw [Nat.zero_add, h.pair hk, hfl]

end

end Sys2Proof.Machine
end

section
namespace Sys2Proof.Machine

/-! ### What MRED leaves -/

/-- MRED leaves a word in register i and raises flags of lanes. -/
def Reduces (e : RunEnv) (r : Run) (u : MicroWord) (i : BitVec 3) (z : Nat) (raised : Nat → Flags → Prop) : Prop :=
  ∃ x, microOp e r u = .ok x ∧ x.jump = none ∧ x.fin = false ∧ x.run = { r with q := r.q.set i.toNat (BitVec.ofNat 32 z) } ∧
    ∀ l fl, (l, fl) ∈ x.fl ↔ raised l fl ∧ fl ≠ 0

/-- The lanes taking part, and what they hold. -/
abbrev Run.laneValues (r : Run) (u : MicroWord) : List (Nat × Nat) := r.lanesOn.map fun l => (r.lane u.sa l, l)

theorem readF_isSig (fmt : Fmt) (ftz : Bool) (x : Nat) : (readF fmt ftz x).isSig = (decodeF fmt x).isSig := by
  unfold readF
  cases decodeF fmt x with
  | fin s n d => dsimp only; split <;> rfl
  | _ => rfl

/-- A number copied as a float result. -/
theorem copyFloat_f32 (ftz : Bool) (x : Nat) : copyFloat .f32 ftz x =
    (if (readF .f32 ftz x).isNan then canonNaN .f32
      else if ftz && isSubnormal .f32 x then encZero .f32 (readF .f32 ftz x).sign else x, flagIf (readF .f32 ftz x).isSig fIV) := by
  have hacts : (ftz && ftzActs .f32 && isSubnormal .f32 x) = (ftz && isSubnormal .f32 x) := by rw [ftzActs]; simp
  unfold copyFloat
  rw [hacts]
  cases readF .f32 ftz x with
  | nan s => rfl
  | _ => dsimp only; split <;> simp [FV.isNan, FV.isSig, flagIf, *]

/-- The greatest or least of floats, without its flags. -/
theorem foldl_fMinMax (fmt : Fmt) (ftz max : Bool) (t : List (Nat × Nat)) (b : Nat × Flags) :
    t.foldl (fun a y => (fMinMax fmt ftz max a y.1).1) b.1 =
      ((t.map Prod.fst).foldl (fun acc y => ((fMinMax fmt ftz max acc.1 y).1, acc.2 ||| (fMinMax fmt ftz max acc.1 y).2)) b).1 := by
  induction t generalizing b with
  | nil => rfl
  | cons y t ih => exact ih ((fMinMax fmt ftz max b.1 y.1).1, b.2 ||| (fMinMax fmt ftz max b.1 y.1).2)

/-! #### What is taken of a list, by IMM and MF -/

section
variable {ro : Round} {u : MicroWord} {xs : List (Nat × Nat)}

section
variable (himm : u.imm.toNat = 0) (hf : u.mf = 0)
include himm hf

theorem laneReduce_one (x l : Nat) : laneReduce ro u [(x, l)] =
    ((copyFloat .f32 ro.ftz x).1, if (copyFloat .f32 ro.ftz x).2 = 0 then [] else [(l, (copyFloat .f32 ro.ftz x).2)]) := by
  simp [laneReduce, himm, hf]

theorem laneReduce_tree (hlen : 2 ≤ xs.length) : laneReduce ro u xs = redTree ro xs.length 0 xs := by
  match xs with
  | [] => exact absurd hlen (by simp)
  | [_] => exact absurd hlen (by simp)
  | a :: b :: t => simp [laneReduce, himm, hf]

end

section
variable {x l : Nat} {t : List (Nat × Nat)}

theorem laneReduce_sum (himm : u.imm.toNat = 0) (hf : u.mf ≠ 0) (hxs : xs = (x, l) :: t) {y : Nat × Flags}
    (hy : y = fitted (if u.mf = 1 then .s32 else .z32) ro.ftz (xs.map fun y => readInt (if u.mf = 1 then .s32 else .z32) y.1).sum) :
    laneReduce ro u xs = (y.1, if y.2 = 0 then [] else [(l, y.2)]) := by
  rw [hy, ← laneFit_eq (width_intFmt _), List.sum_eq_foldl, List.foldl_map, hxs, laneReduce]
  dsimp only
  rw [if_neg hf, if_pos (by rw [himm])]

/-- IMM 1 asks for the greatest, 2 for the least. -/
theorem laneReduce_extreme {max : Bool} (himm : u.imm.toNat = if max then 1 else 2) {w : OpFields}
    (hfmt : w.fmt = if u.mf = 0 then .f32 else if u.mf = 1 then .s32 else .z32) (hmod : w.mod.getLsbD 3 = ro.ftz) :
    laneReduce ro u ((x, l) :: t) = ((extreme w max (((x, l) :: t).map Prod.fst)).1,
      if u.mf = 0 then ((x, l) :: t).filterMap fun y => if (decodeF .f32 y.1).isSig then some (y.2, fIV) else none else []) := by
  have hk : u.imm.toNat % 4 = if max then 1 else 2 := by rw [himm]; cases max <;> rfl
  have hk0 : ¬ u.imm.toNat % 4 = 0 := by rw [hk]; cases max <;> decide
  have hmax : (u.imm.toNat % 4 == 1) = max := by rw [hk]; cases max <;> rfl
  rw [List.map_cons, laneReduce]
  dsimp only
  rw [hmax, if_neg hk0, if_neg hk0]
  by_cases hf : u.mf = 0
  · rw [if_pos hf] at hfmt
    have hext : extreme w max (x :: t.map Prod.fst) = (t.map Prod.fst).foldl (fun acc y =>
        ((fMinMax .f32 ro.ftz max acc.1 y).1, acc.2 ||| (fMinMax .f32 ro.ftz max acc.1 y).2)) (fMinMax .f32 ro.ftz max x x) := by
      rw [extreme, hfmt, hmod]
      exact if_pos rfl
    rw [if_pos hf, if_pos hf, hext, foldl_fMinMax]
  · rw [if_neg hf] at hfmt
    have hint : Enc.Fmt.isF w.fmt = false := by rw [hfmt]; split <;> rfl
    have hext : extreme w max (x :: t.map Prod.fst) = ((x :: t.map Prod.fst).getD (argBest max w.fmt (x :: t.map Prod.fst)) 0, 0) := by
      rw [extreme, hint]
      exact if_neg nofun
    rw [if_neg hf, if_neg hf, hext, hfmt]
    rfl

end

end

section
variable {e : RunEnv} {r : Run} {u : MicroWord} {i : BitVec 3} {raised : Nat → Flags → Prop} (hm : u.mop = .mred) (hd : u.dst = .q i)

theorem map_fst_laneValues : (r.laneValues u).map Prod.fst = r.lanesOn.map (r.lane u.sa) := by
  rw [List.map_map]
  rfl

include hm hd

theorem reduces_of_laneReduce {z : Nat} {fls : ElemFlags} (h : laneReduce (microRound e r u) u (r.laneValues u) = (z, fls))
    (hfl : ∀ l fl, (l, fl) ∈ fls ↔ raised l fl ∧ fl ≠ 0) : Reduces e r u i z raised := by
  refine ⟨{ run := r.put u.dst z, fl := fls, jump := none, fin := false }, ?_, rfl, rfl, ?_, hfl⟩
  · simp only [microOp, hm, h]
  · rw [hd]
    rfl

theorem reduces_none (hon : r.lanesOn = []) : Reduces e r u i 0 fun _ _ => False := by
  refine reduces_of_laneReduce hm hd (fls := []) ?_ fun l fl => by simp
  rw [Run.laneValues, hon]
  rfl

/-- What lanes that hold a signalling NaN raise. -/
def Quiet (e : RunEnv) (r : Run) (u : MicroWord) (l : Nat) (fl : Flags) : Prop :=
  l ∈ r.lanesOn ∧ (readF .f32 e.ftz (r.lane u.sa l)).isSig = true ∧ fl = fIV

section
variable (himm : u.imm.toNat = 0)
include himm

theorem reduces_tree (hf : u.mf = 0) (hon : 2 ≤ r.lanesOn.length) {d : Nat} (hone : treeWidth r.lanesOn.length d = 1) :
    Reduces e r u i (treeNode (redAdd (microRound e r u)) (r.lanesOn.map (r.lane u.sa)) d 0).1
      (RaisedFrom (microRound e r u) (r.lanesOn.map (r.lane u.sa)) r.lanesOn 0) := by
  have hlen : (r.lanesOn.map (r.lane u.sa)).length = r.lanesOn.length := List.length_map ..
  have hbase : IsLevel (microRound e r u) (r.lanesOn.map (r.lane u.sa)) r.lanesOn 0 (r.laneValues u) := by
    refine ⟨by rw [List.length_map, treeWidth, hlen], fun p hp => ?_⟩
    rw [List.length_map] at hp
    simp [treeNode, List.getD_eq_getElem?_getD, hp]
  obtain ⟨hvalue, hraised⟩ := hbase.redTree (fuel := (r.laneValues u).length) (le_refl _) (Nat.zero_le d)
    (by rw [hlen]; exact hone) (by rw [List.length_map]; omega)
  refine reduces_of_laneReduce hm hd ?_ hraised
  rw [laneReduce_tree himm hf (by rw [List.length_map]; exact hon), ← hvalue]

theorem reduces_one (hf : u.mf = 0) {l : Nat} (hon : r.lanesOn = [l]) : Reduces e r u i
    (if (readF .f32 e.ftz (r.lane u.sa l)).isNan then canonNaN .f32
      else if e.ftz && isSubnormal .f32 (r.lane u.sa l) then encZero .f32 (readF .f32 e.ftz (r.lane u.sa l)).sign else r.lane u.sa l)
    (Quiet e r u) := by
  have hcopy := copyFloat_f32 e.ftz (r.lane u.sa l)
  refine reduces_of_laneReduce hm hd (fls := if (copyFloat .f32 e.ftz (r.lane u.sa l)).2 = 0 then []
    else [(l, (copyFloat .f32 e.ftz (r.lane u.sa l)).2)]) ?_ fun k fl => ?_
  · have hvalue := congrArg Prod.fst hcopy
    dsimp only at hvalue
    rw [Run.laneValues, hon, List.map_singleton, laneReduce_one himm hf, ← hvalue]
    rfl
  · have hflags : (copyFloat .f32 e.ftz (r.lane u.sa l)).2 = flagIf (readF .f32 e.ftz (r.lane u.sa l)).isSig fIV := congrArg Prod.snd hcopy
    rw [hflags, Quiet, hon, List.mem_singleton]
    cases hsig : (readF .f32 e.ftz (r.lane u.sa l)).isSig with
    | false =>
      refine ⟨fun hmem => (nomatch hmem), ?_⟩
      rintro ⟨⟨rfl, hsig', -⟩, -⟩
      rw [hsig] at hsig'
      cases hsig'
    | true =>
      have hiff : (k, fl) ∈ [(l, fIV)] ↔ k = l ∧ fl = fIV := by simp
      refine hiff.trans ⟨?_, fun ⟨⟨hk, _, hfl⟩, _⟩ => ⟨hk, hfl⟩⟩
      rintro ⟨rfl, rfl⟩
      exact ⟨⟨rfl, hsig, rfl⟩, by decide⟩

theorem reduces_sum (hf : u.mf ≠ 0) (hon : r.lanesOn ≠ []) {y : Nat × Flags}
    (hy : y = fitted (if u.mf = 1 then .s32 else .z32) e.ftz
      ((r.lanesOn.map (r.lane u.sa)).map fun x => readInt (if u.mf = 1 then .s32 else .z32) x).sum) :
    Reduces e r u i y.1 fun l fl => l = r.lanesOn.headD 0 ∧ fl = y.2 := by
  obtain ⟨l0, t, hcons⟩ := List.exists_cons_of_ne_nil hon
  refine reduces_of_laneReduce hm hd (fls := if y.2 = 0 then [] else [(l0, y.2)]) ?_ fun l fl => ?_
  · have hvalues : r.laneValues u = (r.lane u.sa l0, l0) :: t.map fun l => (r.lane u.sa l, l) := by rw [Run.laneValues, hcons, List.map_cons]
    refine laneReduce_sum himm hf hvalues (hy.trans ?_)
    rw [Run.laneValues, List.map_map, List.map_map]
    rfl
  · rw [hcons, List.headD_cons]
    by_cases h0 : y.2 = 0
    · rw [if_pos h0, h0]
      exact ⟨fun hmem => (nomatch hmem), fun ⟨⟨_, hfl⟩, hne⟩ => absurd hfl hne⟩
    · rw [if_neg h0, List.mem_singleton, Prod.mk.injEq]
      exact ⟨fun ⟨hl, hfl⟩ => ⟨⟨hl, hfl⟩, hfl ▸ h0⟩, fun h => h.1⟩

end

/-! #### The greatest and the least -/

theorem reduces_extreme {max : Bool} (himm : u.imm.toNat = if max then 1 else 2) (hon : r.lanesOn ≠ []) {w : OpFields}
    (hfmt : w.fmt = if u.mf = 0 then .f32 else if u.mf = 1 then .s32 else .z32) (hmod : w.mod = e.mod) :
    Reduces e r u i (extreme w max (r.lanesOn.map (r.lane u.sa))).1 (if u.mf = 0 then Quiet e r u else fun _ _ => False) := by
  obtain ⟨l0, t, hcons⟩ := List.exists_cons_of_ne_nil hon
  have hftz : w.mod.getLsbD 3 = (microRound e r u).ftz := by rw [hmod]; rfl
  refine reduces_of_laneReduce hm hd (fls := if u.mf = 0
    then (r.laneValues u).filterMap fun y => if (decodeF .f32 y.1).isSig then some (y.2, fIV) else none else []) ?_ fun l fl => ?_
  · rw [← map_fst_laneValues, Run.laneValues, hcons, List.map_cons]
    exact laneReduce_extreme himm hfmt hftz
  · by_cases hf : u.mf = 0
    · rw [if_pos hf, if_pos hf, List.filterMap_map, List.mem_filterMap, Quiet, readF_isSig]
      constructor
      · rintro ⟨k, hk, hsome⟩
        rw [Function.comp_apply] at hsome
        split at hsome
        · next hsig =>
          cases hsome
          exact ⟨⟨hk, hsig, rfl⟩, by decide⟩
        · cases hsome
      · rintro ⟨⟨hl, hsig, rfl⟩, -⟩
        exact ⟨l, hl, if_pos hsig⟩
    · rw [if_neg hf, if_neg hf]
      exact ⟨fun hmem => (nomatch hmem), fun h => h.1.elim⟩

end

end Sys2Proof.Machine
end

section
namespace Sys2Proof.Machine

/-- Settles O38: each micro-operation by its own lemma; lane operations by what they make of a lane, MRED by the levels of its tree. -/
theorem microOperations : Obligations.MicroOperations := by
  unfold Obligations.MicroOperations
  intro e r u code entries h hcode ro a b c real fi int fits rounded lanes stops imm const counter
  have hw : width fi = 32 := width_intFmt _
  have hfits (x : Int) : laneFit fi e.ftz x = fits x := laneFit_eq hw ..
  refine ⟨fun l _ => ⟨fun _ => rfl, fun _ => rfl, rfl⟩, ⟨?round, rfl, fun _ => rfl⟩, fun hm => leaves_go (by simp only [microOp, hm]),
    fun hm => ?mimm, fun hm => ?mmov, writesLanes_mbcst h, fun hm => ?mldr, fun hm => ?mstr, fun hm i hd => leaves_mstep hm hd,
    fun hf => ?floats, fun hf => ?ints, writesLanes_mcvt h, fun hm => ?mcmp, ?msel, ?mand, ?mor, ?mxor,
    ⟨writesLanes_mshl h, writesLanes_mshr h⟩, writesLanes_mlut h, fun hm i hd => ?mred, fun hm => ?mqop, fun hm i hd => ?mloop,
    fun hm => ?mbrnz, fun hm => ?mtrap, fun hm => ?mend, fun hm => ?macc, fun hm => ?maccw⟩
  case round =>
    have hext : ∀ y : BitVec 3, 0#1 ++ y = y.zeroExtend 4 := by decide
    rw [apply_ite Rm.ofMod, ← hext]
    rfl
  case mimm =>
    have hop := microOp_mimm (e := e) (r := r) hm
    refine ⟨fun i hd => ?_, fun i hd => ?_, fun i hd => ?_, fun i hd => ?_, fun hd => ?_⟩
    all_goals rw [hd] at hop
    · refine leaves_go (hop.trans (congrArg Run.go ?_))
      simp only [Run.putLanes, List.map_replicate, ofNat_immNumber]
      rfl
    · refine leaves_go (hop.trans (congrArg Run.go ?_))
      simp only [Run.put, ofNat_immNumber]
      rfl
    · refine leaves_go (hop.trans (congrArg Run.go ?_))
      rw [immNumber_plain h hm (by simp [hd]) (by simp [hd])]
      rfl
    · refine leaves_go (hop.trans (congrArg Run.go ?_))
      rw [immNumber_plain h hm (by simp [hd]) (by simp [hd])]
      rfl
    · exact ⟨_, leaves_go hop, fun l hl => getLsbD_lowMask hl⟩
  case mmov =>
    have hop : microOp e r u = microMov r u := by simp only [microOp, hm]
    refine ⟨fun i j hd hs => ?_, fun i hd hs => ?_, fun hd => ?_, fun i hd => ?_, fun i hd => ?_, fun i hd => ?_⟩
    · refine writesLanes_of_putLanes (x := r.lane u.sa) hd ?_
      rw [hop, microMov, hd, hs]
    · refine writesLanes_of_putLanes (x := fun l => if r.mask.getLsbD l then 1 else 0) hd ?_
      rw [hop, microMov, hd, hs]
    · refine ⟨_, leaves_go (t := { r with mask := BitVec.ofNat 64 (maskOf fun l => a l != 0) }) ?_, fun l hl => ?_⟩
      · rw [hop, microMov, hd]
        rfl
      · rw [getLsbD_maskOf _ hl, Bool.eq_iff_iff, bne_iff_ne, decide_eq_true_iff]
    all_goals
      refine leaves_go ?_
      rw [hop, microMov, hd]
      rfl
  case mldr =>
    intro row col view
    have hview : e.view r (r.scal u.sa) = view := RunEnv.view_eq ..
    exact ⟨fun hv => microOp_mldr_none hm (hview.trans hv), fun v hv hf => writesLanes_mldr h hm (hview.trans hv) hf⟩
  case mstr =>
    intro row col
    refine ⟨microOp_mstr_none hm, fun v hc hv hf => ?_⟩
    intro elem on
    have helem (l : Nat) : storedElem e r u v l = elem l := narrow_eq hf ..
    have hon (l : Nat) : l ∈ storedLanes r u v ↔ on l := mem_storedLanes
    obtain ⟨x, hx, hrun, hjump, hfin, hfl⟩ := microOp_mstr_stores (u := u) (r := r) hm hc hv
    refine ⟨x, storedGrid e r u v, hx, hrun, hjump, hfin, fun l fl => ?_, fun l hl _ hcol => ?_, fun i j hnot => ?_⟩
    · rw [hfl, hon, helem]
    · exact (cellOf_storeRow ((hon l).mpr hl) hcol).trans (congrArg Prod.fst (helem l))
    · exact cellOf_storeRow_other fun ⟨l, hl, hi, hj⟩ => hnot ⟨l, (hon l).mp hl, hi, hj⟩
  case floats =>
    have lane {m : Mop} {v : Nat → Nat × Flags} (hmem : m ∈ laneMops)
        (hv : ∀ l < 64, laneArith ro { u with mop := m } l (a l) (b l) (c l) = v l) (hm : u.mop = m) : lanes v := writesLanes_arith h hm hmem hv
    refine ⟨lane (by decide) fun _ _ => if_pos hf, lane (by decide) fun _ _ => if_pos hf, lane (by decide) fun _ _ => if_pos hf,
      lane (by decide) fun _ _ => if_pos hf, lane (by decide) fun _ _ => if_pos hf, lane (by decide) fun _ _ => if_pos hf,
      lane (by decide) fun _ _ => if_pos hf, lane (by decide) fun l _ => ?_, lane (by decide) fun _ _ => if_pos hf,
      lane (by decide) fun _ _ => if_pos hf, lane (by decide) fun _ _ => if_pos hf, lane (by decide) fun _ _ => if_pos hf⟩
    exact (if_pos hf).trans (Prod.ext (negate_word (r.lane_lt ..)) rfl)
  case ints =>
    have lane {m : Mop} {v : Nat → Nat × Flags} (hmem : m ∈ laneMops)
        (hv : ∀ l < 64, laneArith ro { u with mop := m } l (a l) (b l) (c l) = v l) (hm : u.mop = m) : lanes v := writesLanes_arith h hm hmem hv
    exact ⟨lane (by decide) fun _ _ => (if_neg hf).trans (hfits _), lane (by decide) fun _ _ => (if_neg hf).trans (hfits _),
      lane (by decide) fun _ _ => (if_neg hf).trans (hfits _), lane (by decide) fun _ _ => (if_neg hf).trans (hfits _),
      lane (by decide) fun _ _ => (if_neg hf).trans (min_fitted hw (r.lane_lt ..) (r.lane_lt ..) _),
      lane (by decide) fun _ _ => (if_neg hf).trans (max_fitted hw (r.lane_lt ..) (r.lane_lt ..) _),
      lane (by decide) fun _ _ => (if_neg hf).trans (hfits _), lane (by decide) fun _ _ => (if_neg hf).trans (hfits _)⟩
  case mcmp =>
    have himm : u.imm.toNat ≤ 7 := by simpa [immOk, hm] using microOk_imm h
    have hmod : u.imm.toNat % 8 = u.imm.toNat := Nat.mod_eq_of_lt (by omega)
    obtain ⟨x, k, hx, hrun, hjump, hfin, hmask, hfl⟩ := microOp_mcmp (e := e) (r := r) hm
    refine ⟨x, k, hx, hrun, hjump, hfin, fun hf => ?_, fun hf => ?_⟩
    · have hlane (l : Nat) : compareLane e r u l = fvCompare imm (real (a l)) (real (b l)) := by
        rw [compareLane, if_pos hf, hmod]
      exact ⟨fun l hl => (hmask l hl).trans (congrArg Prod.fst (hlane l)), fun l fl => by rw [hfl, hlane]⟩
    · have hlane (l : Nat) : compareLane e r u l = (cmpCond imm (int (a l)) (int (b l)) (a l) (b l), 0) := by
        rw [compareLane, if_neg hf, hmod]
      refine ⟨List.eq_nil_iff_forall_not_mem.mpr fun p hp => ?_, fun l hl => (hmask l hl).trans ((congrArg Prod.fst (hlane l)).trans ?_)⟩
      · obtain ⟨-, h0, h1⟩ := (hfl p.1 p.2).mp hp
        rw [hlane] at h0
        exact h1 h0
      · have hle : imm ≤ 7 := himm
        match imm, hle with
        | 0, _ | 1, _ | 2, _ | 3, _ | 4, _ | 5, _ => rfl
        | 6, _ => exact Bool.eq_iff_iff.mpr (bne_iff_ne.trans decide_eq_true_iff.symm)
        | 7, _ => exact Bool.eq_iff_iff.mpr (beq_iff_eq.trans decide_eq_true_iff.symm)
        | k + 8, hk => exact absurd hk (by omega)
  case msel => exact fun hm => writesLanes_of_each h (by rw [hm]; rfl) (by simp only [microOp, hm]; rfl) fun _ _ => rfl
  case mand => exact fun hm => writesLanes_of_each h (by rw [hm]; rfl) (by simp only [microOp, hm]; rfl) fun _ _ => rfl
  case mor => exact fun hm => writesLanes_of_each h (by rw [hm]; rfl) (by simp only [microOp, hm]; rfl) fun _ _ => rfl
  case mxor => exact fun hm => writesLanes_of_each h (by rw [hm]; rfl) (by simp only [microOp, hm]; rfl) fun _ _ => rfl
  case mred =>
    intro on v put add w silent quiet
    have hwfmt : w.fmt = if u.mf = 0 then .f32 else if u.mf = 1 then .s32 else .z32 := rfl
    refine ⟨reduces_none hm hd, fun h0 hf hlen d hone => ?_, fun l h0 hf hl => reduces_one hm hd h0 hf hl,
      fun h0 hf hne => reduces_sum hm hd h0 hf hne rfl, fun h1 hne => reduces_extreme hm hd (max := true) h1 hne hwfmt rfl,
      fun h2 hne => reduces_extreme hm hd (max := false) h2 hne hwfmt rfl⟩
    have hlen' : (on.map a).length = on.length := List.length_map ..
    have hraised (l : Nat) (fl : Flags) : RaisedFrom ro (on.map a) on 0 l fl ↔ ∃ lv p, 2 * p + 1 < treeWidth on.length lv ∧
        l = on.getD (p * 2 ^ (lv + 1)) 0 ∧ fl = (add lv p (treeNode add v lv (2 * p)).1 (treeNode add v lv (2 * p + 1)).1).2 := by
      rw [RaisedFrom, hlen']
      exact ⟨fun ⟨j, p, _, hp, hn, hfl⟩ => ⟨j, p, hp, hn, hfl⟩, fun ⟨j, p, hp, hn, hfl⟩ => ⟨j, p, Nat.zero_le j, hp, hn, hfl⟩⟩
    obtain ⟨x, hx, hjump, hfin, hrun, hfl⟩ := reduces_tree (u := u) (e := e) hm hd h0 hf hlen hone
    exact ⟨x, hx, hjump, hfin, hrun, fun l fl => (hfl l fl).trans (and_congr_left' (hraised l fl))⟩
  case mqop =>
    intro x y less z
    obtain ⟨n, hop, hn⟩ := microOp_mqop (e := e) (r := r) h hm
    have hz : BitVec.ofNat 32 n = z := hn
    refine ⟨fun i hd => ?_, fun i hd => ?_, fun i hd => ?_⟩
    all_goals
      refine leaves_go (hop.trans (congrArg Run.go ?_))
      rw [hd, ← hz]
      rfl
  case mloop =>
    refine ⟨fun h0 => leaves_go (microOp_mloop_done hm h0), fun h0 => ⟨_, microOp_mloop_counts hm h0, ?_, rfl, ?_, rfl⟩⟩
    · rw [hd]
      rfl
    · rw [target_lt h hcode (Or.inl hm)]
  case mbrnz =>
    refine ⟨_, by simp only [microOp, hm]; rfl, rfl, rfl, ?_, rfl⟩
    dsimp only
    rw [target_lt h hcode (Or.inr hm)]
  case mtrap =>
    have himm : u.imm.toNat ≤ 255 := by simpa [immOk, hm] using microOk_imm h
    have hop : microOp e r u = .error (trapOf 0x12 (u.imm.toNat % 256)) := by simp only [microOp, hm]; rfl
    exact hop.trans (by rw [Nat.mod_eq_of_lt (by omega)])
  case mend => exact ⟨_, by simp only [microOp, hm]; rfl, rfl, rfl, rfl⟩
  case macc =>
    exact ⟨microOp_acc_none (Or.inl hm), fun acc ha => ⟨microOp_macc_outside ha hm, writesLanes_macc ha h hm⟩⟩
  case maccw =>
    refine ⟨microOp_acc_none (Or.inr hm), fun acc ha => ⟨microOp_maccw_outside ha hm, fun hrow hlen => ?_⟩⟩
    obtain ⟨x, hx, hjump, hfin, hrun, hfl⟩ := microOp_maccw_writes (e := e) (u := u) ha hm hrow
    refine ⟨x, _, hx, hjump, hfin, hrun, ?_⟩
    intro at'
    have hbound {l : Nat} (hl : l < acc.cols) : at' + l < r.shadow.length := by
      have : (r.scal u.sb + 1) * acc.cols ≤ acc.rows * acc.cols := Nat.mul_le_mul_right _ hrow
      rw [Nat.succ_mul] at this
      omega
    have hword {l : Nat} (hl : l < acc.cols) := getD_storeAcc (at' := at') (val := fun l => BitVec.ofNat 36 (accElem e r u l).1)
      (List.mem_range.mpr hl) (hbound hl)
    refine ⟨fun l hl => ⟨fun hf => ?_, fun hf => ?_⟩, fun i hi => getD_storeAcc_other fun l hl => ?_, fun l fl => ?_⟩
    · have hread : readInt .s32 (a l) = (BitVec.ofNat 32 (a l)).toInt := sint_eq_toInt 32 (a l)
      rw [hword hl, accElem, if_neg hf, ofNat_wrapNat, hread, BitVec.signExtend]
    · rw [hword hl, accElem, if_pos hf]
    · have := List.mem_range.mp hl
      omega
    · rw [hfl, accElem]
      by_cases hf : u.mf = 0
      · simp only [hf, if_true, true_and]
        rfl
      · simp only [hf, if_false, false_and, and_false, iff_false]
        exact fun ⟨_, h0, h1⟩ => h1 h0

end Sys2Proof.Machine
end
